-- ==== Sys2Proof/Word.lean ====
section
/-! DEFINITION. The word types of the Trieth T3 and the sparse maps that hold its indexed state. -/

namespace Sys2Proof

/-- A byte of storage. -/
abbrev Byte := BitVec 8

/-- A 64-bit scalar: a task register, an element register, a literal, a token payload (R20, R56, R194). -/
abbrev Word := BitVec 64

/-- A 32-bit lane, and the 32-bit instruction word (R56, R175). -/
abbrev Lane := BitVec 32

/-- A finite map from numbers to values: keys strictly rising, an absent key reads as the reader's default. -/
abbrev NMap (α : Type) := List (Nat × α)

/-- The value at a key, or `d` where the map lists none. -/
def NMap.get {α : Type} (m : NMap α) (k : Nat) (d : α) : α :=
  match m with
  | [] => d
  | (k', v) :: r => if k' = k then v else NMap.get r k d

/-- The value listed at a key, if any. -/
def NMap.find {α : Type} (m : NMap α) (k : Nat) : Option α :=
  match m with
  | [] => none
  | (k', v) :: r => if k' = k then some v else NMap.find r k

/-- List a value at a key, replacing the one listed there, keeping the keys in rising order. -/
def NMap.set {α : Type} (m : NMap α) (k : Nat) (v : α) : NMap α :=
  match m with
  | [] => [(k, v)]
  | (k', v') :: r =>
    if k < k' then (k, v) :: (k', v') :: r
    else if k' = k then (k, v) :: r
    else (k', v') :: NMap.set r k v

/-- Take a key out of the map. -/
def NMap.erase {α : Type} (m : NMap α) (k : Nat) : NMap α :=
  match m with
  | [] => []
  | (k', v') :: r => if k' = k then NMap.erase r k else (k', v') :: NMap.erase r k

/-- The keys of a map rise strictly. -/
def NMap.sorted {α : Type} : NMap α → Bool
  | [] => true
  | [_] => true
  | (k, _) :: (k', v') :: r => decide (k < k') && NMap.sorted ((k', v') :: r)

end Sys2Proof
end

