-- ==== Sys2Proof/Syntax.lean ====
section
/-! DEFINITION. The abstract syntax: one constructor for each row of spec/opcode_table.json.
Encoded rows carry the five fields of the E-form (R175); the 64-bit literal of the slot is state (R176).
Rows without an encoding are steps of engines, loader and hub: they carry where they happen and what comes
from outside the device (95_what_each_step_holds.md). -/

namespace Sys2Proof

/-- The fields of an E-form word beside its opcode (R175). -/
structure Fields where
  /-- srcA, bits [23:19]. -/
  a : BitVec 5
  /-- srcB, bits [18:14]. -/
  b : BitVec 5
  /-- dstA, bits [13:9]. -/
  d : BitVec 5
  /-- dstB, bits [8:4]: second destination, third source, or immediate (R178). -/
  e : BitVec 5
  /-- tag action, bits [3:0] (R34). -/
  t : BitVec 4
  deriving DecidableEq, Repr, Inhabited

/-- One constructor per row of the opcode table. -/
inductive Instr where
  /-- nop (R198): Fires on its sources, consumes them and emits nothing. -/
  | iNop (f : Fields)
  /-- add (R198): Integer sum of a and b modulo 2^W. -/
  | iAdd (f : Fields)
  /-- sub (R198): Integer difference a minus b. -/
  | iSub (f : Fields)
  /-- mul (R198): Low W bits of a times b. -/
  | iMul (f : Fields)
  /-- mulh (R198): High W bits of the signed product. -/
  | iMulh (f : Fields)
  /-- mulhu (R198): High W bits of the unsigned product. -/
  | iMulhu (f : Fields)
  /-- div (R199): Signed quotient truncated toward zero, never faulting. -/
  | iDiv (f : Fields)
  /-- divu (R199): Unsigned quotient, all ones on division by zero. -/
  | iDivu (f : Fields)
  /-- rem (R199): Signed remainder with the sign of a. -/
  | iRem (f : Fields)
  /-- remu (R199): Unsigned remainder. -/
  | iRemu (f : Fields)
  /-- neg (R198): Zero minus a. -/
  | iNeg (f : Fields)
  /-- abs (R198): Absolute value of signed a, wrapping at the minimum. -/
  | iAbs (f : Fields)
  /-- adds (R198): Signed saturating sum. -/
  | iAdds (f : Fields)
  /-- subs (R198): Signed saturating difference. -/
  | iSubs (f : Fields)
  /-- mad (R198): a times b plus the third source c. -/
  | iMad (f : Fields)
  /-- lea (R198): a plus b scaled by the operand width in bytes. -/
  | iLea (f : Fields)
  /-- and (R200): Bitwise and. -/
  | iAnd (f : Fields)
  /-- or (R200): Bitwise or. -/
  | iOr (f : Fields)
  /-- xor (R200): Bitwise exclusive or. -/
  | iXor (f : Fields)
  /-- andn (R200): a and not b. -/
  | iAndn (f : Fields)
  /-- not (R200): Bitwise complement. -/
  | iNot (f : Fields)
  /-- shl (R200): Shift left by b mod W. -/
  | iShl (f : Fields)
  /-- shr (R200): Logical shift right. -/
  | iShr (f : Fields)
  /-- sra (R200): Arithmetic shift right. -/
  | iSra (f : Fields)
  /-- rol (R200): Rotate left. -/
  | iRol (f : Fields)
  /-- popc (R200): Population count of a. -/
  | iPopc (f : Fields)
  /-- clz (R200): Count of leading zeros. -/
  | iClz (f : Fields)
  /-- ctz (R200): Count of trailing zeros. -/
  | iCtz (f : Fields)
  /-- bext (R200): Extracts the bit field of a described by b. -/
  | iBext (f : Fields)
  /-- bins (R200): Inserts b's low bits into the field of a described by c. -/
  | iBins (f : Fields)
  /-- brev (R200): Reverses the bits of a. -/
  | iBrev (f : Fields)
  /-- bswap (R200): Reverses the bytes of a. -/
  | iBswap (f : Fields)
  /-- mov (R201): Copies a to the destinations. -/
  | iMov (f : Fields)
  /-- seq (R201): 1 if a equals b. -/
  | iSeq (f : Fields)
  /-- sne (R201): 1 if a differs from b. -/
  | iSne (f : Fields)
  /-- slt (R201): 1 if a is less than b, signed. -/
  | iSlt (f : Fields)
  /-- sle (R201): 1 if a is at most b, signed. -/
  | iSle (f : Fields)
  /-- sltu (R201): 1 if a is less than b, unsigned. -/
  | iSltu (f : Fields)
  /-- sleu (R201): 1 if a is at most b, unsigned. -/
  | iSleu (f : Fields)
  /-- sel (R201): a if predicate c is nonzero, else b. -/
  | iSel (f : Fields)
  /-- min (R201): Signed minimum. -/
  | iMin (f : Fields)
  /-- max (R201): Signed maximum. -/
  | iMax (f : Fields)
  /-- minu (R201): Unsigned minimum. -/
  | iMinu (f : Fields)
  /-- maxu (R201): Unsigned maximum. -/
  | iMaxu (f : Fields)
  /-- clamp (R201): Clamps a between b and c, signed. -/
  | iClamp (f : Fields)
  /-- sext (R201): Sign-extends the low b bits of a. -/
  | iSext (f : Fields)
  /-- zext (R201): Zero-extends the low b bits of a. -/
  | iZext (f : Fields)
  /-- lane (R201): Emits lane b mod L of a as a scalar token. -/
  | iLane (f : Fields)
  /-- fadd (R202): FP32 sum rounded with RNE. -/
  | iFadd (f : Fields)
  /-- fsub (R202): FP32 difference. -/
  | iFsub (f : Fields)
  /-- fmul (R202): FP32 product. -/
  | iFmul (f : Fields)
  /-- fma (R202): a times b plus c with one rounding. -/
  | iFma (f : Fields)
  /-- fms (R202): a times b minus c with one rounding. -/
  | iFms (f : Fields)
  /-- fnma (R202): Minus a times b plus c with one rounding. -/
  | iFnma (f : Fields)
  /-- fmin (R203): FP32 minimum with NaN and signed-zero rules. -/
  | iFmin (f : Fields)
  /-- fmax (R203): FP32 maximum with NaN and signed-zero rules. -/
  | iFmax (f : Fields)
  /-- fabs (R202): Clears the sign bit. -/
  | iFabs (f : Fields)
  /-- fneg (R202): Inverts the sign bit. -/
  | iFneg (f : Fields)
  /-- feq (R203): 1 if a equals b as FP32. -/
  | iFeq (f : Fields)
  /-- flt (R203): 1 if a is less than b as FP32. -/
  | iFlt (f : Fields)
  /-- fle (R203): 1 if a is at most b as FP32. -/
  | iFle (f : Fields)
  /-- fclass (R203): Sets one bit naming a's class. -/
  | iFclass (f : Fields)
  /-- fdiv (R202): FP32 quotient. -/
  | iFdiv (f : Fields)
  /-- fsqrt (R202): FP32 square root. -/
  | iFsqrt (f : Fields)
  /-- lut.ev (R205): Evaluates the piecewise cubic of the segment holding a. -/
  | iLutEv (f : Fields)
  /-- lut.ix (R205): Returns c0 of the clamped table entry indexed by a. -/
  | iLutIx (f : Fields)
  /-- rred.exp (R206): Range reduction for the exponential. -/
  | iRredExp (f : Fields)
  /-- rred.log (R206): Range reduction for the logarithm. -/
  | iRredLog (f : Fields)
  /-- rred.trig (R206): Range reduction by pi over 2. -/
  | iRredTrig (f : Fields)
  /-- scalb (R207): a times 2^b rounded to FP32. -/
  | iScalb (f : Fields)
  /-- frcp.e (R207): Fixed-bit reciprocal estimate. -/
  | iFrcpE (f : Fields)
  /-- frsq.e (R207): Fixed-bit reciprocal square root estimate. -/
  | iFrsqE (f : Fields)
  /-- cvt (R209): Converts FP32 a to the literal's format under its rounding and saturation. -/
  | iCvt (f : Fields)
  /-- cvt.sr (R209): Stochastic conversion of value lanes with matched random lanes. -/
  | iCvtSr (f : Fields)
  /-- cvtf.i (R210): FP32 to saturated integer. -/
  | iCvtfI (f : Fields)
  /-- cvti.f (R210): Integer to FP32 with RNE. -/
  | iCvtiF (f : Fields)
  /-- pack (R211): Converts and packs FP32 lanes into narrow elements. -/
  | iPack (f : Fields)
  /-- unpack (R211): Decodes packed elements into FP32 or integer lanes. -/
  | iUnpack (f : Fields)
  /-- bscale (R212): Multiplies or divides a by a binary8 scale. -/
  | iBscale (f : Fields)
  /-- mkdesc (R212): Builds a block word whose scale fits the largest magnitude a. -/
  | iMkdesc (f : Fields)
  /-- amax (R212): Largest absolute lane value by the fixed tree. -/
  | iAmax (f : Fields)
  /-- vsum (R213): Sums the lanes by the fixed pairwise tree. -/
  | iVsum (f : Fields)
  /-- vmax (R213): Greatest lane. -/
  | iVmax (f : Fields)
  /-- vmin (R213): Least lane. -/
  | iVmin (f : Fields)
  /-- vscan (R213): Sequential running sums of the lanes. -/
  | iVscan (f : Fields)
  /-- vperm (R214): Permutes lanes by indices in b. -/
  | iVperm (f : Fields)
  /-- vsplat (R214): Emits n lanes of one value. -/
  | iVsplat (f : Fields)
  /-- vslide (R214): Shifts lanes by a signed offset. -/
  | iVslide (f : Fields)
  /-- vext (R214): Extracts a sub-run of lanes. -/
  | iVext (f : Fields)
  /-- vins (R214): Replaces lane c of a with b. -/
  | iVins (f : Fields)
  /-- filt (R215): Keeps the lanes whose predicate is true as an indexed token. -/
  | iFilt (f : Fields)
  /-- cmpct (R216): Stages surviving lanes per thread into dense numbered runs of 32. -/
  | iCmpct (f : Fields)
  /-- split (R214): Splits a run at lane s into two tokens. -/
  | iSplit (f : Fields)
  /-- cat (R214): Concatenates the lanes of a and b. -/
  | iCat (f : Fields)
  /-- vcnt (R213): Counts nonzero lanes. -/
  | iVcnt (f : Fields)
  /-- argmx (R213): Winning value and its lane index. -/
  | iArgmx (f : Fields)
  /-- steer (R219): Routes a to the true or false arm by predicate b. -/
  | iSteer (f : Fields)
  /-- merge (R220): Forwards whichever source holds a token. -/
  | iMerge (f : Fields)
  /-- gate (R219): Forwards a when the predicate or pulse allows. -/
  | iGate (f : Fields)
  /-- join (R220): Forwards a once both sources have matched. -/
  | iJoin (f : Fields)
  /-- reord (R221): Emits each thread's tokens in ascending iteration order without gaps. -/
  | iReord (f : Fields)
  /-- sink (R222): Counts error and fault tokens for the completion record and emits their payloads. -/
  | iSink (f : Fields)
  /-- eor (R223): Marks end-of-round each time its lane counter reaches the round length. -/
  | iEor (f : Fields)
  /-- itgen (R223): Generates runs of iterations covering 0 to count minus 1. -/
  | iItgen (f : Fields)
  /-- cmpfw (R226): Tournament node comparing candidates and handling exclusions. -/
  | iCmpfw (f : Fields)
  /-- topk.rp (R227): Emits winner j and replays exclusions to the tree. -/
  | iTopkRp (f : Fields)
  /-- rnorm (R228): Normalises k gate weights with a gate-zero fallback. -/
  | iRnorm (f : Fields)
  /-- tagset (R224): Forwards a with thread and iteration from b. -/
  | iTagset (f : Fields)
  /-- ctl.out (R224): Sends one pulse on each circuit of the named control port. -/
  | iCtlOut (f : Fields)
  /-- ctl.wt (R224): Fires once n pulses wait and consumes them. -/
  | iCtlWt (f : Fields)
  /-- err.mk (R224): Emits an error token of a program cause. -/
  | iErrMk (f : Fields)
  /-- fin (R224): Emits a word only after all earlier firings of the element have emitted. -/
  | iFin (f : Fields)
  /-- br (R230): Unconditional branch to the literal slot. -/
  | iBr (f : Fields)
  /-- bz (R230): Branches when a is zero. -/
  | iBz (f : Fields)
  /-- bnz (R230): Branches when a is nonzero. -/
  | iBnz (f : Fields)
  /-- blt (R230): Branches when a is less than b, signed. -/
  | iBlt (f : Fields)
  /-- bge (R230): Branches when a is at least b, signed. -/
  | iBge (f : Fields)
  /-- bltu (R230): Branches when a is less than b, unsigned. -/
  | iBltu (f : Fields)
  /-- bgeu (R230): Branches when a is at least b, unsigned. -/
  | iBgeu (f : Fields)
  /-- call (R231): Saves pc+1 in s23 and jumps to the literal slot. -/
  | iCall (f : Fields)
  /-- ret (R231): Jumps to the slot in s23. -/
  | iRet (f : Fields)
  /-- jr (R231): Jumps to the slot in a, optionally linking in d. -/
  | iJr (f : Fields)
  /-- wait (R233): Blocks until each class's outstanding count is at or below its immediate. -/
  | iWait (f : Fields)
  /-- wtag.any (R234): Blocks until any masked copy tag is done and returns them. -/
  | iWtagAny (f : Fields)
  /-- wtag.all (R234): Blocks until every masked copy tag is done. -/
  | iWtagAll (f : Fields)
  /-- ftag (R234): Returns the lowest done masked tag without blocking. -/
  | iFtag (f : Fields)
  /-- ctag (R234): Clears masked done bits. -/
  | iCtag (f : Fields)
  /-- rep (R232): Repeats the next n slots a times from the repeat buffer. -/
  | iRep (f : Fields)
  /-- ld.b (R255): Loads bytes, zero-extended. -/
  | iLdB (f : Fields)
  /-- ld.h (R255): Loads halfwords. -/
  | iLdH (f : Fields)
  /-- ld.w (R255): Loads words. -/
  | iLdW (f : Fields)
  /-- ld.d (R255): Loads doublewords. -/
  | iLdD (f : Fields)
  /-- st.b (R255): Stores bytes. -/
  | iStB (f : Fields)
  /-- st.h (R255): Stores halfwords. -/
  | iStH (f : Fields)
  /-- st.w (R255): Stores words. -/
  | iStW (f : Fields)
  /-- st.d (R255): Stores doublewords. -/
  | iStD (f : Fields)
  /-- vld (R256): Loads one element per lane at the generator's addresses. -/
  | iVld (f : Fields)
  /-- vst (R256): Stores one element per lane at the generator's addresses. -/
  | iVst (f : Fields)
  /-- ldt (R257): Transposed load emitting one token per element column. -/
  | iLdt (f : Fields)
  /-- sts (R258): Stores each lane plainly and at the transposed place. -/
  | iSts (f : Fields)
  /-- gld (R259): Gathers elements by lane indices. -/
  | iGld (f : Fields)
  /-- sst (R259): Scatters value lanes by index lanes. -/
  | iSst (f : Fields)
  /-- ld.acq (R255): Load that is an acquire at its scope. -/
  | iLdAcq (f : Fields)
  /-- st.rel (R255): Store that is a release at its scope. -/
  | iStRel (f : Fields)
  /-- amo.add (R260): Atomic add at home, returning the old value. -/
  | iAmoAdd (f : Fields)
  /-- amo.and (R260): Atomic and. -/
  | iAmoAnd (f : Fields)
  /-- amo.or (R260): Atomic or. -/
  | iAmoOr (f : Fields)
  /-- amo.xor (R260): Atomic exclusive or. -/
  | iAmoXor (f : Fields)
  /-- amo.min (R260): Atomic signed minimum. -/
  | iAmoMin (f : Fields)
  /-- amo.max (R260): Atomic signed maximum. -/
  | iAmoMax (f : Fields)
  /-- amo.swp (R260): Atomic swap. -/
  | iAmoSwp (f : Fields)
  /-- amo.cas (R260): Atomic compare-and-swap. -/
  | iAmoCas (f : Fields)
  /-- cmb (R262): Sends a counted contribution to the home's combine store. -/
  | iCmb (f : Fields)
  /-- cmb.f (R262): Sends a ranked f32 contribution summed in rank order. -/
  | iCmbF (f : Fields)
  /-- srd (R263): Acquire read of a structure word, deferred while not full. -/
  | iSrd (f : Fields)
  /-- swr (R263): Release write of a structure word, answering deferred readers. -/
  | iSwr (f : Fields)
  /-- sclr (R263): Clears a full structure word to empty. -/
  | iSclr (f : Fields)
  /-- sprb (R263): Probes a structure word's state and value without waiting. -/
  | iSprb (f : Fields)
  /-- fence (R264): Acquire and release at a scope, covering UN writes. -/
  | iFence (f : Fields)
  /-- bar (R265): Arrives at a region barrier with a byte count and waits for release. -/
  | iBar (f : Fields)
  /-- cp (R267): Porter copy of len bytes. -/
  | iCp (f : Fields)
  /-- cp2 (R267): Porter copy of strided rows. -/
  | iCp2 (f : Fields)
  /-- cpg (R267): Porter gather of blocks through a block table. -/
  | iCpg (f : Fields)
  /-- cps (R267): Porter fill of rows with an 8-byte pattern. -/
  | iCps (f : Fields)
  /-- plf (R270): Starts filling a non-active plane of an element from a plane image. -/
  | iPlf (f : Fields)
  /-- xlt (R271): Translates a virtual address into a window. -/
  | iXlt (f : Fields)
  /-- xinv (R273): Starts a shoot-down from steward code. -/
  | iXinv (f : Fields)
  /-- win.chk (R272): Tests a window register's validity and extent. -/
  | iWinChk (f : Fields)
  /-- bmc.inv (R274): Invalidates block-map cache entries of a table range. -/
  | iBmcInv (f : Fields)
  /-- mig (R275): Installs a page migration request at a memory controller. -/
  | iMig (f : Fields)
  /-- triad (R278): Checks a descriptor and queues the contraction. -/
  | iTriad (f : Fields)
  /-- thold (R281): Loads the hold files from a HELD descriptor. -/
  | iThold (f : Fields)
  /-- tdrain (R282): Drains a bank through its epilogue. -/
  | iTdrain (f : Fields)
  /-- tzero (R283): Clears a bank. -/
  | iTzero (f : Fields)
  /-- tacc (R284): Reads one accumulator outside the queues. -/
  | iTacc (f : Fields)
  /-- tcomb (R285): Checks a descriptor's class and families only. -/
  | iTcomb (f : Fields)
  /-- tstat (R286): Reads bank or sequencer status. -/
  | iTstat (f : Fields)
  /-- tabort (R287): Queues an abort of the queue's earlier operations. -/
  | iTabort (f : Fields)
  /-- trag (R288): Binds a descriptor to a thread for ragged products. -/
  | iTrag (f : Fields)
  /-- tscl (R283): Queues a load of the row scale, column scale or bias vector. -/
  | iTscl (f : Fields)
  /-- tpri (R289): Sets the sequencer queue policy. -/
  | iTpri (f : Fields)
  /-- sk.init (R291): Initialises a sketch from a scratchpad template. -/
  | iSkInit (f : Fields)
  /-- sk.add (R291): Adds values into a sketch's rows. -/
  | iSkAdd (f : Fields)
  /-- sk.qry (R291): Returns the median estimate for each index. -/
  | iSkQry (f : Fields)
  /-- sk.merge (R291): Adds a source sketch into the addressed sketch. -/
  | iSkMerge (f : Fields)
  /-- sk.scale (R291): Scales every counter by an FP32 factor. -/
  | iSkScale (f : Fields)
  /-- sk.clr (R291): Zeroes counters and flags. -/
  | iSkClr (f : Fields)
  /-- sk.rd (R291): Reads raw counters of one row. -/
  | iSkRd (f : Fields)
  /-- sk.stat (R291): Returns the sketch header's first word. -/
  | iSkStat (f : Fields)
  /-- rt.cnt (R293): Counts each row in the live route bank and forwards it. -/
  | iRtCnt (f : Fields)
  /-- rt.snap (R294): Flips the route banks and writes the old one. -/
  | iRtSnap (f : Fields)
  /-- rsort (R295): Starts a stable sort of expert-token words. -/
  | iRsort (f : Fields)
  /-- rt.map (R296): Routes rows to physical experts by the replica table. -/
  | iRtMap (f : Fields)
  /-- tnd.call (R297): Hands a tendered record to the Crier. -/
  | iTndCall (f : Fields)
  /-- tnd.wd (R298): Withdraws this tile's award unless go came first. -/
  | iTndWd (f : Fields)
  /-- tnd.cost (R299): Computes this tile's cost for a record without bidding. -/
  | iTndCost (f : Fields)
  /-- tnd.st (R300): Returns the state of a tender. -/
  | iTndSt (f : Fields)
  /-- job.spawn (R235): Reads a record and appends it to a stream. -/
  | iJobSpawn (f : Fields)
  /-- job.join (R236): Decrements a waiting record's join counter. -/
  | iJobJoin (f : Fields)
  /-- done (R237): Ends the context with a status after its counters drain. -/
  | iDone (f : Fields)
  /-- sig (R238): Sends a progress record to the completion target. -/
  | iSig (f : Fields)
  /-- rng.seed (R304): Sets the tile generator's seed and zeroes its counter. -/
  | iRngSeed (f : Fields)
  /-- rng (R305): Draws words from the random-token generator. -/
  | iRng (f : Fields)
  /-- shf.go (R301): Runs a coded-shuffle plan under a copy tag. -/
  | iShfGo (f : Fields)
  /-- shf.fb (R302): Performs one receiver's uncoded transfer. -/
  | iShfFb (f : Fields)
  /-- hold.ins (R303): Inserts a block into the vault's holdings table. -/
  | iHoldIns (f : Fields)
  /-- hold.drop (R303): Removes a holdings entry after pending decodes. -/
  | iHoldDrop (f : Fields)
  /-- hold.q (R303): Queries a holdings entry. -/
  | iHoldQ (f : Fields)
  /-- trap (R241): Raises a software trap. -/
  | iTrap (f : Fields)
  /-- eret (R241): Returns from steward mode to tslot. -/
  | iEret (f : Fields)
  /-- ctl.rd (R242): Reads a control register. -/
  | iCtlRd (f : Fields)
  /-- ctl.wr (R242): Writes a control register. -/
  | iCtlWr (f : Fields)
  /-- brk (R241): Raises a breakpoint trap, or halts in steward mode. -/
  | iBrk (f : Fields)
  /-- halt (R247): Stops the context until resumed by debug register 0x0A5. -/
  | iHalt (f : Fields)
  /-- idle (R247): Blocks until a channel word, a done bit or a deferred trap. -/
  | iIdle (f : Fields)
  /-- cnt.rd (R243): Reads a cycle, work or fleet counter. -/
  | iCntRd (f : Fields)
  /-- swp.pl (R248): Requests a plane swap step at an element. -/
  | iSwpPl (f : Fields)
  /-- qsc (R249): Closes or reopens the team's intake and waits for quiescence. -/
  | iQsc (f : Fields)
  /-- pmt (R249): Asks the distributor to pre-empt the region. -/
  | iPmt (f : Fields)
  /-- ckpt (R249): Writes the team's checkpoint. -/
  | iCkpt (f : Fields)
  /-- rstor (R249): Reloads the team from a checkpoint. -/
  | iRstor (f : Fields)
  /-- id.rd (R244): Returns identity information. -/
  | iIdRd (f : Fields)
  /-- dbg.x (R246): Reads and optionally writes a debug register, arming breakpoints or resuming parts. -/
  | iDbgX (f : Fields)
  /-- ill (R191): The defined illegal instruction, trapping with cause 0x0C. -/
  | iIll (f : Fields)
  /-- GO_TOKEN (R23): Once every team's planes, stores, generators, data, routes and circuits are loaded, the loader sends the region's go token, which makes contexts runnable and resets per-region state. Argument: inst. -/
  | eGoToken
  /-- REGION_LOAD (R352): The loader reads and checks an image, chooses a placement and role map, writes every section and relocation, then sends go. Argument: inst; flag: the reads before placement end here, and placement comes with a later event. -/
  | eRegionLoad
  /-- LOADER_READ_WITHHELD (R429): An image read that meets a page without a valid translation is withheld, raises a page-fault record, and continues when the id is resolved. Argument: inst; x: the id of a new fault. -/
  | eLoaderReadWithheld
  /-- TOKEN_ARRIVAL (R33): A token arriving at an element is checked and accepted into a free matching-store entry, or back-pressures its arc when the store is full. Argument: inst, arc; flag: a soft error strikes its flit x, bits w0 of group id (8: the sideband). -/
  | eTokenArrival
  /-- ROUTER_HOP (R29): A router receives a token's flits, checks their parity and forwards them along the arc's route. Argument: inst, arc, the router of tile g; flag: a soft error strikes its flit x, bits w0 of group id (8: the sideband). -/
  | eRouterHop
  /-- ARC_TOKEN_DEPARTURE (R22): A token or word held at its sender by back-pressure leaves onto its arc once the destination has room. Argument: inst, arc. -/
  | eArcTokenDeparture
  /-- WINDOW_TOKEN_ARRIVAL (R101): A window token arriving at a memory port writes window register K at once, checks the generators bound to K, or is refused for win 11 to 15. Argument: inst, arc; flag: a soft error strikes its flit x, bits w0 of group id (8: the sideband). -/
  | eWindowTokenArrival
  /-- CONTROL_PULSE_ARRIVAL (R38): A pulse on a control circuit is counted at the destination control port, or held at the source when the count is full. Argument: inst, circ = arc. -/
  | eControlPulseArrival
  /-- CHANNEL_WORD_ARRIVAL (R22): A word arriving at a task channel is buffered in order and wakes a context blocked on that channel or on idle. Argument: inst, arc; flag: a soft error strikes its flit x, bits w0 of group id (8: the sideband). -/
  | eChannelWordArrival
  /-- FIRING (R31): An element fires the oldest matched set of a slot, consumes the overlap and pulses, computes and emits its results with the tag action applied. Argument: g, e. -/
  | eFiring
  /-- SINK_TOKEN_ENTRY (R222): An engine's error or fault token enters the sink slot's element without an arc, or is counted as stray when the team names no sink. Argument: inst. -/
  | eSinkTokenEntry
  /-- ITGEN_RUN_EMIT (R223): An itgen firing emits its next run of iterations, one per cycle, after the earlier runs. Argument: g, e, slot = c. -/
  | eItgenRunEmit
  /-- FIN_EMIT (R224): A fin word leaves once every token of every earlier firing of the element has left. Argument: g, e. -/
  | eFinEmit
  /-- CONTEXT_BREAKPOINT_TRAP (R245): A context reaching an armed task slot on the matching pass takes a breakpoint trap before it issues the slot. Argument: g, p = e, c. -/
  | eContextBreakpointTrap
  /-- DEFERRED_TRAP_TAKEN (R239): A deferred trap is taken before the context's next issue, waking a blocked context without executing the blocked instruction. Argument: g, p = e, c. -/
  | eDeferredTrapTaken
  /-- CONTEXT_END (R237): A context blocked in done ends once its ld, st, cp and tl counters reach zero. Argument: g, p = e, c. -/
  | eContextEnd
  /-- WATCHDOG_EXPIRY (R41): When the region's watchdog reaches 2^24 without progress, a hang token goes to team 0's sink and the region is discarded with cause hang. Argument: inst. -/
  | eWatchdogExpiry
  /-- ACCESS_AT_HOME (R116): A load, store, atomic or structure access is performed at its home, which reads or writes the location. Argument: id; lane = e where the lanes are independent; x: how many of the newest writes a load passes over that need not be visible to it; flag: a word read cannot be corrected. -/
  | eAccessAtHome
  /-- ACCESS_COMPLETION (R120): An access reaching its completion point returns data or a completion token and lowers its class counter. Argument: id. -/
  | eAccessCompletion
  /-- STRUCT_OP_AT_HOME (R107): The home performs srd, swr, sclr or sprb on a structure word, answering, deferring or refusing as the word's state decides. Argument: id; flag: the word cannot be corrected. -/
  | eStructOpAtHome
  /-- COMBINE_CONTRIBUTION (R109): A combine token opens or merges into an entry of the home's combine store, or is refused on mismatch, duplicate or bad rank. Argument: id; flag: a word cannot be corrected. -/
  | eCombineContribution
  /-- COMBINE_QUEUE_ADMIT (R109): A combine token waiting in the vault's combine queue opens an entry once one frees. Argument: v = e. -/
  | eCombineQueueAdmit
  /-- BARRIER_ARRIVAL (R114): A bar arrival at the barrier home adds 1 to arr and n to pend, or sets err on a barrier error. Argument: id; flag: a word cannot be corrected. -/
  | eBarrierArrival
  /-- PORTER_BEAT_LANDING (R114): A landing beat of a Porter copy is written at its destination and, with bv set, subtracts its bytes from the barrier's pend. Argument: id; e = 1 fetches, else lands; flag: the caches hold nothing for the address; c: newest writes passed over that need not be visible to it; x: the id of a new fault. -/
  | ePorterBeatLanding
  /-- COPY_LANDED (R268): When every destination write of a copy is performed, the cp and tag counts fall and the tag's done bit is set as a release. Argument: id. -/
  | eCopyLanded
  /-- SKETCH_OP_AT_UNIT (R140): The sketch unit performs one whole sketch operation after checking the headers, then emits its completion or result. Argument: id; c: counters of the source that a merge reads before this one's turn ends, less one; flag: a word cannot be corrected. -/
  | eSketchOpAtUnit
  /-- HOLDINGS_OP_AT_VAULT (R150): The vault performs a hold.ins, hold.drop or hold.q on its holdings table, in arrival order with decode lookups. Argument: id. -/
  | eHoldingsOpAtVault
  /-- SHUFFLE_ENTRY_CODE (R149): The coder checks an entry, reads its contributors, XORs them and multicasts one packet, or falls back or reports an invalid entry. Argument: id. -/
  | eShuffleEntryCode
  /-- SHUFFLE_PACKET_ADMIT (R151): A packet held by the coder enters a receiving vault's decode buffer once it has room. Argument: the receiving vault v = e, as 64 x chip + vault. -/
  | eShufflePacketAdmit
  /-- PACKET_DECODE (R151): A receiving vault looks up the cancel ids and, if all are held, writes p XOR the held blocks to dst. Argument: the receiving vault v = e, as 64 x chip + vault. -/
  | ePacketDecode
  /-- SHUFFLE_LANDED (R153): When every receiver of every valid entry has written its block, the shuffle's tag is set as a release. Argument: id. -/
  | eShuffleLanded
  /-- ROUTE_SNAPSHOT_WRITE (R160): After the bank flip, the route unit writes the old bank to the destination, clears it and completes the snapshot. Argument: id. -/
  | eRouteSnapshotWrite
  /-- SORTER_RUN (R161): The tile's sorter reads the source words once, writes them in ascending order and completes the rsort. Argument: id. -/
  | eSorterRun
  /-- GENERATOR_REQUEST_SERVE (R304): The random-token generator serves the next request in arrival order, giving it one run of counter words or applying a seed. Argument: id. -/
  | eGeneratorRequestServe
  /-- SEQUENCER_OP_START (R280): The sequencer starts the next queued triad operation under queue order and the tpri policy. Argument: g, high = flag. -/
  | eSequencerOpStart
  /-- BREAK_IN (R90): Under policy 0 a high-queue operation interrupts a low-queue one at an interruptible point, saving its state. Argument: g. -/
  | eBreakIn
  /-- FEEDER_SLICE_FETCH (R84): A W, N or T feeder delivers one slice into its staging FIFO, at most 8 steps ahead. Argument: g, op = e; c: newest writes passed over that need not be visible to it. -/
  | eFeederSliceFetch
  /-- TRIAD_STEP (R81): With all three slices present, the array applies one step to the accumulators or emits stream-mode results. Argument: g. -/
  | eTriadStep
  /-- STREAM_RESULT_TOKEN (R71): In stream modes a result token leaves on the och channel, and the array stalls while it cannot leave. Argument: g. -/
  | eStreamResultToken
  /-- CONTRACTION_COMPLETE (R278): A contraction whose last step is applied and last result has left completes, leaving the bank filled and lowering tl. Argument: g. -/
  | eContractionComplete
  /-- DRAIN_COMPLETE (R88): A drain's writes through the epilogue complete as a release and tl falls. Argument: g. -/
  | eDrainComplete
  /-- TACC_READ_SERVE (R87): A tacc read token at the accumulator node returns the values after the last accepted step. Argument: id. -/
  | eTaccReadServe
  /-- RAGGED_ROW_TOKEN (R91): A row token of the bound thread takes the next bank row of the open product, or raises stream-long beyond capacity. Argument: g, bank = e. -/
  | eRaggedRowToken
  /-- RAGGED_PASS (R91): When rows wait and the array is free, the sequencer runs one pass over all steps for them. Argument: g, bank = e. -/
  | eRaggedPass
  /-- RAGGED_END_TOKEN (R91): A control token of the bound thread marks the end of the open product. Argument: g, bank = e. -/
  | eRaggedEndToken
  /-- RAGGED_CLOSE (R91): Once the end token has arrived and all rows are applied, each row is drained to its output row, the bank is cleared and a count word is sent. Argument: g, bank = e. -/
  | eRaggedClose
  /-- TABORT_RUN (R287): When tabort reaches the sequencer it ends the running operation at an interruptible point, removes queued ones and ends the queue's ragged binding. Argument: g, high = flag. -/
  | eTabortRun
  /-- PLANE_FILL_COMPLETE (R270): A plf fill that passes its checks sets the next plane ready, lands for cp, and lets a waiting swap proceed. Argument: id; x: the id of a new fault. -/
  | ePlaneFillComplete
  /-- TRANSLATION_WALK (R390): A walk unit reads page-table entries and ends in a window, a permission fault token, or a withheld access with a page-fault record. Argument: id; flag: the caches hold nothing for the address; x: the id of a new fault. -/
  | eTranslationWalk
  /-- FAULT_LIMIT_EXPIRY (R398): When a withheld access's count reaches 2^flim cycles, the distributor pre-empts the region with cause 1. Argument: inst. -/
  | eFaultLimitExpiry
  /-- FAULT_RESOLVE (R397): Writing an id to fres makes every access withheld under it walk again from the root. Argument: t = arc, id. -/
  | eFaultResolve
  /-- SHOOTDOWN_REQUEST (R393): Writing tenant word 3 starts a shoot-down over the given range, waiting while busy. Argument: t = arc, v = w0. -/
  | eShootdownRequest
  /-- SHOOTDOWN_RECEIVE (R394): A node receiving a shoot-down drops covered entries, restarts covered walks, revokes covered windows and acknowledges. Argument: num = id, g. -/
  | eShootdownReceive
  /-- SHOOTDOWN_COMPLETE (R394): When every acknowledgement has arrived, busy clears or xinv leaves its st count. Argument: num = id. -/
  | eShootdownComplete
  /-- MIGRATION_LINE_COPY (R275): The memory controller merges pending combines of the next line, copies it and advances the progress pointer. Argument: stack = e, slot = c. -/
  | eMigrationLineCopy
  /-- PREEMPTION (R403): Pre-emption stops intake, settles tokens, lands copies, waits for interruptible points, checkpoints each team and frees the tiles. Argument: inst, cause = x. -/
  | ePreemption
  /-- REGION_RESUME (R406): A pre-empted region is restored on its tiles, its windows rechecked, its re-issue entries reissued and intake reopened. Argument: inst. -/
  | eRegionResume
  /-- DISTRIBUTOR_POP (R381): The distributor pops a ready record by priority with aging and reservation and places it on the lowest-cost candidate, or hands it to the Crier. -/
  | eDistributorPop
  /-- ISLAND_WAKE_COMPLETE (R418): A waking island reaches state on, letting a placement that needs it proceed to go. Argument: i = e. -/
  | eIslandWakeComplete
  /-- TENDER_ANNOUNCE (R169): The Crier announces a tendered record and opens the bid window of a new round. -/
  | eTenderAnnounce
  /-- BID_WINDOW_EXPIRY (R169): When the bid window closes, the Bourse keeps the four lowest bids and the Crier awards the best. Argument: seq = id; body: byte k nonzero where the bid of tile k comes too late. -/
  | eBidWindowExpiry
  /-- AWARD_GO (R169): The loader sends go to the awarded tile once the tile is free and the image loaded, unless a withdrawal came first. Argument: seq = id. -/
  | eAwardGo
  /-- LOADER_WITHDRAWAL (R169): An awarded tile's loader withdraws when its plane load fails, and the next kept bid is awarded or a new round begins. Argument: seq = id. -/
  | eLoaderWithdrawal
  /-- STREAM_APPEND (R374): Writing sapp makes the hub read, check and append a continuation record and post the result to the hart's append result register. Argument: hart = e, st = c, addr = w0. -/
  | eStreamAppend
  /-- APPEND_RESULT_READ (R374): A load of a hart's append result register waits until its latest append is decided and returns the result. Argument: hart = e. -/
  | eAppendResultRead
  /-- COMPLETION_RECORD_WRITE (R378): A completion record is written to its queue's ring, prod advances and the interrupt is sent, or it leaves as a UDP datagram. Argument: q = e. -/
  | eCompletionRecordWrite
  /-- COMPLETION_CONS_WRITE (R378): Writing cons frees ring space so records waiting in the completion buffer are written. Argument: q = e, v = w0. -/
  | eCompletionConsWrite
  /-- INTAKE_MESSAGE (R380): A RoCE SEND message is matched to the lowest valid rule, rewritten and appended, or dropped and counted. Argument: port = arc, qpn = x, send = flag, body. -/
  | eIntakeMessage
  /-- STEWARD_LOAD (R372): Writing the steward load address copies the steward image into every task processor, or is refused while placing or running. Argument: addr = w0. -/
  | eStewardLoad
  /-- STEWARD_LOAD_DONE (R372): busy clears when every task processor's copy of the steward image is complete. -/
  | eStewardLoadDone
  /-- DEBUG_ACCESS_GO (R386): Writing go starts a debug read, write or probe at a tile as an access of the region placed there. Argument: w0, w1, w2 of a write; flag: the device performs the request in progress. -/
  | eDebugAccessGo
  /-- CHIP_NUMBER_WRITE (R384): Writing word 0 sets this chip's number once; further writes are ignored until reset. Argument: v = w0. -/
  | eChipNumberWrite
  /-- CHIP_NUMBER_EXCHANGE (R384): A trained port exchanges chip numbers with its peer and sets up, or dup when the peer reports this chip's number. Argument: port = arc, peer = x. -/
  | eChipNumberExchange
  /-- LINK_FRAME_RECEIVE (R423): A link frame is corrected by FEC and checked by CRC, counted, and a failing frame triggers a replay request. Argument: port = arc, symbols = x, good = flag; e: frames sent since; what a good frame carries: operation c (0 none), address w0, value w1, compare or control w2, id bytes, acquire and release in bits 0 and 1 of g. -/
  | eLinkFrameReceive
  /-- LINK_REPLAY (R423): On a replay request the sender resends the stored bits of that frame and every later frame in order. Argument: port = arc, first = x. -/
  | eLinkReplay
  /-- LINK_RETRAIN (R423): Writing retr retrains a down link, and rdy is set again if training succeeds. Argument: port = arc, ok = flag. -/
  | eLinkRetrain
  /-- ERROR_WINDOW_EXPIRY (R415): At the end of each 2^30-cycle window a unit's error count returns to zero and a new fault policy takes effect. Argument: unit = id: its window is looked at, and ended where 2^30 of its cycles have passed. -/
  | eErrorWindowExpiry
  /-- TEMPERATURE_UPDATE (R420): Every 65,536 tile cycles temp and the throttle level are updated, entering a thermal hold at the trip. Argument: g, temp: the temperature at its latest 65,536 cycles. -/
  | eTemperatureUpdate
  /-- POWER_AVERAGE_UPDATE (R420): Package power is averaged over each 2^20 hub cycles into watts. Argument: watts = x. -/
  | ePowerAverageUpdate
  /-- DEVICE_RESET (R411): At reset the boot ROM verifies the firmware signature, sets m0 and boot, and starts the hall cores, or stays stopped on failure. Argument: image = body. -/
  | eDeviceReset
  /-- FUNCTION_READY (R410): A function coming into service sets its bit in the readiness register. Argument: bit = e. -/
  | eFunctionReady
  /-- MEASUREMENT_EXTEND (R412): Writing k to 0x8_0420 extends measurement mk with the 32-byte buffer. Argument: k = e. -/
  | eMeasurementExtend
  /-- REPORT_REQUEST (R412): Writing an address to 0x8_0480 makes the device write a signed report with the nonce and measurements there. Argument: addr = w0. -/
  | eReportRequest
  /-- KEY_INSTALL (R413): Writing 0x8_0540 installs or invalidates a key slot between main memory accesses. Argument: v = w0. -/
  | eKeyInstall
  /-- HUB_REGISTER_WRITE (R370): A hall core's aligned 8-byte store to a hub register without behaviour of its own updates its fields. Argument: off = x, v = w0. -/
  | eHubRegisterWrite
  /-- ILLEGAL_INSTRUCTION_WORD (R191): A task context issues a word with a reserved opcode, or a defined opcode whose fields break its fixed encoding, and takes the illegal-instruction trap with the cause of R189. Argument: w = w0. -/
  | eIllegalInstructionWord
  /-- SEQUENCER_OPERATION_COMPLETE (R280): A queued thold, tzero or tscl finishes at the sequencer and completes for tl, letting the next operation in its queue start. Argument: g. -/
  | eSequencerOperationComplete
  /-- ISLAND_GATING (R418): The distributor gates an island, or puts a vault into retention, moving it out of state on. Argument: i = e, mode = x. -/
  | eIslandGating
  /-- REPORT_WRITTEN (R412): The device finishes writing the signed report, and busy at 0x8_0488 clears. -/
  | eReportWritten
  deriving DecidableEq, Repr, Inhabited

/-- Where an event row happens and what comes with it from outside the device (95_what_each_step_holds.md).
A row reads the fields its constructor's docstring names. -/
structure EvArg where
  /-- Region instance. -/
  inst : Nat
  /-- Arc, circuit, port or queue number. -/
  arc : Nat
  /-- Tile. -/
  g : Nat
  /-- Element, task processor, operand, bank, slot or vault. -/
  e : Nat
  /-- Context, slot or stack within it. -/
  c : Nat
  /-- Request, tender, entry or event number. -/
  id : Nat
  /-- A number from outside. -/
  x : Nat
  /-- High queue, send, good or ok. -/
  flag : Bool
  w0 : Word
  w1 : Word
  w2 : Word
  /-- Signed number from outside (degrees). -/
  temp : Int
  /-- Bytes from outside. -/
  body : List Byte
  deriving DecidableEq, Repr, Inhabited

/-- No argument. -/
def EvArg.none : EvArg := ⟨0, 0, 0, 0, 0, 0, 0, false, 0, 0, 0, 0, []⟩

/-- What the machine does next: an issue turn of a task processor (R21), or an event row with its argument. -/
inductive Act where
  | turn (g p : Nat)
  | event (i : Instr) (a : EvArg)
  deriving DecidableEq, Repr, Inhabited

end Sys2Proof
end

