-- ==== Sys2Proof/Machine/Encoding.lean ====
section
/-! DEFINITION. The encoding table: the match and mask of every encoded row (R175, R178, R180, spec/opcode_table.json),
and the constructor of every opcode value. -/

namespace Sys2Proof

/-- Where a row's fixed bits stand and what they hold. -/
structure Enc where
  fixed : Lane
  mask : Lane
  f : Fields
  deriving DecidableEq, Repr

/-- The encoding of an instruction; `none` for the rows that have none. -/
def Instr.enc : Instr → Option Enc
  | .iNop f => some ⟨0x000039C0, 0xFF003FF0, f⟩
  | .iAdd f => some ⟨0x01000000, 0xFF000000, f⟩
  | .iSub f => some ⟨0x02000000, 0xFF000000, f⟩
  | .iMul f => some ⟨0x03000000, 0xFF000000, f⟩
  | .iMulh f => some ⟨0x04000000, 0xFF000000, f⟩
  | .iMulhu f => some ⟨0x05000000, 0xFF000000, f⟩
  | .iDiv f => some ⟨0x06000000, 0xFF000000, f⟩
  | .iDivu f => some ⟨0x07000000, 0xFF000000, f⟩
  | .iRem f => some ⟨0x08000000, 0xFF000000, f⟩
  | .iRemu f => some ⟨0x09000000, 0xFF000000, f⟩
  | .iNeg f => some ⟨0x0A000000, 0xFF000000, f⟩
  | .iAbs f => some ⟨0x0B000000, 0xFF000000, f⟩
  | .iAdds f => some ⟨0x0C000000, 0xFF000000, f⟩
  | .iSubs f => some ⟨0x0D000000, 0xFF000000, f⟩
  | .iMad f => some ⟨0x0E000000, 0xFF000000, f⟩
  | .iLea f => some ⟨0x0F000000, 0xFF000000, f⟩
  | .iAnd f => some ⟨0x10000000, 0xFF000000, f⟩
  | .iOr f => some ⟨0x11000000, 0xFF000000, f⟩
  | .iXor f => some ⟨0x12000000, 0xFF000000, f⟩
  | .iAndn f => some ⟨0x13000000, 0xFF000000, f⟩
  | .iNot f => some ⟨0x14000000, 0xFF000000, f⟩
  | .iShl f => some ⟨0x15000000, 0xFF000000, f⟩
  | .iShr f => some ⟨0x16000000, 0xFF000000, f⟩
  | .iSra f => some ⟨0x17000000, 0xFF000000, f⟩
  | .iRol f => some ⟨0x18000000, 0xFF000000, f⟩
  | .iPopc f => some ⟨0x19000000, 0xFF000000, f⟩
  | .iClz f => some ⟨0x1A000000, 0xFF000000, f⟩
  | .iCtz f => some ⟨0x1B000000, 0xFF000000, f⟩
  | .iBext f => some ⟨0x1C000000, 0xFF000000, f⟩
  | .iBins f => some ⟨0x1D000000, 0xFF000000, f⟩
  | .iBrev f => some ⟨0x1E000000, 0xFF000000, f⟩
  | .iBswap f => some ⟨0x1F000000, 0xFF000000, f⟩
  | .iMov f => some ⟨0x20000000, 0xFF000000, f⟩
  | .iSeq f => some ⟨0x21000000, 0xFF000000, f⟩
  | .iSne f => some ⟨0x22000000, 0xFF000000, f⟩
  | .iSlt f => some ⟨0x23000000, 0xFF000000, f⟩
  | .iSle f => some ⟨0x24000000, 0xFF000000, f⟩
  | .iSltu f => some ⟨0x25000000, 0xFF000000, f⟩
  | .iSleu f => some ⟨0x26000000, 0xFF000000, f⟩
  | .iSel f => some ⟨0x27000000, 0xFF000000, f⟩
  | .iMin f => some ⟨0x28000000, 0xFF000000, f⟩
  | .iMax f => some ⟨0x29000000, 0xFF000000, f⟩
  | .iMinu f => some ⟨0x2A000000, 0xFF000000, f⟩
  | .iMaxu f => some ⟨0x2B000000, 0xFF000000, f⟩
  | .iClamp f => some ⟨0x2C000000, 0xFF000000, f⟩
  | .iSext f => some ⟨0x2D000000, 0xFF000000, f⟩
  | .iZext f => some ⟨0x2E000000, 0xFF000000, f⟩
  | .iLane f => some ⟨0x2F000000, 0xFF000000, f⟩
  | .iFadd f => some ⟨0x30000000, 0xFF000000, f⟩
  | .iFsub f => some ⟨0x31000000, 0xFF000000, f⟩
  | .iFmul f => some ⟨0x32000000, 0xFF000000, f⟩
  | .iFma f => some ⟨0x33000000, 0xFF000000, f⟩
  | .iFms f => some ⟨0x34000000, 0xFF000000, f⟩
  | .iFnma f => some ⟨0x35000000, 0xFF000000, f⟩
  | .iFmin f => some ⟨0x36000000, 0xFF000000, f⟩
  | .iFmax f => some ⟨0x37000000, 0xFF000000, f⟩
  | .iFabs f => some ⟨0x38000000, 0xFF000000, f⟩
  | .iFneg f => some ⟨0x39000000, 0xFF000000, f⟩
  | .iFeq f => some ⟨0x3A000000, 0xFF000000, f⟩
  | .iFlt f => some ⟨0x3B000000, 0xFF000000, f⟩
  | .iFle f => some ⟨0x3C000000, 0xFF000000, f⟩
  | .iFclass f => some ⟨0x3D000000, 0xFF000000, f⟩
  | .iFdiv f => some ⟨0x3E000000, 0xFF000000, f⟩
  | .iFsqrt f => some ⟨0x3F000000, 0xFF000000, f⟩
  | .iLutEv f => some ⟨0x40000000, 0xFF000000, f⟩
  | .iLutIx f => some ⟨0x41000000, 0xFF000000, f⟩
  | .iRredExp f => some ⟨0x42000000, 0xFF000000, f⟩
  | .iRredLog f => some ⟨0x43000000, 0xFF000000, f⟩
  | .iRredTrig f => some ⟨0x44000000, 0xFF000000, f⟩
  | .iScalb f => some ⟨0x45000000, 0xFF000000, f⟩
  | .iFrcpE f => some ⟨0x46000000, 0xFF000000, f⟩
  | .iFrsqE f => some ⟨0x47000000, 0xFF000000, f⟩
  | .iCvt f => some ⟨0x5007C000, 0xFF07C000, f⟩
  | .iCvtSr f => some ⟨0x5107C000, 0xFF07C000, f⟩
  | .iCvtfI f => some ⟨0x52000000, 0xFF000000, f⟩
  | .iCvtiF f => some ⟨0x53000000, 0xFF000000, f⟩
  | .iPack f => some ⟨0x5407C000, 0xFF07C000, f⟩
  | .iUnpack f => some ⟨0x5507C000, 0xFF07C000, f⟩
  | .iBscale f => some ⟨0x56000000, 0xFF000000, f⟩
  | .iMkdesc f => some ⟨0x57000000, 0xFF000000, f⟩
  | .iAmax f => some ⟨0x58000000, 0xFF000000, f⟩
  | .iVsum f => some ⟨0x60000000, 0xFF000000, f⟩
  | .iVmax f => some ⟨0x61000000, 0xFF000000, f⟩
  | .iVmin f => some ⟨0x62000000, 0xFF000000, f⟩
  | .iVscan f => some ⟨0x63000000, 0xFF000000, f⟩
  | .iVperm f => some ⟨0x64000000, 0xFF000000, f⟩
  | .iVsplat f => some ⟨0x65000000, 0xFF000000, f⟩
  | .iVslide f => some ⟨0x66000000, 0xFF000000, f⟩
  | .iVext f => some ⟨0x67000000, 0xFF000000, f⟩
  | .iVins f => some ⟨0x68000000, 0xFF000000, f⟩
  | .iFilt f => some ⟨0x69000000, 0xFF000000, f⟩
  | .iCmpct f => some ⟨0x6A000000, 0xFF000000, f⟩
  | .iSplit f => some ⟨0x6B000000, 0xFF000000, f⟩
  | .iCat f => some ⟨0x6C000000, 0xFF000000, f⟩
  | .iVcnt f => some ⟨0x6D000000, 0xFF000000, f⟩
  | .iArgmx f => some ⟨0x6E000000, 0xFF000000, f⟩
  | .iSteer f => some ⟨0x70000000, 0xFF000000, f⟩
  | .iMerge f => some ⟨0x71000000, 0xFF000000, f⟩
  | .iGate f => some ⟨0x72000000, 0xFF000000, f⟩
  | .iJoin f => some ⟨0x73000000, 0xFF000000, f⟩
  | .iReord f => some ⟨0x74000000, 0xFF000000, f⟩
  | .iSink f => some ⟨0x75000000, 0xFF000000, f⟩
  | .iEor f => some ⟨0x76000000, 0xFF000000, f⟩
  | .iItgen f => some ⟨0x77000000, 0xFF000000, f⟩
  | .iCmpfw f => some ⟨0x78000000, 0xFF000000, f⟩
  | .iTopkRp f => some ⟨0x79000000, 0xFF000000, f⟩
  | .iRnorm f => some ⟨0x7A000000, 0xFF000000, f⟩
  | .iTagset f => some ⟨0x7B000000, 0xFF000000, f⟩
  | .iCtlOut f => some ⟨0x7C0001C0, 0xFF0001F0, f⟩
  | .iCtlWt f => some ⟨0x7D000000, 0xFF000000, f⟩
  | .iErrMk f => some ⟨0x7E000000, 0xFF000000, f⟩
  | .iFin f => some ⟨0x7F000000, 0xFF000000, f⟩
  | .iBr f => some ⟨0x80E7F9C0, 0xFFFFFFF0, f⟩
  | .iBz f => some ⟨0x8107F9C0, 0xFF07FFF0, f⟩
  | .iBnz f => some ⟨0x8207F9C0, 0xFF07FFF0, f⟩
  | .iBlt f => some ⟨0x8307C1C0, 0xFF07C1F0, f⟩
  | .iBge f => some ⟨0x8407C1C0, 0xFF07C1F0, f⟩
  | .iBltu f => some ⟨0x8507C1C0, 0xFF07C1F0, f⟩
  | .iBgeu f => some ⟨0x8607C1C0, 0xFF07C1F0, f⟩
  | .iCall f => some ⟨0x87E7F9C0, 0xFFFFFFF0, f⟩
  | .iRet f => some ⟨0x88E739C0, 0xFFFFFFF0, f⟩
  | .iJr f => some ⟨0x89000000, 0xFF000000, f⟩
  | .iWait f => some ⟨0x8A000000, 0xFF00000F, f⟩
  | .iWtagAny f => some ⟨0x8B000000, 0xFF000000, f⟩
  | .iWtagAll f => some ⟨0x8C000000, 0xFF000000, f⟩
  | .iFtag f => some ⟨0x8D000000, 0xFF000000, f⟩
  | .iCtag f => some ⟨0x8E000000, 0xFF000000, f⟩
  | .iRep f => some ⟨0x8F07F9C0, 0xFF07FFF0, f⟩
  | .iLdB f => some ⟨0x9007C000, 0xFF07C000, f⟩
  | .iLdH f => some ⟨0x9107C000, 0xFF07C000, f⟩
  | .iLdW f => some ⟨0x9207C000, 0xFF07C000, f⟩
  | .iLdD f => some ⟨0x9307C000, 0xFF07C000, f⟩
  | .iStB f => some ⟨0x9407C000, 0xFF07C000, f⟩
  | .iStH f => some ⟨0x9507C000, 0xFF07C000, f⟩
  | .iStW f => some ⟨0x9607C000, 0xFF07C000, f⟩
  | .iStD f => some ⟨0x9707C000, 0xFF07C000, f⟩
  | .iVld f => some ⟨0x9807C000, 0xFF07C000, f⟩
  | .iVst f => some ⟨0x9907C000, 0xFF07C000, f⟩
  | .iLdt f => some ⟨0x9A07C000, 0xFF07C000, f⟩
  | .iSts f => some ⟨0x9B07C000, 0xFF07C000, f⟩
  | .iGld f => some ⟨0x9C07C000, 0xFF07C000, f⟩
  | .iSst f => some ⟨0x9D07C000, 0xFF07C000, f⟩
  | .iLdAcq f => some ⟨0x9E07C000, 0xFF07C000, f⟩
  | .iStRel f => some ⟨0x9F07C000, 0xFF07C000, f⟩
  | .iAmoAdd f => some ⟨0xA007C000, 0xFF07C000, f⟩
  | .iAmoAnd f => some ⟨0xA107C000, 0xFF07C000, f⟩
  | .iAmoOr f => some ⟨0xA207C000, 0xFF07C000, f⟩
  | .iAmoXor f => some ⟨0xA307C000, 0xFF07C000, f⟩
  | .iAmoMin f => some ⟨0xA407C000, 0xFF07C000, f⟩
  | .iAmoMax f => some ⟨0xA507C000, 0xFF07C000, f⟩
  | .iAmoSwp f => some ⟨0xA607C000, 0xFF07C000, f⟩
  | .iAmoCas f => some ⟨0xA707C000, 0xFF07C000, f⟩
  | .iCmb f => some ⟨0xA807C000, 0xFF07C000, f⟩
  | .iCmbF f => some ⟨0xA907C000, 0xFF07C000, f⟩
  | .iSrd f => some ⟨0xAA07C000, 0xFF07C000, f⟩
  | .iSwr f => some ⟨0xAB07C000, 0xFF07C000, f⟩
  | .iSclr f => some ⟨0xAC07C000, 0xFF07C000, f⟩
  | .iSprb f => some ⟨0xAD07C000, 0xFF07C000, f⟩
  | .iFence f => some ⟨0xAE07C000, 0xFF07C000, f⟩
  | .iBar f => some ⟨0xAF07C000, 0xFF07C000, f⟩
  | .iCp f => some ⟨0xB007C000, 0xFF07C000, f⟩
  | .iCp2 f => some ⟨0xB107C000, 0xFF07C000, f⟩
  | .iCpg f => some ⟨0xB207C000, 0xFF07C000, f⟩
  | .iCps f => some ⟨0xB307C000, 0xFF07C000, f⟩
  | .iPlf f => some ⟨0xB4000000, 0xFF000000, f⟩
  | .iXlt f => some ⟨0xB5000000, 0xFF000000, f⟩
  | .iXinv f => some ⟨0xB6000000, 0xFF000000, f⟩
  | .iWinChk f => some ⟨0xB7000000, 0xFF000000, f⟩
  | .iBmcInv f => some ⟨0xB807C000, 0xFF07C000, f⟩
  | .iMig f => some ⟨0xB9000000, 0xFF000000, f⟩
  | .iTriad f => some ⟨0xC0000000, 0xFF000000, f⟩
  | .iThold f => some ⟨0xC1000000, 0xFF000000, f⟩
  | .iTdrain f => some ⟨0xC2000000, 0xFF000000, f⟩
  | .iTzero f => some ⟨0xC3000000, 0xFF000000, f⟩
  | .iTacc f => some ⟨0xC4000000, 0xFF000000, f⟩
  | .iTcomb f => some ⟨0xC5000000, 0xFF000000, f⟩
  | .iTstat f => some ⟨0xC6000000, 0xFF000000, f⟩
  | .iTabort f => some ⟨0xC7000000, 0xFF000000, f⟩
  | .iTrag f => some ⟨0xC8000000, 0xFF000000, f⟩
  | .iTscl f => some ⟨0xC9000000, 0xFF000000, f⟩
  | .iTpri f => some ⟨0xCA000000, 0xFF000000, f⟩
  | .iSkInit f => some ⟨0xD007C000, 0xFF07C000, f⟩
  | .iSkAdd f => some ⟨0xD107C000, 0xFF07C000, f⟩
  | .iSkQry f => some ⟨0xD207C000, 0xFF07C000, f⟩
  | .iSkMerge f => some ⟨0xD307C000, 0xFF07C000, f⟩
  | .iSkScale f => some ⟨0xD407C000, 0xFF07C000, f⟩
  | .iSkClr f => some ⟨0xD507C000, 0xFF07C000, f⟩
  | .iSkRd f => some ⟨0xD607C000, 0xFF07C000, f⟩
  | .iSkStat f => some ⟨0xD707C000, 0xFF07C000, f⟩
  | .iRtCnt f => some ⟨0xD8000000, 0xFF000000, f⟩
  | .iRtSnap f => some ⟨0xD907C000, 0xFF07C000, f⟩
  | .iRsort f => some ⟨0xDA000000, 0xFF000000, f⟩
  | .iRtMap f => some ⟨0xDB000000, 0xFF000000, f⟩
  | .iTndCall f => some ⟨0xDC000000, 0xFF000000, f⟩
  | .iTndWd f => some ⟨0xDD000000, 0xFF000000, f⟩
  | .iTndCost f => some ⟨0xDE000000, 0xFF000000, f⟩
  | .iTndSt f => some ⟨0xDF000000, 0xFF000000, f⟩
  | .iJobSpawn f => some ⟨0xE0000000, 0xFF000000, f⟩
  | .iJobJoin f => some ⟨0xE1000000, 0xFF000000, f⟩
  | .iDone f => some ⟨0xE20739C0, 0xFF07FFF0, f⟩
  | .iSig f => some ⟨0xE3000000, 0xFF000000, f⟩
  | .iRngSeed f => some ⟨0xE4000000, 0xFF000000, f⟩
  | .iRng f => some ⟨0xE5000000, 0xFF000000, f⟩
  | .iShfGo f => some ⟨0xE6000000, 0xFF000000, f⟩
  | .iShfFb f => some ⟨0xE7000000, 0xFF000000, f⟩
  | .iHoldIns f => some ⟨0xE807C000, 0xFF07C000, f⟩
  | .iHoldDrop f => some ⟨0xE907C000, 0xFF07C000, f⟩
  | .iHoldQ f => some ⟨0xEA07C000, 0xFF07C000, f⟩
  | .iTrap f => some ⟨0xF0000000, 0xFF000000, f⟩
  | .iEret f => some ⟨0xF1E739C0, 0xFFFFFFF0, f⟩
  | .iCtlRd f => some ⟨0xF2000000, 0xFF000000, f⟩
  | .iCtlWr f => some ⟨0xF3000000, 0xFF000000, f⟩
  | .iBrk f => some ⟨0xF4000000, 0xFF000000, f⟩
  | .iHalt f => some ⟨0xF5000000, 0xFF000000, f⟩
  | .iIdle f => some ⟨0xF6000000, 0xFF000000, f⟩
  | .iCntRd f => some ⟨0xF7000000, 0xFF000000, f⟩
  | .iSwpPl f => some ⟨0xF8000000, 0xFF000000, f⟩
  | .iQsc f => some ⟨0xF9000000, 0xFF000000, f⟩
  | .iPmt f => some ⟨0xFA000000, 0xFF000000, f⟩
  | .iCkpt f => some ⟨0xFB000000, 0xFF000000, f⟩
  | .iRstor f => some ⟨0xFC000000, 0xFF000000, f⟩
  | .iIdRd f => some ⟨0xFD000000, 0xFF000000, f⟩
  | .iDbgX f => some ⟨0xFE000000, 0xFF000000, f⟩
  | .iIll f => some ⟨0xFF000000, 0xFF000000, f⟩
  | _ => none

/-- Opcode row 0x0_ of R180: the constructor of each low nibble. -/
def Encoding.row0 (lo : Nat) : Option (Fields → Instr) :=
  match lo with
  | 0 => some Instr.iNop
  | 1 => some Instr.iAdd
  | 2 => some Instr.iSub
  | 3 => some Instr.iMul
  | 4 => some Instr.iMulh
  | 5 => some Instr.iMulhu
  | 6 => some Instr.iDiv
  | 7 => some Instr.iDivu
  | 8 => some Instr.iRem
  | 9 => some Instr.iRemu
  | 10 => some Instr.iNeg
  | 11 => some Instr.iAbs
  | 12 => some Instr.iAdds
  | 13 => some Instr.iSubs
  | 14 => some Instr.iMad
  | 15 => some Instr.iLea
  | _ => none

/-- Opcode row 0x1_ of R180: the constructor of each low nibble. -/
def Encoding.row1 (lo : Nat) : Option (Fields → Instr) :=
  match lo with
  | 0 => some Instr.iAnd
  | 1 => some Instr.iOr
  | 2 => some Instr.iXor
  | 3 => some Instr.iAndn
  | 4 => some Instr.iNot
  | 5 => some Instr.iShl
  | 6 => some Instr.iShr
  | 7 => some Instr.iSra
  | 8 => some Instr.iRol
  | 9 => some Instr.iPopc
  | 10 => some Instr.iClz
  | 11 => some Instr.iCtz
  | 12 => some Instr.iBext
  | 13 => some Instr.iBins
  | 14 => some Instr.iBrev
  | 15 => some Instr.iBswap
  | _ => none

/-- Opcode row 0x2_ of R180: the constructor of each low nibble. -/
def Encoding.row2 (lo : Nat) : Option (Fields → Instr) :=
  match lo with
  | 0 => some Instr.iMov
  | 1 => some Instr.iSeq
  | 2 => some Instr.iSne
  | 3 => some Instr.iSlt
  | 4 => some Instr.iSle
  | 5 => some Instr.iSltu
  | 6 => some Instr.iSleu
  | 7 => some Instr.iSel
  | 8 => some Instr.iMin
  | 9 => some Instr.iMax
  | 10 => some Instr.iMinu
  | 11 => some Instr.iMaxu
  | 12 => some Instr.iClamp
  | 13 => some Instr.iSext
  | 14 => some Instr.iZext
  | 15 => some Instr.iLane
  | _ => none

/-- Opcode row 0x3_ of R180: the constructor of each low nibble. -/
def Encoding.row3 (lo : Nat) : Option (Fields → Instr) :=
  match lo with
  | 0 => some Instr.iFadd
  | 1 => some Instr.iFsub
  | 2 => some Instr.iFmul
  | 3 => some Instr.iFma
  | 4 => some Instr.iFms
  | 5 => some Instr.iFnma
  | 6 => some Instr.iFmin
  | 7 => some Instr.iFmax
  | 8 => some Instr.iFabs
  | 9 => some Instr.iFneg
  | 10 => some Instr.iFeq
  | 11 => some Instr.iFlt
  | 12 => some Instr.iFle
  | 13 => some Instr.iFclass
  | 14 => some Instr.iFdiv
  | 15 => some Instr.iFsqrt
  | _ => none

/-- Opcode row 0x4_ of R180: the constructor of each low nibble. -/
def Encoding.row4 (lo : Nat) : Option (Fields → Instr) :=
  match lo with
  | 0 => some Instr.iLutEv
  | 1 => some Instr.iLutIx
  | 2 => some Instr.iRredExp
  | 3 => some Instr.iRredLog
  | 4 => some Instr.iRredTrig
  | 5 => some Instr.iScalb
  | 6 => some Instr.iFrcpE
  | 7 => some Instr.iFrsqE
  | _ => none

/-- Opcode row 0x5_ of R180: the constructor of each low nibble. -/
def Encoding.row5 (lo : Nat) : Option (Fields → Instr) :=
  match lo with
  | 0 => some Instr.iCvt
  | 1 => some Instr.iCvtSr
  | 2 => some Instr.iCvtfI
  | 3 => some Instr.iCvtiF
  | 4 => some Instr.iPack
  | 5 => some Instr.iUnpack
  | 6 => some Instr.iBscale
  | 7 => some Instr.iMkdesc
  | 8 => some Instr.iAmax
  | _ => none

/-- Opcode row 0x6_ of R180: the constructor of each low nibble. -/
def Encoding.row6 (lo : Nat) : Option (Fields → Instr) :=
  match lo with
  | 0 => some Instr.iVsum
  | 1 => some Instr.iVmax
  | 2 => some Instr.iVmin
  | 3 => some Instr.iVscan
  | 4 => some Instr.iVperm
  | 5 => some Instr.iVsplat
  | 6 => some Instr.iVslide
  | 7 => some Instr.iVext
  | 8 => some Instr.iVins
  | 9 => some Instr.iFilt
  | 10 => some Instr.iCmpct
  | 11 => some Instr.iSplit
  | 12 => some Instr.iCat
  | 13 => some Instr.iVcnt
  | 14 => some Instr.iArgmx
  | _ => none

/-- Opcode row 0x7_ of R180: the constructor of each low nibble. -/
def Encoding.row7 (lo : Nat) : Option (Fields → Instr) :=
  match lo with
  | 0 => some Instr.iSteer
  | 1 => some Instr.iMerge
  | 2 => some Instr.iGate
  | 3 => some Instr.iJoin
  | 4 => some Instr.iReord
  | 5 => some Instr.iSink
  | 6 => some Instr.iEor
  | 7 => some Instr.iItgen
  | 8 => some Instr.iCmpfw
  | 9 => some Instr.iTopkRp
  | 10 => some Instr.iRnorm
  | 11 => some Instr.iTagset
  | 12 => some Instr.iCtlOut
  | 13 => some Instr.iCtlWt
  | 14 => some Instr.iErrMk
  | 15 => some Instr.iFin
  | _ => none

/-- Opcode row 0x8_ of R180: the constructor of each low nibble. -/
def Encoding.row8 (lo : Nat) : Option (Fields → Instr) :=
  match lo with
  | 0 => some Instr.iBr
  | 1 => some Instr.iBz
  | 2 => some Instr.iBnz
  | 3 => some Instr.iBlt
  | 4 => some Instr.iBge
  | 5 => some Instr.iBltu
  | 6 => some Instr.iBgeu
  | 7 => some Instr.iCall
  | 8 => some Instr.iRet
  | 9 => some Instr.iJr
  | 10 => some Instr.iWait
  | 11 => some Instr.iWtagAny
  | 12 => some Instr.iWtagAll
  | 13 => some Instr.iFtag
  | 14 => some Instr.iCtag
  | 15 => some Instr.iRep
  | _ => none

/-- Opcode row 0x9_ of R180: the constructor of each low nibble. -/
def Encoding.row9 (lo : Nat) : Option (Fields → Instr) :=
  match lo with
  | 0 => some Instr.iLdB
  | 1 => some Instr.iLdH
  | 2 => some Instr.iLdW
  | 3 => some Instr.iLdD
  | 4 => some Instr.iStB
  | 5 => some Instr.iStH
  | 6 => some Instr.iStW
  | 7 => some Instr.iStD
  | 8 => some Instr.iVld
  | 9 => some Instr.iVst
  | 10 => some Instr.iLdt
  | 11 => some Instr.iSts
  | 12 => some Instr.iGld
  | 13 => some Instr.iSst
  | 14 => some Instr.iLdAcq
  | 15 => some Instr.iStRel
  | _ => none

/-- Opcode row 0xA_ of R180: the constructor of each low nibble. -/
def Encoding.rowA (lo : Nat) : Option (Fields → Instr) :=
  match lo with
  | 0 => some Instr.iAmoAdd
  | 1 => some Instr.iAmoAnd
  | 2 => some Instr.iAmoOr
  | 3 => some Instr.iAmoXor
  | 4 => some Instr.iAmoMin
  | 5 => some Instr.iAmoMax
  | 6 => some Instr.iAmoSwp
  | 7 => some Instr.iAmoCas
  | 8 => some Instr.iCmb
  | 9 => some Instr.iCmbF
  | 10 => some Instr.iSrd
  | 11 => some Instr.iSwr
  | 12 => some Instr.iSclr
  | 13 => some Instr.iSprb
  | 14 => some Instr.iFence
  | 15 => some Instr.iBar
  | _ => none

/-- Opcode row 0xB_ of R180: the constructor of each low nibble. -/
def Encoding.rowB (lo : Nat) : Option (Fields → Instr) :=
  match lo with
  | 0 => some Instr.iCp
  | 1 => some Instr.iCp2
  | 2 => some Instr.iCpg
  | 3 => some Instr.iCps
  | 4 => some Instr.iPlf
  | 5 => some Instr.iXlt
  | 6 => some Instr.iXinv
  | 7 => some Instr.iWinChk
  | 8 => some Instr.iBmcInv
  | 9 => some Instr.iMig
  | _ => none

/-- Opcode row 0xC_ of R180: the constructor of each low nibble. -/
def Encoding.rowC (lo : Nat) : Option (Fields → Instr) :=
  match lo with
  | 0 => some Instr.iTriad
  | 1 => some Instr.iThold
  | 2 => some Instr.iTdrain
  | 3 => some Instr.iTzero
  | 4 => some Instr.iTacc
  | 5 => some Instr.iTcomb
  | 6 => some Instr.iTstat
  | 7 => some Instr.iTabort
  | 8 => some Instr.iTrag
  | 9 => some Instr.iTscl
  | 10 => some Instr.iTpri
  | _ => none

/-- Opcode row 0xD_ of R180: the constructor of each low nibble. -/
def Encoding.rowD (lo : Nat) : Option (Fields → Instr) :=
  match lo with
  | 0 => some Instr.iSkInit
  | 1 => some Instr.iSkAdd
  | 2 => some Instr.iSkQry
  | 3 => some Instr.iSkMerge
  | 4 => some Instr.iSkScale
  | 5 => some Instr.iSkClr
  | 6 => some Instr.iSkRd
  | 7 => some Instr.iSkStat
  | 8 => some Instr.iRtCnt
  | 9 => some Instr.iRtSnap
  | 10 => some Instr.iRsort
  | 11 => some Instr.iRtMap
  | 12 => some Instr.iTndCall
  | 13 => some Instr.iTndWd
  | 14 => some Instr.iTndCost
  | 15 => some Instr.iTndSt
  | _ => none

/-- Opcode row 0xE_ of R180: the constructor of each low nibble. -/
def Encoding.rowE (lo : Nat) : Option (Fields → Instr) :=
  match lo with
  | 0 => some Instr.iJobSpawn
  | 1 => some Instr.iJobJoin
  | 2 => some Instr.iDone
  | 3 => some Instr.iSig
  | 4 => some Instr.iRngSeed
  | 5 => some Instr.iRng
  | 6 => some Instr.iShfGo
  | 7 => some Instr.iShfFb
  | 8 => some Instr.iHoldIns
  | 9 => some Instr.iHoldDrop
  | 10 => some Instr.iHoldQ
  | _ => none

/-- Opcode row 0xF_ of R180: the constructor of each low nibble. -/
def Encoding.rowF (lo : Nat) : Option (Fields → Instr) :=
  match lo with
  | 0 => some Instr.iTrap
  | 1 => some Instr.iEret
  | 2 => some Instr.iCtlRd
  | 3 => some Instr.iCtlWr
  | 4 => some Instr.iBrk
  | 5 => some Instr.iHalt
  | 6 => some Instr.iIdle
  | 7 => some Instr.iCntRd
  | 8 => some Instr.iSwpPl
  | 9 => some Instr.iQsc
  | 10 => some Instr.iPmt
  | 11 => some Instr.iCkpt
  | 12 => some Instr.iRstor
  | 13 => some Instr.iIdRd
  | 14 => some Instr.iDbgX
  | 15 => some Instr.iIll
  | _ => none

/-- The constructor an opcode value names (R180); `none` for the 32 reserved values. -/
def Encoding.ctor (op : Nat) : Option (Fields → Instr) :=
  match op / 16 with
  | 0 => Encoding.row0 (op % 16)
  | 1 => Encoding.row1 (op % 16)
  | 2 => Encoding.row2 (op % 16)
  | 3 => Encoding.row3 (op % 16)
  | 4 => Encoding.row4 (op % 16)
  | 5 => Encoding.row5 (op % 16)
  | 6 => Encoding.row6 (op % 16)
  | 7 => Encoding.row7 (op % 16)
  | 8 => Encoding.row8 (op % 16)
  | 9 => Encoding.row9 (op % 16)
  | 10 => Encoding.rowA (op % 16)
  | 11 => Encoding.rowB (op % 16)
  | 12 => Encoding.rowC (op % 16)
  | 13 => Encoding.rowD (op % 16)
  | 14 => Encoding.rowE (op % 16)
  | 15 => Encoding.rowF (op % 16)
  | _ => none

end Sys2Proof
end

