-- ==== Sys2Proof/WellFormed.lean ====
section
/-! DEFINITION. Well-formed instructions: the fixed fields of an encoded row hold what its row fixes (R178, R180,
R189 cause 0x05), and an event row names a place the device has (R2, R104). -/

namespace Sys2Proof

/-- The word of the given opcode and fields (R175). -/
def Fields.word (op : Nat) (f : Fields) : Lane :=
  BitVec.ofNat 32 (op * 2 ^ 24 + f.a.toNat * 2 ^ 19 + f.b.toNat * 2 ^ 14 + f.d.toNat * 2 ^ 9 + f.e.toNat * 2 ^ 4 + f.t.toNat)

/-- The opcode of an encoded row: bits [31:24] of its fixed bits. -/
def Enc.opcode (k : Enc) : Nat := k.fixed.toNat / 2 ^ 24

/-- The word of an encoding with its fields. -/
def Enc.word (k : Enc) : Lane := k.f.word k.opcode

/-- Every fixed bit of the row holds its value. -/
def Enc.ok (k : Enc) : Bool := (k.word &&& k.mask) == k.fixed

/-- A tile number (R2): 48 x die + tile. -/
def tileOk (g : Nat) : Bool := decide (g < 384)

/-- An element code of a graph, LUT or memory port element (R104). -/
def elemOk (e : Nat) : Bool := decide (4 ≤ e) && decide (e < 32)

/-- An instruction is well formed: its row's fixed bits hold (an event row has none). -/
def Instr.wf (i : Instr) : Bool :=
  match i.enc with
  | some k => k.ok
  | none => true

/-- What the machine does next is well formed: the tile exists, and a turn names a task processor (R2). -/
def Act.wf : Act → Bool
  | .turn g p => tileOk g && decide (p < 4)
  | .event _ a => tileOk a.g

end Sys2Proof
end

