-- ==== Sys2Proof/Decode.lean ====
section
/-! DEFINITION. Decoding an E-form word (R175, R180, R189), and the encoder. -/

namespace Sys2Proof

/-- Why a word is no instruction of the table. -/
inductive DecodeError where
  /-- Fewer than four bytes. -/
  | truncated
  /-- A reserved opcode (R180): cause 0x01 of R189. -/
  | reservedOpcode
  /-- A defined opcode whose fields break its fixed encoding: cause 0x05 of R189, or 0x03 or 0x04 for a tag field. -/
  | fixedField
  deriving DecidableEq, Repr

/-- The fields of a word, as R175's decoder takes them. -/
def fieldsOf (w : Lane) : Fields :=
  { a := BitVec.ofNat 5 (w.toNat / 2 ^ 19), b := BitVec.ofNat 5 (w.toNat / 2 ^ 14), d := BitVec.ofNat 5 (w.toNat / 2 ^ 9),
    e := BitVec.ofNat 5 (w.toNat / 2 ^ 4), t := BitVec.ofNat 4 w.toNat }

/-- The instruction a 32-bit word is, by the opcode map and the row's fixed bits. -/
def decodeWord (w : Lane) : Except DecodeError Instr :=
  match Encoding.ctor (w.toNat / 2 ^ 24) with
  | none => .error .reservedOpcode
  | some mk =>
    let i := mk (fieldsOf w)
    match i.enc with
    | some k => if k.ok then .ok i else .error .fixedField
    | none => .error .reservedOpcode

/-- A little-endian 32-bit word of four bytes (R335, R340). -/
def wordOfBytes (b0 b1 b2 b3 : Byte) : Lane :=
  BitVec.ofNat 32 (b0.toNat + b1.toNat * 2 ^ 8 + b2.toNat * 2 ^ 16 + b3.toNat * 2 ^ 24)

/-- Decode the first instruction of a byte string; total, refusing by name. -/
def decode (bs : List Byte) : Except DecodeError (Instr × List Byte) :=
  match bs with
  | b0 :: b1 :: b2 :: b3 :: rest =>
    match decodeWord (wordOfBytes b0 b1 b2 b3) with
    | .ok i => .ok (i, rest)
    | .error x => .error x
  | _ => .error .truncated

/-- The word of an instruction; `none` for a row without an encoding. -/
def encodeWord (i : Instr) : Option Lane :=
  match i.enc with
  | some k => some k.word
  | none => none

/-- The four bytes of a word, little-endian. -/
def bytesOfWord (w : Lane) : List Byte :=
  [BitVec.ofNat 8 w.toNat, BitVec.ofNat 8 (w.toNat / 2 ^ 8), BitVec.ofNat 8 (w.toNat / 2 ^ 16), BitVec.ofNat 8 (w.toNat / 2 ^ 24)]

/-- The bytes of an instruction. -/
def encode (i : Instr) : List Byte :=
  match encodeWord i with
  | some w => bytesOfWord w
  | none => []

/-- The instruction read from a table word of `nbits` bits (instructions are one 32-bit word). -/
def decodeTableWord (nbits w : Nat) : Option Instr :=
  if nbits ≤ 32 then
    match decode (bytesOfWord (BitVec.ofNat 32 (w % 2 ^ nbits))) with
    | .ok (i, _) => some i
    | .error _ => none
  else none

end Sys2Proof
end

