-- ==== Sys2Proof/Config.lean ====
section
/-! DEFINITION. What an implementation fixes and the free values: constants without a body, so that nothing can
be proved about them. -/

namespace Sys2Proof

/-- The agent that moves where the agenda of the state names none (DESIGN CHOICE, log entry 2): a free value. -/
opaque Config.schedule : Nat → Act

/-- The hub cycles that pass in a step: a free value (DESIGN CHOICE, log entry 6). -/
opaque Config.elapsed : Nat → Nat

/-- The cycles of a clock, named by its island, that pass in a step: a free value (DESIGN CHOICE, log entry 6). -/
opaque Config.clockElapsed : Nat → Nat → Nat

/-- What 16 bytes of main memory at an address, written under one AES-256-XTS key, read as under another (R413): a free value (DESIGN CHOICE,
log entry 17). -/
opaque Config.rekeyed : List Word → List Word → Nat → List Byte → List Byte

/-- A free 64-bit value, applied to a counter of the state. -/
opaque Config.freeWord : Nat → Word

/-- The device revision `id.rd` code 5 returns (R244): the spec gives no number (DESIGN CHOICE, log entry 19). -/
opaque Config.deviceRevision : BitVec 16

/-- The hash of the vendor key fused in the device (R411). -/
opaque Config.fusedHash : List Byte

/-- The 48-byte seed fused in the device, from which its identity key pair is generated at boot (R412). -/
opaque Config.fusedSeed : List Byte

end Sys2Proof
end

