-- ==== Sys2Proof/Machine/Float.lean ====
section
/-! DEFINITION. Numbers of chapter 03: exact values, the ten formats, rounding, saturation, and the FP32 operations
(R43 to R68, R202 to R212). Values are exact fractions and are rounded once. -/

namespace Sys2Proof.Machine

/-- An exact value as a format names it: NaN, an infinity, or a sign with the magnitude `num / den` (R45 to R50). -/
inductive FVal where
  | nan
  | inf (neg : Bool)
  | fin (neg : Bool) (num den : Nat)
  deriving DecidableEq, Repr

/-- A float format: bits, precision, bias, largest finite magnitude code, infinity and NaN codes (R45 to R50). -/
structure Fmt where
  /-- Bits of an element. -/
  bits : Nat
  /-- Precision with the leading bit. -/
  p : Nat
  bias : Nat
  /-- Magnitude code of the largest finite value. -/
  maxCode : Nat
  /-- Magnitude code of infinity, where there is one. -/
  infCode : Option Nat
  /-- The NaN written. -/
  nanCode : Option Nat
  signed : Bool
  /-- A negative zero exists. -/
  negZero : Bool
  deriving DecidableEq, Repr

/-- FP32 (R50). -/
def fmt32 : Fmt := ⟨32, 24, 127, 0x7F7FFFFF, some 0x7F800000, some 0x7FC00000, true, true⟩
/-- FP16 (R50). -/
def fmt16 : Fmt := ⟨16, 11, 15, 0x7BFF, some 0x7C00, some 0x7E00, true, true⟩
/-- BF16 (R50). -/
def fmtBf : Fmt := ⟨16, 8, 127, 0x7F7F, some 0x7F80, some 0x7FC0, true, true⟩
/-- E2M1 (R49). -/
def fmtE2m1 : Fmt := ⟨4, 2, 1, 7, none, none, true, true⟩
/-- binary8 signed (R45, R46). -/
def fmtS8 (p : Nat) (ext : Bool) : Fmt :=
  ⟨8, p, 2 ^ (7 - p), if ext then 0x7E else 0x7F, if ext then some 0x7F else none, some 0x80, true, false⟩
/-- binary8 unsigned (R47, R48). -/
def fmtU8 (p : Nat) (ext : Bool) : Fmt :=
  ⟨8, p, 2 ^ (8 - p), if ext then 0xFD else 0xFE, if ext then some 0xFE else none, some 0xFF, false, false⟩

/-- What a format code names (R43, R52): a float format, an integer format, B1, or nothing numeric. -/
inductive Family where
  | none
  | flt (f : Fmt)
  | int (bits : Nat) (signed : Bool)
  | b1
  deriving DecidableEq, Repr

/-- A format code is valid (R53): family 1 to 4 with P 1 to 7, or family 0 or 5 to 12 with p 0. -/
def fmtValid (code : Nat) : Bool :=
  let fam := code / 16 % 16
  let p := code % 16
  if 1 ≤ fam && fam ≤ 4 then 1 ≤ p && p ≤ 7 else fam ≤ 12 && p == 0

/-- The family of an 8-bit format code, `none` for family 0 and for invalid codes. -/
def familyOf (code : Nat) : Family :=
  if !fmtValid code then .none
  else
    let p := code % 16
    match code / 16 % 16 with
    | 1 => .flt (fmtS8 p false)
    | 2 => .flt (fmtS8 p true)
    | 3 => .flt (fmtU8 p false)
    | 4 => .flt (fmtU8 p true)
    | 5 => .flt fmtE2m1
    | 6 => .flt fmtBf
    | 7 => .flt fmt16
    | 8 => .flt fmt32
    | 9 => .int 8 true
    | 10 => .int 8 false
    | 11 => .int 4 true
    | 12 => .b1
    | _ => .none

/-- Bits of an element of a format code; 0 where it has none (R43). -/
def fmtBits (code : Nat) : Nat :=
  match familyOf code with
  | .none => 0
  | .flt f => f.bits
  | .int b _ => b
  | .b1 => 1

/-- 2 to an integer power as a fraction. -/
def pow2 (k : Int) : Nat × Nat := if 0 ≤ k then (2 ^ k.toNat, 1) else (1, 2 ^ (-k).toNat)

/-- The magnitude of a magnitude code (R45, R47, R49, R50). -/
def Fmt.magOf (f : Fmt) (c : Nat) : Nat × Nat :=
  let t := c % 2 ^ (f.p - 1)
  let x := c / 2 ^ (f.p - 1)
  let k : Int := (if x = 0 then 1 else (x : Int)) - f.bias - (f.p - 1 : Nat)
  let m := if x = 0 then t else 2 ^ (f.p - 1) + t
  let q := pow2 k
  (m * q.1, q.2)

/-- Decode an element (R45, R47, R49, R50). -/
def Fmt.decode (f : Fmt) (code : Nat) : FVal :=
  let code := code % 2 ^ f.bits
  let half := 2 ^ (f.bits - 1)
  let neg := f.signed && decide (half ≤ code)
  let mag := if f.signed then code % half else code
  if f.negZero then
    match f.infCode with
    | some i =>
      if mag = i then .inf neg else if i < mag then .nan
      else let q := f.magOf mag; .fin neg q.1 q.2
    | none => let q := f.magOf mag; .fin neg q.1 q.2
  else if some code = f.nanCode then .nan
  else if some mag = f.infCode then .inf neg
  else let q := f.magOf mag; .fin neg q.1 q.2

/-- The exponent of the leading bit of a positive fraction. -/
def expOf (num den : Nat) : Int :=
  let l : Int := (num.log2 : Int) - (den.log2 : Int)
  let q := pow2 l
  if num * q.2 < q.1 * den then l - 1 else l

/-- The magnitude code at or below a fraction, with an unbounded exponent range, and the remainder as a fraction of
the step to the next code (R58). -/
def Fmt.floorCode (f : Fmt) (num den : Nat) : Nat × Nat × Nat :=
  if num = 0 then (0, 0, 1)
  else
    let emin : Int := 1 - (f.bias : Int)
    let e := max (expOf num den) emin
    let q := pow2 (e - (f.p - 1 : Nat))
    let n := num * q.2
    let d := den * q.1
    (n / d + (e - emin).toNat * 2 ^ (f.p - 1), n % d, d)

/-- A rounding mode of R58 with the random lane of SR (R59). -/
inductive Rnd where
  | rne | rtz | rup | rdn | rna
  | sr (u : Nat)
  deriving DecidableEq, Repr

/-- The mode of a code; 6 and 7 are refused before use. -/
def Rnd.ofCode (c u : Nat) : Rnd :=
  match c with
  | 0 => .rne | 1 => .rtz | 2 => .rup | 3 => .rdn | 4 => .rna | _ => .sr u

/-- Whether rounding goes to the larger magnitude: the lower code is odd or even, the remainder is `r / d` (R58, R59). -/
def Rnd.up (m : Rnd) (neg odd : Bool) (r d : Nat) : Bool :=
  if r = 0 then false
  else
    match m with
    | .rne => decide (d < 2 * r) || (decide (d = 2 * r) && odd)
    | .rtz => false
    | .rup => !neg
    | .rdn => neg
    | .rna => decide (d ≤ 2 * r)
    | .sr u => if neg then !decide (u * d < (d - r) * 2 ^ 32) else decide (u * d < r * 2 ^ 32)

/-- Round a magnitude to a magnitude code of the format, unbounded above. -/
def Fmt.roundMag (f : Fmt) (m : Rnd) (neg : Bool) (num den : Nat) : Nat :=
  let (c, r, d) := f.floorCode num den
  if m.up neg (c % 2 == 1) r d then c + 1 else c

/-- Saturation modes of R63. -/
inductive Sat where
  | sat | ovf | nan
  deriving DecidableEq, Repr

/-- The mode of a code; 3 is refused before use. -/
def Sat.ofCode (c : Nat) : Sat := match c with | 0 => .sat | 1 => .ovf | _ => .nan

/-- The code of a magnitude code with a sign. -/
def Fmt.withSign (f : Fmt) (neg : Bool) (c : Nat) : Nat :=
  if f.signed && neg && (f.negZero || c != 0) then 2 ^ (f.bits - 1) + c else c

/-- The NaN a conversion writes, or the largest finite value where the format has none (R63). -/
def Fmt.nanOrMax (f : Fmt) (neg : Bool) : Nat :=
  match f.nanCode with
  | some c => c
  | none => f.withSign neg f.maxCode

/-- Infinity, or NaN where the format has none (R63 code ovf). -/
def Fmt.infOrNan (f : Fmt) (neg : Bool) : Nat :=
  match f.infCode with
  | some c => f.withSign neg c
  | none => f.nanOrMax neg

/-- Whether an overflow under mode ovf goes to infinity (R63). -/
def Rnd.ovfInf (m : Rnd) (neg : Bool) : Bool :=
  match m with
  | .rtz => false | .rup => !neg | .rdn => neg | _ => true

/-- Convert a value to a float format (R58, R63, R64): the code, and whether a NaN was lost. -/
def Fmt.encode (f : Fmt) (m : Rnd) (sm : Sat) (v : FVal) : Nat × Bool :=
  match v with
  | .nan => match f.nanCode with | some c => (c, false) | none => (0, true)
  | .inf neg =>
    if neg && !f.signed then (if sm = .sat then 0 else f.nanOrMax neg, false)
    else
      match sm with
      | .sat => (f.withSign neg f.maxCode, false)
      | .ovf => (f.infOrNan neg, false)
      | .nan => (f.nanOrMax neg, false)
  | .fin neg num den =>
    let c := f.roundMag m neg num den
    if neg && !f.signed then
      (if c = 0 then 0 else if sm = .sat then 0 else f.nanOrMax neg, false)
    else if c ≤ f.maxCode then (f.withSign neg c, false)
    else
      match sm with
      | .sat => (f.withSign neg f.maxCode, false)
      | .nan => (f.nanOrMax neg, false)
      | .ovf =>
        match f.infCode with
        | none => (f.nanOrMax neg, false)
        | some _ => (if m.ovfInf neg then f.infOrNan neg else f.withSign neg f.maxCode, false)

/-- Round a signed fraction to an integer (R58). -/
def roundInt (m : Rnd) (neg : Bool) (num den : Nat) : Int :=
  let q := num / den
  let n := if m.up neg (q % 2 == 1) (num % den) den then q + 1 else q
  if neg then -(n : Int) else (n : Int)

/-- An integer kept within bounds (R68). -/
def satInt (x lo hi : Int) : Int := if x < lo then lo else if hi < x then hi else x

/-- Lowest and highest value of an integer format. -/
def intLo (bits : Nat) (signed : Bool) : Int := if signed then -(2 ^ (bits - 1) : Nat) else 0
/-- The highest value of an integer format. -/
def intHi (bits : Nat) (signed : Bool) : Int := if signed then (2 ^ (bits - 1) : Nat) - 1 else (2 ^ bits : Nat) - 1

/-- Convert a value to an integer format (R64): the integer, and whether a NaN was lost. -/
def encodeInt (bits : Nat) (signed : Bool) (m : Rnd) (v : FVal) : Int × Bool :=
  match v with
  | .nan => (0, true)
  | .inf neg => (if neg then intLo bits signed else intHi bits signed, false)
  | .fin neg num den => (satInt (roundInt m neg num den) (intLo bits signed) (intHi bits signed), false)

/-- Convert a value to the format of a code (R58, R63, R64): the element's bits, and whether a NaN was lost. -/
def encodeFmt (code : Nat) (m : Rnd) (sm : Sat) (v : FVal) : Nat × Bool :=
  match familyOf code with
  | .flt f => f.encode m sm v
  | .int b sg => let (x, l) := encodeInt b sg m v; ((x % (2 ^ b : Nat)).toNat, l)
  | .b1 => (0, false)
  | .none => (0, false)

/-- Decode an element of the format of a code as a value; B1 is 0 or 1 (R51). -/
def decodeFmt (code x : Nat) : FVal :=
  match familyOf code with
  | .flt f => f.decode x
  | .int b sg =>
    let x := x % 2 ^ b
    if sg && decide (2 ^ (b - 1) ≤ x) then .fin true (2 ^ b - x) 1 else .fin false x 1
  | .b1 => .fin false (x % 2) 1
  | .none => .fin false 0 1

/-- An FP32 lane as a value. -/
def val32 (x : Lane) : FVal := fmt32.decode x.toNat

/-- A value rounded once to FP32 with RNE (R56). -/
def enc32 (v : FVal) : Lane := BitVec.ofNat 32 (fmt32.encode .rne .ovf v).1

/-- The canonical NaN of FP32. -/
def nan32 : Lane := 0x7FC00000

/-- A natural number with a sign. -/
def signed (neg : Bool) (n : Nat) : Int := if neg then -(n : Int) else (n : Int)

/-- Negate a value. -/
def FVal.neg : FVal → FVal
  | .nan => .nan
  | .inf s => .inf (!s)
  | .fin s n d => .fin (!s) n d

/-- The exact sum (R202): a zero sum is +0, unless both addends are -0. -/
def FVal.add : FVal → FVal → FVal
  | .nan, _ => .nan
  | _, .nan => .nan
  | .inf s, .inf t => if s = t then .inf s else .nan
  | .inf s, .fin _ _ _ => .inf s
  | .fin _ _ _, .inf t => .inf t
  | .fin s n d, .fin t m e =>
    let x : Int := signed s (n * e) + signed t (m * d)
    if x = 0 then .fin (s && t && decide (n = 0) && decide (m = 0)) 0 1 else .fin (decide (x < 0)) x.natAbs (d * e)

/-- The exact product. -/
def FVal.mul : FVal → FVal → FVal
  | .nan, _ => .nan
  | _, .nan => .nan
  | .inf s, .inf t => .inf (s != t)
  | .inf s, .fin t m _ => if m = 0 then .nan else .inf (s != t)
  | .fin s n _, .inf t => if n = 0 then .nan else .inf (s != t)
  | .fin s n d, .fin t m e => .fin (s != t) (n * m) (d * e)

/-- The exact quotient (R202). -/
def FVal.div : FVal → FVal → FVal
  | .nan, _ => .nan
  | _, .nan => .nan
  | .inf _, .inf _ => .nan
  | .inf s, .fin t _ _ => .inf (s != t)
  | .fin s _ _, .inf t => .fin (s != t) 0 1
  | .fin s n d, .fin t m e =>
    if m = 0 then (if n = 0 then .nan else .inf (s != t)) else .fin (s != t) (n * e) (d * m)

/-- The exact signed value of a finite one over a common denominator, for comparison. -/
def FVal.lt : FVal → FVal → Bool
  | .nan, _ => false
  | _, .nan => false
  | .inf s, .inf t => s && !t
  | .inf s, .fin _ _ _ => s
  | .fin _ _ _, .inf t => !t
  | .fin s n d, .fin t m e =>
    decide (signed s (n * e) < signed t (m * d))

/-- Equality of values; -0 equals +0 (R203). -/
def FVal.eq : FVal → FVal → Bool
  | .nan, _ => false
  | _, .nan => false
  | .inf s, .inf t => s == t
  | .inf _, .fin _ _ _ => false
  | .fin _ _ _, .inf _ => false
  | .fin s n d, .fin t m e =>
    decide (signed s (n * e) = signed t (m * d))

/-- Times a power of two. -/
def FVal.scale (v : FVal) (k : Int) : FVal :=
  match v with
  | .fin s n d => let q := pow2 k; .fin s (n * q.1) (d * q.2)
  | w => w

/-- FP32 operations (R202): the exact result rounded once. -/
def f32add (a b : Lane) : Lane := enc32 ((val32 a).add (val32 b))
/-- `fsub`. -/
def f32sub (a b : Lane) : Lane := enc32 ((val32 a).add (val32 b).neg)
/-- `fmul`. -/
def f32mul (a b : Lane) : Lane := enc32 ((val32 a).mul (val32 b))
/-- `fma`. -/
def f32fma (a b c : Lane) : Lane := enc32 (((val32 a).mul (val32 b)).add (val32 c))
/-- `fms`. -/
def f32fms (a b c : Lane) : Lane := enc32 (((val32 a).mul (val32 b)).add (val32 c).neg)
/-- `fnma`. -/
def f32fnma (a b c : Lane) : Lane := enc32 (((val32 a).mul (val32 b)).neg.add (val32 c))
/-- `fdiv`. -/
def f32div (a b : Lane) : Lane := enc32 ((val32 a).div (val32 b))

/-- Integer square root, bit by bit from bit `k` down. -/
def isqrtAux (n : Nat) : Nat → Nat → Nat
  | 0, r => if (r + 1) * (r + 1) ≤ n then r + 1 else r
  | k + 1, r => isqrtAux n k (if (r + 2 ^ (k + 1)) * (r + 2 ^ (k + 1)) ≤ n then r + 2 ^ (k + 1) else r)

/-- The integer square root of a number below 2^512. -/
def isqrt (n : Nat) : Nat := isqrtAux n (n.log2 / 2) 0

/-- `fsqrt` (R202): the root to 120 binary places with a sticky bit below, rounded once. -/
def f32sqrt (a : Lane) : Lane :=
  match val32 a with
  | .nan => nan32
  | .inf s => if s then nan32 else a
  | .fin s n d =>
    if n = 0 then a
    else if s then nan32
    else
      let r := isqrt (n * 2 ^ 240 / d)
      enc32 (.fin false (2 * r + (if r * r * d = n * 2 ^ 240 then 0 else 1)) (2 ^ 121))

/-- An FP32 lane is a NaN. -/
def isNan32 (a : Lane) : Bool := decide (0x7F800000 < a.toNat % 2 ^ 31)

/-- `fmin` (R203). -/
def f32min (a b : Lane) : Lane :=
  if isNan32 a then (if isNan32 b then nan32 else b)
  else if isNan32 b then a
  else if (val32 a).lt (val32 b) then a
  else if (val32 b).lt (val32 a) then b
  else if a.msb then a else b

/-- `fmax` (R203). -/
def f32max (a b : Lane) : Lane :=
  if isNan32 a then (if isNan32 b then nan32 else b)
  else if isNan32 b then a
  else if (val32 a).lt (val32 b) then b
  else if (val32 b).lt (val32 a) then a
  else if a.msb then b else a

/-- `fabs`. -/
def f32abs (a : Lane) : Lane := if isNan32 a then nan32 else a &&& 0x7FFFFFFF
/-- `fneg`. -/
def f32neg (a : Lane) : Lane := if isNan32 a then nan32 else a ^^^ 0x80000000

/-- `fclass` (R203). -/
def f32class (a : Lane) : Lane :=
  let mag := a.toNat % 2 ^ 31
  let k :=
    if 0x7F800000 < mag then (if a.getLsbD 22 then 9 else 8)
    else if mag = 0x7F800000 then (if a.msb then 0 else 7)
    else if mag = 0 then (if a.msb then 3 else 4)
    else if mag < 0x800000 then (if a.msb then 2 else 5)
    else (if a.msb then 1 else 6)
  BitVec.ofNat 32 (2 ^ k)

/-- `scalb` (R207): a power beyond 1000 either way rounds as 1000 does. -/
def f32scalb (a : Lane) (b : Int) : Lane :=
  match val32 a with
  | .nan => nan32
  | .inf _ => a
  | .fin s n d => if n = 0 then a else enc32 ((FVal.fin s n d).scale (satInt b (-1000) 1000))

/-- 400 binary places of log2(e), ln 2 and pi: enough for every FP32 argument (PRESUMED, log entry 14). -/
def cLog2e : Nat := 0x171547652b82fe1777d0ffda0d23a7d11d6aef551bad2b4b1164a2cd9a342648fbc3887eeaa2ed9ac49b25eeb82d7c167d521
/-- ln 2 times 2^400. -/
def cLn2 : Nat := 0xb17217f7d1cf79abc9e3b39803f2f6af40f343267298b62d8a0d175b8baafa2be7b876206debac98559552fb4afa1b10ed2e
/-- pi times 2^400. -/
def cPi : Nat := 0x3243f6a8885a308d313198a2e03707344a4093822299f31d0082efa98ec4e6c89452821e638d01377be5466cf34e90c6cc0ac

/-- `rred.exp` (R206): r and n. -/
def rredExp (x : Lane) (k : Nat) : Lane × Int :=
  match val32 x with
  | .nan => (nan32, 0)
  | .inf s => (0, signed s (4096 * 2 ^ k))
  | .fin s n d =>
    let zn := n * cLog2e
    let zd := d * 2 ^ 400
    let (zn, zd) := if 4096 * zd ≤ zn then (4096, 1) else (zn, zd)
    let m := roundInt .rne s (zn * 2 ^ k) zd
    let r := (FVal.fin s zn zd).add ((FVal.fin (decide (0 < m)) m.natAbs 1).scale (-(k : Int)))
    (enc32 (match r with | .fin t a b => if a = 0 then .fin false 0 1 else .fin t (a * cLn2) (b * 2 ^ 400) | w => w), m)

/-- `rred.log` (R206): r and n, with x = m 2^n and 0.75 ≤ m < 1.5. -/
def rredLog (x : Lane) : Lane × Int :=
  match val32 x with
  | .nan => (nan32, 0)
  | .inf s => if s then (nan32, 0) else (0x7F800000, 0)
  | .fin s n d =>
    if n = 0 then (0xFF800000, 0)
    else if s then (nan32, 0)
    else
      let e := expOf n d
      let q := pow2 e
      let e := if 3 * (d * q.1) ≤ 2 * (n * q.2) then e + 1 else e
      (enc32 (((FVal.fin false n d).scale (-e)).add (.fin true 1 1)), e)

/-- `rred.trig` (R206): r and n. -/
def rredTrig (x : Lane) : Lane × Int :=
  match val32 x with
  | .fin s n d =>
    if n = 0 then (0, 0)
    else
      let m := roundInt .rne s (n * 2 * 2 ^ 400) (d * cPi)
      (enc32 ((FVal.fin s n d).add (.fin (decide (0 < m)) (m.natAbs * cPi) (2 ^ 401))), m % 4)
  | _ => (nan32, 0)

/-- Truncate to FP32, the largest finite value beyond its range (R207). -/
def trunc32 (neg : Bool) (num den : Nat) : Lane := BitVec.ofNat 32 (fmt32.encode .rtz .sat (.fin neg num den)).1

/-- `frcp.e` (R207). -/
def f32rcpE (a : Lane) : Lane :=
  match val32 a with
  | .nan => nan32
  | .inf s => if s then 0x80000000 else 0
  | .fin s n d =>
    if n = 0 then (if s then 0xFF800000 else 0x7F800000)
    else
      let e := expOf n d
      let q := pow2 e
      let i := (n * q.2 * 128) / (d * q.1) - 128
      let y := 65536 / (257 + 2 * i)
      let z := pow2 (-e)
      trunc32 s (y * z.1) (256 * z.2)

/-- `frsq.e` (R207). -/
def f32rsqE (a : Lane) : Lane :=
  match val32 a with
  | .nan => nan32
  | .inf s => if s then nan32 else 0
  | .fin s n d =>
    if n = 0 then (if s then 0xFF800000 else 0x7F800000)
    else if s then nan32
    else
      let e := expOf n d
      let e := if e % 2 = 0 then e else e - 1
      let q := pow2 e
      let i := ((n * q.2 - d * q.1) * 128) / (3 * (d * q.1))
      let y := isqrt (256 * 65536 / (256 + 3 * (2 * i + 1)))
      let z := pow2 (-(e / 2))
      trunc32 false (y * z.1) (256 * z.2)

/-- A coefficient memory entry (R204). -/
structure Coef where
  c0 : Lane
  c1 : Lane
  c2 : Lane
  c3 : Lane
  deriving DecidableEq, Repr

/-- The entry the image does not give. -/
def Coef.zero : Coef := ⟨0, 0, 0, 0⟩

/-- A function descriptor's fields are legal (R205). -/
def lutOk (ev : Bool) (b : Word) : Bool :=
  let k := (b >>> 10).toNat % 16
  let base := b.toNat % 1024
  let x0 : Lane := (b >>> 32).setWidth 32
  (b >>> 24).toNat % 256 == 0 && (b >>> 14).toNat % 4 == 0 && k ≤ 10 && base + 2 ^ k ≤ 1024
    && (!ev || decide (x0.toNat % 2 ^ 31 < 0x7F800000))

/-- `lut.ev` (R205). -/
def lutEv (mem : NMap Coef) (x : Lane) (b : Word) : Lane :=
  let k := (b >>> 10).toNat % 16
  let base := b.toNat % 1024
  let x0 : Lane := (b >>> 32).setWidth 32
  let e : Int := ((b >>> 16).setWidth 8 : BitVec 8).toInt
  let jf : Option (Nat × Lane) :=
    match (val32 x).add (val32 x0).neg with
    | .nan => none
    | .inf s => some (if s then (0, 0) else (2 ^ k - 1, 0x3F800000))
    | .fin s n d =>
      let q := pow2 (-e)
      let n := n * q.1
      let d := d * q.2
      if n = 0 then some (0, 0)
      else if s then some (0, 0)
      else if d ≤ n then some (2 ^ k - 1, 0x3F800000)
      else some (n * 2 ^ k / d, enc32 (.fin false (n * 2 ^ k % d) d))
  match jf with
  | none => nan32
  | some (j, f) =>
    let c := NMap.get mem (base + j) Coef.zero
    f32fma (f32fma (f32fma c.c3 f c.c2) f c.c1) f c.c0

/-- `lut.ix` (R205). -/
def lutIx (mem : NMap Coef) (i : Int) (b : Word) : Lane :=
  let k := (b >>> 10).toNat % 16
  let base := b.toNat % 1024
  (NMap.get mem (base + (satInt i 0 (2 ^ k - 1 : Nat)).toNat) Coef.zero).c0

/-- The value of a block scale byte: unsigned binary8 P = 4, finite (R47, R52). -/
def scaleVal (s : Nat) : FVal := (fmtU8 4 false).decode s

/-- The value of an element under a block scale (R54). -/
def elemVal (code scale x : Nat) : FVal := (decodeFmt code x).mul (scaleVal scale)

/-- `bscale` (R212). -/
def f32bscale (a : Lane) (b : Nat) : Lane :=
  let c := scaleVal (b % 256)
  if b / 256 % 2 = 0 then enc32 ((val32 a).mul c) else enc32 ((val32 a).div c)

/-- The largest finite value of a format code (R212). -/
def fmtMax (code : Nat) : Nat × Nat :=
  match familyOf code with
  | .flt f => f.magOf f.maxCode
  | .int b sg => ((intHi b sg).toNat, 1)
  | _ => (1, 1)

/-- The smallest scale code from `s` on whose value covers the magnitude, 0xFE if none, trying `k` codes. -/
def mkScale (mx : Nat × Nat) (num den : Nat) : Nat → Nat → Nat
  | 0, _ => 0xFE
  | k + 1, s =>
    match scaleVal s with
    | .fin _ n d => if num * (mx.2 * d) ≤ mx.1 * n * den then s else mkScale mx num den k (s + 1)
    | _ => 0xFE

/-- `mkdesc` (R212): the block word. -/
def f32mkdesc (a : Lane) (b : Nat) : Nat :=
  let code := b % 256
  if !fmtValid code || code / 16 = 0 then 0x0080
  else
    match val32 a with
    | .nan => if code / 16 = 12 then code * 256 + 0x80 else code * 256 + 0xFF
    | .inf _ => if code / 16 = 12 then code * 256 + 0x80 else code * 256 + 0xFE
    | .fin _ n d =>
      if code / 16 = 12 || n = 0 then code * 256 + 0x80
      else code * 256 + mkScale (fmtMax code) n d 0xFE 1

/-- One level of the tree of R66. -/
def pairUp {α : Type} (op : α → α → α) : List α → List α
  | a :: b :: r => op a b :: pairUp op r
  | l => l

/-- The tree of R66 over up to 32 lanes; the default stands for no lane. -/
def treeReduce {α : Type} (op : α → α → α) (d : α) (l : List α) : α :=
  (pairUp op (pairUp op (pairUp op (pairUp op (pairUp op l))))).headD d

/-- `mix` (R60). -/
def mix (x : Word) : Word :=
  let z := x ^^^ (x >>> 29)
  let z := z * 0x9F2B61C7E4D38A5B
  let z := z ^^^ (z >>> 32)
  let z := z * 0x6B47D1E92C85F31D
  z ^^^ (z >>> 29)

/-- Popcount (R68). -/
def popcount (n : Nat) : Nat → Nat
  | 0 => 0
  | k + 1 => popcount (n / 2) k + n % 2

/-- Insert into a sorted list of integers. -/
def insertInt (x : Int) : List Int → List Int
  | [] => [x]
  | y :: r => if x ≤ y then x :: y :: r else y :: insertInt x r

/-- The median of an odd number of integers (R68). -/
def medianInt (l : List Int) : Int := (l.foldr insertInt []).getD (l.length / 2) 0

end Sys2Proof.Machine
end

