-- ==== Sys2Proof/Machine/Shape.lean ====
section
/-! DEFINITION. Where each instruction may stand, the literal it reads, and how it uses its four select fields
(R178, R181, R182, R218, R230, R250, R276). -/

namespace Sys2Proof.Machine

/-- Kinds of programmable element (R181). -/
inductive EKind where
  | task | graph | lut | port
  deriving DecidableEq, Repr

/-- The literal an instruction reads (R176, R181). -/
inductive LitKind where
  | none | data | conv | mem | ag | branch
  deriving DecidableEq, Repr

/-- How a select field is used. -/
inductive FUse where
  /-- A source select; where an instruction's effect names no value for it, the select is still read (R31, R177). -/
  | src
  /-- A source that must be an in-port or control port (R218, R250). -/
  | port
  /-- A source that must be a control port. -/
  | cport
  /-- A source that must be an in-port (R209). -/
  | inport
  /-- A destination select. -/
  | dst
  /-- A destination that must be a control port. -/
  | cdst
  /-- A destination of a second result (R178). -/
  | res2
  /-- Read first, then written (R182). -/
  | rw
  /-- Must be 31: the structured literal (R176). -/
  | lit31
  /-- Must be z. -/
  | zero
  /-- An immediate (R179). -/
  | imm
  deriving DecidableEq, Repr

/-- The operand shape of an instruction on a class of element. -/
structure Shape where
  onT : Bool
  onG : Bool
  onL : Bool
  onM : Bool
  lit : LitKind
  a : FUse
  b : FUse
  d : FUse
  e : FUse
  deriving DecidableEq, Repr

/-- dstB takes a second result of its own (R178): set for `steer`, `split`, `rnorm` and `argmx`. -/
def Shape.role2 (h : Shape) : Bool := h.e == .res2

/-- The shape is legal on a kind. -/
def Shape.on (h : Shape) : EKind → Bool
  | .task => h.onT
  | .graph => h.onG
  | .lut => h.onL
  | .port => h.onM

/-- The shape of an instruction on a task processor (DEDUCED, log entry 40). -/
def taskShape : Instr → Option Shape
  | .iNop _ | .iPlf _ | .iXinv _ | .iTriad _ | .iThold _ | .iTdrain _ | .iTzero _ | .iTrag _
  | .iTscl _ | .iRsort _ | .iSig _ | .iShfGo _ | .iShfFb _ | .iCtlWr _ => some ⟨true, false, false, false, .data, .src, .src, .zero, .zero⟩
  | .iAdd _ | .iSub _ | .iMul _ | .iMulh _ | .iMulhu _ | .iDiv _ | .iDivu _ | .iRem _ | .iRemu _ | .iNeg _ | .iAbs _
  | .iAdds _ | .iSubs _ | .iLea _ | .iAnd _ | .iOr _ | .iXor _ | .iAndn _ | .iNot _ | .iShl _ | .iShr _ | .iSra _
  | .iRol _ | .iPopc _ | .iClz _ | .iCtz _ | .iBext _ | .iBrev _ | .iBswap _ | .iMov _ | .iSeq _ | .iSne _ | .iSlt _
  | .iSle _ | .iSltu _ | .iSleu _ | .iMin _ | .iMax _ | .iMinu _ | .iMaxu _ | .iSext _ | .iZext _ | .iFadd _
  | .iFsub _ | .iFmul _ | .iFmin _ | .iFmax _ | .iFabs _ | .iFneg _ | .iFeq _ | .iFlt _ | .iFle _ | .iFclass _
  | .iFdiv _ | .iFsqrt _ | .iScalb _ | .iCvtfI _ | .iCvtiF _ | .iBscale _ | .iMkdesc _ => some ⟨true, false, false, false, .data, .src, .src, .dst, .dst⟩
  | .iMad _ | .iBins _ | .iSel _ | .iClamp _ | .iFma _ | .iFms _ | .iFnma _ => some ⟨true, false, false, false, .data, .src, .src, .dst, .src⟩
  | .iCvt _ => some ⟨true, false, false, false, .conv, .src, .lit31, .dst, .dst⟩
  | .iBr _ | .iCall _ => some ⟨true, false, false, false, .branch, .zero, .lit31, .zero, .zero⟩
  | .iBz _ | .iBnz _ | .iRep _ => some ⟨true, false, false, false, .branch, .src, .lit31, .zero, .zero⟩
  | .iBlt _ | .iBge _ | .iBltu _ | .iBgeu _ => some ⟨true, false, false, false, .branch, .src, .lit31, .src, .zero⟩
  | .iRet _ => some ⟨true, false, false, false, .none, .zero, .zero, .zero, .zero⟩
  | .iJr _ => some ⟨true, false, false, false, .none, .src, .zero, .dst, .dst⟩
  | .iWait _ => some ⟨true, false, false, false, .none, .imm, .imm, .imm, .imm⟩
  | .iLdB _ | .iLdH _ | .iLdW _ | .iLdD _ | .iLdAcq _ | .iSrd _ | .iSprb _ | .iSkStat _ => some ⟨true, false, false, false, .mem, .src, .lit31, .dst, .zero⟩
  | .iStB _ | .iStH _ | .iStW _ | .iStD _ | .iStRel _ | .iCmb _ | .iCmbF _ | .iSwr _ | .iBar _ | .iBmcInv _
  | .iSkInit _ | .iSkMerge _ | .iSkScale _ | .iHoldIns _ | .iHoldDrop _ => some ⟨true, false, false, false, .mem, .src, .lit31, .src, .zero⟩
  | .iAmoAdd _ | .iAmoAnd _ | .iAmoOr _ | .iAmoXor _ | .iAmoMin _ | .iAmoMax _ | .iAmoSwp _ => some ⟨true, false, false, false, .mem, .src, .lit31, .dst, .src⟩
  | .iAmoCas _ => some ⟨true, false, false, false, .mem, .src, .lit31, .rw, .src⟩
  | .iSclr _ | .iCp _ | .iCp2 _ | .iCpg _ | .iCps _ | .iSkClr _ | .iRtSnap _ => some ⟨true, false, false, false, .mem, .src, .lit31, .zero, .zero⟩
  | .iFence _ => some ⟨true, false, false, false, .mem, .zero, .lit31, .zero, .zero⟩
  | .iXlt _ | .iMig _ => some ⟨true, false, false, false, .data, .src, .src, .dst, .zero⟩
  | .iJobSpawn _ | .iDbgX _ => some ⟨true, false, false, false, .data, .src, .src, .dst, .dst⟩
  | .iWinChk _ => some ⟨true, false, false, false, .data, .zero, .src, .dst, .zero⟩
  | .iWtagAny _ | .iFtag _ | .iCtlRd _ | .iCntRd _ | .iIdRd _ => some ⟨true, false, false, false, .data, .src, .zero, .dst, .dst⟩
  | .iTacc _ | .iTcomb _ | .iTstat _ | .iTndCall _ | .iTndWd _ | .iTndCost _ | .iTndSt _ => some ⟨true, false, false, false, .data, .src, .zero, .dst, .zero⟩
  | .iWtagAll _ | .iCtag _ | .iJobJoin _ | .iTrap _ | .iBrk _ | .iSwpPl _ | .iQsc _ | .iPmt _ | .iCkpt _ | .iRstor _
  | .iTabort _ | .iTpri _ | .iDone _ | .iRngSeed _ => some ⟨true, false, false, false, .data, .src, .zero, .zero, .zero⟩
  | .iSkAdd _ => some ⟨true, false, false, false, .mem, .src, .lit31, .src, .src⟩
  | .iSkQry _ | .iSkRd _ | .iHoldQ _ => some ⟨true, false, false, false, .mem, .src, .lit31, .rw, .zero⟩
  | .iRng _ => some ⟨true, false, false, false, .data, .zero, .zero, .dst, .zero⟩
  | .iEret _ | .iHalt _ | .iIdle _ => some ⟨true, false, false, false, .data, .zero, .zero, .zero, .zero⟩
  | _ => none

/-- The shape of an instruction on a graph, LUT or memory port element. -/
def elemShape : Instr → Option Shape
  | .iNop _ => some ⟨false, true, true, true, .data, .src, .src, .zero, .zero⟩
  | .iAdd _ | .iSub _ | .iMul _ | .iMulh _ | .iMulhu _ | .iDiv _ | .iDivu _ | .iRem _ | .iRemu _ | .iNeg _ | .iAbs _
  | .iAdds _ | .iSubs _ | .iLea _ | .iAnd _ | .iOr _ | .iXor _ | .iAndn _ | .iNot _ | .iShl _ | .iShr _ | .iSra _
  | .iRol _ | .iPopc _ | .iClz _ | .iCtz _ | .iBext _ | .iBrev _ | .iBswap _ | .iMov _ | .iSeq _ | .iSne _ | .iSlt _
  | .iSle _ | .iSltu _ | .iSleu _ | .iMin _ | .iMax _ | .iMinu _ | .iMaxu _ | .iSext _ | .iZext _ | .iLane _
  | .iFadd _ | .iFsub _ | .iFmul _ | .iFmin _ | .iFmax _ | .iFabs _ | .iFneg _ | .iFeq _ | .iFlt _ | .iFle _
  | .iFclass _ | .iFdiv _ | .iFsqrt _ | .iScalb _ | .iFrcpE _ | .iFrsqE _ | .iCvtfI _ | .iCvtiF _ | .iBscale _
  | .iMkdesc _ | .iAmax _ | .iVsum _ | .iVmax _ | .iVmin _ | .iVscan _ | .iVperm _ | .iVsplat _ | .iVslide _
  | .iVext _ | .iCat _ | .iVcnt _ => some ⟨false, true, true, false, .data, .src, .src, .dst, .dst⟩
  | .iMad _ | .iBins _ | .iSel _ | .iClamp _ | .iFma _ | .iFms _ | .iFnma _ | .iVins _ => some ⟨false, true, true, false, .data, .src, .src, .dst, .src⟩
  | .iLutEv _ | .iLutIx _ | .iRredExp _ | .iRredLog _ | .iRredTrig _ => some ⟨false, false, true, false, .data, .src, .src, .dst, .dst⟩
  | .iCvt _ | .iPack _ | .iUnpack _ => some ⟨false, true, true, false, .conv, .src, .lit31, .dst, .dst⟩
  | .iCvtSr _ => some ⟨false, true, true, false, .conv, .src, .lit31, .dst, .inport⟩
  | .iFilt _ | .iCmpct _ | .iCntRd _ => some ⟨false, true, false, false, .data, .src, .src, .dst, .dst⟩
  | .iSplit _ | .iArgmx _ => some ⟨false, true, true, false, .data, .src, .src, .dst, .res2⟩
  | .iSteer _ | .iRnorm _ => some ⟨false, true, false, false, .data, .port, .src, .dst, .res2⟩
  | .iMerge _ | .iJoin _ | .iCmpfw _ => some ⟨false, true, false, false, .data, .port, .port, .dst, .dst⟩
  | .iGate _ | .iReord _ | .iEor _ | .iItgen _ | .iTopkRp _ | .iTagset _ | .iRtMap _ => some ⟨false, true, false, false, .data, .port, .src, .dst, .dst⟩
  | .iSink _ | .iErrMk _ | .iFin _ => some ⟨false, true, true, true, .data, .port, .src, .dst, .dst⟩
  | .iCtlOut _ => some ⟨false, true, true, true, .data, .port, .src, .cdst, .zero⟩
  | .iCtlWt _ => some ⟨false, true, false, false, .data, .cport, .src, .dst, .dst⟩
  | .iLdB _ | .iLdH _ | .iLdW _ | .iLdD _ | .iStB _ | .iStH _ | .iStW _ | .iStD _ | .iVld _ | .iVst _ | .iLdt _
  | .iSts _ | .iGld _ | .iSst _ | .iLdAcq _ | .iStRel _ | .iAmoAdd _ | .iAmoAnd _ | .iAmoOr _ | .iAmoXor _
  | .iAmoMin _ | .iAmoMax _ | .iAmoSwp _ | .iAmoCas _ | .iCmb _ | .iCmbF _ | .iSrd _ | .iSwr _ | .iSclr _ | .iSprb _
  | .iFence _ | .iBar _ | .iSkInit _ | .iSkQry _ | .iSkMerge _ | .iSkScale _ | .iSkClr _ | .iSkRd _ | .iSkStat _
  | .iRtSnap _ | .iHoldIns _ | .iHoldDrop _ | .iHoldQ _ => some ⟨false, false, false, true, .ag, .port, .lit31, .dst, .dst⟩
  | .iXlt _ | .iWinChk _ => some ⟨false, false, false, true, .data, .port, .src, .dst, .dst⟩
  | .iSkAdd _ => some ⟨false, false, false, true, .ag, .port, .lit31, .dst, .src⟩
  | .iRtCnt _ => some ⟨false, true, false, true, .data, .port, .src, .dst, .dst⟩
  | .iRng _ => some ⟨false, true, true, false, .data, .port, .src, .dst, .dst⟩
  | _ => none

/-- The shape of an instruction on a kind of element, where it is legal (R181). -/
def shapeOn (k : EKind) (i : Instr) : Option Shape :=
  match (if k = .task then taskShape i else elemShape i) with
  | some h => if h.on k then some h else none
  | none => none

/-- Steward-only instructions (R183). -/
def stewardOnly : Instr → Bool
  | .iEret _ | .iHalt _ | .iQsc _ | .iPmt _ | .iCkpt _ | .iRstor _ | .iDbgX _ | .iXinv _ | .iMig _ => true
  | _ => false

end Sys2Proof.Machine
end

