-- ==== Sys2Proof/Machine/Types.lean ====
section
/-! DEFINITION. The plain data types of the machine: tokens, contexts, elements, requests. Indexed state is held as sparse
maps whose absent entries read as the reset value named at the accessor. -/

namespace Sys2Proof.Machine

/-! Tokens (R27 to R30). -/

/-- Kinds of token (R27). -/
inductive Kind where
  | scalar | vector | ctl | err | fault | window | eor
  deriving DecidableEq, Repr

/-- A token: its tag, its payload, and its lanes with their indices (R27, R28). -/
structure Tok where
  kind : Kind
  thread : Nat
  iter : Nat
  /-- Run length minus one. -/
  len : Nat
  /-- The 64-bit payload of a token without lanes. -/
  pay : Word
  /-- The lanes; none for a scalar payload. -/
  lanes : List Lane
  /-- The carried iterations of an indexed token; of a window token, the page address and size its window came from
  (R394); none otherwise. -/
  idx : List Nat
  deriving DecidableEq, Repr

/-- A token travelling on an arc, with the header and sideband the routers check (R27 to R29). -/
structure Wire where
  slot : Nat
  tok : Tok
  /-- 0 held at its sender, 1 on its route, 2 past its last router. -/
  stage : Nat
  /-- Routers of its route that have checked it and forwarded it (R29, R346). -/
  hop : Nat
  deriving DecidableEq, Repr

/-- A waiting token of a matching store (R31, R33). -/
structure Entry where
  slot : Nat
  port : Nat
  tok : Tok
  /-- Arrival number: older is lower. -/
  arr : Nat
  deriving DecidableEq, Repr

/-! Task contexts (R20 to R22, R239 to R242). -/

/-- A channel of a context: its arc and direction (R17, R177), and the words waiting in it (R22). -/
structure Chan where
  /-- The bound arc; none when unbound. -/
  arc : Option Nat
  /-- The arc starts here: a destination channel. -/
  dest : Bool
  /-- The channel is bound to ragged rows (R288). -/
  ragged : Bool
  buf : List Tok
  deriving DecidableEq, Repr

/-- A repeat state (R232). -/
structure Rpt where
  left : BitVec 32
  start : BitVec 11
  n1 : BitVec 6
  active : Bool
  /-- The count `rep` read: the pass number is tot - left + 1 (R232). -/
  tot : BitVec 32
  deriving DecidableEq, Repr

/-- Counting classes (R120, R253). -/
inductive Cls where
  | ld | st | cp | tl | none
  deriving DecidableEq, Repr

/-- What `wait`, `wtag.any` and `wtag.all` wait for (R233, R234). -/
inductive Until where
  /-- The four counts at or below their immediates; `acq`: an acquire, which brings cp or tl to 0 (R123). -/
  | counts (ld st cp tl : Nat) (acq : Bool)
  | anyTag (m : Word)
  | allTags (m : Word)
  deriving DecidableEq, Repr

/-- What a context that an engine or its node holds at issue waits for. -/
inductive Await where
  /-- An entry of a sequencer queue (R90). -/
  | queue (high : Bool)
  /-- The close of the open ragged product that holds a bank (R78, R283). -/
  | bank (b : Nat)
  /-- Its own stores to scratchpad bytes that an engine reads at issue (R120). -/
  | stores (off n : Nat)
  /-- A tag's count below 31 (R268). -/
  | tag (k : Nat)
  /-- An entry of the tile's translation node (R405). -/
  | node
  /-- The arcs that enter its team are clear and its sequencer is interruptible (R249). -/
  | clear
  deriving DecidableEq, Repr

/-- Scheduling state of a context (R21), with what a blocked context waits for. -/
inductive CtxSt where
  | idle
  | runnable
  | blkChan (k : Nat)
  /-- The arc of a destination channel back-pressures its sender (R22). -/
  | blkSend (k : Nat)
  /-- A source register is still to be written by an earlier instruction that is no memory access (R357). -/
  | blkReg (code : Nat)
  | blkWait (w : Until)
  | blkIssue (c : Cls)
  | blkIdle
  /-- Waiting for the home's verdict on a request (R253). -/
  | blkVerdict (id : Nat)
  | blkFence
  | blkAcq
  | blkDone
  /-- Waiting for an engine queue, bank, tag count or intake (R112, R249, R278). -/
  | blkEngine (w : Await)
  | ended
  | halted
  deriving DecidableEq, Repr

/-- A window register (R101), with the page it was issued from (R394). -/
structure Win where
  base : Nat
  extent : Nat
  /-- 0 SO, 1 RC, 2 UN, 3 STRUCT. -/
  kind : Nat
  rd : Bool
  wr : Bool
  img : Bool
  key : Nat
  seq : Nat
  tenant : Nat
  va : Nat
  size : Nat
  revoked : Bool
  deriving DecidableEq, Repr

/-- A shoot-down seen by an agent (R394). -/
structure Shoot where
  num : Nat
  tenant : Nat
  vpn : Nat
  npg : Nat
  deriving DecidableEq, Repr

/-- A task context (R20, R242). -/
structure Ctx where
  /-- General registers s0 to s23. -/
  s : Vector Word 24
  pc : BitVec 11
  fp : Word
  /-- Thread in bits 31 to 20, iteration in bits 19 to 0. -/
  tag : Lane
  /-- Channels vc0 to vc3. -/
  vc : NMap Chan
  ld : Nat
  st : Nat
  cp : Nat
  tl : Nat
  status : CtxSt
  /-- Steward mode. -/
  steward : Bool
  tcause : BitVec 16
  tslot : BitVec 11
  tval : Word
  uslot : BitVec 11
  utvec : BitVec 12
  tvec : BitVec 8
  sscr : Word
  rsave : Rpt
  rpt : Rpt
  /-- Lost NaN, bit 0 of ctxst. -/
  lnan : Bool
  /-- The slot of the trap that entered steward mode (R240). -/
  tsl0 : BitVec 11
  /-- Deferred traps not yet taken: cause and value (R239). -/
  held : List (Nat × Word)
  /-- Windows win0 to win10 (R101). -/
  wins : NMap Win
  /-- The acquire that holds later memory instructions at issue (R253). -/
  acq : Option Nat
  /-- The request number that was next when its last `fence` was done, and that fence's scope (R124, R130). -/
  fenceAt : Option (Nat × Nat)
  /-- Instructions issued, and cycles blocked (R243). -/
  work : Word
  blk : Word
  /-- When the context blocked last. -/
  blkAt : Nat
  /-- The status `done` will end with (R237). -/
  donest : BitVec 16
  /-- Recent shoot-downs (R394). -/
  shoots : List Shoot
  /-- The address match has stopped the context at this issue already (R245; DEDUCED, log entry 25). -/
  skip : Bool
  deriving DecidableEq, Repr

/-- A task processor: its stores, its copy tags and its four contexts (R112, R193, R240). -/
structure Tp where
  /-- Task store, absent slots hold 0xFFFF_FFFF. -/
  store : NMap Lane
  lits : NMap Word
  /-- Steward store of 256 slots. -/
  sstore : NMap Lane
  slits : NMap Word
  /-- Copy-done bitmap D, and copy-error bitmap. -/
  cpdone : Word
  cperr : Word
  /-- Outstanding copies of each tag. -/
  tags : NMap Nat
  /-- The context that issued last (R21). -/
  last : Nat
  ctxs : NMap Ctx
  deriving DecidableEq, Repr

/-! Elements (R31 to R39, R229). -/

/-- A configuration plane (R39, R176). -/
structure Plane where
  words : NMap Lane
  lits : NMap Word
  /-- Occupancy mask (R193, R339). -/
  mask : BitVec 64
  deriving DecidableEq, Repr

/-- An address generator record (R15, R102, R341). -/
structure Gen where
  space : Nat
  width : Nat
  base : Int
  step : Int
  limit : Nat
  /-- Combine control (R261). -/
  cc : Word
  /-- Label operand `ls=` of sketch adds (R291): an element register, or a constant. -/
  lsReg : Bool
  ls : Int
  disabled : Bool
  deriving DecidableEq, Repr

/-- A staging buffer of `cmpct` (R216). -/
structure CmpBuf where
  thread : Nat
  lanes : List Lane
  idx : List Nat
  count : Nat
  /-- Time of the last append. -/
  stamp : Nat
  deriving DecidableEq, Repr

/-- A pair-store entry of `cmpfw` (R226). -/
structure Pair where
  slot : Nat
  thread : Nat
  iter : Nat
  c0 : Option Tok
  c1 : Option Tok
  deriving DecidableEq, Repr

/-- A winner counter of `topk.rp` (R227). -/
structure TopK where
  slot : Nat
  thread : Nat
  iter : Nat
  j : Nat
  deriving DecidableEq, Repr

/-- The runs an `itgen` firing has still to emit (R223). -/
structure ItRun where
  slot : Nat
  thread : Nat
  n : Nat
  r : Nat
  next : Nat
  /-- Destinations, tag action and literal of the slot. -/
  d : Nat
  e : Nat
  t : Nat
  lit : Word
  /-- Thread and iteration consumed on srcB (R34). -/
  tb : Option (Nat × Nat)
  /-- Firing number (R224). -/
  fire : Nat
  deriving DecidableEq, Repr

/-- A `fin` word waiting for earlier firings of its element (R224). -/
structure FinWord where
  tok : Tok
  d : Nat
  e : Nat
  fire : Nat
  deriving DecidableEq, Repr

/-- The firing an element has begun (R31, R32): its slot, tag and consumed tokens. -/
structure Fire where
  slot : Nat
  word : Lane
  lit : Word
  /-- The consumed part of each data port's token. -/
  toks : List (Nat × Tok)
  thread : Nat
  iter : Nat
  /-- Overlap length, 1 to 32. -/
  n : Nat
  /-- A source was a vector token. -/
  vec : Bool
  /-- An end-of-round token was consumed. -/
  eor : Bool
  fire : Nat
  deriving DecidableEq, Repr

/-- A graph, LUT or memory port element. -/
structure Elem where
  /-- Element registers e0 to e7. -/
  e : Vector Word 8
  planes : NMap Plane
  apl : Nat
  npl : Nat
  nrdy : Bool
  npnd : Bool
  /-- Waiting for the pending fill to swap (R39). -/
  swapWait : Bool
  /-- `swp.pl` has asked for a swap step (R248). -/
  swapReq : Bool
  store : List Entry
  /-- Next arrival number and next firing number. -/
  arrSeq : Nat
  fireSeq : Nat
  /-- Waiting pulses by 4 slot + control port (R38): their arrival numbers, oldest first. -/
  ctl : NMap (List Nat)
  esl : Bool
  wrf : Bool
  lnan : Bool
  smiss : Bool
  recCnt : Nat
  gzc : Nat
  halt : Bool
  /-- A breakpoint has stopped the element at this set already (R245). -/
  skipBrk : Bool
  gens : NMap Gen
  wins : NMap Win
  lut : NMap Coef
  /-- Expected iteration of each thread at `reord` (R221). -/
  reord : NMap Nat
  cmpct : NMap (List CmpBuf)
  /-- Lane counters of `eor` by slot (R223). -/
  eors : NMap Nat
  pairs : List Pair
  topk : List TopK
  itgen : List ItRun
  fins : List FinWord
  /-- By slot, the request number that was next when its last `fence` completed, and that fence's scope (R124, R130). -/
  fences : NMap (Nat × Nat)
  cur : Option Fire
  work : Word
  blk : Word
  shoots : List Shoot
  deriving DecidableEq, Repr

/-! Requests: the operations in flight that R112, R120 and R253 count. -/

/-- Who issued an access (R116). -/
inductive Agent where
  /-- A peer chip, through its link port (R128, R385). -/
  | peer (chip : Nat)
  | ctx (g p c : Nat)
  | elem (g e : Nat)
  | porter (g : Nat)
  | seq (g : Nat)
  | loader (inst : Nat)
  | hub
  deriving DecidableEq, Repr

/-- Where a piece of an access lies: a scratchpad offset, a physical address, or a virtual one not yet walked. -/
inductive Place where
  | spad (g off : Nat)
  | phys (pa : Nat)
  | virt (va : Nat)
  deriving DecidableEq, Repr

/-- A part of an access that is performed as one (R117, R126). -/
structure Piece where
  place : Place
  /-- Page kind: 0 SO, 1 RC, 2 UN, 3 STRUCT, 4 scratchpad. -/
  kind : Nat
  /-- Bytes. -/
  n : Nat
  /-- Value stored, or operand. -/
  val : Nat
  /-- Compare value of a cas. -/
  cmp : Nat
  /-- Lane or element this piece belongs to, and its byte offset within it. -/
  lane : Nat
  sh : Nat
  done : Bool
  /-- Value read. -/
  got : Nat
  /-- The key slot of its window or page-table entry (R101, R413); none for an access under no key. -/
  key : Option Nat
  deriving DecidableEq, Repr

/-- Atomic operations (R260). -/
inductive Amo where
  | add | and | or | xor | min | max | swp | cas
  deriving DecidableEq, Repr

/-- Where one end of a copy lies (R266). -/
structure End where
  space : Nat
  /-- Tile of the team for scratchpad, or of the issuing context. -/
  g : Nat
  off : Nat
  deriving DecidableEq, Repr

/-- A copy in progress (R266 to R269): its descriptor and how far it has come. -/
structure Copy where
  /-- 0 cp, 1 cp2, 2 cpg, 3 cps. -/
  mode : Nat
  src : End
  dst : End
  tag : Nat
  rows : Nat
  len : Nat
  dstr : Int
  sstr : Int
  bv : Bool
  bvault : Nat
  boff : Nat
  aux : Word
  table : End
  pool : End
  first : Nat
  /-- Position of the next landing, counted in bytes over all rows. -/
  pos : Nat
  /-- A check has failed: nothing further moves (R268). -/
  bad : Bool
  /-- Bytes fetched and not yet landed, each with where it was read and its block's word then, and the position of the next fetch. -/
  got : List (Byte × Place × Nat)
  fetch : Nat
  /-- The pool block of the block fetched now, with the table's place and the logical block it was looked up for (R170, R171). -/
  map : Option (Nat × Nat × Nat)
  /-- The bytes landed so far by destination block, by place / 64: for each, the source block it came from where it stood at the same place in
  it, none otherwise (R55, R267). -/
  fill : NMap (NMap (Option Place))
  /-- It is withheld at its destination (R325). -/
  stuck : Bool
  /-- The window registers as they stood when it issued (R103, R394). -/
  wins : NMap Win
  deriving DecidableEq, Repr

/-- What a request does at its home. -/
inductive ReqOp where
  | load
  | store
  | amo (o : Amo)
  | srd
  | swr
  | sclr
  | sprb
  /-- A contribution with its control word; `fixed` for `cmb.f` (R261). -/
  | cmb (fixed : Bool) (cc : Word)
  | bar (n : Nat)
  | copy (c : Copy)
  | plf (e plane : Nat)
  | bmcInv (first count : Nat)
  | xlt (k need : Nat)
  | xinv (num : Nat)
  | mig
  /-- The template, read at issue (R291). -/
  | skInit (tmpl : List Byte)
  /-- Index, value and loss-scale exponent of each lane. -/
  | skAdd (lanes : List (Nat × Lane × Int))
  | skQry (ixs : List Nat)
  /-- The source, the bytes from it to the end of its window or grant, and the cause past that end; once its header has been read, that header's
  first word, and the counters read so far, in ascending order (R143). -/
  | skMerge (src : Place) (room past : Nat) (hd : Option Word) (got : List Int)
  | skScale (f : Lane)
  | skClr
  /-- Row, first bucket and count. -/
  | skRd (row first n : Nat)
  | skStat
  | rtSnap
  | rsort (src dst n : Nat)
  /-- A coded shuffle: its tag, the next entry of its plan, and their count (R149). -/
  | shf (tag pos n : Nat)
  | shfFb (tag : Nat)
  | holdIns (id len : Nat)
  | holdDrop (id : Nat)
  | holdQ (id : Nat)
  | rngSeed (v : Word)
  | rng (n : Nat)
  | tacc (bank row col : Nat)
  | jobSpawn (st : Nat)
  | jobJoin (h : Nat)
  | sig (a : Word) (code : Nat)
  | tndCall
  /-- Features f2, f4 and f5 of the moment of issue (R299). -/
  | tndCost (f2 f4 f5 : Nat)
  | tndWd (seq : Nat)
  | tndSt (seq : Nat)
  /-- A read of a descriptor, plan header, image or checkpoint. -/
  | desc (w : Lane)
  | ckpt (pa : Nat)
  | rstor (pa : Nat)
  /-- A triad queue entry's count. -/
  | tri
  /-- An access that leaves no result (R104). -/
  | part
  /-- A token of an element's firing, or a word for a channel, that leaves in its turn (R36, R110). -/
  | emit (k : Tok)
  /-- A `fence` on a memory port (R264). -/
  | fence
  deriving DecidableEq, Repr

/-- How far a request has come. -/
inductive Phase where
  /-- Not yet performed. -/
  | wait
  /-- Accepted by its home, answered later (R263, R265). -/
  | accepted
  | done
  | refused (cause off : Nat)
  deriving DecidableEq, Repr

/-- What an acquire reads to observe a release (R123): the released location, a copy tag, the counts cp and tl, a barrier's generation. -/
inductive Mark where
  | loc (pa : Nat)
  | spad (g off : Nat)
  | tag (g p k : Nat)
  | cp (g p c : Nat)
  | tl (g p c : Nat)
  | bar (pa gen : Nat)
  deriving DecidableEq, Repr

/-- A performed write that is not yet visible to every agent (R118, R121): oldest first, in coherence order (R117). -/
structure Stale where
  id : Nat
  inst : Nat
  who : Agent
  /-- Slot of the writing node on an element (R119). -/
  slot : Nat
  /-- Its bytes by physical address: the byte before it and the byte written. -/
  bytes : NMap (Byte × Byte)
  /-- A write of a UN page, which others see only after a fence (R121). -/
  un : Bool
  /-- The scope of the fence that a UN write directly follows: a flag, which the agents within that scope may see (R121, R130). -/
  flag : Option Nat
  /-- Scopes at which it is visible, each with the tile it is a scope of. -/
  vis : List (Nat × Nat)
  /-- Agents that have read it, or a later write of its location (R117). -/
  seen : List Agent
  /-- Agents that have observed it through an acquire (R123). -/
  obs : List Agent
  /-- Releases that cover it, each with its scope and tile. -/
  marks : List (Mark × Nat × Nat)
  deriving DecidableEq, Repr

/-- A request in flight. -/
structure Req where
  id : Nat
  inst : Nat
  tenant : Nat
  who : Agent
  cls : Cls
  op : ReqOp
  pieces : List Piece
  acq : Bool
  rel : Bool
  sc : Nat
  phase : Phase
  /-- Still in its class's count. -/
  counted : Bool
  /-- The context waits for the verdict (R253). -/
  verdict : Bool
  /-- The page-fault id that withholds it (R105). -/
  withheld : Option Nat
  /-- The issuing instruction's slot, repeat state and consumed channel words, for a precise trap (R239). -/
  slot : Nat
  rpt : Rpt
  undo : List (Nat × Tok)
  /-- Destination selects, tag action and literal. -/
  d : Nat
  e : Nat
  t : Nat
  lit : Word
  /-- Tag of the issue. -/
  thread : Nat
  iter : Nat
  n : Nat
  idx : List Nat
  vec : Bool
  /-- Firing number on an element (R36, R224). -/
  fire : Nat
  /-- The transposed load's element width and pitch, or 0 (R257). -/
  width : Nat
  pitch : Nat
  /-- A result beside the pieces. -/
  res : Word
  /-- Address of the first lane, for an error payload (R104). -/
  ea : Nat
  /-- Thread and iteration of the word or token on srcB (R34). -/
  tb : Option (Nat × Nat)
  /-- The register elements are performed in any order (R120). -/
  anyLane : Bool
  /-- dstB takes the result too. -/
  dup : Bool
  /-- The answer leaves when it comes, outside the thread's order (R36). -/
  late : Bool
  /-- Bytes from its address to the end of its window or grant, and the cause past that end (R134). -/
  room : Nat
  past : Nat
  /-- Virtual pages, with sizes, of the translations it uses (R394). -/
  pages : List (Nat × Nat)
  /-- The last fence before it in its agent's local order: the request number that was next then, and its scope (R124, R130). -/
  fence : Option (Nat × Nat)
  deriving DecidableEq, Repr

/-! Vault-side records (R106 to R115, R150). -/

/-- Where a result sent outside its issuer goes (R110). -/
structure Dest where
  who : Agent
  inst : Nat
  d : Nat
  e : Nat
  t : Nat
  lit : Word
  thread : Nat
  iter : Nat
  n : Nat
  tb : Option (Nat × Nat)
  dup : Bool
  deriving DecidableEq, Repr

/-- An open combine entry (R109 to R111). -/
structure Cmb where
  inst : Nat
  place : Nat
  /-- Where each of its lanes lies: a migration may have moved one line of a vector and not yet the next (R400). -/
  lanesAt : List Nat
  /-- The key slot under which its first contribution names the memory (R99). -/
  key : Option Nat
  fixed : Bool
  /-- Operation, type, count, write, replace and send. -/
  cc : Word
  lanes : Nat
  /-- Contributions merged. -/
  seen : Nat
  /-- Running values by lane. -/
  vals : List Nat
  /-- Buffered contributions of `cmb.f` by rank. -/
  ranks : NMap (List Nat)
  dest : Option Dest
  deriving DecidableEq, Repr

/-- A deferred-reader record (R108): the list of a word is the records that name it, oldest first. -/
structure Reader where
  idx : Nat
  inst : Nat
  /-- Physical address of the word. -/
  pa : Nat
  /-- The waiting request. -/
  req : Nat
  deriving DecidableEq, Repr

/-- A waiting barrier party (R114). -/
structure Party where
  pa : Nat
  gen : Nat
  req : Nat
  deriving DecidableEq, Repr

/-- A holdings entry (R150). -/
structure Holding where
  id : Nat
  pa : Nat
  len : Nat
  deriving DecidableEq, Repr

/-- A migration entry (R399). -/
structure Mig where
  old : Nat
  new : Nat
  len : Nat
  pos : Nat
  done : Bool
  deriving DecidableEq, Repr

/-! Regions and the hub. -/

/-- An arc or circuit of a region (R17, R344, R345): ends are element roles with ports, or channels. -/
structure Arc where
  schan : Bool
  steam : Nat
  /-- Element role, or 4 tp + context for a channel. -/
  selem : Nat
  sport : Nat
  dchan : Bool
  dteam : Nat
  delem : Nat
  dport : Nat
  slot : Nat
  deriving DecidableEq, Repr

/-- What a region is doing (R23, R24, R403). -/
inductive RegSt where
  /-- Given to the loader: its image is not yet written. -/
  | popped
  /-- Loaded, go not yet sent. -/
  | loaded
  /-- Its placement is chosen and its image checked; the writes of step 4 are still to be made (R352, R429). -/
  | writing
  /-- The image read is withheld on a fault id (R429): in step 4 where it holds tiles. -/
  | withheld (id : Nat)
  | running
  /-- A pre-emption is asked for, with its cause. -/
  | stopping (cause : Nat)
  /-- Its intake has stopped and it settles (R403). -/
  | settling (cause : Nat)
  | preempted (cause : Nat)
  /-- Completed or discarded; kept for the debug access block (R386). -/
  | gone
  /-- Discarded with a cause; it keeps its tiles until the completion buffer has room (R378). -/
  | ending (cause : Nat)
  deriving DecidableEq, Repr

/-- A checkpoint kept for a pre-empted team: its tile's contents and withheld requests (R404, R405). -/
structure Slot where
  team : Nat
  tile : Nat
  slot : Nat
  deriving DecidableEq, Repr

/-- A record in a stream (R373 to R376). -/
structure QRec where
  pos : Nat
  /-- The ring entry it occupies until it is popped (R373). -/
  entry : Nat
  /-- Its handle (R235). -/
  handle : Nat
  words : List Word
  join : Nat
  ready : Bool
  /-- Order in which it became ready. -/
  seq : Nat
  /-- Priority level now (R42), pops at that level since, and pops without placement. -/
  level : Nat
  age : Nat
  wait : Nat
  /-- Returned by the Crier, or already handed to it (R381). -/
  placed : Bool
  /-- The instance number its job will run under, once a load has begun (R429). -/
  inst : Option Nat
  /-- The fault id that its next load waits for, after a fault limit has ended one (R429). -/
  await : Option Nat
  deriving DecidableEq, Repr

/-- A placed region instance (R24). -/
structure Region where
  st : RegSt
  tenant : Nat
  /-- Rights of the tenant entry, as they stood at placement (R371). -/
  root : Nat
  dbg : Bool
  /-- The tenant may tender (R371, R297). -/
  tnd : Bool
  prio : Nat
  /-- The continuation record, eight words, and its handle (R375). -/
  recd : List Word
  handle : Nat
  frame : Word
  /-- Tile of each team. -/
  tiles : List Nat
  /-- The image as read and checked, while the writes of step 4 are still to be made (R352, R355). -/
  image : List Byte
  /-- The bad-node word of each tile, as the loader read it for this load (R355, R416). -/
  bads : List Word
  /-- Grant offset, size and kind (R335). -/
  vbase : Nat
  vsize : Nat
  vkind : Nat
  flim : Nat
  arcs : NMap Arc
  circs : NMap Arc
  /-- Tokens in flight on each arc, oldest first. -/
  wires : NMap (List Wire)
  /-- Pulses in flight on each circuit (R38). -/
  pulses : NMap Nat
  /-- The sink of each team: element role and slot (R222). -/
  sinks : NMap (Nat × Nat)
  /-- Engine tokens waiting to enter the sink of a team (R222). -/
  sinkQ : List (Nat × Tok)
  stray : Nat
  errors : Nat
  first : Option Word
  status : Nat
  imgErr : Word × Word
  /-- The home tile's cycles at go, none before it (R379), and the watchdog's count (R41). -/
  goAt : Option Nat
  wdg : Nat
  /-- Withheld accesses: request, fault id (65536 while it waits for one, R396), time (R398). -/
  held : List (Nat × Nat × Nat)
  /-- The fault id that withholds the read of its successor list (R375, R390). -/
  succWait : Option Nat
  /-- Chip link table: peer chip and port (R351). -/
  links : List (Nat × Nat)
  /-- Tender sequence number, when placed by an award (R169). -/
  tender : Option Nat
  /-- Checkpoint slots of a region that settles or is pre-empted (R402, R403). -/
  slots : List Slot
  /-- The record it was popped from, with its stream (256 for `tnd.call`). -/
  qrec : Option (Nat × QRec)
  deriving DecidableEq, Repr

/-- A stream's records and its append position. -/
structure Stream where
  recs : List QRec
  next : Nat
  deriving DecidableEq, Repr

/-- A link port (R384, R423). -/
structure Link where
  rdy : Bool
  up : Bool
  dup : Bool
  peer : Nat
  down : Bool
  tx : Word
  rx : Word
  fec : Word
  bad : Word
  rpl : Word
  /-- Bad frames in the window. -/
  win : Nat
  /-- Frames kept for replay. -/
  replay : Nat
  deriving DecidableEq, Repr

/-- An unresolved page fault (R396). -/
structure PageFault where
  id : Nat
  tenant : Nat
  page : Nat
  inst : Nat
  deriving DecidableEq, Repr

/-- A shoot-down in progress (R394). -/
structure Shooting where
  sd : Shoot
  /-- Started by tenant word 3, not by `xinv`. -/
  byHub : Bool
  /-- Tiles whose agents have not yet received it. -/
  wait : List Nat
  /-- Accesses issued under a covered translation before it was received. -/
  reqs : List Nat
  deriving DecidableEq, Repr

/-- A cached leaf translation (R392). -/
structure Leaf where
  tenant : Nat
  vbase : Nat
  size : Nat
  pte : Word
  pteAt : Nat
  deriving DecidableEq, Repr

/-- A cached pointer entry of a walk unit (R392). -/
structure Ptr where
  tenant : Nat
  level : Nat
  idx : Nat
  tbl : Nat
  deriving DecidableEq, Repr

/-! The triad engine (R69 to R91). -/

/-- An operand record of a contraction descriptor (R75). -/
structure OpRec where
  fam : Nat
  splat : Bool
  space : Nat
  off : Nat
  sm : Int
  sn : Int
  so : Int
  si : Int
  lim : Nat
  deriving DecidableEq, Repr

/-- A contraction descriptor, extents as counts (R72 to R76). -/
structure Desc where
  oth : Nat
  och : Nat
  nsc : Nat
  wsc : Nat
  cls : Nat
  bop : Bool
  ow : Bool
  bank : Nat
  tone : Bool
  trole : Nat
  mode : Nat
  inner : Nat
  outer : Nat
  ncols : Nat
  mrows : Nat
  w : OpRec
  n : OpRec
  t : OpRec
  /-- Epilogue words ectl, ostride, obase, sbase (R76). -/
  ectl : Nat
  ostride : Int
  obase : Nat
  sbase : Nat
  deriving DecidableEq, Repr

/-- An element read for the array: its bits and its block's word (R83). -/
structure El where
  bits : Nat
  bw : Nat
  deriving DecidableEq, Repr

/-- A queued operation of the sequencer (R90). -/
inductive SeqOp where
  | triad (d : Desc) (sw sn : Lane)
  | hold (d : Desc)
  | drain (bank : Nat)
  | zero (bank : Nat)
  | scl (off vec : Nat)
  | rag (d : Desc) (thread ch : Nat) (sw sn : Lane)
  | abort
  deriving DecidableEq, Repr

/-- A queue entry: the operation, its context, and the `oth` of its descriptor (R426). -/
structure QEnt where
  /-- Number in order of issue (R279). -/
  num : Nat
  op : SeqOp
  p : Nat
  c : Nat
  oth : Nat
  deriving DecidableEq, Repr

/-- A running operation: next step or drain group, and the slices the feeders hold, oldest first (R84). A drain counts the elements of its
group it has written in `fw`; `acc` holds a value whose stashed copy is still to be written (R89). -/
structure Run where
  ent : QEnt
  high : Bool
  /-- Next step applied, or next drain group. -/
  j : Nat
  /-- Steps fetched by the W, N and T feeders. -/
  fw : Nat
  fn : Nat
  ft : Nat
  /-- Slices of W by row, N by column, T by row or column, for steps from `j` on. -/
  sw : List (List (List El))
  sn : List (List (List El))
  st : List (List (List El))
  /-- Results of mode Q since the last token. -/
  acc : List Lane
  /-- A ragged pass: bank, first bank row and row count. -/
  rag : Option (Nat × Nat × Nat)
  /-- Finished, its last tokens not yet gone. -/
  fin : Bool
  deriving DecidableEq, Repr

/-- A bank's state (R86, R286). -/
structure Bank where
  /-- 0 clear, 1 filled, 2 poisoned. -/
  state : Nat
  int : Bool
  mode : Nat
  sat : Bool
  pcause : Nat
  steps : Nat
  /-- The descriptor whose epilogue it keeps, with the per-tensor scales and its `oth`. -/
  epi : Option (Desc × Lane × Lane)
  oth : Nat
  deriving DecidableEq, Repr

/-- A ragged binding (R91, R288). -/
structure Rag where
  d : Desc
  p : Nat
  c : Nat
  ch : Nat
  thread : Nat
  /-- The per-tensor scales kept at issue (R73, R88). -/
  sw : Lane
  sn : Lane
  high : Bool
  /-- Rows of the open product: W offset and output row. -/
  rows : List (Nat × Nat)
  /-- Rows already applied. -/
  applied : Nat
  /-- Elements of a closing product already drained, row by row (R91). -/
  out : Nat
  ended : Bool
  /-- Product number. -/
  prod : Nat
  isOpen : Bool
  deriving DecidableEq, Repr

/-- The triad engine of a tile. -/
structure Triad where
  banks : NMap Bank
  /-- Accumulators by 1024 bank + 32 row + column. -/
  acc : NMap Lane
  /-- Hold entries by 8 (32 row + column) + h. -/
  hold : NMap (List El)
  rs : NMap Lane
  cs : NMap Lane
  bias : NMap Lane
  hiQ : List QEnt
  loQ : List QEnt
  runs : List Run
  /-- Low operations broken into (R90): a drain and a contraction may be so at once. -/
  broke : List Run
  pol : Nat
  /-- A policy that waits for the next instruction boundary (R289). -/
  pend : Option Nat
  /-- The queue served last under policy 2. -/
  lastHigh : Bool
  halted : Bool
  skipBrk : Bool
  rags : NMap Rag
  /-- Result tokens waiting at the sequencer: processor, context, channel, token. -/
  out : List (Nat × Nat × Nat × Tok)
  deriving DecidableEq, Repr, Inhabited

/-! The Crier and the shuffle units (R146 to R169). -/

/-- A bid (R167): its cost, its tile, and the features of the moment it was computed, which the Crier keeps with it (R323). -/
structure Bid where
  cost : Nat
  tile : Nat
  f1 : Nat
  f2 : Nat
  f3 : Nat
  f4 : Nat
  f5 : Nat
  deriving DecidableEq, Repr

/-- A tender round (R169, R300). -/
structure Tend where
  seq : Nat
  tenant : Nat
  /-- The record and its stream (256 for `tnd.call`). -/
  home : Nat
  rcd : QRec
  round : Nat
  /-- State of R300. -/
  st : Nat
  /-- Announced: its bid window is open or over. -/
  announced : Bool
  /-- Bids, best first. -/
  bids : List Bid
  /-- The window has closed: the bids are the kept ones. -/
  closed : Bool
  /-- Bids already awarded in this round. -/
  tried : Nat
  cost : Nat
  tile : Nat
  next : Nat
  deriving DecidableEq, Repr

/-- A receiver of a coded packet (R147). -/
structure Rcv where
  dst : Nat
  want : Nat
  cancel : Nat
  chip : Nat
  vault : Nat
  done : Bool
  deriving DecidableEq, Repr

/-- A formed packet (R149), or the fallback reads of an entry whose packet was not formed. -/
structure Packet where
  req : Nat
  inst : Nat
  blen : Nat
  ids : List Nat
  srcs : List Nat
  fbs : List Nat
  data : List Byte
  bws : List (List Nat)
  rcvs : List Rcv
  /-- No packet was sent: every receiver takes the uncoded path. -/
  uncoded : Bool
  deriving DecidableEq, Repr

/-- A vault's units (R106 to R115, R150, R151, R311, R422). -/
structure Vault where
  cmbs : List Cmb
  /-- Contributions waiting for an entry. -/
  cmbQ : List Nat
  pool : List Reader
  parties : List Party
  /-- Held answers, in due order: request and value (R407). -/
  answers : List (Nat × Word)
  holds : List Holding
  packets : List Packet
  /-- Packets a coder holds for this vault (R151). -/
  heldPk : List Packet
  /-- Tenant of each 4 KiB granted (R311). -/
  granted : NMap Nat
  cnt : NMap Word
  deriving DecidableEq, Repr

end Sys2Proof.Machine
end

