-- ==== Sys2Proof/Machine/State.lean ====
section
/-! DEFINITION. The state of a Trieth T3 package, its faults and refusals, and the state after reset. -/

namespace Sys2Proof.Machine

/-- Why the machine stops with a fault. -/
inductive Fault where
  /-- Raised by nothing: every access outside the address map takes the error the spec gives (R104). Safe. -/
  | unmapped (pa : Nat)
  deriving DecidableEq, Repr

/-- Why an instruction has no meaning. -/
inductive Refusal where
  /-- Raised by the arm of an instruction not modelled yet, under its mnemonic. Safe. -/
  | notModelled (mnemonic : String)
  deriving DecidableEq, Repr

/-- Memory: (address, byte) pairs, addresses strictly rising, no entry equal to the byte an unlisted address reads as. -/
abbrev Memory := List Host.Cell

/-- A tile (R2). -/
structure Tile where
  tps : NMap Tp
  elems : NMap Elem
  /-- Scratchpad bytes by full offset, side in bits 19 to 18 (R94). -/
  spad : Memory
  /-- Scratchpad block words by block number (R52). -/
  spadBw : NMap Nat
  /-- Swizzle mode of each side (R95). -/
  swz : NMap Nat
  /-- The region instance placed here, and the last one placed (R386). -/
  inst : Option Nat
  lastInst : Option Nat
  team : Nat
  /-- Intake of tokens that enter the team (R249). -/
  intake : Bool
  /-- Role map: physical code of each role (R338). -/
  roleMap : NMap Nat
  /-- Barrier table: vault and offset of each barrier (R319). -/
  barriers : List (Nat × Nat)
  triad : Triad
  /-- Route unit: count and probability sum by 256 bank + expert, and the live bank (R159). -/
  rtCount : NMap Nat
  rtPsum : NMap Lane
  rtLive : Nat
  /-- Random-token generator (R60). -/
  rngSeed : Word
  rngCtr : Word
  /-- Translation node: cached leaves, and the latest shoot-down performed (R392, R394). -/
  leaves : List Leaf
  seq : Nat
  /-- Block-map cache of the Porter: table place, logical block, entry (R170). -/
  bmc : List (Nat × Nat × Nat)
  /-- Debug registers (R246): shadow bits by 4 role + plane, filters by role, address matches by 4 tp + context. -/
  shadow : NMap Word
  filter : NMap Word
  amatch : NMap Word
  stepMatch : Word
  /-- Fleet counters 8 to 15 (R421), steps (R243), temperature and throttle level (R419). -/
  fleet : NMap Word
  steps : Word
  temp : Int
  lvl : Nat
  /-- The 65,536 cycles of the tile its temperature was last taken in (R419). -/
  tempAt : Nat
  /-- Recent shoot-downs performed at the tile's node (R394). -/
  shoots : List Shoot
  deriving DecidableEq, Repr, Inhabited

/-- Whose instruction the step runs. -/
inductive Site where
  | task (g p c : Nat)
  | elem (g e : Nat)
  deriving DecidableEq, Repr

/-- The state of the package. -/
structure State where
  /-- The model's own fields: what moves next, counters, the place and argument of the running row. -/
  agenda : List Act
  tick : Nat
  now : Nat
  /-- The tick of the latest device reset: the tiles' cycle counters count from it (R243, R356). -/
  resetAt : Nat
  free : Nat
  site : Site
  ev : EvArg
  begun : Option (Nat × Nat)
  nextId : Nat
  reqs : List Req
  /-- Reads of completed regions that no home has answered yet, by request: instance, tile, and place (R24, R409). -/
  orphans : NMap (Nat × Nat × Place)
  /-- The fabric. -/
  tiles : NMap Tile
  regions : NMap Region
  mem : Memory
  /-- Performed writes that are not yet visible to every agent, oldest first (R118). -/
  stale : List Stale
  /-- The key under which each 16 bytes of main memory were last written, by pa / 16 (R99, R413); none where no key was named. -/
  keyed : NMap (List Word)
  /-- Metadata words by block number, pa / 64 (R100). -/
  blockWord : NMap Nat
  /-- Blocks in error (R408). -/
  bad : List Nat
  vaults : NMap Vault
  /-- Migration entries of the twelve memory controllers (R399). -/
  migs : NMap (NMap Mig)
  /-- Walk units' pointer caches by die (R392). -/
  ptrs : NMap (List Ptr)
  /-- Shoot-downs in progress, latest number, and the log of the last 256 (R394, R406). -/
  shooting : List Shooting
  shootSeq : Nat
  shootLog : List Shoot
  faults : List PageFault
  /-- Writable hub words by offset; an absent word holds its reset value (R370 to R424). -/
  hub : NMap Word
  streams : NMap Stream
  appendRes : NMap Word
  /-- Order counter of ready records, and next region instance number. -/
  readySeq : Nat
  instSeq : Nat
  pops : Word
  /-- The record that holds a reservation (R42). -/
  rsv : Option Nat
  /-- Stream served last at each level (R376). -/
  lastStream : NMap Nat
  /-- Completion queues: records written, and the completion buffer (R377, R378). -/
  prod : NMap Nat
  /-- Queue, record, and the `sig` request that completes when it is written (R238). -/
  compBuf : List (Nat × List Word × Option Nat)
  /-- Datagrams and interrupts sent (R378). -/
  sent : List (Nat × Word × List Word)
  irqs : List (Nat × Nat)
  /-- The Crier: rounds, next number, and the counts of word 2 (R383). -/
  tends : List Tend
  tendSeq : Nat
  awards : Nat
  wdraws : Nat
  retends : Nat
  falls : Nat
  links : NMap Link
  /-- Readiness words 0 and 1 (R410). -/
  ready0 : Word
  ready1 : Word
  /-- Readiness bits whose functions a lasting fault has taken out of service (R410, R417). -/
  dead : List Nat
  /-- Of each bad-node word: the hub cycle in which the device last set a bit of it, and the bits it set in that cycle (R416). -/
  nodeSet : NMap (Nat × Word)
  /-- Steward load: latest tvec, busy, refused (R372). -/
  stewTvec : BitVec 8
  stewBusy : Bool
  stewRefused : Bool
  /-- Debug access: busy, data, cause and presence state (R386). -/
  dbgBusy : Bool
  dbgData : Word
  dbgCause : Nat
  dbgState : Nat
  /-- Measurements, report address, busy and count (R412). -/
  meas : NMap (List Byte)
  repAddr : Word
  /-- The nonce of the report under way (R412). -/
  repNonce : List Byte
  repBusy : Bool
  repCount : Nat
  /-- Valid key slots (R413). -/
  keys : NMap (List Word)
  /-- Error counts of units in their window, and the policy in force at each (R415). -/
  errs : NMap Nat
  policy : NMap Nat
  /-- The window a unit's count and policy are of (R415). -/
  errWin : NMap Nat
  /-- Island states (R418), package watts (R420), intake counters by 8 port + word (R424). -/
  islands : NMap Nat
  /-- Of an island that is not on: its clock's cycles when it went off; and of each, the cycles it has been off in all (R415). -/
  pausedAt : NMap Nat
  pausedSum : NMap Nat
  watts : Nat
  /-- The 2^20 hub cycles the package power was last averaged over (R420). -/
  wattsAt : Nat
  intake : NMap Word
  /-- What each hart last read from its append result register (R374). -/
  hartRead : NMap Word
  /-- What the device-internal sections of checkpoints hold (R404), by the number of the first free word they are written with. -/
  ckpts : NMap Tile
  deriving DecidableEq, Repr

/-- A zero repeat state. -/
def Rpt.none : Rpt := ⟨0, 0, 0, false, 0⟩

/-- A channel bound to nothing. -/
def Chan.unbound : Chan := ⟨none, false, false, []⟩

/-- A context at reset (R20, R242; DESIGN CHOICE, log entry 9). -/
def Ctx.reset : Ctx :=
  { s := Vector.replicate 24 0, pc := 0, fp := 0, tag := 0, vc := [], ld := 0, st := 0, cp := 0, tl := 0, status := .idle,
    steward := false, tcause := 0, tslot := 0, tval := 0, uslot := 0, utvec := 0, tvec := 0, sscr := 0, rsave := Rpt.none,
    rpt := Rpt.none, lnan := false, tsl0 := 0, held := [], wins := [], acq := none, fenceAt := none, work := 0, blk := 0, blkAt := 0, donest := 0,
    shoots := [], skip := false }

/-- A task processor at reset (R112, R193; DESIGN CHOICE, log entries 9 and 10). -/
def Tp.reset : Tp :=
  { store := [], lits := [], sstore := [], slits := [], cpdone := 0, cperr := 0, tags := [], last := 3, ctxs := [] }

/-- An empty plane. -/
def Plane.empty : Plane := ⟨[], [], 0⟩

/-- An element at reset (R23, R229; DESIGN CHOICE, log entry 9). -/
def Elem.reset : Elem :=
  { e := Vector.replicate 8 0, planes := [], apl := 0, npl := 0, nrdy := false, npnd := false, swapWait := false,
    swapReq := false, store := [], arrSeq := 0, fireSeq := 0, ctl := [], esl := false, wrf := false, lnan := false,
    smiss := false, recCnt := 0, gzc := 0, halt := false, skipBrk := false, gens := [], wins := [], lut := [], reord := [],
    cmpct := [], eors := [], pairs := [], topk := [], itgen := [], fins := [], fences := [], cur := none, work := 0, blk := 0, shoots := [] }

/-- A clear bank that has kept no epilogue (R86). -/
def Bank.reset : Bank := ⟨0, false, 0, false, 0, 0, none, 0⟩

/-- The triad engine at reset (R86, R283). -/
def Triad.reset : Triad :=
  { banks := [], acc := [], hold := [], rs := [], cs := [], bias := [], hiQ := [], loQ := [], runs := [], broke := [],
    pol := 0, pend := none, lastHigh := false, halted := false, skipBrk := false, rags := [], out := [] }

/-- A tile at reset. -/
def Tile.reset : Tile :=
  { tps := [], elems := [], spad := [], spadBw := [], swz := [], inst := none, lastInst := none, team := 0, intake := true,
    roleMap := [], barriers := [], triad := Triad.reset, rtCount := [], rtPsum := [], rtLive := 0, rngSeed := 0, rngCtr := 0,
    leaves := [], seq := 0, bmc := [], shadow := [], filter := [], amatch := [], stepMatch := 0,
    fleet := [], steps := 0, temp := 0, lvl := 0, tempAt := 0, shoots := [] }

/-- A vault at reset. -/
def Vault.reset : Vault := ⟨[], [], [], [], [], [], [], [], [], []⟩

/-- The machine right after reset (DESIGN CHOICE, log entries 2, 6 to 10). -/
def State.reset : State :=
  { agenda := [], tick := 0, now := 0, resetAt := 0, free := 0, site := .task 0 0 0, ev := EvArg.none, begun := none, nextId := 0, reqs := [], orphans := [],
    tiles := [], regions := [], mem := [], stale := [], keyed := [], blockWord := [], bad := [], vaults := [], migs := [], ptrs := [], shooting := [],
    shootSeq := 0, shootLog := [], faults := [], hub := [], streams := [], appendRes := [], readySeq := 0, instSeq := 0,
    pops := 0, rsv := none, lastStream := [], prod := [], compBuf := [], sent := [], irqs := [], tends := [], tendSeq := 0,
    awards := 0, wdraws := 0, retends := 0, falls := 0, links := [], ready0 := 0, ready1 := 0, dead := [], nodeSet := [], stewTvec := 0,
    stewBusy := false, stewRefused := false, dbgBusy := false, dbgData := 0, dbgCause := 0, dbgState := 0, meas := [],
    repAddr := 0, repNonce := [], repBusy := false, repCount := 0, keys := [], errs := [], policy := [], errWin := [], islands := [], pausedAt := [], pausedSum := [], watts := 0, wattsAt := 0,
    intake := [], hartRead := [], ckpts := [] }

end Sys2Proof.Machine
end

