-- ==== Sys2Proof/Machine/Ops.lean ====
section
/-! DEFINITION. The named operations over the state: accessors, memory, tokens, requests, region records, and taking an
exception. -/

namespace Sys2Proof.Machine

/-! Accessors. -/

/-- The state with the place of the running row (DESIGN CHOICE, log entry 2). -/
def State.setSite (s : State) (x : Site) : State := { s with site := x }
/-- The state with the argument of the running row (DESIGN CHOICE, log entry 2). -/
def State.setEv (s : State) (v : EvArg) : State := { s with ev := v }
/-- The state with what moves next (DESIGN CHOICE, log entry 2). -/
def State.setAgenda (s : State) (l : List Act) : State := { s with agenda := l }
/-- Tile `g`. -/
def State.tile (s : State) (g : Nat) : Tile := NMap.get s.tiles g Tile.reset
/-- Update tile `g`. -/
def State.updTile (s : State) (g : Nat) (f : Tile → Tile) : State := { s with tiles := NMap.set s.tiles g (f (s.tile g)) }
/-- Task processor `p` of a tile. -/
def Tile.tp (t : Tile) (p : Nat) : Tp := NMap.get t.tps p Tp.reset
/-- Task processor `p` of tile `g`. -/
def State.tp (s : State) (g p : Nat) : Tp := (s.tile g).tp p
/-- Update a task processor. -/
def State.updTp (s : State) (g p : Nat) (f : Tp → Tp) : State :=
  s.updTile g (fun t => { t with tps := NMap.set t.tps p (f (t.tp p)) })
/-- Context `c` of a task processor. -/
def Tp.ctx (t : Tp) (c : Nat) : Ctx := NMap.get t.ctxs c Ctx.reset
/-- Context `c` of task processor `p` of tile `g`. -/
def State.ctx (s : State) (g p c : Nat) : Ctx := (s.tp g p).ctx c
/-- Update a context. -/
def State.updCtx (s : State) (g p c : Nat) (f : Ctx → Ctx) : State :=
  s.updTp g p (fun t => { t with ctxs := NMap.set t.ctxs c (f (t.ctx c)) })
/-- Element with physical code `e` of a tile. -/
def Tile.elem (t : Tile) (e : Nat) : Elem := NMap.get t.elems e Elem.reset
/-- Element `e` of tile `g`. -/
def State.elem (s : State) (g e : Nat) : Elem := (s.tile g).elem e
/-- Update an element. -/
def State.updElem (s : State) (g e : Nat) (f : Elem → Elem) : State :=
  s.updTile g (fun t => { t with elems := NMap.set t.elems e (f (t.elem e)) })
/-- Update the triad engine of a tile. -/
def State.updTriad (s : State) (g : Nat) (f : Triad → Triad) : State := s.updTile g (fun t => { t with triad := f t.triad })
/-- Update a region, where it is listed. -/
def State.updReg (s : State) (i : Nat) (f : Region → Region) : State :=
  match NMap.find s.regions i with
  | some r => { s with regions := NMap.set s.regions i (f r) }
  | none => s
/-- Vault `v`. -/
def State.vault (s : State) (v : Nat) : Vault := NMap.get s.vaults v Vault.reset
/-- Update a vault. -/
def State.updVault (s : State) (v : Nat) (f : Vault → Vault) : State :=
  { s with vaults := NMap.set s.vaults v (f (s.vault v)) }
/-- The region placed on a tile, if any. -/
def State.regOf (s : State) (g : Nat) : Option (Nat × Region) :=
  match (s.tile g).inst with
  | some i => match NMap.find s.regions i with | some r => some (i, r) | none => none
  | none => none

/-- Reset values of hub words (R381, R415, R420); the rest are 0. -/
def hubReset (off : Nat) : Word :=
  if off = 0x20000 then 0x000001F40FA00000
  else if off = 0x82000 then 0x1004
  else if off = 0x82100 then 0x16955
  else 0
/-- A writable hub word. -/
def State.hubWord (s : State) (off : Nat) : Word := NMap.get s.hub off (hubReset off)
/-- Write a hub word. -/
def State.setHub (s : State) (off : Nat) (v : Word) : State := { s with hub := NMap.set s.hub off v }

/-- Cycles of a clock since the device's reset (R243, R356, R415): clock `k` is that of island `k`; a tile's ac cycles are those of its element island.
No two clocks have a fixed relation (DESIGN CHOICE, log entry 6). -/
def State.cycles (s : State) (k : Nat) : Nat := (List.range (s.tick - s.resetAt)).foldl (fun n j => n + Config.clockElapsed k (s.resetAt + j)) 0
/-- ac cycles of a tile since its reset (R243). -/
def State.acCycles (s : State) (g : Nat) : Nat := s.cycles (384 + g)

/-- Bits `[hi:lo]` of a word as a number. -/
def bitsOf (w : Word) (hi lo : Nat) : Nat := w.toNat / 2 ^ lo % 2 ^ (hi + 1 - lo)
/-- Bit `k` of a word. -/
def bitOf (w : Word) (k : Nat) : Bool := w.getLsbD k
/-- A number of `n` bits read as two's complement. -/
def sgn (n x : Nat) : Int := if x % 2 ^ n < 2 ^ (n - 1) then (x % 2 ^ n : Nat) else (x % 2 ^ n : Nat) - (2 ^ n : Nat)
/-- A flag as a number. -/
def b2n (b : Bool) : Nat := if b then 1 else 0

/-- Take a free value (DESIGN CHOICE, log entry 4): the value of an opaque constant at a counter that advances. -/
def State.takeFree (s : State) : Word × State := (Config.freeWord s.free, { s with free := s.free + 1 })

/-! Memory in canonical form: addresses rise strictly, a listed byte is not zero. -/

/-- What an unlisted address reads as (DESIGN CHOICE, log entry 7). -/
def Memory.blank : Byte := 0
/-- The byte at an address. -/
def Memory.get (m : Memory) (a : Nat) : Byte := NMap.get m a Memory.blank
/-- Write a byte; writing the blank byte takes the entry out. -/
def Memory.set (m : Memory) (a : Nat) (b : Byte) : Memory :=
  if b = Memory.blank then NMap.erase m a else NMap.set m a b
/-- The canonical form. -/
def Memory.wf (m : Memory) : Bool := NMap.sorted m && m.all (fun c => c.2 != Memory.blank)
/-- Read `n` bytes, little-endian (R44, R335). -/
def Memory.readN (m : Memory) (a : Nat) : Nat → Nat
  | 0 => 0
  | n + 1 => (Memory.get m a).toNat + 256 * Memory.readN m (a + 1) n
/-- Write the low `n` bytes of a value, little-endian. -/
def Memory.writeN (m : Memory) (a : Nat) : Nat → Nat → Memory
  | 0, _ => m
  | n + 1, v => Memory.writeN (Memory.set m a (BitVec.ofNat 8 v)) (a + 1) n (v / 256)
/-- Read a list of bytes. -/
def Memory.readBytes (m : Memory) (a : Nat) : Nat → List Byte
  | 0 => []
  | n + 1 => Memory.get m a :: Memory.readBytes m (a + 1) n
/-- Write a list of bytes. -/
def Memory.writeBytes (m : Memory) (a : Nat) : List Byte → Memory
  | [] => m
  | b :: r => Memory.writeBytes (Memory.set m a b) (a + 1) r
/-- A little-endian number of a list of bytes. -/
def natOfBytes : List Byte → Nat
  | [] => 0
  | b :: r => b.toNat + 256 * natOfBytes r
/-- The `n` low bytes of a number, little-endian. -/
def bytesOfNat : Nat → Nat → List Byte
  | 0, _ => []
  | n + 1, v => BitVec.ofNat 8 v :: bytesOfNat n (v / 256)
/-- The words of a list of bytes, eight to a word. -/
def wordsOfBytes (bs : List Byte) : Nat → List Word
  | 0 => []
  | n + 1 => BitVec.ofNat 64 (natOfBytes (bs.take 8)) :: wordsOfBytes (bs.drop 8) n
/-- The bytes of a list of words. -/
def bytesOfWords : List Word → List Byte
  | [] => []
  | w :: r => bytesOfNat 8 w.toNat ++ bytesOfWords r

/-- Lowest physical address of the vault range (R93). -/
def vaultBase : Nat := 0x10000000000
/-- Physical address of vault `v` (R93). -/
def vaultAddr (v : Nat) : Nat := vaultBase + v * 0x4000000
/-- The vault above tile `g`: 8 x die + arcade, six tiles to an arcade (R2, R167). -/
def vaultOfTile (g : Nat) : Nat := 8 * (g / 48) + g % 48 / 6
/-- The low 44 bits name main memory or a vault (R93). -/
def paLocalOk (a : Nat) : Bool := decide (a < 0xC000000000) || (decide (vaultBase ≤ a) && decide (a < 0x10100000000))
/-- This chip's number (R384). -/
def State.chip (s : State) : Nat := bitsOf (s.hubWord 0x70000) 7 0
/-- The home vault controller of a physical address (R99): 64 x chip + vault (R385). -/
def homeOf (pa : Nat) : Nat :=
  let a := pa % 2 ^ 44
  64 * (pa / 2 ^ 44) + (if vaultBase ≤ a then (a - vaultBase) / 0x4000000 else Nat.xor (a / 2 ^ 7 % 64) (a / 2 ^ 13 % 64))
/-- A physical address can be reached now: mapped, its stack or vault ready, its peer routed (R385, R410, R417). -/
def State.reachable (s : State) (pa : Nat) : Bool :=
  let c := pa / 2 ^ 44
  let a := pa % 2 ^ 44
  paLocalOk a &&
    (if c = 0 then
      if a < vaultBase then s.ready0.getLsbD (26 + a / 2 ^ 36) else s.ready1.getLsbD ((a - vaultBase) / 0x4000000)
    else
      let rt := s.hubWord (0x70100 + 8 * c)
      let k := NMap.find s.links (bitsOf rt 4 0)
      c != s.chip && bitOf rt 5 && (match k with | some l => l.up && l.peer == c && !l.down | none => false))

/-- Migration redirect (R275, R399): the place an address is performed at. -/
def redirect (migs : NMap (NMap Mig)) (pa : Nat) : Nat :=
  match NMap.find migs (pa / 2 ^ 36) with
  | none => pa
  | some t =>
    match t.find? (fun e => decide (e.2.old ≤ pa) && decide (pa < e.2.old + e.2.len)) with
    | some (_, m) => if m.done || decide (pa < m.old + m.pos) then m.new + (pa - m.old) else pa
    | none => pa

/-- Read `n` bytes at a physical address. -/
def State.readPa (s : State) (pa n : Nat) : Nat := Memory.readN s.mem (redirect s.migs pa) n

/-! Writes that are performed and not yet visible to every agent (R117, R118, R121, R123). -/

/-- A write without the bytes from `a` to `a + n`, which a later write has made visible to every agent. -/
def Stale.without (e : Stale) (a n : Nat) : Stale :=
  { e with bytes := e.bytes.filter (fun b => decide (b.1 < a) || decide (a + n ≤ b.1))
           marks := e.marks.filter (fun m => match m.1 with | .loc pa => decide (pa + 8 ≤ a) || decide (a + n ≤ pa) | _ => true) }
/-- A write of `n` bytes at `a` that every agent sees: no earlier write of these bytes is read any more (R117). -/
def overwrite (l : List Stale) (a n : Nat) : List Stale := (l.map (·.without a n)).filter (fun e => e.bytes != [])
/-- The writes that `p` names become visible to every agent, and with them the earlier writes of their bytes end (R117, R118):
the list without them, and the addresses they cover. -/
def reveal (p : Stale → Bool) : List Stale → List Stale × List Nat
  | [] => ([], [])
  | e :: r =>
    let (l, dead) := reveal p r
    if p e then (l, dead ++ e.bytes.map (·.1))
    else
      let left := e.bytes.filter (fun b => !dead.contains b.1)
      (if left = [] then l else { e with bytes := left } :: l, dead)
/-- Make writes visible to every agent. -/
def State.reveal (s : State) (p : Stale → Bool) : State := { s with stale := (Machine.reveal p s.stale).1 }

/-- The tile an agent works on. -/
def Agent.tile : Agent → Option Nat
  | .ctx g _ _ => some g
  | .elem g _ => some g
  | .porter g => some g
  | .seq g => some g
  | .loader _ => none
  | .hub => none
  | .peer _ => none

/-- A scope of tile `g0` has an agent of this package within it (R118): the agents of a tile are its contexts, elements, feeders, drain and
route unit. -/
def inScopeOf (sc g0 : Nat) (a : Agent) : Bool :=
  match sc with
  | 0 => (match a with | .ctx g _ _ => g == g0 | .elem g _ => g == g0 | .seq g => g == g0 | _ => false)
  | 1 => (match a.tile with | some g => g / 48 == g0 / 48 | none => false)
  | 2 => (match a with | .peer _ => false | _ => true)
  | _ => true

/-- An address of a peer chip (R93). -/
def peerAddr (pa : Nat) : Bool := decide (2 ^ 44 ≤ pa)

/-- An agent cannot miss a write (R117, R118): it made it, has read it or a later one, has observed it, or lies in a scope at which it is visible. -/
def Stale.mustSee (e : Stale) (a : Agent) : Bool :=
  e.who == a || e.seen.contains a || e.obs.contains a || e.vis.any (fun v => inScopeOf v.1 v.2 a)
/-- A write is the flag of a UN hand-over, and its fence's scope has the agent within it (R121, R130). -/
def Stale.flagged (e : Stale) (a : Agent) : Bool := match e.flag with | some sc => inScopeOf sc (e.who.tile.getD 0) a | none => false
/-- An agent does not see a write (R121): one of a UN page that no fence of a covering scope has followed. -/
def Stale.hidden (e : Stale) (a : Agent) : Bool := e.un && !e.flagged a && !e.mustSee a

/-- The writes a read passes over, of those of its location, newest first: those it does not see, and the newest `k` others that it may miss. -/
def passedOver (a : Agent) : List Stale → Nat → List Nat
  | [], _ => []
  | e :: r, k =>
    if e.hidden a then e.id :: passedOver a r k
    else if e.mustSee a then passedOver a r 0
    else match k with
      | 0 => passedOver a r 0
      | k + 1 => e.id :: passedOver a r k

/-- The writes of an 8-byte location, oldest first (R117). -/
def State.staleAt (s : State) (a : Nat) : List Stale := s.stale.filter (fun e => e.bytes.any (fun b => b.1 / 8 == a / 8))

/-- The byte at a place as a read that passes over some writes sees it: the newest other write's, or what was there before them. -/
def State.byteSeen (s : State) (skip : List Nat) (a : Nat) : Byte :=
  let l := s.stale.filter (fun e => (NMap.find e.bytes a).isSome)
  match l.getLast? with
  | none => Memory.get s.mem a
  | some _ =>
    match (l.filter (fun e => !skip.contains e.id)).getLast? with
    | some e => (match NMap.find e.bytes a with | some b => b.2 | none => 0)
    | none => (match l with | e :: _ => (match NMap.find e.bytes a with | some b => b.1 | none => 0) | [] => 0)
/-- `n` bytes as seen, little-endian. -/
def State.seenN (s : State) (skip : List Nat) (a : Nat) : Nat → Nat
  | 0 => 0
  | n + 1 => (s.byteSeen skip a).toNat + 256 * s.seenN skip (a + 1) n

/-- A read of `n` bytes within one location at place `a` by an agent (R117, R118, R121): `k` of the newest writes that it may miss are passed
over. The value, and the state in which it has read: it reads nothing older there again, and a write to a peer chip's memory that it saw is
visible to all (R128). -/
def State.readAs (s : State) (who : Agent) (a n k : Nat) (acq : Bool) : Nat × State :=
  let l := s.staleAt a
  if l = [] then (Memory.readN s.mem a n, s)
  else
    let skip := passedOver who l.reverse k
    let hit (e : Stale) : Bool := l.any (fun q => q.id == e.id) && !skip.contains e.id
    let v := s.seenN skip a n
    let s := { s with stale := s.stale.map (fun e => if hit e then
      { e with seen := if e.seen.contains who then e.seen else who :: e.seen
               obs := if acq && !e.obs.contains who then who :: e.obs else e.obs } else e) }
    (v, s.reveal (fun e => hit e && peerAddr a && e.who != who))

/-- The bytes of a write: what was there, and what it puts there. -/
def writtenBytes (m : Memory) (a : Nat) : Nat → Nat → NMap (Byte × Byte)
  | 0, _ => []
  | n + 1, v => (a, (Memory.get m a, BitVec.ofNat 8 v)) :: writtenBytes m (a + 1) n (v / 256)

/-- Release marks that a write of a location ends: the released value is gone. -/
def unmark (l : List Stale) (f : Mark → Bool) : List Stale := l.map (fun e => { e with marks := e.marks.filter (fun m => !f m.1) })

/-- A release of an agent at a scope (R123, R124): the earlier writes that `own` names, and those that the agent has observed, become visible
at the scope. One to a peer chip's memory is visible at system scope only (R128). -/
def State.releaseAt (s : State) (who : Agent) (own : Stale → Bool) (sc : Nat) (mks : List Mark) : State :=
  let g := who.tile.getD 0
  let cov (e : Stale) : Bool := (own e || e.obs.contains who) && (decide (3 ≤ sc) || !e.bytes.any (fun b => peerAddr b.1))
  if 3 ≤ sc then s.reveal cov
  else { s with stale := s.stale.map (fun e => if cov e then { e with vis := (sc, g) :: e.vis, marks := mks.map (fun m => (m, sc, g)) ++ e.marks } else e) }

/-- An acquire at a scope observes the releases it reads (R123): those whose scope and its own cover both agents. -/
def State.acquireAt (s : State) (who : Agent) (sc : Nat) (f : Mark → Bool) : State :=
  let g := who.tile.getD 0
  { s with stale := s.stale.map (fun e =>
      if e.marks.any (fun m => f m.1 && inScopeOf m.2.1 m.2.2 who && inScopeOf sc g (.ctx m.2.2 0 0)) && !e.obs.contains who then
        { e with obs := who :: e.obs } else e) }

/-- The 16-byte units of memory that `n` bytes from `a` touch. -/
def unitsOf (a n : Nat) : List Nat := (List.range (n / 16 + 2)).map (a / 16 + ·) |>.filter (fun u => decide (u * 16 < a + n))
/-- Bytes written under no key (R99): their units keep none. -/
def unkeyed (keyed : NMap (List Word)) (a n : Nat) : NMap (List Word) := (unitsOf a n).foldl NMap.erase keyed

/-- Write `n` bytes at a physical address: every agent sees them. -/
def State.writePa (s : State) (pa n v : Nat) : State :=
  { s with mem := Memory.writeN s.mem (redirect s.migs pa) n v, stale := overwrite s.stale (redirect s.migs pa) n
           keyed := unkeyed s.keyed (redirect s.migs pa) n }
/-- The metadata word of the block of a physical address (R100; DESIGN CHOICE, log entry 8). -/
def State.metaPa (s : State) (pa : Nat) : Nat := NMap.get s.blockWord (redirect s.migs pa / 64) 0
/-- Write a metadata word. -/
def State.setMetaPa (s : State) (pa v : Nat) : State :=
  { s with blockWord := NMap.set s.blockWord (redirect s.migs pa / 64) v }
/-- Read `n` bytes at the place itself, past any redirect. -/
def State.readAt (s : State) (a n : Nat) : Nat := Memory.readN s.mem a n
/-- Write `n` bytes at the place itself, which keeps its key. -/
def State.writeRaw (s : State) (a n v : Nat) : State := { s with mem := Memory.writeN s.mem a n v, stale := overwrite s.stale a n }
/-- Write `n` bytes at the place itself. -/
def State.writeAt (s : State) (a n v : Nat) : State := { s.writeRaw a n v with keyed := unkeyed s.keyed a n }

/-! Encrypted memory (R99, R413): main memory is kept as the bytes its writer meant, each 16 with the key they were written under (DESIGN CHOICE,
log entry 17). -/

/-- What 16 bytes at unit `u` read as under a key. -/
def State.unitAs (s : State) (u : Nat) (key : List Word) : List Byte :=
  let bs := Memory.readBytes s.mem (16 * u) 16
  match NMap.find s.keyed u with
  | none => bs
  | some k => if k = key then bs else (Config.rekeyed k key (16 * u) bs ++ List.replicate 16 0).take 16
/-- The key a slot holds, for an access of this chip's main memory under it; none for an access that no key of this chip concerns: a vault's
(R99), a peer chip's (R385). -/
def State.keyFor (s : State) (a : Nat) (slot : Option Nat) : Option (List Word) := if vaultBase ≤ a then none else slot.bind (NMap.find s.keys)
/-- What `n` bytes at a place, seen as `v`, read as under a key slot: a unit written under another key reads as that key's cipher under this. -/
def State.underKey (s : State) (a n : Nat) (slot : Option Nat) (v : Nat) : Nat :=
  match s.keyFor a slot with
  | none => v
  | some key =>
    natOfBytes ((bytesOfNat n v).zipIdx.map (fun (b : Byte × Nat) =>
      match NMap.find s.keyed ((a + b.2) / 16) with
      | some k => if k = key then b.1 else (s.unitAs ((a + b.2) / 16) key).getD ((a + b.2) % 16) 0
      | none => b.1))
/-- A write of `n` bytes at a place under a key slot begins: the units it touches stand under that key from now on, their other bytes as they
read under it. -/
def State.keyTag (s : State) (a n : Nat) (slot : Option Nat) : State :=
  match s.keyFor a slot with
  | none => { s with keyed := unkeyed s.keyed a n }
  | some key =>
    (unitsOf a n).foldl (fun (s : State) u =>
      match NMap.find s.keyed u with
      | some k =>
        if k = key then s
        else { s with mem := Memory.writeBytes s.mem (16 * u) (s.unitAs u key), stale := overwrite s.stale (16 * u) 16, keyed := NMap.set s.keyed u key }
      | none => { s with keyed := NMap.set s.keyed u key }) s
/-- Read `n` bytes at the place itself under a key slot. -/
def State.readUnder (s : State) (a n : Nat) (slot : Option Nat) : Nat := s.underKey a n slot (s.readAt a n)
/-- Write `n` bytes at the place itself, under a key slot: every agent sees them. -/
def State.writeUnder (s : State) (a n v : Nat) (slot : Option Nat) : State := (s.keyTag a n slot).writeRaw a n v
/-- The metadata word of the block of a place. -/
def State.metaAt (s : State) (a : Nat) : Nat := NMap.get s.blockWord (a / 64) 0
/-- Write the metadata word of the block of a place. -/
def State.setMetaAt (s : State) (a v : Nat) : State := { s with blockWord := NMap.set s.blockWord (a / 64) v }
/-- Read `n` scratchpad bytes. -/
def State.readSp (s : State) (g off n : Nat) : Nat := Memory.readN (s.tile g).spad off n
/-- Write `n` scratchpad bytes. -/
def State.writeSp (s : State) (g off n v : Nat) : State :=
  s.updTile g (fun t => { t with spad := Memory.writeN t.spad off n v })
/-- The block word of a scratchpad block (R52). -/
def State.metaSp (s : State) (g off : Nat) : Nat := NMap.get (s.tile g).spadBw (off / 64) 0x0080
/-- Write a scratchpad block word. -/
def State.setMetaSp (s : State) (g off v : Nat) : State :=
  s.updTile g (fun t => { t with spadBw := NMap.set t.spadBw (off / 64) v })

/-! Tokens. -/

/-- A data scalar. -/
def Tok.scalar (thread iter : Nat) (v : Word) : Tok := ⟨.scalar, thread, iter, 0, v, [], []⟩
/-- A data vector. -/
def Tok.vec (thread iter : Nat) (ls : List Lane) (idx : List Nat) : Tok := ⟨.vector, thread, iter, ls.length - 1, 0, ls, idx⟩
/-- A scalar value, or lane 0 of a vector, or 0 of a control token (R30, R34). -/
def Tok.value (t : Tok) : Word :=
  if t.kind = .ctl then 0
  else match t.lanes with | l :: _ => l.setWidth 64 | [] => t.pay
/-- A token carries an error: kinds that propagate (R30). -/
def Tok.isBad (t : Tok) : Bool := decide (t.kind = .err) || decide (t.kind = .fault) || decide (t.kind = .window)
/-- The code of a kind (R27). -/
def Kind.code : Kind → Nat
  | .scalar => 0 | .vector => 1 | .ctl => 2 | .err => 3 | .fault => 4 | .window => 5 | .eor => 6
/-- The header of a token on an arc (R27). -/
def Tok.header (t : Tok) (arc slot : Nat) : Word :=
  let hi := arc % 65536 * 2 ^ 16 + slot % 64 * 2 ^ 10 + t.thread % 4096 / 4
  let lo := t.thread % 4 * 2 ^ 30 + t.iter % 2 ^ 20 * 2 ^ 10 + t.len % 32 * 2 ^ 5 + t.kind.code * 4
  BitVec.ofNat 64 (hi * 2 ^ 32 + lo + popcount hi 32 % 2 * 2 + popcount lo 32 % 2)

/-- The tag action on a token (R34): `lit` is the slot's literal, `tb` the thread and iteration consumed on srcB. -/
def tagAct (code : Nat) (lit : Word) (tb : Option (Nat × Nat)) (k : Tok) : Tok :=
  let pay := k.value
  match code with
  | 1 => { k with iter := (k.iter + 1) % 2 ^ 20 }
  | 2 => { k with iter := (k.iter + k.len + 1) % 2 ^ 20 }
  | 3 => { k with iter := 0 }
  | 4 => { k with iter := pay.toNat % 2 ^ 20 }
  | 5 => { k with thread := pay.toNat % 2 ^ 12 }
  | 6 => { k with thread := lit.toNat % 2 ^ 12 }
  | 7 => { k with iter := lit.toNat % 2 ^ 20 }
  | 8 => match tb with | some (th, it) => { k with thread := th, iter := it } | none => k
  | 9 => { k with thread := k.iter % 2 ^ 12, iter := k.iter / 2 ^ 12 % 2 ^ 8 * 2 ^ 12 + k.thread }
  | 10 => { k with kind := .eor }
  | 11 => { k with kind := .ctl, pay := 0, lanes := [], idx := [], len := 0 }
  | 12 => { k with thread := (k.thread + 1) % 2 ^ 12 }
  | _ => k

/-- An error payload (R104, R196): cause, tile, element field and offset. -/
def errPayload (cause g elem off : Nat) : Word :=
  BitVec.ofNat 64 (cause % 256 + g % 48 * 2 ^ 8 + g / 48 % 8 * 2 ^ 14 + elem % 32 * 2 ^ 17 + off % 2 ^ 32 * 2 ^ 32)
/-- An error token. -/
def Tok.error (thread iter len : Nat) (pay : Word) : Tok := ⟨.err, thread, iter, len, pay, [], []⟩

/-- The physical code of a role (R338). -/
def Tile.phys (t : Tile) (role : Nat) : Nat := NMap.get t.roleMap role role
/-- The role a physical element plays (R338). -/
def Tile.role (t : Tile) (e : Nat) : Nat :=
  match (List.range 32).find? (fun r => NMap.find t.roleMap r == some e) with
  | some r => r
  | none => e

/-- Progress of a region (R41). -/
def State.progress (s : State) (i : Nat) : State := s.updReg i (fun r => { r with wdg := 0 })
/-- Progress of the region on a tile. -/
def State.progressAt (s : State) (g : Nat) : State :=
  match (s.tile g).inst with | some i => s.progress i | none => s

/-- Add tokens to a region's stray count (R24). -/
def State.strayAt (s : State) (g n : Nat) : State :=
  match (s.tile g).inst with | some i => s.updReg i (fun r => { r with stray := r.stray + n }) | none => s

/-- Put a token on an arc, held at its sender (R32, R35). -/
def Region.push (r : Region) (a : Nat) (slot : Nat) (k : Tok) : Region :=
  { r with wires := NMap.set r.wires a (NMap.get r.wires a [] ++ [⟨slot, k, 0, 0⟩]) }
/-- Put a token on every arc of a list. -/
def Region.pushAll (r : Region) (k : Tok) : List (Nat × Arc) → Region
  | [] => r
  | (a, x) :: l => Region.pushAll (r.push a x.slot k) k l
/-- The arcs that start at an out-port of an element role. -/
def Region.arcsAt (r : Region) (team role port : Nat) : List (Nat × Arc) :=
  r.arcs.filter (fun x => !x.2.schan && x.2.steam == team && x.2.selem == role && x.2.sport == port)
/-- The circuits that start at a control port of an element role. -/
def Region.circsAt (r : Region) (team role port : Nat) : List (Nat × Arc) :=
  r.circs.filter (fun x => x.2.steam == team && x.2.selem == role && x.2.sport == port)
/-- One pulse on every circuit of a list (R38). -/
def Region.pulseAll (r : Region) : List (Nat × Arc) → Region
  | [] => r
  | (a, _) :: l => Region.pulseAll { r with pulses := NMap.set r.pulses a (NMap.get r.pulses a 0 + 1) } l

/-- An engine's error or fault token to the sink of a tile's team, or to the stray count (R222, R425). -/
def State.toSink (s : State) (g : Nat) (k : Tok) : State :=
  match s.regOf g with
  | none => s
  | some (i, r) =>
    let team := (s.tile g).team
    match NMap.find r.sinks team with
    | some _ => s.updReg i (fun r => { r with sinkQ := r.sinkQ ++ [(team, k)] })
    | none => s.updReg i (fun r => { r with stray := r.stray + 1 })

/-- Emit a token of an element to a destination select (R32, R30, R177). -/
def State.emitTo (s : State) (g e : Nat) (dst : Nat) (k : Tok) : State :=
  let t := s.tile g
  if dst < 16 then
    match t.inst with
    | some i => s.updReg i (fun r => r.pushAll k (r.arcsAt t.team (t.role e) dst))
    | none => s
  else if dst < 24 then
    if k.isBad then s.updElem g e (fun x => { x with recCnt := min 255 (x.recCnt + 1) })
    else if k.lanes = [] then
      s.updElem g e (fun x => { x with e := x.e.setIfInBounds (dst - 16) k.value })
    else
      let (v, s) := s.takeFree
      s.updElem g e (fun x => { x with e := x.e.setIfInBounds (dst - 16) v })
  else if dst < 28 then
    match t.inst with
    | some i =>
      let s := s.updReg i (fun r => r.pulseAll (r.circsAt t.team (t.role e) (dst - 24)))
      if k.kind = .err ∨ k.kind = .fault then s.toSink g k else s
    | none => s
  else s

/-! Requests. -/

/-- The request with an id. -/
def State.req (s : State) (id : Nat) : Option Req := s.reqs.find? (fun r => r.id == id)
/-- Update a request. -/
def State.updReq (s : State) (id : Nat) (f : Req → Req) : State :=
  { s with reqs := s.reqs.map (fun r => if r.id = id then f r else r) }
/-- Take a request out. -/
def State.dropReq (s : State) (id : Nat) : State := { s with reqs := s.reqs.filter (fun r => r.id != id) }
/-- A request with nothing set but its issuer. -/
def Req.blank (id inst tenant : Nat) (who : Agent) (op : ReqOp) : Req :=
  { id := id, inst := inst, tenant := tenant, who := who, cls := .none, op := op, pieces := [], acq := false, rel := false, sc := 0,
    phase := .wait, counted := false, verdict := false, withheld := none, slot := 0, rpt := Rpt.none, undo := [], d := 28, e := 28,
    t := 0, lit := 0, thread := 0, iter := 0, n := 1, idx := [], vec := false, fire := 0, width := 0, pitch := 0, res := 0,
    ea := 0, tb := none, anyLane := false, dup := true, late := false, room := 0, past := 0, pages := [], fence := none }
/-- Queue a request under the next id. -/
def State.addReq (s : State) (r : Req) : State :=
  { s with reqs := s.reqs ++ [{ r with id := s.nextId }], nextId := s.nextId + 1 }

/-- A class's count. -/
def Ctx.count (x : Ctx) : Cls → Nat
  | .ld => x.ld | .st => x.st | .cp => x.cp | .tl => x.tl | .none => 0
/-- Set a class's count. -/
def Ctx.setCount (x : Ctx) (k : Cls) (n : Nat) : Ctx :=
  match k with
  | .ld => { x with ld := n } | .st => { x with st := n } | .cp => { x with cp := n } | .tl => { x with tl := n } | .none => x

/-- The channel of a context. -/
def Ctx.chan (x : Ctx) (k : Nat) : Chan := NMap.get x.vc k Chan.unbound
/-- Thread of the context's tag. -/
def Ctx.thread (x : Ctx) : Nat := x.tag.toNat / 2 ^ 20
/-- Iteration of the context's tag. -/
def Ctx.iter (x : Ctx) : Nat := x.tag.toNat % 2 ^ 20

/-- The next slot of a context, within its store. -/
def Ctx.nextPc (x : Ctx) : BitVec 11 := x.pc + 1

/-- The end of the repeat body. -/
def Rpt.last (r : Rpt) : BitVec 11 := r.start + r.n1.setWidth 11

/-- After an instruction without a taken transfer (R232): the next slot, and the repeat state. -/
def Ctx.advance (x : Ctx) : Ctx :=
  if x.rpt.active && x.pc == x.rpt.last then
    if x.rpt.left - 1 = 0 then { x with rpt := { x.rpt with left := 0, active := false }, pc := x.rpt.last + 1 }
    else { x with rpt := { x.rpt with left := x.rpt.left - 1 }, pc := x.rpt.start }
  else { x with pc := x.nextPc }

/-- A taken transfer: a repeat in progress ends (R232). -/
def Ctx.jump (x : Ctx) (t : BitVec 11) : Ctx := { x with pc := t, rpt := { x.rpt with active := false } }

/-- A request has been performed or refused. -/
def Req.performed (r : Req) : Bool :=
  match r.phase with | .done => true | .refused _ _ => true | _ => false

/-- A request still holds an address that is not translated, or a walk to make: it is at its tile's translation node. -/
def Req.unwalked (r : Req) : Bool :=
  decide (r.phase = .wait) && (r.pieces.any (fun p => match p.place with | .virt _ => !p.done | _ => false) ||
    (match r.op with | .xlt _ _ => true | .plf _ _ => true | _ => false))

/-- Re-issue entries in use at a tile (R405): requests queued or withheld at its translation node, and withheld copies. -/
def State.nodeQueue (s : State) (g : Nat) : Nat :=
  (s.reqs.filter (fun r => r.who.tile == some g && (r.unwalked || r.withheld.isSome))).length

/-- Whether the accesses a fence of a context waits for are performed (R124): its own, not those of engines. -/
def State.quiet (s : State) (a : Agent) : Bool :=
  s.reqs.all (fun r => r.who != a || (r.cls != .ld && r.cls != .st) || r.performed)

/-- A blocked context becomes runnable (R21): the cycles it spent blocked are counted (R243). -/
def Ctx.unblock (x : Ctx) (now : Nat) : Ctx :=
  { x with status := .runnable, blk := x.blk + BitVec.ofNat 64 (now - x.blkAt) }

/-- The arc of a destination channel holds a word that has not left its sender: it back-pressures the context (R22; DESIGN CHOICE, log entry 63). -/
def State.sendHeld (s : State) (g : Nat) (k : Chan) : Bool :=
  match k.arc, s.regOf g with
  | some a, some (_, r) => k.dest && (NMap.get r.wires a []).any (fun w => w.stage == 0)
  | _, _ => false

/-- A result that an outstanding memory access brings: its register keeps its old value meanwhile (R105, R120). -/
def ReqOp.keepsOld : ReqOp → Bool
  | .load => true
  | .srd => true
  | .sprb => true
  | .bar _ => true
  | _ => false
/-- A register of a context, by its select code, is still to be written by an earlier instruction that is no memory access (R357). -/
def State.pendingReg (s : State) (g p c code : Nat) : Bool :=
  s.reqs.any (fun r => r.who == .ctx g p c && r.counted && !r.op.keepsOld && (r.d == code || (r.dup && r.e == code)) &&
    (decide (code < 24) || code == 29 || code == 30))

/-- What a wait waits for holds (R233, R234). -/
def Tp.meets (q : Tp) (x : Ctx) : Until → Bool
  | .counts ld st cp tl _ => decide (x.ld ≤ ld) && decide (x.st ≤ st) && decide (x.cp ≤ cp) && decide (x.tl ≤ tl)
  | .anyTag m => m == 0 || q.cpdone &&& m != 0
  | .allTags m => q.cpdone &&& m == m
/-- The wait is an acquire (R123). -/
def Until.acquires : Until → Bool
  | .counts _ _ _ _ a => a
  | _ => true
/-- A release of an agent is not yet performed (R123). -/
def State.releasing (s : State) (a : Agent) : Bool := s.reqs.any (fun r => r.who == a && r.rel && !r.performed)

/-! Places, and what writes. -/

/-- The address within its kind of place. -/
def Place.addr : Place → Nat
  | .spad _ o => o
  | .phys a => a
  | .virt a => a
/-- A place in main memory or a vault. -/
def Place.isPhys : Place → Bool
  | .phys _ => true
  | _ => false
/-- `k` bytes further. -/
def Place.off (p : Place) (k : Nat) : Place :=
  match p with
  | .spad g o => .spad g (o + k)
  | .phys a => .phys (a + k)
  | .virt a => .virt (a + k)
/-- The aligned unit of `u` bytes that contains the place (R252). -/
def Place.align (p : Place) (u : Nat) : Place :=
  match p with
  | .spad g o => .spad g (o / u * u)
  | .phys a => .phys (a / u * u)
  | .virt a => .virt (a / u * u)
/-- Two places of which it is not yet known that they differ: a virtual address may lie anywhere in memory. -/
def Place.unknown (p q : Place) : Bool :=
  match p, q with
  | .spad _ _, _ => false
  | _, .spad _ _ => false
  | .phys _, .phys _ => false
  | .virt _, .virt _ => false
  | _, _ => true
/-- The bytes overlap. -/
def Place.overlaps (p : Place) (n : Nat) (q : Place) (m : Nat) : Bool :=
  let hit (a b : Nat) : Bool := decide (a < b + m) && decide (b < a + n)
  match p, q with
  | .spad g a, .spad h b => g == h && hit a b
  | .phys a, .phys b => hit a b
  | .virt a, .virt b => hit a b
  | _, _ => false
/-- The operation writes. -/
def ReqOp.writes : ReqOp → Bool
  | .load => false
  | .srd => false
  | .sprb => false
  | .fence => false
  | .emit _ => false
  | .holdQ _ => false
  | .skQry _ => false
  | .skRd _ _ _ => false
  | .skStat => false
  | _ => true

/-! What a context waits for at an engine (R21). -/

/-- An open ragged product holds the bank (R91). -/
def Triad.heldBy (t : Triad) (b : Nat) : Bool := match NMap.find t.rags b with | some r => r.isOpen | none => false
/-- Entries of a queue (R90): an operation keeps its entry until it completes (R280). -/
def Triad.entries (t : Triad) (high : Bool) : Nat :=
  (if high then t.hiQ else t.loQ).length + ((t.runs ++ t.broke).filter (fun r => r.high == high && r.rag.isNone)).length
/-- Step `j` is an interruptible point of the run (R90): a multiple of 32 steps, any boundary between drain groups. -/
def Run.interruptible (r : Run) : Bool :=
  match r.ent.op with
  | .triad _ _ _ => r.j % 32 == 0 || r.fin
  | .rag _ _ _ _ _ => r.j % 32 == 0
  | .drain _ => r.fw == 0 && r.acc == []
  | _ => false
/-- A closing product stands between drain groups of 4 rows, or its close has not begun (R90, R91). -/
def Rag.interruptible (r : Rag) : Bool := r.out % (4 * r.d.ncols) == 0
/-- The sequencer stands at an interruptible point, no result token waiting at it (R90, R249). -/
def Triad.interruptible (t : Triad) : Bool := t.runs.all Run.interruptible && t.rags.all (fun x => x.2.interruptible) && t.out == []

/-- No token that has left its sender is on an arc that enters the team of a tile (R249). -/
def State.arcsClear (s : State) (g : Nat) : Bool :=
  match s.regOf g with
  | none => true
  | some (_, r) =>
    let team := (s.tile g).team
    r.arcs.all (fun a => a.2.steam == team || a.2.dteam != team || (NMap.get r.wires a.1 []).all (fun w => w.stage == 0))

/-- Stores of a context to scratchpad bytes are not yet performed (R120). -/
def State.storing (s : State) (g p c off n : Nat) : Bool :=
  s.reqs.any (fun q => q.who == .ctx g p c && q.op.writes && !q.performed &&
    q.pieces.any (fun x => !x.done && x.place.overlaps x.n (.spad g off) n))

/-- What a context waits for at an engine or its node has come (R21). -/
def State.came (s : State) (g p c : Nat) : Await → Bool
  | .queue high => decide ((s.tile g).triad.entries high < 8)
  | .bank b => !(s.tile g).triad.heldBy b
  | .stores off n => !s.storing g p c off n
  | .tag k => decide (NMap.get (s.tp g p).tags k 0 < 31)
  | .node => decide (s.nodeQueue g < 64)
  | .clear => (s.tile g).intake || (s.arcsClear g && (s.tile g).triad.interruptible)

/-- A home still holds an answer for a request (R407). -/
def State.heldAnswer (s : State) (id : Nat) : Bool := s.vaults.any (fun v => v.2.answers.any (fun a => a.1 == id))

/-- A blocked context whose condition is met becomes runnable (R21). -/
def State.wakeCtx (s : State) (g p c : Nat) : State :=
  let x := s.ctx g p c
  let ok : Bool :=
    match x.status with
    | .blkChan k => x.vc.any (fun q => q.1 == k && q.2.buf != [])
    | .blkSend k => !s.sendHeld g (x.chan k)
    | .blkReg k => !s.pendingReg g p c k
    | .blkWait u => (s.tp g p).meets x u && !(u.acquires && s.releasing (.ctx g p c))
    | .blkIssue k => decide (x.count k < 31)
    | .blkVerdict id => match s.req id with | some r => r.phase != .wait && !s.heldAnswer id | none => true
    | .blkFence => s.quiet (.ctx g p c)
    | .blkAcq => x.acq.isNone
    | .blkEngine w => s.came g p c w
    | _ => false
  if ok then s.updCtx g p c (fun x => x.unblock (s.acCycles g)) else s

/-- Wake the contexts of a task processor whose conditions are met. -/
def State.wakeTp (s : State) (g p : Nat) : State :=
  (((s.wakeCtx g p 0).wakeCtx g p 1).wakeCtx g p 2).wakeCtx g p 3
/-- Wake the contexts of a tile whose conditions are met. -/
def State.wakeTile (s : State) (g : Nat) : State :=
  (((s.wakeTp g 0).wakeTp g 1).wakeTp g 2).wakeTp g 3

/-- Something moved that a context in `qsc` waits for while its team's intake is closed (R249), or that the sequencer's state decides: it looks again. -/
def State.stir (s : State) (g : Nat) : State := if (s.tile g).intake then s else s.wakeTile g

/-- A fleet counter of a tile counts (R421) (DEDUCED, log entry 50). -/
def State.bumpFleet (s : State) (g k n : Nat) : State :=
  s.updTile g (fun t => { t with fleet := NMap.set t.fleet k (NMap.get t.fleet k 0 + BitVec.ofNat 64 n) })
/-- A vault counter counts (R422). -/
def State.bumpVault (s : State) (v k : Nat) : State :=
  s.updVault v (fun x => { x with cnt := NMap.set x.cnt k (NMap.get x.cnt k 0 + 1) })

/-- An event `idle` waits for (R247): the context goes on to the next slot. -/
def State.wakeIdle (s : State) (g p c : Nat) : State :=
  if (s.ctx g p c).status = .blkIdle then s.updCtx g p c (fun x => x.advance.unblock (s.acCycles g)) else s

/-- One fewer outstanding operation of a class (R21, R233). -/
def State.countDown (s : State) (who : Agent) (k : Cls) : State :=
  match who with
  | .ctx g p c => (s.updCtx g p c (fun x => x.setCount k (x.count k - 1))).wakeCtx g p c
  | _ => s

/-- Set done bits of a task processor (R112): contexts waiting on tags or in `idle` look again. -/
def State.setDone (s : State) (g p tag : Nat) : State :=
  let s := s.updTp g p (fun t => { t with cpdone := t.cpdone ||| BitVec.ofNat 64 (2 ^ tag) })
  let s := (((s.wakeIdle g p 0).wakeIdle g p 1).wakeIdle g p 2).wakeIdle g p 3
  s.wakeTp g p

/-- Set an error bit of a task processor (R112). -/
def State.setCpErr (s : State) (g p tag : Nat) : State :=
  s.updTp g p (fun t => { t with cperr := t.cperr ||| BitVec.ofNat 64 (2 ^ tag) })

/-- A copy of a tag has landed (R112): its count falls, at zero the done bit is set. -/
def State.landTag (s : State) (g p tag : Nat) : State :=
  let n := NMap.get (s.tp g p).tags tag 0
  let s := s.updTp g p (fun t => { t with tags := NMap.set t.tags tag (n - 1) })
  if n ≤ 1 then s.setDone g p tag else s.wakeTp g p

/-! Records and the end of a region. -/

/-- A record to a completion queue waits in the hub's buffer until it is written (R378). -/
def State.post (s : State) (q : Nat) (ws : List Word) : State := { s with compBuf := s.compBuf ++ [(q, ws, none)] }

/-- A hall core can write a hub register: hub, firmware and some hall core are in service (R410, R411). -/
def State.hallUp (s : State) : Bool := s.ready0.getLsbD 0 && s.ready0.getLsbD 1 && bitsOf s.ready0 17 2 != 0

/-- Hall core `k` can write hub registers. -/
def State.hartUp (s : State) (k : Nat) : Bool := s.hallUp && s.ready0.getLsbD (2 + k)

/-- A device event record (R396, R408, R417, R420). -/
def eventRec (event hi8 id : Nat) (w1 w2 w3 w4 : Word) : List Word :=
  [BitVec.ofNat 64 (event * 2 ^ 16 + hi8 * 2 ^ 8 + id), w1, w2, w3, w4, 0, 0, 0]

/-- The region's job asks for a completion record (R375). -/
def Region.recorded (r : Region) : Bool := bitOf (r.recd.getD 4 0) 8
/-- The hub's completion buffer is full (R378). -/
def State.bufFull (s : State) : Bool := decide (4096 ≤ s.compBuf.length)

/-- The completion record of a region (R379) that has run for some cycles. -/
def Region.record (r : Region) (run cause status : Nat) : List Word :=
  let utag := bitsOf (r.recd.getD 4 0) 63 32
  [BitVec.ofNat 64 (utag * 2 ^ 32 + 2 ^ 24 + cause * 2 ^ 16 + status),
   BitVec.ofNat 64 (min r.errors 0xFFFFFFFF * 2 ^ 32 + r.handle), r.first.getD 0, BitVec.ofNat 64 (r.stray % 2 ^ 32),
   if cause = 5 ∨ cause = 6 then r.imgErr.1 else 0, if cause = 5 ∨ cause = 6 then r.imgErr.2 else 0,
   BitVec.ofNat 64 run, 0]
/-- Cycles of a region's home tile since go (R379); 0 of one that go never reached. -/
def State.runOf (s : State) (r : Region) : Nat := match r.goAt with | some t => s.acCycles (r.tiles.headD 0) - t | none => 0

/-- Relink a word's reader list after records are freed (R108): head and tail in the word, or empty. -/
def relinkWord (s : State) (v pa : Nat) : State :=
  let l := (s.vault v).pool.filter (fun q => q.pa == pa)
  let w := pa / 8 % 8
  let m := s.metaAt pa
  let clr := m - m / 4 ^ w % 4 * 4 ^ w
  match l with
  | [] => (s.setMetaAt pa clr).writeRaw pa 8 0
  | q :: _ => s.writeRaw pa 8 (q.idx + (l.getLastD q).idx * 2 ^ 16)

/-- Free a region's deferred-reader records of a vault, one word at a time (R108). -/
def freeReaders (s : State) (v i : Nat) : State :=
  let gone := ((s.vault v).pool.filter (fun q => q.inst == i)).map (·.pa)
  let s := s.updVault v (fun x => { x with pool := x.pool.filter (fun q => q.inst != i) })
  gone.eraseDups.foldl (fun s pa => relinkWord s v pa) s

/-- Tokens of a team left in matching stores, staging buffers and channels (R24). -/
def Tile.leftovers (t : Tile) : Nat :=
  t.elems.foldl (fun n x => n + x.2.store.length) 0 +
  t.tps.foldl (fun n q => q.2.ctxs.foldl (fun n x => x.2.vc.foldl (fun n k => n + k.2.buf.length) n) n) 0

/-- A region other than `i` has an access, a successor list or an image read withheld under a fault id, or a record waits for it (R396, R429). -/
def State.heldElse (s : State) (i : Nat) (f : PageFault) : Bool :=
  s.regions.any (fun x => x.1 != i && x.2.tenant == f.tenant &&
    (x.2.held.any (fun h => h.2.1 == f.id) || x.2.succWait == some f.id || x.2.st == .withheld f.id)) ||
  s.reqs.any (fun q => q.inst != i && q.tenant == f.tenant && q.withheld == some f.id) ||
  s.streams.any (fun x => x.2.recs.any (fun q => q.await == some f.id && bitsOf (q.words.getD 2 0) 39 24 == f.tenant))

/-- End a region (R24, R108, R110, R123): leftover tokens and open combine contributions go to the stray count, its records at
the homes are freed, its requests are dropped, its writes and those that its agents have observed are visible to every agent, its tiles are free,
and its record is posted.
An access of an element that is still outstanding, other than the stores that completion waits for, is dropped unperformed
(R24 leaves it open: DESIGN CHOICE, log entry 63); a read among them may still meet an error at its home (R409). A fault id that no region holds
any more lapses (R398). -/
def State.endRegion (s : State) (i : Nat) (cause status : Nat) : State :=
  match NMap.find s.regions i with
  | none => s
  | some r =>
    let left := r.tiles.foldl (fun n g => n + (s.tile g).leftovers) 0 + r.wires.foldl (fun n w => n + w.2.length) 0
      + r.sinkQ.length
    let open_ := s.vaults.foldl (fun n v => n + (v.2.cmbs.filter (fun k => k.inst == i)).foldl (fun n k => n + k.seen) 0
      + (v.2.cmbQ.filter (fun id => match s.req id with | some q => q.inst == i | none => false)).length) 0
    let r := { r with stray := r.stray + left + open_ }
    let s := (s.vaults.map (·.1)).foldl (fun s v => freeReaders s v i) s
    let mine := (s.reqs.filter (fun q => q.inst == i)).map (·.id)
    let s := { s with vaults := s.vaults.map (fun (v : Nat × Vault) => (v.1, { v.2 with
        cmbs := v.2.cmbs.filter (fun k => k.inst != i), cmbQ := v.2.cmbQ.filter (fun id => !mine.contains id),
        parties := v.2.parties.filter (fun q => !mine.contains q.req),
        answers := v.2.answers.filter (fun q => !mine.contains q.1),
        packets := v.2.packets.filter (fun q => q.inst != i), heldPk := v.2.heldPk.filter (fun q => q.inst != i) })) }
    let late : NMap (Nat × Nat × Place) := if status = 0xFF01 then [] else s.reqs.filterMap (fun q =>
      match q.who.tile, q.pieces.find? (fun p => !p.done) with
      | some g, some p => if q.inst = i ∧ q.phase = .wait ∧ q.op ≠ .store ∧ q.withheld.isNone then some (q.id, (i, g, p.place)) else none
      | _, _ => none)
    let s := { s with reqs := s.reqs.filter (fun q => q.inst != i), orphans := late.foldl (fun m (x : Nat × (Nat × Nat × Place)) => NMap.set m x.1 x.2) s.orphans }
    let s := { s with faults := s.faults.filter (fun f => !(f.tenant == r.tenant && (f.inst == i || r.held.any (fun h => h.2.1 == f.id)) && !s.heldElse i f)) }
    let s := s.reveal (fun e => e.inst == i || e.obs.any (fun a => match a.tile with | some g => r.tiles.contains g | none => false))
    let s := r.tiles.foldl (fun s g => s.updTile g (fun t => if t.inst = some i then { t with inst := none } else t)) s
    let s := { s with regions := NMap.set s.regions i { r with st := .gone, wires := [], pulses := [], sinkQ := [], held := [], slots := [] } }
    let s := match s.begun with | some (g, _) => if r.tiles.contains g then { s with begun := none } else s | none => s
    let s := match r.tender with
      | some n => if status = 0xFF01 then { s with tends := s.tends.map (fun (t : Tend) => if t.seq = n ∧ t.st = 3 then { t with st := 6 } else t) } else s
      | none => s
    if r.recorded then s.post (bitsOf (r.recd.getD 4 0) 7 0) (r.record (s.runOf r) cause status) else s

/-- A region is running or stopping. -/
def Region.live (r : Region) : Bool := match r.st with | .running => true | .stopping _ => true | .settling _ => true | _ => false
/-- A region holds tiles or waits to hold them again. -/
def Region.alive (r : Region) : Bool := match r.st with | .gone => false | _ => true

/-- The region on a tile issues and fires. -/
def State.liveAt (s : State) (g : Nat) : Bool := match s.regOf g with | some (_, r) => r.live | none => false

/-- Every declared context of a region has ended. -/
def State.allEnded (s : State) (r : Region) : Bool :=
  r.tiles.all (fun g => (s.tile g).tps.all (fun q => q.2.ctxs.all (fun c => c.2.status == .idle || c.2.status == .ended)))
/-- The last `done` of a region is over: it completes, and no error undoes that (R409). -/
def State.lastDone (s : State) (r : Region) : Bool :=
  r.live && s.allEnded r && r.tiles.any (fun g => (s.tile g).tps.any (fun q => q.2.ctxs.any (fun c => c.2.status == .ended)))

/-- Discard a region with a cause (R24, R409): status *discarded*, no successor is decremented. Nothing of it runs from then on; while the
completion buffer is full it keeps its tiles and its record waits (R378). One whose last `done` is over completes instead (R409). -/
def State.discard (s : State) (i cause : Nat) : State :=
  match NMap.find s.regions i with
  | none => s
  | some r =>
    match r.st with
    | .gone => s
    | .ending _ => s
    | _ =>
      if s.lastDone r then s
      else if r.recorded && s.bufFull then
        let s := match s.begun with | some (g, _) => if r.tiles.contains g then { s with begun := none } else s | none => s
        s.updReg i (fun r => { r with st := .ending cause })
      else s.endRegion i cause 0xFF01

/-- Where an error was found (R408): at the element or router itself; at a vault, its die and, since a vault lies over six tiles, a free one of
these (DESIGN CHOICE, log entry 67). -/
def State.foundAt (s : State) (g unit addr : Nat) : Nat × State :=
  if unit = 2 then
    let v := homeOf addr % 64
    let (w, s) := s.takeFree
    (48 * (v / 8) + 6 * (v % 8) + w.toNat % 6, s)
  else (g, s)

/-- The event record of a machine check (R408), under a tenant and an instance number. -/
def State.sendCheck (s : State) (g tenant i cls detail addr unit phys : Nat) : State :=
  let (h, s) := s.foundAt g unit addr
  s.post 0 (eventRec 5 cls detail (BitVec.ofNat 64 addr)
    (BitVec.ofNat 64 (tenant + h / 48 * 2 ^ 16 + h % 48 * 2 ^ 19 + phys * 2 ^ 25 + unit * 2 ^ 30)) (BitVec.ofNat 64 i) 0)

/-- The event record of a machine check of a region's agent (R408). -/
def State.checkRecord (s : State) (g i cls detail addr unit phys : Nat) : State :=
  s.sendCheck g (match NMap.find s.regions i with | some r => r.tenant | none => 0) i cls detail addr unit phys

/-- A machine check of an agent of a tile (R408, R409): the event record, then the discard of its region; the record is sent also where the
region has completed first. -/
def State.machineCheck (s : State) (g cls detail addr unit phys cause : Nat) : State :=
  match (s.tile g).inst, (s.tile g).lastInst with
  | some i, _ => (s.checkRecord g i cls detail addr unit phys).discard i cause
  | none, some i => s.checkRecord g i cls detail addr unit phys
  | none, none => s

/-! Taking an exception (R239, R240), and returning from it (R241). -/

/-- Trap entry in tenant mode, in one step (R240). -/
def Ctx.enter (x : Ctx) (cause : BitVec 16) (slot : BitVec 11) (val : Word) (rpt : Rpt) : Ctx :=
  { x with tcause := cause, tslot := slot, tval := val, tsl0 := slot, rsave := rpt, rpt := { rpt with active := false },
           steward := true, pc := x.tvec.setWidth 11, status := .runnable }

/-- Take a trap: entry in tenant mode, a machine check of class 3 in steward mode (R240, R408). The context then counts as the one
that issued last, also where the trap is a late verdict of its home (R21 leaves it open: DESIGN CHOICE, log entry 63). -/
def State.takeTrap (s : State) (g p c : Nat) (cause : BitVec 16) (slot : BitVec 11) (val : Word) (rpt : Rpt) : State :=
  let s := s.updTp g p (fun t => { t with last := c })
  if (s.ctx g p c).steward then s.machineCheck g 3 (cause.toNat % 256) 0 0 p 3
  else s.updCtx g p c (fun x => x.enter cause slot val rpt)

/-- Return from a trap (R241): tenant mode at tslot; the saved repeat state when tslot is the trapped slot. -/
def Ctx.ret (x : Ctx) : Ctx :=
  { x with steward := false, pc := x.tslot, rpt := if x.tslot = x.tsl0 then x.rsave else { x.rpt with active := false } }

/-- A deferred trap reaches a context (R239): it is held until the next issue in tenant mode, and a context blocked in
tenant mode becomes runnable at once. -/
def State.deferTrap (s : State) (g p c : Nat) (cause : Nat) (val : Word) : State :=
  let s := s.updCtx g p c (fun x => { x with held := x.held ++ [(cause, val)] })
  let s := s.wakeIdle g p c
  let x := s.ctx g p c
  match x.status with
  | .idle | .ended | .halted | .runnable => s
  | .blkVerdict _ => s
  | _ => if x.steward then s else s.updCtx g p c (fun x => x.unblock (s.acCycles g))

end Sys2Proof.Machine
end

