-- ==== Sys2Proof/Machine/Checks.lean ====
section
/-! DEFINITION. Which words are instructions where they stand: the encoding causes of R189, by the select codes (R177),
the field roles (R178), the tag action (R184) and the literal layouts (R185 to R188). -/

namespace Sys2Proof.Machine

/-- A select code fits its use on a task processor or an element (R176, R177). -/
def useOk (task : Bool) (lit : LitKind) (u : FUse) (code : Nat) : Bool :=
  match u with
  | .src => code != 31 || lit == .data
  | .port => code < 16 || (24 ≤ code && code < 28)
  | .cport => 24 ≤ code && code < 28
  | .inport => code < 16
  | .dst => if task then code != 24 && code != 31 else code < 29
  | .rw => if task then code != 24 && code != 31 else code < 29
  | .cdst => 24 ≤ code && code < 28
  | .res2 => code < 29
  | .lit31 => code == 31
  | .zero => code == 28
  | .imm => true

/-- A use is a source that may read the literal. -/
def FUse.isSrc : FUse → Bool
  | .src => true | .port => true | .cport => true | .inport => true | .rw => true | _ => false
/-- A use is a destination. -/
def FUse.isDst : FUse → Bool
  | .dst => true | .cdst => true | .res2 => true | .rw => true | _ => false

/-- Memory literal fields (R185). -/
def litN (l : Word) : Nat := bitsOf l 59 58
/-- Access width code. -/
def litWidth (l : Word) : Nat := bitsOf l 57 56
/-- Space. -/
def litSpace (l : Word) : Nat := bitsOf l 55 52
/-- Scope. -/
def litSc (l : Word) : Nat := bitsOf l 51 50
/-- Order of an atomic. -/
def litOrd (l : Word) : Nat := bitsOf l 49 48
/-- Signed byte offset. -/
def litOff (l : Word) : Int := sgn 48 (bitsOf l 47 0)

/-- Plain loads and stores by opcode. -/
def isLdSt (op : Nat) : Bool := 0x90 ≤ op && op ≤ 0x97
/-- Atomics by opcode. -/
def isAmo (op : Nat) : Bool := 0xA0 ≤ op && op ≤ 0xA7
/-- The engine instructions of R277 that read a memory literal. -/
def isEngineMem (op : Nat) : Bool := (0xD0 ≤ op && op ≤ 0xD7) || op == 0xD9 || (0xE8 ≤ op && op ≤ 0xEA)
/-- Instructions that refuse a scratchpad space (R251). -/
def noSpad (op : Nat) : Bool := op == 0xA8 || op == 0xA9 || (0xAA ≤ op && op ≤ 0xAD) || op == 0xAF

/-- The causes of a memory literal (R185, R251, R252, R262, R277); `d` is dstA. -/
def memLitCauses (op d : Nat) (l : Word) : List Nat :=
  let c7 := bitsOf l 63 60 != 0 || (isLdSt op && (litWidth l != op % 4 || 24 ≤ d || 24 ≤ d + litN l)) ||
    ((op == 0x9E || op == 0x9F || isAmo op) && litWidth l < 2) || (litOrd l != 0 && !isAmo op)
  let c9 := (litN l != 0 && !isLdSt op) || (noSpad op && litSpace l < 3) ||
    (((0xAA ≤ op && op ≤ 0xAD) || op == 0xAF || (0xB0 ≤ op && op ≤ 0xB3)) && litWidth l != 3) ||
    (op == 0xB8 && litWidth l != 2) || (op == 0xAE && l &&& 0xFFF3FFFFFFFFFFFF != 0) ||
    ((op == 0xA8 || op == 0xA9 || op == 0xAD) && 24 ≤ d + 1) ||
    (isEngineMem op && (litWidth l != 3 || litN l != 0 || litOrd l != 0 || litSc l != 0 || litSpace l == 4))
  (if c7 then [7] else []) ++ (if c9 then [9] else [])

/-- A generator's width fits its instruction (R251, R277). -/
def genFits (op : Nat) (q : Gen) : Bool :=
  if isLdSt op then q.width == op % 4
  else if op == 0x9E || op == 0x9F || isAmo op then 2 ≤ q.width
  else if op == 0xA8 || op == 0xA9 then q.width == (if bitsOf q.cc 6 4 == 2 || bitsOf q.cc 6 4 == 3 then 3 else 2)
  else if 0x98 ≤ op && op ≤ 0x9D then q.width ≤ 2
  else q.width == 3

/-- A combine control word is legal (R261); on a task bit 32 and 33 name a channel. -/
def ccOk (task fixed : Bool) (cc : Word) : Bool :=
  let op := bitsOf cc 3 0
  let ty := bitsOf cc 6 4
  let n := bitsOf cc 23 8
  bitsOf cc 63 34 == 0 && !bitOf cc 27 && !bitOf cc 7 && (task || bitsOf cc 33 32 == 0) && op ≤ 5 && ty ≤ 4 && 1 ≤ n &&
    (bitOf cc 24 || bitOf cc 26) && !(ty == 4 && 3 ≤ op) && (!fixed || (op == 0 && ty == 4 && n ≤ 16))

/-- The causes of an address-generator literal (R186, R251, R257, R258, R277), where the generators are known. -/
def agLitCauses (op : Nat) (l : Word) (gens : NMap Gen) : List Nat :=
  let hasSc := op == 0x9E || op == 0x9F || (0xAA ≤ op && op ≤ 0xAF)
  let c7 := bitsOf l 63 6 != 0 || (bitsOf l 5 4 != 0 && !hasSc)
  let n := bitsOf l 3 0
  let rest : List Nat :=
    match NMap.find gens n with
    | none => [8]
    | some q =>
      (if op == 0x9B then
        match NMap.find gens (n + 1) with
        | some q' => if n == 15 || q'.width != q.width then [8] else []
        | none => [8]
       else []) ++
      (if !genFits op q || (noSpad op && q.space < 3) || (isEngineMem op && op != 0xD9 && q.space < 3) ||
          (op == 0x9A && (q.base % 16 != 0 || q.step % 16 != 0)) ||
          ((op == 0xA8 || op == 0xA9) && !ccOk false (op == 0xA9) q.cc) then [9] else [])
  (if c7 then [7] else []) ++ rest

/-- The causes of a conversion literal (R187, R209). -/
def convLitCauses (op : Nat) (l : Word) : List Nat :=
  let fmt := bitsOf l 7 0
  let rnd := bitsOf l 10 8
  (if bitsOf l 63 13 != 0 || bitsOf l 12 11 == 3 || 6 ≤ rnd || !fmtValid fmt || fmt / 16 == 0 ||
      (if op == 0x51 then rnd != 5 else rnd == 5) then [7] else []) ++
  (if fmt == 0xC0 && (op == 0x50 || op == 0x51) then [9] else [])

/-- A literal read through a field is refused by the instruction's description (R196, R271, R277): fields 0 srcA, 1 srcB. -/
def litRefused (op : Nat) (k : EKind) (fld : Nat) (v : Word) : Bool :=
  let ovr (n : Nat) : Bool := 2 ^ n ≤ v.toNat
  let t := decide (k = .task)
  if fld == 0 then
    match op with
    | 0xC0 | 0xC1 | 0xC5 | 0xC8 | 0xC9 => ovr 20
    | 0xC2 | 0xC3 | 0xC7 => ovr 1
    | 0xC4 => ovr 11
    | 0xC6 | 0xCA => ovr 2
    | 0xDA => ovr 40
    | 0xDC | 0xDE => ovr 56
    | 0xDD | 0xDF => ovr 16
    | 0xE6 | 0xE7 => ovr 52
    | 0xF7 => !t && 4 ≤ v.toNat
    | _ => false
  else
    match op with
    | 0x40 => !lutOk true v
    | 0x41 => !lutOk false v
    | 0x42 | 0x43 | 0x44 => ovr 5 || 10 < bitsOf v 3 0
    | 0x60 | 0x61 | 0x62 | 0x63 | 0x6E => 3 ≤ v.toNat
    | 0x65 => bitsOf v 31 0 == 0 || 32 < bitsOf v 31 0
    | 0x76 => bitsOf v 31 0 == 0 || 2 ^ 20 < bitsOf v 31 0
    | 0x77 => bitsOf v 5 0 == 0 || 32 < bitsOf v 5 0
    | 0x79 => ovr 8 || bitsOf v 3 0 == 0 || 8 < bitsOf v 3 0
    | 0x7D => bitsOf v 7 0 == 0
    | 0x7E => bitsOf v 7 0 < 0x80
    | 0xB5 => ovr 7 || 10 < bitsOf v 3 0
    | 0xB7 => v &&& 0xF0000000000000F0 != 0 || 10 < bitsOf v 3 0
    | 0xC0 | 0xC1 | 0xC2 | 0xC3 => ovr 1
    | 0xC8 => ovr 15
    | 0xC9 => ovr 3
    | 0xDA => ovr 16
    | 0xDB => ovr 52 || bitsOf v 51 48 < 3 || bitsOf v 51 48 == 4 || bitsOf v 5 0 != 0
    | 0xE5 => !t && 32 < v.toNat
    | 0xE6 => ovr 6
    | 0xE7 => ovr 25
    | _ => false

/-- Every encoding cause of a word on a kind of element (R189); `load` leaves out the causes execution alone has. -/
def wordCauses (k : EKind) (load : Bool) (w : Lane) (lit : Word) (gens : NMap Gen) : List Nat :=
  let op := w.toNat / 2 ^ 24
  if op = 0xFF then [0x0C]
  else
    match Encoding.ctor op with
    | none => [1]
    | some mk =>
      let f := fieldsOf w
      match shapeOn k (mk f) with
      | none => [2]
      | some h =>
        let task := decide (k = .task)
        let a := f.a.toNat
        let b := f.b.toNat
        let d := f.d.toNat
        let e := f.e.toNat
        let t := f.t.toNat
        let wch := (h.d.isDst && 25 ≤ d && d ≤ 27) || (h.e.isDst && 25 ≤ e && e ≤ 27)
        let rl := (h.a.isSrc && a == 31) || (h.b.isSrc && b == 31) || (h.d.isSrc && d == 31) || (h.e.isSrc && e == 31)
        let structured := match h.lit with | .conv => true | .mem => true | .ag => true | .branch => true | _ => false
        (if 13 ≤ t then [3] else []) ++
        (if task && !load && t != 0 && !wch then [4] else []) ++
        (if useOk task h.lit h.a a && useOk task h.lit h.b b && useOk task h.lit h.d d && useOk task h.lit h.e e then []
         else [5]) ++
        (if (t == 6 || t == 7) && (structured || rl) then [6] else []) ++
        (match h.lit with
         | .mem => memLitCauses op d lit
         | .ag => if load then agLitCauses op lit gens else []
         | .conv => convLitCauses op lit
         | .branch => if bitsOf lit 63 11 != 0 || (op == 0x8F && bitsOf lit 10 6 != 0) then [7] else []
         | .data =>
           (if h.a.isSrc && a == 31 && litRefused op k 0 lit then [9] else []) ++
           (if h.b.isSrc && b == 31 && litRefused op k 1 lit then [9] else [])
         | .none => [])

/-- The cause reported: the lowest (R189); 0 for a legal word. -/
def wordCause (k : EKind) (load : Bool) (w : Lane) (lit : Word) (gens : NMap Gen) : Nat :=
  match wordCauses k load w lit gens with
  | [] => 0
  | c :: r => r.foldl min c

/-- The kind of an element code (R104). -/
def kindOf (e : Nat) : EKind := if e < 4 then .task else if e < 24 then .graph else if e < 28 then .lut else .port

end Sys2Proof.Machine
end

