-- ==== Sys2Proof/Machine/Flags.lean ====
section
/-! DEFINITION. Status bits: the lost-NaN bits (R64, R209), the element status register (R229), the context status
(R242), and the saturation flag of an accumulation (R81). -/

namespace Sys2Proof.Machine

/-- Set the context's lost-NaN bit (R209). -/
def Ctx.lostNaN (x : Ctx) (l : Bool) : Ctx := { x with lnan := x.lnan || l }

/-- Set the element's lost-NaN bit (R64). -/
def State.lostNaN (s : State) (g e : Nat) (l : Bool) : State := s.updElem g e (fun x => { x with lnan := x.lnan || l })

/-- The element status register (R229). -/
def Elem.statusWord (x : Elem) : Word :=
  BitVec.ofNat 64 (b2n x.smiss * 2 + b2n x.lnan * 4 + b2n x.wrf * 8 + b2n x.esl * 16 + x.apl % 4 * 2 ^ 5 + x.npl % 4 * 2 ^ 7
    + b2n x.npnd * 2 ^ 9 + b2n x.nrdy * 2 ^ 10 + b2n x.halt * 2 ^ 11 + x.recCnt % 256 * 2 ^ 16 + x.gzc % 256 * 2 ^ 24
    + x.store.length % 256 * 2 ^ 32)

/-- A write of the element status register: W1C (R229). -/
def Elem.clearStatus (x : Elem) (v : Word) : Elem :=
  { x with smiss := x.smiss && !bitOf v 1, lnan := x.lnan && !bitOf v 2, wrf := x.wrf && !bitOf v 3, esl := x.esl && !bitOf v 4,
           recCnt := if bitsOf v 23 16 = 0 then x.recCnt else 0, gzc := if bitsOf v 31 24 = 0 then x.gzc else 0 }

/-- The word of a repeat state (R242). -/
def Rpt.word (r : Rpt) : Word :=
  BitVec.ofNat 64 (r.left.toNat + r.start.toNat * 2 ^ 32 + r.n1.toNat * 2 ^ 43 + b2n r.active * 2 ^ 49)

/-- The context status register ctxst (R242). -/
def Ctx.statusWord (x : Ctx) (c : Nat) : Word := BitVec.ofNat 64 (b2n x.lnan + b2n x.steward * 2 + c % 4 * 2 ^ 3)

/-- INT32 accumulation with the sticky saturation flag (R81). -/
def satAcc (x : Int) : Lane × Bool :=
  let y := satInt x (-(2 ^ 31 : Nat)) ((2 ^ 31 : Nat) - 1)
  (BitVec.ofInt 32 y, decide (y ≠ x))

/-- The carry-free saturating sum of two signed numbers at width `w` (R198). -/
def satSum (w : Nat) (x : Int) : BitVec w := BitVec.ofInt w (satInt x (-(2 ^ (w - 1) : Nat)) ((2 ^ (w - 1) : Nat) - 1))

end Sys2Proof.Machine
end

