-- ==== Sys2Proof/Machine/Operands.lean ====
section
/-! DEFINITION. Operands: how a task context and an element read their sources and write their destinations
(R31, R32, R177, R194, R195), and the end of an issue or a firing. -/

namespace Sys2Proof.Machine

/-! Task contexts. -/

/-- What an issued instruction works on: its place, the context with its channel words taken, its literal and operands. -/
structure TIn where
  g : Nat
  p : Nat
  c : Nat
  f : Fields
  lit : Word
  x : Ctx
  a : Word
  b : Word
  d : Word
  e : Word
  /-- Thread and iteration of the word read through srcB (R184). -/
  tb : Option (Nat × Nat)
  /-- Channel words taken. -/
  undo : List (Nat × Tok)
  deriving DecidableEq, Repr

/-- Begin: the instruction may have its effect, or the step has ended in a trap, a block or nothing. -/
inductive Began where
  | go (t : TIn)
  | stop (s : State)

/-- The literal of the context's slot (R176, R240). -/
def State.litAt (s : State) (g p : Nat) (x : Ctx) : Word :=
  if x.steward then NMap.get (s.tp g p).slits (x.pc.toNat % 256) 0 else NMap.get (s.tp g p).lits x.pc.toNat 0

/-- The word of the context's slot (R193, R240). -/
def State.wordAt (s : State) (g p : Nat) (x : Ctx) : Lane :=
  if x.steward then NMap.get (s.tp g p).sstore (x.pc.toNat % 256) 0xFFFFFFFF else NMap.get (s.tp g p).store x.pc.toNat 0xFFFFFFFF

/-- The value of a source select of a context (R177). -/
def Ctx.src (x : Ctx) (lit : Word) (code : Nat) : Word :=
  if code < 24 then x.s[code]?.getD 0
  else if code < 28 then match (x.chan (code - 24)).buf with | k :: _ => k.value | [] => 0
  else if code = 28 then 0
  else if code = 29 then x.tag.setWidth 64
  else if code = 30 then x.fp
  else lit

/-- The channels a word reads, each once (R177) (DEDUCED, log entry 41). -/
def srcChans (h : Shape) (f : Fields) : List Nat :=
  ((if h.a.isSrc then [f.a.toNat] else []) ++ (if h.b.isSrc then [f.b.toNat] else []) ++
   (if h.d.isSrc then [f.d.toNat] else []) ++ (if h.e.isSrc then [f.e.toNat] else [])).filter
    (fun k => 24 ≤ k && k < 28) |>.map (· - 24) |>.eraseDups

/-- The channels a word writes. -/
def dstChans (h : Shape) (f : Fields) : List Nat :=
  ((if h.d.isDst then [f.d.toNat] else []) ++ (if h.e.isDst then [f.e.toNat] else [])).filter
    (fun k => 24 ≤ k && k < 28) |>.map (· - 24)

/-- Take the first word of a channel. -/
def Ctx.pop (x : Ctx) (k : Nat) : Ctx :=
  { x with vc := NMap.set x.vc k { x.chan k with buf := (x.chan k).buf.tail } }

/-- A channel may be read (R177, R288). -/
def Chan.readable (k : Chan) : Bool := k.arc.isSome && !k.dest && !k.ragged
/-- A channel may be written. -/
def Chan.writable (k : Chan) : Bool := k.arc.isSome && k.dest

/-- A context blocks (R21): nothing else changes. -/
def State.block (s : State) (g p c : Nat) (st : CtxSt) : State :=
  s.updCtx g p c (fun x => { x with status := st, blkAt := s.acCycles g })

/-- A trap at the instruction a context issues (R239). -/
def State.trapAt (s : State) (g p c : Nat) (cause : Nat) (val : Word) : State :=
  let x := s.ctx g p c
  s.takeTrap g p c (BitVec.ofNat 16 cause) x.pc val x.rpt

/-- The value of a field of a word that a context issues: 0 for a field that is no source. -/
def Ctx.opnd (x : Ctx) (lit : Word) (u : FUse) (code : BitVec 5) : Word := if u.isSrc then x.src lit code.toNat else 0

/-- What an issued instruction of shape `h` works on: its channel words taken, its operands read (R177, R184). -/
def State.taskIn (s : State) (h : Shape) (f : Fields) (g p c : Nat) : TIn :=
  let x := s.ctx g p c
  let lit := s.litAt g p x
  { g := g, p := p, c := c, f := f, lit := lit, x := (srcChans h f).foldl Ctx.pop x
    a := x.opnd lit h.a f.a, b := x.opnd lit h.b f.b, d := x.opnd lit h.d f.d, e := x.opnd lit h.e f.e
    tb := if 24 ≤ f.b.toNat && f.b.toNat < 28 && h.b.isSrc then
        match (x.chan (f.b.toNat - 24)).buf with | k :: _ => some (k.thread, k.iter) | [] => none else none
    undo := (srcChans h f).filterMap (fun k => match (x.chan k).buf with | t :: _ => some (k, t) | [] => none) }

/-- Every channel a word names is bound the right way (R177, R288). -/
def Ctx.bound (x : Ctx) (h : Shape) (f : Fields) : Bool :=
  (srcChans h f).all (fun k => (x.chan k).readable) && (dstChans h f).all (fun k => (x.chan k).writable)

/-- The first channel a word reads that holds nothing (R22). -/
def Ctx.emptyChan (x : Ctx) (h : Shape) (f : Fields) : Option Nat :=
  (srcChans h f).find? (fun k => (x.chan k).readable && (x.chan k).buf == [])

/-- The first channel a word writes whose arc back-pressures the context (R22; DESIGN CHOICE, log entry 63). -/
def State.heldChan (s : State) (g : Nat) (x : Ctx) (h : Shape) (f : Fields) : Option Nat :=
  (dstChans h f).find? (fun k => s.sendHeld g (x.chan k))

/-- The select codes of the registers a word reads (R177), with the further registers of a memory instruction (R252, R255) and s23 of `ret` (R231). -/
def srcRegs (i : Instr) (h : Shape) (f : Fields) (lit : Word) : List Nat :=
  (if h.a.isSrc then [f.a.toNat] else []) ++ (if h.b.isSrc then [f.b.toNat] else []) ++ (if h.e.isSrc then [f.e.toNat] else []) ++
    (if h.d.isSrc then
      match i with
      | .iCmb _ | .iCmbF _ => [f.d.toNat, f.d.toNat + 1]
      | .iStB _ | .iStH _ | .iStW _ | .iStD _ => if f.d.toNat < 24 then (List.range (litN lit + 1)).map (f.d.toNat + ·) else [f.d.toNat]
      | _ => [f.d.toNat]
    else []) ++ (match i with | .iRet _ => [23] | _ => [])

/-- The first register a word reads that an earlier instruction has still to write (R357). -/
def State.pendingSrc (s : State) (i : Instr) (h : Shape) (f : Fields) (g p c : Nat) : Option Nat :=
  (srcRegs i h f (s.litAt g p (s.ctx g p c))).find? (s.pendingReg g p c)

/-- A source operand waits for a channel word: its value is not there yet (R22). -/
def Ctx.missing (x : Ctx) (u : FUse) (code : BitVec 5) : Bool :=
  u.isSrc && decide (24 ≤ code.toNat) && decide (code.toNat < 28) && (!(x.chan (code.toNat - 24)).readable || (x.chan (code.toNat - 24)).buf == [])

/-- The cause for which an instruction refuses its operand values, 0 for none; an operand that is not there yet refuses nothing by its value. -/
def TIn.refusal (t : TIn) (h : Shape) (x : Ctx) (bad : Ctx → Word → Word → Nat) : Nat :=
  let at' (m : Word) : Nat := bad x (if x.missing h.a t.f.a then m else t.a) (if x.missing h.b t.f.b then m else t.b)
  if at' 0 = at' (BitVec.allOnes 64) then at' 0 else 0

/-- Check and read the operands of an instruction that a context issues (R177, R183, R189, R191): the encoding causes, the lowest first, then
the privilege, then the words it waits for. `bad` is the instruction's own refusal of its operand values: cause 0x09 or 0x0A, or one that
R189 puts after an unbound channel, 0 for none. A register that an earlier instruction has still to write is waited for first (R357). -/
def beginTask (i : Instr) (f : Fields) (s : State) (bad : Ctx → Word → Word → Nat) : Began :=
  match s.site with
  | .elem _ _ => .stop s
  | .task g p c =>
    let x := s.ctx g p c
    let w := (encodeWord i).getD 0xFFFFFFFF
    let cause := wordCause .task false w (s.litAt g p x) []
    if cause ≠ 0 then .stop (s.trapAt g p c cause (w.setWidth 64))
    else
      match taskShape i with
      | none => .stop (s.trapAt g p c 2 (w.setWidth 64))
      | some h =>
        match s.pendingSrc i h f g p c with
        | some k => .stop (s.block g p c (.blkReg k))
        | none =>
        let t := s.taskIn h f g p c
        let b := t.refusal h x bad
        if b ≠ 0 ∧ b < 0x0B then .stop (s.trapAt g p c b (w.setWidth 64))
        else if !x.bound h f then .stop (s.trapAt g p c 0x0B (w.setWidth 64))
        else if stewardOnly i && !x.steward then .stop (s.trapAt g p c 0x10 (w.setWidth 64))
        else if b ≠ 0 then .stop (s.trapAt g p c b (w.setWidth 64))
        else
          match x.emptyChan h f, s.heldChan g x h f with
          | some k, _ => .stop (s.block g p c (.blkChan k))
          | none, some k => .stop (s.block g p c (.blkSend k))
          | none, none => .go t

/-- No value of the operands is refused. -/
def noBad : Ctx → Word → Word → Nat := fun _ _ _ => 0
/-- Refuse with cause 0x09. -/
def nine (b : Bool) : Nat := if b then 9 else 0

/-- Send one word on a channel (R22): the context's tag, rewritten by the tag action. -/
def State.sendWord (s : State) (t : TIn) (k : Nat) (v : Word) : State :=
  let tok := tagAct t.f.t.toNat t.lit t.tb (Tok.scalar t.x.thread t.x.iter v)
  match (t.x.chan k).arc, (s.tile t.g).inst with
  | some a, some i =>
    s.updReg i (fun r => r.push a (match NMap.find r.arcs a with | some q => q.slot | none => 0) tok)
  | _, _ => s

/-- Write a destination select of a context (R177): a register at once, a channel by sending a word. -/
def Ctx.write (x : Ctx) (code : Nat) (v : Word) : Ctx :=
  if code < 24 then { x with s := x.s.setIfInBounds code v }
  else if code = 29 then { x with tag := v.setWidth 32 }
  else if code = 30 then { x with fp := v }
  else x

/-- The context after its instruction issued: it counts as work and stays runnable (R243, R21). -/
def Ctx.issued (x : Ctx) (skip : Bool) : Ctx := { x with work := x.work + 1, status := .runnable, skip := skip }

/-- An instruction has issued and its context goes on as `x` says. -/
def State.retire (s : State) (t : TIn) (x : Ctx) : State :=
  ((s.updTp t.g t.p (fun q => { q with last := t.c })).updCtx t.g t.p t.c (fun _ => x.issued (t.x.skip && t.x.steward))).progressAt t.g

/-- Write a result to dstA, and to dstB when it has the dup role, then go on as `next` says. A word that an instruction sends while it
also writes tg carries the tag held before the write (R12 leaves it open: DESIGN CHOICE, log entry 63). -/
def State.putThen (s : State) (t : TIn) (dup : Bool) (v : Word) (next : Ctx → Ctx) : State :=
  let d := t.f.d.toNat
  let e := t.f.e.toNat
  let x := t.x.write d v
  let x := if dup then x.write e v else x
  let s := s.retire t (next x)
  let s := if 25 ≤ d && d < 28 then s.sendWord t (d - 24) v else s
  if dup && 25 ≤ e && e < 28 then s.sendWord t (e - 24) v else s

/-- Write a result and go on to the next slot. -/
def State.putResult (s : State) (t : TIn) (dup : Bool) (v : Word) : State := s.putThen t dup v Ctx.advance

/-- dstB is a second destination of an instruction. -/
def isDup (h : Option Shape) : Bool := match h with | some h => h.e.isDst | none => false

/-! Elements. -/

/-- The value of a source of a firing: a scalar, or lanes with carried indices (R194). -/
inductive Val where
  | sc (v : Word)
  | vec (ls : List Lane) (idx : List Nat)
  deriving DecidableEq, Repr

/-- The scalar value, or lane 0. -/
def Val.scal : Val → Word
  | .sc v => v
  | .vec ls _ => (ls.headD 0).setWidth 64
/-- Lane `k`: a scalar source gives its low half to every lane. -/
def Val.lane (v : Val) (k : Nat) : Lane :=
  match v with
  | .sc w => w.setWidth 32
  | .vec ls _ => ls.getD k 0
/-- The lanes, one for a scalar (R211, R213). -/
def Val.lanes : Val → List Lane
  | .sc w => [w.setWidth 32]
  | .vec ls _ => ls
/-- The carried indices. -/
def Val.idx : Val → List Nat
  | .sc _ => []
  | .vec _ ix => ix

/-- A source of a firing at the firing's width (R194): in a lane-width one, bits [31:0] of a source that is no vector. -/
def Fire.opnd (r : Fire) (v : Val) : Word := if r.vec then (v.scal.setWidth 32).setWidth 64 else v.scal

/-- The consumed token of a select, if it names an in-port. -/
def Fire.tok (r : Fire) (code : Nat) : Option Tok := NMap.find r.toks code

/-- The value of a source select of a firing (R177, R194). -/
def Fire.val (r : Fire) (el : Elem) (code : Nat) : Val :=
  if code < 16 then
    match r.tok code with
    | some k => if k.kind = .ctl then .sc 0 else if k.lanes = [] then .sc k.pay else .vec k.lanes k.idx
    | none => .sc 0
  else if code < 24 then .sc (el.e[code - 16]?.getD 0)
  else if code < 29 then .sc 0
  else if code = 29 then .sc (BitVec.ofNat 64 (r.thread * 2 ^ 20 + r.iter))
  else if code = 30 then .sc (BitVec.ofNat 64 r.n)
  else .sc r.lit

/-- A result of a firing: to dstA (and dstB where it duplicates), to dstB alone, or to an out-port. -/
inductive Out where
  | a (t : Tok)
  | b (t : Tok)
  | port (k : Nat) (t : Tok)
  deriving DecidableEq, Repr

/-- Fields of the firing's word. -/
def Fire.f (r : Fire) : Fields := fieldsOf r.word

/-- The tag of the token consumed on srcB, for `~tagb` (R34). -/
def Fire.tagB (r : Fire) : Option (Nat × Nat) :=
  match r.tok r.f.b.toNat with
  | some k => some (k.thread, k.iter)
  | none => none

/-- Emit one result with the tag action (R34, R177) (DESIGN CHOICE, log entry 43). -/
def State.emitOut (s : State) (g e : Nat) (f : Fields) (dup : Bool) (lit : Word) (tb : Option (Nat × Nat)) (o : Out) : State :=
  match o with
  | .a k =>
    let k := tagAct f.t.toNat lit tb k
    let s := s.emitTo g e f.d.toNat k
    if dup then s.emitTo g e f.e.toNat k else s
  | .b k => s.emitTo g e f.e.toNat (tagAct f.t.toNat lit tb k)
  | .port q k => s.emitTo g e q (tagAct f.t.toNat lit tb k)

/-- Emit results in order. -/
def State.emitOuts (s : State) (g e : Nat) (f : Fields) (dup : Bool) (lit : Word) (tb : Option (Nat × Nat)) (os : List Out) : State :=
  os.foldl (fun s o => s.emitOut g e f dup lit tb o) s

/-- The opcode of the slot a plane holds. -/
def Plane.op (q : Plane) (slot : Nat) : Nat := (NMap.get q.words slot 0xFFFFFFFF).toNat / 2 ^ 24

/-- Lanes staged in `cmpct` buffers. -/
def stagedLanes (l : NMap (List CmpBuf)) : Nat := l.foldl (fun n b => b.2.foldl (fun n c => n + c.lanes.length) n) 0

/-- Change the active plane: staging buffers of slots that no longer hold `cmpct` become stray (R39, R216), and so do
waiting tokens and pulses of slots that the new plane leaves empty (R193). -/
def Elem.toPlane (x : Elem) (p : Nat) : Elem × Nat :=
  let q := NMap.get x.planes p Plane.empty
  let cm (b : Nat × List CmpBuf) : Bool := q.op b.1 == 0x6A && q.mask.getLsbD b.1
  let lost := (x.store.filter (fun n => !q.mask.getLsbD n.slot)).length
    + (x.ctl.filter (fun n => !q.mask.getLsbD (n.1 / 4))).foldl (fun n k => n + k.2.length) 0
  ({ x with apl := p, nrdy := false, swapWait := false, cmpct := x.cmpct.filter cm,
            store := x.store.filter (fun n => q.mask.getLsbD n.slot), ctl := x.ctl.filter (fun n => q.mask.getLsbD (n.1 / 4)),
            esl := x.esl || decide (0 < lost) },
   stagedLanes (x.cmpct.filter (fun b => !cm b)) + lost)

/-- The plane-swap step of R39. -/
def State.swapStep (s : State) (g e : Nat) : State :=
  let x := s.elem g e
  if x.nrdy then
    let (y, n) := x.toPlane x.npl
    (s.updElem g e (fun _ => y)).strayAt g n
  else if x.npnd then s.updElem g e (fun x => { x with swapWait := true })
  else s.updElem g e (fun x => { x with smiss := true })

/-- A firing has ended: the element may fire again, after a swap step where one is due (R39, R248). -/
def State.endFire (s : State) (g e : Nat) (eor : Bool) : State :=
  let req := (s.elem g e).swapReq
  let s := { s with begun := none }
  let s := s.updElem g e (fun x => { x with cur := none, work := x.work + 1, swapReq := false })
  let s := if eor || req then s.swapStep g e else s
  s.progressAt g

/-- The first bad token of a firing in the order srcA, srcB, dstB (R30). -/
def Fire.bad (r : Fire) (h : Shape) (accept : Tok → Bool) : Option Tok :=
  let f := r.f
  ([f.a.toNat, f.b.toNat] ++ (if h.e.isSrc then [f.e.toNat] else [])).filterMap r.tok |>.find? (fun k => k.isBad && !accept k)

/-- The token that takes the place of a result (R30, R104, R196), to every destination the word names. -/
def errOuts (h : Shape) (f : Fields) (k : Tok) : List Out :=
  [.a k] ++ (if h.role2 && f.e.toNat != 28 then [.b k] else [])

/-- A memory port by physical code (R104). -/
def isPort (e : Nat) : Bool := decide (28 ≤ e)

/-- A request of a firing, with its tag and destinations. -/
def State.fireReq (s : State) (g e : Nat) (r : Fire) (dup : Bool) (op : ReqOp) : Req :=
  let i := (s.tile g).inst.getD 0
  let tenant := match NMap.find s.regions i with | some q => q.tenant | none => 0
  { Req.blank 0 i tenant (.elem g e) op with
    slot := r.slot, d := r.f.d.toNat, e := r.f.e.toNat, t := r.f.t.toNat, lit := r.lit,
    thread := r.thread, iter := r.iter, n := r.n, vec := r.vec, fire := r.fire, counted := true, tb := r.tagB, dup := dup }

/-- A token of a memory port leaves after the results of the thread's earlier accesses (R36). -/
def State.queueTok (s : State) (g e : Nat) (r : Fire) (dup : Bool) (k : Tok) : State :=
  s.addReq { s.fireReq g e r dup (.emit k) with phase := .done }

/-- The token in place of a firing's result leaves: at once, or from a memory port in its turn. -/
def State.failOut (s : State) (g e : Nat) (r : Fire) (h : Shape) (k : Tok) : State :=
  let dup := h.e.isDst && !h.role2
  if isPort e then s.queueTok g e r dup k else s.emitOuts g e r.f dup r.lit r.tagB (errOuts h r.f k)

/-- A context issues a word that is no task instruction (R181, R189): the illegal-instruction trap. -/
def State.wrongKind (s : State) (i : Instr) (g p c : Nat) : State :=
  let w := (encodeWord i).getD 0xFFFFFFFF
  s.trapAt g p c (wordCause .task false w (s.litAt g p (s.ctx g p c)) []) (w.setWidth 64)

/-- Run the instruction of a begun firing; in a task it is the wrong kind of element. On an element, bad sources propagate, a refused operand gives its error token, otherwise the
results leave in order. `fn` gives the results with the element as it leaves it; `accept` names the kinds it takes. -/
def runElem (i : Instr) (s : State) (accept : Tok → Bool)
    (fn : State → Nat → Nat → Elem → Fire → Val → Val → Val → Except (Nat × Word) (State × List Out)) : State :=
  match s.site with
  | .task g p c => s.wrongKind i g p c
  | .elem g e =>
    match (s.elem g e).cur, elemShape i with
    | some r, some h =>
      let el := s.elem g e
      let f := r.f
      let dup := h.e.isDst && !h.role2
      match r.bad h accept with
      | some k =>
        let (pay, s) := if k.kind = .window then s.takeFree else (k.pay, s)
        let t : Tok := ⟨if k.kind = .fault then .fault else .err, r.thread, r.iter, r.n - 1, pay, [], []⟩
        (s.failOut g e r h t).endFire g e r.eor
      | none =>
        match fn s g e el r (r.val el f.a.toNat) (r.val el f.b.toNat) (r.val el f.e.toNat) with
        | .ok (s, os) => (s.emitOuts g e f dup r.lit r.tagB os).endFire g e r.eor
        | .error (cause, v) =>
          let t := Tok.error r.thread r.iter (r.n - 1) (errPayload cause g ((s.tile g).role e) v.toNat)
          (s.failOut g e r h t).endFire g e r.eor
    | _, _ => s

/-! Computation (R194, R195): the same function at 64 bits in a task or a scalar firing, at 32 bits in every lane. -/

/-- An operation at any width, with the lost-NaN flag. -/
abbrev OpF := (w : Nat) → BitVec w → BitVec w → BitVec w → BitVec w × Bool

/-- The index list of a lane-width result: that of the first indexed source (R197). -/
def firstIdx (a b c : Val) : List Nat :=
  if a.idx ≠ [] then a.idx else if b.idx ≠ [] then b.idx else c.idx

/-- The lanes of a lane-width result. -/
def lanesOf (op : OpF) (a b c : Val) : Nat → Nat → List (Lane × Bool)
  | 0, _ => []
  | n + 1, k => op 32 (a.lane k) (b.lane k) (c.lane k) :: lanesOf op a b c n (k + 1)

/-- The result of an operation in a firing, and the lost-NaN flag. -/
def elemwise (op : OpF) (r : Fire) (a b c : Val) : Tok × Bool :=
  if r.vec then
    let l := lanesOf op a b c r.n 0
    (⟨.vector, r.thread, r.iter, r.n - 1, 0, l.map (·.1), firstIdx a b c⟩, l.any (·.2))
  else
    let q := op 64 a.scal b.scal c.scal
    (Tok.scalar r.thread r.iter q.1, q.2)

/-- An instruction of chapter 10 on a task processor. -/
def runTask (i : Instr) (f : Fields) (s : State) (op : OpF) : State :=
  match beginTask i f s noBad with
  | .stop s => s
  | .go t =>
    let q := op 64 t.a t.b t.e
    ({ t with x := t.x.lostNaN q.2 } : TIn) |> fun t => s.putResult t (isDup (taskShape i)) q.1

/-- An instruction of chapter 10 wherever it stands. -/
def runCompute (i : Instr) (f : Fields) (s : State) (op : OpF) : State :=
  match s.site with
  | .task _ _ _ => runTask i f s op
  | .elem _ _ =>
    runElem i s (fun _ => false) (fun s g e _ r a b c =>
      let q := elemwise op r a b c
      .ok (s.lostNaN g e q.2, [.a q.1]))

/-- An operation without a flag. -/
def pure3 (f : (w : Nat) → BitVec w → BitVec w → BitVec w → BitVec w) : OpF := fun w a b c => (f w a b c, false)

/-- An FP32 operation: the low lane in, the result above a zero half (R56, R194). -/
def flt3 (f : Lane → Lane → Lane → Lane) : OpF :=
  fun w a b c => ((f (a.setWidth 32) (b.setWidth 32) (c.setWidth 32)).setWidth w, false)

end Sys2Proof.Machine
end

