-- ==== Sys2Proof/Machine/Arcs.lean ====
section
/-! DEFINITION. Tokens on arcs, circuits and channels: departure, router checks, arrival (R22, R29, R33, R35, R38, R101, R102,
R193, R222, R223, R224). -/

namespace Sys2Proof.Machine

/-! Errors units count (R415 to R417). -/

/-- Where a unit counts its errors: elements by 64 tile + code, then routers by tile, then vaults. -/
def elemUnit (g e : Nat) : Nat := 64 * g + e
/-- The router of a tile. -/
def routerUnit (g : Nat) : Nat := 64 * 384 + g
/-- A vault. -/
def vaultUnit (v : Nat) : Nat := 64 * 384 + 384 + v

/-- A link port as a unit that counts frames. -/
def linkUnit (p : Nat) : Nat := 64 * 384 + 384 + 64 + p

/-- Island state (R418). -/
def State.island (s : State) (i : Nat) : Nat := NMap.get s.islands i 0
/-- The router group of a tile. -/
def routerIsland (g : Nat) : Nat := 832 + 16 * (g / 48) + g % 48 / 3
/-- The island of a unit that counts errors. -/
def unitIsland (u : Nat) : Nat :=
  if u < 64 * 384 then 384 + u / 64
  else if u < 64 * 384 + 384 then routerIsland (u - 64 * 384)
  else if u < 64 * 384 + 384 + 64 then 768 + (u - 64 * 384 - 384)
  else 976 + (u - 64 * 384 - 384 - 64)

/-- An island changes its state: while it is not on, its units count no cycles (R415). -/
def State.setIsland (s : State) (i v : Nat) : State :=
  let c := s.cycles i
  { s with
    islands := NMap.set s.islands i v
    pausedSum := if s.island i ≠ 0 ∧ v = 0 then NMap.set s.pausedSum i (NMap.get s.pausedSum i 0 + (c - NMap.get s.pausedAt i 0)) else s.pausedSum
    pausedAt := if s.island i = 0 ∧ v ≠ 0 then NMap.set s.pausedAt i c else s.pausedAt }

/-- Own cycles of a unit since reset: those of its island's clock while the island was on; for a link port, hub cycles (R415, R423). -/
def State.ownCycles (s : State) (u : Nat) : Nat :=
  if linkUnit 0 ≤ u then s.cycles 1006
  else
    let i := unitIsland u
    let c := s.cycles i
    c - NMap.get s.pausedSum i 0 - (if s.island i = 0 then 0 else c - NMap.get s.pausedAt i 0)

/-- A unit whose window of 2^30 own cycles is over starts the next (R415, R423): its count is 0 again, and the policy word takes effect. -/
def State.rollWindow (s : State) (u : Nat) : State :=
  let w := s.ownCycles u / 2 ^ 30
  if NMap.get s.errWin u 0 = w then s
  else
    let s := { s with errWin := NMap.set s.errWin u w }
    if linkUnit 0 ≤ u then
      { s with policy := NMap.set s.policy u (bitsOf (s.hubWord 0x82000) 15 8)
               links := match NMap.find s.links (u - linkUnit 0) with | some l => NMap.set s.links (u - linkUnit 0) { l with win := 0 } | none => s.links }
    else { s with errs := NMap.erase s.errs u, policy := NMap.set s.policy u (bitsOf (s.hubWord 0x82000) 7 0) }

/-- Every unit's window as of now: a policy word about to be written takes effect at each unit's next boundary (R415). -/
def State.rollAll (s : State) : State := (List.range (linkUnit 16)).foldl (fun s u => s.rollWindow u) s

/-- Hub offset of a tile's bad-node word (R416). -/
def badOff (g : Nat) : Nat := 0x81000 + 0x200 * (g / 48) + 8 * (g % 48)

/-- Die and tile at their place in a record (R408). -/
def placeWord (g : Nat) : Nat := g / 48 * 2 ^ 16 + g % 48 * 2 ^ 19

/-- The bad-node bit of a lasting fault found at an element (R416): the element's own, or that of an engine reached through it, array, Porter or
route unit. Which of them has failed is a free value (DESIGN CHOICE, log entry 65). -/
def State.faultBit (s : State) (c : Nat) : Nat × State :=
  let (v, s) := s.takeFree
  (match v.toNat % 4 with | 1 => 32 | 2 => 33 | 3 => 34 | _ => c, s)

/-- What a lasting fault of a unit does (R416, R417), with its event-6 record. -/
def State.lasting (s : State) (u : Nat) : State :=
  if u < 64 * 384 then
    let g := u / 64
    let c := u % 64
    let (b, s) := s.faultBit c
    let old : Word := match NMap.find s.nodeSet (badOff g) with | some (t, w) => if t = s.now then w else 0 | none => 0
    let s := { s with nodeSet := NMap.set s.nodeSet (badOff g) (s.now, old ||| BitVec.ofNat 64 (2 ^ b)) }
    (s.setHub (badOff g) (s.hubWord (badOff g) ||| BitVec.ofNat 64 (2 ^ b))).post 0
      (eventRec 6 0 c 0 (BitVec.ofNat 64 (placeWord g)) 0 0)
  else if u < 64 * 384 + 384 then
    let g := u - 64 * 384
    ({ s with ready0 := s.ready0 &&& ~~~(BitVec.ofNat 64 (2 ^ (18 + g / 48))), dead := (18 + g / 48) :: s.dead }).post 0
      (eventRec 6 0 0x20 0 (BitVec.ofNat 64 (placeWord g)) 0 0)
  else
    let v := u - 64 * 384 - 384
    let (w, s) := s.takeFree
    ({ s with ready1 := s.ready1 &&& ~~~(BitVec.ofNat 64 (2 ^ v)), dead := (64 + v) :: s.dead }).post 0
      (eventRec 6 0 0x21 0 (BitVec.ofNat 64 (placeWord (48 * (v / 8) + 6 * (v % 8) + w.toNat % 6))) 0 0)

/-- A unit counts an error of its own in its window (R415); past ethr the fault is lasting. -/
def State.unitError (s : State) (u : Nat) : State :=
  let s := s.rollWindow u
  let n := NMap.get s.errs u 0 + 1
  let ethr := NMap.get s.policy u 4
  let s := { s with errs := NMap.set s.errs u n }
  let s := if u < 64 * 384 then s.bumpFleet (u / 64) 11 1 else s
  if ethr ≠ 0 ∧ n = ethr + 1 then s.lasting u else s

/-! Arcs. -/

/-- The first token on an arc. -/
def Region.head (r : Region) (a : Nat) : Option Wire := (NMap.get r.wires a []).head?
/-- Take the first token off an arc. -/
def Region.dropHead (r : Region) (a : Nat) : Region := { r with wires := NMap.set r.wires a (NMap.get r.wires a []).tail }

/-- The region instance an event names, while it runs. -/
def State.liveReg (s : State) (i : Nat) : Option Region :=
  match NMap.find s.regions i with
  | some r => if r.live then some r else none
  | none => none

/-- The tile of a team. -/
def Region.tileOf (r : Region) (team : Nat) : Nat := r.tiles.getD team 0

/-- Task processor (physical), context and channel of a channel end. -/
def Tile.chanEnd (t : Tile) (elem port : Nat) : Nat × Nat × Nat := (t.phys (elem / 4), elem % 4, port)

/-- The destination of an arc has room (R22, R33). -/
def State.room (s : State) (r : Region) (x : Arc) : Bool :=
  let g := r.tileOf x.dteam
  let t := s.tile g
  if x.dchan then
    let (p, c, k) := t.chanEnd x.delem x.dport
    decide (((s.ctx g p c).chan k).buf.length < 8)
  else decide ((s.elem g (t.phys x.delem)).store.length < 128)

/-- An arc enters its team from another one while the team's intake is closed (R249; DEDUCED, log entry 29): a token held at its
sender stays there, one that has left still arrives. -/
def State.shut (s : State) (g : Nat) (x : Arc) : Bool := x.steam != x.dteam && !(s.tile g).intake

/-! Flits (R27, R28). -/

/-- A mesh flit: 256 data bits and 8 sideband bits (R28). -/
structure Flit where
  data : BitVec 256
  side : BitVec 8
  deriving DecidableEq, Repr

/-- Data bits [32j + 31 : 32j] of a flit. -/
def Flit.group (f : Flit) (j : Nat) : Nat := f.data.toNat / 2 ^ (32 * j) % 2 ^ 32
/-- 32-bit fields from a bit position up. -/
def bitField (lo : Nat) : List Nat → Nat
  | [] => 0
  | x :: r => x % 2 ^ 32 * 2 ^ lo + bitField (lo + 32) r
/-- A flit with its sideband (R28): bit j the even parity of its group; in the first flit bit 0 is the indexed flag and bit 1 zero. -/
def Flit.make (first indexed : Bool) (d : Nat) : Flit :=
  let par (j : Nat) : Nat :=
    if first && j == 0 then b2n indexed else if first && j == 1 then 0 else popcount (d / 2 ^ (32 * j) % 2 ^ 32) 32 % 2
  { data := BitVec.ofNat 256 d, side := BitVec.ofNat 8 ((List.range 8).foldl (fun n j => n + par j * 2 ^ j) 0) }
/-- Flits of eight 32-bit fields each. -/
def flitsOf : Nat → List Nat → List Flit
  | 0, _ => []
  | n + 1, l => if l = [] then [] else Flit.make false false (bitField 0 (l.take 8)) :: flitsOf n (l.drop 8)
/-- The carried iterations that travel with a token: those of an indexed token (R28). -/
def Tok.carried (k : Tok) : List Nat := if k.kind = .window then [] else k.idx
/-- The flits of a token (R28). -/
def Tok.flits (k : Tok) (arc slot : Nat) : List Flit :=
  let ls := k.lanes.map (·.toNat)
  let pay := if ls = [] then k.pay.toNat * 2 ^ 64 else bitField 64 (ls.take 6)
  Flit.make true (k.carried != []) ((k.header arc slot).toNat + pay) :: flitsOf 4 (ls.drop 6) ++ flitsOf 4 (k.carried.map (· % 2 ^ 20))

/-- The parity of a flit holds (R27, R28): of the header in the first, of each group by its sideband bit. -/
def Flit.ok (first : Bool) (f : Flit) : Bool :=
  (List.range 8).all (fun j =>
    if first && decide (j < 2) then
      let x := f.group 0 % 2 ^ 32
      if j = 0 then (popcount (x / 4) 32 + x % 2) % 2 == 0 else (popcount (f.group 1) 32 + x / 2 % 2) % 2 == 0
    else popcount (f.group j) 32 % 2 == b2n (f.side.getLsbD j))
/-- Kind of a header's code (R27): 7 is reserved. -/
def kindOfCode (n : Nat) : Option Kind := [Kind.scalar, .vector, .ctl, .err, .fault, .window, .eor][n]?
/-- The flits pass a router's or element's check (R29): every parity holds and the kind is not 7. -/
def flitsOk : List Flit → Bool
  | [] => false
  | f :: r => f.ok true && r.all (Flit.ok false) && (kindOfCode (f.group 0 / 4 % 8)).isSome

/-- A soft error strikes a flit (DESIGN CHOICE, log entry 18): bits of one 32-bit group, or with group 8 sideband bits, change. -/
def strikeFlit (f : Flit) (grp : Nat) (mask : Word) : Flit :=
  if grp < 8 then { f with data := f.data ^^^ BitVec.ofNat 256 (mask.toNat % 2 ^ 32 * 2 ^ (32 * grp)) }
  else { f with side := f.side ^^^ BitVec.ofNat 8 mask.toNat }
/-- The flits of a token after the soft error that an event brings: flit `x`, group `id`, bits `w0`. -/
def struckFlits (ev : EvArg) (l : List Flit) : List Flit :=
  if ev.flag then l.zipIdx.map (fun q => if q.2 = ev.x then strikeFlit q.1 ev.id ev.w0 else q.1) else l

/-- The 32-bit fields of flits. -/
def flitFields (l : List Flit) : List Nat := l.flatMap (fun f => (List.range 8).map f.group)
/-- The token and slot that flits read as, where `k` was sent: its own where no bit has changed. -/
def Tok.fromFlits (k : Tok) (slot : Nat) (l : List Flit) : Tok × Nat :=
  match l with
  | [] => (k, slot)
  | f :: r =>
    let h := f.group 0 + 2 ^ 32 * f.group 1
    let nl := (k.lanes.length - 6 + 7) / 8
    let ls := ((List.range 6).map (fun j => f.group (2 + j)) ++ flitFields (r.take nl)).take k.lanes.length
    ({ k with
       kind := (kindOfCode (h / 4 % 8)).getD k.kind, thread := h / 2 ^ 30 % 4096, iter := h / 2 ^ 10 % 2 ^ 20, len := h / 32 % 32
       pay := if k.lanes = [] then BitVec.ofNat 64 (f.group 2 + 2 ^ 32 * f.group 3) else k.pay
       lanes := ls.map (BitVec.ofNat 32)
       idx := if k.kind = .window then k.idx else ((flitFields (r.drop nl)).take k.idx.length).map (· % 2 ^ 20) },
     h / 2 ^ 42 % 64)
/-- What a check of a token on an arc finds (R29): the token that goes on, or none where it fails. A soft error that the parity does not
show changes what is read. -/
def Wire.checked (w : Wire) (ev : EvArg) (arc : Nat) : Option Wire :=
  if !ev.flag then some w
  else
    let l := struckFlits ev (w.tok.flits arc w.slot)
    if flitsOk l then
      let (k, sl) := w.tok.fromFlits w.slot l
      some { w with tok := k, slot := sl }
    else none

/-! Routes (R346). -/

/-- Router tiles from one position to another of a die: along the row first, then the column. -/
def walkDie (a b : Nat) : List Nat :=
  let d := a / 48 * 48
  let (r1, c1) := (a % 48 / 6, a % 6)
  let (r2, c2) := (b % 48 / 6, b % 6)
  let row := if c1 ≤ c2 then (List.range (c2 + 1 - c1)).map (fun k => d + 6 * r1 + c1 + k) else (List.range (c1 + 1 - c2)).map (fun k => d + 6 * r1 + c1 - k)
  let col := if r1 ≤ r2 then (List.range (r2 - r1)).map (fun k => d + 6 * (r1 + k + 1) + c2) else (List.range (r1 - r2)).map (fun k => d + 6 * (r1 - k - 1) + c2)
  row ++ col

/-- The routers an arc uses: within a die, or through the crossings at tile 21 of both dies. -/
def pathOf (a b : Nat) : List Nat :=
  if a / 48 = b / 48 then walkDie a b else walkDie a (a / 48 * 48 + 21) ++ walkDie (b / 48 * 48 + 21) b

/-- The routers of an arc of a region, in order. -/
def Region.route (r : Region) (x : Arc) : List Nat := pathOf (r.tileOf x.steam) (r.tileOf x.dteam)

/-- The first wire still held at its sender leaves. -/
def leaveFirst : List Wire → List Wire
  | [] => []
  | w :: r => if w.stage = 0 then { w with stage := 1 } :: r else w :: leaveFirst r

/-- A context that the arc held back looks again (R22). -/
def State.wakeSender (s : State) (r : Region) (x : Arc) : State :=
  if x.schan then
    let g := r.tileOf x.steam
    let (p, c, _) := (s.tile g).chanEnd x.selem x.sport
    s.wakeCtx g p c
  else s

/-- ARC_TOKEN_DEPARTURE (R22, R35): the oldest token held at its sender leaves once the destination has room. -/
def execArcTokenDeparture (s : State) : Host.Outcome State Fault Refusal :=
  .next (match s.liveReg s.ev.inst with
    | none => s
    | some r =>
      match NMap.find r.arcs s.ev.arc with
      | none => s
      | some x =>
        if s.room r x ∧ !s.shut (r.tileOf x.dteam) x then
          (s.updReg s.ev.inst (fun r => { r with wires := NMap.set r.wires s.ev.arc (leaveFirst (NMap.get r.wires s.ev.arc [])) })).wakeSender r x
        else s)

/-- A wire stands before a router of its route. -/
def Wire.before (w : Wire) (route : List Nat) (g : Nat) : Bool := w.stage == 1 && route[w.hop]? == some g
/-- A wire that a router has forwarded (R29): past the last one it waits at its destination. -/
def Wire.forward (w : Wire) (route : List Nat) : Wire :=
  if w.hop + 1 < route.length then { w with hop := w.hop + 1 } else { w with hop := w.hop + 1, stage := 2 }
/-- Replace the first wire before a router. -/
def atRouter (route : List Nat) (g : Nat) (f : Wire → List Wire) : List Wire → List Wire
  | [] => []
  | w :: r => if w.before route g then f w ++ r else w :: atRouter route g f r

/-- ROUTER_HOP (R28, R29, R346): the router of tile `g` checks the flits of the oldest token before it on the arc's route and forwards it; a token
that fails is discarded there, the router counts the error, and the region is discarded (R408, R409, R415). -/
def execRouterHop (s : State) : Host.Outcome State Fault Refusal :=
  .next (match s.liveReg s.ev.inst with
    | none => s
    | some r =>
      match NMap.find r.arcs s.ev.arc with
      | none => s
      | some x =>
        let l := NMap.get r.wires s.ev.arc []
        let route := r.route x
        match l.find? (fun w => w.before route s.ev.g) with
        | none => s
        | some w =>
          let put (f : Wire → List Wire) : State :=
            s.updReg s.ev.inst (fun r => { r with wires := NMap.set r.wires s.ev.arc (atRouter route s.ev.g f l) })
          match w.checked s.ev s.ev.arc with
          | some w' => put (fun _ => [w'.forward route])
          | none =>
            let s := (put (fun _ => [])).unitError (routerUnit s.ev.g)
            let s := s.post 0 (eventRec 5 1 0 0 (BitVec.ofNat 64 (r.tenant + placeWord s.ev.g + 2 ^ 30)) (BitVec.ofNat 64 s.ev.inst) 0)
            s.discard s.ev.inst 2)

/-- The occupancy of a slot in the active plane (R193). -/
def Elem.occupied (x : Elem) (slot : Nat) : Bool := (NMap.get x.planes x.apl Plane.empty).mask.getLsbD slot

/-- A token meets an empty slot (R193): discarded, the status bit set, and counted as stray (DEDUCED, log entry 42). -/
def State.emptySlot (s : State) (g e : Nat) : State := (s.updElem g e (fun x => { x with esl := true })).strayAt g 1

/-- A token enters a matching store (R33). -/
def State.accept (s : State) (g e slot port : Nat) (k : Tok) : State :=
  s.updElem g e (fun x => { x with store := x.store ++ [⟨slot, port, k, x.arrSeq⟩], arrSeq := x.arrSeq + 1 })

/-- An element's own check finds a parity failure (R29, R408, R415). -/
def State.elemParity (s : State) (g e : Nat) : State := (s.unitError (elemUnit g e)).machineCheck g 1 0 0 0 e 2

/-- TOKEN_ARRIVAL (R33, R29, R193): the element checks the token; one that fails is discarded there. -/
def execTokenArrival (s : State) : Host.Outcome State Fault Refusal :=
  .next (match s.liveReg s.ev.inst with
    | none => s
    | some r =>
      match NMap.find r.arcs s.ev.arc, r.head s.ev.arc with
      | some x, some w =>
        let g := r.tileOf x.dteam
        let e := (s.tile g).phys x.delem
        if x.dchan ∨ w.stage ≠ 2 then s
        else
          match w.checked s.ev s.ev.arc with
          | none => (s.updReg s.ev.inst (·.dropHead s.ev.arc)).elemParity g e
          | some w =>
            if w.tok.kind = .window ∧ isPort e then s
            else if !(s.elem g e).occupied w.slot then ((s.updReg s.ev.inst (·.dropHead s.ev.arc)).emptySlot g e).stir g
            else if 128 ≤ (s.elem g e).store.length then s
            else ((s.updReg s.ev.inst (·.dropHead s.ev.arc)).accept g e w.slot x.dport w.tok).stir g
      | _, _ => s)

/-! Windows (R101, R102, R394). -/

/-- Serial comparison of shoot-down numbers modulo 2^32 (R394): `a` is older than `b`. -/
def olderSeq (a b : Nat) : Bool := decide (0 < (b + 2 ^ 32 - a % 2 ^ 32) % 2 ^ 32) && decide ((b + 2 ^ 32 - a % 2 ^ 32) % 2 ^ 32 < 2 ^ 31)

/-- A shoot-down covers a page of a tenant (R393). -/
def Shoot.covers (k : Shoot) (tenant va size : Nat) : Bool :=
  k.tenant == tenant && (k.npg == 0 || (decide (va < (k.vpn + k.npg) * 4096) && decide (k.vpn * 4096 < va + size)))

/-- A window is written revoked: a later shoot-down covers its page, or it is older than all eight kept (R394). -/
def lateWindow (l : List Shoot) (w : Win) : Bool :=
  l.any (fun k => k.covers w.tenant w.va w.size && olderSeq w.seq k.num) ||
    (decide (8 ≤ l.length) && l.all (fun k => olderSeq w.seq k.num))

/-- The window a token's lanes hold (R101). -/
def winOfTok (k : Tok) : Win :=
  let l (i : Nat) : Nat := (k.lanes.getD i 0).toNat
  { base := l 0 + l 1 % 2 ^ 20 * 2 ^ 32, extent := l 2 + l 3 % 2 ^ 20 * 2 ^ 32, kind := l 1 / 2 ^ 24 % 8,
    rd := (k.lanes.getD 1 0).getLsbD 27, wr := (k.lanes.getD 1 0).getLsbD 28, img := (k.lanes.getD 1 0).getLsbD 29,
    key := l 3 / 2 ^ 20 % 2 ^ 10, seq := l 4, tenant := l 5 % 2 ^ 16, va := k.idx.getD 0 0, size := k.idx.getD 1 0, revoked := false }
/-- The register a window token names. -/
def winNum (k : Tok) : Nat := (k.lanes.getD 1 0).toNat / 2 ^ 20 % 16

/-- Bytes of an access width. -/
def widthBytes (w : Nat) : Nat := 2 ^ w

/-- Every address of a generator, with its width, lies in [0, extent) (R102). -/
def Gen.fits (q : Gen) (extent : Nat) : Bool :=
  q.limit == 0 ||
    (let last := q.base + ((q.limit - 1 : Nat) : Int) * q.step
     decide (0 ≤ q.base) && decide (0 ≤ last) && decide (q.base + (widthBytes q.width : Nat) ≤ (extent : Nat)) &&
       decide (last + (widthBytes q.width : Nat) ≤ (extent : Nat)))

/-- Write a window register of an element and check the generators bound to it (R101, R102). -/
def Elem.writeWin (x : Elem) (k : Nat) (w : Win) : Elem :=
  { x with wins := NMap.set x.wins k { w with revoked := w.revoked || lateWindow x.shoots w }
           gens := x.gens.map (fun q => if q.2.space = 5 + k then (q.1, { q.2 with disabled := !q.2.fits w.extent }) else q) }

/-- WINDOW_TOKEN_ARRIVAL (R101): a window token at a memory port takes no matching-store entry. -/
def execWindowTokenArrival (s : State) : Host.Outcome State Fault Refusal :=
  .next (match s.liveReg s.ev.inst with
    | none => s
    | some r =>
      match NMap.find r.arcs s.ev.arc, r.head s.ev.arc with
      | some x, some w =>
        let g := r.tileOf x.dteam
        let e := (s.tile g).phys x.delem
        if x.dchan ∨ w.stage ≠ 2 ∨ w.tok.kind ≠ .window ∨ !isPort e then s
        else if (w.checked s.ev s.ev.arc).isNone then (s.updReg s.ev.inst (·.dropHead s.ev.arc)).elemParity g e
        else
          let w := (w.checked s.ev s.ev.arc).getD w
          let s := (s.updReg s.ev.inst (·.dropHead s.ev.arc)).stir g
          if winNum w.tok ≤ 10 then s.updElem g e (fun y => y.writeWin (winNum w.tok) (winOfTok w.tok))
          else s.updElem g e (fun y => { y with wrf := true })
      | _, _ => s)

/-- CONTROL_PULSE_ARRIVAL (R38): counted at the destination port, or held while 255 pulses wait there. -/
def execControlPulseArrival (s : State) : Host.Outcome State Fault Refusal :=
  .next (match s.liveReg s.ev.inst with
    | none => s
    | some r =>
      match NMap.find r.circs s.ev.arc with
      | none => s
      | some x =>
        let n := NMap.get r.pulses s.ev.arc 0
        let g := r.tileOf x.dteam
        let e := (s.tile g).phys x.delem
        let key := 4 * x.slot + x.dport
        let el := s.elem g e
        if n = 0 then s
        else
          let take (s : State) : State := s.updReg s.ev.inst (fun r => { r with pulses := NMap.set r.pulses s.ev.arc (n - 1) })
          if !el.occupied x.slot then (take s).emptySlot g e
          else if 255 ≤ (NMap.get el.ctl key []).length then s
          else (take s).updElem g e (fun y =>
            { y with ctl := NMap.set y.ctl key (NMap.get y.ctl key [] ++ [y.arrSeq]), arrSeq := y.arrSeq + 1 }))

/-- CHANNEL_WORD_ARRIVAL (R22, R29, R247): checked and buffered in order; wakes a context blocked on the channel or on idle. A word that
fails the check is discarded at the task processor. -/
def execChannelWordArrival (s : State) : Host.Outcome State Fault Refusal :=
  .next (match s.liveReg s.ev.inst with
    | none => s
    | some r =>
      match NMap.find r.arcs s.ev.arc, r.head s.ev.arc with
      | some x, some w =>
        let g := r.tileOf x.dteam
        let (p, c, k) := (s.tile g).chanEnd x.delem x.dport
        if !x.dchan ∨ w.stage ≠ 2 ∨ 8 ≤ ((s.ctx g p c).chan k).buf.length then s
        else
          match w.checked s.ev s.ev.arc with
          | none => (s.updReg s.ev.inst (·.dropHead s.ev.arc)).elemParity g p
          | some w =>
          let s := s.updReg s.ev.inst (·.dropHead s.ev.arc)
          let s := (s.updCtx g p c (fun y => { y with vc := NMap.set y.vc k { y.chan k with buf := (y.chan k).buf ++ [w.tok] } })).stir g
          (s.wakeIdle g p c).wakeCtx g p c
      | _, _ => s)

/-- SINK_TOKEN_ENTRY (R222, R425): an engine's token enters the sink slot's element on the in-port its srcA names. -/
def execSinkTokenEntry (s : State) : Host.Outcome State Fault Refusal :=
  .next (match s.liveReg s.ev.inst with
    | none => s
    | some r =>
      match r.sinkQ with
      | [] => s
      | (team, k) :: rest =>
        let drop (s : State) : State := s.updReg s.ev.inst (fun r => { r with sinkQ := rest })
        let g := r.tileOf team
        match NMap.find r.sinks team with
        | none => (drop s).updReg s.ev.inst (fun r => { r with stray := r.stray + 1 })
        | some (role, slot) =>
          let e := (s.tile g).phys role
          let el := s.elem g e
          let w := NMap.get (NMap.get el.planes el.apl Plane.empty).words slot 0xFFFFFFFF
          if !el.occupied slot then (drop s).emptySlot g e
          else if 128 ≤ el.store.length then s
          else (drop s).accept g e slot (fieldsOf w).a.toNat k)

/-! Emission after the firing (R33, R223, R224). -/

/-- The element holds a result at its outputs: a token that has not left its arc's sender, or a pulse of a circuit whose
destination count is full (R35, R38; DEDUCED, log entry 28). -/
def State.heldBack (s : State) (g e : Nat) : Bool :=
  match s.regOf g with
  | none => false
  | some (_, r) =>
    let t := s.tile g
    let role := t.role e
    r.arcs.any (fun a => !a.2.schan && a.2.steam == t.team && a.2.selem == role && (NMap.get r.wires a.1 []).any (fun w => w.stage == 0)) ||
      r.circs.any (fun a => a.2.steam == t.team && a.2.selem == role && NMap.get r.pulses a.1 0 != 0 &&
        decide (255 ≤ (NMap.get (s.elem (r.tileOf a.2.dteam) ((s.tile (r.tileOf a.2.dteam)).phys a.2.delem)).ctl (4 * a.2.slot + a.2.dport) []).length))

/-- The next run of an `itgen` firing (R223). -/
def ItRun.run (q : ItRun) : Tok :=
  let k := min q.r (q.n - q.next)
  Tok.vec q.thread (q.next % 2 ^ 20) ((List.range k).map (fun j => BitVec.ofNat 32 (q.next + j))) []

/-- Replace the first run list entry of a slot. -/
def stepRuns (slot : Nat) : List ItRun → List ItRun
  | [] => []
  | q :: r =>
    if q.slot = slot then (if q.n ≤ q.next + q.r then r else { q with next := q.next + q.r } :: r) else q :: stepRuns slot r

/-- ITGEN_RUN_EMIT (R223): the oldest firing of the slot emits its next run. -/
def execItgenRunEmit (s : State) : Host.Outcome State Fault Refusal :=
  .next (let g := s.ev.g
    let e := s.ev.e
    match (s.elem g e).itgen.find? (fun q => q.slot == s.ev.c) with
    | none => s
    | some q =>
      if !s.liveAt g ∨ s.heldBack g e then s
      else
        let s := s.updElem g e (fun x => { x with itgen := stepRuns q.slot x.itgen })
        let k := tagAct q.t q.lit q.tb q.run
        let s := s.emitTo g e q.d k
        s.emitTo g e q.e k)

/-- Every earlier firing of the element has emitted and its tokens have left (R224, R36). -/
def State.earlierGone (s : State) (g e fire : Nat) : Bool :=
  !s.heldBack g e && (s.elem g e).itgen.all (fun q => decide (fire ≤ q.fire)) &&
    s.reqs.all (fun r => r.who != .elem g e || decide (fire ≤ r.fire))

/-- FIN_EMIT (R224): the oldest word held by `fin` leaves. -/
def execFinEmit (s : State) : Host.Outcome State Fault Refusal :=
  .next (let g := s.ev.g
    let e := s.ev.e
    match (s.elem g e).fins with
    | [] => s
    | q :: rest =>
      if !s.liveAt g ∨ !s.earlierGone g e q.fire then s
      else
        let s := s.updElem g e (fun x => { x with fins := rest })
        let s := s.emitTo g e q.d q.tok
        s.emitTo g e q.e q.tok)

end Sys2Proof.Machine
end

