-- ==== Sys2Proof/Machine/Convert.lean ====
section
/-! DEFINITION. Conversion instructions 0x50 to 0x58 (R187, R208 to R212). -/

namespace Sys2Proof.Machine

/-- The format of a conversion literal (R187). -/
def convFmt (l : Word) : Nat := bitsOf l 7 0

/-- Convert an FP32 lane under a conversion literal with the random lane `u` (R209); FP32 to FP32 is exact. -/
def convLane (l : Word) (u : Nat) (a : Lane) : Nat × Bool :=
  if convFmt l = 0x80 then ((if isNan32 a then nan32 else a).toNat, false)
  else encodeFmt (convFmt l) (Rnd.ofCode (bitsOf l 10 8) u) (Sat.ofCode (bitsOf l 12 11)) (val32 a)

/-- `cvt` at any width. -/
def cvtOp (l : Word) : OpF := fun w a _ _ => let q := convLane l 0 (a.setWidth 32); (BitVec.ofNat w q.1, q.2)

/-- `cvt.sr` at any width: the random lane, or bits [63:32] of a scalar random word (R209). -/
def cvtSrOp (l : Word) : OpF := fun w a _ c =>
  let q := convLane l (if w = 64 then c.toNat / 2 ^ 32 else c.toNat) (a.setWidth 32)
  (BitVec.ofNat w q.1, q.2)

/-- `cvt` (R209). -/
def execCvt (f : Fields) (s : State) : Host.Outcome State Fault Refusal :=
  .next (match s.site with
    | .task _ _ _ =>
      match beginTask (.iCvt f) f s noBad with
      | .stop s => s
      | .go t =>
        let q := cvtOp t.lit 64 t.a t.b t.e
        let t : TIn := { t with x := t.x.lostNaN q.2 }
        s.putResult t (isDup (taskShape (.iCvt f))) q.1
    | .elem _ _ =>
      runElem (.iCvt f) s (fun _ => false) (fun s g e _ r a b c =>
        let q := elemwise (cvtOp r.lit) r a b c
        .ok (s.lostNaN g e q.2, [.a q.1])))

/-- `cvt.sr` (R209, R62). -/
def execCvtSr (f : Fields) (s : State) : Host.Outcome State Fault Refusal :=
  .next (runElem (.iCvtSr f) s (fun _ => false) (fun s g e _ r a b c =>
    let q := elemwise (cvtSrOp r.lit) r a b c
    .ok (s.lostNaN g e q.2, [.a q.1])))

/-- FP32 to a W-bit integer (R210). -/
def cvtfIOp : OpF := fun w a b _ =>
  let q := encodeInt w (!b.getLsbD 0) (if b.getLsbD 1 then .rne else .rtz) (val32 (a.setWidth 32))
  (BitVec.ofInt w q.1, q.2)

/-- `cvtf.i` (R210). -/
def execCvtfI (f : Fields) (s : State) : Host.Outcome State Fault Refusal := .next (runCompute (.iCvtfI f) f s cvtfIOp)

/-- A W-bit integer to FP32 (R210). -/
def cvtiFOp : OpF := fun w a b _ =>
  let x : Int := if b.getLsbD 0 then (a.toNat : Int) else a.toInt
  ((enc32 (.fin (decide (x < 0)) x.natAbs 1)).setWidth w, false)

/-- `cvti.f` (R210). -/
def execCvtiF (f : Fields) (s : State) : Host.Outcome State Fault Refusal := .next (runCompute (.iCvtiF f) f s cvtiFOp)

/-- `bscale` (R212). -/
def execBscale (f : Fields) (s : State) : Host.Outcome State Fault Refusal :=
  .next (runCompute (.iBscale f) f s (pure3 fun w a b _ => (f32bscale (a.setWidth 32) (b.toNat % 512)).setWidth w))

/-- `mkdesc` (R212). -/
def execMkdesc (f : Fields) (s : State) : Host.Outcome State Fault Refusal :=
  .next (runCompute (.iMkdesc f) f s (pure3 fun w a b _ => BitVec.ofNat w (f32mkdesc (a.setWidth 32) (b.toNat % 256))))

/-- The greatest magnitude by the tree of R66, NaN if any lane is (R212). -/
def amaxOf (ls : List Lane) : Lane :=
  treeReduce (fun x y => if isNan32 x || isNan32 y then nan32 else f32max x y) 0 (ls.map f32abs)

/-- `amax` (R212). -/
def execAmax (f : Fields) (s : State) : Host.Outcome State Fault Refusal :=
  .next (runElem (.iAmax f) s (fun _ => false) (fun s _ _ _ r a _ _ =>
    .ok (s, [.a (Tok.scalar r.thread r.iter ((amaxOf a.lanes).setWidth 64))])))

/-- `n` free index values (DESIGN CHOICE, log entry 27). -/
def State.takeIdx (s : State) : Nat → List Nat × State
  | 0 => ([], s)
  | n + 1 =>
    let (w, s) := s.takeFree
    let (l, s) := s.takeIdx n
    (w.toNat % 2 ^ 20 :: l, s)

/-- A token of lanes a firing makes: a scalar firing's single lane stays a scalar (R195, DEDUCED, log entry 26). -/
def Fire.shape (r : Fire) (it : Nat) (ls : List Lane) (idx : List Nat) : Tok :=
  if !r.vec && ls.length == 1 then Tok.scalar r.thread (it % 2 ^ 20) ((ls.headD 0).setWidth 64)
  else Tok.vec r.thread (it % 2 ^ 20) ls idx

/-- The elements of one lane of an output of `pack` (R211). -/
def packLane (g bits lo : Nat) : List Nat → Nat → Nat
  | [], _ => 0
  | x :: r, i => (if lo ≤ i && i < lo + g then x * 2 ^ (bits * (i - lo)) else 0) + packLane g bits lo r (i + 1)

/-- `pack` (R211). With one element to a lane each lane keeps its index (R197). -/
def execPack (f : Fields) (s : State) : Host.Outcome State Fault Refusal :=
  .next (runElem (.iPack f) s (fun _ => false) (fun s gt e _ r a _ _ =>
    let code := convFmt r.lit
    let bits := fmtBits code
    let g := 32 / bits
    let qs := a.lanes.map (fun x => if code / 16 = 12 then (x.toNat % 2, false) else convLane r.lit 0 x)
    let first := r.iter / g
    let n := (r.iter + a.lanes.length - 1) / g - first + 1
    let ls := (List.range n).map (fun j => (BitVec.ofNat 32 (packLane g bits ((first + j) * g) (qs.map (·.1)) r.iter) : Lane))
    let (ix, s) := if a.idx = [] then ([], s) else if g = 1 then (a.idx, s) else s.takeIdx n
    .ok (s.lostNaN gt e (qs.any (·.2)), [.a (r.shape first ls ix)])))

/-- Element `j` of a lane as `unpack` gives it (R211). -/
def unpackLane (code bits : Nat) (x : Lane) (j : Nat) : Lane :=
  let v := x.toNat / 2 ^ (bits * j) % 2 ^ bits
  match familyOf code with
  | .flt _ => enc32 (decodeFmt code v)
  | .int b sg => if sg then BitVec.ofInt 32 (sgn b v) else BitVec.ofNat 32 v
  | _ => BitVec.ofNat 32 (v % 2)

/-- `unpack` (R211). With one element to a lane each lane keeps its index (R197). -/
def execUnpack (f : Fields) (s : State) : Host.Outcome State Fault Refusal :=
  .next (runElem (.iUnpack f) s (fun _ => false) (fun s _ _ _ r a _ _ =>
    let code := convFmt r.lit
    let bits := fmtBits code
    let g := 32 / bits
    if 32 < a.lanes.length * g then .error (0x40, a.scal)
    else
      let ls := a.lanes.flatMap (fun x => (List.range g).map (unpackLane code bits x))
      let (ix, s) := if a.idx = [] then ([], s) else if g = 1 then (a.idx, s) else s.takeIdx ls.length
      .ok (s, [.a (r.shape (r.iter * g) ls ix)])))

end Sys2Proof.Machine
end

