-- ==== Sys2Proof/Machine/Vector.lean ====
section
/-! DEFINITION. Vector instructions 0x60 to 0x6E (R66, R67, R213 to R216). -/

namespace Sys2Proof.Machine

/-- A NaN in its canonical form (R56). -/
def canon32 (a : Lane) : Lane := if isNan32 a then nan32 else a

/-- A lane as an integer of the reduction's type: 1 signed, else unsigned (R213). -/
def laneInt (t : Nat) (x : Lane) : Int := if t = 1 then x.toInt else (x.toNat : Int)

/-- A reduction over the lanes of srcA by the type in srcB (R213): the FP32 tree, or an integer fold. A single lane that holds a NaN is handed on
by the tree of R66 as it is, while the T3 writes every NaN it produces in the canonical form (R50): the model writes that (DEDUCED, log entry 63). -/
def runReduce (i : Instr) (s : State) (fp : Lane → Lane → Lane) (int : Int → Int → Int) : State :=
  runElem i s (fun _ => false) (fun s _ _ _ r a b _ =>
    let t := (r.opnd b).toNat
    if 2 < t then .error (0x40, b.scal)
    else
      let v : Word :=
        if t = 0 then (canon32 (treeReduce fp 0 a.lanes)).setWidth 64
        else match a.lanes.map (laneInt t) with
          | x :: l => BitVec.ofInt 64 (l.foldl int x)
          | [] => 0
      .ok (s, [.a (Tok.scalar r.thread r.iter v)]))

/-- `vsum` (R213). -/
def execVsum (f : Fields) (s : State) : Host.Outcome State Fault Refusal := .next (runReduce (.iVsum f) s f32add (· + ·))
/-- `vmax` (R213). -/
def execVmax (f : Fields) (s : State) : Host.Outcome State Fault Refusal := .next (runReduce (.iVmax f) s f32max max)
/-- `vmin` (R213). -/
def execVmin (f : Fields) (s : State) : Host.Outcome State Fault Refusal := .next (runReduce (.iVmin f) s f32min min)

/-- Running values of a scan (R67). -/
def scanFrom (op : Lane → Lane → Lane) (x : Lane) : List Lane → List Lane
  | [] => [x]
  | y :: r => x :: scanFrom op (op x y) r

/-- `vscan` (R213, R67). Lane 0 is the source's lane 0; where that is a NaN, its canonical form (R50; DEDUCED, log entry 63). -/
def execVscan (f : Fields) (s : State) : Host.Outcome State Fault Refusal :=
  .next (runElem (.iVscan f) s (fun _ => false) (fun s _ _ _ r a b _ =>
    let t := (r.opnd b).toNat
    if 2 < t then .error (0x40, b.scal)
    else
      let ls := match a.lanes with
        | x :: l => if t = 0 then scanFrom f32add (canon32 x) l else scanFrom (· + ·) x l
        | [] => []
      .ok (s, [.a (Tok.vec r.thread r.iter ls (firstIdx a b (.sc 0)))])))

/-- `vcnt` (R213). -/
def execVcnt (f : Fields) (s : State) : Host.Outcome State Fault Refusal :=
  .next (runElem (.iVcnt f) s (fun _ => false) (fun s _ _ _ r a _ _ =>
    .ok (s, [.a (Tok.scalar r.thread r.iter (BitVec.ofNat 64 (a.lanes.filter (· != 0)).length))])))

/-- The later of two numbered lanes beats the earlier (R213). -/
def beats (t : Nat) (y x : Lane) : Bool :=
  if t = 0 then !isNan32 y && (isNan32 x || (val32 x).lt (val32 y)) else decide (laneInt t x < laneInt t y)

/-- Lanes with their numbers from `k` on. -/
def numbered : List Lane → Nat → List (Lane × Nat)
  | [], _ => []
  | x :: r, k => (x, k) :: numbered r (k + 1)

/-- `argmx` (R213, R66). -/
def execArgmx (f : Fields) (s : State) : Host.Outcome State Fault Refusal :=
  .next (runElem (.iArgmx f) s (fun _ => false) (fun s _ _ _ r a b _ =>
    let t := (r.opnd b).toNat
    if 2 < t then .error (0x40, b.scal)
    else
      let w := treeReduce (fun x y => if beats t y.1 x.1 then y else x) (0, 0) (numbered a.lanes 0)
      let v : Word := if t = 0 then (canon32 w.1).setWidth 64 else BitVec.ofInt 64 (laneInt t w.1)
      .ok (s, [.a (Tok.scalar r.thread r.iter v), .b (Tok.scalar r.thread r.iter (BitVec.ofNat 64 w.2))])))

/-- The L lanes of a source in a firing: a scalar gives its low half to each (R194). -/
def Fire.lanes (r : Fire) (v : Val) : List Lane := (List.range r.n).map v.lane

/-- An indexed source of a lane-moving instruction: its low 32 bits for cause 0x41 (R196). -/
def indexedOf (a b c : Val) : Option Word :=
  if a.idx ≠ [] then some a.scal else if b.idx ≠ [] then some b.scal else if c.idx ≠ [] then some c.scal else none

/-- `vperm` (R214). -/
def execVperm (f : Fields) (s : State) : Host.Outcome State Fault Refusal :=
  .next (runElem (.iVperm f) s (fun _ => false) (fun s _ _ _ r a b _ =>
    match indexedOf a b (.sc 0) with
    | some v => .error (0x41, v)
    | none =>
      let xs := r.lanes a
      .ok (s, [.a (r.shape r.iter ((r.lanes b).map (fun j => xs.getD (j.toNat % 32) 0)) [])])))

/-- `vsplat` (R214). -/
def execVsplat (f : Fields) (s : State) : Host.Outcome State Fault Refusal :=
  .next (runElem (.iVsplat f) s (fun _ => false) (fun s _ _ _ r a b _ =>
    let n := b.scal.toNat % 2 ^ 32
    if n = 0 ∨ 32 < n then .error (0x40, b.scal)
    else .ok (s, [.a (Tok.vec r.thread r.iter (List.replicate n (a.lane 0)) [])])))

/-- `vslide` (R214). -/
def execVslide (f : Fields) (s : State) : Host.Outcome State Fault Refusal :=
  .next (runElem (.iVslide f) s (fun _ => false) (fun s _ _ _ r a b _ =>
    match indexedOf a b (.sc 0) with
    | some v => .error (0x41, v)
    | none =>
      let xs := r.lanes a
      let d := (b.lane 0).toInt
      let ls := (List.range r.n).map (fun (k : Nat) => if (k : Int) + d < 0 then 0 else xs.getD ((k : Int) + d).toNat 0)
      .ok (s, [.a (r.shape r.iter ls [])])))

/-- `vext` (R214). -/
def execVext (f : Fields) (s : State) : Host.Outcome State Fault Refusal :=
  .next (runElem (.iVext f) s (fun _ => false) (fun s _ _ _ r a b _ =>
    let k := bitsOf b.scal 4 0
    let n := bitsOf b.scal 9 5 + 1
    if r.n ≤ k then .error (0x40, b.scal)
    else .ok (s, [.a (Tok.vec r.thread ((r.iter + k) % 2 ^ 20) (((r.lanes a).drop k).take n) ((a.idx.drop k).take n))])))

/-- `vins` (R214). -/
def execVins (f : Fields) (s : State) : Host.Outcome State Fault Refusal :=
  .next (runElem (.iVins f) s (fun _ => false) (fun s _ _ _ r a b c =>
    match indexedOf a b c with
    | some v => .error (0x41, v)
    | none =>
      let k := bitsOf c.scal 4 0
      if r.n ≤ k then .error (0x40, c.scal)
      else .ok (s, [.a (r.shape r.iter ((r.lanes a).set k (b.lane 0)) [])])))

/-- The whole of a source as the firing carries it: a run with its indices, or the scalar. -/
def Fire.whole (r : Fire) (v : Val) : Tok :=
  if r.vec then Tok.vec r.thread r.iter (r.lanes v) v.idx else Tok.scalar r.thread r.iter v.scal

/-- `split` (R214). -/
def execSplit (f : Fields) (s : State) : Host.Outcome State Fault Refusal :=
  .next (runElem (.iSplit f) s (fun _ => false) (fun s _ _ _ r a b _ =>
    let k := b.scal.toNat % 2 ^ 32
    if r.n ≤ k then .ok (s, [.a (r.whole a)])
    else if k = 0 then .ok (s, [.b (r.whole a)])
    else
      let ls := r.lanes a
      .ok (s, [.a (Tok.vec r.thread r.iter (ls.take k) (a.idx.take k)),
               .b (Tok.vec r.thread ((r.iter + k) % 2 ^ 20) (ls.drop k) (a.idx.drop k))])))

/-- `cat` (R214). -/
def execCat (f : Fields) (s : State) : Host.Outcome State Fault Refusal :=
  .next (runElem (.iCat f) s (fun _ => false) (fun s _ _ _ r a b _ =>
    match indexedOf a b (.sc 0) with
    | some v => .error (0x41, v)
    | none =>
      if 16 < r.n then .error (0x40, a.scal)
      else .ok (s, [.a (Tok.vec r.thread (2 * r.iter % 2 ^ 20) (r.lanes a ++ r.lanes b) [])])))

/-- The iteration each lane of a source carries (R197). -/
def Fire.its (r : Fire) (v : Val) : List Nat :=
  if v.idx = [] then (List.range r.n).map (fun k => (r.iter + k) % 2 ^ 20) else v.idx

/-- `filt` (R215). -/
def execFilt (f : Fields) (s : State) : Host.Outcome State Fault Refusal :=
  .next (runElem (.iFilt f) s (fun _ => false) (fun s _ _ _ r a b _ =>
    let kept := ((r.lanes a).zip (r.its a)).zip (r.lanes b) |>.filter (fun q => q.2 != 0) |>.map (·.1)
    if kept = [] then .ok (s, [])
    else if kept.length = r.n ∧ a.idx = [] then .ok (s, [.a (r.whole a)])
    else .ok (s, [.a (Tok.vec r.thread r.iter (kept.map (·.1)) (kept.map (·.2)))])))

/-- A run a staging buffer emits, numbered by its counter (R216). -/
def CmpBuf.run (b : CmpBuf) : Tok := Tok.vec b.thread (32 * b.count % 2 ^ 20) b.lanes b.idx

/-- Append lanes to a staging buffer, emitting each full run (R216) (DEDUCED, log entry 44). -/
def CmpBuf.appendAll (b : CmpBuf) : List (Lane × Nat) → CmpBuf × List Out
  | [] => (b, [])
  | (x, i) :: r =>
    let b := { b with lanes := b.lanes ++ [x], idx := b.idx ++ [i] }
    if b.lanes.length = 32 then
      let (c, os) := CmpBuf.appendAll { b with lanes := [], idx := [], count := b.count + 1 } r
      (c, .a b.run :: os)
    else CmpBuf.appendAll b r

/-- The buffer appended to least recently. -/
def oldestBuf : List CmpBuf → Option CmpBuf
  | [] => none
  | b :: r => match oldestBuf r with | some c => if c.stamp < b.stamp then some c else some b | none => some b

/-- `cmpct` (R216): buffers held by the slot, each by the thread it stages. -/
def execCmpct (f : Fields) (s : State) : Host.Outcome State Fault Refusal :=
  .next (runElem (.iCmpct f) s (fun _ => false) (fun s g e el r a _ _ =>
    let bufs := NMap.get el.cmpct r.slot []
    let stamp := bufs.foldl (fun n b => max n (b.stamp + 1)) 0
    let mine := bufs.find? (fun b => b.thread == r.thread)
    let rest := bufs.filter (fun b => b.thread != r.thread)
    let (rest, evicted) : List CmpBuf × List Out :=
      match mine, oldestBuf rest with
      | none, some o => if 4 ≤ rest.length then (rest.filter (fun b => b.thread != o.thread), if o.lanes = [] then [] else [Out.a o.run]) else (rest, [])
      | _, _ => (rest, [])
    let b : CmpBuf := { (mine.getD ⟨r.thread, [], [], 0, 0⟩) with stamp := stamp }
    let ls : List Lane := if r.vec then r.lanes a else a.lanes
    let (b, os) := b.appendAll (ls.zip (r.its a))
    let put (l : List CmpBuf) : State := s.updElem g e (fun x => { x with cmpct := NMap.set x.cmpct r.slot l })
    if r.eor then
      let last : Tok := if b.lanes = [] then { Tok.scalar b.thread (32 * b.count % 2 ^ 20) 0 with kind := .eor } else { b.run with kind := .eor }
      .ok (put rest, evicted ++ os ++ [.a last])
    else .ok (put (rest ++ [b]), evicted ++ os)))

end Sys2Proof.Machine
end

