-- ==== Sys2Proof/Machine/Access.lean ====
section
/-! DEFINITION. Memory accesses: where an address lies and whether the access is allowed (R92 to R104, R252), how it is split
(R117, R126), when it is performed (R116, R120 to R127) and when it completes (R36, R253, R254). -/

namespace Sys2Proof.Machine

/-! Places and checks. -/

/-- A range an access needs: its space, address, bytes, permissions, and the page kind it takes: 0 refuses STRUCT, 1 needs
it, 2 takes any (R104). -/
structure Acc where
  sp : Nat
  ea : Int
  n : Nat
  rd : Bool
  wr : Bool
  sk : Nat
  deriving DecidableEq, Repr

/-- The page kind is wrong for the access (R104). -/
def kindBad (sk kind : Nat) : Bool := (sk == 0 && kind == 3) || (sk == 1 && kind != 3)

/-- The memory at a physical address answers now: reachable, and its key slot valid for local main memory (R410, R413). -/
def State.paOk (s : State) (pa key : Nat) : Bool :=
  s.reachable (redirect s.migs pa) && (decide (vaultBase ≤ pa) || (NMap.find s.keys key).isSome)

/-- The checks of R252 and R104 on the address in a space of a tile, against window registers: the place and its page kind (4 for
scratchpad, 9 where translation decides), or the cause (DEDUCED, log entry 21). -/
def State.placeRaw (s : State) (g : Nat) (wins : NMap Win) (k : Acc) : Except Nat (Place × Nat) :=
  let last := k.ea + (k.n : Nat)
  if k.sp ≤ 2 then
    if k.ea < 0 ∨ 0x40000 < last then .error 0x21
    else if k.sk = 1 then .error 0x27
    else .ok (.spad g (k.sp * 0x40000 + k.ea.toNat), 4)
  else if k.sp = 3 then
    if k.ea < 0 ∨ 0x4000000 < last then .error 0x21
    else
      match s.regOf g with
      | none => .error 0x26
      | some (_, r) =>
        let pa := vaultAddr (vaultOfTile g) + k.ea.toNat
        if k.ea < (r.vbase : Int) ∨ ((r.vbase + r.vsize : Nat) : Int) < last then .error 0x26
        else if kindBad k.sk r.vkind then .error 0x27
        else .ok (.phys pa, r.vkind)
  else if k.sp = 4 then
    if k.ea < 0 ∨ ((2 ^ 56 : Nat) : Int) < last then .error 0x21 else .ok (.virt k.ea.toNat, 9)
  else
    match NMap.find wins (k.sp - 5) with
    | none => .error 0x24
    | some w =>
      if w.revoked then .error 0x23
      else if k.ea < 0 ∨ (w.extent : Int) < last then .error 0x21
      else if (k.rd ∧ !w.rd) ∨ (k.wr ∧ !w.wr) then .error 0x25
      else if kindBad k.sk w.kind then .error 0x27
      else .ok (.phys (w.base + k.ea.toNat), w.kind)

/-- A `bar` at a `vlt` offset that the region's barrier table lists is performed at the object in the vault listed (R319). -/
def State.barPlace (s : State) (g sp : Nat) (op : ReqOp) (pl : Place) : Place :=
  match op, pl with
  | .bar _, .phys a =>
    if sp = 3 then
      match (s.tile g).barriers.find? (fun b => b.2 == a / 16 * 16 - vaultAddr (vaultOfTile g)) with
      | some (v, x) => .phys (vaultAddr v + x)
      | none => pl
    else pl
  | _, _ => pl

/-- The memory at a place answers, under the key of the window of its space (R101, R410, R413). -/
def State.answers (s : State) (wins : NMap Win) (sp : Nat) : Place → Bool
  | .phys pa => s.paOk pa (match NMap.find wins (sp - 5) with | some w => if 5 ≤ sp then w.key else 0 | none => 0)
  | _ => true

/-- Where an operation on a range is performed, once every check of R104, R252 and R319 is passed: the place and its page kind, or the cause. -/
def State.placeOf (s : State) (g : Nat) (wins : NMap Win) (op : ReqOp) (k : Acc) : Except Nat (Place × Nat) :=
  match s.placeRaw g wins k with
  | .error c => .error c
  | .ok (pl, kind) =>
    let pl := s.barPlace g k.sp op pl
    if s.answers wins k.sp pl then .ok (pl, kind) else .error 0x21

/-- The same of an operation that no barrier table moves. -/
def State.place (s : State) (g : Nat) (wins : NMap Win) (k : Acc) : Except Nat (Place × Nat) := s.placeOf g wins .load k

/-- Cut `left` bytes from `a` at every 8-byte boundary (R252): offset and length of each part; every page boundary is one (DEDUCED, log entry 13). -/
def cuts : Nat → Nat → Nat → Nat → List (Nat × Nat)
  | 0, _, _, _ => []
  | fuel + 1, a, left, sh =>
    if left = 0 then []
    else
      let l := min left (8 - a % 8)
      (sh, l) :: cuts fuel (a + l) (left - l) (sh + l)

/-- One part of an access. -/
def Piece.mk1 (pl : Place) (kind n val cmp lane sh : Nat) : Piece :=
  { place := pl, kind := kind, n := n, val := val, cmp := cmp, lane := lane, sh := sh, done := false, got := 0, key := none }

/-- The parts of `n` bytes at a place. -/
def piecesOf (pl : Place) (kind n val lane : Nat) : List Piece :=
  (cuts n pl.addr n 0).map (fun q => Piece.mk1 (pl.off q.1) kind q.2 (val / 256 ^ q.1 % 256 ^ q.2) 0 lane q.1)

/-- The parts of consecutive elements of `w` bytes from a place, with their values. -/
def runPieces (pl : Place) (kind w : Nat) (vals : List Nat) : List Piece :=
  (vals.zipIdx.map (fun q => piecesOf (pl.off (w * q.2)) kind w q.1 q.2)).flatten

/-- The bytes of lane `k` that the parts have read. -/
def laneGot (ps : List Piece) (k : Nat) : Nat := ps.foldl (fun n p => if p.lane = k then n + p.got * 256 ^ p.sh else n) 0

/-! Who issues, and where. -/

/-- The region of a request runs; a peer chip's is that chip's own affair (R385). -/
def State.reqLive (s : State) (r : Req) : Bool :=
  match r.who with | .peer _ => true | _ => (s.liveReg r.inst).isSome

/-- The request with an id of a running region. -/
def State.liveReq (s : State) (id : Nat) : Option Req :=
  match s.req id with
  | some r => if s.reqLive r then some r else none
  | none => none

/-- The node of a tile may start this walk (R105, R405): nothing at it is withheld, and the request is its oldest (DEDUCED, log entry 24). -/
def State.nodeFree (s : State) (g : Nat) (r : Req) : Bool :=
  s.reqs.all (fun q => q.who.tile != some g || !q.unwalked || (q.withheld.isNone && decide (r.id ≤ q.id)))

/-- The error payload of a request (R104): the field holds the role of the element. -/
def State.reqPay (s : State) (r : Req) (cause off : Nat) : Word :=
  match r.who with
  | .ctx g p _ => errPayload cause g ((s.tile g).role p) off
  | .elem g e => errPayload cause g ((s.tile g).role e) off
  | .porter g => errPayload cause g 28 off
  | .seq g => errPayload cause g 4 off
  | _ => 0

/-! Arc paths (R119, R124). -/

/-- A slot of an element of a team. -/
abbrev Node := Nat × Nat × Nat

/-- The slots that a result of a slot reaches next. -/
def State.nextNodes (s : State) (r : Region) (n : Node) : List Node :=
  let t := s.tile (r.tileOf n.1)
  let el := t.elem (t.phys n.2.1)
  let f := fieldsOf (NMap.get (NMap.get el.planes el.apl Plane.empty).words n.2.2 0xFFFFFFFF)
  let ps := [f.d.toNat, f.e.toNat].eraseDups
  (ps.flatMap (fun p => (r.arcsAt n.1 n.2.1 p).filterMap (fun a => if a.2.dchan then none else some (a.2.dteam, a.2.delem, a.2.slot)))) ++
  (ps.flatMap (fun p => (r.circsAt n.1 n.2.1 (p - 24)).filterMap (fun a => if p < 24 then none else some (a.2.dteam, a.2.delem, a.2.slot))))

/-- The slots reached from a frontier. -/
def State.reach (s : State) (r : Region) : Nat → List Node → List Node → List Node
  | 0, _, seen => seen
  | fuel + 1, front, seen =>
    let new := (front.flatMap (s.nextNodes r)).eraseDups.filter (fun n => !seen.contains n)
    s.reach r fuel new (seen ++ new)

/-- An arc path leads from one slot of an element to another of its slots. -/
def State.hasPath (s : State) (g e a b : Nat) : Bool :=
  match s.regOf g with
  | none => false
  | some (_, r) =>
    let t := s.tile g
    (s.reach r (r.arcs.length + r.circs.length + 1) [(t.team, t.role e, a)] []).contains (t.team, t.role e, b)

/-! Ordering. -/

/-- An operation that acts on memory words by its parts. -/
def ReqOp.plain : ReqOp → Bool
  | .load => true
  | .store => true
  | .amo _ => true
  | _ => false

/-- A part of a UN page. -/
def Req.isUn (r : Req) : Bool := r.pieces.any (fun p => p.kind == 2)
/-- The request still acts as a release: on a UN page it is a plain access (R121). -/
def Req.releases (r : Req) : Bool := r.rel && !r.isUn
/-- The request acts as an acquire. -/
def Req.acquires (r : Req) : Bool := r.acq && !r.isUn
/-- A release need not wait for a request any more (R123): it is performed, or what is left of it writes UN pages only. -/
def Req.settledFor (q : Req) : Bool := q.performed || (decide (q.op = .store) && q.pieces.all (fun p => p.done || p.kind == 2))

/-- Earlier requests of the same agent. -/
def State.earlier (s : State) (r : Req) : List Req := s.reqs.filter (fun q => decide (q.id < r.id) && q.who == r.who)

/-- Part `p` of a later request may not pass an earlier one of its context: the bytes overlap (R120), or both are SO (R121). -/
def Req.inWay (q r : Req) (p : Piece) : Bool :=
  q.pieces.any (fun x => !x.done && (x.place.overlaps x.n p.place p.n || x.place.unknown p.place || (x.kind == 0 && p.kind == 0))) &&
    !(q.op == .fence) && !q.performed && !r.performed

/-- The order of R120 to R125 lets part `p` of a request be performed now. -/
def State.mayPerform (s : State) (r : Req) (p : Piece) : Bool :=
  let old := s.earlier r
  let soClear := p.kind != 0 || old.all (fun q => q.pieces.all (fun x => x.done || x.kind != 0) || q.performed)
  (match p.place with | .virt _ => false | _ => true) && r.withheld.isNone && decide (r.phase = .wait) && soClear &&
    (match r.who with
     | .ctx _ _ _ =>
       old.all (fun q => !q.inWay r p) &&
         (!r.releases || old.all (fun q => q.settledFor || (q.cls != .ld && q.cls != .st))) &&
         (!r.acquires || old.all (fun q => q.performed || !q.releases || decide (q.sc < r.sc)))
     | .elem g e => !r.releases || old.all (fun q => q.settledFor || !q.op.writes || !s.hasPath g e q.slot r.slot)
     | .peer _ => old.all (fun q => !q.inWay r p) && (!r.releases || old.all (fun q => q.settledFor))
     | _ => true)

/-! What a release covers, and a write that is not visible to all at once (R117, R118, R121, R123). -/

/-- The writes that precede a request in its agent's local order (R119, R123): a context's own, on an element those of nodes with an arc path
to it. A release leaves UN writes out, a fence takes them in (R124). -/
def State.ownWrites (s : State) (r : Req) (fence : Bool) (e : Stale) : Bool :=
  e.who == r.who && (fence || !e.un) &&
    (match r.who with | .elem g x => e.slot == r.slot || s.hasPath g x e.slot r.slot | _ => true)

/-- A request is performed as a release at its scope (R123); `mk` is what an acquire reads of it. -/
def State.releaseBy (s : State) (r : Req) (mk : Mark) : State := if r.releases then s.releaseAt r.who (s.ownWrites r false) r.sc [mk] else s

/-- The last `fence` before a slot of an element in its local order (R119, R124): the latest that has completed at a slot with an arc path to it. -/
def State.fenceBefore (s : State) (g e slot : Nat) : Option (Nat × Nat) :=
  (s.elem g e).fences.foldl (fun m (x : Nat × Nat × Nat) =>
    if !s.hasPath g e x.1 slot then m
    else match m with | some y => if y.1 < x.2.1 then some x.2 else m | none => some x.2) none

/-- The scope of the fence that a UN write of a request follows with no other UN write of its agent between, in its local order (R121, R130). -/
def State.afterFence (s : State) (r : Req) : Option Nat :=
  let last := match r.who with | .ctx g p c => (s.ctx g p c).fenceAt | _ => r.fence
  let between (slot : Nat) : Bool := match r.who with | .elem g e => slot == r.slot || s.hasPath g e slot r.slot | _ => true
  match last with
  | none => none
  | some (n, sc) =>
    if n ≤ r.id && s.stale.all (fun e => e.who != r.who || !e.un || decide (e.id < n) || !between e.slot) &&
      s.reqs.all (fun q => q.who != r.who || decide (q.id < n) || decide (r.id ≤ q.id) || !q.isUn || q.op != .store || !between q.slot) then some sc
    else none

/-- A byte a program writes to a barrier object (R113, R3): exp and err take it, gen, arr and pend are read-only, reserved bits read as zero. -/
def barByte (o : Nat) (old new : Byte) : Byte :=
  if o < 2 then new else if o = 5 then new &&& 1 else if o < 5 ∨ (8 ≤ o ∧ o < 13) then old else 0
/-- The 16 bytes at an address are a barrier object: a placed region's barrier table lists them (R319), or a party waits there (R114). -/
def State.barObject (s : State) (a : Nat) : Bool :=
  decide (vaultBase ≤ a) && (s.tiles.any (fun t => t.2.inst.isSome && t.2.barriers.any (fun b => vaultAddr b.1 + b.2 == a / 16 * 16)) ||
    (s.vault (homeOf a)).parties.any (fun q => q.pa == a / 16 * 16))
/-- What a write of `n` bytes at a place within one 16-byte unit leaves of its value there (R113). -/
def State.kept (s : State) (a n v : Nat) : Nat :=
  if s.barObject a then
    natOfBytes ((bytesOfNat n v).zipIdx.map (fun b => barByte (a % 16 + b.2) (Memory.get s.mem (a + b.2)) b.1))
  else v

/-- A program's write of `n` bytes within one 16-byte unit at a physical address, under a key slot, that every agent sees at once: what a barrier
object there keeps, it keeps (R99, R113). -/
def State.putPa (s : State) (pa n v : Nat) (slot : Option Nat) : State :=
  s.writeUnder (redirect s.migs pa) n (s.kept (redirect s.migs pa) n v) slot

/-- A posted write of an agent (R121): performed at its place, visible to the agent alone until a release, a fence or a later write of the same
bytes; a write of the package's own kind of memory goes on the list of those that not every agent sees. -/
def State.postWrite (s : State) (inst slot : Nat) (who : Agent) (un : Bool) (flag : Option Nat) (pa n v : Nat) : State :=
  let a := redirect s.migs pa
  let v := s.kept a n v
  let e : Stale := { id := s.nextId, inst := inst, who := who, slot := slot, bytes := writtenBytes s.mem a n v, un := un,
                     flag := flag,
                     vis := [], seen := [], obs := [], marks := [] }
  { s with
    mem := Memory.writeN s.mem a n v, nextId := s.nextId + 1
    stale := unmark s.stale (fun m => match m with | .loc b => decide (b < a + n) && decide (a < b + 8) | _ => false) ++ [e] }

/-! Performing. -/

/-- The home vault of a request. -/
def Req.home (r : Req) : Nat :=
  match r.pieces with | p :: _ => homeOf p.place.addr | [] => 0

/-- Bookkeeping once a request is performed, accepted or refused: a held acquire ends, waiting contexts look again, a request
that has completed already is gone. -/
def State.settle (s : State) (id : Nat) : State :=
  match s.req id with
  | none => s
  | some r =>
    let s := if r.performed && !r.counted then s.dropReq id else s
    match r.who with
    | .ctx g p c =>
      let s := if r.performed then s.updCtx g p c (fun x => { x with acq := if x.acq = some id then none else x.acq }) else s
      s.wakeCtx g p c
    | _ => s

/-- An answer may act as it becomes due (R407): its region runs, and its home holds none that became due before for the same team. -/
def State.prompt (s : State) (r : Req) : Bool :=
  s.reqLive r && !(s.vault r.home).answers.any (fun a => match s.req a.1 with | some q => q.who.tile == r.who.tile | none => false)

/-- An answer becomes due (R407): it acts at once, or the home holds it. -/
def State.due (s : State) (r : Req) : State :=
  if s.prompt r then s.settle r.id
  else s.updVault r.home (fun x => { x with answers := x.answers ++ [(r.id, 0)] })

/-- The request is done: its result, and what follows. -/
def State.finish (s : State) (id : Nat) (res : Word) : State :=
  match s.req id with
  | none => s
  | some r => (s.updReq id (fun r => { r with phase := .done, res := res })).due r

/-- An access is performed at its home (R116): that is progress of its region (R41). -/
def State.performedNow (s : State) (id : Nat) (res : Word) : State :=
  match s.req id with
  | none => s
  | some r => (s.finish id res).progress r.inst

/-- A deferred read is answered (R107): it is an acquire of what the word's `swr` released (R123). -/
def State.answer (s : State) (id : Nat) (pa : Nat) (val : Word) : State :=
  match s.req id with
  | none => s
  | some r => (s.acquireAt r.who r.sc (fun m => m == Mark.loc pa)).performedNow id val

/-- Release a barrier whose arrivals and bytes are all in (R114): its parties are answered with the generation, and the
answer is an acquire (R123). -/
def State.tryRelease (s : State) (pa : Nat) : State :=
  let w0 := s.readPa pa 8
  let w1 := s.readPa (pa + 8) 8
  let gen := w0 / 2 ^ 32 % 256
  if w0 / 2 ^ 40 % 2 = 0 ∧ w0 / 2 ^ 16 % 65536 = w0 % 65536 ∧ w0 % 65536 ≠ 0 ∧ w1 % 2 ^ 40 = 0 then
    let v := homeOf pa
    let l := (s.vault v).parties.filter (fun q => q.pa == pa && q.gen == gen)
    let s := s.updVault v (fun x => { x with parties := x.parties.filter (fun q => q.pa != pa || q.gen != gen) })
    let s := s.writePa pa 8 (w0 / 2 ^ 40 * 2 ^ 40 + (gen + 1) % 256 * 2 ^ 32 + w0 % 65536)
    l.foldl (fun s q =>
      (match s.req q.req with
       | some r => s.acquireAt r.who r.sc (fun m => m == Mark.bar pa gen)
       | none => s).finish q.req (BitVec.ofNat 64 gen)) s
  else s

/-- After a write in a vault: a barrier whose err bit software has cleared may release (R115). -/
def State.afterWrite (s : State) (pa : Nat) : State :=
  let b := pa / 16 * 16
  if (s.vault (homeOf b)).parties.any (fun q => q.pa == b) then s.tryRelease b else s

/-- Read a part. -/
def State.readPiece (s : State) (p : Piece) : Nat :=
  match p.place with
  | .spad g o => s.readSp g o p.n
  | .phys a => s.readPa a p.n
  | .virt _ => 0
/-- Write a part of a request (R117, R121): on a scratchpad or an SO page every agent sees it at once, on an RC or UN page it is posted. -/
def State.storePiece (s : State) (r : Req) (p : Piece) (v : Nat) : State :=
  match p.place with
  | .spad g o => s.writeSp g o p.n v
  | .phys a =>
    (if p.kind = 1 ∨ p.kind = 2 then
      (s.keyTag (redirect s.migs a) p.n p.key).postWrite r.inst r.slot r.who (p.kind == 2) (if p.kind = 2 then s.afterFence r else none) a p.n v
     else s.putPa a p.n v p.key).afterWrite a
  | .virt _ => s
/-- Write a part that an atomic has changed: it is visible to every agent (R125, R260). -/
def State.writePiece (s : State) (p : Piece) (v : Nat) : State :=
  match p.place with
  | .spad g o => s.writeSp g o p.n v
  | .phys a => (s.putPa a p.n v p.key).afterWrite a
  | .virt _ => s
/-- Read a part as the agent of a request sees it, passing over `k` writes it may miss (R117, R118). -/
def State.loadPiece (s : State) (r : Req) (p : Piece) (k : Nat) : Nat × State :=
  match p.place with
  | .spad g o => (s.readSp g o p.n, s)
  | .phys a =>
    let (v, s) := s.readAs r.who (redirect s.migs a) p.n k r.acquires
    (s.underKey (redirect s.migs a) p.n p.key v, s)
  | .virt _ => (0, s)
/-- The location a part of an acquire or release names (R123). -/
def Piece.mark (s : State) (p : Piece) : Mark :=
  match p.place with
  | .spad g o => .spad g (o / 8 * 8)
  | .phys a => .loc (redirect s.migs a / 8 * 8)
  | .virt a => .loc a
/-- An acquire observes the releases whose value it reads (R123). -/
def State.acquireBy (s : State) (r : Req) (mk : Mark) : State := if r.acquires then s.acquireAt r.who r.sc (fun m => m == mk) else s

/-- The new value of an atomic (R260) of `n` bytes. -/
def Amo.apply (o : Amo) (n old v cmp : Nat) : Nat :=
  let m := 256 ^ n
  let a := old % m
  let b := v % m
  match o with
  | .add => (a + b) % m
  | .and => Nat.land a b
  | .or => Nat.lor a b
  | .xor => Nat.xor a b
  | .min => if sgn (8 * n) a ≤ sgn (8 * n) b then a else b
  | .max => if sgn (8 * n) a ≤ sgn (8 * n) b then b else a
  | .swp => b
  | .cas => if a = cmp % m then b else a

/-- Perform a part: the value read, and the state (R116, R123): an acquire observes before, a release covers with its own write. `k` is how many
of the newest writes that the agent may miss a load passes over. -/
def State.doPiece (s : State) (r : Req) (p : Piece) (k : Nat) : Nat × State :=
  match r.op with
  | .load =>
    let (v, s) := s.loadPiece r p k
    (v, s.acquireBy r (p.mark s))
  | .store => (0, (s.storePiece r p p.val).releaseBy r (p.mark s))
  | .amo o =>
    let (old, s) := s.loadPiece r p 0
    let s := s.acquireBy r (p.mark s)
    let keep : Bool := o == .cas && old % 256 ^ p.n != p.cmp % 256 ^ p.n
    (old, (if keep then s else s.writePiece p (o.apply p.n old p.val p.cmp)).releaseBy r (p.mark s))
  | _ => (0, s)

/-- The register elements of a request may be performed in any order (R120): where they do not straddle pages of different kinds (R126). -/
def Req.loose (r : Req) : Bool := r.anyLane && r.pieces.all (fun p => some p.kind == (r.pieces.head?.map (·.kind)))

/-- The next part to perform (R126, R256): the lowest not yet done; where the elements are independent, the lowest of the
element the act names. -/
def Req.nextPiece (r : Req) (lane : Nat) : Option (Nat × Piece) :=
  let l := r.pieces.zipIdx.map (fun q => (q.2, q.1))
  l.find? (fun q => !q.2.done && (!r.loose || q.2.lane == lane))

/-- A physical block is in error (R408). -/
def State.badBlock (s : State) (pl : Place) : Bool :=
  match pl with
  | .phys a => s.bad.contains (redirect s.migs a / 64)
  | _ => false

/-- A block cannot be read (R408, R415): it stays in error, and the vault whose controller found it counts the error. -/
def State.blockError (s : State) (pa : Nat) : State :=
  let a := redirect s.migs pa
  let s := { s with bad := if s.bad.contains (a / 64) then s.bad else a / 64 :: s.bad }
  (s.unitError (vaultUnit (homeOf a % 64))).bumpVault (homeOf a % 64) 4

/-- A word of memory cannot be corrected, for which no agent's region is discarded (R408): the vault counts it, and the machine check is sent. -/
def State.memCheck (s : State) (tenant inst pa : Nat) : State :=
  let s := s.blockError pa
  s.sendCheck 0 tenant inst 2 0 (redirect s.migs pa / 64 * 64) 2 0

/-- The class-2 machine check of an access (R106, R408): the vault counts it, the region of the agent is discarded; a peer chip's access ends. -/
def State.dataError (s : State) (r : Req) (pa : Nat) : State :=
  match r.who.tile with
  | some g =>
    let s := (s.blockError pa).machineCheck g 2 0 (redirect s.migs pa / 64 * 64) 2 0 2
    if s.req r.id = some r then s.dropReq r.id else s
  | none => (s.memCheck r.tenant r.inst pa).dropReq r.id

/-- A request with every part done. -/
def Req.allDone (r : Req) : Bool := r.pieces.all (·.done)

/-- A store has written a 64-byte block whole, by its number. -/
def Req.covers (r : Req) (migs : NMap (NMap Mig)) (b : Nat) : Bool :=
  r.op == .store && (List.range 64).all (fun k => r.pieces.any (fun p => match p.place with
    | .phys a => let x := redirect migs a; decide (x ≤ 64 * b + k) && decide (64 * b + k < x + p.n)
    | _ => false))
/-- A store is performed: the blocks it has written whole are no longer in error (R408). -/
def State.mended (s : State) (r : Req) : State :=
  if s.bad = [] then s else { s with bad := s.bad.filter (fun b => !r.covers s.migs b) }

/-- A context's consumed channel words go back (R239). -/
def Ctx.restore (x : Ctx) : List (Nat × Tok) → Ctx
  | [] => x
  | (k, t) :: r => Ctx.restore { x with vc := NMap.set x.vc k { x.chan k with buf := t :: (x.chan k).buf } } r

/-- A request that waits for its verdict is taken back (R239, R253): its instruction has not issued, and its channel words are
where they were. -/
def State.unissue (s : State) (r : Req) : State :=
  match r.who with
  | .ctx g p c =>
    let s := s.dropReq r.id
    s.updCtx g p c (fun x =>
      { ((x.restore r.undo).setCount r.cls (x.count r.cls - 1)).unblock (s.acCycles g) with
        acq := if x.acq = some r.id then none else x.acq, work := x.work - 1, pc := BitVec.ofNat 11 r.slot, rpt := r.rpt })
  | _ => s

/-- The trap of a refused request (R104, R253): at the instruction, which has had no effect. -/
def State.refuseNow (s : State) (r : Req) (cause : Nat) : State :=
  match r.who with
  | .ctx g p c =>
    let s := s.unissue r
    s.takeTrap g p c (BitVec.ofNat 16 cause) (BitVec.ofNat 11 r.slot) (s.reqPay r cause r.ea) r.rpt
  | _ => s

/-- The home refuses a request: a context takes the memory trap, an element's firing gives an error token in its turn; the
verdict of a pre-empted region is held (R407). -/
def State.refuse (s : State) (r : Req) (cause : Nat) : State :=
  let t := s.updReq r.id (fun q => { q with phase := .refused cause r.ea })
  if s.prompt r then
    match r.who with
    | .ctx _ _ _ => s.refuseNow r cause
    | .peer _ => s.dropReq r.id
    | _ => t
  else t.due r

/-! Completion. -/

/-- A word for a destination select of a context (R177, R22, R34): `thread` and `iter` are the tag of the issue. -/
def State.putWord (s : State) (g p c d : Nat) (r : Req) (v : Word) : State :=
  if 24 < d ∧ d < 28 then
    let tok := tagAct r.t r.lit r.tb (Tok.scalar r.thread r.iter v)
    match ((s.ctx g p c).chan (d - 24)).arc, (s.tile g).inst with
    | some a, some i => s.updReg i (fun q => q.push a (match NMap.find q.arcs a with | some x => x.slot | none => 0) tok)
    | _, _ => s
  else s.updCtx g p c (fun x => x.write d v)

/-- Words for consecutive registers. -/
def State.putWords (s : State) (g p c d : Nat) (r : Req) : List Word → State
  | [] => s
  | v :: l => State.putWords (s.putWord g p c d r v) g p c (if d < 24 then d + 1 else 28) r l

/-- The result words of a request, for a context. -/
def Req.words (r : Req) : List Word :=
  match r.op with
  | .load => (List.range r.n).map (fun k => BitVec.ofNat 64 (laneGot r.pieces k))
  | .amo _ => [BitVec.ofNat 64 (laneGot r.pieces 0)]
  | .sprb => [BitVec.ofNat 64 (laneGot r.pieces 0), r.res]
  | .store => []
  | _ => [r.res]

/-- Column `c` of a transposed load (R257). -/
def Req.column (r : Req) (c : Nat) : Tok :=
  { Tok.vec r.thread ((r.iter + c * r.pitch) % 2 ^ 20)
      ((List.range r.n).map (fun k => BitVec.ofNat 32 (laneGot r.pieces k / 256 ^ (c * r.width) % 256 ^ r.width))) [] with kind := .vector }

/-- The result tokens of a request, for an element (R254). -/
def State.reqToks (s : State) (r : Req) : List Tok :=
  let done : Tok := Tok.scalar r.thread r.iter 0
  match r.phase with
  | .refused cause off => [Tok.error r.thread r.iter (r.n - 1) (s.reqPay r cause off)]
  | _ =>
    match r.op with
    | .emit k => [k]
    | .load =>
      if r.width ≠ 0 then (List.range (16 / r.width)).map r.column
      else if r.vec then [Tok.vec r.thread r.iter ((List.range r.n).map (fun k => BitVec.ofNat 32 (laneGot r.pieces k))) r.idx]
      else [Tok.scalar r.thread r.iter (BitVec.ofNat 64 (laneGot r.pieces 0))]
    | .amo _ => [Tok.scalar r.thread r.iter (BitVec.ofNat 64 (laneGot r.pieces 0))]
    | .srd => [Tok.scalar r.thread r.iter r.res]
    | .bar _ => [Tok.scalar r.thread r.iter r.res]
    | .sprb =>
      let v := laneGot r.pieces 0
      [Tok.vec r.thread r.iter [r.res.setWidth 32, BitVec.ofNat 32 v, BitVec.ofNat 32 (v / 2 ^ 32)] []]
    | _ => [done]

/-- A request has reached its completion point (R121, R122, R253). -/
def State.reached (s : State) (r : Req) : Bool :=
  match r.op with
  | .store =>
    r.performed || (decide (r.phase = .wait) && r.withheld.isNone && !r.releases &&
      r.pieces.all (fun p => p.done || ((p.kind == 1 || p.kind == 2) && (match p.place with | .virt _ => false | _ => true))))
  | .fence =>
    (match r.who with
     | .elem g e => (s.earlier r).all (fun q => q.performed || !s.hasPath g e q.slot r.slot)
     | _ => true)
  | _ => r.performed

/-- Operations that complete by an event of their own. -/
def ReqOp.own : ReqOp → Bool
  | .copy _ => true
  | .plf _ _ => true
  | .tri => true
  | .shf _ _ _ => true
  | .shfFb _ => true
  | .jobSpawn _ => false
  | _ => false

/-- No home holds an answer that became due before this one for the same team (R407). -/
def State.inTurn (s : State) (r : Req) : Bool :=
  s.vaults.all (fun v => !v.2.answers.any (fun a => a.1 == r.id) ||
    (v.2.answers.takeWhile (fun a => a.1 != r.id)).all (fun a => match s.req a.1 with | some q => q.who.tile != r.who.tile | none => true))
/-- A home's record of an answer is free again: it has been delivered (R407). -/
def State.unanswer (s : State) (id : Nat) : State :=
  if s.vaults.any (fun v => v.2.answers.any (fun a => a.1 == id)) then
    { s with vaults := s.vaults.map (fun (v : Nat × Vault) => (v.1, { v.2 with answers := v.2.answers.filter (fun a => a.1 != id) })) }
  else s

/-- A destination select of a context names a channel whose arc back-pressures it (R22). -/
def State.chanHeld (s : State) (g p c d : Nat) : Bool := decide (24 < d) && decide (d < 28) && s.sendHeld g ((s.ctx g p c).chan (d - 24))

/-- A request may complete now (R22, R36, R120, R254, R407). -/
def State.mayComplete (s : State) (r : Req) : Bool :=
  r.counted && !r.op.own && s.reached r && s.inTurn r &&
    (match r.who with
     | .elem g e => !s.heldBack g e &&
         (r.late || (s.earlier r).all (fun q => !q.counted || q.late || q.thread != r.thread))
     | .ctx g p c =>
       (match r.op with
        | .emit _ => decide (((s.ctx g p c).chan (r.d - 24)).buf.length < 8)
        | _ => !s.chanHeld g p c r.d && !(r.dup && s.chanHeld g p c r.e))
     | _ => true)

/-- A `fence` on a memory port completes (R124): what precedes it is visible at its scope, and its slot's later nodes know it. -/
def State.fenceDone (s : State) (r : Req) (g e : Nat) : State :=
  let s := s.releaseAt r.who (s.ownWrites r true) r.sc []
  s.updElem g e (fun x => { x with fences := NMap.set x.fences r.slot (s.nextId, r.sc) })

/-- Complete a request (R120, R254): the count falls and the result is delivered. -/
def State.complete (s : State) (r : Req) : State :=
  let s := s.unanswer r.id
  let s := if r.performed || r.op == .fence then s.dropReq r.id else s.updReq r.id (fun q => { q with counted := false })
  match r.who with
  | .elem g e => (if r.op == .fence then s.fenceDone r g e else s).emitOuts g e { fieldsOf 0 with d := BitVec.ofNat 5 r.d, e := BitVec.ofNat 5 r.e, t := BitVec.ofNat 4 r.t } r.dup r.lit r.tb
      ((s.reqToks r).map Out.a)
  | .ctx g p c =>
    match r.op with
    | .emit k =>
      let s := s.updCtx g p c (fun x => { x with vc := NMap.set x.vc (r.d - 24) { x.chan (r.d - 24) with buf := (x.chan (r.d - 24)).buf ++ [k] } })
      (s.wakeIdle g p c).wakeCtx g p c
    | _ =>
      let s := s.putWords g p c r.d r r.words
      let s := if r.dup then s.putWords g p c r.e r r.words else s
      s.countDown r.who r.cls
  | _ => s

/-- The answer that a home holds is delivered in its turn (R407): a context whose access was refused takes its trap, another request completes, and
one whose count fell before only lets its context look again. -/
def State.deliver (s : State) (r : Req) : State :=
  if !s.inTurn r then s
  else
    match r.phase, r.who with
    | .refused cause _, .ctx _ _ _ => (s.unanswer r.id).refuseNow r cause
    | _, _ =>
      if r.counted && !r.op.own then (if (s.settle r.id).mayComplete r then (s.settle r.id).complete r else s)
      else (s.unanswer r.id).settle r.id

/-- ACCESS_COMPLETION (R120, R407). -/
def execAccessCompletion (s : State) : Host.Outcome State Fault Refusal :=
  .next (match s.liveReq s.ev.id with
    | none => s
    | some r => if s.heldAnswer r.id then s.deliver r else if s.mayComplete r then s.complete r else s)

end Sys2Proof.Machine
end

