-- ==== Sys2Proof/Machine/Memory.lean ====
section
/-! DEFINITION. Loads, stores, atomics, combines, structure operations, fence and barrier: issue and firing, 0x90 to 0xAF
(R250 to R265). -/

namespace Sys2Proof.Machine

/-! Task contexts (R252, R253). -/

/-- What an instruction asks of memory at issue. -/
structure TOp where
  cls : Cls
  op : ReqOp
  /-- Aligned unit in bytes, or 0 for a plain access that may be unaligned (R252). -/
  unit : Nat
  /-- Bytes of each element. -/
  w : Nat
  vals : List Nat
  cmp : Nat
  rd : Bool
  wr : Bool
  sk : Nat
  acq : Bool
  rel : Bool
  verdict : Bool
  /-- Where the result goes: a destination select, 28 for nowhere. -/
  d : Nat
  deriving DecidableEq, Repr

/-- The effective address of a task access (R252). -/
def TIn.ea (t : TIn) : Nat := (t.a + BitVec.ofInt 64 (litOff t.lit)).toNat

/-- The page a window of a space was issued from (R394). -/
def winPages (wins : NMap Win) (sp : Nat) : List (Nat × Nat) :=
  match NMap.find wins (sp - 5) with
  | some w => if 5 ≤ sp then [(w.va, w.size)] else []
  | none => []

/-- The key slot of a window of a space (R101, R413). -/
def winKey (wins : NMap Win) (sp : Nat) : Option Nat :=
  if 5 ≤ sp then (NMap.find wins (sp - 5)).map (·.key) else none

/-- Where offset 0 of a space lies in memory, as far as alignment goes: the base of a window, 0 for the other spaces, whose bases are multiples of 64 (R93, R101). -/
def winBase (wins : NMap Win) (sp : Nat) : Nat :=
  if 5 ≤ sp then (match NMap.find wins (sp - 5) with | some w => w.base | none => 0) else 0

/-- The address in a space of the aligned unit of `u` bytes that contains an address (R252): aligned where it lies in memory, so that a
window whose base is no multiple of the unit is no exception. -/
def unitAddr (wins : NMap Win) (sp : Nat) (ea : Int) (u : Nat) : Int :=
  ((winBase wins sp : Int) + ea) / (u : Int) * (u : Int) - (winBase wins sp : Int)

/-- The request of an issued instruction. -/
def State.taskReq (s : State) (t : TIn) (cls : Cls) (op : ReqOp) : Req :=
  let i := (s.tile t.g).inst.getD 0
  let tenant := match NMap.find s.regions i with | some q => q.tenant | none => 0
  { Req.blank 0 i tenant (.ctx t.g t.p t.c) op with
    cls := cls, counted := true, sc := litSc t.lit, slot := t.x.pc.toNat, rpt := t.x.rpt, undo := t.undo, d := 28,
    t := t.f.t.toNat, lit := t.lit, thread := t.x.thread, iter := t.x.iter, tb := t.tb, dup := false }

/-- Issue a request (R120, R253): it counts in its class; a verdict or an acquire holds the context. On a UN page an acquire form is a plain
access (R121). -/
def State.issue (s : State) (t : TIn) (r : Req) : State :=
  let id := s.nextId
  let x := t.x.advance.setCount r.cls (t.x.count r.cls + 1)
  let s := (s.retire t { x with acq := if r.acquires then some id else x.acq }).addReq r
  if r.verdict then s.block t.g t.p t.c (.blkVerdict id) else s

/-- Why a memory instruction may not issue now (R21, R253, R405). -/
def State.holds (s : State) (t : TIn) (cls : Cls) (mem : Bool) : Option CtxSt :=
  if t.x.acq.isSome then some .blkAcq
  else if cls ≠ .none ∧ 31 ≤ t.x.count cls then some (.blkIssue cls)
  else if mem ∧ 64 ≤ s.nodeQueue t.g then some (.blkEngine .node)
  else none

/-- The precise memory trap of an instruction (R104, R253). -/
def State.memTrap (s : State) (t : TIn) (cause ea : Nat) : State :=
  s.trapAt t.g t.p t.c cause (errPayload cause t.g ((s.tile t.g).role t.p) ea)

/-- Bytes of an access that lie below the end of its window, where it runs past that end (R126); 0 otherwise. -/
def roomBelow (wins : NMap Win) (k : Acc) : Nat :=
  match NMap.find wins (k.sp - 5) with
  | some w => if 5 ≤ k.sp ∧ 0 ≤ k.ea ∧ k.ea < (w.extent : Int) ∧ (w.extent : Int) < k.ea + (k.n : Nat) then w.extent - k.ea.toNat else 0
  | none => 0

/-- The parts of an access that lie in its first `room` bytes. -/
def partsBelow (ps : List Piece) (pl : Place) (room : Nat) : List Piece :=
  ps.filterMap (fun p =>
    let o := p.place.addr - pl.addr
    if room ≤ o then none else some { p with n := min p.n (room - o), val := p.val % 256 ^ min p.n (room - o) })

/-- A store that straddles the end of its window is split there (R126, R252): the parts below it are performed, though the access fails with cause
0x21 and counts in no class. Nothing is left of a load (DEDUCED, log entry 13). -/
def State.storeBelow (s : State) (r : Req) (op : ReqOp) (g : Nat) (wins : NMap Win) (k : Acc) (parts : Place → Nat → List Piece) : State :=
  let room := roomBelow wins k
  if op = .store ∧ 0 < room then
    match s.place g wins { k with n := room } with
    | .ok (pl, kind) => s.addReq { r with op := op, cls := .st, counted := false, verdict := false, pieces := partsBelow (parts pl kind) pl room }
    | .error _ => s
  else s

/-- A memory instruction of a context (R252, R253). -/
def runTaskMem (i : Instr) (f : Fields) (s : State) (bad : Ctx → Word → Word → Nat) (mk : TIn → TOp) : State :=
  match beginTask i f s bad with
  | .stop s => s
  | .go t =>
    let o := mk t
    match s.holds t o.cls (litSpace t.lit == 4) with
    | some st => s.block t.g t.p t.c st
    | none =>
      let sp := litSpace t.lit
      let ea : Int := if o.unit = 0 then t.ea else unitAddr t.x.wins sp t.ea o.unit
      let at' : Nat := (BitVec.ofInt 64 ea).toNat
      let keyed (ps : List Piece) : List Piece := ps.map (fun p => { p with key := winKey t.x.wins sp })
      match s.placeOf t.g t.x.wins o.op ⟨sp, ea, o.w * o.vals.length, o.rd, o.wr, o.sk⟩ with
      | .error c =>
        (s.storeBelow (s.taskReq t o.cls o.op) o.op t.g t.x.wins ⟨sp, ea, o.w * o.vals.length, o.rd, o.wr, o.sk⟩
          (fun pl kind => if o.unit = 0 then keyed (runPieces pl kind o.w o.vals) else [])).memTrap t c at'
      | .ok (pl, kind) =>
        let ps := if o.unit = 0 then runPieces pl kind o.w o.vals
          else (o.vals.zipIdx.map (fun q => Piece.mk1 (pl.off (o.w * q.2)) kind o.w q.1 o.cmp q.2 0))
        s.issue t { s.taskReq t o.cls o.op with
          pieces := keyed ps
          acq := o.acq, rel := o.rel, verdict := o.verdict, d := o.d, n := o.vals.length, ea := at', anyLane := true
          pages := winPages t.x.wins sp }

/-- A plain load of `w` bytes a register (R255). -/
def tLoad (w : Nat) (t : TIn) : TOp :=
  ⟨.ld, .load, 0, w, List.replicate (litN t.lit + 1) 0, 0, true, false, 0, false, false, false, t.f.d.toNat⟩

/-- The registers a store supplies (R255). -/
def regVals (t : TIn) (w : Nat) : List Nat :=
  (List.range (litN t.lit + 1)).map (fun k => ((if k = 0 then t.d else t.x.src t.lit (t.f.d.toNat + k)).toNat) % 256 ^ w)

/-- A plain store of `w` bytes a register (R255). -/
def tStore (w : Nat) (t : TIn) : TOp :=
  ⟨.st, .store, 0, w, regVals t w, 0, false, true, 0, false, false, false, 28⟩

/-- The size an acquire, release or atomic uses (R185). -/
def litSize (l : Word) : Nat := if litWidth l = 2 then 4 else 8

/-- An atomic (R260): `ord` makes it an acquire, a release, or both. -/
def tAmo (o : Amo) (t : TIn) : TOp :=
  let n := litSize t.lit
  ⟨.ld, .amo o, n, n, [t.e.toNat % 256 ^ n], t.d.toNat % 256 ^ n, true, true, 0, bitOf t.lit 48, bitOf t.lit 49, true, t.f.d.toNat⟩

/-- The second register of a pair (R252). -/
def TIn.pair (t : TIn) : Word := t.x.src t.lit (t.f.d.toNat + 1)

/-- A combine's values are `n` bytes wide (R261). -/
def ccBytes (cc : Word) : Nat := if bitsOf cc 6 4 = 2 ∨ bitsOf cc 6 4 = 3 then 8 else 4

/-- The refusals of a combine on a task (R261): cause 0x09, or 0x0B where send names a channel that no arc ends at. -/
def badCc (fixed : Bool) (f : Fields) (lit : Word) (x : Ctx) : Nat :=
  let cc := x.src 0 (f.d.toNat + 1)
  if !ccOk true fixed cc || (litWidth lit != (if ccBytes cc = 8 then 3 else 2)) then 9
  else if bitOf cc 26 && !(let k := x.chan (bitsOf cc 33 32); k.arc.isSome && !k.dest) then 0x0B
  else 0

/-- A combine (R262). -/
def tCmb (fixed : Bool) (t : TIn) : TOp :=
  let n := ccBytes t.pair
  ⟨.st, .cmb fixed t.pair, n, n, [t.d.toNat % 256 ^ n], 0, false, true, 0, false, false, true, 28⟩

/-- A structure operation (R263). -/
def tStruct (op : ReqOp) (cls : Cls) (wr acq rel : Bool) (v : Word) (d : Nat) : TOp :=
  ⟨cls, op, 8, 8, [v.toNat], 0, !wr, wr, 1, acq, rel, true, d⟩

/-- The literal of the issuing slot. -/
def siteLit (s : State) : Word :=
  match s.site with
  | .task g p c => s.litAt g p (s.ctx g p c)
  | .elem _ _ => 0

/-! Memory ports (R252, R254). -/

/-- What a firing asks of memory: its accesses in lane order with values, and how the result is formed. -/
structure EOp where
  cls : Cls
  op : ReqOp
  unit : Nat
  w : Nat
  /-- Generator, iteration or index, value and compare of each lane. -/
  lanes : List (Gen × Nat × Nat × Nat)
  rd : Bool
  wr : Bool
  sk : Nat
  rel : Bool
  acq : Bool
  deriving DecidableEq, Repr

/-- The address of an iteration (R15, R259), or the cause that takes its place (R102, R104). -/
def Gen.addr (q : Gen) (i : Nat) : Int := q.base + (i : Nat) * q.step
/-- The generator refuses an iteration. -/
def Gen.refuses (q : Gen) (i : Nat) : Option Nat :=
  if q.limit ≤ i then some 0x20 else if q.disabled then some 0x22 else none

/-- The parts of every lane, or the cause and address of the first lane that fails (R104). -/
def State.lanePieces (s : State) (g : Nat) (el : Elem) (o : EOp) : List (Gen × Nat × Nat × Nat) → Nat → Except (Nat × Word) (List Piece)
  | [], _ => .ok []
  | (q, i, v, c) :: rest, k =>
    let a := q.addr i
    let a := if o.unit = 0 then a else unitAddr el.wins q.space a o.unit
    match q.refuses i with
    | some cause => .error (cause, BitVec.ofInt 64 a)
    | none =>
      match s.placeOf g el.wins o.op ⟨q.space, a, o.w, o.rd, o.wr, o.sk⟩ with
      | .error cause => .error (cause, BitVec.ofInt 64 a)
      | .ok (pl, kind) =>
        match s.lanePieces g el o rest (k + 1) with
        | .error x => .error x
        | .ok ps =>
          .ok ((if o.unit = 0 then piecesOf pl kind o.w v k else [Piece.mk1 pl kind o.w v c k 0]).map
            (fun p => { p with key := winKey el.wins q.space }) ++ ps)

/-- A firing's accesses fail (R104): of the lane that fails first, what it stores below the end of its window is performed (R126). -/
def State.lanesBelow (s : State) (g e : Nat) (el : Elem) (r : Fire) (o : EOp) : State :=
  let ok (x : (Gen × Nat × Nat × Nat) × Nat) : Bool := match s.lanePieces g el o [x.1] x.2 with | .ok _ => true | .error _ => false
  match o.lanes.zipIdx.find? (fun x => !ok x) with
  | some ((q, i, v, _), k) =>
    if (q.refuses i).isSome ∨ o.unit ≠ 0 then s
    else
      s.storeBelow { s.fireReq g e r true o.op with fence := s.fenceBefore g e r.slot } o.op g el.wins ⟨q.space, q.addr i, o.w, o.rd, o.wr, o.sk⟩
        (fun pl kind => (piecesOf pl kind o.w v k).map (fun p => { p with key := winKey el.wins q.space }))
  | none => s

/-- A memory instruction of a memory port element (R254): the firing's accesses become one request. -/
def runPortMem (i : Instr) (s : State)
    (mk : Elem → Fire → Val → Gen → Nat → Except (Nat × Word) (EOp × (Req → Req))) : State :=
  runElem i s (fun _ => false) (fun s g e el r a _ _ =>
    let n := bitsOf r.lit 3 0
    match NMap.find el.gens n with
    | none => .error (0x20, 0)
    | some q =>
      match mk el r a q n with
      | .error x => .error x
      | .ok (o, fin) =>
        match s.lanePieces g el o o.lanes 0 with
        | .error x =>
          if (s.lanesBelow g e el r o).nextId = s.nextId then .error x
          else .ok ((s.lanesBelow g e el r o).queueTok g e r true
            (Tok.error r.thread r.iter (r.n - 1) (errPayload x.1 g ((s.tile g).role e) x.2.toNat)), [])
        | .ok ps =>
          let ea := match o.lanes with | (q, i, _, _) :: _ => (BitVec.ofInt 64 (q.addr i)).toNat | [] => 0
          .ok (s.addReq (fin { s.fireReq g e r true o.op with
            cls := o.cls, pieces := ps, acq := o.acq, rel := o.rel, sc := bitsOf r.lit 5 4, ea := ea, fence := s.fenceBefore g e r.slot
            pages := (o.lanes.map (·.1.space)).eraseDups.flatMap (winPages el.wins) }), []))

/-- The first iteration of a firing, or the index of its one lane (R252, R255). -/
def Fire.first (r : Fire) (a : Val) : Nat := (r.its a).headD r.iter

/-- A scalar form takes a firing of one lane (R255). -/
def oneLane (r : Fire) (a : Val) (k : EOp × (Req → Req)) : Except (Nat × Word) (EOp × (Req → Req)) :=
  if 1 < r.n then .error (0x40, a.scal) else .ok k

/-- A scalar load on a port. -/
def pLoad (w : Nat) (acq : Bool) (r : Fire) (a : Val) (q : Gen) : Except (Nat × Word) (EOp × (Req → Req)) :=
  oneLane r a (⟨.ld, .load, if acq then w else 0, w, [(q, r.first a, 0, 0)], true, false, 0, false, acq⟩, fun x => { x with vec := false, n := 1 })

/-- A scalar store on a port. -/
def pStore (w : Nat) (rel : Bool) (r : Fire) (a : Val) (q : Gen) : Except (Nat × Word) (EOp × (Req → Req)) :=
  oneLane r a (⟨.st, .store, if rel then w else 0, w, [(q, r.first a, a.scal.toNat % 256 ^ w, 0)], false, true, 0, rel, false⟩, id)

/-- An atomic on a port (R260); a cas takes its operand as lanes (R182). -/
def pAmo (o : Amo) (r : Fire) (a : Val) (q : Gen) : Except (Nat × Word) (EOp × (Req → Req)) :=
  let n := widthBytes q.width
  let mk (v c : Nat) : Except (Nat × Word) (EOp × (Req → Req)) :=
    .ok (⟨.ld, .amo o, n, n, [(q, r.first a, v % 256 ^ n, c % 256 ^ n)], true, true, 0, false, false⟩, fun x => { x with vec := false, n := 1 })
  match o with
  | .cas =>
    match a with
    | .vec [c, v] _ => if n = 4 then mk v.toNat c.toNat else .error (0x40, a.scal)
    | .vec [c0, c1, v0, v1] _ =>
      if n = 8 then mk (v0.toNat + 2 ^ 32 * v1.toNat) (c0.toNat + 2 ^ 32 * c1.toNat) else .error (0x40, a.scal)
    | _ => .error (0x40, a.scal)
  | _ => if 1 < r.n then .error (0x40, a.scal) else mk a.scal.toNat 0

/-- A combine on a port (R262). -/
def pCmb (fixed : Bool) (r : Fire) (a : Val) (q : Gen) : Except (Nat × Word) (EOp × (Req → Req)) :=
  let n := ccBytes q.cc
  match a with
  | .sc v => oneLane r a (⟨.st, .cmb fixed q.cc, n, n, [(q, r.first a, v.toNat % 256 ^ n, 0)], false, true, 0, false, false⟩, id)
  | .vec ls _ =>
    if n = 8 then .error (0x40, a.scal)
    else .ok (⟨.st, .cmb fixed q.cc, 128, 4 * ls.length, [(q, r.first a, 0, 0)], false, true, 0, false, false⟩, fun x =>
      { x with pieces := match x.pieces with
          | p :: _ => ls.zipIdx.map (fun l => { p with place := p.place.off (4 * l.2), n := 4, val := l.1.toNat, lane := l.2 })
          | [] => [] })

/-- A structure operation on a port (R263). -/
def pStruct (op : ReqOp) (cls : Cls) (wr acq rel : Bool) (r : Fire) (a : Val) (q : Gen) : Except (Nat × Word) (EOp × (Req → Req)) :=
  oneLane r a (⟨cls, op, 8, 8, [(q, r.first a, a.scal.toNat, 0)], !wr, wr, 1, rel, acq⟩, fun x => { x with n := 1 })

/-- A memory instruction wherever it stands. -/
def runMem (i : Instr) (f : Fields) (s : State) (bad : Ctx → Word → Word → Nat) (t : TIn → TOp)
    (e : Fire → Val → Gen → Except (Nat × Word) (EOp × (Req → Req))) : State :=
  match s.site with
  | .task _ _ _ => runTaskMem i f s bad t
  | .elem _ _ => runPortMem i s (fun _ r a q _ => e r a q)

/-! The instructions. -/

/-- `ld.b` (R255). -/
def execLdB (f : Fields) (s : State) : Host.Outcome State Fault Refusal := .next (runMem (.iLdB f) f s noBad (tLoad 1) (pLoad 1 false))
/-- `ld.h` (R255). -/
def execLdH (f : Fields) (s : State) : Host.Outcome State Fault Refusal := .next (runMem (.iLdH f) f s noBad (tLoad 2) (pLoad 2 false))
/-- `ld.w` (R255). -/
def execLdW (f : Fields) (s : State) : Host.Outcome State Fault Refusal := .next (runMem (.iLdW f) f s noBad (tLoad 4) (pLoad 4 false))
/-- `ld.d` (R255). -/
def execLdD (f : Fields) (s : State) : Host.Outcome State Fault Refusal := .next (runMem (.iLdD f) f s noBad (tLoad 8) (pLoad 8 false))
/-- `st.b` (R255). -/
def execStB (f : Fields) (s : State) : Host.Outcome State Fault Refusal := .next (runMem (.iStB f) f s noBad (tStore 1) (pStore 1 false))
/-- `st.h` (R255). -/
def execStH (f : Fields) (s : State) : Host.Outcome State Fault Refusal := .next (runMem (.iStH f) f s noBad (tStore 2) (pStore 2 false))
/-- `st.w` (R255). -/
def execStW (f : Fields) (s : State) : Host.Outcome State Fault Refusal := .next (runMem (.iStW f) f s noBad (tStore 4) (pStore 4 false))
/-- `st.d` (R255). -/
def execStD (f : Fields) (s : State) : Host.Outcome State Fault Refusal := .next (runMem (.iStD f) f s noBad (tStore 8) (pStore 8 false))

/-- `ld.acq` (R255, R123). -/
def execLdAcq (f : Fields) (s : State) : Host.Outcome State Fault Refusal :=
  .next (runMem (.iLdAcq f) f s noBad
    (fun t => let n := litSize t.lit; ⟨.ld, .load, n, n, [0], 0, true, false, 0, true, false, false, t.f.d.toNat⟩)
    (fun r a q => pLoad (widthBytes q.width) true r a q))

/-- `st.rel` (R255, R123). -/
def execStRel (f : Fields) (s : State) : Host.Outcome State Fault Refusal :=
  .next (runMem (.iStRel f) f s noBad
    (fun t => let n := litSize t.lit; ⟨.st, .store, n, n, [t.d.toNat % 256 ^ n], 0, false, true, 0, false, true, false, 28⟩)
    (fun r a q => pStore (widthBytes q.width) true r a q))

/-- Lanes with their iterations and values. -/
def laneAccs (q : Gen) (is vs : List Nat) : List (Gen × Nat × Nat × Nat) := (is.zip vs).map (fun x => (q, x.1, x.2, 0))

/-- `vld` (R256). -/
def execVld (f : Fields) (s : State) : Host.Outcome State Fault Refusal :=
  .next (runPortMem (.iVld f) s (fun _ r a q _ =>
    .ok (⟨.ld, .load, 0, widthBytes q.width, laneAccs q (r.its a) (List.replicate r.n 0), true, false, 0, false, false⟩,
      fun x => { x with vec := true, idx := a.idx })))

/-- `vst` (R256): a later lane at the same address stands, as lanes are performed in order. -/
def execVst (f : Fields) (s : State) : Host.Outcome State Fault Refusal :=
  .next (runPortMem (.iVst f) s (fun _ r a q _ =>
    let w := widthBytes q.width
    .ok (⟨.st, .store, 0, w, laneAccs q (r.its a) ((r.lanes a).map (fun v => v.toNat % 256 ^ w)), false, true, 0, false, false⟩, id)))

/-- `ldt` (R257). -/
def execLdt (f : Fields) (s : State) : Host.Outcome State Fault Refusal :=
  .next (runPortMem (.iLdt f) s (fun _ r a q _ =>
    if a.idx ≠ [] then .error (0x41, a.scal)
    else .ok (⟨.ld, .load, 0, 16, laneAccs q (r.its a) (List.replicate r.n 0), true, false, 0, false, false⟩,
      fun x => { x with width := widthBytes q.width, pitch := q.limit })))

/-- The iteration of the transposed copy (R258). -/
def stashIter (i : Nat) : Nat := i / 1024 * 1024 + 32 * (i % 32) + i / 32 % 32

/-- `sts` (R258): both copies of every lane. -/
def execSts (f : Fields) (s : State) : Host.Outcome State Fault Refusal :=
  .next (runPortMem (.iSts f) s (fun el r a q n =>
    let w := widthBytes q.width
    let vs := (r.lanes a).map (fun v => v.toNat % 256 ^ w)
    match NMap.find el.gens (n + 1) with
    | none => .error (0x20, 0)
    | some q' =>
      .ok (⟨.st, .store, 0, w, ((laneAccs q (r.its a) vs).zip (laneAccs q' ((r.its a).map stashIter) vs)).flatMap (fun x => [x.1, x.2]),
        false, true, 0, false, false⟩, id)))

/-- `gld` (R259): each lane names its own element. -/
def execGld (f : Fields) (s : State) : Host.Outcome State Fault Refusal :=
  .next (runPortMem (.iGld f) s (fun _ r a q _ =>
    .ok (⟨.ld, .load, 0, widthBytes q.width, laneAccs q ((r.lanes a).map (·.toNat)) (List.replicate r.n 0), true, false, 0, false, false⟩,
      fun x => { x with vec := r.vec, idx := a.idx })))

/-- `sst` (R259). -/
def execSst (f : Fields) (s : State) : Host.Outcome State Fault Refusal :=
  .next (runPortMem (.iSst f) s (fun _ r a q _ =>
    let ls := match a with | .vec l _ => l | .sc _ => []
    let p := ls.length / 2
    let w := widthBytes q.width
    if ls.length % 2 ≠ 0 ∨ ls = [] ∨ 1 < r.n ∧ !r.vec then .error (0x40, a.scal)
    else .ok (⟨.st, .store, 0, w, laneAccs q ((ls.take p).map (·.toNat)) ((ls.drop p).map (fun v => v.toNat % 256 ^ w)), false, true, 0, false, false⟩, id)))

/-- `amo.add` (R260). -/
def execAmoAdd (f : Fields) (s : State) : Host.Outcome State Fault Refusal := .next (runMem (.iAmoAdd f) f s noBad (tAmo .add) (pAmo .add))
/-- `amo.and` (R260). -/
def execAmoAnd (f : Fields) (s : State) : Host.Outcome State Fault Refusal := .next (runMem (.iAmoAnd f) f s noBad (tAmo .and) (pAmo .and))
/-- `amo.or` (R260). -/
def execAmoOr (f : Fields) (s : State) : Host.Outcome State Fault Refusal := .next (runMem (.iAmoOr f) f s noBad (tAmo .or) (pAmo .or))
/-- `amo.xor` (R260). -/
def execAmoXor (f : Fields) (s : State) : Host.Outcome State Fault Refusal := .next (runMem (.iAmoXor f) f s noBad (tAmo .xor) (pAmo .xor))
/-- `amo.min` (R260). -/
def execAmoMin (f : Fields) (s : State) : Host.Outcome State Fault Refusal := .next (runMem (.iAmoMin f) f s noBad (tAmo .min) (pAmo .min))
/-- `amo.max` (R260). -/
def execAmoMax (f : Fields) (s : State) : Host.Outcome State Fault Refusal := .next (runMem (.iAmoMax f) f s noBad (tAmo .max) (pAmo .max))
/-- `amo.swp` (R260). -/
def execAmoSwp (f : Fields) (s : State) : Host.Outcome State Fault Refusal := .next (runMem (.iAmoSwp f) f s noBad (tAmo .swp) (pAmo .swp))
/-- `amo.cas` (R260). -/
def execAmoCas (f : Fields) (s : State) : Host.Outcome State Fault Refusal := .next (runMem (.iAmoCas f) f s noBad (tAmo .cas) (pAmo .cas))

/-- `cmb` (R262). -/
def execCmb (f : Fields) (s : State) : Host.Outcome State Fault Refusal :=
  .next (runMem (.iCmb f) f s (fun x _ _ => badCc false f (siteLit s) x) (tCmb false) (pCmb false))
/-- `cmb.f` (R262, R111). -/
def execCmbF (f : Fields) (s : State) : Host.Outcome State Fault Refusal :=
  .next (runMem (.iCmbF f) f s (fun x _ _ => badCc true f (siteLit s) x) (tCmb true) (pCmb true))

/-- `srd` (R263): an acquire. -/
def execSrd (f : Fields) (s : State) : Host.Outcome State Fault Refusal :=
  .next (runMem (.iSrd f) f s noBad (fun t => tStruct .srd .ld false true false 0 t.f.d.toNat) (pStruct .srd .ld false true false))
/-- `swr` (R263): a release. -/
def execSwr (f : Fields) (s : State) : Host.Outcome State Fault Refusal :=
  .next (runMem (.iSwr f) f s noBad (fun t => tStruct .swr .st true false true t.d 28) (pStruct .swr .st true false true))
/-- `sclr` (R263). -/
def execSclr (f : Fields) (s : State) : Host.Outcome State Fault Refusal :=
  .next (runMem (.iSclr f) f s noBad (fun _ => tStruct .sclr .st true false false 0 28) (pStruct .sclr .st true false false))
/-- `sprb` (R263). -/
def execSprb (f : Fields) (s : State) : Host.Outcome State Fault Refusal :=
  .next (runMem (.iSprb f) f s noBad (fun t => tStruct .sprb .ld false false false 0 t.f.d.toNat) (pStruct .sprb .ld false false false))

/-- `bar` (R265): a release at its arrival, its answer an acquire. -/
def execBar (f : Fields) (s : State) : Host.Outcome State Fault Refusal :=
  .next (runMem (.iBar f) f s noBad
    (fun t => ⟨.ld, .bar (t.d.toNat % 2 ^ 40), 16, 16, [0], 0, false, true, 2, true, true, true, 28⟩)
    (fun r a q => oneLane r a (⟨.ld, .bar (a.scal.toNat % 2 ^ 40), 16, 16, [(q, r.first a, 0, 0)], false, true, 2, true, true⟩,
      fun x => { x with late := true })))

/-- The writes a fence of a context covers (R124): its own, and those of UN pages that the Porter and the drains of its tile have written
for its region, which no release of theirs covers (DEDUCED, log entry 11). -/
def State.fenced (s : State) (g : Nat) (a : Agent) (e : Stale) : Bool :=
  e.who == a || (e.un && (e.who == .porter g || e.who == .seq g) && some e.inst == (s.tile g).inst)

/-- `fence` (R264, R124): a context issues nothing further until its earlier accesses are performed; a port's completion
token waits for the same. -/
def execFence (f : Fields) (s : State) : Host.Outcome State Fault Refusal :=
  .next (match s.site with
    | .task _ _ _ =>
      match beginTask (.iFence f) f s noBad with
      | .stop s => s
      | .go t =>
        if t.x.acq.isSome then s.block t.g t.p t.c .blkAcq
        else if s.quiet (.ctx t.g t.p t.c) then
          (s.releaseAt (.ctx t.g t.p t.c) (s.fenced t.g (.ctx t.g t.p t.c)) (litSc t.lit) []).retire t { t.x.advance with fenceAt := some (s.nextId, litSc t.lit) }
        else s.block t.g t.p t.c .blkFence
    | .elem _ _ =>
      runElem (.iFence f) s (fun _ => false) (fun s g e _ r _ _ _ =>
        .ok (s.addReq { s.fireReq g e r true .fence with sc := bitsOf r.lit 5 4 }, [])))

end Sys2Proof.Machine
end

