-- ==== Sys2Proof/Machine/Triad.lean ====
section
/-! DEFINITION. The triad instructions 0xC0 to 0xCA: descriptors and their checks, the projected state of a bank, and issue into
the queues (R72 to R80, R86, R90, R276 to R289). -/

namespace Sys2Proof.Machine

/-! Descriptors (R72 to R76). -/

/-- An operand record from its four words (R75). -/
def parseOp (a b c d : Word) : OpRec :=
  { fam := bitsOf a 47 32, splat := bitOf a 28, space := bitsOf a 27 26, off := bitsOf a 25 0, sm := sgn 32 (bitsOf b 31 0),
    sn := sgn 32 (bitsOf b 63 32), so := sgn 32 (bitsOf c 31 0), si := sgn 32 (bitsOf c 63 32), lim := bitsOf d 35 0 }

/-- A descriptor from its sixteen words. -/
def parseDesc (ws : List Word) : Desc :=
  let w (k : Nat) : Word := ws.getD k 0
  let c := w 0
  let x := w 1
  { oth := bitsOf c 36 25, och := bitsOf c 24 23, nsc := bitsOf c 22 18, wsc := bitsOf c 17 13, cls := bitsOf c 12 9, bop := bitOf c 8,
    ow := bitOf c 7, bank := bitsOf c 6 6, tone := bitOf c 5, trole := bitsOf c 4 3, mode := bitsOf c 2 0,
    inner := bitsOf x 45 30 + 1, outer := bitsOf x 29 10 + 1, ncols := bitsOf x 9 5 + 1, mrows := bitsOf x 4 0 + 1,
    w := parseOp (w 2) (w 3) (w 4) (w 5), n := parseOp (w 6) (w 7) (w 8) (w 9), t := parseOp (w 10) (w 11) (w 12) (w 13),
    ectl := bitsOf (w 14) 31 0, ostride := sgn 32 (bitsOf (w 14) 63 32), obase := bitsOf (w 15) 25 0, sbase := bitsOf (w 15) 57 32 }

/-- Bits of an element of a family; 0 for a family without numbers (R43, R80). -/
def famBits (f : Nat) : Nat :=
  if f = 12 then 1 else if f = 5 ∨ f = 11 then 4 else if (1 ≤ f ∧ f ≤ 4) ∨ f = 9 ∨ f = 10 then 8 else if f = 6 ∨ f = 7 then 16
  else if f = 8 then 32 else 0

/-- Element bits of W and N, and lanes, of a class (R80). -/
def classOf (c : Nat) : Nat × Nat × Nat :=
  match c with
  | 0 => (4, 4, 32) | 1 => (8, 8, 16) | 2 => (16, 16, 8) | 3 => (32, 32, 2) | 4 => (1, 1, 128)
  | 5 => (8, 4, 16) | 6 => (4, 8, 16) | 7 => (16, 8, 8) | _ => (8, 16, 8)

/-- The families a mask admits. -/
def fams (mask : Nat) : List Nat := (List.range 16).filter (fun f => mask.testBit f)
/-- Every admitted family has elements of `b` bits, and one is admitted. -/
def famsAre (b mask : Nat) : Bool := mask != 0 && (fams mask).all (fun f => famBits f == b)

/-- Element bits of T, where its families agree (R80). -/
def Desc.tBits (d : Desc) : Option Nat :=
  if d.cls = 4 then (if d.t.fam = 0x1000 then some 1 else none) else [4, 8, 16, 32].find? (fun b => famsAre b d.t.fam)

/-- The admissible families and class form a combination of R80. -/
def Desc.comboOk (d : Desc) : Bool :=
  decide (d.cls ≤ 8) && famsAre (classOf d.cls).1 d.w.fam && famsAre (classOf d.cls).2.1 d.n.fam && (d.tone || d.tBits.isSome)

/-- The contraction accumulates in INT32 (R80). -/
def Desc.intOnly (d : Desc) : Bool :=
  d.cls == 4 || ((fams d.w.fam ++ fams d.n.fam).all (fun f => 9 ≤ f && f ≤ 12) && (d.tone || (fams d.t.fam).all (fun f => 9 ≤ f && f ≤ 11)))

/-- Steps of a contraction. -/
def Desc.total (d : Desc) : Nat := d.inner * d.outer
/-- A stream mode (R71). -/
def Desc.stream (d : Desc) : Bool := decide (3 ≤ d.mode)
/-- Bits of `ectl` (R76). -/
def Desc.e (d : Desc) (hi lo : Nat) : Nat := d.ectl / 2 ^ lo % 2 ^ (hi + 1 - lo)

/-! Checks (R78). -/

/-- Bytes from `lo` to before `hi` lie in the side of an offset, or in the region's grant (R78). -/
def Region.within (r : Region) (vault : Bool) (base : Nat) (lo hi : Int) : Bool :=
  if vault then r.vsize != 0 && decide ((r.vbase : Int) ≤ lo) && decide (hi ≤ ((r.vbase + r.vsize : Nat) : Int))
  else decide (base < 0xC0000) && decide (((base / 0x40000 * 0x40000 : Nat) : Int) ≤ lo) &&
    decide (hi ≤ ((base / 0x40000 * 0x40000 + 0x40000 : Nat) : Int))

/-- The step offsets that bound an operand's slices, for steps below its limit (R75, R77). -/
def OpRec.corners (r : OpRec) (inner outer : Nat) : List Int :=
  let l := if r.lim = 0 then inner * outer else min r.lim (inner * outer)
  let f := l / inner
  let at_ (o i : Nat) : Int := (o : Int) * r.so + (i : Int) * r.si
  (if f = 0 then [] else [at_ 0 0, at_ 0 (inner - 1), at_ (f - 1) 0, at_ (f - 1) (inner - 1)]) ++
  (if l % inner = 0 then [] else [at_ f 0, at_ f (l % inner - 1)])

/-- Offsets of the ends of an axis of `k` places. -/
def ends (k : Nat) (str : Int) : List Int := [0, ((k - 1 : Nat) : Int) * str]

/-- An operand's slices are aligned (R78): its base, and every stride over more than one place. -/
def OpRec.aligned (r : OpRec) (d : Desc) (inner outer al : Nat) : Bool :=
  let l := if r.lim = 0 then inner * outer else min r.lim (inner * outer)
  let m (x : Int) : Bool := x % (al : Int) == 0
  r.off % al == 0 && (d.mrows == 1 || m r.sm) && (d.ncols == 1 || m r.sn) && (decide (l ≤ 1) || inner == 1 || m r.si) &&
    (decide (l ≤ inner) || m r.so)

/-- An operand's slices lie within its side or the grant (R78): every byte of them, so that a slice whose address lies inside and whose last
bytes do not is refused too (DESIGN CHOICE, log entry 34). -/
def OpRec.inside (r : OpRec) (d : Desc) (g : Region) (inner outer bytes : Nat) : Bool :=
  (r.corners inner outer).all (fun st => (ends d.mrows r.sm).all (fun m => (ends d.ncols r.sn).all (fun n =>
    let a := (r.off : Int) + st + m + n
    g.within (r.space == 1) r.off a (a + (bytes : Int)))))

/-- Bytes a slice reads: `lanes` elements, or the one of a splat (R77). -/
def OpRec.bytes (r : OpRec) (bits lanes : Nat) : Nat := if r.splat then max 1 (bits / 8) else bits * lanes / 8

/-- Where element (m, n) of the output begins, in bits (R88, R89); `stash` is the transposed copy. -/
def Desc.outBit (d : Desc) (stash : Bool) (m n : Nat) : Int :=
  let b := fmtBits (d.e 7 0)
  if d.mode = 0 then
    (if stash then ((d.sbase : Int) + (n : Int) * d.ostride) * 8 + ((m * b : Nat) : Int)
     else ((d.obase : Int) + (m : Int) * d.ostride) * 8 + ((n * b : Nat) : Int))
  else (d.obase : Int) * 8 + (((if d.mode = 1 then m else n) * b : Nat) : Int)

/-- Rows and columns a drain writes: those of the active extents in mode MN, one column or one row otherwise. -/
def Desc.outRows (d : Desc) : Nat := if d.mode = 2 then 1 else d.mrows
/-- Columns a drain writes. -/
def Desc.outCols (d : Desc) : Nat := if d.mode = 1 then 1 else d.ncols

/-- The element at (m, n) of the output lies within its side or the grant. -/
def Desc.outIn (d : Desc) (g : Region) (stash : Bool) (m n : Nat) : Bool :=
  let p := d.outBit stash m n
  g.within (d.e 28 28 == 1) (if stash then d.sbase else d.obase) (p / 8) ((p + (fmtBits (d.e 7 0) : Nat) + 7) / 8)

/-- A drain keeps within its side or grant (R78). -/
def Desc.outsOk (d : Desc) (g : Region) : Bool :=
  let all (stash : Bool) : Bool := [0, d.outRows - 1].all (fun m => [0, d.outCols - 1].all (fun n => d.outIn g stash m n))
  all false && (d.e 20 20 == 0 || d.mode != 0 || all true)

/-- How a descriptor is used. -/
inductive DUse where
  | triad | hold | rag
  deriving DecidableEq, Repr

/-- T is fed or held: its record is checked (R78). -/
def Desc.tUsed (d : Desc) : Bool := !d.tone

/-- The checks of R78 but for the bank: 0x54, 0x53, or 0. A descriptor that fails rows of both traps raises the descriptor error, the earlier
rows of the table (DESIGN CHOICE, log entry 34). With tone the rows that concern T do not apply; they do for HELD. -/
def Desc.check (d : Desc) (u : DUse) (g : Region) : Nat :=
  let ep := !d.stream
  let codes := decide (6 ≤ d.mode) || decide (9 ≤ d.cls) || d.w.space == 3 || d.n.space == 3 || (d.tUsed && d.t.space == 3) ||
    (ep && (decide (6 ≤ d.e 10 8) || d.e 12 11 == 3))
  let strides := d.w.sn != 0 || d.n.sm != 0 || (d.tUsed &&
    (match d.trole with
     | 0 => d.t.sm != 0 || d.t.sn != 0
     | 1 => d.t.sn != 0
     | 2 => d.t.sm != 0
     | _ => decide (8 < d.inner) || d.t.so != 0))
  let tokens := d.n.space == 2 || (d.tUsed && d.t.space == 2) || (d.w.space == 2 && u != .rag) ||
    (u == .rag && (d.w.space != 2 || d.mode != 0)) || (u == .hold && d.trole != 3)
  let names := (decide (24 ≤ d.wsc) && d.wsc != 28) || (decide (24 ≤ d.nsc) && d.nsc != 28) || (d.stream && d.och == 0)
  let (wb, nb, lanes) := classOf d.cls
  let w := d.w.space == 2 || (d.w.aligned d d.inner d.outer (wb * lanes / 8) && d.w.inside d g d.inner d.outer (d.w.bytes wb lanes))
  let n := d.n.aligned d d.inner d.outer (nb * lanes / 8) && d.n.inside d g d.inner d.outer (d.n.bytes nb lanes)
  let t := match d.tBits with
    | none => true
    | some b =>
      if !d.tUsed then true
      else
        let outer := if u = .hold then 1 else d.outer
        let r := if u = .hold then { d.t with lim := 0 } else d.t
        r.aligned d d.inner outer (min (b * lanes / 8) 64) && r.inside d g d.inner outer (r.bytes b lanes)
  let fmt := !ep || (fmtValid (d.e 7 0) && d.e 7 4 != 0 && d.e 7 4 != 12)
  let outs := !ep || u == .rag || d.outsOk g
  if codes || strides || tokens || names || !w || !n || !t || !fmt || !outs then 0x54
  else if !d.comboOk then 0x53 else 0

/-! Banks and queues. -/

/-- Bank `b` of the engine. -/
def Triad.bank (t : Triad) (b : Nat) : Bank := NMap.get t.banks b Bank.reset
/-- Update a bank. -/
def Triad.setBank (t : Triad) (b : Nat) (f : Bank → Bank) : Triad := { t with banks := NMap.set t.banks b (f (t.bank b)) }

/-- The bank an operation names; stream modes ignore theirs. -/
def SeqOp.bank : SeqOp → Option Nat
  | .triad d _ _ => if d.stream then none else some d.bank
  | .drain b => some b
  | .zero b => some b
  | .rag d _ _ _ _ => some d.bank
  | _ => none

/-- Operations not yet completed, in order of issue. -/
def Triad.pending (t : Triad) : List QEnt :=
  let l := ((t.runs ++ t.broke).filter (fun r => r.rag.isNone)).map (·.ent) ++ t.hiQ ++ t.loQ
  l.foldl (fun acc e => acc.takeWhile (fun x => decide (x.num < e.num)) ++ [e] ++ acc.dropWhile (fun x => decide (x.num < e.num))) []

/-- The projected state of a bank (R279): none when clear, or the type and mode it is filled with (DEDUCED, log entry 36). Poison is not
projected: it has a check of its own. -/
def Triad.projected (t : Triad) (b : Nat) : Option (Bool × Nat) :=
  t.pending.foldl (fun (p : Option (Bool × Nat)) e =>
    match e.op with
    | .triad d _ _ => if !d.stream && d.bank == b then some (d.intOnly, d.mode) else p
    | .zero k => if k = b then none else p
    | _ => p) (if (t.bank b).state = 1 then some ((t.bank b).int, (t.bank b).mode) else none)

/-- A bank has an epilogue, or an operation queued for it will leave one (R279, R282). -/
def Triad.hasEpi (t : Triad) (b : Nat) : Bool :=
  (t.bank b).epi.isSome || t.pending.any (fun e => match e.op with | .triad d _ _ => !d.stream && d.bank == b | _ => false)

/-- The combination rule of R86 against the projected state (R279). -/
def Triad.mixOk (t : Triad) (d : Desc) : Bool :=
  d.stream || d.ow || (match t.projected d.bank with | none => true | some p => p == (d.intOnly, d.mode))

/-! Issue (R276 to R278). -/

/-- The words at a scratchpad offset. -/
def State.spadWords (s : State) (g off n : Nat) : List Word := (List.range n).map (fun k => BitVec.ofNat 64 (s.readSp g (off + 8 * k) 8))

/-- The trap of an illegal operand at issue: the value is the word (R239). -/
def State.illegalAt (s : State) (t : TIn) (cause : Nat) : State :=
  s.trapAt t.g t.p t.c cause ((s.wordAt t.g t.p (s.ctx t.g t.p t.c)).setWidth 64)

/-- A triad instruction: the operands are read, its count and an acquire may hold it (R21, R253). -/
def runSeq (i : Instr) (f : Fields) (s : State) (bad : Ctx → Word → Word → Nat) (k : Cls) (fn : TIn → State) : State :=
  match beginTask i f s bad with
  | .stop s => s
  | .go t => match s.holds t k false with | some st => s.block t.g t.p t.c st | none => fn t

/-- Enter a queue, or block while it holds eight entries (R90). -/
def State.enqueue (s : State) (t : TIn) (high : Bool) (op : SeqOp) (oth : Nat) : State :=
  let q := (s.tile t.g).triad
  if 8 ≤ q.entries high then s.block t.g t.p t.c (.blkEngine (.queue high))
  else
    let e : QEnt := ⟨s.nextId, op, t.p, t.c, oth⟩
    let s := { s.retire t (t.x.advance.setCount .tl (t.x.tl + 1)) with nextId := s.nextId + 1 }
    s.updTriad t.g (fun q => if high then { q with hiQ := q.hiQ ++ [e] } else { q with loQ := q.loQ ++ [e] })

/-- Read and check the descriptor at a[19:0] (R78, R278), then go on with it: a poisoned bank traps before the combination rule of R86 is
applied (R279), which concerns contractions; `thold` too names a bank (R281). -/
def State.withDesc (s : State) (t : TIn) (u : DUse) (fn : Desc → State) : State :=
  let off := bitsOf t.a 19 0
  if off % 128 ≠ 0 ∨ 0xC0000 ≤ off then s.trapAt t.g t.p t.c 0x54 (BitVec.ofNat 64 off)
  else if s.storing t.g t.p t.c off 128 then s.block t.g t.p t.c (.blkEngine (.stores off 128))
  else
    match s.regOf t.g with
    | none => s
    | some (_, r) =>
      let d := parseDesc (s.spadWords t.g off 16)
      let q := (s.tile t.g).triad
      let cause := d.check u r
      if cause ≠ 0 then s.trapAt t.g t.p t.c cause (BitVec.ofNat 64 off)
      else if !d.stream ∧ (q.bank d.bank).state = 2 then s.trapAt t.g t.p t.c 0x55 (BitVec.ofNat 64 d.bank)
      else if u ≠ .hold ∧ !q.mixOk d then s.trapAt t.g t.p t.c 0x53 (BitVec.ofNat 64 off)
      else fn d

/-- A per-tensor scale read at issue (R73). -/
def TIn.scale (t : TIn) (k : Nat) : Lane := if k < 24 then (t.x.src 0 k).setWidth 32 else 0x3F800000

/-- An operation whose scale registers are written issues; one that an earlier instruction has still to write is waited for (R73, R357). -/
def State.scaled (s : State) (t : TIn) (d : Desc) (go : State) : State :=
  match [d.wsc, d.nsc].find? (fun k => decide (k < 24) && s.pendingReg t.g t.p t.c k) with
  | some k => s.block t.g t.p t.c (.blkReg k)
  | none => go

/-- `triad` (R278). -/
def execTriad (f : Fields) (s : State) : Host.Outcome State Fault Refusal :=
  .next (runSeq (.iTriad f) f s noBad .tl (fun t =>
    s.withDesc t .triad (fun d =>
      if d.stream ∧ !(t.x.chan d.och).writable then s.illegalAt t 0x0B
      else if !d.stream ∧ (s.tile t.g).triad.heldBy d.bank then s.block t.g t.p t.c (.blkEngine (.bank d.bank))
      else s.scaled t d (s.enqueue t (bitOf t.b 0) (.triad d (t.scale d.wsc) (t.scale d.nsc)) d.oth))))

/-- `thold` (R281). -/
def execThold (f : Fields) (s : State) : Host.Outcome State Fault Refusal :=
  .next (runSeq (.iThold f) f s noBad .tl (fun t =>
    s.withDesc t .hold (fun d =>
      if !d.stream ∧ (s.tile t.g).triad.heldBy d.bank then s.block t.g t.p t.c (.blkEngine (.bank d.bank))
      else s.enqueue t (bitOf t.b 0) (.hold d) d.oth)))

/-- `tdrain` (R282). -/
def execTdrain (f : Fields) (s : State) : Host.Outcome State Fault Refusal :=
  .next (runSeq (.iTdrain f) f s noBad .tl (fun t =>
    let b := bitsOf t.a 0 0
    let q := (s.tile t.g).triad
    if (q.bank b).state = 2 then s.trapAt t.g t.p t.c 0x55 (BitVec.ofNat 64 b)
    else if !q.hasEpi b then s.trapAt t.g t.p t.c 0x54 (BitVec.ofNat 64 b)
    else s.enqueue t (bitOf t.b 0) (.drain b) 0))

/-- `tzero` (R283). -/
def execTzero (f : Fields) (s : State) : Host.Outcome State Fault Refusal :=
  .next (runSeq (.iTzero f) f s noBad .tl (fun t =>
    let b := bitsOf t.a 0 0
    if (s.tile t.g).triad.heldBy b then s.block t.g t.p t.c (.blkEngine (.bank b))
    else s.enqueue t (bitOf t.b 0) (.zero b) 0))

/-- `tscl` (R283). -/
def execTscl (f : Fields) (s : State) : Host.Outcome State Fault Refusal :=
  .next (runSeq (.iTscl f) f s (fun _ a b => nine (bitsOf b 1 0 == 3 || bitsOf a 19 0 % 128 != 0)) .tl (fun t =>
    let off := bitsOf t.a 19 0
    if 0xC0000 ≤ off then s.memTrap t 0x21 off
    else s.enqueue t (bitOf t.b 2) (.scl off (bitsOf t.b 1 0)) 0))

/-- `tabort` (R287). -/
def execTabort (f : Fields) (s : State) : Host.Outcome State Fault Refusal :=
  .next (runSeq (.iTabort f) f s noBad .tl (fun t => s.enqueue t (bitOf t.a 0) .abort 0))

/-- A bank has a binding, or one is queued (R288). -/
def Triad.bound (t : Triad) (b : Nat) : Bool :=
  (NMap.find t.rags b).isSome || t.pending.any (fun e => match e.op with | .rag d _ _ _ _ => d.bank == b | _ => false)

/-- `trag` (R288). -/
def execTrag (f : Fields) (s : State) : Host.Outcome State Fault Refusal :=
  .next (runSeq (.iTrag f) f s (fun _ _ b => nine (bitsOf b 13 12 == 0)) .tl (fun t =>
    s.withDesc t .rag (fun d =>
      let ch := bitsOf t.b 13 12
      if (s.tile t.g).triad.bound d.bank then s.trapAt t.g t.p t.c 0x55 (BitVec.ofNat 64 d.bank)
      else if !(t.x.chan ch).readable then s.illegalAt t 0x0B
      else s.scaled t d (s.enqueue t (bitOf t.b 14) (.rag d (bitsOf t.b 11 0) ch (t.scale d.wsc) (t.scale d.nsc)) d.oth))))

/-- `tacc` (R284, R87): the read token goes to the bank's accumulator node. -/
def execTacc (f : Fields) (s : State) : Host.Outcome State Fault Refusal :=
  .next (runSeq (.iTacc f) f s noBad .ld (fun t =>
    s.issue t { s.taskReq t .ld (.tacc (bitsOf t.a 0 0) (bitsOf t.a 5 1) (bitsOf t.a 10 6)) with d := t.f.d.toNat }))

/-- `tcomb` (R285): its descriptor is read like a load of 128 bytes. -/
def execTcomb (f : Fields) (s : State) : Host.Outcome State Fault Refusal :=
  .next (runSeq (.iTcomb f) f s noBad .ld (fun t =>
    let off := bitsOf t.a 19 0
    if 0xC0000 ≤ off ∨ 0x40000 < off % 0x40000 + 128 then s.memTrap t 0x21 off
    else s.issue t { s.taskReq t .ld (.desc 0xC5000000) with
      d := t.f.d.toNat, ea := off, pieces := [Piece.mk1 (.spad t.g off) 4 128 0 0 0 0] }))

/-- The answer of `tcomb`. -/
def Desc.comb (d : Desc) : Word := if 9 ≤ d.cls then 0x54 else if d.comboOk then 0 else 0x53

/-- The status word of a bank (R286). -/
def Triad.bankWord (t : Triad) (b : Nat) : Word :=
  let k := t.bank b
  BitVec.ofNat 64 (k.state + b2n k.int * 4 + k.mode % 8 * 8 + b2n k.sat * 2 ^ 6 + b2n (t.heldBy b) * 2 ^ 7 + k.pcause % 256 * 2 ^ 8 +
    k.steps % 2 ^ 36 * 2 ^ 16)
/-- The status word of the sequencer (R286). -/
def Triad.seqWord (t : Triad) : Word :=
  BitVec.ofNat 64 (t.entries true + t.entries false * 2 ^ 4 + t.pol % 4 * 2 ^ 8 + b2n (t.runs.any (·.high)) * 2 ^ 10 +
    b2n (t.runs.any (fun r => !r.high)) * 2 ^ 11 + b2n t.halted * 2 ^ 12)

/-- `tstat` (R286). -/
def execTstat (f : Fields) (s : State) : Host.Outcome State Fault Refusal :=
  .next (match beginTask (.iTstat f) f s (fun _ a _ => nine (bitsOf a 1 0 == 3)) with
    | .stop s => s
    | .go t =>
      let q := (s.tile t.g).triad
      s.putResult t false (if bitsOf t.a 1 0 = 2 then q.seqWord else q.bankWord (bitsOf t.a 1 0)))

/-- A policy takes effect at an instruction boundary (R289). -/
def Triad.boundary (t : Triad) : Triad :=
  if t.runs = [] then (match t.pend with | some p => { t with pol := p, pend := none } | none => t) else t

/-- `tpri` (R289). -/
def execTpri (f : Fields) (s : State) : Host.Outcome State Fault Refusal :=
  .next (match beginTask (.iTpri f) f s (fun _ a _ => nine (bitsOf a 1 0 == 3)) with
    | .stop s => s
    | .go t => (s.retire t t.x.advance).updTriad t.g (fun q => ({ q with pend := some (bitsOf t.a 1 0) } : Triad).boundary))

end Sys2Proof.Machine
end

