-- ==== Sys2Proof/Machine/Array.lean ====
section
/-! DEFINITION. The sequencer, its feeders, the array, drains and ragged products (R69 to R71, R80 to R91, R278 to R290). -/

namespace Sys2Proof.Machine

/-! Runs. -/

/-- The descriptor of a contraction or a pass. -/
def Run.desc (r : Run) : Option Desc :=
  match r.ent.op with
  | .triad d _ _ => some d
  | .rag d _ _ _ _ => some d
  | _ => none

/-- A drain and a contraction that name different banks may run at once (R88, R280). -/
def pairOk (x y : SeqOp) : Bool :=
  match x, y with
  | .drain b, .triad d _ _ => d.stream || d.bank != b
  | .triad d _ _, .drain b => d.stream || d.bank != b
  | .drain b, .rag d _ _ _ _ => d.bank != b
  | .rag d _ _ _ _, .drain b => d.bank != b
  | _, _ => false

/-- A high operation touches none of a low operation's state (R90). Of the hold file and the scale and bias vectors, only an operation that
writes them (`thold`, `tscl`) counts as touching them, not one that reads them; the bank field of a stream-mode contraction counts as its bank,
whose saturation flag it sets (R81) (DESIGN CHOICE, log entry 34). -/
def breakable (h low : SeqOp) : Bool :=
  let lowBank : Option Nat := match low with | .triad d _ _ => some d.bank | .rag d _ _ _ _ => some d.bank | .drain b => some b | _ => none
  let hBank : Option Nat := match h with
    | .triad d _ _ => some d.bank | .rag d _ _ _ _ => some d.bank | .drain b => some b | .zero b => some b | _ => none
  (hBank.isNone || hBank != lowBank) &&
    (match h, low with
     | .hold _, .triad d _ _ => d.tone || d.trole != 3
     | .hold _, .rag d _ _ _ _ => d.tone || d.trole != 3
     | .scl _ _, .drain _ => false
     | .scl _ _, .rag _ _ _ _ _ => false
     | _, _ => true)

/-- What a binding's product stands under: no queue entry of its own. -/
def Rag.entry (r : Rag) : QEnt := ⟨0, .rag r.d r.thread r.ch r.sw r.sn, r.p, r.c, r.d.oth⟩

/-- What runs, as far as an operation of a queue is concerned (R90, R91): the runs, and as drains the ragged products whose close has begun; a high
operation under policy 0 passes over a low product between its groups of 4 rows, where it touches none of its state. -/
def Triad.active (t : Triad) (high : Bool) (o : SeqOp) : List SeqOp :=
  t.runs.map (·.ent.op) ++ t.rags.filterMap (fun x =>
    if x.2.out = 0 ∨ (high ∧ !x.2.high ∧ t.pol = 0 ∧ x.2.interruptible ∧ breakable o x.2.entry.op) then none else some (.drain x.1))

/-- An operation may start beside others. -/
def fitsBeside (o : SeqOp) : List SeqOp → Bool
  | [] => true
  | [x] => pairOk x o
  | _ => false
/-- An operation of a queue may start beside those that run. -/
def Triad.fitsNow (t : Triad) (high : Bool) (o : SeqOp) : Bool := fitsBeside o (t.active high o)

/-- The policy lets a queue start its next operation (R90). -/
def Triad.turn (t : Triad) (high : Bool) : Bool :=
  match t.pol with
  | 2 => if t.hiQ != [] && t.loQ != [] then high != t.lastHigh else true
  | _ => high || (t.hiQ == [] && t.runs.all (fun r => !r.high))

/-- A fresh run. -/
def Run.new (e : QEnt) (high : Bool) : Run :=
  { ent := e, high := high, j := 0, fw := 0, fn := 0, ft := 0, sw := [], sn := [], st := [], acc := [], rag := none, fin := false }

/-- An error token of the sequencer to the sink (R290, R426); its element field names the issuing processor (DEDUCED, log entry 34). -/
def State.seqError (s : State) (g : Nat) (e : QEnt) (cause off th it : Nat) : State :=
  s.toSink g (Tok.error (th % 2 ^ 12) (it % 2 ^ 20) 0 (errPayload cause g ((s.tile g).role e.p) off))

/-- An operation completes for tl (R280); contexts that wait for an entry or a bank look again. -/
def State.seqDone (s : State) (g : Nat) (e : QEnt) : State :=
  ((s.countDown (.ctx g e.p e.c) .tl).updTriad g Triad.boundary).wakeTile g

/-- Take the run of an entry out. -/
def Triad.endRun (t : Triad) (n : Nat) : Triad := { t with runs := t.runs.filter (fun r => !(r.ent.num == n && r.rag.isNone)) }

/-- The `oth` an error token of an operation that met a poisoned bank carries (R426). -/
def Triad.othOf (t : Triad) (e : QEnt) : Nat := match e.op with | .drain b => (t.bank b).oth | _ => e.oth

/-- A contraction sets its bank's type and mode as it starts (R86). -/
def Triad.claim (t : Triad) (o : SeqOp) : Triad :=
  match o with
  | .triad d _ _ => if d.stream then t else t.setBank d.bank (fun b => { b with int := d.intOnly, mode := d.mode, steps := 0, oth := d.oth })
  | .rag d _ _ _ _ => t.setBank d.bank (fun b => { b with int := d.intOnly, mode := d.mode, steps := 0, oth := d.oth })
  | _ => t

/-- The queue without its head. -/
def Triad.popQ (t : Triad) (high : Bool) : Triad := if high then { t with hiQ := t.hiQ.tail } else { t with loQ := t.loQ.tail }

/-- A high operation touches none of the state of the low operations broken into (R90). -/
def Triad.clearOf (t : Triad) (h : SeqOp) : Bool := t.broke.all (fun r => breakable h r.ent.op)

/-- The low operations broken into resume (R90): once no high operation runs and the high queue is empty, or holds one that waits for them. -/
def Triad.resumes (t : Triad) : Bool :=
  t.runs.all (fun r => !r.high) && (match t.hiQ with | [] => true | h :: _ => !t.clearOf h.op)

/-- Start the head of a queue (R280), or pass over it where its bank is poisoned (R279). -/
def State.startHead (s : State) (g : Nat) (high : Bool) : State :=
  let t := (s.tile g).triad.boundary
  match (if high then t.hiQ else t.loQ) with
  | [] => s
  | e :: _ =>
    if !(t.fitsNow high e.op && t.turn high && t.clearOf e.op) then s
    else
      let poisoned : Bool := match e.op.bank with | some b => (t.bank b).state == 2 | none => false
      let held : Bool := match e.op with
        | .triad d _ _ => !d.stream && t.heldBy d.bank
        | .zero b => t.heldBy b
        | _ => false
      let go (s : State) (h : Triad → Triad) : State := s.updTriad g (fun t => h { (t.boundary).popQ high with lastHigh := high })
      let done (s : State) : State := s.seqDone g e
      match e.op with
      | .abort => s
      | .zero _ => if held then s else go s (fun t => { t with runs := t.runs ++ [Run.new e high] })
      | .rag d th ch sw sn =>
        if poisoned then done ((go s id).seqError g e 0x55 d.bank (t.othOf e) 0)
        else
          let s := go s (fun t => { t with
            rags := NMap.set t.rags d.bank ⟨d, e.p, e.c, ch, th, sw, sn, high, [], 0, 0, false, 0, false⟩ })
          done (s.updCtx g e.p e.c (fun x => { x with vc := NMap.set x.vc ch { x.chan ch with ragged := true } }))
      | o =>
        if poisoned then done ((go s id).seqError g e 0x55 ((o.bank).getD 0) (t.othOf e) 0)
        else if held then s
        else go s (fun t => { t.claim o with runs := t.runs ++ [Run.new e high] })

/-- SEQUENCER_OP_START (R280, R90, R279): the head of a queue starts, or the operations broken into resume. `flag`: the high queue. -/
def execSequencerOpStart (s : State) : Host.Outcome State Fault Refusal :=
  .next (let g := s.ev.g
    let high := s.ev.flag
    let t := (s.tile g).triad
    if !s.liveAt g then s
    else if high then s.startHead g true
    else if t.broke = [] then s.startHead g false
    else if t.resumes then s.updTriad g (fun t => { t with runs := t.runs ++ t.broke, broke := [] })
    else s)

/-- A run as it stands at an interruptible point: a contraction's staging FIFOs are empty there (R90). -/
def Run.atPoint (r : Run) : Run :=
  match r.desc with
  | some _ => { r with fw := r.j, fn := r.j, ft := r.j, sw := [], sn := [], st := [] }
  | none => r

/-- The engine as it stands at interruptible points: nothing prefetched is kept (R90). -/
def Triad.atPoint (t : Triad) : Triad := { t with runs := t.runs.map Run.atPoint, broke := t.broke.map Run.atPoint }

/-- BREAK_IN (R90): under policy 0 the head of the high queue interrupts the low operations that run, a drain and a contraction each at an
interruptible point of its own, where it touches none of their state. -/
def execBreakIn (s : State) : Host.Outcome State Fault Refusal :=
  .next (let g := s.ev.g
    let t := (s.tile g).triad
    match t.runs.find? (fun r => !r.high && r.interruptible), t.hiQ with
    | some r, h :: _ =>
      if s.liveAt g ∧ t.pol = 0 ∧ h.op ≠ .abort ∧ (t.runs ++ t.broke).all (fun x => x.high || breakable h.op x.ent.op) ∧
          ({ t with runs := t.runs.filter (·.high) } : Triad).fitsNow true h.op then
        s.updTriad g (fun t => { t with runs := t.runs.filter (fun x => x != r), broke := t.broke ++ [r.atPoint] })
      else s
    | _, _ => s)

/-! Feeders (R70, R77, R84). -/

/-- Where a byte of an operand lies. -/
def opPlace (g space a : Nat) : Place := if space = 1 then .phys (vaultAddr (vaultOfTile g) + a) else .spad g a

/-- The block word at a place; outside the side of the base there is no numeric block (DEDUCED, log entry 35). -/
def State.bwAt (s : State) (g space base a : Nat) : Nat :=
  match opPlace g space a with
  | .phys pa => s.metaPa pa
  | .spad _ o => if o / 0x40000 = base / 0x40000 ∧ o < 0xC0000 then s.metaSp g o else 0
  | .virt _ => 0

/-- `n` bytes of a vault location as the sequencer's feeders see them (R117, R118): they pass over the newest writes they may miss, as many
as the event says. -/
def State.feederView (s : State) (g pa n : Nat) : Nat :=
  s.seenN (passedOver (.seq g) (s.staleAt pa).reverse s.ev.c) pa n

/-- Element `l` of `bits` bits at a slice address (R44, R77). -/
def State.elAt (s : State) (g space base a bits l : Nat) : El :=
  let p := 8 * a + l * bits
  let n := (bits + 7) / 8
  let v := match opPlace g space (p / 8) with
    | .phys pa => s.feederView g pa n
    | .spad _ o => s.readSp g o n
    | .virt _ => 0
  ⟨v / 2 ^ (p % 8) % 2 ^ bits, s.bwAt g space base (p / 8)⟩

/-- A slice (R69, R77): `lanes` elements, or one element in every lane. -/
def State.slice (s : State) (g : Nat) (r : OpRec) (a : Int) (bits lanes : Nat) : List El :=
  let a := a.toNat
  (List.range lanes).map (fun l => s.elAt g r.space (if r.space = 2 then a else r.off) a bits (if r.splat then 0 else l))

/-- The offset of step `j` (R77). -/
def OpRec.stepOff (r : OpRec) (inner j : Nat) : Int := ((j / inner : Nat) : Int) * r.so + ((j % inner : Nat) : Int) * r.si

/-- T is fed by the T feeder (R70). -/
def Desc.tFed (d : Desc) : Bool := !d.tone && d.trole != 3
/-- Element bits of T, where used. -/
def Desc.tb (d : Desc) : Nat := d.tBits.getD 8

/-- The first bank row of a contraction or pass (R91). -/
def Run.base (r : Run) : Nat := match r.rag with | some q => q.2.1 | none => 0
/-- Rows a contraction or pass works on. -/
def Run.rows (r : Run) (d : Desc) : Nat := match r.rag with | some q => q.2.2 | none => d.mrows

/-- The rows of a pass: W offset and output row (R91) (DEDUCED, log entry 37). -/
def Triad.passRows (t : Triad) (q : Nat × Nat × Nat) : List (Nat × Nat) :=
  match NMap.find t.rags q.1 with | some r => (r.rows.drop q.2.1).take q.2.2 | none => []

/-- Where the slices of W for step `j` begin, by row (R77, R91): of a pass, as its row tokens say. -/
def State.wAddrs (s : State) (g : Nat) (d : Desc) (r : Run) (j : Nat) : List Int :=
  match r.rag with
  | some q => ((s.tile g).triad.passRows q).map (fun x => (x.1 : Int) + d.w.stepOff d.inner j)
  | none => (List.range d.mrows).map (fun (m : Nat) => (d.w.off : Int) + (m : Int) * d.w.sm + d.w.stepOff d.inner j)
/-- Where the slices of N for step `j` begin, by column. -/
def Desc.nAddrs (d : Desc) (j : Nat) : List Int :=
  (List.range d.ncols).map (fun (n : Nat) => (d.n.off : Int) + (n : Int) * d.n.sn + d.n.stepOff d.inner j)
/-- Where the slices of T for step `j` begin: one, by bank row, or by column (R70, R91). -/
def Desc.tAddrs (d : Desc) (r : Run) (j : Nat) : List Int :=
  match d.trole with
  | 1 => (List.range (r.rows d)).map (fun (m : Nat) => (d.t.off : Int) + ((r.base + m : Nat) : Int) * d.t.sm + d.t.stepOff d.inner j)
  | 2 => (List.range d.ncols).map (fun (n : Nat) => (d.t.off : Int) + (n : Int) * d.t.sn + d.t.stepOff d.inner j)
  | _ => [(d.t.off : Int) + d.t.stepOff d.inner j]
/-- The slices of an operand at their addresses. -/
def State.slices (s : State) (g : Nat) (r : OpRec) (bits lanes : Nat) (as : List Int) : List (List El) := as.map (fun a => s.slice g r a bits lanes)

/-- A feeder may fetch step `f` (R75, R84). -/
def feeds (lim total j f : Nat) : Bool := decide (f < total) && decide (f < j + 8) && (lim == 0 || decide (f < lim))

/-- The vault bytes that slices read: each slice's first, and how many. -/
def OpRec.vaultAt (r : OpRec) (g : Nat) (as : List Int) : List Nat :=
  if r.space = 1 then as.map (fun a => vaultAddr (vaultOfTile g) + a.toNat) else []
/-- The first block in error that a read of some vault bytes meets (R408). -/
def State.badAmong (s : State) (n : Nat) (as : List Nat) : Option Nat :=
  as.findSome? (fun a => (List.range ((a + n - 1) / 64 + 1 - a / 64)).findSome? (fun k =>
    if s.badBlock (.phys ((a / 64 + k) * 64)) then some ((a / 64 + k) * 64) else none))
/-- The block whose read fails (R408): one in error, or the one that the event names among the places read, numbered from `k`, as a word that
cannot be corrected. -/
def State.foundBad (s : State) (n : Nat) (as : List Nat) (k : Nat) : Option Nat :=
  match s.badAmong n as with
  | some pa => some pa
  | none => if s.ev.flag ∧ k ≤ s.ev.x then (as[s.ev.x - k]?).map (fun a => a / 64 * 64) else none
/-- The feeders have read vault bytes (R117): they read nothing older of these locations again. -/
def State.feederRead (s : State) (g n : Nat) (as : List Nat) : State :=
  let ws := as.flatMap (fun a => (List.range ((a + n - 1) / 8 + 1 - a / 8)).map (fun k => a / 8 + k))
  { s with stale := s.stale.map (fun (e : Stale) =>
      if e.seen.contains (.seq g) then e
      else if e.bytes.any (fun b => ws.contains (b.1 / 8) && !(passedOver (.seq g) (s.staleAt b.1).reverse s.ev.c).contains e.id) then
        { e with seen := .seq g :: e.seen }
      else e) }

/-- The region's array meets a vault block in error (R408). -/
def State.arrayError (s : State) (g pa : Nat) : State :=
  s.dataError (Req.blank 0 (((s.tile g).inst).getD 0) 0 (.seq g) .load) pa
/-- The arcade's vault answers (R410). -/
def State.vaultUp (s : State) (g : Nat) : Bool := s.reachable (vaultAddr (vaultOfTile g))

/-- Stop a contraction or a pass (R85): its bank is poisoned but in stream modes, an error token goes to the sink, the trap reaches
the issuing context, and it completes for tl; an open product ends. Stream-short, stream-long and format faults are counted (R421). -/
def State.seqFault (s : State) (g : Nat) (r : Run) (d : Desc) (cause : Nat) : State :=
  let s := s.seqError g r.ent cause r.j d.oth r.j
  let s := if cause = 0x21 then s else s.bumpFleet g 9 1
  let s := s.updTriad g (fun t =>
    let t := { t with runs := t.runs.filter (fun x => !(x.ent.num == r.ent.num && x.rag == r.rag)) }
    let t := if d.stream then t else t.setBank d.bank (fun b => { b with state := 2, pcause := cause, steps := r.j })
    if r.rag.isSome then ({ t with rags := t.rags.map (fun (q : Nat × Rag) => if q.1 = d.bank then (q.1, { q.2 with rows := [], applied := 0, out := 0, ended := false, isOpen := false }) else q) } : Triad).boundary
    else t)
  let s := s.deferTrap g r.ent.p r.ent.c cause (BitVec.ofNat 64 r.j)
  if r.rag.isSome then s.wakeTile g else s.seqDone g r.ent

/-- FEEDER_SLICE_FETCH (R84): feeder `e` (0 W, 1 N, 2 T) delivers the next step's slices; at most 8 steps ahead of the step being
applied. A vault that is not ready stops the contraction with cause 0x21 (R410; DESIGN CHOICE, log entry 35). `c`: writes passed over; `flag`: a
word of slice `x` cannot be corrected (R408). -/
def execFeederSliceFetch (s : State) : Host.Outcome State Fault Refusal :=
  .next (let g := s.ev.g
    let t := (s.tile g).triad
    if !s.liveAt g then s
    else
      match t.runs.find? (fun r => r.desc.isSome && !r.fin) with
      | none => s
      | some r =>
        match r.desc with
        | none => s
        | some d =>
          let put (q : Run) : State := s.updTriad g (fun t => { t with runs := t.runs.map (fun x => if x.ent.num = r.ent.num ∧ x.rag = r.rag then q else x) })
          let (wb, nb, lanes) := classOf d.cls
          let fetch (o : OpRec) (bits : Nat) (as : List Int) (add : List (List El) → Run) : State :=
            let n := o.bytes bits lanes
            let at_ := o.vaultAt g as
            if at_ ≠ [] ∧ !s.vaultUp g then s.seqFault g r d 0x21
            else
              match s.foundBad n at_ 0 with
              | some pa => s.arrayError g pa
              | none => (put (add (s.slices g o bits lanes as))).feederRead g n at_
          match s.ev.e with
          | 0 => if feeds d.w.lim d.total r.j r.fw then
              fetch d.w wb (s.wAddrs g d r r.fw) (fun l => { r with fw := r.fw + 1, sw := r.sw ++ [l] }) else s
          | 1 => if feeds d.n.lim d.total r.j r.fn then
              fetch d.n nb (d.nAddrs r.fn) (fun l => { r with fn := r.fn + 1, sn := r.sn ++ [l] }) else s
          | _ => if d.tFed ∧ feeds d.t.lim d.total r.j r.ft then
              fetch d.t d.tb (d.tAddrs r r.ft) (fun l => { r with ft := r.ft + 1, st := r.st ++ [l] }) else s)

/-! The array (R69 to R71, R80 to R83). -/

/-- Zero. -/
def FVal.zero : FVal := .fin false 0 1
/-- The element's decoded value, without its block scale (R81). -/
def El.val (e : El) : FVal := decodeFmt (e.bw / 256 % 256) e.bits
/-- The element's block scale. -/
def El.scale (e : El) : FVal := scaleVal (e.bw % 256)
/-- The block word passes R83. -/
def El.ok (fam : Nat) (int : Bool) (e : El) : Bool :=
  fmtValid (e.bw / 256 % 256) && fam.testBit (e.bw / 4096 % 16) && (!int || e.bw % 256 == 0x80)

/-- The exact sum of the triple products over lanes (R81); a missing T lane is 1 with tone, else 0. -/
def tripleSum (tone : Bool) : List El → List El → List El → FVal
  | w :: ws, n :: ns, ts =>
    let t := match ts with | t :: _ => t.val | [] => if tone then .fin false 1 1 else FVal.zero
    ((w.val.mul n.val).mul t).add (tripleSum tone ws ns ts.tail)
  | _, _, _ => FVal.zero

/-- The count of a binary cell (R82). -/
def binSum (bop tone : Bool) : List El → List El → List El → Nat
  | w :: ws, n :: ns, ts =>
    let x := if bop then Nat.land w.bits n.bits else Nat.xor w.bits n.bits
    let t := match ts with | t :: _ => t.bits | [] => if tone then 1 else 0
    Nat.land x t % 2 + binSum bop tone ws ns ts.tail
  | _, _, _ => 0

/-- The value a step contributes to a cell (R81, R82). A row token's offset has no alignment rule, so a slice of W may straddle two blocks: the
scale of its first lane's block then stands for all lanes (DESIGN CHOICE, log entry 69). -/
def Desc.cell (d : Desc) (w n t : List El) : FVal :=
  if d.cls = 4 then .fin false (binSum d.bop d.tone w n t) 1
  else
    let sc (l : List El) : FVal := match l with | e :: _ => e.scale | [] => FVal.zero
    ((tripleSum d.tone w n t).mul (sc w)).mul (sc n)

/-- The T slice of cell (base + m, n) at step `j` (R70, R91): `base` is the bank row of row 0 of a pass. -/
def Triad.tFor (t : Triad) (d : Desc) (ts : List (List El)) (base j m n : Nat) : List El :=
  if d.tone then []
  else
    match d.trole with
    | 0 => ts.getD 0 []
    | 1 => ts.getD m []
    | 2 => ts.getD n []
    | _ => NMap.get t.hold (8 * (32 * (base + m) + n) + j % d.inner) []

/-- The cell values of a step, by row. -/
def Triad.cells (t : Triad) (d : Desc) (base rows : Nat) (ws ns ts : List (List El)) (j : Nat) : List (List FVal) :=
  (List.range rows).map (fun m => (List.range d.ncols).map (fun n => d.cell (ws.getD m []) (ns.getD n []) (t.tFor d ts base j m n)))

/-- The exact sum of a list. -/
def sumVals (l : List FVal) : FVal := l.foldl FVal.add FVal.zero

/-- Accumulate a value exactly rounded once (R81): the accumulator, and whether it clamped. -/
def accumulate (int : Bool) (acc : Lane) (v : FVal) : Lane × Bool :=
  if int then
    let x := match v with | .fin neg num den => roundInt .rne neg num den | _ => 0
    satAcc (acc.toInt + x)
  else (enc32 ((val32 acc).add v), false)

/-- Add a value to accumulator (m, n) of a bank. -/
def Triad.addAcc (t : Triad) (b : Nat) (int : Bool) (x : Nat × Nat × FVal) : Triad :=
  let k := 1024 * b + 32 * x.1 + x.2.1
  let (v, sat) := accumulate int (NMap.get t.acc k 0) x.2.2
  ({ t with acc := NMap.set t.acc k v } : Triad).setBank b (fun q => { q with sat := q.sat || sat })

/-- The accumulators a mode writes, with a step's value for each (R71); `base` is the bank row of row 0. -/
def Desc.targets (d : Desc) (base : Nat) (cs : List (List FVal)) : List (Nat × Nat × FVal) :=
  match d.mode with
  | 0 => (cs.zipIdx.map (fun r => r.1.zipIdx.map (fun c => (base + r.2, c.2, c.1)))).flatten
  | 1 => cs.zipIdx.map (fun r => (r.2, 0, sumVals r.1))
  | _ => (List.range d.ncols).map (fun n => (0, n, sumVals (cs.map (fun r => r.getD n FVal.zero))))

/-- A stream-mode result lane (R81): both per-tensor scales, one rounding; the flag is a saturation or a lost NaN. -/
def Desc.lane (d : Desc) (sw sn : Lane) (v : FVal) : Lane × Bool :=
  let v := if d.cls = 4 then v else (v.mul (val32 sw)).mul (val32 sn)
  if d.intOnly then
    match v with
    | .nan => (0, true)
    | .inf neg => (if neg then 0x80000000 else 0x7FFFFFFF, true)
    | .fin neg num den => satAcc (roundInt .rne neg num den)
  else (enc32 v, false)

/-- The sums a stream mode's step leaves (R71). -/
def Desc.sums (d : Desc) (cs : List (List FVal)) : List FVal :=
  match d.mode with
  | 3 => [sumVals cs.flatten]
  | 4 => cs.map sumVals
  | _ => (List.range d.ncols).map (fun n => sumVals (cs.map (fun r => r.getD n FVal.zero)))

/-- Apply a step to the accumulators, or form its results. -/
def Triad.apply (t : Triad) (r : Run) (d : Desc) (cs : List (List FVal)) : Triad :=
  let base := r.base
  if d.stream then
    let (sw, sn) : Lane × Lane := match r.ent.op with | .triad _ a b => (a, b) | _ => (0, 0)
    let ls := (d.sums cs).map (d.lane sw sn)
    let t := t.setBank d.bank (fun b => { b with sat := b.sat || ls.any (·.2) })
    let ls := ls.map (·.1)
    let mk (it : Nat) (l : List Lane) : List (Nat × Nat × Nat × Tok) := [(r.ent.p, r.ent.c, d.och, Tok.vec d.oth (it % 2 ^ 20) l [])]
    let (out, acc) : List (Nat × Nat × Nat × Tok) × List Lane :=
      if d.mode = 3 then
        (if r.acc.length = 31 ∨ r.j + 1 = d.total then (mk (r.j - r.acc.length) (r.acc ++ ls), []) else ([], r.acc ++ ls))
      else (mk r.j ls, [])
    { t with out := t.out ++ out, runs := t.runs.map (fun x => if x.ent.num = r.ent.num ∧ x.rag = r.rag then { x with acc := acc } else x) }
  else
    let l := d.targets base cs
    let t := if d.ow ∧ r.j = 0 then { t with acc := l.foldl (fun m x => NMap.set m (1024 * d.bank + 32 * x.1 + x.2.1) 0) t.acc } else t
    (l.foldl (fun t x => t.addAcc d.bank d.intOnly x) t).setBank d.bank (fun b => { b with steps := r.j + 1 })

/-- Move a run to its next step. -/
def Triad.nextStep (t : Triad) (r : Run) : Triad :=
  { t with skipBrk := false,
           runs := t.runs.map (fun x => if x.ent.num = r.ent.num ∧ x.rag = r.rag then { x with j := x.j + 1, sw := x.sw.tail, sn := x.sn.tail, st := x.st.tail } else x) }

/-- A pass that has applied every step ends, an instruction boundary, and its rows are applied (R91, R289). -/
def Triad.endPass (t : Triad) (r : Run) (d : Desc) : Triad :=
  match r.rag with
  | some q =>
    if r.j + 1 < d.total then t
    else ({ t with runs := t.runs.filter (fun y => y.rag != some q),
                   rags := t.rags.map (fun x => if x.1 = q.1 then (x.1, { x.2 with applied := q.2.1 + q.2.2 }) else x) } : Triad).boundary
  | none => t

/-- A result token waits at the sequencer (R71); the count word of a ragged product is none. -/
def Triad.waiting (t : Triad) : Bool := t.out.any (fun x => x.2.2.2.kind == .vector)

/-- TRIAD_STEP (R71, R81, R84, R85, R245): the next step of the running contraction or pass is applied, or stops it; none while a result token
waits. -/
def execTriadStep (s : State) : Host.Outcome State Fault Refusal :=
  .next (let g := s.ev.g
    let T := s.tile g
    let t := T.triad
    if !s.liveAt g ∨ t.halted ∨ 8 ≤ T.lvl then s
    else
      match t.runs.find? (fun r => r.desc.isSome && !r.fin) with
      | none => s
      | some r =>
        match r.desc with
        | none => s
        | some d =>
          let short (o : OpRec) : Bool := o.lim != 0 && decide (o.lim ≤ r.j)
          if d.total ≤ r.j ∨ t.waiting then s
          else if bitOf T.stepMatch 36 ∧ bitsOf T.stepMatch 35 0 = r.j ∧ !t.skipBrk then s.updTriad g (fun t => { t with halted := true })
          else if short d.w ∨ short d.n ∨ (d.tFed ∧ short d.t) then s.seqFault g r d 0x50
          else
            match r.sw, r.sn with
            | ws :: _, ns :: _ =>
              if d.tFed ∧ r.st = [] then s
              else
                let ts := r.st.headD []
                let int := d.intOnly
                let good := ws.all (fun l => l.all (El.ok d.w.fam int)) && ns.all (fun l => l.all (El.ok d.n.fam int)) &&
                  (!d.tFed || ts.all (fun l => l.all (El.ok d.t.fam false)))
                if !good then s.seqFault g r d 0x52
                else
                  let cs := t.cells d r.base (r.rows d) ws ns ts r.j
                  let s := s.updTile g (fun T => { T with triad := ((T.triad.apply r d cs).nextStep r).endPass r d, steps := T.steps + 1 })
                  let s := if d.cls ≤ 4 ∧ T.lvl = 0 then s.bumpFleet g 15 1 else s
                  (s.progressAt g).stir g
            | _, _ => s)

/-- STREAM_RESULT_TOKEN (R71): the oldest waiting result token leaves on its channel once the arc takes it. -/
def execStreamResultToken (s : State) : Host.Outcome State Fault Refusal :=
  .next (let g := s.ev.g
    match (s.tile g).triad.out, s.regOf g with
    | (p, c, ch, k) :: _, some (i, r) =>
      let drop (s : State) : State := s.updTriad g (fun t => { t with out := t.out.tail })
      if !r.live then s
      else
        (match ((s.ctx g p c).chan ch).arc with
         | none => drop s
         | some a =>
           match NMap.find r.arcs a with
           | none => drop s
           | some x =>
             if s.room r x ∧ (NMap.get r.wires a []).all (fun w => w.stage != 0) ∧ !s.shut (r.tileOf x.dteam) x then
               ((drop s).updReg i (fun r => { r with wires := NMap.set r.wires a (NMap.get r.wires a [] ++ [⟨x.slot, k, 1, 0⟩]) })).stir g
             else s)
    | _, _ => s)

/-- The bank a contraction leaves (R278): filled, with its epilogue and scales. -/
def Triad.fill (t : Triad) (d : Desc) (sw sn : Lane) : Triad :=
  if d.stream then t else t.setBank d.bank (fun b => { b with state := 1, int := d.intOnly, mode := d.mode, epi := some (d, sw, sn), oth := d.oth })

/-- CONTRACTION_COMPLETE (R278). -/
def execContractionComplete (s : State) : Host.Outcome State Fault Refusal :=
  .next (let g := s.ev.g
    let t := (s.tile g).triad
    match t.runs.find? (fun r => match r.ent.op with | .triad d _ _ => decide (d.total ≤ r.j) | _ => false) with
    | none => s
    | some r =>
      match r.ent.op with
      | .triad d sw sn =>
        if !s.liveAt g ∨ (d.stream ∧ t.waiting) then s
        else ((s.updTriad g (fun t => (t.endRun r.ent.num).fill d sw sn)).seqDone g r.ent).bumpFleet g 8 1
      | _ => s)

/-! Drains (R88, R89, R282). -/

/-- The sequencer writes vault bytes (R88, R127): a set of writes of the page kind of the region's grant, one of each 8-byte word (R117). -/
def State.drainWrite (s : State) (g pa n v : Nat) : State :=
  let (inst, kind) : Nat × Nat := match s.regOf g with | some (i, r) => (i, r.vkind) | none => (0, 1)
  (cuts n pa n 0).foldl (fun s q =>
    let a := pa + q.1
    let x := v / 256 ^ q.1 % 256 ^ q.2
    (if kind = 1 ∨ kind = 2 then s.postWrite inst 0 (.seq g) (kind == 2) none a q.2 x
     else s.writePa a q.2 (s.kept (redirect s.migs a) q.2 x)).afterWrite a) s

/-- Write `bits` bits of an output element, the rest of the byte kept. -/
def State.writeBits (s : State) (g : Nat) (vault : Bool) (pos bits v : Nat) : State :=
  let a := pos / 8
  let n := (bits + 7) / 8
  let sh := pos % 8
  let mk (old : Nat) : Nat := old - old / 2 ^ sh % 2 ^ bits * 2 ^ sh + v % 2 ^ bits * 2 ^ sh
  if vault then let pa := vaultAddr (vaultOfTile g) + a; s.drainWrite g pa n (mk (s.readPa pa n))
  else s.writeSp g a n (mk (s.readSp g a n))

/-- The block word of every block that an element touches (R55, R88). Of the writers of block words that R55 names, the conversion store has no
instruction in the opcode table, and the model has none (DESIGN CHOICE, log entry 63). -/
def State.markBlock (s : State) (g : Nat) (vault : Bool) (pos bits bw : Nat) : State :=
  let b := pos / 512
  (List.range ((pos + bits - 1) / 512 + 1 - b)).foldl (fun s k =>
    if vault then s.setMetaPa (vaultAddr (vaultOfTile g) + 64 * (b + k)) bw else s.setMetaSp g (64 * (b + k)) bw) s

/-- The FP32 value of an accumulator after scales and bias (R88). -/
def Triad.epiVal (t : Triad) (b : Nat) (d : Desc) (sw sn : Lane) (m n : Nat) : Lane :=
  let acc : Lane := NMap.get t.acc (1024 * b + 32 * m + n) 0
  let x : FVal := if (t.bank b).int then .fin (decide (acc.toInt < 0)) acc.toInt.natAbs 1 else val32 acc
  let one : Lane := 0x3F800000
  let x := if d.e 13 13 = 1 then x.mul (val32 (NMap.get t.rs m one)) else x
  let x := if d.e 14 14 = 1 then x.mul (val32 (NMap.get t.cs n one)) else x
  let x := if d.cls = 4 then x else (x.mul (val32 sw)).mul (val32 sn)
  enc32 (if d.e 15 15 = 1 then x.add (val32 (NMap.get t.bias (if d.e 16 16 = 1 then m else n) 0)) else x)

/-- The function descriptor of a drain's activation: literal 63 of the LUT element's active plane (R282). -/
def State.actWord (s : State) (g : Nat) (d : Desc) : Elem × Word :=
  let el := s.elem g ((s.tile g).phys (24 + d.e 19 18))
  (el, NMap.get (NMap.get el.planes el.apl Plane.empty).lits 63 0)

/-- One random lane of the tile's generator (R61, R62). -/
def State.randLane (s : State) (g : Nat) : Nat × State :=
  let t := s.tile g
  ((mix (t.rngSeed ^^^ t.rngCtr)).toNat / 2 ^ 32, s.updTile g (fun t => { t with rngCtr := t.rngCtr + 1 }))

/-- The output value of an element (R88): its bits, and a random lane taken. -/
def State.drainVal (s : State) (g b : Nat) (d : Desc) (sw sn : Lane) (m n : Nat) : Nat × State :=
  let y := (s.tile g).triad.epiVal b d sw sn m n
  let (el, w) := s.actWord g d
  let y := if d.e 17 17 = 1 then lutEv el.lut y w else y
  let (u, s) := if d.e 10 8 = 5 then s.randLane g else (0, s)
  ((encodeFmt (d.e 7 0) (Rnd.ofCode (d.e 10 8) u) (Sat.ofCode (d.e 12 11)) (val32 y)).1, s)

/-- Write an output value at a position in bits, with the block words it touches (R88, R89). -/
def State.drainPut (s : State) (g : Nat) (d : Desc) (pos v : Nat) : State :=
  let bits := fmtBits (d.e 7 0)
  let vault : Bool := d.e 28 28 == 1
  (s.writeBits g vault pos bits v).markBlock g vault pos bits (d.e 7 0 * 256 + 0x80)

/-- Output goes to a vault that is not ready (R410). -/
def State.outDead (s : State) (g : Nat) (d : Desc) : Bool := d.e 28 28 == 1 && !s.vaultUp g

/-- The completion of a drain is a release (R127): of its scratchpad writes at tile scope, where they are visible already, and of its vault
writes at die scope; a wait on tl of the issuing context observes it. -/
def State.drainRelease (s : State) (g : Nat) (e : QEnt) : State :=
  s.releaseAt (.seq g) (fun x => x.who == .seq g && !x.un) 1 [.tl g e.p e.c]

/-- The elements of a drain group (R88, R90): four rows of mode MN, or the one row of modes M and N. -/
def Desc.group (d : Desc) (j : Nat) : List (Nat × Nat) :=
  match d.mode with
  | 0 => (((List.range 4).map (4 * j + ·)).filter (· < d.mrows)).flatMap (fun m => (List.range d.ncols).map (fun n => (m, n)))
  | 1 => if j = 0 then (List.range d.mrows).map (fun m => (m, 0)) else []
  | _ => if j = 0 then (List.range d.ncols).map (fun n => (0, n)) else []

/-- Output positions of an element. -/
def Desc.places (d : Desc) (m n : Nat) : List Nat :=
  (d.outBit false m n).toNat :: (if d.e 20 20 = 1 ∧ d.mode = 0 then [(d.outBit true m n).toNat] else [])

/-- The next element of a drain, or its stashed copy, is written (R88, R89, R117): one element a step. -/
def State.drainNext (s : State) (g b : Nat) (d : Desc) (sw sn : Lane) (r : Run) : State :=
  let l := d.group r.j
  let (m, n) := l.getD r.fw (0, 0)
  let put (f : Run → Run) (s : State) : State :=
    (s.updTriad g (fun t => { t with runs := t.runs.map (fun x => if x.ent.num = r.ent.num ∧ x.rag.isNone then f x else x) })).stir g
  let next (x : Run) : Run := if r.fw + 1 < l.length then { x with fw := x.fw + 1, acc := [] } else { x with j := x.j + 1, fw := 0, acc := [] }
  match r.acc, d.places m n with
  | v :: _, _ :: p :: _ => put next (s.drainPut g d p v.toNat)
  | _, p :: rest =>
    let (v, s) := s.drainVal g b d sw sn m n
    put (if rest = [] then next else fun x => { x with acc := [BitVec.ofNat 32 v] }) (s.drainPut g d p v)
  | _, [] => put next s

/-- DRAIN_COMPLETE (R88, R90, R282): the next element of the running drain is written; when none is left the drain completes. A vault that is not
ready ends it with an error token of cause 0x21 (R410; DESIGN CHOICE, log entry 35). -/
def execDrainComplete (s : State) : Host.Outcome State Fault Refusal :=
  .next (let g := s.ev.g
    let t := (s.tile g).triad
    match t.runs.find? (fun r => match r.ent.op with | .drain _ => true | _ => false) with
    | none => s
    | some r =>
      match r.ent.op with
      | .drain b =>
        let fin (s : State) : State := ((s.updTriad g (·.endRun r.ent.num)).drainRelease g r.ent).seqDone g r.ent
        if !s.liveAt g then s
        else
          (match (t.bank b).epi with
           | none => fin s
           | some (d, sw, sn) =>
             let w := (s.actWord g d).2
             if r.j = 0 ∧ r.fw = 0 ∧ r.acc = [] ∧ d.e 17 17 = 1 ∧ !lutOk true w then fin (s.seqError g r.ent 0x40 (bitsOf w 31 0) (t.bank b).oth 0)
             else if d.group r.j = [] then fin s
             else if s.outDead g d then fin (s.seqError g r.ent 0x21 d.obase (t.bank b).oth 0)
             else s.drainNext g b d sw sn r)
      | _ => s)

/-! thold, tzero, tscl (R281, R283). -/

/-- The cells of a descriptor's extents. -/
def Desc.cellsOf (d : Desc) : List (Nat × Nat) := (List.range d.mrows).flatMap (fun m => (List.range d.ncols).map (fun n => (m, n)))
/-- Where the T slice of hold entry `h` of a cell begins (R281). -/
def Desc.holdAddr (d : Desc) (h : Nat) (x : Nat × Nat) : Int :=
  (d.t.off : Int) + (x.1 : Int) * d.t.sm + (x.2 : Int) * d.t.sn + (h : Int) * d.t.si

/-- Load hold entry `h` of every cell of the extents (R281): the engine, or none where a block word fails R83. -/
def State.holdEntry (s : State) (g : Nat) (d : Desc) (h : Nat) : Option (NMap (List El)) :=
  let l := d.cellsOf.map (fun x => (8 * (32 * x.1 + x.2) + h, s.slice g d.t (d.holdAddr h x) d.tb (classOf d.cls).2.2))
  if l.all (fun x => x.2.all (El.ok d.t.fam false)) then some (l.foldl (fun m x => NMap.set m x.1 x.2) (s.tile g).triad.hold) else none

/-- How a load of the hold files ends. -/
inductive Held where
  | all
  /-- A format fault at an entry, or a vault that is not ready. -/
  | fault (h cause : Nat)
  /-- A block in error (R408). -/
  | bad (pa : Nat)
  deriving DecidableEq, Repr

/-- Load hold entries in order (R281), up to a failure; `k` slices have been read before. -/
def State.holdAll (s : State) (g : Nat) (d : Desc) : Nat → List Nat → State × Held
  | _, [] => (s, .all)
  | k, h :: l =>
    let at_ := d.t.vaultAt g (d.cellsOf.map (d.holdAddr h))
    let n := d.t.bytes d.tb (classOf d.cls).2.2
    if at_ ≠ [] ∧ !s.vaultUp g then (s, .fault h 0x21)
    else
      match s.foundBad n at_ k with
      | some pa => (s, .bad pa)
      | none =>
        match s.holdEntry g d h with
        | some m => ((s.updTriad g (fun t => { t with hold := m })).feederRead g n at_).holdAll g d (k + at_.length) l
        | none => (s, .fault h 0x52)

/-- A vector `tscl` reads (R283). -/
def State.vecAt (s : State) (g off : Nat) : NMap Lane := (List.range 32).map (fun k => (k, BitVec.ofNat 32 (s.readSp g (off + 4 * k) 4)))

/-- Clear a bank (R86, R283). -/
def Triad.clear (t : Triad) (b : Nat) : Triad :=
  ({ t with acc := t.acc.filter (fun x => x.1 / 1024 != b) } : Triad).setBank b (fun k => { k with state := 0, sat := false, pcause := 0 })

/-- SEQUENCER_OPERATION_COMPLETE (R280): the running `thold`, `tzero` or `tscl` has its effect and completes. -/
def execSequencerOperationComplete (s : State) : Host.Outcome State Fault Refusal :=
  .next (let g := s.ev.g
    let t := (s.tile g).triad
    match t.runs.find? (fun r => match r.ent.op with | .hold _ => true | .zero _ => true | .scl _ _ => true | _ => false) with
    | none => s
    | some r =>
      if !s.liveAt g then s
      else
        let fin (s : State) : State := (s.updTriad g (·.endRun r.ent.num)).seqDone g r.ent
        match r.ent.op with
        | .hold d =>
          (match s.holdAll g d 0 (if d.tone then [] else List.range d.inner) with
           | (s, .all) => fin s
           | (s, .bad pa) => s.arrayError g pa
           | (s, .fault h cause) =>
             let s := s.seqError g r.ent cause h d.oth h
             let s := if cause = 0x21 then s else s.bumpFleet g 9 1
             fin (s.deferTrap g r.ent.p r.ent.c cause (BitVec.ofNat 64 h)))
        | .zero b => fin (s.updTriad g (·.clear b))
        | .scl off v =>
          let m := s.vecAt g off
          fin (s.updTriad g (fun t => if v = 0 then { t with rs := m } else if v = 1 then { t with cs := m } else { t with bias := m }))
        | _ => s)

/-- TACC_READ_SERVE (R87, R284): the accumulator node answers with the values after the last accepted step. -/
def execTaccReadServe (s : State) : Host.Outcome State Fault Refusal :=
  .next (match s.liveReq s.ev.id with
    | none => s
    | some r =>
      match r.op, r.who with
      | .tacc b m n, .ctx g p _ =>
        if r.performed then s
        else
          let t := (s.tile g).triad
          if (t.bank b).state = 2 then
            let pay := errPayload 0x55 g ((s.tile g).role p) b
            (s.toSink g (Tok.error r.thread r.iter 0 pay)).finish r.id pay
          else
            let acc : Lane := NMap.get t.acc (1024 * b + 32 * m + n) 0
            s.finish r.id (if (t.bank b).int then acc.signExtend 64 else acc.setWidth 64)
      | _, _ => s)

/-! Ragged products (R91, R288). -/

/-- Update a binding. -/
def Triad.setRag (t : Triad) (b : Nat) (f : Rag → Rag) : Triad :=
  { t with rags := t.rags.map (fun q => if q.1 = b then (q.1, f q.2) else q) }

/-- The binding of a bank with the first word on its channel. -/
def State.ragHead (s : State) (g b : Nat) : Option (Rag × Tok) :=
  match NMap.find (s.tile g).triad.rags b with
  | none => none
  | some r =>
    match ((s.ctx g r.p r.c).chan r.ch).buf with
    | [] => none
    | k :: _ => if s.liveAt g then some (r, k) else none

/-- RAGGED_ROW_TOKEN (R91, R288): the first word of the bound channel is a row, a stray, or one row too many. A word of the thread that is neither a
data scalar nor a control token is discarded and counted stray, and rows and end tokens that come while the bank is poisoned stay in the channel
(DESIGN CHOICE, log entry 69). -/
def execRaggedRowToken (s : State) : Host.Outcome State Fault Refusal :=
  .next (let g := s.ev.g
    let b := s.ev.e
    match s.ragHead g b with
    | none => s
    | some (r, k) =>
      let take (s : State) : State := s.updCtx g r.p r.c (fun x => x.pop r.ch)
      let t := (s.tile g).triad
      if k.thread ≠ r.thread ∨ (k.kind ≠ .scalar ∧ k.kind ≠ .ctl) then (take s).strayAt g 1
      else if k.kind = .ctl ∨ r.ended ∨ (t.bank b).state = 2 then s
      else if r.d.mrows ≤ r.rows.length then
        match (t.runs ++ t.broke).find? (fun x => match x.rag with | some q => q.1 == b | none => false) with
        | some x => ((take s).updTriad g (fun t => { t with broke := t.broke.filter (· != x) })).seqFault g x r.d 0x51
        | none => (take s).seqFault g { Run.new r.entry r.high with rag := some (b, r.applied, 0) } r.d 0x51
      else (take s).updTriad g (·.setRag b (fun r => { r with rows := r.rows ++ [(k.pay.toNat % 2 ^ 20, k.iter)], isOpen := true })))

/-- RAGGED_PASS (R91): rows wait and the array is free. -/
def execRaggedPass (s : State) : Host.Outcome State Fault Refusal :=
  .next (let g := s.ev.g
    let b := s.ev.e
    let t := (s.tile g).triad
    match NMap.find t.rags b with
    | none => s
    | some r =>
      let busy : Bool := t.broke != [] && (!r.high || !t.clearOf r.entry.op)
      if !s.liveAt g ∨ r.rows.length ≤ r.applied ∨ !t.fitsNow r.high r.entry.op ∨ busy ∨ (t.bank b).state = 2 then s
      else
        s.updTriad g (fun t => { t.claim r.entry.op with
          runs := t.runs ++ [{ Run.new r.entry r.high with rag := some (b, r.applied, r.rows.length - r.applied) }] }))

/-- RAGGED_END_TOKEN (R91, R85): the product's rows have all come; an end token before its first row raises stream-short (DEDUCED, log entry 37). -/
def execRaggedEndToken (s : State) : Host.Outcome State Fault Refusal :=
  .next (let g := s.ev.g
    let b := s.ev.e
    match s.ragHead g b with
    | none => s
    | some (r, k) =>
      if k.thread = r.thread ∧ k.kind = .ctl ∧ !r.ended ∧ ((s.tile g).triad.bank b).state ≠ 2 then
        let s := s.updCtx g r.p r.c (fun x => x.pop r.ch)
        if r.rows = [] then s.seqFault g { Run.new r.entry r.high with rag := some (b, 0, 0) } r.d 0x50
        else s.updTriad g (·.setRag b (fun r => { r with ended := true, isOpen := true }))
      else s)

/-- Where a row of a closing product begins, in bits, where the row with its width lies in its side or the grant (R91). -/
def Desc.rowAt (d : Desc) (g : Region) (row : Nat) : Int × Bool :=
  let p : Int := ((d.obase : Int) + (row : Int) * d.ostride) * 8
  (p, g.within (d.e 28 28 == 1) d.obase (p / 8) ((p + ((d.ncols * fmtBits (d.e 7 0) : Nat) : Int) + 7) / 8))

/-- The next element of a closing product is drained to its row (R88, R91), or its row is reported and passed over: the error token of cause 0x21
carries thread `oth` and iteration 0, for R426 has no line for it (DESIGN CHOICE, log entry 69). -/
def State.closeNext (s : State) (g b : Nat) (reg : Region) (r : Rag) : State :=
  let d := r.d
  let m := r.out / d.ncols
  let n := r.out % d.ncols
  let (p, ok) := d.rowAt reg (r.rows.getD m (0, 0)).2
  let goTo (k : Nat) (s : State) : State := (s.updTriad g (·.setRag b (fun r => { r with out := k }))).stir g
  if !ok ∨ s.outDead g d then goTo ((m + 1) * d.ncols) (s.seqError g r.entry 0x21 (BitVec.ofInt 32 (p / 8)).toNat d.oth 0)
  else
    let (v, s) := s.drainVal g b d r.sw r.sn m n
    goTo (r.out + 1) (s.drainPut g d (p + ((n * fmtBits (d.e 7 0) : Nat) : Int)).toNat v)

/-- RAGGED_CLOSE (R91, R288): once the end token has come and every row is applied, the rows are drained, an element a step, each group of 4 rows
beside what may run with a drain (R90, R280); then the bank is cleared and the count word is sent. -/
def execRaggedClose (s : State) : Host.Outcome State Fault Refusal :=
  .next (let g := s.ev.g
    let b := s.ev.e
    match NMap.find (s.tile g).triad.rags b, s.regOf g with
    | some r, some (_, reg) =>
      let d := r.d
      let t := (s.tile g).triad
      let running : Bool := (t.runs ++ t.broke).any (fun x => match x.rag with | some q => q.1 == b | none => false)
      let total := r.rows.length * d.ncols
      let others := ({ t with rags := t.rags.filter (fun x => x.1 != b) } : Triad).active r.high (.drain b)
      let held : Bool := decide (r.out < total) && r.interruptible && !fitsBeside (.drain b) others
      if !reg.live ∨ !r.ended ∨ r.applied < r.rows.length ∨ running ∨ held then s
      else
        let w := (s.actWord g d).2
        if r.out = 0 ∧ total ≠ 0 ∧ d.e 17 17 = 1 ∧ !lutOk true w then
          (s.seqError g r.entry 0x40 (bitsOf w 31 0) d.oth 0).updTriad g (·.setRag b (fun r => { r with out := total }))
        else if r.out < total then s.closeNext g b reg r
        else
          let s := s.releaseAt (.seq g) (fun x => x.who == .seq g && !x.un) 1 []
          let s := s.updTriad g (fun t => (t.clear b).setRag b (fun r =>
            { r with rows := [], applied := 0, out := 0, ended := false, isOpen := false, prod := r.prod + 1 }))
          let s := if d.och ≠ 0 then s.updTriad g (fun t => { t with
              out := t.out ++ [(r.p, r.c, d.och, Tok.scalar r.thread (r.prod % 2 ^ 20) (BitVec.ofNat 64 r.rows.length))] }) else s
          s.wakeTile g
    | _, _ => s)

/-! tabort (R287). -/

/-- TABORT_RUN (R287): the first `tabort` of a queue ends every earlier operation of that queue. -/
def execTabortRun (s : State) : Host.Outcome State Fault Refusal :=
  .next (let g := s.ev.g
    let high := s.ev.flag
    let t := (s.tile g).triad
    let q := if high then t.hiQ else t.loQ
    match q.find? (fun e => e.op == .abort) with
    | none => s
    | some a =>
      let mine := (t.runs ++ t.broke).filter (fun r => r.high == high)
      if !s.liveAt g ∨ !(t.runs.all (fun r => r.high != high || r.interruptible)) ∨
          !(t.rags.all (fun x => x.2.high != high || x.2.interruptible)) then s
      else
        let gone := q.filter (fun e => decide (e.num < a.num))
        let rest := q.filter (fun e => decide (a.num < e.num))
        let banks := mine.filterMap (fun r => match r.ent.op with
          | .triad d _ _ => if d.stream then none else some d.bank
          | .drain b => some b
          | _ => none) ++ (t.rags.filter (fun x => x.2.high == high && x.2.isOpen)).map (·.1)
        let bound := t.rags.filter (fun x => x.2.high == high)
        let s := s.updTriad g (fun t =>
          let t := if high then { t with hiQ := rest } else { t with loQ := rest }
          let t := { t with runs := t.runs.filter (fun r => r.high != high), rags := t.rags.filter (fun x => x.2.high != high),
                            broke := t.broke.filter (fun r => r.high != high) }
          banks.foldl (fun t b => t.setBank b (fun k => { k with state := 2, pcause := 0x56 })) t)
        let s := bound.foldl (fun s x => s.updCtx g x.2.p x.2.c (fun y => { y with vc := NMap.set y.vc x.2.ch { y.chan x.2.ch with ragged := false } })) s
        let ends := (mine.filter (fun r => r.rag.isNone)).map (·.ent) ++ gone ++ [a]
        ends.foldl (fun s e => s.seqDone g e) s)

end Sys2Proof.Machine
end

