-- ==== Sys2Proof/Machine/Home.lean ====
section
/-! DEFINITION. The home vault controller: structure words and the deferred-reader pool, the combine store, barriers
(R106 to R115, R262, R263, R265). -/

namespace Sys2Proof.Machine

/-- Presence of a structure word (R106): 0 empty, 1 full, 2 deferred, 3 in error. -/
def State.presence (s : State) (pa : Nat) : Nat := s.metaAt pa / 4 ^ (pa / 8 % 8) % 4
/-- Set the presence of a structure word. -/
def State.setPresence (s : State) (pa v : Nat) : State :=
  let m := s.metaAt pa
  let w := 4 ^ (pa / 8 % 8)
  s.setMetaAt pa (m - m / w % 4 * w + v * w)

/-- The readers of a word, oldest first (R108). -/
def Vault.readers (v : Vault) (pa : Nat) : List Reader := v.pool.filter (fun q => q.pa == pa)

/-- A deferred word is sound (R106), as an access under a key slot reads it: its head and its tail name records that the pool holds for the word,
and it is zero above them. -/
def State.deferredOk (s : State) (v pa : Nat) (slot : Option Nat) : Bool :=
  let w := s.readUnder pa 8 slot
  let names (k : Nat) : Bool := ((s.vault v).readers pa).any (fun q => q.idx == k)
  names (w % 2 ^ 16) && names (w / 2 ^ 16 % 2 ^ 16) && w / 2 ^ 32 == 0

/-- The lowest free record of a vault's pool, with held answers counted (R108, R407) (DESIGN CHOICE, log entry 22). -/
def Vault.freeRec (v : Vault) : Option Nat :=
  if 65535 ≤ v.pool.length + v.answers.length then none
  else (List.range (v.pool.length + 1)).find? (fun k => !v.pool.any (fun q => q.idx == k))

/-- Answer every listed reader of a word in list order and free their records (R107). -/
def State.answerReaders (s : State) (v pa : Nat) (val : Word) : State :=
  let l := (s.vault v).readers pa
  let s := s.updVault v (fun x => { x with pool := x.pool.filter (fun q => q.pa != pa) })
  l.foldl (fun s q => s.answer q.req pa val) s

/-- A structure operation is performed (R107): the request `r` at the word `pa` of vault `v`. An `srd` that finds a value is an acquire and
a `swr` a release (R123); one that is deferred is not performed yet. -/
def State.structOp (s : State) (r : Req) (v pa : Nat) (p : Piece) : State :=
  let st := s.presence pa
  let fin (s : State) (got res : Nat) : State :=
    (s.updReq r.id (fun q => { q with pieces := [{ p with done := true, got := got }] })).performedNow r.id (BitVec.ofNat 64 res)
  match r.op with
  | .srd =>
    if st = 1 then let x := s.readUnder pa 8 p.key; fin (s.acquireBy r (.loc pa)) x x
    else
      match (s.vault v).freeRec with
      | none => s.refuse r 0x2A
      | some k =>
        let s := s.updVault v (fun x => { x with pool := x.pool ++ [⟨k, r.inst, pa, r.id⟩] })
        let s := relinkWord ((s.setPresence pa 2).keyTag pa 8 p.key) v pa
        (s.updReq r.id (fun q => { q with phase := .accepted, late := true })).settle r.id
  | .swr =>
    if st = 1 then s.refuse r 0x28
    else
      let s := (((s.writeUnder pa 8 (s.kept pa 8 p.val) p.key).setPresence pa 1).releaseBy r (.loc pa)).afterWrite pa
      let s := if st = 2 then s.answerReaders v pa (BitVec.ofNat 64 p.val) else s
      fin s 0 0
  | .sclr =>
    if st = 2 then s.refuse r 0x29 else fin (if st = 1 then s.setPresence pa 0 else s) 0 0
  | .sprb => fin s (if st = 1 then s.readUnder pa 8 p.key else 0) st
  | _ => s

/-- STRUCT_OP_AT_HOME (R107): one structure operation at its home. `flag`: the word cannot be corrected. -/
def execStructOpAtHome (s : State) : Host.Outcome State Fault Refusal :=
  .next (match s.liveReq s.ev.id with
    | none => s
    | some r =>
      match r.op, r.pieces with
      | .srd, p :: _ | .swr, p :: _ | .sclr, p :: _ | .sprb, p :: _ =>
        (match p.place with
         | .phys a =>
           if !s.mayPerform r p then s
           else
             let pa := redirect s.migs a
             let v := homeOf pa
             let st := s.presence pa
             if s.ev.flag ∨ s.badBlock p.place ∨ st = 3 ∨ (st = 2 ∧ !s.deferredOk v pa p.key) then s.dataError r a
             else s.structOp r v pa p
         | _ => s)
      | _, _ => s)

/-! The combine store (R109 to R111). -/

/-- One combine step on values of a type (R109, R110): 0 i32, 1 u32, 2 i64, 3 u64, 4 f32. -/
def combine (op ty a b : Nat) : Nat :=
  if ty = 4 then
    let x : Lane := BitVec.ofNat 32 a
    let y : Lane := BitVec.ofNat 32 b
    (match val32 x, val32 y with
     | .nan, _ => 0x7FC00000
     | _, .nan => 0x7FC00000
     | _, _ => if op = 0 then (f32add x y).toNat else if op = 1 then (f32min x y).toNat else (f32max x y).toNat)
  else
    let n := if ty < 2 then 32 else 64
    let a := a % 2 ^ n
    let b := b % 2 ^ n
    let le : Bool := if ty % 2 = 0 then decide (sgn n a ≤ sgn n b) else decide (a ≤ b)
    match op with
    | 0 => (a + b) % 2 ^ n
    | 1 => if le then a else b
    | 2 => if le then b else a
    | 3 => Nat.land a b
    | 4 => Nat.lor a b
    | _ => Nat.xor a b

/-- A contribution's value as it is merged (R109): a NaN of type f32 makes every result the canonical NaN. -/
def contribVal (cc : Word) (x : Nat) : Nat :=
  if bitsOf cc 6 4 = 4 then (match val32 (BitVec.ofNat 32 x) with | .nan => 0x7FC00000 | _ => x) else x

/-- The result of an entry (R110, R111): the running values, or the sum in rank order. -/
def Cmb.result (k : Cmb) : List Nat :=
  if k.fixed then
    match k.ranks with
    | [] => []
    | (_, l) :: r => r.foldl (fun acc q => acc.zipWith (combine 0 4) q.2) l
  else k.vals

/-- Bytes of a value of a type. -/
def typeBytes (ty : Nat) : Nat := if ty = 2 ∨ ty = 3 then 8 else 4

/-- Write an entry's values where its lanes lie, merged into memory or in its place (R110). -/
def State.cmbWrite (s : State) (k : Cmb) : List Nat → List Nat → State
  | x :: l, a :: places =>
    let ty := bitsOf k.cc 6 4
    let n := typeBytes ty
    let v := if bitOf k.cc 25 then x else combine (bitsOf k.cc 3 0) ty (s.readUnder a n k.key) x
    State.cmbWrite ((s.writeUnder a n (s.kept a n v) k.key).afterWrite a) k l places
  | _, _ => s

/-- The result is sent to where the first contribution names (R110, R262). -/
def State.cmbSend (s : State) (v : Nat) (k : Cmb) (d : Dest) : State :=
  let vals := k.result
  let tok : Tok := if k.lanes = 0 then Tok.scalar d.thread d.iter (BitVec.ofNat 64 (vals.headD 0))
    else Tok.vec d.thread d.iter (vals.map (BitVec.ofNat 32)) []
  let tenant := match NMap.find s.regions d.inst with | some q => q.tenant | none => 0
  let id := s.nextId
  let s := s.addReq { Req.blank 0 d.inst tenant d.who (.emit tok) with
    phase := .done, counted := true, late := true, d := d.d, e := d.e, t := d.t, lit := d.lit, thread := d.thread, iter := d.iter,
    tb := d.tb, dup := d.dup }
  match NMap.find s.regions d.inst with
  | some q => if q.live then s else s.updVault v (fun x => { x with answers := x.answers ++ [(id, 0)] })
  | none => s

/-- Release an entry whose count is met (R110): write, then send, then free. -/
def State.cmbRelease (s : State) (v : Nat) (k : Cmb) : State :=
  let s := if bitOf k.cc 24 then s.cmbWrite k k.result k.lanesAt else s
  let s := match k.dest with | some d => s.cmbSend v k d | none => s
  s.updVault v (fun x => { x with cmbs := x.cmbs.filter (fun q => !(q.inst == k.inst && q.place == k.place)) })

/-- Parts of the control word every contribution of an entry shares (R109): operation, type, count and release. -/
def ccKey (cc : Word) : Nat := bitsOf cc 26 0

/-- Where the first contribution asks the result to be sent. -/
def Req.cmbDest (r : Req) (cc : Word) : Option Dest :=
  if bitOf cc 26 then
    some { who := r.who, inst := r.inst, d := (match r.who with | .ctx _ _ _ => 24 + bitsOf cc 33 32 | _ => r.d), e := r.e, t := r.t,
           lit := r.lit, thread := r.thread, iter := r.iter, n := r.n, tb := r.tb, dup := r.dup }
  else none

/-- A contribution meets the store (R109): merged, refused, or queued where no entry is free (DEDUCED, log entry 23). -/
def State.contribute (s : State) (r : Req) (fixed : Bool) (cc : Word) (v pa : Nat) (fromQ : Bool) : State :=
  let vals := r.pieces.map (fun p => contribVal cc p.val)
  let lanes := if r.vec then vals.length else 0
  let rank := bitsOf cc 31 28
  let count := bitsOf cc 23 8
  let V := s.vault v
  let deq (s : State) : State := if fromQ then s.updVault v (fun x => { x with cmbQ := x.cmbQ.tail }) else s
  let merged (s : State) (first : Bool) : State :=
    let s := s.updReq r.id (fun q => { q with pieces := q.pieces.map (fun p => { p with done := true }) })
    let s := s.performedNow r.id 0
    match r.who with
    | .elem _ _ => if first && bitOf cc 26 then s.dropReq r.id else s
    | _ => s
  match V.cmbs.find? (fun k => k.inst == r.inst && k.place == pa) with
  | some k =>
    if ccKey k.cc ≠ ccKey cc ∨ k.lanes ≠ lanes ∨ k.fixed ≠ fixed then (deq s).refuse r 0x2B
    else if fixed ∧ count ≤ rank then (deq s).refuse r 0x2D
    else if fixed ∧ (NMap.find k.ranks rank).isSome then (deq s).refuse r 0x2C
    else
      let k := { k with
        seen := k.seen + 1
        vals := if fixed then k.vals else k.vals.zipWith (combine (bitsOf cc 3 0) (bitsOf cc 6 4)) vals
        ranks := if fixed then NMap.set k.ranks rank vals else k.ranks }
      let s := (deq s).updVault v (fun x => { x with cmbs := x.cmbs.map (fun q => if q.inst == k.inst && q.place == pa then k else q) })
      let s := merged s false
      if k.seen = count then s.cmbRelease v k else s
  | none =>
    if fixed ∧ count ≤ rank then (deq s).refuse r 0x2D
    else if 4096 ≤ V.cmbs.length ∨ (!fromQ ∧ V.cmbQ ≠ []) then
      if fromQ then s else s.updVault v (fun x => { x with cmbQ := x.cmbQ ++ [r.id] })
    else
      let k : Cmb := {
        inst := r.inst, place := pa, fixed := fixed, cc := cc, lanes := lanes, seen := 1,
        lanesAt := r.pieces.map (fun p => redirect s.migs p.place.addr), key := r.pieces.head?.bind (·.key),
        vals := if fixed then [] else vals, ranks := if fixed then [(rank, vals)] else [], dest := r.cmbDest cc }
      let s := (deq s).updVault v (fun x => { x with cmbs := x.cmbs ++ [k] })
      let s := merged s true
      if count = 1 then s.cmbRelease v k else s

/-- COMBINE_CONTRIBUTION (R109). `flag`: the word cannot be corrected. -/
def execCombineContribution (s : State) : Host.Outcome State Fault Refusal :=
  .next (match s.liveReq s.ev.id with
    | none => s
    | some r =>
      match r.op, r.pieces with
      | .cmb fixed cc, p :: _ =>
        (match p.place with
         | .phys a =>
           let pa := redirect s.migs a
           let v := homeOf pa
           if !s.mayPerform r p ∨ (s.vault v).cmbQ.contains r.id then s
           else if s.ev.flag ∨ s.badBlock p.place then s.dataError r a
           else s.contribute r fixed cc v pa false
         | _ => s)
      | _, _ => s)

/-- COMBINE_QUEUE_ADMIT (R109): the oldest waiting contribution of a vault opens an entry, or merges into one. One whose address has moved
to another home meanwhile goes there (R400). -/
def execCombineQueueAdmit (s : State) : Host.Outcome State Fault Refusal :=
  .next (let v := s.ev.e
    match (s.vault v).cmbQ with
    | [] => s
    | id :: _ =>
      match s.req id with
      | none => s.updVault v (fun x => { x with cmbQ := x.cmbQ.tail })
      | some r =>
        match r.op, r.pieces with
        | .cmb fixed cc, p :: _ =>
          (match p.place with
           | .phys a =>
             if homeOf (redirect s.migs a) ≠ v then s.updVault v (fun x => { x with cmbQ := x.cmbQ.tail })
             else s.contribute r fixed cc v (redirect s.migs a) true
           | _ => s)
        | _, _ => s)

/-! Barriers (R113 to R115). -/

/-- The pending bytes of a barrier as a signed number. -/
def pendOf (w1 : Nat) : Int := sgn 40 w1
/-- The pending bytes keep within 40 bits (R115). -/
def pendOk (x : Int) : Bool := decide (-(2 ^ 39 : Nat) ≤ x) && decide (x ≤ (2 ^ 39 : Nat) - 1)
/-- Write the pending bytes of a barrier. -/
def State.setPend (s : State) (pa : Nat) (w1 : Nat) (x : Int) : State :=
  s.writePa (pa + 8) 8 (w1 / 2 ^ 40 * 2 ^ 40 + (BitVec.ofInt 40 x).toNat)
/-- Set the err bit of a barrier (R115). -/
def State.barErr (s : State) (pa w0 : Nat) : State := s.writePa pa 8 (if w0 / 2 ^ 40 % 2 = 1 then w0 else w0 + 2 ^ 40)

/-- BARRIER_ARRIVAL (R114, R115, R265). `flag`: the object cannot be corrected. -/
def execBarrierArrival (s : State) : Host.Outcome State Fault Refusal :=
  .next (match s.liveReq s.ev.id with
    | none => s
    | some r =>
      match r.op, r.pieces with
      | .bar n, p :: _ =>
        (match p.place with
         | .phys a =>
           if !s.mayPerform r p then s
           else if a % 2 ^ 44 < vaultBase then s.refuse r 0x2E
           else if s.ev.flag ∨ s.badBlock p.place then s.dataError r a
           else
             let w0 := s.readPa a 8
             let w1 := s.readPa (a + 8) 8
             let exp := w0 % 65536
             let arr := w0 / 65536 % 65536
             let x := pendOf w1 + (n : Nat)
             if exp = 0 ∨ arr = exp ∨ !pendOk x then (s.barErr a w0).refuse r 0x2E
             else
               let v := homeOf a
               let s := (s.writePa a 8 (w0 + 65536)).setPend a w1 x
               let s := s.updVault v (fun y => { y with parties := y.parties ++ [⟨a, w0 / 2 ^ 32 % 256, r.id⟩] })
               let s := (s.updReq r.id (fun q => { q with phase := .accepted, late := true })).settle r.id
               let s := s.releaseBy r (.bar a (w0 / 2 ^ 32 % 256))
               (s.tryRelease a).progress r.inst
         | _ => s)
      | _, _ => s)

end Sys2Proof.Machine
end

