-- ==== Sys2Proof/Machine/Translate.lean ====
section
/-! DEFINITION. Translation: page-table walks, page faults, shoot-downs, `xlt`, `win.chk`, `xinv`, `mig` and migration
(R271 to R275, R387 to R400). -/

namespace Sys2Proof.Machine

/-! The page table (R387 to R391). -/

/-- The lowest bit of a level's index (R387). -/
def levelShift : Nat → Nat
  | 1 => 48
  | 2 => 39
  | 3 => 30
  | 4 => 21
  | _ => 12
/-- The index of a level. -/
def levelIdx (va l : Nat) : Nat := va / 2 ^ levelShift l % (if l = 1 then 256 else 512)
/-- Bytes of a page size code (R389). -/
def pageBytes (code : Nat) : Nat := [0x1000, 0x4000, 0x10000, 0x40000, 0x200000, 0x2000000, 0x40000000, 0x400000000].getD code 0x1000
/-- The level that may hold a size code. -/
def sizeLevel (code : Nat) : Nat := if code < 4 then 5 else if code < 6 then 4 else 3

/-- The physical page field of an entry. -/
def ptePa (e : Word) : Nat := bitsOf e 51 12 * 4096
/-- A physical address that a page-table entry may name (R93, R385, R390). -/
def State.mapped (s : State) (pa : Nat) : Bool :=
  paLocalOk (pa % 2 ^ 44) && (decide (pa < 2 ^ 44) || pa / 2 ^ 44 != s.chip)

/-- How a walk ends (R390). -/
inductive Tr where
  | ok (l : Leaf)
  | denied
  | fault (level reason : Nat) (pte : Word)
  /-- An entry lies in a block in error (R408). -/
  | bad (pa : Nat)
  /-- An entry cannot be read: its stack is not ready (R410). -/
  | dead
  deriving DecidableEq, Repr

/-- Permissions needed, as bits rd, wr, img, are held by an entry. -/
def grants (e : Word) (need : Nat) : Bool :=
  (need % 2 == 0 || bitOf e 1) && (need / 2 % 2 == 0 || bitOf e 2) && (need / 4 % 2 == 0 || bitOf e 3)

/-- The end of a walk at a leaf entry (R388 to R390). No window covers an address that is not mapped (R93): a page whose end is not mapped
ends the walk like one whose base is not (DEDUCED, log entry 64). -/
def State.leafEnd (s : State) (tenant va need l at_ : Nat) (e : Word) : Tr :=
  let code := bitsOf e 8 6
  let pa := ptePa e
  if bitsOf e 63 62 ≠ 0 then .fault l 1 e
  else if l ≤ 2 ∨ sizeLevel code ≠ l then .fault l 2 e
  else if pa % pageBytes code ≠ 0 then .fault l 3 e
  else if !s.mapped pa ∨ !s.mapped (pa + pageBytes code - 1) then .fault l 4 e
  else if 4 ≤ bitsOf e 11 9 then .fault l 5 e
  else if !grants e need then .denied
  else .ok ⟨tenant, va / pageBytes code * pageBytes code, pageBytes code, e, at_⟩

/-- Walk from a table of a level down: the end, and the pointers read (R390). The entry of the level that the event's `arc` names cannot be
corrected (R408). -/
def State.walk (s : State) (tenant va need : Nat) : Nat → Nat → Nat → Tr × List Ptr
  | 0, l, _ => (.fault l 2 0, [])
  | fuel + 1, l, tbl =>
    let at_ := tbl + 8 * levelIdx va l
    let e : Word := BitVec.ofNat 64 (s.readPa at_ 8)
    if !s.reachable (redirect s.migs at_) then (.dead, [])
    else if s.bad.contains (redirect s.migs at_ / 64) ∨ s.ev.arc = l then (.bad at_, [])
    else if !bitOf e 0 then (.fault l 0 e, [])
    else if bitsOf e 3 1 ≠ 0 then (s.leafEnd tenant va need l at_ e, [])
    else if bitsOf e 63 52 ≠ 0 ∨ bitsOf e 11 4 ≠ 0 then (.fault l 1 e, [])
    else if 5 ≤ l then (.fault l 2 e, [])
    else if !s.mapped (ptePa e) then (.fault l 4 e, [])
    else
      let (r, ps) := s.walk tenant va need fuel (l + 1) (ptePa e)
      (r, (⟨tenant, l + 1, va / 2 ^ levelShift l, ptePa e⟩ : Ptr) :: ps)

/-- The deepest cached pointer for an address (R392): its level and table. -/
def startOf (ps : List Ptr) (tenant va root : Nat) : Nat × Nat :=
  ps.foldl (fun b p => if p.tenant = tenant ∧ b.1 < p.level ∧ p.idx = va / 2 ^ levelShift (p.level - 1) then (p.level, p.tbl) else b) (1, root)

/-- Set the accessed bit of a leaf, and the dirty bit for a write (R391). -/
def State.markLeaf (s : State) (l : Leaf) (wr : Bool) : Leaf × State :=
  let e := l.pte ||| 0x10 ||| (if wr then 0x20 else 0)
  ({ l with pte := e }, if e = l.pte then s else s.writePa l.pteAt 8 e.toNat)

/-- Translate at a tile's node (R390 to R392): a cached leaf that serves, or a walk. `evict`: the caches hold nothing for it. -/
def State.translate (s : State) (g tenant root va need : Nat) (evict : Bool) : Tr × State :=
  let t := s.tile g
  let hit := if evict then none else t.leaves.find? (fun l => l.tenant == tenant && decide (l.vbase ≤ va) && decide (va < l.vbase + l.size))
  let wr := decide (need / 2 % 2 = 1)
  let walked : Tr × State :=
    let ps := if evict then [] else NMap.get s.ptrs (g / 48) []
    let (l, tbl) := startOf ps tenant va root
    let (r, new) : Tr × List Ptr := s.walk tenant va need 5 l tbl
    let s := { s with ptrs := NMap.set s.ptrs (g / 48) ((new ++ ps.filter (fun p => !new.any (fun q => q.tenant == p.tenant && q.level == p.level && q.idx == p.idx))).take 256) }
    match r with
    | .ok l =>
      let (l, s) := s.markLeaf l wr
      (Tr.ok l, s.updTile g (fun (t : Tile) => { t with
        leaves := (l :: t.leaves.filter (fun x => !(x.tenant == tenant && decide (x.vbase < l.vbase + l.size) && decide (l.vbase < x.vbase + x.size)))).take 64 }))
    | r => (r, s)
  match hit with
  | some l => if grants l.pte need ∧ (!wr ∨ bitOf l.pte 5) then (Tr.ok l, s) else if grants l.pte need then walked else (Tr.denied, s)
  | none => walked

/-- The physical address of a virtual one under a leaf. -/
def Leaf.pa (l : Leaf) (va : Nat) : Nat := ptePa l.pte + (va - l.vbase)
/-- Page kind of a leaf. -/
def Leaf.kind (l : Leaf) : Nat := bitsOf l.pte 11 9
/-- Key slot of a leaf. -/
def Leaf.key (l : Leaf) : Nat := bitsOf l.pte 61 52

/-! Page faults (R396 to R398). -/

/-- The fault id of a tenant's page: the unresolved one, or a new one, the act's choice where it is free; none while the
tenant holds 4,096. -/
def State.faultId (s : State) (tenant page : Nat) : Option (Nat × Bool) :=
  match s.faults.find? (fun f => f.tenant == tenant && f.page == page) with
  | some f => some (f.id, false)
  | none =>
    let mine := s.faults.filter (fun f => f.tenant == tenant)
    if 4096 ≤ mine.length then none
    else if !mine.any (fun f => f.id == s.ev.x % 65536) then some (s.ev.x % 65536, true)
    else match (List.range 4097).find? (fun k => !mine.any (fun f => f.id == k)) with
      | some k => some (k, true)
      | none => none

/-- Raise or join a page fault (R396): the id, and the state with the record sent. `acc`: 0 read, 1 write, 2 image fetch. -/
def State.pageFault (s : State) (inst tenant g role acc va level reason : Nat) (pte : Word) : Option (Nat × State) :=
  match s.faultId tenant (va / 4096) with
  | none => none
  | some (id, false) => some (id, s)
  | some (id, true) =>
    let w2 := tenant + placeWord g + role * 2 ^ 25 + acc * 2 ^ 30 + level * 2 ^ 32 + reason * 2 ^ 35
    some (id, ({ s with faults := s.faults ++ [⟨id, tenant, va / 4096, inst⟩] } : State).post 0
      (eventRec 1 0 id (BitVec.ofNat 64 va) (BitVec.ofNat 64 w2) (BitVec.ofNat 64 inst) pte))

/-- What an operation needs of a page: rd, wr and img bits, and the page kind it takes (R104, R252). -/
def ReqOp.needs : ReqOp → Nat × Nat
  | .load => (1, 0)
  | .store => (2, 0)
  | .amo _ => (3, 0)
  | .srd => (1, 1)
  | .sprb => (1, 1)
  | .swr => (2, 1)
  | .sclr => (2, 1)
  | .cmb _ _ => (2, 0)
  | .bar _ => (2, 2)
  | .xlt _ n => (n, 2)
  | _ => (1, 0)

/-- A translation refuses an access (R104, R239, R252): a plain load or store of a context loses the parts from there on and
raises the deferred trap, as does `bmc.inv`, which has no verdict either (R253); a record that `job.spawn`, `tnd.call` or `tnd.cost` reads
gives its status (R235, R297, R299); one with a verdict is refused (DEDUCED, log entry 24). -/
def State.deny (s : State) (r : Req) (va cause : Nat) : State :=
  match r.who, r.op with
  | .ctx g p c, .load | .ctx g p c, .store =>
    let ps := r.pieces.takeWhile (fun x => x.place != .virt va)
    let s := s.updReq r.id (fun q => { q with pieces := ps, d := 28 })
    let s := if ps.all (·.done) then s.finish r.id 0 else s
    s.deferTrap g p c cause (s.reqPay r cause r.ea)
  | .ctx g p c, .bmcInv _ _ => (s.finish r.id 0).deferTrap g p c cause (s.reqPay r cause r.ea)
  | _, .jobSpawn _ => s.finish r.id (2 ^ 32)
  | _, .tndCall => s.finish r.id (2 ^ 32)
  | _, .tndCost _ _ _ => s.finish r.id (2 ^ 32)
  | _, _ => s.refuse r cause

/-- A plane fill, which walks as it reads its image (R270). -/
def ReqOp.isFill : ReqOp → Bool
  | .plf _ _ => true
  | _ => false

/-- The window a translation gives (R271, R391, R394). -/
def Leaf.win (l : Leaf) (va tenant seq : Nat) : Win :=
  { base := l.pa va, extent := l.vbase + l.size - va, kind := l.kind, rd := bitOf l.pte 1, wr := bitOf l.pte 2 && bitOf l.pte 5,
    img := bitOf l.pte 3, key := l.key, seq := seq, tenant := tenant, va := l.vbase, size := l.size, revoked := false }

/-- The lanes of a window token for register `k` (R101). -/
def Win.lanes (w : Win) (k : Nat) : List Lane :=
  [BitVec.ofNat 32 w.base,
   BitVec.ofNat 32 (w.base / 2 ^ 32 + k * 2 ^ 20 + w.kind * 2 ^ 24 + b2n w.rd * 2 ^ 27 + b2n w.wr * 2 ^ 28 + b2n w.img * 2 ^ 29),
   BitVec.ofNat 32 w.extent, BitVec.ofNat 32 (w.extent / 2 ^ 32 + w.key * 2 ^ 20), BitVec.ofNat 32 w.seq, BitVec.ofNat 32 w.tenant]

/-- The end of an `xlt` (R271): a payload for the task or a fault token, or the window. -/
def State.xltEnd (s : State) (r : Req) (k : Nat) (res : Except Nat Win) : State :=
  match r.who with
  | .ctx g p c =>
    (match res with
     | .ok w =>
       let s := s.updCtx g p c (fun x => { x with wins := NMap.set x.wins k { w with revoked := lateWindow x.shoots w } })
       s.finish r.id 0
     | .error cause => s.finish r.id (s.reqPay r cause r.ea))
  | _ =>
    let tok : Tok :=
      match res with
      | .ok w => ⟨.window, r.thread, r.iter, r.n - 1, 0, w.lanes k, [w.va, w.size]⟩
      | .error cause => ⟨.fault, r.thread, r.iter, r.n - 1, s.reqPay r cause r.ea, [], []⟩
    s.updReq r.id (fun q => { q with op := .emit tok, phase := .done })

/-- The virtual address a request waits to have translated. -/
def Req.nextVa (r : Req) : Option Nat :=
  match r.op with
  | .xlt _ _ => some r.ea
  | _ => (r.pieces.find? (fun p => match p.place with | .virt _ => true | _ => false)).map (·.place.addr)

/-- The root of a region's page table, fixed at placement (R371). -/
def State.rootOf (s : State) (inst : Nat) : Nat := match NMap.find s.regions inst with | some r => r.root | none => 0

/-- Role of an agent in a page-fault record (R396). -/
def State.roleOf (s : State) : Agent → Nat
  | .ctx g p _ => (s.tile g).role p
  | .elem g e => (s.tile g).role e
  | .porter _ => 28
  | .seq _ => 28
  | _ => 0

/-- A request of a region is withheld from now on (R398), under a fault id, or under none (65536) while its tenant holds 4,096 (R396). -/
def Region.hold (q : Region) (id fault now : Nat) : Region :=
  { q with held := if q.held.any (fun h => h.1 == id) then q.held.map (fun h => if h.1 = id then (id, fault, h.2.2) else h)
                   else q.held ++ [(id, fault, now)] }
/-- Withhold a request under a fault id (R105, R398). -/
def State.withhold (s : State) (r : Req) (id : Nat) : State :=
  (s.updReq r.id (fun q => { q with withheld := some id })).updReg r.inst (fun q => q.hold r.id id s.now)
/-- The walk of a request ends in a fault (R396): it is withheld under the page's id, or waits, still withheld, until one is free. -/
def State.faulted (s : State) (r : Req) (o : Option (Nat × State)) : State :=
  match o with
  | some (id, s) => s.withhold r id
  | none => s.updReg r.inst (fun q => q.hold r.id 65536 s.now)
/-- The walk of a request ends otherwise: nothing of it is withheld. -/
def State.unheld (s : State) (r : Req) : State :=
  s.updReg r.inst (fun q => if q.held.any (fun h => h.1 == r.id) then { q with held := q.held.filter (fun h => h.1 != r.id) } else q)

/-- The translated parts of a request: those in the leaf's page. -/
def Req.placed (r : Req) (l : Leaf) : Req :=
  { r with
    pages := r.pages ++ [(l.vbase, l.size)]
    pieces := r.pieces.map (fun p => match p.place with
      | .virt va => if l.vbase ≤ va ∧ va < l.vbase + l.size then { p with place := .phys (l.pa va), kind := l.kind, key := some l.key } else p
      | _ => p) }

/-- TRANSLATION_WALK (R390). `flag`: the caches hold nothing for the address; `x`: the id of a new fault. -/
def execTranslationWalk (s : State) : Host.Outcome State Fault Refusal :=
  .next (match s.liveReq s.ev.id with
    | none => s
    | some r =>
      match r.who.tile, r.nextVa with
      | some g, some va =>
        if !r.unwalked ∨ !s.nodeFree g r ∨ r.op.isFill then s
        else
          let (need, sk) := r.op.needs
          let (t, s) := s.translate g r.tenant (s.rootOf r.inst) va need s.ev.flag
          let s := match t with
            | .ok l =>
              (match r.op with
               | .xlt k _ => s.xltEnd r k (.ok (l.win va r.tenant (s.tile g).seq))
               | _ =>
                 if kindBad sk l.kind then s.deny r va 0x27
                 else if !s.paOk (l.pa va) l.key then s.deny r va 0x21
                 else
                   let s := s.updReq r.id (fun q => q.placed l)
                   match s.req r.id with
                   | some q => if q.acq && !q.acquires then
                       (match q.who with
                        | .ctx g p c => (s.updCtx g p c (fun x => { x with acq := if x.acq = some q.id then none else x.acq })).wakeCtx g p c
                        | _ => s)
                     else s
                   | none => s)
            | .denied =>
              (match r.op with
               | .xlt k _ => s.xltEnd r k (.error 0x25)
               | _ => s.deny r va 0x25)
            | .dead =>
              (match r.op with
               | .xlt k _ => s.xltEnd r k (.error 0x21)
               | _ => s.deny r va 0x21)
            | .bad pa => s.dataError r pa
            | .fault level reason pte =>
              let acc := if need / 2 % 2 = 1 then 1 else if need / 4 % 2 = 1 then 2 else 0
              s.faulted r (s.pageFault r.inst r.tenant g (s.roleOf r.who) acc va level reason pte)
          (match t with | .fault _ _ _ => s | _ => s.unheld r).wakeTile g
      | _, _ => s)

/-- A tenant entry's tenant id (R371). -/
def State.entTenant (s : State) (t : Nat) : Nat := bitsOf (s.hubWord (0x50000 + 32 * t)) 15 0
/-- A tenant entry is in use. -/
def State.entValid (s : State) (t : Nat) : Bool := bitOf (s.hubWord (0x50000 + 32 * t)) 16

/-- FAULT_RESOLVE (R397, R429): every access withheld under the id walks again; a withheld image read goes on, and a record that waited for the id
may be loaded again. -/
def execFaultResolve (s : State) : Host.Outcome State Fault Refusal :=
  .next (let tenant := s.entTenant s.ev.arc
    let id := s.ev.id % 65536
    if s.hallUp && s.faults.any (fun f => f.tenant == tenant && f.id == id) then
      let gs := (s.reqs.filterMap (fun r => if r.tenant = tenant ∧ r.withheld = some id then r.who.tile else none)).eraseDups
      gs.foldl State.wakeTile { s with
        faults := s.faults.filter (fun f => !(f.tenant == tenant && f.id == id))
        reqs := s.reqs.map (fun r => if r.tenant = tenant ∧ r.withheld = some id then { r with withheld := none } else r)
        regions := s.regions.map (fun (q : Nat × Region) =>
          if q.2.tenant = tenant then
            (q.1, { q.2 with held := q.2.held.filter (fun h => h.2.1 != id)
                             st := if q.2.st = .withheld id then (if q.2.tiles = [] then .popped else .writing) else q.2.st
                             succWait := if q.2.succWait = some id then none else q.2.succWait })
          else q)
        streams := s.streams.map (fun (x : Nat × Stream) => (x.1, { x.2 with recs := x.2.recs.map (fun q =>
          if bitsOf (q.words.getD 2 0) 39 24 = tenant ∧ q.await = some id then { q with await := none } else q) })) }
    else s)

/-! Shoot-downs (R393, R394). -/

/-- Start a shoot-down: the hub numbers it and broadcasts it. -/
def State.startShoot (s : State) (tenant vpn npg : Nat) (byHub : Bool) : State :=
  let k : Shoot := ⟨(s.shootSeq + 1) % 2 ^ 32, tenant, vpn, npg⟩
  { s with shootSeq := k.num, shooting := s.shooting ++ [⟨k, byHub, List.range 384, []⟩], shootLog := (s.shootLog ++ [k]).drop (s.shootLog.length - 255) }

/-- SHOOTDOWN_REQUEST (R393): a write of tenant word 3; it waits while one of this entry's tenant is in progress. -/
def execShootdownRequest (s : State) : Host.Outcome State Fault Refusal :=
  .next (let tenant := s.entTenant s.ev.arc
    if s.shooting.any (fun k => k.byHub && k.sd.tenant == tenant) ∨ !s.hallUp then s
    else
      let s := s.setHub (0x50000 + 32 * s.ev.arc + 24) (s.ev.w0 &&& 0x00FFFFFFFFFFFFFF)
      s.startShoot tenant (bitsOf s.ev.w0 55 12) (bitsOf s.ev.w0 11 0) true)

/-- Keep the last eight shoot-downs (R394). -/
def last8 (l : List Shoot) (k : Shoot) : List Shoot := (l ++ [k]).drop (l.length - 7)
/-- Revoke the windows a shoot-down covers. -/
def revoke (k : Shoot) (wins : NMap Win) : NMap Win :=
  wins.map (fun q => if k.covers q.2.tenant q.2.va q.2.size then (q.1, { q.2 with revoked := true }) else q)

/-- A tile's agents perform a shoot-down (R394, R103). -/
def Tile.shootDown (t : Tile) (k : Shoot) : Tile :=
  { t with
    seq := if t.shoots = [] ∨ olderSeq t.seq k.num then k.num else t.seq
    shoots := last8 t.shoots k
    leaves := t.leaves.filter (fun l => !k.covers l.tenant l.vbase l.size)
    elems := t.elems.map (fun e => (e.1, { e.2 with wins := revoke k e.2.wins, shoots := last8 e.2.shoots k }))
    tps := t.tps.map (fun q => (q.1, { q.2 with ctxs := q.2.ctxs.map (fun c =>
      (c.1, { c.2 with wins := revoke k c.2.wins, shoots := last8 c.2.shoots k })) })) }

/-- A request is not performed yet, or copies still (R103, R394). -/
def Req.underway (r : Req) : Bool := decide (r.phase = .wait) || (decide (r.phase = .accepted) && (match r.op with | .copy _ => true | _ => false))

/-- SHOOTDOWN_RECEIVE (R394): a tile drops what the shoot-down covers; accesses under way of the regions that run are to be performed first. -/
def execShootdownReceive (s : State) : Host.Outcome State Fault Refusal :=
  .next (let g := s.ev.g
    match s.shooting.find? (fun k => k.sd.num == s.ev.id && k.wait.contains g) with
    | none => s
    | some k =>
      let mine := (s.reqs.filter (fun r => s.reqLive r && r.who.tile == some g && r.tenant == k.sd.tenant && r.underway &&
        r.pages.any (fun p => k.sd.covers r.tenant p.1 p.2))).map (·.id)
      let cover (p : Ptr) : Bool := k.sd.covers p.tenant (p.idx * 2 ^ levelShift (p.level - 1)) (2 ^ levelShift (p.level - 1))
      let s := { s with
        shooting := s.shooting.map (fun (x : Shooting) => if x.sd.num = k.sd.num then { x with wait := x.wait.erase g, reqs := x.reqs ++ mine } else x)
        ptrs := NMap.set s.ptrs (g / 48) ((NMap.get s.ptrs (g / 48) []).filter (fun p => !cover p)) }
      s.updTile g (fun t => t.shootDown k.sd))

/-- SHOOTDOWN_COMPLETE (R394): every acknowledgement has arrived. -/
def execShootdownComplete (s : State) : Host.Outcome State Fault Refusal :=
  .next (match s.shooting.find? (fun k => k.sd.num == s.ev.id) with
    | none => s
    | some k =>
      let open_ := k.reqs.any (fun id => match s.liveReq id with | some r => r.underway | none => false)
      if k.wait ≠ [] ∨ open_ then s
      else
        let s := { s with shooting := s.shooting.filter (fun x => x.sd.num != k.sd.num) }
        match s.reqs.find? (fun r => r.op == .xinv k.sd.num) with
        | some r => s.finish r.id 0
        | none => s)

/-! The instructions (R271 to R275). -/

/-- Issue a request of a memory instruction without a memory literal, once nothing holds it. -/
def State.issueOr (s : State) (t : TIn) (r : Req) (mem : Bool) : State :=
  match s.holds t r.cls mem with
  | some st => s.block t.g t.p t.c st
  | none => s.issue t r

/-- `xlt` (R271). -/
def execXlt (f : Fields) (s : State) : Host.Outcome State Fault Refusal :=
  .next (match s.site with
    | .task _ _ _ =>
      match beginTask (.iXlt f) f s noBad with
      | .stop s => s
      | .go t =>
        let k := bitsOf t.b 3 0
        let r := { s.taskReq t .ld (.xlt k (bitsOf t.b 6 4)) with d := t.f.d.toNat, ea := t.a.toNat }
        if bitsOf t.a 63 56 ≠ 0 then s.issueOr t { r with phase := .done, res := s.reqPay r 0x21 r.ea } true
        else if 10 < k then s.issueOr t { r with phase := .done, res := s.reqPay r 0x24 r.ea } true
        else s.issueOr t r true
    | .elem _ _ =>
      runElem (.iXlt f) s (fun _ => false) (fun s g e _ r a b _ =>
        let k := bitsOf b.scal 3 0
        let va := a.scal
        if bitsOf va 63 56 ≠ 0 then
          .ok (s.queueTok g e r true ⟨.fault, r.thread, r.iter, r.n - 1, errPayload 0x21 g ((s.tile g).role e) va.toNat, [], []⟩, [])
        else if 10 < k then .error (0x40, b.scal)
        else .ok (s.addReq { s.fireReq g e r true (.xlt k (bitsOf b.scal 6 4)) with ea := va.toNat }, [])))

/-- The test of `win.chk` (R272): 0, or the cause. -/
def winTest (wins : NMap Win) (b : Word) : Nat :=
  match NMap.find wins (bitsOf b 3 0) with
  | none => 0x24
  | some w => if w.revoked then 0x23 else if w.extent < bitsOf b 59 8 then 0x21 else 0

/-- The result of `win.chk`: the offset of its payload names no address (DESIGN CHOICE, log entry 30): a free value. -/
def State.winResult (s : State) (wins : NMap Win) (b : Word) (g role : Nat) : Word × State :=
  let c := winTest wins b
  if c = 0 then (0, s)
  else
    let (v, s) := s.takeFree
    (errPayload c g role v.toNat, s)

/-- The value of a check word that no window answers to (R272): a register above 10, or a bit the description keeps zero (DEDUCED, log entry 39). -/
def chkRefused (b : Word) : Bool := b &&& 0xF0000000000000F0 != 0 || 10 < bitsOf b 3 0

/-- `win.chk` (R272). At run time a memory port answers a refused check word with cause 0x40 (R196). -/
def execWinChk (f : Fields) (s : State) : Host.Outcome State Fault Refusal :=
  .next (match s.site with
    | .task _ _ _ =>
      match beginTask (.iWinChk f) f s noBad with
      | .stop s => s
      | .go t =>
        let (v, s) := s.winResult t.x.wins t.b t.g ((s.tile t.g).role t.p)
        s.putResult t false v
    | .elem _ _ =>
      runElem (.iWinChk f) s (fun k => decide (k.kind = .fault)) (fun s g e el r _ b _ =>
        match r.tok f.a.toNat with
        | some k =>
          if k.kind = .fault then .ok (s.queueTok g e r true (Tok.scalar r.thread r.iter k.pay), [])
          else
            if chkRefused b.scal then .error (0x40, b.scal) else
            let (v, s) := s.winResult el.wins b.scal g ((s.tile g).role e)
            .ok (s.queueTok g e r true (Tok.scalar r.thread r.iter v), [])
        | none =>
          if chkRefused b.scal then .error (0x40, b.scal) else
          let (v, s) := s.winResult el.wins b.scal g ((s.tile g).role e)
          .ok (s.queueTok g e r true (Tok.scalar r.thread r.iter v), [])))

/-- `xinv` (R273): a shoot-down from steward code. -/
def execXinv (f : Fields) (s : State) : Host.Outcome State Fault Refusal :=
  .next (match beginTask (.iXinv f) f s noBad with
    | .stop s => s
    | .go t =>
      match s.holds t .st false with
      | some st => s.block t.g t.p t.c st
      | none =>
        let s := s.startShoot (bitsOf t.b 63 48) (bitsOf t.a 55 12) (bitsOf t.b 47 0) false
        s.issue t (s.taskReq t .st (.xinv s.shootSeq)))

/-- `mig` (R275): the request goes to the stack's controller (MIGRATION entries are installed by `State.install`). -/
def execMig (f : Fields) (s : State) : Host.Outcome State Fault Refusal :=
  .next (match beginTask (.iMig f) f s noBad with
    | .stop s => s
    | .go t =>
      let a := t.a.toNat
      if !s.reachable (redirect s.migs a) ∨ !s.reachable (redirect s.migs (a + 31)) then s.memTrap t 0x21 a
      else s.issueOr t { s.taskReq t .st .mig with d := t.f.d.toNat, ea := a, pieces := [Piece.mk1 (.phys a) 1 32 0 0 0 0] } false)

/-- Install or retire a migration entry (R275, R399): the result word. The record's fourth word is reserved, and ignored (R3). -/
def State.install (s : State) (old new len : Nat) : Nat × State :=
  let k := old / 2 ^ 36
  let tbl := NMap.get s.migs k []
  if len = 0 then
    match tbl.find? (fun e => e.2.old == old) with
    | some (i, _) => (0, { s with migs := NMap.set s.migs k (NMap.erase tbl i) })
    | none => (2, s)
  else if len % 4096 ≠ 0 ∨ 2 ^ 34 < len ∨ old % 4096 ≠ 0 ∨ new % 4096 ≠ 0 ∨ 0xC000000000 < old + len ∨
      (old + len - 1) / 2 ^ 36 ≠ k ∨ !paLocalOk new ∨ !paLocalOk (new + len - 1) then (2, s)
  else
    match (List.range 16).find? (fun i => (NMap.find tbl i).isNone) with
    | some i => (i * 256, { s with migs := NMap.set s.migs k (NMap.set tbl i ⟨old, new, len, 0, false⟩) })
    | none => (1, s)

/-- A `mig` request reaches the controller (R275). -/
def State.doMig (s : State) (r : Req) (pa : Nat) : State :=
  let w (k : Nat) : Nat := s.readPa (pa + 8 * k) 8
  let (res, s') := s.install (w 0) (w 1) (w 2)
  s'.performedNow r.id (BitVec.ofNat 64 res)

/-! Migration (R275, R399, R400). -/

/-- An address after the line at `a` has moved to `b`. -/
def movedTo (a b x : Nat) : Nat := if a ≤ x ∧ x < a + 64 then b + (x - a) else x
/-- A write that is not yet visible to all, after a line has moved (R275). -/
def Stale.moved (e : Stale) (a b : Nat) : Stale :=
  { e with bytes := e.bytes.map (fun (x : Nat × (Byte × Byte)) => (movedTo a b x.1, x.2))
           marks := e.marks.map (fun (m : Mark × Nat × Nat) => ((match m.1 with | .loc p => Mark.loc (movedTo a b p) | k => k), m.2)) }

/-- The controller reads a line that it is to copy (R399, R415): a block that cannot be read is counted, and stays in error where it goes. -/
def State.lineRead (s : State) (a : Nat) : State := if s.ev.flag ∨ s.bad.contains (a / 64) then s.blockError a else s

/-- Copy one line with its metadata word, its block's error, the keys it was written under and its writes that not every agent sees. -/
def State.copyLine (s : State) (a b : Nat) : State :=
  let keys := (List.range 4).foldl (fun (m : NMap (List Word)) k =>
    match NMap.find s.keyed (a / 16 + k) with | some x => NMap.set m (b / 16 + k) x | none => NMap.erase m (b / 16 + k)) s.keyed
  let s := { s with keyed := keys, stale := (overwrite s.stale b 64).map (fun (e : Stale) => e.moved a b) }
  let s := { s with mem := Memory.writeBytes s.mem b (Memory.readBytes s.mem a 64), blockWord := NMap.set s.blockWord (b / 64) (NMap.get s.blockWord (a / 64) 0) }
  { s with bad := if s.bad.contains (a / 64) then b / 64 :: s.bad.filter (· != b / 64) else s.bad.filter (· != b / 64) }

/-- Merge the open combine entries of a line into memory (R400): nothing is sent. -/
def State.flushLine (s : State) (a : Nat) : State :=
  let hit (k : Cmb) : Bool := k.lanesAt.any (fun p => p / 64 == a / 64)
  let mine := s.vaults.flatMap (fun v => v.2.cmbs.filter hit)
  let s := mine.foldl (fun s k => if bitOf k.cc 24 then s.cmbWrite k k.result k.lanesAt else s) s
  if mine = [] then s else { s with vaults := s.vaults.map (fun (v : Nat × Vault) => (v.1, { v.2 with cmbs := v.2.cmbs.filter (fun k => !hit k) })) }

/-- The deferred readers of a line go with it to the new home (R100, R108; DEDUCED, log entry 31). One that finds the new home's pool full is
dropped, and never answered: the spec is silent (DESIGN CHOICE, log entry 69). -/
def State.moveReaders (s : State) (a b : Nat) : State :=
  let v := homeOf a
  let u := homeOf b
  let l := (s.vault v).pool.filter (fun q => q.pa / 64 == a / 64)
  let s := s.updVault v (fun x => { x with pool := x.pool.filter (fun q => q.pa / 64 != a / 64) })
  let s := l.foldl (fun s q =>
    match (s.vault u).freeRec with
    | some k => s.updVault u (fun x => { x with pool := x.pool ++ [{ q with idx := k, pa := b + q.pa % 64 }] })
    | none => s) s
  (l.map (fun q => b + q.pa % 64)).eraseDups.foldl (fun s pa => relinkWord s u pa) s

/-- MIGRATION_LINE_COPY (R275, R399): the next line of a copying entry. `flag`: it cannot be read. -/
def execMigrationLineCopy (s : State) : Host.Outcome State Fault Refusal :=
  .next (let k := s.ev.e
    let tbl := NMap.get s.migs k []
    match NMap.find tbl s.ev.c with
    | none => s
    | some m =>
      if m.done then s
      else
        let s := (s.flushLine (m.old + m.pos)).lineRead (m.old + m.pos)
        let s := s.copyLine (m.old + m.pos) (m.new + m.pos)
        let fin := decide (m.len ≤ m.pos + 64)
        let s := { s with migs := NMap.set s.migs k (NMap.set tbl s.ev.c { m with pos := m.pos + 64, done := fin }) }
        let s := s.moveReaders (m.old + m.pos) (m.new + m.pos)
        if fin then s.post 0 (eventRec 2 0 s.ev.c (BitVec.ofNat 64 m.old) 0 0 0) else s)

end Sys2Proof.Machine
end

