-- ==== Sys2Proof/Machine/Planes.lean ====
section
/-! DEFINITION. Plane images, generator records and reads of an image through translation (R190, R192, R339 to R342, R355, R429). -/

namespace Sys2Proof.Machine

/-! Fields of an image. -/

/-- The number in `n` bytes at an offset, little-endian (R335). -/
def fieldN (bs : List Byte) (off n : Nat) : Nat := natOfBytes ((bs.drop off).take n)
/-- The 8-byte word at an offset. -/
def word64 (bs : List Byte) (off : Nat) : Word := BitVec.ofNat 64 (fieldN bs off 8)
/-- Bits `[hi:lo]` of the word at an offset. -/
def fieldBits (bs : List Byte) (off hi lo : Nat) : Nat := bitsOf (word64 bs off) hi lo

/-! Reading through translation (R390, R429). -/

/-- How a read of virtual memory ends. -/
inductive VRead where
  | ok (bs : List Byte)
  /-- The translation lacks a permission. -/
  | denied (va : Nat)
  /-- No valid translation. -/
  | fault (va level reason : Nat) (pte : Word)
  /-- A data error at a byte, in the block of a physical address (R408). -/
  | bad (va pa : Nat)
  /-- Memory that does not answer: its stack, vault or key is not there (R410, R413). -/
  | dead (va : Nat)
  deriving DecidableEq, Repr

/-- Bytes at physical addresses. -/
def State.paBytes (s : State) (pa n : Nat) : List Byte := (List.range n).map (fun k => Memory.get s.mem (redirect s.migs (pa + k)))
/-- Bytes at physical addresses, as they read under a key slot (R99). -/
def State.keyBytes (s : State) (pa n : Nat) (slot : Option Nat) : List Byte :=
  (List.range n).map (fun k => BitVec.ofNat 8 (s.readUnder (redirect s.migs (pa + k)) 1 slot))

/-- A block of a physical range is in error (R408). -/
def State.rangeBad (s : State) (pa n : Nat) : Bool := (List.range (n / 64 + 2)).any (fun k => decide (pa / 64 * 64 + 64 * k < pa + n) && s.badBlock (.phys (pa / 64 * 64 + 64 * k)))

/-- The first byte of a physical range that lies in a block in error, as an offset in the range (R354, R408). -/
def State.firstBad (s : State) (pa n : Nat) : Nat :=
  match (List.range (n / 64 + 2)).find? (fun k => decide (pa / 64 * 64 + 64 * k < pa + n) && s.badBlock (.phys (pa / 64 * 64 + 64 * k))) with
  | some k => pa / 64 * 64 + 64 * k - pa
  | none => 0

/-- The first byte of a range whose read fails (R408): in a block in error, or in the one that the event names (`arc` 6, `w0` the block of the
range) as a word that cannot be corrected. -/
def State.readFails (s : State) (pa n : Nat) : Option Nat :=
  if s.rangeBad pa n then some (s.firstBad pa n)
  else
    let k := pa / 64 * 64 + 64 * s.ev.w0.toNat
    if s.ev.arc = 6 ∧ k < pa + n then some (k - pa) else none

/-- Bytes written at a physical address under no key, which every agent sees: a block written whole is no longer in error (R408). -/
def State.writeBlocks (s : State) (pa : Nat) (bs : List Byte) : State :=
  let s := { s with keyed := bs.zipIdx.foldl (fun m (x : Byte × Nat) => NMap.erase m (redirect s.migs (pa + x.2) / 16)) s.keyed, mem := bs.zipIdx.foldl (fun (m : Memory) (x : Byte × Nat) => Memory.set m (redirect s.migs (pa + x.2)) x.1) s.mem }
  let first := (pa + 63) / 64 * 64
  { s with bad := s.bad.filter (fun b => !(List.range (bs.length / 64)).any (fun k =>
             decide (first + 64 * k + 64 ≤ pa + bs.length) && b == redirect s.migs (first + 64 * k) / 64))
           stale := if s.stale = [] then [] else (List.range (bs.length / 64 + 1)).foldl (fun l k => overwrite l (redirect s.migs (pa + 64 * k)) (min 64 (bs.length - 64 * k))) s.stale }

/-- A program's write of bytes at a physical address, under a key slot, that every agent sees (R99, R113): a block written whole is no longer in
error (R408). -/
def State.putBytes (s : State) (pa : Nat) (bs : List Byte) (slot : Option Nat) : State :=
  let s := bs.zipIdx.foldl (fun (s : State) (x : Byte × Nat) => s.putPa (pa + x.2) 1 x.1.toNat slot) s
  { s with bad := s.bad.filter (fun b => !(List.range 64).all (fun j =>
      (List.range bs.length).any (fun k => redirect s.migs (pa + k) == 64 * b + j))) }

/-- Read `n` bytes of virtual memory through a tile's node, page by page. -/
def State.readVirt (s : State) (g tenant root need : Nat) : Nat → Nat → Nat → VRead × State
  | 0, _, _ => (.ok [], s)
  | fuel + 1, va, n =>
    if n = 0 then (.ok [], s)
    else
      match s.translate g tenant root va need false with
      | (.ok l, s) =>
        let k := min n (l.vbase + l.size - va)
        let pa := l.pa va
        if !s.paOk pa l.key then (.dead va, s)
        else
          (match s.readFails pa k with
           | some o => (.bad (va + o) (pa + o), s)
           | none =>
             match s.readVirt g tenant root need fuel (va + k) (n - k) with
             | (.ok bs, s') => (.ok (s.keyBytes pa k (some l.key) ++ bs), s')
             | r => r)
      | (.denied, s) => (.denied va, s)
      | (.bad pa, s) => (.bad va pa, s)
      | (.dead, s) => (.dead va, s)
      | (.fault l r e, s) => (.fault va l r e, s)

/-! Generator records (R341, R342). -/

/-- The record in 32 bytes, where valid. -/
def parseGen (bs : List Byte) : Option Gen :=
  if fieldBits bs 0 63 63 = 0 then none
  else
    let lsc := fieldBits bs 8 53 53 == 1
    some { space := fieldBits bs 0 51 48, width := fieldBits bs 0 53 52, base := (fieldBits bs 0 47 0 : Nat), step := sgn 32 (fieldBits bs 8 31 0),
           limit := fieldBits bs 16 20 0, cc := word64 bs 24, lsReg := !lsc,
           ls := if lsc then sgn 8 (fieldBits bs 8 52 45) else (fieldBits bs 8 47 45 : Nat), disabled := false }

/-- A valid record passes R342 against its space and grant; its combine control, where there is one, passes R261 with the record's width.
Reserved bits are ignored (R3). -/
def Gen.ok (q : Gen) (vbase vsize : Nat) : Bool :=
  let last := q.base + ((q.limit - 1 : Nat) : Int) * q.step
  let lo := if q.base ≤ last then q.base else last
  let hi := (if q.base ≤ last then last else q.base) + (widthBytes q.width : Nat)
  decide (1 ≤ q.limit) && decide (q.limit ≤ 2 ^ 20) && q.space != 4 && (q.cc == 0 || (ccOk false false q.cc && q.width == (if ccBytes q.cc = 8 then 3 else 2))) &&
    (if q.space < 3 then decide (0 ≤ lo) && decide (hi ≤ (0x40000 : Nat))
     else if q.space = 3 then decide ((vbase : Int) ≤ lo) && decide (hi ≤ ((vbase + vsize : Nat) : Int))
     else true)

/-- The records of a section, by number. -/
def parseGens (bs : List Byte) : NMap Gen :=
  (List.range 16).filterMap (fun k => match parseGen ((bs.drop (32 * k)).take 32) with | some q => some (k, q) | none => none)

/-! Plane images (R339). -/

/-- The plane in an image of 1,024 bytes. -/
def parsePlane (bs : List Byte) : Plane :=
  let mask := word64 bs 0x300
  let occ := (List.range 64).filter (fun k => mask.getLsbD k)
  { words := occ.map (fun k => (k, BitVec.ofNat 32 (fieldN bs (4 * k) 4)))
    lits := occ.map (fun k => (k, word64 bs (0x100 + 8 * k)))
    mask := mask }

/-- The first slot of a plane that fails, with its cause (R190): an occupied slot by R189, an unoccupied one that is not zero by
cause 0x61 (DEDUCED, log entry 32). -/
def slotFails (kind : EKind) (gens : NMap Gen) (bs : List Byte) : Option (Nat × Nat) :=
  let mask := word64 bs 0x300
  (List.range 64).findSome? (fun k =>
    let w : Lane := BitVec.ofNat 32 (fieldN bs (4 * k) 4)
    let l := word64 bs (0x100 + 8 * k)
    if mask.getLsbD k then
      let c := wordCause kind true w l gens
      if c = 0 then none else some (k, c)
    else if w = 0 ∧ l = 0 then none else some (k, 0x61))

/-- The check of a plane image for a role and plane (R339): cause, slot and offset of the first failure: of an unoccupied slot's literal where that
alone is not zero. -/
def planeFails (kind : EKind) (role plane : Nat) (gens : NMap Gen) (bs : List Byte) : Option (Nat × Nat × Nat) :=
  if fieldBits bs 0x308 4 0 ≠ role ∨ fieldBits bs 0x308 6 5 ≠ plane then some (0x63, 0, 0x308)
  else
    match slotFails kind gens bs with
    | some (k, c) => some (c, k, if (word64 bs 0x300).getLsbD k ∨ fieldN bs (4 * k) 4 ≠ 0 then 4 * k else 0x100 + 8 * k)
    | none => none

/-- The image error record (R354). -/
def imgError (nosec : Bool) (team slot plane phys role g sec cause off : Nat) : Word × Word :=
  (BitVec.ofNat 64 (b2n nosec * 2 ^ 52 + team % 512 * 2 ^ 43 + slot % 64 * 2 ^ 37 + plane % 4 * 2 ^ 35 + phys % 32 * 2 ^ 30 + role % 32 * 2 ^ 25 +
    g % 48 * 2 ^ 19 + g / 48 % 8 * 2 ^ 16 + sec % 256 * 2 ^ 8 + cause % 256), BitVec.ofNat 64 (off % 2 ^ 32))

/-! `plf` (R270, R192). -/

/-- `plf` (R270): the next-plane register is pending at once, the fill reads the image later. -/
def execPlf (f : Fields) (s : State) : Host.Outcome State Fault Refusal :=
  .next (let tile (g : Nat) (b : Word) : Nat := (s.tile g).phys (bitsOf b 4 0)
    let bad (_ : Ctx) (_ b : Word) : Nat :=
      match s.site with
      | .task g _ _ =>
        let el := s.elem g (tile g b)
        nine (decide (bitsOf b 4 0 < 4) || el.planes == [] || el.apl == bitsOf b 6 5 || el.npnd)
      | .elem _ _ => 0
    match beginTask (.iPlf f) f s bad with
    | .stop s => s
    | .go t =>
      match s.holds t .cp true with
      | some st => s.block t.g t.p t.c st
      | none =>
        if bitsOf t.a 63 56 ≠ 0 then s.memTrap t 0x21 t.a.toNat
        else
        let role := bitsOf t.b 4 0
        let e := (s.tile t.g).phys role
        let k := bitsOf t.b 6 5
        let s := s.updElem t.g e (fun x => { x with npnd := true, npl := k, nrdy := false })
        s.issue t { s.taskReq t .cp (.plf role k) with ea := t.a.toNat })

/-- A waiting element swaps, or fires on (R39). -/
def State.fillReady (s : State) (g e : Nat) : State :=
  let s := s.updElem g e (fun x => { x with npnd := false, nrdy := true })
  if (s.elem g e).swapWait then s.swapStep g e else s

/-- A fill has failed (R192): the region is discarded with cause 5 and the image error. -/
def State.fillFails (s : State) (r : Req) (g role plane cause slot off : Nat) : State :=
  let e := (s.tile g).phys role
  let s := s.updReg r.inst (fun q => { q with imgErr := imgError false (s.tile g).team slot plane e role g 0 cause off })
  s.discard r.inst 5

/-- PLANE_FILL_COMPLETE (R270, R192): the fill reads its image through the tile's translation node (R105), once no earlier walk is there, and
checks it. `x`: the id of a new fault; `arc`: a word that it reads cannot be corrected (R408). The watchdog does not count a fill as progress (R41). -/
def execPlaneFillComplete (s : State) : Host.Outcome State Fault Refusal :=
  .next (match s.liveReq s.ev.id with
    | none => s
    | some r =>
      match r.op, r.who with
      | .plf role k, .ctx g _ _ =>
        if !s.nodeFree g r then s
        else
          (match s.readVirt g r.tenant (s.rootOf r.inst) 4 3 (r.ea % 2 ^ 56) 1024 with
           | (.ok bs, s) =>
             let e := (s.tile g).phys role
             (match planeFails (kindOf role) role k (s.elem g e).gens bs with
              | some (c, slot, off) => s.fillFails r g role k c slot off
              | none =>
                let s := s.updElem g e (fun x => { x with planes := NMap.set x.planes k (parsePlane bs) })
                let s := s.fillReady g e
                let s := (s.unheld r).dropReq r.id
                (s.countDown r.who .cp).wakeTile g)
           | (.denied va, s) => s.fillFails r g role k 0x6A 0 (va - r.ea % 2 ^ 56)
           | (.bad va pa, s) => (s.memCheck r.tenant r.inst pa).fillFails r g role k 0x6A 0 (va - r.ea % 2 ^ 56)
           | (.dead va, s) => s.fillFails r g role k 0x6A 0 (va - r.ea % 2 ^ 56)
           | (.fault va l why e, s) => s.faulted r (s.pageFault r.inst r.tenant g 28 2 va l why e))
      | _, _ => s)

end Sys2Proof.Machine
end

