-- ==== Sys2Proof/Machine/Porter.lean ====
section
/-! DEFINITION. The Porter: copy descriptors, copies, their beats and landing, and `bmc.inv` (R112, R114, R115, R170, R171,
R266 to R269, R274, R325). -/

namespace Sys2Proof.Machine

/-! Descriptors (R266, R268). -/

/-- The end an address word names, for an issuing tile and team; none where the descriptor is refused. -/
def State.endOf (s : State) (g : Nat) (w : Word) : Option End :=
  let sp := bitsOf w 51 48
  let team := bitsOf w 60 52
  if bitsOf w 63 62 ≠ 0 then none
  else if sp = 4 then
    if bitsOf w 61 60 ≠ 0 then none else some ⟨4, g, bitsOf w 59 52 * 2 ^ 48 + bitsOf w 47 0⟩
  else if (sp ≤ 2 ∧ bitsOf w 47 18 ≠ 0) ∨ (sp = 3 ∧ bitsOf w 47 26 ≠ 0) then none
  else if bitOf w 61 then
    match s.regOf g with
    | some (_, r) =>
      if 4 ≤ sp then none
      else match r.tiles[team]? with
        | some h => some ⟨sp, h, bitsOf w 47 0⟩
        | none => none
    | none => none
  else some ⟨sp, g, bitsOf w 47 0⟩

/-- The barrier's vault is one of the region's grant (R268). -/
def State.vaultGranted (s : State) (g v off : Nat) : Bool :=
  match s.regOf g with
  | some (_, r) => r.tiles.any (fun h => vaultOfTile h == v) && decide (r.vbase ≤ off) && decide (off + 16 ≤ r.vbase + r.vsize)
  | none => false

/-- The copy of a descriptor's eight words, or none where R268 refuses it. `mode`: 0 cp, 1 cp2, 2 cpg, 3 cps. -/
def State.copyOf (s : State) (g mode : Nat) (ws : List Word) : Option Copy :=
  let w (k : Nat) : Word := ws.getD k 0
  let none' : End := ⟨0, g, 0⟩
  let use (b : Bool) (x : Word) : Option End := if b then s.endOf g x else some none'
  if bitsOf (w 2) 63 54 ≠ 0 ∨ bitsOf (w 4) 63 33 ≠ 0 ∨ bitsOf (w 7) 63 32 ≠ 0 ∨ (mode = 0 ∧ bitsOf (w 2) 47 32 ≠ 0) then none
  else
    let bv := bitOf (w 4) 32
    let boff := bitsOf (w 4) 25 0 / 16 * 16
    match use (mode < 2) (w 0), s.endOf g (w 1), use (mode == 2) (w 5), use (mode == 2) (w 6) with
    | some src, some dst, some table, some pool =>
      if bv ∧ !s.vaultGranted g (bitsOf (w 4) 31 26) boff then none
      else some { mode := mode, src := src, dst := dst, tag := bitsOf (w 2) 53 48, rows := bitsOf (w 2) 47 32, len := bitsOf (w 2) 31 0,
                  dstr := sgn 32 (bitsOf (w 3) 63 32), sstr := sgn 32 (bitsOf (w 3) 31 0), bv := bv, bvault := bitsOf (w 4) 31 26,
                  boff := boff, aux := w 5, table := table, pool := pool, first := bitsOf (w 7) 31 0, pos := 0, bad := false,
                  got := [], fetch := 0, map := none, fill := [], stuck := false, wins := [] }
    | _, _, _, _ => none

/-- Rows a copy moves (R267). -/
def Copy.nrows (c : Copy) : Nat := if c.mode = 0 then 1 else if c.mode = 2 then 16 * (c.rows + 1) else c.rows + 1
/-- Bytes a copy moves. -/
def Copy.total (c : Copy) : Nat := c.nrows * c.len

/-- A range of an end, by the checks of R252; `mem` is checked as it is reached. -/
def State.endPlace (s : State) (c : Copy) (e : End) (off : Int) (n : Nat) (wr : Bool) : Except Nat (Place × Nat) :=
  s.place e.g c.wins ⟨e.space, (e.off : Int) + off, n, !wr, wr, 0⟩

/-- Every row of an end that steps by `str` passes; the cause otherwise. -/
def State.rowsFail (s : State) (c : Copy) (e : End) (str : Int) (rows len : Nat) (wr : Bool) : Option (Nat × Nat) :=
  if len = 0 ∨ rows = 0 ∨ e.space = 4 then none
  else
    match s.endPlace c e 0 len wr, s.endPlace c e (((rows - 1 : Nat) : Int) * str) len wr with
    | .error x, _ => some (x, e.off)
    | _, .error x => some (x, (BitVec.ofInt 64 ((e.off : Int) + ((rows - 1 : Nat) : Int) * str)).toNat)
    | _, _ => none

/-- The valid entry of a gather's block as it stands now, with no look-up made: through the block-map cache, else from the table. -/
def State.peekEntry (s : State) (g : Nat) (c : Copy) (b : Nat) : Option Nat :=
  match s.endPlace c c.table (4 * (c.first + b) : Nat) 4 false with
  | .ok (.phys a, _) =>
    (match (s.tile g).bmc.find? (fun x => x.1 == a - 4 * (c.first + b) && x.2.1 == c.first + b) with
     | some x => some x.2.2
     | none =>
       let e := s.readUnder (redirect s.migs a) 4 (winKey c.wins c.table.space)
       if s.badBlock (.phys a) ∨ e / 2 ^ 31 % 2 = 0 then none else some (e % 2 ^ 31))
  | _ => none

/-- The pool block with an index passes its range check (R252, R268); the cause otherwise. -/
def State.poolFail (s : State) (c : Copy) (k : Nat) : Option (Nat × Nat) := s.rowsFail c c.pool 0 1 ((k + 1) * 16 * c.len) false

/-- The range checks before any byte moves (R268): the cause and offset of a failure. A gather's table and pool are checked at their bases, and
the pool range of every block whose entry is valid then; each block's range is checked again when its entry is looked up, and an entry beyond the
table's length concerns that block alone (R170) (DEDUCED, log entry 61). -/
def State.copyFail (s : State) (g : Nat) (c : Copy) : Option (Nat × Nat) :=
  let src := if c.mode < 2 then s.rowsFail c c.src c.sstr c.nrows c.len false else none
  let pool := if c.mode = 2 ∧ c.len ≠ 0 then (match s.rowsFail c c.table 0 1 4 false with | some x => some x | none => s.rowsFail c c.pool 0 1 c.len false)
    else none
  let pool := if c.mode = 2 ∧ c.len ≠ 0 ∧ pool.isNone then (List.range (c.rows + 1)).findSome? (fun j => (s.peekEntry g c j).bind (s.poolFail c)) else pool
  let dst := s.rowsFail c c.dst c.dstr c.nrows c.len true
  match src, pool with | some x, _ => some x | none, some x => some x | none, none => dst

/-- The element code that names the Porter: one of 28 to 31 (R396), which the spec leaves open (DESIGN CHOICE, log entry 33). -/
def State.porterCode (s : State) : Nat × State :=
  let (v, s) := s.takeFree
  (28 + v.toNat % 4, s)

/-- A copy's failed check (R112, R268): the tag's error bit, and an error token with the issue's tag to the sink (R426). -/
def State.copyError (s : State) (r : Req) (tag cause off : Nat) : State :=
  match r.who with
  | .ctx g p _ =>
    let (k, s) := s.porterCode
    (s.setCpErr g p tag).toSink g (Tok.error r.thread r.iter 0 (errPayload cause g k off))
  | _ => s

/-- Put a copy's progress back. -/
def State.setCopy (s : State) (r : Req) (c : Copy) : State := s.updReq r.id (fun q => { q with op := .copy c })

/-- Fail a copy: bytes landed stay, nothing further moves (R268). -/
def State.failCopy (s : State) (r : Req) (c : Copy) (cause off : Nat) : State :=
  (s.copyError r c.tag cause off).setCopy r { c with bad := true, got := [] }

/-- A copy instruction names its descriptor (R266): it is read and checked at the home of `ea`, the verdict follows. -/
def runCopy (i : Instr) (f : Fields) (s : State) (op : Nat) : State :=
  let lit := siteLit s
  runTaskMem i f s (fun _ a _ => nine ((a + BitVec.ofInt 64 (litOff lit)).toNat % 64 != 0))
    (fun _ => ⟨.cp, .desc (BitVec.ofNat 32 (op * 2 ^ 24)), 1, 64, [0], 0, true, false, 0, false, false, true, 28⟩)

/-- `cp` (R267). -/
def execCp (f : Fields) (s : State) : Host.Outcome State Fault Refusal := .next (runCopy (.iCp f) f s 0xB0)
/-- `cp2` (R267). -/
def execCp2 (f : Fields) (s : State) : Host.Outcome State Fault Refusal := .next (runCopy (.iCp2 f) f s 0xB1)
/-- `cpg` (R267). -/
def execCpg (f : Fields) (s : State) : Host.Outcome State Fault Refusal := .next (runCopy (.iCpg f) f s 0xB2)
/-- `cps` (R267). -/
def execCps (f : Fields) (s : State) : Host.Outcome State Fault Refusal := .next (runCopy (.iCps f) f s 0xB3)

/-- Refuse with an illegal-instruction cause: the trap value is the word (R239). -/
def State.refuseWord (s : State) (r : Req) : State :=
  match r.who with
  | .ctx g p c =>
    let w := NMap.get (if (s.ctx g p c).steward then (s.tp g p).sstore else (s.tp g p).store) r.slot 0xFFFFFFFF
    let s := s.unissue r
    s.takeTrap g p c 9 (BitVec.ofNat 11 r.slot) (w.setWidth 64) r.rpt
  | _ => s

/-- The descriptor of a copy has been read (R268): refused with cause 0x09, held at issue while its tag counts 31, or issued. -/
def State.copyDesc (s : State) (r : Req) (mode : Nat) (ws : List Word) : State :=
  match r.who with
  | .ctx g p x =>
    (match s.copyOf g mode ws with
     | none => s.refuseWord r
     | some c =>
       let n := NMap.get (s.tp g p).tags c.tag 0
       if 31 ≤ n then (s.unissue r).block g p x (.blkEngine (.tag c.tag))
       else
         let s := s.updTp g p (fun q => { q with tags := NMap.set q.tags c.tag (n + 1), cpdone := q.cpdone &&& ~~~(BitVec.ofNat 64 (2 ^ c.tag)) })
         let wins := (s.ctx g p x).wins
         let c := { c with wins := wins }
         let used := [c.src, c.dst, c.table, c.pool].map (·.space)
         let s := s.updReq r.id (fun q => { q with op := .copy c, phase := .accepted, pieces := [], pages := used.eraseDups.flatMap (winPages wins) })
         let s := match s.copyFail g c with
           | some (cause, off) => s.failCopy r c cause off
           | none => s
         s.settle r.id)
  | _ => s

/-! Beats (R114, R267 to R269, R325). -/

/-- Translate a place of a copy in `mem` (R268, R325). -/
inductive Reach where
  | at (pl : Place) (kind : Nat) (key : Option Nat)
  | fails (cause : Nat)
  /-- The walk meets a block in error (R408). -/
  | bad (pa : Nat)
  | waits (level reason : Nat) (pte : Word)
  deriving DecidableEq, Repr

/-- Reach `n` bytes at an offset of an end: a place, a failure, or a page without a translation. -/
def State.reachEnd (s : State) (r : Req) (g : Nat) (c : Copy) (e : End) (off : Int) (n : Nat) (wr : Bool) : Reach × State :=
  match s.endPlace c e off n wr with
  | .error c => (.fails c, s)
  | .ok (.virt va, _) =>
    (match s.translate g r.tenant (s.rootOf r.inst) va (if wr then 2 else 1) s.ev.flag with
     | (.ok l, s) =>
       if l.kind = 3 then (.fails 0x27, s)
       else if !s.paOk (l.pa va) l.key then (.fails 0x21, s)
       else (.at (.phys (l.pa va)) l.kind (some l.key), s)
     | (.denied, s) => (.fails 0x25, s)
     | (.dead, s) => (.fails 0x21, s)
     | (.bad pa, s) => (.bad pa, s)
     | (.fault l w e, s) => (.waits l w e, s))
  | .ok (pl, k) => (.at pl k (winKey c.wins e.space), s)

/-- Withhold a copy at a page (R325): at its source, where bytes already fetched still land, or at its destination.
With 64 re-issue entries of the tile in use it is not yet withheld, and its beat walks again later (R405 leaves it open: DESIGN CHOICE, log entry 24). -/
def State.withholdCopy (s : State) (r : Req) (g va : Nat) (c : Copy) (wr : Bool) (level reason : Nat) (pte : Word) : State :=
  if r.withheld.isSome ∨ 64 ≤ s.nodeQueue g then s
  else
    let (k, s) := s.porterCode
    (s.setCopy r { c with stuck := wr }).faulted r (s.setCopy r { c with stuck := wr } |>.pageFault r.inst r.tenant g k (if wr then 1 else 0) va level reason pte)

/-- The row and byte of a position. -/
def Copy.rowOf (c : Copy) (pos : Nat) : Nat × Nat := if c.len = 0 then (0, 0) else (pos / c.len, pos % c.len)

/-- Where the byte at a position is read: the end, its offset, and how many bytes follow in the row. -/
def Copy.srcAt (c : Copy) (pos : Nat) : End × Int :=
  let (j, k) := c.rowOf pos
  if c.mode = 2 then (c.pool, (((c.map.map (·.1)).getD 0 * 16 * c.len + (j % 16) * c.len + k : Nat) : Int)) else (c.src, (j : Int) * c.sstr + (k : Int))
/-- Where the byte at a position is written. -/
def Copy.dstAt (c : Copy) (pos : Nat) : Int := let (j, k) := c.rowOf pos; (j : Int) * c.dstr + (k : Int)

/-- How a look-up of a block's entry ends. -/
inductive Look where
  | block (k base : Nat)
  | none
  | bad (pa : Nat)
  deriving DecidableEq, Repr

/-- A read of an agent at a place, under a key slot (R99), passing over `k` writes it may miss (R117, R118). -/
def State.agentRead (s : State) (who : Agent) (pl : Place) (key : Option Nat) (n k : Nat) : Nat × State :=
  match pl with
  | .spad g o => (s.readSp g o n, s)
  | .phys a =>
    let (v, s) := s.readAs who (redirect s.migs a) n k false
    (s.underKey (redirect s.migs a) n key v, s)
  | .virt _ => (0, s)

/-- The pool block of a table entry (R170): through the block-map cache; none where the entry is invalid or lies beyond the table; an entry in
a block in error is a machine check (R408). A full cache keeps the 256 newest look-ups: the spec does not say which entry it drops (DESIGN CHOICE,
log entry 69). -/
def State.lookup (s : State) (g : Nat) (c : Copy) (b : Nat) : Look × State :=
  match s.endPlace c c.table (4 * (c.first + b : Nat) : Nat) 4 false with
  | .ok (.virt _, _) => (.none, s)
  | .error _ => (.none, s)
  | .ok (pl, _) =>
    let base := pl.addr - 4 * (c.first + b)
    match (s.tile g).bmc.find? (fun x => x.1 == base && x.2.1 == c.first + b) with
    | some x => (.block x.2.2 base, s)
    | none =>
      if s.badBlock pl ∨ s.ev.e = 2 then (.bad pl.addr, s)
      else
        let (e, s) := s.agentRead (.porter g) pl (winKey c.wins c.table.space) 4 s.ev.c
        if e / 2 ^ 31 % 2 = 1 then
          (.block (e % 2 ^ 31) base, s.updTile g (fun t => { t with bmc := ((base, c.first + b, e % 2 ^ 31) :: t.bmc).take 256 }))
        else (.none, s)

/-- The block word at a place (R52, R100). -/
def State.blockWordAt (s : State) (pl : Place) : Nat :=
  match pl with
  | .spad g o => s.metaSp g o
  | .phys a => s.metaPa a
  | .virt _ => 0

/-- The destination of the next bytes fetched, where it lies in `mem`, is a page without a translation (R325): the page's address and reason. -/
def State.dstWaits (s : State) (r : Req) (g : Nat) (c : Copy) (n : Nat) : Option (Nat × Nat × Nat × Word) × State :=
  let at' (pos : Nat) : Nat := ((c.dst.off : Int) + c.dstAt pos).toNat
  let look (s : State) (pos : Nat) : Option (Nat × Nat × Nat × Word) × State :=
    match s.reachEnd r g c c.dst (c.dstAt pos) 1 true with
    | (.waits l w pte, s) => (some (at' pos, l, w, pte), s)
    | (_, s) => (none, s)
  if c.dst.space ≠ 4 then (none, s)
  else
    match look s c.fetch with
    | (some x, s) => (some x, s)
    | (none, s) => if at' c.fetch / 4096 = at' (c.fetch + n - 1) / 4096 then (none, s) else look s (c.fetch + n - 1)

/-- Fetch the next source bytes of a copy: to the end of an aligned 8-byte word of the memory it lies in (R269), as the tile's Porter sees it. A beat
whose destination page has no translation is not read (R325): once the beats below it have landed, the copy is withheld there. -/
def State.fetchBeat (s : State) (r : Req) (g : Nat) (c : Copy) : State :=
  let (j, k) := c.rowOf c.fetch
  if c.fetch - c.pos ≠ c.got.length ∨ c.total ≤ c.fetch ∨ c.mode = 3 ∨ 4096 ≤ c.got.length then s
  else if c.mode = 2 ∧ j % 16 = 0 ∧ k = 0 ∧ c.map.isNone then
    if c.got ≠ [] then s
    else
      match s.lookup g c (j / 16) with
      | (.block b base, s) =>
        (match s.poolFail c b with
         | some (cause, off) => s.failCopy r c cause off
         | none => s.setCopy r { c with map := some (b, base, c.first + j / 16) })
      | (.bad pa, s) => s.dataError r pa
      | (.none, s) =>
        (s.copyError r c.tag 0x3A (4 * (c.first + j / 16))).setCopy r { c with pos := c.pos + 16 * c.len, fetch := c.fetch + 16 * c.len }
  else
    let (e, off) := c.srcAt c.fetch
    let a := ((e.off : Int) + off).toNat
    let n := min (8 - (winBase c.wins e.space + a) % 8) (c.len - k)
    match s.dstWaits r g c n with
    | (some (va, l, w, pte), s) => if c.got = [] then s.withholdCopy r g va c true l w pte else s
    | (none, s) =>
    match s.reachEnd r g c e off n false with
    | (.fails cause, s) => s.failCopy r c cause a
    | (.bad pa, s) => s.dataError r pa
    | (.waits l w pte, s) => s.withholdCopy r g a c false l w pte
    | (.at pl _ key, s) =>
      if s.badBlock pl ∨ (s.ev.e = 2 ∧ pl.isPhys) then s.dataError r pl.addr
      else
        let (v, s) := s.agentRead (.porter g) pl key n s.ev.c
        let last := c.mode == 2 && (c.fetch + n) % (16 * c.len) == 0
        let bs := (bytesOfNat n v).zipIdx.map (fun b => (b.1, pl.off b.2, s.blockWordAt pl))
        let s := s.setCopy r { c with got := c.got ++ bs, fetch := c.fetch + n, map := if last then none else c.map }
        if c.stuck then s else s.unheld r

/-- Landed bytes are entered in their destination block: each with its source block, where it stood at the same place in that. -/
def Copy.landed (c : Copy) (dst : Nat) (bs : List (Byte × Place × Nat)) : Copy :=
  let f := NMap.get c.fill (dst / 64) []
  { c with fill := NMap.set c.fill (dst / 64) (bs.zipIdx.foldl (fun (m : NMap (Option Place)) b =>
      NMap.set m ((dst + b.2) % 64) (if c.mode != 3 ∧ b.1.2.1.addr % 64 = (dst + b.2) % 64 then some (b.1.2.1.align 64) else none)) f) }

/-- What a landing does to the block of its destination (R55, R267, R408): once the copy has filled the whole of it its error ends, and it takes
the block word of its source block, where all of it came from one. -/
def State.carryBlock (s : State) (c : Copy) (dst : Place) (m : Nat) : State :=
  let f := NMap.get c.fill (dst.addr / 64) []
  if f.length < 64 then s
  else
    let one := match f with | (_, some b) :: l => l.all (fun x => x.2 == some b) | _ => false
    match dst with
    | .spad g o => if one then s.setMetaSp g o m else s
    | .phys a =>
      let s := { s with bad := s.bad.filter (· != redirect s.migs a / 64) }
      if one then s.setMetaPa a m else s
    | .virt _ => s

/-- A beat of a copy is written at its destination (R127, R267): a posted write of its page kind by the tile's Porter. -/
def State.beatWrite (s : State) (r : Req) (g : Nat) (pl : Place) (kind n v : Nat) (key : Option Nat) : State :=
  match pl with
  | .spad h o => s.writeSp h o n v
  | .phys a =>
    (if kind = 1 ∨ kind = 2 then (s.keyTag (redirect s.migs a) n key).postWrite r.inst r.id (.porter g) (kind == 2) none a n v
     else s.putPa a n v key).afterWrite a
  | .virt _ => s

/-- The writes of a copy, as far as it has come, are released at its scope (R127): what an acquire reads of it. -/
def State.copyRelease (s : State) (r : Req) (g : Nat) (mks : List Mark) : State :=
  s.releaseAt (.porter g) (fun e => e.who == .porter g && e.slot == r.id && !e.un) r.sc mks

/-- A landing beat counts toward the barrier (R114, R115): false where pend would pass its limit. A party that the barrier then answers has the
copy's writes so far, released at its scope (R131, R133). -/
def State.landBar (s : State) (r : Req) (g : Nat) (c : Copy) (n : Nat) : Bool × State :=
  if !c.bv then (true, s)
  else
    let pa := vaultAddr c.bvault + c.boff
    let w1 := s.readPa (pa + 8) 8
    let x := pendOf w1 - (n : Int)
    if pendOk x then (true, ((s.setPend pa w1 x).copyRelease r g [.bar pa (s.readPa pa 8 / 2 ^ 32 % 256)]).tryRelease pa)
    else (false, s.barErr pa (s.readPa pa 8))

/-- Land the next bytes of a copy: to the end of an aligned 8-byte word of the memory it lies in. -/
def State.landBeat (s : State) (r : Req) (g : Nat) (c : Copy) : State :=
  let (_, k) := c.rowOf c.pos
  let off := c.dstAt c.pos
  let a := ((c.dst.off : Int) + off).toNat
  let n := min (8 - (winBase c.wins c.dst.space + a) % 8) (c.len - k)
  let bytes : List (Byte × Place × Nat) :=
    if c.mode = 3 then (List.range n).map (fun q => (BitVec.ofNat 8 (c.aux.toNat / 256 ^ ((k + q) % 8)), Place.virt 0, 0)) else c.got.take n
  if bytes.length ≠ n ∨ c.total ≤ c.pos ∨ n = 0 then s
  else
    match s.reachEnd r g c c.dst off n true with
    | (.fails cause, s) => s.failCopy r c cause a
    | (.bad pa, s) => s.dataError r pa
    | (.waits l w pte, s) => s.withholdCopy r g a c true l w pte
    | (.at pl kind key, s) =>
      let s := s.beatWrite r g pl kind n (natOfBytes (bytes.map (·.1))) key
      let c := c.landed pl.addr bytes
      let s := s.carryBlock c pl ((bytes.getLast?.map (·.2.2)).getD 0)
      let s := if c.stuck then s.unheld r else s
      let c := { c with pos := c.pos + n, got := c.got.drop n, fetch := if c.mode = 3 then c.pos + n else c.fetch, stuck := false }
      match s.landBar r g c n with
      | (true, s) => (s.setCopy r c).progress r.inst
      | (false, s) => s.failCopy r c 0x2E a

/-- PORTER_BEAT_LANDING (R114, R267): `e` = 1 fetches the next source bytes, `e` = 2 finds that a table entry or
a source word so read cannot be corrected (R408), else the next bytes fetched land. A copy withheld at a page of its
source lands what it has fetched, one withheld at its destination nothing (R325). `c`: writes its read passes over. -/
def execPorterBeatLanding (s : State) : Host.Outcome State Fault Refusal :=
  .next (match s.liveReq s.ev.id with
    | none => s
    | some r =>
      match r.op, r.who with
      | .copy c, .ctx g _ _ =>
        if c.bad then s
        else if s.ev.e = 1 ∨ s.ev.e = 2 then (if r.withheld.isSome then s else s.fetchBeat r g c)
        else if r.withheld.isSome && c.stuck then s
        else s.landBeat r g c
      | _, _ => s)

/-- COPY_LANDED (R112, R268): every destination write is performed, or the copy has failed; the counts fall and the tag's bit is
set at zero, a release of the copy's writes at its scope (R123, R127). -/
def execCopyLanded (s : State) : Host.Outcome State Fault Refusal :=
  .next (match s.liveReq s.ev.id with
    | none => s
    | some r =>
      match r.op, r.who with
      | .copy c, .ctx g p x =>
        if !c.bad ∧ c.pos < c.total then s
        else
          let s := (s.unheld r).dropReq r.id
          let s := s.copyRelease r g [.tag g p c.tag, .cp g p x]
          let s := (s.landTag g p c.tag).wakeTile g
          s.countDown r.who .cp
      | _, _ => s)

/-! Block-map invalidation (R171, R274). -/

/-- `bmc.inv` (R274): completes once every Porter within its scope has invalidated. -/
def execBmcInv (f : Fields) (s : State) : Host.Outcome State Fault Refusal :=
  .next (runTaskMem (.iBmcInv f) f s noBad
    (fun t => ⟨.st, .bmcInv (bitsOf t.d 31 0) (bitsOf t.d 63 32), 4, 4, [0], 0, true, false, 0, false, false, false, 28⟩))

/-- A tile lies within a scope of an issuing tile (R118, R274). -/
def inScope (g sc h : Nat) : Bool := if sc = 0 then g == h else if sc = 1 then g / 48 == h / 48 else true

/-- An invalidation covers the entry of a logical block of a table (R171, R274). -/
def bmcCovers (addr first count base b : Nat) : Bool := base == addr && (count == 0 || (decide (first ≤ b) && decide (b < first + count)))
/-- A gather of a Porter within scope is reading a block whose entry, now invalidated, it has looked up (R171). -/
def State.gathering (s : State) (g sc addr first count : Nat) : Bool :=
  s.reqs.any (fun r => match r.op, r.who with
    | .copy c, .ctx h _ _ => inScope g sc h && (match c.map with | some (_, base, b) => bmcCovers addr first count base b | none => false)
    | _, _ => false)

/-- The bytes of a table that an invalidation covers: a count of 0 covers every entry, of any number 32 bits give. -/
def bmcRange (addr first count : Nat) : Nat × Nat := if count = 0 then (addr, 2 ^ 34) else (addr + 4 * first, 4 * count)

/-- What the issuer has stored to the covered entries is there for every Porter within scope that looks one up afresh (R171). -/
def State.bmcReveal (s : State) (who : Agent) (g sc lo n : Nat) : State :=
  { s with stale := s.stale.map (fun e =>
      if e.who == who && !e.un && e.bytes.any (fun b => decide (lo ≤ b.1) && decide (b.1 < lo + n)) then
        { e with vis := (sc, g) :: e.vis, seen := if sc = 0 then .porter g :: e.seen else e.seen }
      else e) }

/-- The invalidation is performed at every Porter within scope once no gather there reads a block (R171), and the issuer's earlier stores to the
covered entries are performed. -/
def State.doBmcInv (s : State) (r : Req) (first count addr : Nat) : State :=
  match r.who with
  | .ctx g _ _ =>
    let (lo, n) := bmcRange addr first count
    let storing : Bool := (s.earlier r).any (fun q => q.op.writes && !q.performed &&
      q.pieces.any (fun x => !x.done && (x.place.overlaps x.n (.phys lo) n || x.place.unknown (.phys lo))))
    if s.gathering g r.sc addr first count ∨ storing then s
    else
      let s := s.bmcReveal r.who g r.sc (redirect s.migs lo) n
      let hit (x : Nat × Nat × Nat) : Bool := bmcCovers addr first count x.1 x.2.1
      let s := { s with tiles := s.tiles.map (fun (t : Nat × Tile) => if inScope g r.sc t.1 then (t.1, { t.2 with bmc := t.2.bmc.filter (fun x => !hit x) }) else t) }
      s.finish r.id 0
  | _ => s

end Sys2Proof.Machine
end

