-- ==== Sys2Proof/Machine/Firing.lean ====
section
/-! DEFINITION. FIRING: the matched set an element fires next, and what it consumes (R31 to R33, R36, R38, R39, R220, R221,
R224, R226, R227, R245, R246). -/

namespace Sys2Proof.Machine

/-- The last iteration a token covers (R27): iter + len, not taken modulo 2^20, for a run that reaches past the last iteration (R32 leaves it
open: DESIGN CHOICE, log entry 63). -/
def Tok.last (k : Tok) : Nat := k.iter + k.len

/-- The part of a token from iteration `lo` to `hi` (R32). -/
def Tok.slice (k : Tok) (lo hi : Nat) : Tok :=
  { k with iter := lo, len := hi - lo, lanes := (k.lanes.drop (lo - k.iter)).take (hi + 1 - lo),
           idx := if k.kind = .window then k.idx else (k.idx.drop (lo - k.iter)).take (hi + 1 - lo) }

/-- The first `some` answer over a list. -/
def firstSome {α β : Type} (f : α → Option β) : List α → Option β
  | [] => none
  | a :: r => match f a with | some b => some b | none => firstSome f r

/-- A token for each port, of one thread and not younger than `arr`, oldest first, all overlapping (R31, R33): the picks
and the overlap. -/
def pickSet (st : List Entry) (slot thread arr : Nat) : List Nat → Nat → Nat → Option (List (Nat × Entry) × Nat × Nat)
  | [], lo, hi => some ([], lo, hi)
  | p :: ps, lo, hi =>
    firstSome (fun n : Entry =>
      if n.slot = slot ∧ n.port = p ∧ n.tok.thread = thread ∧ n.arr ≤ arr ∧ n.tok.iter ≤ hi ∧ lo ≤ n.tok.last then
        match pickSet st slot thread arr ps (max lo n.tok.iter) (min hi n.tok.last) with
        | some (l, lo, hi) => some ((p, n) :: l, lo, hi)
        | none => none
      else none) st

/-- A matched set. -/
structure Match where
  slot : Nat
  word : Lane
  lit : Word
  picks : List (Nat × Entry)
  /-- Control ports and how many pulses each gives up. -/
  pulses : List (Nat × Nat)
  lo : Nat
  hi : Nat
  thread : Nat
  /-- Arrival of the latest member. -/
  arr : Nat
  deriving DecidableEq, Repr

/-- A token is ready at a slot by the slot's own rule (R221, R226, R227). -/
def tokReady (i : Instr) (el : Elem) (slot : Nat) (k : Tok) : Bool :=
  k.isBad ||
    (match i with
     | .iReord _ =>
       (match NMap.find el.reord k.thread with
        | some x => decide (k.iter ≤ x)
        | none => false)
     | .iCmpfw _ =>
       k.lanes != [] || bitOf k.value 63 || decide (el.pairs.length < 32) ||
         el.pairs.any (fun q => q.slot == slot && q.thread == k.thread && q.iter == k.iter)
     | .iTopkRp _ =>
       decide (el.topk.length < 32) || el.topk.any (fun q => q.slot == slot && q.thread == k.thread && q.iter == k.iter)
     | _ => true)

/-- A set whose part of its token lies past the expected iteration is held (R221). -/
def Match.held (m : Match) (i : Instr) (el : Elem) : Bool :=
  match i, NMap.find el.reord m.thread with
  | .iReord _, some x => decide (x < m.lo)
  | _, _ => false

/-- The slot fires on any one source (R220, R226). -/
def anyOne : Instr → Bool
  | .iMerge _ => true
  | .iCmpfw _ => true
  | _ => false

/-- The value of an operand that needs no token. -/
def Elem.plain (el : Elem) (lit : Word) (code : Nat) : Option Word :=
  if code < 16 then none
  else if code < 24 then some (el.e[code - 16]?.getD 0)
  else if code = 31 then some lit
  else some 0

/-- Source ports of a word, each once (R31). -/
def srcPorts (h : Shape) (f : Fields) : List Nat :=
  ([f.a.toNat, f.b.toNat] ++ (if h.e.isSrc then [f.e.toNat] else [])).filter (fun k => k < 16 || (24 ≤ k && k < 28)) |>.eraseDups

/-- Pulses waiting at a control port of a slot. -/
def Elem.waiting (el : Elem) (slot port : Nat) : List Nat := NMap.get el.ctl (4 * slot + (port - 24)) []

/-- How many pulses the slot's control ports give up (R31, R224). -/
def pulsesNeeded (i : Instr) (el : Elem) (lit : Word) (f : Fields) (picks : List (Nat × Entry)) : Nat :=
  match i with
  | .iCtlWt _ =>
    let v := match el.plain lit f.b.toNat with
      | some v => v
      | none => match NMap.find picks f.b.toNat with | some n => n.tok.value | none => 0
    max 1 (bitsOf v 7 0)
  | _ => 1

/-- Add the pulses a set needs; none while they are not all there. -/
def withPulses (el : Elem) (slot need : Nat) : List Nat → Match → Option Match
  | [], m => some m
  | p :: ps, m =>
    match (el.waiting slot p)[need - 1]? with
    | some a => withPulses el slot need ps { m with pulses := (p, need) :: m.pulses, arr := max m.arr a }
    | none => none

/-- The oldest matched set of a slot, if any (R31, R33). -/
def slotMatch (el : Elem) (slot : Nat) : Option Match :=
  let q := NMap.get el.planes el.apl Plane.empty
  let w := NMap.get q.words slot 0xFFFFFFFF
  let lit := NMap.get q.lits slot 0
  if !q.mask.getLsbD slot then none
  else
    match decodeWord w with
    | .error _ => none
    | .ok i =>
      match elemShape i with
      | none => none
      | some h =>
        let f := fieldsOf w
        let ports := srcPorts h f
        let data := ports.filter (· < 16)
        let ctl := ports.filter (24 ≤ ·)
        let none' : Match := ⟨slot, w, lit, [], [], 0, 0, 0, 0⟩
        let one (n : Entry) : Match := ⟨slot, w, lit, [(n.port, n)], [], n.tok.iter, n.tok.last, n.tok.thread, n.arr⟩
        if anyOne i then
          let toks := el.store.filter (fun n => n.slot == slot && data.contains n.port && tokReady i el slot n.tok)
          let cs := toks.map one ++ ctl.filterMap (fun p => withPulses el slot 1 [p] none')
          cs.foldl (fun (b : Option Match) m => match b with | some x => if x.arr ≤ m.arr then b else some m | none => some m) none
        else if data = [] then
          if ctl = [] then none else withPulses el slot (pulsesNeeded i el lit f []) ctl none'
        else
          firstSome (fun n : Entry =>
            if n.slot = slot ∧ data.contains n.port ∧ (n.port ≠ f.a.toNat ∨ tokReady i el slot n.tok ∨ f.b.toNat < 16) then
              match pickSet el.store slot n.tok.thread n.arr (data.filter (· != n.port)) n.tok.iter n.tok.last with
              | some (l, lo, hi) =>
                let m : Match := ⟨slot, w, lit, (n.port, n) :: l, [], lo, hi, n.tok.thread, n.arr⟩
                if m.picks.all (fun x => !x.2.tok.isBad) && (m.picks.any (fun x => x.1 == f.a.toNat && !tokReady i el slot x.2.tok) || m.held i el) then none
                else withPulses el slot (pulsesNeeded i el lit f ((n.port, n) :: l)) ctl m
              | none => none
            else none) el.store

/-- The set fires before another: older, then lower iteration, then lower slot (R33). -/
def Match.before (x y : Match) : Bool :=
  decide (x.arr < y.arr) || (x.arr == y.arr && (decide (x.lo < y.lo) || (x.lo == y.lo && decide (x.slot < y.slot))))

/-- The set an element fires next. -/
def nextMatch (el : Elem) : Option Match :=
  ((List.range 64).filterMap (slotMatch el)).foldl
    (fun (b : Option Match) m => match b with | some x => if m.before x then some m else b | none => some m) none

/-- Consume the overlap of one token: the parts below and above stay in its place (R32). A firing of three sources can so leave up to four
parts, and a full store hold more than 128 entries, where R33 speaks of two at most: the model follows R32 (DEDUCED, log entry 63). -/
def consume (n : Entry) (lo hi : Nat) : List Entry → List Entry
  | [] => []
  | x :: r =>
    if x = n then
      (if x.tok.iter < lo then [{ x with tok := x.tok.slice x.tok.iter (lo - 1) }] else []) ++
      (if hi < x.tok.last then [{ x with tok := x.tok.slice (hi + 1) x.tok.last }] else []) ++ r
    else x :: consume n lo hi r

/-- Take pulses from the control ports of a slot. -/
def takePulses (slot : Nat) : List (Nat × Nat) → NMap (List Nat) → NMap (List Nat)
  | [], m => m
  | (p, k) :: r, m =>
    takePulses slot r (NMap.set m (4 * slot + (p - 24)) ((NMap.get m (4 * slot + (p - 24)) []).drop k))

/-- The firing a matched set begins. -/
def Match.fire (m : Match) (n : Nat) : Fire :=
  let toks := m.picks.map (fun x => (x.1, x.2.tok.slice m.lo m.hi))
  { slot := m.slot, word := m.word, lit := m.lit, toks := toks, thread := m.thread, iter := m.lo, n := m.hi + 1 - m.lo,
    vec := toks.any (fun x => x.2.kind == .vector || (x.2.kind == .eor && x.2.lanes != [])),
    eor := toks.any (fun x => x.2.kind == .eor), fire := n }

/-- The element after it has begun a firing. -/
def Elem.begin (el : Elem) (m : Match) : Elem :=
  { el with store := m.picks.foldl (fun st x => consume x.2 m.lo m.hi st) el.store, ctl := takePulses m.slot m.pulses el.ctl,
            cur := some (m.fire el.fireSeq), fireSeq := el.fireSeq + 1, skipBrk := false }

/-- The value of srcB for the firing of a waiting token (R177): its own tag and length where b is tg or cnt, and that of the first token it can be
matched with where b is an in-port. -/
def Elem.srcBFor (el : Elem) (lit : Word) (slot code : Nat) (k : Tok) : Option Word :=
  if code < 16 then
    (el.store.find? (fun m => m.slot == slot && m.port == code && !m.tok.isBad && m.tok.thread == k.thread && decide (m.tok.iter ≤ k.last) && decide (k.iter ≤ m.tok.last))).map
      (fun m => (m.tok.slice (max k.iter m.tok.iter) (min k.last m.tok.last)).value)
  else if code = 29 then some (BitVec.ofNat 64 (k.thread * 2 ^ 20 + k.iter))
  else if code = 30 then some (BitVec.ofNat 64 (k.len + 1))
  else el.plain lit code

/-- Tokens waiting at a `reord` slot without an entry take one, in arrival order, while the table has room (R221). -/
def Elem.allocReord (el : Elem) : Elem :=
  let q := NMap.get el.planes el.apl Plane.empty
  el.store.foldl (fun (x : Elem) n =>
    let f := fieldsOf (NMap.get q.words n.slot 0)
    if q.op n.slot = 0x74 ∧ n.port = f.a.toNat ∧ !n.tok.isBad ∧ (NMap.find x.reord n.tok.thread).isNone ∧ x.reord.length < 64 then
      match x.srcBFor (NMap.get q.lits n.slot 0) n.slot f.b.toNat n.tok with
      | some v => { x with reord := NMap.set x.reord n.tok.thread (v.toNat % 2 ^ 20) }
      | none => x
    else x) el

/-- The element's breakpoint stops this set (R245, R246). -/
def elemBreak (t : Tile) (e : Nat) (el : Elem) (m : Match) : Bool :=
  let role := t.role e
  let flt := NMap.get t.filter role 0
  bitOf (NMap.get t.shadow (4 * role + el.apl) 0) m.slot && !el.skipBrk &&
    (!bitOf flt 12 || bitsOf flt 11 0 == m.thread) && (!bitOf flt 33 || bitsOf flt 32 13 == m.lo)

/-- The element may begin a firing now (R38, R39, R245; DEDUCED, log entry 28). -/
def State.mayFire (s : State) (g e : Nat) : Bool :=
  let el := s.elem g e
  s.liveAt g && el.cur.isNone && !el.halt && !el.swapWait && !s.heldBack g e &&
    (isPort e || s.reqs.all (fun r => r.who != .elem g e))

/-- FIRING (R31): the element takes its oldest matched set, and the next step runs the instruction of the slot on it
(DESIGN CHOICE, log entry 4); an armed breakpoint halts the element before it fires (R245). An `xlt` waits
while its tile's node has no entry free (R405). -/
def execFiring (s : State) : Host.Outcome State Fault Refusal :=
  .next (let g := s.ev.g
    let e := s.ev.e
    if !elemOk e ∨ !s.mayFire g e then s
    else
      let s := s.updElem g e (·.allocReord)
      let el := s.elem g e
      match nextMatch el with
      | none => s
      | some m =>
        if m.word.toNat / 2 ^ 24 = 0xB5 ∧ 64 ≤ s.nodeQueue g then s
        else if elemBreak (s.tile g) e el m then s.updElem g e (fun x => { x with halt := true })
        else { s.updElem g e (fun x => x.begin m) with begun := some (g, e) })

end Sys2Proof.Machine
end

