-- ==== Sys2Proof/Machine/GraphCtl.lean ====
section
/-! DEFINITION. Graph control instructions 0x70 to 0x7F (R155 to R157, R217 to R228). -/

namespace Sys2Proof.Machine

/-- No token is accepted as an operand in place of propagating (R30). -/
def noneBad : Tok → Bool := fun _ => false

/-- Forward a source (R217): the consumed token under the firing's tag, or a scalar 0 for a control port. -/
def Fire.fwd (r : Fire) (code : Nat) : Tok :=
  match r.tok code with
  | some k => { k with thread := r.thread, iter := r.iter }
  | none => Tok.scalar r.thread r.iter 0

/-- Lanes of a source kept by a mask, emitted as `filt` emits them (R215, R219). -/
def Fire.keep (r : Fire) (a : Val) (whole : Tok) (mask : List Bool) : List Tok :=
  let kept := ((r.lanes a).zip (r.its a)).zip mask |>.filter (·.2) |>.map (·.1)
  if kept = [] then []
  else if kept.length = r.n ∧ a.idx = [] then [whole]
  else [Tok.vec r.thread r.iter (kept.map (·.1)) (kept.map (·.2))]

/-- A predicate by lane, or one for the whole token (R219). -/
def predOf (v : Val) : Sum Bool (List Bool) :=
  match v with
  | .sc w => .inl (w != 0)
  | .vec ls _ => .inr (ls.map (· != 0))

/-- `steer` (R219). -/
def execSteer (f : Fields) (s : State) : Host.Outcome State Fault Refusal :=
  .next (runElem (.iSteer f) s noneBad (fun s _ _ _ r a b _ =>
    let w := r.fwd f.a.toNat
    match predOf b with
    | .inl p => .ok (s, [if p then .a w else .b w])
    | .inr m => .ok (s, (r.keep a w m).map Out.a ++ (r.keep a w (m.map (!·))).map Out.b)))

/-- `merge` (R220): forwards the source that fired it. -/
def execMerge (f : Fields) (s : State) : Host.Outcome State Fault Refusal :=
  .next (runElem (.iMerge f) s noneBad (fun s _ _ _ r _ _ _ =>
    .ok (s, [.a (r.fwd (match r.toks with | q :: _ => q.1 | [] => 24))])))

/-- `gate` (R219). -/
def execGate (f : Fields) (s : State) : Host.Outcome State Fault Refusal :=
  .next (runElem (.iGate f) s noneBad (fun s _ _ _ r a b _ =>
    let w := r.fwd f.a.toNat
    if 24 ≤ f.b.toNat ∧ f.b.toNat < 28 then .ok (s, [.a w])
    else
      match predOf b with
      | .inl p => .ok (s, if p then [.a w] else [])
      | .inr m => .ok (s, (r.keep a w m).map Out.a)))

/-- `join` (R220). -/
def execJoin (f : Fields) (s : State) : Host.Outcome State Fault Refusal :=
  .next (runElem (.iJoin f) s noneBad (fun s _ _ _ r _ _ _ => .ok (s, [.a (r.fwd f.a.toNat)])))

/-- The iteration after a token (R221). -/
def Tok.after (k : Tok) : Nat := (k.iter + k.len + 1) % 2 ^ 20

/-- Release the held tokens of a thread that have become next, oldest first, at most `n` (R221): the tokens, the store left, the expected iteration,
and whether an end-of-round token was among them. Where srcB is an in-port, a token goes with the token that it is matched with there. -/
def reordRelease (slot port : Nat) (bport : Option Nat) (thread : Nat) : Nat → List Entry → Nat → List Tok × List Entry × Nat × Bool
  | 0, st, x => ([], st, x, false)
  | n + 1, st, x =>
    match st.find? (fun q => q.slot == slot && q.port == port && q.tok.thread == thread && q.tok.iter == x && !q.tok.isBad) with
    | none => ([], st, x, false)
    | some q =>
      let rest : List Entry := st.erase q
      let mate : Option (List Entry) := match bport with
        | none => some rest
        | some b =>
          match rest.find? (fun (m : Entry) => m.slot == slot && m.port == b && m.tok.thread == thread && decide (m.tok.iter ≤ q.tok.iter) && decide (q.tok.last ≤ m.tok.last)) with
          | some m => some (consume m q.tok.iter q.tok.last rest)
          | none => none
      match mate with
      | none => ([], st, x, false)
      | some st =>
        let (l, st, y, z) := reordRelease slot port bport thread n st q.tok.after
        (q.tok :: l, st, y, z || q.tok.kind == Kind.eor)

/-- Set or free the expected iteration of a thread. -/
def Elem.expect (x : Elem) (thread : Nat) (v : Option Nat) : Elem :=
  { x with reord := match v with | some n => NMap.set x.reord thread n | none => NMap.erase x.reord thread }

/-- `reord` (R221, R37): the entry of a thread is free again once an end-of-round token and the held tokens that follow it have gone. -/
def execReord (f : Fields) (s : State) : Host.Outcome State Fault Refusal :=
  .next (runElem (.iReord f) s noneBad (fun s g e el r _ b _ =>
    let w := r.fwd f.a.toNat
    let x := (NMap.find el.reord r.thread).getD (b.scal.toNat % 2 ^ 20)
    if r.iter < x then .error (0x42, w.value)
    else
      let (l, st, y, z) := reordRelease r.slot f.a.toNat (if f.b.toNat < 16 then some f.b.toNat else none) r.thread 128 el.store w.after
      let s := s.updElem g e (fun q => { q.expect r.thread (if r.eor || z then none else some y) with store := st, swapReq := q.swapReq || z })
      .ok (s, .a w :: l.map Out.a)))

/-- `sink` (R222): every kind is an operand; errors and faults are counted, the first one's payload recorded. -/
def execSink (f : Fields) (s : State) : Host.Outcome State Fault Refusal :=
  .next (runElem (.iSink f) s (fun _ => true) (fun s g _ _ r _ _ _ =>
    let w := r.fwd f.a.toNat
    let s := if w.kind = .err ∨ w.kind = .fault then
        match (s.tile g).inst with
        | some i => s.updReg i (fun q => { q with errors := q.errors + 1, first := match q.first with | some v => some v | none => some w.pay })
        | none => s
      else s
    .ok (s, [.a (Tok.scalar r.thread r.iter w.value)])))

/-- Cut the lanes of a run at the round boundaries (R223): pieces with their length and whether they end a round. -/
def eorCut (n : Nat) : Nat → Nat → Nat → List (Nat × Bool)
  | 0, run, _ => if run = 0 then [] else [(run, false)]
  | k + 1, run, c =>
    if c + 1 = n then (run + 1, true) :: eorCut n k 0 0 else eorCut n k (run + 1) (c + 1)

/-- The pieces of a run as tokens. -/
def eorToks (r : Fire) (a : Val) (w : Tok) (plain : Kind) : List (Nat × Bool) → Nat → List Tok
  | [], _ => []
  | (k, b) :: rest, at_ =>
    let t : Tok := if w.lanes = [] then w else
      { Tok.vec r.thread ((r.iter + at_) % 2 ^ 20) (((r.lanes a).drop at_).take k) ((a.idx.drop at_).take k) with kind := .vector }
    { t with kind := if b then .eor else plain } :: eorToks r a w plain rest (at_ + k)

/-- The last token takes kind end-of-round. -/
def markLast : List Tok → List Tok
  | [] => []
  | [k] => [{ k with kind := .eor }]
  | k :: r => k :: markLast r

/-- `eor` (R223). -/
def execEor (f : Fields) (s : State) : Host.Outcome State Fault Refusal :=
  .next (runElem (.iEor f) s noneBad (fun s g e el r a b _ =>
    let n := b.scal.toNat % 2 ^ 32
    let w := r.fwd f.a.toNat
    if n = 0 ∨ 2 ^ 20 < n then .error (0x40, b.scal)
    else
      let c := NMap.get el.eors r.slot 0
      let k := if w.lanes = [] then 1 else r.n
      let plain : Kind := if w.lanes ≠ [] then .vector else if w.kind = .ctl then .ctl else .scalar
      let cuts := eorCut n k 0 c
      let l := eorToks r a w plain cuts 0
      let l := if w.kind = .eor then markLast l else l
      let left := match cuts.getLast? with
        | some (m, ends) => if ends then 0 else if cuts.length = 1 then c + k else m
        | none => c
      .ok (s.updElem g e (fun x => { x with eors := NMap.set x.eors r.slot left }), l.map Out.a)))

/-- `itgen` (R223): the runs leave one at a time (ITGEN_RUN_EMIT). -/
def execItgen (f : Fields) (s : State) : Host.Outcome State Fault Refusal :=
  .next (runElem (.iItgen f) s noneBad (fun s g e _ r a b _ =>
    let n := a.scal.toNat % 2 ^ 32
    let k := bitsOf b.scal 5 0
    if 2 ^ 20 < n then .error (0x40, a.scal)
    else if k = 0 ∨ 32 < k then .error (0x40, b.scal)
    else if n = 0 then .ok (s, [])
    else .ok (s.updElem g e (fun x => { x with itgen := x.itgen ++
      [⟨r.slot, r.thread, n, k, 0, f.d.toNat, f.e.toNat, f.t.toNat, r.lit, r.tagB, r.fire⟩] }), [])))

/-! Tournaments (R155, R225 to R227). -/

/-- Score and expert of a candidate. -/
def candScore (v : Word) : FVal := val32 (v.setWidth 32)
/-- The expert id. -/
def candId (v : Word) : Nat := bitsOf v 39 32
/-- Candidate x beats y under R155, with the exclusion rule of R225 first. -/
def candBeats (x y : Word) : Bool :=
  if bitOf x 61 != bitOf y 61 then bitOf y 61
  else if bitOf x 61 then decide (candId x < candId y)
  else
    match candScore x, candScore y with
    | .nan, .nan => decide (candId x < candId y)
    | .nan, _ => false
    | _, .nan => true
    | p, q => if q.lt p then true else if p.lt q then false else decide (candId x < candId y)
/-- The winner of two candidates. -/
def candBest (x y : Word) : Word := if candBeats y x then y else x
/-- Set a bit of a candidate. -/
def setBit64 (v : Word) (k : Nat) (b : Bool) : Word := if b then v ||| BitVec.ofNat 64 (2 ^ k) else v &&& ~~~(BitVec.ofNat 64 (2 ^ k))

/-- Both sides hold a candidate: emit the best with tr set (R226). -/
def Pair.emit (q : Pair) (r : Fire) : List Out :=
  match q.c0, q.c1 with
  | some x, some y => [.a (Tok.scalar r.thread r.iter (setBit64 (candBest x.pay y.pay) 62 true))]
  | _, _ => []

/-- One side of a pair. -/
def Pair.side (q : Pair) (k : Bool) : Option Tok := if k then q.c1 else q.c0
/-- Set one side of a pair. -/
def Pair.setSide (q : Pair) (k : Bool) (v : Option Tok) : Pair := if k then { q with c1 := v } else { q with c0 := v }

/-- `cmpfw` (R225, R226). -/
def execCmpfw (f : Fields) (s : State) : Host.Outcome State Fault Refusal :=
  .next (runElem (.iCmpfw f) s noneBad (fun s g e el r _ _ _ =>
    match r.toks with
    | [] => .ok (s, [])
    | (port, x) :: _ =>
      if x.lanes ≠ [] then .error (0x40, x.value)
      else
        let x := { x with pay := x.value }
        let mine (q : Pair) : Bool := q.slot == r.slot && q.thread == r.thread && q.iter == r.iter
        let rest := el.pairs.filter (fun q => !mine q)
        let put (l : List Pair) : State := s.updElem g e (fun y => { y with pairs := l })
        let cur := el.pairs.find? mine
        if !bitOf x.pay 63 then
          let q := (cur.getD ⟨r.slot, r.thread, r.iter, none, none⟩).setSide (port != f.a.toNat) (some x)
          .ok (put (rest ++ [q]), q.emit r)
        else if bitOf x.pay 60 then .ok (put rest, [])
        else
          match cur with
          | none => .ok (s, [])
          | some q =>
            let holds (k : Bool) : Bool := match q.side k with | some y => candId y.pay == candId x.pay | none => false
            if !holds false ∧ !holds true then .ok (s, [])
            else
              let k := !holds false
              match q.side k with
              | none => .ok (s, [])
              | some y =>
                if bitOf y.pay 62 then .ok (put (rest ++ [q.setSide k none]), [])
                else
                  let q := q.setSide k (some { y with pay := setBit64 y.pay 61 true })
                  .ok (put (rest ++ [q]), q.emit r)))

/-- `topk.rp` (R156, R227). -/
def execTopkRp (f : Fields) (s : State) : Host.Outcome State Fault Refusal :=
  .next (runElem (.iTopkRp f) s noneBad (fun s g e el r a b _ =>
    let k := bitsOf b.scal 3 0
    let p := bitsOf b.scal 7 4
    let x := a.scal
    if 2 ^ 8 ≤ b.scal.toNat ∨ k = 0 ∨ 8 < k then .error (0x40, b.scal)
    else if a.idx ≠ [] ∨ r.vec ∨ bitOf x 61 then .error (0x40, x)
    else
      let mine (q : TopK) : Bool := q.slot == r.slot && q.thread == r.thread && q.iter == r.iter
      let rest := el.topk.filter (fun q => !mine q)
      let j := match el.topk.find? mine with | some q => q.j | none => 0
      let base := x &&& 0x0FFFF8FFFFFFFFFF
      let win := base ||| BitVec.ofNat 64 (j % 8 * 2 ^ 40)
      let last := decide (k ≤ j + 1)
      let exc := if last then x ||| 0x9000000000000000 else x ||| 0x8000000000000000
      .ok (s.updElem g e (fun y => { y with topk := if last then rest else rest ++ [⟨r.slot, r.thread, r.iter, j + 1⟩] }),
        [.a (Tok.scalar r.thread r.iter win), .port p (Tok.scalar r.thread r.iter exc)])))

/-- An FP32 value is normal: not zero, subnormal, NaN or infinite (R157). -/
def isNormal32 (x : Lane) : Bool := decide (0x800000 ≤ x.toNat % 2 ^ 31) && decide (x.toNat % 2 ^ 31 < 0x7F800000)

/-- `rnorm` (R157, R228). -/
def execRnorm (f : Fields) (s : State) : Host.Outcome State Fault Refusal :=
  .next (runElem (.iRnorm f) s noneBad (fun s g e _ r a _ _ =>
    let gs := a.lanes
    let k := gs.length
    if 8 < k then .error (0x40, a.scal)
    else
      let sum := match gs with | x :: l => l.foldl f32add x | [] => 0
      let ok := isNormal32 sum
      let ws := if ok then gs.map (fun x => f32div x sum) else gs.map (fun _ => enc32 (.fin false 1 k))
      let s := if ok then s else s.updElem g e (fun x => { x with gzc := min 255 (x.gzc + 1) })
      .ok (s, [.a (Tok.vec r.thread r.iter ws (if r.vec then a.idx else [])), .b (Tok.scalar r.thread r.iter (if ok then 0 else 1))])))

/-- `tagset` (R224). -/
def execTagset (f : Fields) (s : State) : Host.Outcome State Fault Refusal :=
  .next (runElem (.iTagset f) s noneBad (fun s _ _ _ r _ b _ =>
    .ok (s, [.a { r.fwd f.a.toNat with thread := bitsOf b.scal 31 20, iter := bitsOf b.scal 19 0 }])))

/-- `ctl.out` (R224): one pulse on each circuit of the control port dstA names. -/
def execCtlOut (f : Fields) (s : State) : Host.Outcome State Fault Refusal :=
  .next (runElem (.iCtlOut f) s noneBad (fun s _ _ _ r _ _ _ => .ok (s, [.a (Tok.scalar r.thread r.iter 0)])))

/-- `ctl.wt` (R224): the firing has consumed the n pulses. -/
def execCtlWt (f : Fields) (s : State) : Host.Outcome State Fault Refusal :=
  .next (runElem (.iCtlWt f) s noneBad (fun s _ _ _ r _ b _ =>
    let n := bitsOf b.scal 7 0
    if n = 0 then .error (0x40, b.scal) else .ok (s, [.a (Tok.scalar r.thread r.iter (BitVec.ofNat 64 n))])))

/-- `err.mk` (R224). -/
def execErrMk (f : Fields) (s : State) : Host.Outcome State Fault Refusal :=
  .next (runElem (.iErrMk f) s noneBad (fun s g e _ r a b _ =>
    let c := bitsOf b.scal 7 0
    if c < 0x80 then .error (0x40, b.scal)
    else .ok (s, [.a (Tok.error r.thread r.iter (r.n - 1) (errPayload c g ((s.tile g).role e) a.scal.toNat))])))

/-- `fin` (R224): the word waits until every earlier firing of the element has emitted (FIN_EMIT). -/
def execFin (f : Fields) (s : State) : Host.Outcome State Fault Refusal :=
  .next (runElem (.iFin f) s noneBad (fun s g e _ r a _ _ =>
    let k := tagAct f.t.toNat r.lit r.tagB (Tok.scalar r.thread r.iter a.scal)
    .ok (s.updElem g e (fun x => { x with fins := x.fins ++ [⟨k, f.d.toNat, f.e.toNat, r.fire⟩] }), [])))

end Sys2Proof.Machine
end

