-- ==== Sys2Proof/Machine/Sketch.lean ====
section
/-! DEFINITION. Count sketches and the sketch unit: 0xD0 to 0xD7 (R134 to R143, R291, R292). -/

namespace Sys2Proof.Machine

/-! Headers and counters (R134 to R138). -/

/-- A checked sketch header. -/
structure Sk where
  w0 : Word
  d : Nat
  lgw : Nat
  q : Int
  /-- Multiplier and addend of each row. -/
  seeds : List (Nat × Nat)
  /-- The key slot it is reached under (R101, R413). -/
  key : Option Nat
  deriving DecidableEq, Repr

/-- The header in 64 bytes, where valid (R135, R136). -/
def parseSk (bs : List Byte) : Option Sk :=
  let w (k : Nat) : Word := word64 bs (8 * k)
  let d := bitsOf (w 0) 2 0
  let lgw := bitsOf (w 0) 7 3
  let seeds := (List.range d).map (fun k => (bitsOf (w (k + 1)) 31 0, bitsOf (w (k + 1)) 63 32))
  if d % 2 = 0 ∨ lgw < 4 ∨ 26 < lgw ∨ bitsOf (w 0) 63 24 ≠ 0 ∨ seeds.any (fun x => x.1 % 2 == 0) ∨
      (List.range 7).any (fun k => decide (d ≤ k) && w (k + 1) != 0) then none
  else some ⟨w 0, d, lgw, sgn 8 (bitsOf (w 0) 15 8), seeds, none⟩

/-- Counters of a row. -/
def Sk.width (k : Sk) : Nat := 2 ^ k.lgw
/-- All counters. -/
def Sk.count (k : Sk) : Nat := k.d * k.width
/-- Bytes of a sketch (R134). -/
def Sk.bytes (k : Sk) : Nat := 64 + 4 * k.count
/-- Bucket and sign of an index in a row (R138). -/
def Sk.hash (k : Sk) (row i : Nat) : Nat × Int :=
  let (a, b) := k.seeds.getD row (0, 0)
  let h := (i % 2 ^ 32 * a + b) % 2 ^ 32
  (h / 2 ^ (32 - k.lgw), if h / 2 ^ (31 - k.lgw) % 2 = 1 then -1 else 1)

/-- Where counter `n` of a sketch lies, counted over all rows. -/
def ctrAt (pa n : Nat) : Nat := pa + 64 + 4 * n
/-- Read a counter of an object that a request names under a key slot (R413). -/
def State.ctr (s : State) (key : Option Nat) (pa n : Nat) : Int := sgn 32 (s.readUnder (redirect s.migs (ctrAt pa n)) 4 key)
/-- Write a counter, saturating: true where it clamped (R139, R143). -/
def State.setCtr (s : State) (pa : Nat) (k : Sk) (n : Nat) (t : Int) : Bool × State :=
  let c := satInt t (-(2 ^ 31 : Nat)) ((2 ^ 31 : Nat) - 1)
  (c != t, s.putPa (ctrAt pa n) 4 (BitVec.ofInt 32 c).toNat k.key)
/-- Set a flag bit of the header's first word. -/
def orBit (w : Word) (k : Nat) (b : Bool) : Word := if b then w ||| BitVec.ofNat 64 (2 ^ k) else w
/-- Write the header's first word. -/
def State.setSk0 (s : State) (pa : Nat) (k : Sk) (w : Word) : State := s.putPa pa 8 w.toNat k.key
/-- The low flags, satr and nanf (R135). -/
def skFlags : Word := 0xFF0000

/-! Operations (R139 to R143). -/

/-- The contribution of a value (R139): none for NaN. -/
def skValue (q L : Int) (v : Lane) : Option Int :=
  match val32 v with
  | .nan => none
  | .inf neg => some (if neg then -(2 ^ 40 : Nat) else (2 ^ 40 : Nat))
  | x => match x.scale (q - L) with | .fin neg num den => some (roundInt .rne neg num den) | _ => some 0

/-- Add one lane to every row: the header's first word so far, and the state. -/
def State.addLane (s : State) (pa : Nat) (k : Sk) (w : Word) (x : Nat × Lane × Int) : Word × State :=
  match skValue k.q x.2.2 x.2.1 with
  | none => (orBit w 23 true, s)
  | some c =>
    (List.range k.d).foldl (fun (a : Word × State) row =>
      let (b, sg) := k.hash row x.1
      let n := row * k.width + b
      let (cl, s) := a.2.setCtr pa k n (a.2.ctr k.key pa n + sg * c)
      (orBit a.1 (16 + row) cl, s)) (w, s)

/-- `sk.add` (R139). -/
def State.skAdd (s : State) (pa : Nat) (k : Sk) (l : List (Nat × Lane × Int)) : State :=
  let (w, s) := l.foldl (fun (a : Word × State) x => a.2.addLane pa k a.1 x) (k.w0, s)
  s.setSk0 pa k w

/-- The estimate of an index (R142): the rounding is monotone, so it is the median row's. -/
def State.skQry (s : State) (pa : Nat) (k : Sk) (i : Nat) : Lane :=
  let m := medianInt ((List.range k.d).map (fun row => let (b, sg) := k.hash row i; sg * s.ctr k.key pa (row * k.width + b)))
  enc32 ((FVal.fin (decide (m < 0)) m.natAbs 1).scale (-k.q))

/-- Rewrite every counter of a sketch by `f`, the flags gathered in `w` (R143). -/
def State.mapCtrs (s : State) (pa : Nat) (k : Sk) (w : Word) (f : State → Nat → Int) : Word × State :=
  (List.range k.count).foldl (fun (a : Word × State) n =>
    let (cl, s) := a.2.setCtr pa k n (f a.2 n)
    (orBit a.1 (16 + n / k.width) cl, s)) (w, s)

/-- A counter times a factor, rounded to an integer. -/
def scaleCtr (f : FVal) (c : Int) : Int :=
  match (FVal.fin (decide (c < 0)) c.natAbs 1).mul f with | .fin neg num den => roundInt .rne neg num den | _ => 0

/-- What a sketch operation leaves: a cause, or result lanes and the state. -/
abbrev SkEnd := Except Nat (List Word × State)

/-- The physical address a place names (R275). -/
def Place.pa (p : Place) : Nat := match p with | .phys a => a | .virt a => a | .spad _ a => a

/-- The key slot of a request's first part. -/
def Req.key (r : Req) : Option Nat := match r.pieces with | p :: _ => p.key | [] => none

/-- The header at `pa`, where valid (R136), with the key slot of a request. -/
def State.skAt (s : State) (r : Req) (pa : Nat) : Option Sk := (parseSk (s.keyBytes pa 64 r.key)).map (fun k => { k with key := r.key })

/-- A sketch operation on the sketch at `pa`, but a merge (R136, R139, R142, R143, R291). -/
def State.skOp (s : State) (r : Req) (pa : Nat) : SkEnd :=
  let hdr : Option Sk := match r.op with | .skInit t => (parseSk t).map (fun k => { k with key := r.key }) | _ => s.skAt r pa
  match hdr with
  | none => .error 0x30
  | some k =>
    if r.room < k.bytes then .error r.past
    else
      match r.op with
      | .skInit t =>
        let s := t.zipIdx.foldl (fun (s : State) (x : Byte × Nat) => s.putPa (pa + x.2) 1 x.1.toNat k.key) s
        .ok ([], (s.mapCtrs pa k 0 (fun _ _ => 0)).2)
      | .skClr => .ok ([], ((s.mapCtrs pa k 0 (fun _ _ => 0)).2).setSk0 pa k (k.w0 &&& ~~~skFlags))
      | .skAdd l => .ok ([], s.skAdd pa k l)
      | .skQry l => .ok (l.map (fun i => (s.skQry pa k i).setWidth 64), s)
      | .skScale f =>
        (match val32 f with
         | .fin neg num den =>
           let (w, s) := s.mapCtrs pa k k.w0 (fun s n => scaleCtr (.fin neg num den) (s.ctr k.key pa n))
           .ok ([], s.setSk0 pa k w)
         | _ => .error 0x32)
      | .skRd row first n =>
        if k.d ≤ row ∨ k.width < first + n then .error 0x21
        else .ok ((List.range n).map (fun x => BitVec.ofInt 64 (s.ctr k.key pa (row * k.width + first + x))), s)
      | .skStat => .ok ([k.w0], s)
      | _ => .error 0x30

/-- How an event of a merge ends: refused, a block of the source in error, or the state so far and whether the merge is performed. -/
inductive MergeEnd where
  | refused (cause : Nat)
  | bad (pa : Nat)
  | ok (fin : Bool) (s : State)

/-- One event of a merge into the sketch at `pa` (R143): first both headers are checked; then the source's next `m` counters are read, in
ascending order, each as it stands at its home then; with the last of them the destination's counters change, all at once. -/
def State.skMergeAt (s : State) (r : Req) (pa m : Nat) : MergeEnd :=
  match r.op, s.skAt r pa with
  | .skMerge src room past none _, some k =>
    if s.badBlock (.phys src.pa) then .bad src.pa
    else
      (match parseSk (s.keyBytes src.pa 64 r.key) with
       | none => .refused 0x30
       | some j =>
         if r.room < k.bytes then .refused r.past
         else if room < j.bytes then .refused past
         else if j.d ≠ k.d ∨ j.lgw ≠ k.lgw ∨ j.q ≠ k.q ∨ j.seeds ≠ k.seeds then .refused 0x31
         else .ok false (s.updReq r.id (fun q => { q with op := .skMerge src room past (some j.w0) [] })))
  | .skMerge src room past (some w0) got, some k =>
    let ns := (List.range (min m (k.count - got.length))).map (fun n => got.length + n)
    (match ns.find? (fun n => s.badBlock (.phys (ctrAt src.pa n))) with
     | some n => .bad (ctrAt src.pa n)
     | none =>
       let got := got ++ ns.map (s.ctr r.key src.pa)
       if got.length < k.count then .ok false (s.updReq r.id (fun q => { q with op := .skMerge src room past (some w0) got }))
       else
         let vals := got.toArray
         let (w, s) := s.mapCtrs pa k (k.w0 ||| (w0 &&& skFlags)) (fun s n => s.ctr k.key pa n + vals.getD n 0)
         .ok true (s.setSk0 pa k w))
  | _, _ => .refused 0x30

/-- The blocks of a sketch that an operation reads: one in error stops it (R408). -/
def State.skBad (s : State) (r : Req) (pa : Nat) : Option Nat :=
  let size : Nat := match parseSk (s.keyBytes pa 64 r.key) with | some k => k.bytes | none => 64
  match r.op with
  | .skInit _ => none
  | _ => (s.bad.map (· * 64)).find? (fun b => decide (b < redirect s.migs pa + size) && decide (redirect s.migs pa < b + 64))

/-- A merge into the sketch at `pa` has begun: the unit performs no other operation on it meanwhile (R140). -/
def State.merging (s : State) (r : Req) (pa : Nat) : Bool :=
  s.reqs.any (fun q => q.id != r.id && q.phase == .wait &&
    (match q.op, q.pieces with
     | .skMerge _ _ _ (some _) _, p :: _ => redirect s.migs p.place.pa == redirect s.migs pa
     | _, _ => false))

/-- The operation is one of the sketch unit's. -/
def ReqOp.isSk : ReqOp → Bool
  | .skInit _ | .skAdd _ | .skQry _ | .skMerge _ _ _ _ _ | .skScale _ | .skClr | .skRd _ _ _ | .skStat => true
  | _ => false

/-- The result tokens of a memory port's sketch operation (R291). -/
def Req.skTok (r : Req) (l : List Word) : Tok :=
  match r.op with
  | .skQry _ => if r.vec then Tok.vec r.thread r.iter (l.map (·.setWidth 32)) r.idx else Tok.scalar r.thread r.iter (l.headD 0)
  | .skRd _ _ _ => Tok.vec r.thread r.iter (l.map (·.setWidth 32)) []
  | .skStat => Tok.scalar r.thread r.iter (l.headD 0)
  | _ => Tok.scalar r.thread r.iter 0

/-- A unit has performed an operation (R140, R141): the answer leaves. -/
def State.unitDone (s : State) (r : Req) (l : List Word) (tok : Tok) : State :=
  let s := s.updReq r.id (fun q => { q with pieces := q.pieces.map (fun p => { p with done := true }) })
  match r.who with
  | .elem _ _ => (s.updReq r.id (fun q => { q with op := .emit tok })).performedNow r.id 0
  | _ => s.performedNow r.id (l.headD 0)

/-- Earlier operations of one slot of a memory port come first at a unit (R140). -/
def State.slotFirst (s : State) (r : Req) : Bool :=
  match r.who with
  | .elem _ _ => (s.earlier r).all (fun q => q.slot != r.slot || q.performed || q.phase == .accepted || q.withheld.isSome)
  | _ => true

/-- SKETCH_OP_AT_UNIT (R140, R136): one operation, whole; a merge reads its source over several events. `flag`: a word cannot be corrected;
`c`: counters a merge reads beside one. -/
def execSketchOpAtUnit (s : State) : Host.Outcome State Fault Refusal :=
  .next (match s.liveReq s.ev.id with
    | none => s
    | some r =>
      match r.pieces with
      | p :: _ =>
        (match p.place with
         | .phys pa =>
           if !r.op.isSk ∨ !s.mayPerform r p ∨ !s.slotFirst r ∨ s.merging r pa then s
           else if s.ev.flag then s.dataError r pa
           else
             match s.skBad r pa, r.op with
             | some b, _ => s.dataError r b
             | none, .skMerge _ _ _ _ _ =>
               (match s.skMergeAt r pa (s.ev.c + 1) with
                | .refused c => s.refuse r c
                | .bad b => s.dataError r b
                | .ok fin s => if fin then s.unitDone r [] (r.skTok []) else s)
             | none, _ =>
               (match s.skOp r pa with
                | .error c => s.refuse r c
                | .ok (l, s) => s.unitDone r l (r.skTok l))
         | _ => s)
      | [] => s)

/-! Issue and firing (R134, R277, R291, R292). -/

/-- The place of an object of a home unit, with the bytes to the end of its window or grant and the cause past it (R134); `al`: the alignment of the
address it lies at, whatever the base of its window; `sk`: the page kind it takes (R104). -/
def State.unitPlace (s : State) (g : Nat) (wins : NMap Win) (sp : Nat) (ea : Int) (n al sk : Nat) (rd wr : Bool) :
    Except Nat (Place × Nat × Nat × Nat) :=
  if sp < 3 then .error 0x33
  else
    match s.place g wins ⟨sp, ea, n, rd, wr, sk⟩ with
    | .error c => .error c
    | .ok (pl, kind) =>
      if (winBase wins sp + ea.toNat) % al ≠ 0 then .error 0x21
      else if sp = 3 then
        (match s.regOf g with
         | some (_, r) => .ok (pl, kind, r.vbase + r.vsize - ea.toNat, 0x26)
         | none => .error 0x26)
      else .ok (pl, kind, (match NMap.find wins (sp - 5) with | some w => w.extent - ea.toNat | none => 0), 0x21)

/-- A home unit's operation on a task: `rd` and `wr` as it needs, `mk` the operation, or a cause and address. -/
def runUnitTask (i : Instr) (f : Fields) (s : State) (cls : Cls) (n al sk : Nat) (rd wr : Bool) (d : Bool)
    (mk : State → TIn → Except (Nat × Nat) ReqOp) : State :=
  match beginTask i f s noBad with
  | .stop s => s
  | .go t =>
    match s.holds t cls false with
    | some st => s.block t.g t.p t.c st
    | none =>
      match s.unitPlace t.g t.x.wins (litSpace t.lit) t.ea n al sk rd wr with
      | .error c => s.memTrap t c t.ea
      | .ok (pl, kind, room, past) =>
        match mk s t with
        | .error (c, a) => s.memTrap t c a
        | .ok op =>
          s.issue t { s.taskReq t cls op with
            pieces := [{ Piece.mk1 pl kind n 0 0 0 0 with key := winKey t.x.wins (litSpace t.lit) }], verdict := true, d := if d then t.f.d.toNat else 28, ea := t.ea, room := room, past := past,
            pages := winPages t.x.wins (litSpace t.lit) }

/-- dstB of an element takes the result as well: a second destination, and no third source (R178, R276). -/
def fireDup (i : Instr) : Bool := match elemShape i with | some h => h.e.isDst && !h.role2 | none => false

/-- A home unit's operation on a memory port, at the generator's address for the firing's iteration (R277). -/
def runUnitPort (i : Instr) (s : State) (cls : Cls) (n al sk : Nat) (rd wr : Bool)
    (mk : State → Nat → Elem → Fire → Gen → Val → Val → Except (Nat × Nat) ReqOp) : State :=
  runElem i s (fun _ => false) (fun s g e el r a _ c =>
    match NMap.find el.gens (bitsOf r.lit 3 0) with
    | none => .error (0x20, 0)
    | some q =>
      let ad := q.addr r.iter
      match q.refuses r.iter with
      | some cause => .error (cause, BitVec.ofInt 64 ad)
      | none =>
        match s.unitPlace g el.wins q.space ad n al sk rd wr with
        | .error cause => .error (cause, BitVec.ofInt 64 ad)
        | .ok (pl, kind, room, past) =>
          match mk s g el r q a c with
          | .error (cause, v) => .error (cause, BitVec.ofNat 64 v)
          | .ok op =>
            .ok (s.addReq { s.fireReq g e r (fireDup i) op with
              cls := cls, pieces := [{ Piece.mk1 pl kind n 0 0 0 0 with key := winKey el.wins q.space }], ea := (BitVec.ofInt 64 ad).toNat, room := room, past := past,
              idx := a.idx, pages := winPages el.wins q.space }, []))

/-- A home unit's instruction wherever it stands (DEDUCED, log entry 46). -/
def runUnit (i : Instr) (f : Fields) (s : State) (cls : Cls) (n al sk : Nat) (rd wr d : Bool)
    (tm : State → TIn → Except (Nat × Nat) ReqOp) (em : State → Nat → Elem → Fire → Gen → Val → Val → Except (Nat × Nat) ReqOp) : State :=
  match s.site with
  | .task _ _ _ => runUnitTask i f s cls n al sk rd wr d tm
  | .elem _ _ => runUnitPort i s cls n al sk rd wr em

/-- The template at a full scratchpad offset (R291). -/
def State.template (s : State) (g off : Nat) : Except (Nat × Nat) ReqOp :=
  if 0xC0000 ≤ off ∨ off % 64 ≠ 0 ∨ 0x40000 < off % 0x40000 + 64 then .error (0x21, off)
  else .ok (.skInit (Memory.readBytes (s.tile g).spad off 64))

/-- `sk.init` (R291, R143): it waits for the context's own stores to the template. -/
def execSkInit (f : Fields) (s : State) : Host.Outcome State Fault Refusal :=
  .next (
    let wait : Option (Nat × Nat × Nat × Nat) := match s.site with
      | .task g p c =>
        (match beginTask (.iSkInit f) f s noBad with
         | .go t => if s.storing t.g t.p t.c (bitsOf t.d 19 0) 64 then some (g, p, c, bitsOf t.d 19 0) else none
         | .stop _ => none)
      | .elem _ _ => none
    match wait with
    | some (g, p, c, off) => s.block g p c (.blkEngine (.stores off 64))
    | none => runUnit (.iSkInit f) f s .st 64 64 0 false true false (fun s t => s.template t.g (bitsOf t.d 19 0))
        (fun s g _ _ _ a _ => s.template g (bitsOf a.scal 19 0)))

/-- `sk.add` (R291, R139). -/
def execSkAdd (f : Fields) (s : State) : Host.Outcome State Fault Refusal :=
  .next (runUnit (.iSkAdd f) f s .st 64 64 0 true true false
    (fun _ t => .ok (.skAdd [(bitsOf t.d 31 0, BitVec.ofNat 32 (bitsOf t.d 63 32), sgn 8 (bitsOf t.e 7 0))]))
    (fun _ _ el r q a c =>
      let L : Int := if q.lsReg then sgn 8 (bitsOf (el.e[q.ls.toNat]?.getD 0) 7 0) else q.ls
      .ok (.skAdd ((List.range r.n).map (fun k => ((a.lane k).toNat, c.lane k, L))))))

/-- `sk.qry` (R291, R142). -/
def execSkQry (f : Fields) (s : State) : Host.Outcome State Fault Refusal :=
  .next (runUnit (.iSkQry f) f s .ld 64 64 0 true false true (fun _ t => .ok (.skQry [bitsOf t.d 31 0]))
    (fun _ _ _ r _ a _ => .ok (.skQry ((List.range r.n).map (fun k => (a.lane k).toNat)))))

/-- The source of a merge, in the space of the destination (R291). -/
def State.mergeSrc (s : State) (g : Nat) (wins : NMap Win) (sp : Nat) (v : Word) : Except (Nat × Nat) ReqOp :=
  match s.unitPlace g wins sp v.toNat 64 64 0 true false with
  | .error c => .error (c, v.toNat)
  | .ok (pl, _, room, past) => .ok (.skMerge pl room past none [])

/-- `sk.merge` (R291, R143). -/
def execSkMerge (f : Fields) (s : State) : Host.Outcome State Fault Refusal :=
  .next (runUnit (.iSkMerge f) f s .st 64 64 0 true true false (fun s t => s.mergeSrc t.g t.x.wins (litSpace t.lit) t.d)
    (fun s g el _ q a _ => s.mergeSrc g el.wins q.space a.scal))

/-- `sk.scale` (R291, R143). -/
def execSkScale (f : Fields) (s : State) : Host.Outcome State Fault Refusal :=
  .next (runUnit (.iSkScale f) f s .st 64 64 0 true true false (fun _ t => .ok (.skScale (t.d.setWidth 32)))
    (fun _ _ _ _ _ a _ => .ok (.skScale (a.scal.setWidth 32))))

/-- `sk.clr` (R291, R143). -/
def execSkClr (f : Fields) (s : State) : Host.Outcome State Fault Refusal :=
  .next (runUnit (.iSkClr f) f s .st 64 64 0 true true false (fun _ _ => .ok .skClr) (fun _ _ _ _ _ _ _ => .ok .skClr))

/-- The read word of `sk.rd`. -/
def skRdOp (v : Word) (one : Bool) : ReqOp := .skRd (bitsOf v 28 26) (bitsOf v 25 0) (if one then 1 else bitsOf v 33 29 + 1)

/-- `sk.rd` (R291, R143). -/
def execSkRd (f : Fields) (s : State) : Host.Outcome State Fault Refusal :=
  .next (runUnit (.iSkRd f) f s .ld 64 64 0 true false true (fun _ t => .ok (skRdOp t.d true)) (fun _ _ _ _ _ a _ => .ok (skRdOp a.scal false)))

/-- `sk.stat` (R291, R143). -/
def execSkStat (f : Fields) (s : State) : Host.Outcome State Fault Refusal :=
  .next (runUnit (.iSkStat f) f s .ld 64 64 0 true false true (fun _ _ => .ok .skStat) (fun _ _ _ _ _ _ _ => .ok .skStat))

end Sys2Proof.Machine
end

