-- ==== Sys2Proof/Machine/Routing.lean ====
section
/-! DEFINITION. The route unit, the sorter, the replica table and the random-token generator: `rt.cnt`, `rt.snap`, `rsort`, `rt.map`,
`rng.seed`, `rng` (R60, R61, R159 to R163, R293 to R296, R304, R305). -/

namespace Sys2Proof.Machine

/-! The route unit (R159, R160). -/

/-- Count one lane of expert `e` in the live bank (R159). -/
def Tile.countRow (t : Tile) (e : Nat) (p : Lane) : Tile :=
  let k := 256 * t.rtLive + e
  { t with
    rtCount := NMap.set t.rtCount k (min (NMap.get t.rtCount k 0 + 1) (2 ^ 32 - 1))
    rtPsum := NMap.set t.rtPsum k (enc32 ((val32 (NMap.get t.rtPsum k 0)).add (val32 p))) }

/-- The lanes of a token that `rt.cnt` counts: none of a control token, one of a scalar (R293). -/
def Tok.rows (k : Tok) : List Lane :=
  if k.kind = .ctl then [] else if k.lanes = [] then [k.pay.setWidth 32] else k.lanes

/-- `rt.cnt` (R293): the token goes on unchanged, from a memory port in its turn. The unit takes all lanes of a token in one act, so that no flip of
the banks falls among them (R160 leaves it open: DESIGN CHOICE, log entry 69). -/
def execRtCnt (f : Fields) (s : State) : Host.Outcome State Fault Refusal :=
  .next (runElem (.iRtCnt f) s noneBad (fun s g e _ r _ _ _ =>
    let s := match r.tok f.a.toNat with
      | some k => s.updTile g (fun t => k.rows.foldl (fun t p => t.countRow (r.thread % 256) p) t)
      | none => s
    let w := r.fwd f.a.toNat
    if isPort e then .ok (s.queueTok g e r true w, []) else .ok (s, [.a w])))

/-- The place of a snapshot (R160, R294): 2,048 bytes at a 64-byte-aligned address, whatever the base of its window. -/
def State.snapPlace (s : State) (g : Nat) (wins : NMap Win) (sp : Nat) (ea : Int) : Except Nat (Place × Nat) :=
  match s.place g wins ⟨sp, ea, 2048, false, true, 0⟩ with
  | .error c => .error c
  | .ok q => if (winBase wins sp + ea.toNat) % 64 ≠ 0 then .error 0x21 else .ok q

/-- `rt.snap` (R294) (DEDUCED, log entry 45). -/
def execRtSnap (f : Fields) (s : State) : Host.Outcome State Fault Refusal :=
  .next (match s.site with
    | .task _ _ _ =>
      (match beginTask (.iRtSnap f) f s noBad with
       | .stop s => s
       | .go t =>
         match s.holds t .st false with
         | some st => s.block t.g t.p t.c st
         | none =>
           match s.snapPlace t.g t.x.wins (litSpace t.lit) t.ea with
           | .error c => s.memTrap t c t.ea
           | .ok (pl, kind) =>
             s.issue t { s.taskReq t .st .rtSnap with
               pieces := [{ Piece.mk1 pl kind 2048 0 0 0 0 with key := winKey t.x.wins (litSpace t.lit) }], verdict := true, ea := t.ea, pages := winPages t.x.wins (litSpace t.lit) })
    | .elem _ _ =>
      runElem (.iRtSnap f) s noneBad (fun s g e el r _ _ _ =>
        match NMap.find el.gens (bitsOf r.lit 3 0) with
        | none => .error (0x20, 0)
        | some q =>
          let ad := q.addr r.iter
          match q.refuses r.iter with
          | some cause => .error (cause, BitVec.ofInt 64 ad)
          | none =>
            match s.snapPlace g el.wins q.space ad with
            | .error cause => .error (cause, BitVec.ofInt 64 ad)
            | .ok (pl, kind) =>
              .ok (s.addReq { s.fireReq g e r true .rtSnap with
                cls := .st, pieces := [{ Piece.mk1 pl kind 2048 0 0 0 0 with key := winKey el.wins q.space }], ea := (BitVec.ofInt 64 ad).toNat, pages := winPages el.wins q.space }, [])))

/-- The bytes of a bank (R160). -/
def Tile.bankBytes (t : Tile) (b : Nat) : List Byte :=
  (List.range 256).flatMap (fun e =>
    bytesOfNat 4 (NMap.get t.rtCount (256 * b + e) 0) ++ bytesOfNat 4 (NMap.get t.rtPsum (256 * b + e) 0).toNat)

/-- Clear a bank. -/
def Tile.clearBank (t : Tile) (b : Nat) : Tile :=
  { t with rtCount := t.rtCount.filter (fun x => x.1 / 256 != b), rtPsum := t.rtPsum.filter (fun x => x.1 / 256 != b) }

/-- An earlier request of an operation on the same tile is not yet performed. -/
def State.unitBusy (s : State) (r : Req) (isOp : ReqOp → Bool) : Bool :=
  s.reqs.any (fun q => decide (q.id < r.id) && q.who.tile == r.who.tile && isOp q.op && !q.performed)

/-- ROUTE_SNAPSHOT_WRITE (R160): the banks flip, and in a later step the old one is written and cleared; the block words stay. -/
def execRouteSnapshotWrite (s : State) : Host.Outcome State Fault Refusal :=
  .next (match s.liveReq s.ev.id with
    | none => s
    | some r =>
      match r.op, r.who.tile, r.pieces with
      | .rtSnap, some g, p :: _ =>
        if r.phase = .wait then
          if !s.mayPerform r p ∨ s.unitBusy r (· == .rtSnap) then s
          else ((s.updTile g (fun t => { t with rtLive := 1 - t.rtLive })).updReq r.id (fun q => { q with phase := .accepted })).settle r.id
        else if r.performed then s
        else
          let b := 1 - (s.tile g).rtLive
          let bs := (s.tile g).bankBytes b
          let s := match p.place with
            | .spad h o => s.writeSp h o 2048 (natOfBytes bs)
            | .phys pa => s.putBytes pa bs p.key
            | .virt _ => s
          (s.updTile g (fun t => t.clearBank b)).performedNow r.id 0
      | _, _, _ => s)

/-! The sorter (R161, R295). -/

/-- A scratchpad range of `n` bytes at a full offset lies in one side (R277). -/
def inSide (off n : Nat) : Bool := decide (off < 0xC0000) && decide (off % 0x40000 + n ≤ 0x40000)

/-- `rsort` (R295). -/
def execRsort (f : Fields) (s : State) : Host.Outcome State Fault Refusal :=
  .next (match beginTask (.iRsort f) f s (fun _ a b =>
      let src := bitsOf a 19 0
      let dst := bitsOf a 39 20
      let n := 4 * (bitsOf b 15 0 + 1)
      nine (src % 4 != 0 || dst % 4 != 0 || (src != dst && decide (src < dst + n) && decide (dst < src + n)))) with
    | .stop s => s
    | .go t =>
      let src := bitsOf t.a 19 0
      let dst := bitsOf t.a 39 20
      let n := bitsOf t.b 15 0 + 1
      match s.holds t .st false with
      | some st => s.block t.g t.p t.c st
      | none =>
        if !inSide src (4 * n) then s.memTrap t 0x21 src
        else if !inSide dst (4 * n) then s.memTrap t 0x21 dst
        else s.issue t { s.taskReq t .st (.rsort src dst n) with
          ea := src, pieces := [Piece.mk1 (.spad t.g dst) 4 (4 * n) 0 0 0 0, Piece.mk1 (.spad t.g src) 4 (4 * n) 0 0 1 0] })

/-- Whether an operation is a sort. -/
def ReqOp.isSort : ReqOp → Bool
  | .rsort _ _ _ => true
  | _ => false

/-- The bytes of words of four bytes. -/
def bytesOf32 (l : List Nat) : List Byte := l.flatMap (fun w => bytesOfNat 4 w)

/-- SORTER_RUN (R161): the tile's sorter runs the oldest `rsort` of the tile; it reads each word once and writes each word once. -/
def execSorterRun (s : State) : Host.Outcome State Fault Refusal :=
  .next (match s.liveReq s.ev.id with
    | none => s
    | some r =>
      match r.op, r.who.tile with
      | .rsort src dst n, some g =>
        if r.pieces.any (fun p => !s.mayPerform r p) ∨ s.unitBusy r ReqOp.isSort then s
        else
          let ws := (List.range n).map (fun k => s.readSp g (src + 4 * k) 4)
          let s := s.writeSp g dst (4 * n) (natOfBytes (bytesOf32 (ws.mergeSort (fun a b => decide (a ≤ b)))))
          s.performedNow r.id 0
      | _, _ => s)

/-! The replica table (R162, R163, R296). -/

/-- The physical expert of a token index under an entry, or none where the entry is invalid (R162, R163). -/
def replica (e : Word) (i : Nat) : Option (Bool × Nat) :=
  let p0 := bitsOf e 7 0
  let p1 := bitsOf e 15 8
  if bitsOf e 63 42 ≠ 0 then none
  else
    match bitsOf e 17 16 with
    | 0 => some (false, p0)
    | 1 => some (if i % 2 = 0 then (false, p0) else (true, p1))
    | 2 => some (if i < bitsOf e 41 18 then (false, p0) else (true, p1))
    | _ => none

/-- The memory port whose window registers `rt.map` uses: the spec names the windows of the tile, each port has its own, and the
choice is free (DESIGN CHOICE, log entry 38). -/
def State.mapWins (s : State) (g sp : Nat) : NMap Win × State :=
  if sp = 3 then ([], s)
  else
    let (v, s) := s.takeFree
    ((s.elem g ((s.tile g).phys (28 + v.toNat % 4))).wins, s)

/-- The tokens of `rt.map` under an entry (R296): the lanes for phys0, then those for phys1, each as `filt` emits. -/
def mapToks (r : Fire) (a : Val) (w : Tok) (e : Word) : List Out :=
  let th (p : Nat) : Nat := r.thread / 256 * 256 + p
  let sel := (r.its a).map (fun i => match replica e i with | some (b, _) => b | none => false)
  let part (p : Nat) (m : List Bool) : List Out :=
    (({ r with thread := th p } : Fire).keep a { w with thread := th p } m).map Out.a
  part (bitsOf e 7 0) (sel.map (!·)) ++ part (bitsOf e 15 8) sel

/-- `rt.map` (R296): one 8-byte read of the row's entry at the firing, which may miss writes that the element need not see (R118): how many of them is free.
`arc` 6: the word cannot be corrected (R408). -/
def execRtMap (f : Fields) (s : State) : Host.Outcome State Fault Refusal :=
  .next (runElem (.iRtMap f) s noneBad (fun s g e _ r a b _ =>
    let sp := bitsOf b.scal 51 48
    let off := bitsOf b.scal 47 0
    if sp < 3 ∨ sp = 4 ∨ off % 64 ≠ 0 then .error (0x40, b.scal)
    else
      let (wins, s) := s.mapWins g sp
      let ea := off + 8 * (r.thread % 256)
      match s.place g wins ⟨sp, (ea : Int), 8, true, false, 0⟩ with
      | .error c => .error (c, BitVec.ofNat 64 ea)
      | .ok (pl, _) =>
        if s.badBlock pl ∨ s.ev.arc = 6 then .ok (s.dataError (s.fireReq g e r true .load) pl.addr, [])
        else
          let (k, s) := if s.stale = [] then (0, s) else s.takeFree
          let (v, s) := s.agentRead (.elem g e) pl (winKey wins sp) 8 k.toNat
          let ent : Word := BitVec.ofNat 64 v
          if (replica ent 0).isNone then .error (0x39, BitVec.ofNat 64 ea)
          else .ok (s, mapToks r a (r.fwd f.a.toNat) ent)))

/-! The random-token generator (R60, R61, R304, R305). -/

/-- `rng.seed` (R304). -/
def execRngSeed (f : Fields) (s : State) : Host.Outcome State Fault Refusal :=
  .next (match beginTask (.iRngSeed f) f s noBad with
    | .stop s => s
    | .go t => s.issueOr t (s.taskReq t .st (.rngSeed t.a)) false)

/-- `rng` (R305): the request goes to the tile's generator. -/
def execRng (f : Fields) (s : State) : Host.Outcome State Fault Refusal :=
  .next (match s.site with
    | .task _ _ _ =>
      (match beginTask (.iRng f) f s noBad with
       | .stop s => s
       | .go t => s.issueOr t { s.taskReq t .ld (.rng 0) with d := t.f.d.toNat } false)
    | .elem _ _ =>
      runElem (.iRng f) s noneBad (fun s g e _ r _ b _ =>
        let n := bitsOf b.scal 5 0
        if 32 < n then .error (0x40, b.scal)
        else .ok (s.addReq (s.fireReq g e r true (.rng n)), [])))

/-- A request of the generator. -/
def ReqOp.isRng : ReqOp → Bool
  | .rng _ => true
  | .rngSeed _ => true
  | _ => false

/-- Output word `n` of a tile's generator (R60). -/
def Tile.rngWord (t : Tile) (n : Word) : Word := mix (t.rngSeed ^^^ n)

/-- Serve a draw: its run of counters, then the answer (R61, R305). -/
def State.draw (s : State) (g : Nat) (r : Req) (n : Nat) : State :=
  let t := s.tile g
  let c := t.rngCtr
  let s := s.updTile g (fun t => { t with rngCtr := t.rngCtr + BitVec.ofNat 64 (max n 1) })
  match r.who with
  | .elem _ _ =>
    let tok := if n = 0 then Tok.scalar r.thread r.iter (t.rngWord c)
      else Tok.vec r.thread r.iter ((List.range n).map (fun k => ((t.rngWord (c + BitVec.ofNat 64 k)) >>> 32).setWidth 32)) []
    (s.updReq r.id (fun q => { q with op := .emit tok })).finish r.id 0
  | _ => s.finish r.id (t.rngWord c)

/-- GENERATOR_REQUEST_SERVE (R304): a source's requests in their order, requests of different sources as they arrive. -/
def execGeneratorRequestServe (s : State) : Host.Outcome State Fault Refusal :=
  .next (match s.liveReq s.ev.id with
    | none => s
    | some r =>
      match r.who.tile with
      | none => s
      | some g =>
        if r.phase ≠ .wait ∨ (s.earlier r).any (fun q => q.op.isRng && !q.performed) then s
        else
          match r.op with
          | .rngSeed v => (s.updTile g (fun t => { t with rngSeed := v, rngCtr := 0 })).finish r.id 0
          | .rng n => s.draw g r n
          | _ => s)

end Sys2Proof.Machine
end

