-- ==== Sys2Proof/Machine/Fetch.lean ====
section
/-! DEFINITION. What moves next, and the instruction it runs (R21, R31, R193, R239, R245; DESIGN CHOICE, log entries 2 to 5). -/

namespace Sys2Proof.Machine

/-- The context may issue (R21). -/
def Ctx.ready (x : Ctx) : Bool := x.status == .runnable

/-- The context that issues next on a task processor: round robin after the one that issued last (R21). -/
def nextCtx (q : Tp) : Option Nat :=
  [q.last + 1, q.last + 2, q.last + 3, q.last + 4].map (· % 4) |>.find? (fun c => (q.ctx c).ready)

/-- The pass number of an issue in a repeat body (R232). -/
def Rpt.pass (r : Rpt) : Nat := r.tot.toNat - r.left.toNat + 1

/-- The address match of a context stops this issue (R245, R246). -/
def brkHits (m : Word) (x : Ctx) : Bool :=
  bitOf m 11 && bitsOf m 10 0 == x.pc.toNat && !x.steward && !x.skip &&
    (!bitOf m 44 || !x.rpt.active || bitsOf m 43 12 == x.rpt.pass)

/-- The instruction a word is, or the event that it is none. -/
def fetched (s : State) (w : Lane) : Instr × State :=
  match decodeWord w with
  | .ok i => (i, s)
  | .error _ => (.eIllegalInstructionWord, s.setEv { EvArg.none with w0 := w.setWidth 64 })

/-- What a ready context runs: a held trap (R239), its breakpoint trap (R245), or the word at its pc. -/
def issueOf (s : State) (g p c : Nat) : Instr × State :=
  let s := s.setSite (.task g p c)
  let x := s.ctx g p c
  if x.held ≠ [] ∧ x.steward = false then (.eDeferredTrapTaken, s.setEv { EvArg.none with g := g, e := p, c := c })
  else if brkHits (NMap.get (s.tile g).amatch (4 * p + c) 0) x then
    (.eContextBreakpointTrap, s.setEv { EvArg.none with g := g, e := p, c := c })
  else fetched s (s.wordAt g p x)

/-- The instruction of an issue turn, if a context is ready. -/
def turnOf (s : State) (g p : Nat) : Option (Instr × State) :=
  if s.liveAt g then
    match nextCtx (s.tp g p) with
    | some c => some (issueOf s g p c)
    | none => none
  else none

/-- The row the act names: a turn of a task processor, or a row that has no encoding, at a place the device has. -/
def actOf (s : State) (a : Act) : Option (Instr × State) :=
  if a.wf then
    match a with
    | .turn g p => turnOf s g p
    | .event i v => if i.enc.isNone then some (i, s.setEv v) else none
  else none

/-- Take the next act: the head of the agenda, or the schedule's choice (DESIGN CHOICE, log entry 2). -/
def nextAct (s : State) : Act × State :=
  match s.agenda with
  | a :: r => (a, s.setAgenda r)
  | [] => (Config.schedule s.tick, s)

/-- A part of a region's tile is debug-halted (R245). -/
def Tile.debugHalted (t : Tile) : Bool :=
  t.triad.halted || t.elems.any (fun e => e.2.halt) || t.tps.any (fun p => p.2.ctxs.any (fun c => c.2.status == .halted))

/-- A region's watchdog counts (R41, R245, R420): it runs, it holds no access or list under an unresolved page fault (R325), no part is
debug-halted, and no tile is in a thermal hold. -/
def State.wdgCounts (s : State) (r : Region) : Bool :=
  r.live && r.held == [] && r.succWait.isNone && !r.tiles.any (fun g => (s.tile g).debugHalted || decide (8 ≤ (s.tile g).lvl))

/-- Time passes at a tile whose sequencer is throttled or held: fleet counter 10 counts the cycles (R421). -/
def Tile.throttledFor (t : Tile) (n : Nat) : Tile :=
  if t.lvl = 0 then t else { t with fleet := NMap.set t.fleet 10 (NMap.get t.fleet 10 0 + BitVec.ofNat 64 n) }

/-- Time passes at the elements that are back-pressured: their own counters count the cycles (R243). -/
def Tile.heldFor (t : Tile) (held : Nat → Bool) (n : Nat) : Tile :=
  { t with elems := t.elems.map (fun e => if held e.1 then (e.1, { e.2 with blk := e.2.blk + BitVec.ofNat 64 n }) else e) }

/-- Time passes (DESIGN CHOICE, log entry 6): the watchdogs that count advance, each by the ac cycles of its home tile (R41). -/
def State.passTime (s : State) : State :=
  let ac (g : Nat) : Nat := Config.clockElapsed (384 + g) s.tick
  { s with tick := s.tick + 1, now := s.now + Config.elapsed s.tick,
           tiles := s.tiles.map (fun t => (t.1, (t.2.throttledFor (ac t.1)).heldFor (s.heldBack t.1) (ac t.1))),
           regions := s.regions.map (fun q => if s.wdgCounts q.2 then (q.1, { q.2 with wdg := q.2.wdg + ac (q.2.tiles.headD 0) }) else q) }

/-- What the step runs: the instruction of a begun firing (R31), or the next act. -/
def select (s : State) : Option (Instr × State) :=
  match s.begun with
  | some (g, e) =>
    match (s.elem g e).cur with
    | some r => some (fetched (s.setSite (.elem g e)) r.word)
    | none => none
  | none => let (a, s) := nextAct s; actOf s a

/-- The state left when nothing runs. -/
def idleStep (s : State) : State :=
  match s.begun with
  | some _ => { s with begun := none }
  | none => (nextAct s).2

end Sys2Proof.Machine
end

