-- ==== Sys2Proof/Machine/Sha256.lean ====
section
/-! DEFINITION. SHA-256, by which R411 and R412 measure (the hash of FIPS 180-4: PRESUMED, log entry 16). -/

namespace Sys2Proof.Machine

/-- The 64 round constants. -/
def shaK : List Lane :=
  [0x428A2F98, 0x71374491, 0xB5C0FBCF, 0xE9B5DBA5, 0x3956C25B, 0x59F111F1, 0x923F82A4, 0xAB1C5ED5, 0xD807AA98, 0x12835B01, 0x243185BE, 0x550C7DC3, 0x72BE5D74, 0x80DEB1FE, 0x9BDC06A7, 0xC19BF174] ++
  [0xE49B69C1, 0xEFBE4786, 0x0FC19DC6, 0x240CA1CC, 0x2DE92C6F, 0x4A7484AA, 0x5CB0A9DC, 0x76F988DA, 0x983E5152, 0xA831C66D, 0xB00327C8, 0xBF597FC7, 0xC6E00BF3, 0xD5A79147, 0x06CA6351, 0x14292967] ++
  [0x27B70A85, 0x2E1B2138, 0x4D2C6DFC, 0x53380D13, 0x650A7354, 0x766A0ABB, 0x81C2C92E, 0x92722C85, 0xA2BFE8A1, 0xA81A664B, 0xC24B8B70, 0xC76C51A3, 0xD192E819, 0xD6990624, 0xF40E3585, 0x106AA070] ++
  [0x19A4C116, 0x1E376C08, 0x2748774C, 0x34B0BCB5, 0x391C0CB3, 0x4ED8AA4A, 0x5B9CCA4F, 0x682E6FF3, 0x748F82EE, 0x78A5636F, 0x84C87814, 0x8CC70208, 0x90BEFFFA, 0xA4506CEB, 0xBEF9A3F7, 0xC67178F2]
/-- The eight starting words. -/
def shaH : List Lane := [0x6A09E667, 0xBB67AE85, 0x3C6EF372, 0xA54FF53A, 0x510E527F, 0x9B05688C, 0x1F83D9AB, 0x5BE0CD19]

/-- A message with its padding: a one bit, zeros, and its length in bits, a whole number of 64-byte blocks. -/
def shaPad (m : List Byte) : List Byte :=
  let z := (119 - m.length % 64) % 64
  m ++ [0x80] ++ List.replicate z 0 ++ (List.range 8).map (fun k => BitVec.ofNat 8 (8 * m.length / 256 ^ (7 - k)))

/-- The big-endian words of some bytes. -/
def shaWords (bs : List Byte) : Nat → List Lane
  | 0 => []
  | n + 1 => ((bs.take 4).foldl (fun (w : Lane) b => w * 256 + b.setWidth 32) 0) :: shaWords (bs.drop 4) n

/-- Rotate right. -/
def rotr (x : Lane) (n : Nat) : Lane := x.rotateRight n

/-- `n` further words of the message schedule, newest first. -/
def shaSchedule : Nat → List Lane → List Lane
  | 0, l => l
  | n + 1, l =>
    let w2 := l.getD 1 0
    let w15 := l.getD 14 0
    let s0 := rotr w15 7 ^^^ rotr w15 18 ^^^ (w15 >>> 3)
    let s1 := rotr w2 17 ^^^ rotr w2 19 ^^^ (w2 >>> 10)
    shaSchedule n ((l.getD 15 0 + s0 + l.getD 6 0 + s1) :: l)

/-- One round, on the eight working words. -/
def shaRound (h : List Lane) (k w : Lane) : List Lane :=
  match h with
  | [a, b, c, d, e, f, g, x] =>
    let t1 := x + (rotr e 6 ^^^ rotr e 11 ^^^ rotr e 25) + ((e &&& f) ^^^ (~~~e &&& g)) + k + w
    let t2 := (rotr a 2 ^^^ rotr a 13 ^^^ rotr a 22) + ((a &&& b) ^^^ (a &&& c) ^^^ (b &&& c))
    [t1 + t2, a, b, c, d + t1, e, f, g]
  | l => l

/-- One block of 64 bytes. -/
def shaBlock (h : List Lane) (bs : List Byte) : List Lane :=
  let ws := (shaSchedule 48 (shaWords bs 16).reverse).reverse
  h.zipWith (· + ·) ((shaK.zip ws).foldl (fun v x => shaRound v x.1 x.2) h)

/-- The blocks of a padded message, one after another. -/
def shaBlocks : Nat → List Byte → List Lane → List Lane
  | 0, _, h => h
  | n + 1, bs, h => shaBlocks n (bs.drop 64) (shaBlock h (bs.take 64))

/-- SHA-256 of a message: 32 bytes. -/
def sha256 (m : List Byte) : List Byte :=
  let p := shaPad m
  (shaBlocks (p.length / 64) p shaH).flatMap (fun (w : Lane) => (List.range 4).map (fun k => (w >>> (8 * (3 - k))).setWidth 8))

end Sys2Proof.Machine
end

