-- ==== Sys2Proof/Machine/SlhDsa.lean ====
section
/-! DEFINITION. SLH-DSA with the parameter set SHA2-128s, by which R411 verifies the firmware and R412 signs reports (the scheme of FIPS 205:
PRESUMED, log entry 16): keys, signatures and verification, in the names of that standard. -/

namespace Sys2Proof.Machine.Slh

/-! Parameters: 7 layers of trees of height 9, 14 FORS trees of height 12, 35 chains of 16 values of 16 bytes. -/

/-- A hash address, as far as its compressed form holds it. -/
structure Adrs where
  layer : Nat
  tree : Nat
  ty : Nat
  /-- Key pair; chain or tree height; hash or tree index. -/
  kp : Nat
  hi : Nat
  ix : Nat
  deriving DecidableEq, Repr

/-- Big-endian bytes. -/
def be (n v : Nat) : List Byte := (List.range n).map (fun k => BitVec.ofNat 8 (v / 256 ^ (n - 1 - k)))
/-- The number that big-endian bytes hold. -/
def toInt (l : List Byte) : Nat := l.foldl (fun n b => 256 * n + b.toNat) 0
/-- The first `n` digits of `b` bits of some bytes. -/
def digits (b n : Nat) (l : List Byte) : List Nat := (List.range n).map (fun k => toInt l / 2 ^ (8 * l.length - b * (k + 1)) % 2 ^ b)
/-- `n` bytes from an offset. -/
def cut (l : List Byte) (o n : Nat) : List Byte := (l.drop o).take n

/-- The compressed address: 22 bytes. -/
def Adrs.bytes (a : Adrs) : List Byte := be 1 a.layer ++ be 8 a.tree ++ be 1 a.ty ++ be 4 a.kp ++ be 4 a.hi ++ be 4 a.ix

/-- F, H, T and PRF: the hash of the public seed, an address and a message. -/
def hash (ps : List Byte) (a : Adrs) (m : List Byte) : List Byte := (sha256 (ps ++ List.replicate 48 0 ++ a.bytes ++ m)).take 16

/-- HMAC of SHA-256, of a key of 16 bytes. -/
def hmac (key m : List Byte) : List Byte :=
  let k := key ++ List.replicate 48 0
  sha256 (k.map (· ^^^ 0x5C) ++ sha256 (k.map (· ^^^ 0x36) ++ m))

/-- The digest of a message: 30 bytes. -/
def digest (r ps root m : List Byte) : List Byte := (sha256 (r ++ ps ++ sha256 (r ++ ps ++ root ++ m) ++ be 4 0)).take 30

/-! WOTS+. -/

/-- `n` steps of a chain from step `i`. -/
def chain (ps : List Byte) (a : Adrs) : Nat → Nat → List Byte → List Byte
  | _, 0, x => x
  | i, n + 1, x => chain ps a (i + 1) n (hash ps { a with ix := i } x)

/-- The 35 digits that a message of 16 bytes signs, its checksum among them. -/
def wotsDigits (m : List Byte) : List Nat :=
  let l := digits 4 32 m
  l ++ digits 4 3 (be 2 (16 * l.foldl (fun n x => n + (15 - x)) 0))

/-- The secret value of chain `i`. -/
def wotsSecret (ss ps : List Byte) (a : Adrs) (i : Nat) : List Byte := hash ps { a with ty := 5, hi := i, ix := 0 } ss

/-- The public key of chain ends. -/
def wotsPk (ps : List Byte) (a : Adrs) (ends : Nat → List Byte) : List Byte :=
  hash ps { a with ty := 1, hi := 0, ix := 0 } ((List.range 35).flatMap ends)

/-- A signature. -/
def wotsSign (ss ps : List Byte) (a : Adrs) (m : List Byte) : List Byte :=
  (wotsDigits m).zipIdx.flatMap (fun x => chain ps { a with hi := x.2 } 0 x.1 (wotsSecret ss ps a x.2))

/-- The public key that a signature of a message gives. -/
def wotsFrom (ps : List Byte) (a : Adrs) (sig m : List Byte) : List Byte :=
  let ds := wotsDigits m
  wotsPk ps a (fun i => let d := ds.getD i 0; chain ps { a with hi := i } d (15 - d) (cut sig (16 * i) 16))

/-! Trees. -/

/-- The root that an authentication path gives from a node: `node` at index `i` of height `z`; `ix`: its index in the address. -/
def climb (ps : List Byte) (a : Adrs) : List (List Byte) → Nat → Nat → Nat → List Byte → List Byte
  | [], _, _, _, node => node
  | auth :: l, z, i, ix, node =>
    climb ps a l (z + 1) (i / 2) (ix / 2) (hash ps { a with hi := z + 1, ix := ix / 2 } (if i % 2 = 0 then node ++ auth else auth ++ node))

/-- Blocks of 16 bytes. -/
def blocks (l : List Byte) (o n : Nat) : List (List Byte) := (List.range n).map (fun k => cut l (o + 16 * k) 16)

/-- Node `i` of height `z` of a tree of WOTS+ keys. -/
def xmssNode (ss ps : List Byte) (a : Adrs) : Nat → Nat → List Byte
  | 0, i => let a := { a with ty := 0, kp := i, hi := 0, ix := 0 }; wotsPk ps a (fun k => chain ps { a with hi := k } 0 15 (wotsSecret ss ps a k))
  | z + 1, i => hash ps { a with ty := 2, kp := 0, hi := z + 1, ix := i } (xmssNode ss ps a z (2 * i) ++ xmssNode ss ps a z (2 * i + 1))

/-- A signature of a tree with leaf `i`. -/
def xmssSign (ss ps : List Byte) (a : Adrs) (i : Nat) (m : List Byte) : List Byte :=
  wotsSign ss ps { a with ty := 0, kp := i, hi := 0, ix := 0 } m ++ (List.range 9).flatMap (fun j => xmssNode ss ps a j (Nat.xor (i / 2 ^ j) 1))

/-- The root that a tree's signature gives. -/
def xmssFrom (ps : List Byte) (a : Adrs) (i : Nat) (sig m : List Byte) : List Byte :=
  climb ps { a with ty := 2, kp := 0 } (blocks sig 560 9) 0 i i (wotsFrom ps { a with ty := 0, kp := i, hi := 0, ix := 0 } sig m)

/-- The hypertree's signature, from layer `j` on. -/
def htSign (ss ps : List Byte) : Nat → Nat → Nat → Nat → List Byte → List Byte
  | 0, _, _, _, _ => []
  | n + 1, j, tree, leaf, m =>
    let a : Adrs := ⟨j, tree, 0, 0, 0, 0⟩
    let s := xmssSign ss ps a leaf m
    s ++ htSign ss ps n (j + 1) (tree / 512) (tree % 512) (xmssFrom ps a leaf s m)

/-- The root that the hypertree's signature gives. -/
def htFrom (ps : List Byte) : Nat → Nat → Nat → Nat → List Byte → List Byte → List Byte
  | 0, _, _, _, _, m => m
  | n + 1, j, tree, leaf, sig, m => htFrom ps n (j + 1) (tree / 512) (tree % 512) (sig.drop 704) (xmssFrom ps ⟨j, tree, 0, 0, 0, 0⟩ leaf sig m)

/-! FORS. -/

/-- A secret value. -/
def forsSecret (ss ps : List Byte) (a : Adrs) (i : Nat) : List Byte := hash ps { a with ty := 6, hi := 0, ix := i } ss

/-- Node `i` of height `z` of the trees. -/
def forsNode (ss ps : List Byte) (a : Adrs) : Nat → Nat → List Byte
  | 0, i => hash ps { a with hi := 0, ix := i } (forsSecret ss ps a i)
  | z + 1, i => hash ps { a with hi := z + 1, ix := i } (forsNode ss ps a z (2 * i) ++ forsNode ss ps a z (2 * i + 1))

/-- A signature. -/
def forsSign (ss ps : List Byte) (a : Adrs) (md : List Byte) : List Byte :=
  (digits 12 14 md).zipIdx.flatMap (fun x =>
    forsSecret ss ps a (4096 * x.2 + x.1) ++
      (List.range 12).flatMap (fun j => forsNode ss ps a j (x.2 * 2 ^ (12 - j) + Nat.xor (x.1 / 2 ^ j) 1)))

/-- The public key that a signature gives. -/
def forsFrom (ps : List Byte) (a : Adrs) (sig md : List Byte) : List Byte :=
  hash ps { a with ty := 4, hi := 0, ix := 0 } ((digits 12 14 md).zipIdx.flatMap (fun x =>
    let i := 4096 * x.2 + x.1
    let b := 208 * x.2
    climb ps a (blocks sig (b + 16) 12) 0 x.1 i (hash ps { a with hi := 0, ix := i } (cut sig b 16))))

/-! Keys, signatures, verification. -/

/-- The public key of a seed of 48 bytes: secret seed, secret key of the message hash, public seed. -/
def publicKey (seed : List Byte) : List Byte :=
  let ps := cut seed 32 16
  ps ++ xmssNode (cut seed 0 16) ps ⟨6, 0, 0, 0, 0, 0⟩ 9 0

/-- What a digest selects: the FORS message, the tree and the leaf. -/
def pick (d : List Byte) : List Byte × Nat × Nat := (d.take 21, toInt (cut d 21 7) % 2 ^ 54, toInt (cut d 28 2) % 512)

/-- The signature of a message, with an empty context, under a seed's key: 7,856 bytes. `rnd`: 16 random bytes. -/
def sign (seed m rnd : List Byte) : List Byte :=
  let ss := cut seed 0 16
  let pk := publicKey seed
  let ps := pk.take 16
  let m := [0, 0] ++ m
  let r := (hmac (cut seed 16 16) (rnd ++ m)).take 16
  let (md, tree, leaf) := pick (digest r ps (pk.drop 16) m)
  let a : Adrs := ⟨0, tree, 3, leaf, 0, 0⟩
  let f := forsSign ss ps a md
  r ++ f ++ htSign ss ps 7 0 tree leaf (forsFrom ps a f md)

/-- A signature of a message, with an empty context, verifies under a public key. -/
def verify (pk m sig : List Byte) : Bool :=
  let ps := pk.take 16
  let (md, tree, leaf) := pick (digest (sig.take 16) ps (cut pk 16 16) ([0, 0] ++ m))
  pk.length == 32 && sig.length == 7856 &&
    htFrom ps 7 0 tree leaf (sig.drop 2928) (forsFrom ps ⟨0, tree, 3, leaf, 0, 0⟩ (cut sig 16 2912) md) == pk.drop 16

/-- The seed of the device's identity key: 48 bytes (R412). -/
def seed : List Byte := (Config.fusedSeed ++ List.replicate 48 0).take 48
/-- The device's identity public key (R412). -/
def idKey : List Byte := publicKey seed

end Sys2Proof.Machine.Slh
end

