-- ==== Sys2Proof/Machine/Hub.lean ====
section
/-! DEFINITION. The hub: its registers, streams and their records, completion queues, intake, and the end of a region
(R25, R26, R238, R370 to R384, R393, R402, R414 to R424). -/

namespace Sys2Proof.Machine

/-! Registers (R3, R370). -/

/-- A mask of bits `[hi:lo]`. -/
def bits (hi lo : Nat) : Word := BitVec.ofNat 64 (2 ^ (hi + 1) - 2 ^ lo)

/-- The bits a plain write stores at a hub offset (R3, R370 to R424): none where the register is read-only, has a behaviour of its
own, or is not assigned. -/
def hubMask (off : Nat) : Word :=
  if off < 0x4000 then
    let w := off / 8 % 8
    if w = 0 then bits 55 52 ||| bits 51 6 else if w = 1 then bits 23 16 ||| bits 10 8 ||| bits 2 0 else 0
  else if off = 0x20000 then bits 47 16 ||| 1
  else if off = 0x20020 then bits 51 12
  else if off = 0x20028 then bits 8 0
  else if off = 0x30000 then 1
  else if 0x40000 ≤ off ∧ off < 0x42000 then
    let w := off / 8 % 4
    if w = 0 then bits 58 6 else if w = 3 then bits 48 0 else 0
  else if 0x50000 ≤ off ∧ off < 0x52000 then
    let w := off / 8 % 4
    if w = 0 then bits 27 0 else if w = 1 then bits 51 12 else 0
  else if 0x60000 ≤ off ∧ off < 0x64000 then
    let w := off / 8 % 4
    if w = 0 then bits 49 0 else if w = 1 then bits 23 0 else 0
  else if 0x70100 ≤ off ∧ off < 0x70900 then bits 5 0
  else if off = 0x80008 then bits 7 0
  else if off = 0x80200 then bits 19 12 ||| bits 8 0
  else if off = 0x80208 then bits 55 0
  else if (0x80400 ≤ off ∧ off < 0x80420) ∨ (0x80460 ≤ off ∧ off < 0x80480) ∨ (0x80500 ≤ off ∧ off < 0x80540) then bits 63 0
  else if 0x81000 ≤ off ∧ off < 0x82000 ∧ off % 0x200 < 0x180 then bits 34 0
  else if off = 0x82000 then bits 15 0
  else if off = 0x82100 then bits 16 0
  else 0

/-- The bits of a register that the device has set in this hub cycle: a write of the same cycle leaves them set (R416). -/
def State.setNow (s : State) (off : Nat) : Word := match NMap.find s.nodeSet off with | some (t, b) => if t = s.now then b else 0 | none => 0

/-- HUB_REGISTER_WRITE (R370): a hall core's 8-byte store of `w0` at offset `x`; an unaligned one is an access fault of the hart (DESIGN CHOICE, log entry 15).
No hall core writes before one is in service (R410, R411). -/
def execHubRegisterWrite (s : State) : Host.Outcome State Fault Refusal :=
  .next (
    let off := s.ev.x
    if off % 8 ≠ 0 ∨ !s.hallUp then s
    else if off = 0x80210 then { s with dbgData := s.ev.w0 }
    else if hubMask off = 0 then s
    else if off = 0x82000 then s.rollAll.setHub off (s.ev.w0 &&& hubMask off)
    else s.setHub off (s.ev.w0 &&& hubMask off ||| s.setNow off))

/-! Streams (R373 to R376). -/

/-- A stream. -/
def State.stream (s : State) (k : Nat) : Stream := NMap.get s.streams k ⟨[], 0⟩
/-- Update a stream. -/
def State.updStream (s : State) (k : Nat) (f : Stream → Stream) : State := { s with streams := NMap.set s.streams k (f (s.stream k)) }
/-- Register word `w` of a stream. -/
def State.streamWord (s : State) (k w : Nat) : Word := s.hubWord (64 * k + 8 * w)
/-- Records a stream's ring holds. -/
def State.ringSize (s : State) (k : Nat) : Nat := 64 * 2 ^ bitsOf (s.streamWord k 0) 55 52

/-- Fields of a continuation record (R375). -/
def recPrio (ws : List Word) : Nat := bitsOf (ws.getD 2 0) 18 16
/-- Tenant id. -/
def recTenant (ws : List Word) : Nat := bitsOf (ws.getD 2 0) 39 24
/-- Join counter. -/
def recJoin (ws : List Word) : Nat := bitsOf (ws.getD 2 0) 15 0
/-- Tendered. -/
def recTendered (ws : List Word) : Bool := bitOf (ws.getD 2 0) 19
/-- A reserved bit is set. -/
def recReserved (ws : List Word) : Bool :=
  bitsOf (ws.getD 0 0) 63 56 != 0 || bitsOf (ws.getD 1 0) 63 56 != 0 || bitsOf (ws.getD 2 0) 63 40 != 0 || bitsOf (ws.getD 2 0) 23 20 != 0 ||
    bitsOf (ws.getD 4 0) 31 9 != 0 || (ws.drop 5).any (· != 0)
/-- Put bits `[hi:lo]` of word `k`. -/
def putBits (ws : List Word) (k hi lo v : Nat) : List Word :=
  ws.set k ((ws.getD k 0 &&& ~~~(bits hi lo)) ||| BitVec.ofNat 64 (v % 2 ^ (hi + 1 - lo) * 2 ^ lo))

/-- The handle of a record (R235). -/
def handleOf (k pos : Nat) : Nat := k + pos % 2 ^ 24 * 256

/-- The ring entry a new record takes (R373): its position modulo the ring's size, or where a record that still waits occupies that one, the next
free one (DESIGN CHOICE, log entry 48). -/
def State.freeEntry (s : State) (k pos : Nat) : Nat :=
  let n := s.ringSize k
  match (List.range n).find? (fun j => !(s.stream k).recs.any (fun q => q.entry == (pos + j) % n)) with
  | some j => (pos + j) % n
  | none => pos % n

/-- Append a record to a stream (R374, R235): its result word. `via`: 0 a hall core, 1 `job.spawn`, 2 intake. A ring whose memory does not answer
(R410) takes no record, as a full one does not (DESIGN CHOICE, log entry 69). -/
def State.append (s : State) (k via : Nat) (ws : List Word) : Word × State :=
  let w1 := s.streamWord k 1
  let tent := bitsOf w1 23 16
  if recReserved ws then (2 ^ 32, s)
  else if recTenant ws ≠ s.entTenant tent ∨ !s.entValid tent ∨ (via = 1 ∧ !bitOf w1 2) ∨ (via = 2 ∧ !bitOf w1 1) then (2 * 2 ^ 32, s)
  else if s.ringSize k ≤ (s.stream k).recs.length ∨ !s.reachable (redirect s.migs (bitsOf (s.streamWord k 0) 51 6 * 64 + 64 * s.freeEntry k ((s.stream k).next % 2 ^ 24))) then
    (3 * 2 ^ 32, s)
  else
    let ws := putBits ws 2 18 16 (min (recPrio ws) (bitsOf w1 10 8))
    let pos := (s.stream k).next % 2 ^ 24
    let at_ := s.freeEntry k pos
    let s := s.writeBlocks (bitsOf (s.streamWord k 0) 51 6 * 64 + 64 * at_) (bytesOfWords ws)
    let q : QRec := { pos := pos, entry := at_, handle := handleOf k pos, words := ws, join := recJoin ws, ready := recJoin ws == 0, seq := s.readySeq, level := recPrio ws,
                      age := 0, wait := 0, placed := false, inst := none, await := none }
    (BitVec.ofNat 64 (handleOf k pos),
     { s.updStream k (fun x => { recs := x.recs ++ [q], next := (x.next + 1) % 2 ^ 24 }) with readySeq := s.readySeq + 1 })

/-- The hub's read of a record at a physical address: none where it fails (R374); a word of it that cannot be corrected (its block is in error, or
the act finds it so, `flag`) is a machine check of no region (R408). -/
def State.readRecord (s : State) (pa : Nat) : Option (List Word) × State :=
  if pa % 64 ≠ 0 ∨ !s.reachable (redirect s.migs pa) then (none, s)
  else if s.badBlock (.phys pa) ∨ s.ev.flag then (none, s.memCheck 0 0 pa)
  else (some (wordsOfBytes (s.paBytes pa 64) 8), s)

/-- STREAM_APPEND (R374): hart `e` writes `w0` to sapp of stream `c`. -/
def execStreamAppend (s : State) : Host.Outcome State Fault Refusal :=
  .next (
    if !s.hartUp (s.ev.e % 16) then s else
    let (v, s) : Word × State := match s.readRecord (bitsOf s.ev.w0 51 0) with
      | (some ws, s) => s.append (s.ev.c % 256) 0 ws
      | (none, s) => (2 ^ 32, s)
    { s with appendRes := NMap.set s.appendRes (s.ev.e % 16) v })

/-- APPEND_RESULT_READ (R374): hart `e` loads its register; an append is decided in the step that makes it. -/
def execAppendResultRead (s : State) : Host.Outcome State Fault Refusal :=
  .next (if !s.hartUp (s.ev.e % 16) then s else { s with hartRead := NMap.set s.hartRead (s.ev.e % 16) (NMap.get s.appendRes (s.ev.e % 16) 0) })

/-- Count a network port's intake (R424). -/
def State.countIntake (s : State) (port w : Nat) : State :=
  { s with intake := NMap.set s.intake (8 * port + w) (NMap.get s.intake (8 * port + w) 0 + 1) }

/-- The lowest valid rule that a message meets (R380). -/
def State.ruleFor (s : State) (port qpn : Nat) : Option Nat :=
  (List.range 512).find? (fun r =>
    let w := s.hubWord (0x60000 + 32 * r)
    bitOf w 48 && bitsOf w 49 49 == port && Nat.land (Nat.xor (qpn % 2 ^ 24) (bitsOf w 23 0)) (bitsOf w 47 24) == 0)

/-- A hub-die port that is used while its island is gated wakes (R418): true where it is on. -/
def State.wakePort (s : State) (i : Nat) : Bool × State :=
  (s.island i == 0, if s.island i = 1 then s.setIsland i 3 else s)

/-- INTAKE_MESSAGE (R380, R424): a message for queue pair `x` at port `arc`; `flag`: it is a SEND. A port that is not in service takes none (R410);
one that is gated wakes first (R418). -/
def execIntakeMessage (s : State) : Host.Outcome State Fault Refusal :=
  .next (
    let port := s.ev.arc % 2
    if !s.ready0.getLsbD (54 + port) then s
    else if !(s.wakePort (1004 + port)).1 then (s.wakePort (1004 + port)).2
    else if !s.ev.flag ∨ s.ev.body.length ≠ 64 then s.countIntake port 2
    else
      match s.ruleFor port s.ev.x with
      | none => s.countIntake port 1
      | some r =>
        let w := s.hubWord (0x60000 + 32 * r + 8)
        let ws := wordsOfBytes s.ev.body 8
        let ws := putBits ws 2 39 24 (s.entTenant (bitsOf w 15 8))
        let ws := putBits ws 4 8 0 (0x100 + bitsOf w 23 16)
        let (v, s) := s.append (bitsOf w 7 0) 2 ws
        s.countIntake port (if v.toNat / 2 ^ 32 = 0 then 0 else 3))

/-! Joins (R25, R236, R376). -/

/-- A job fault record to queue 0 (R25, R379): the job's utag and handle, and the target it names (DEDUCED, log entry 48). -/
def jobFault (recd : List Word) (handle target : Nat) : List Word :=
  [BitVec.ofNat 64 (bitsOf (recd.getD 4 0) 63 32 * 2 ^ 32 + 3 * 2 ^ 24 + 7 * 2 ^ 16), BitVec.ofNat 64 handle, BitVec.ofNat 64 target, 0, 0, 0, 0, 0]

/-- Decrement the join counter of the record with a handle (R25, R376). -/
def State.decJoin (s : State) (recd : List Word) (handle target : Nat) : State :=
  let k := target % 256
  match (s.stream k).recs.find? (fun q => q.handle == target && q.join != 0) with
  | none => s.post 0 (jobFault recd handle target)
  | some q =>
    let go := q.join == 1
    { s.updStream k (fun x => { x with recs := x.recs.map (fun y =>
        if y.pos = q.pos then { y with join := q.join - 1, ready := go, seq := if go then s.readySeq else y.seq } else y) }) with
      readySeq := s.readySeq + 1 }

/-- What a read of a successor list finds in one place (R375). -/
inductive Succ where
  | handle (h : Nat)
  /-- A word that translation or its memory refuses: it names no record. -/
  | lost
  /-- A word in a block in error (R408). -/
  | bad (pa : Nat)
  deriving DecidableEq, Repr

/-- Read the successor list of a completing region through its tenant's translation, from its home tile (R375, R390): the words, or the page
fault that withholds the read. -/
def State.readSucc (s : State) (r : Region) (g : Nat) : Nat → Nat → Except (Nat × Nat × Nat × Word) (List Succ) × State
  | 0, _ => (.ok [], s)
  | n + 1, va =>
    let go (x : Succ) (s : State) : Except (Nat × Nat × Nat × Word) (List Succ) × State :=
      match s.readSucc r g n (va + 8) with
      | (.ok l, s) => (.ok (x :: l), s)
      | e => e
    match s.readVirt g r.tenant r.root 1 2 (va % 2 ^ 56) 8 with
    | (.ok bs, s) => go (.handle (natOfBytes bs % 2 ^ 32)) s
    | (.fault a l w e, s) => (.error (a, l, w, e), s)
    | (.bad _ pa, s) => go (.bad pa) s
    | (_, s) => go .lost s

/-- Decrement every successor of a completed region (R25, R375). A word that cannot be read names no record: a job fault with a free target, and
where its block is in error the record of a machine check, which does not undo the completion (R409). -/
def State.decAll (s : State) (i g : Nat) (r : Region) : List Succ → State
  | [] => s
  | x :: l =>
    let lost (s : State) : State :=
      let (v, s) := s.takeFree
      s.post 0 (jobFault r.recd r.handle (v.toNat % 2 ^ 32))
    let s := match x with
      | .handle h => s.decJoin r.recd r.handle h
      | .lost => lost s
      | .bad pa => lost ((s.blockError pa).checkRecord g i 2 0 (redirect s.migs pa / 64 * 64) 2 0)
    s.decAll i g r l

/-! The end of a region (R24, R25, R378). -/

/-- End a region that is not discarded: its record, then its successors. A successor list whose page has no translation withholds the completion
under a fault id (R390, R396). -/
def State.completeRegion (s : State) (i cause status : Nat) : State :=
  match NMap.find s.regions i with
  | none => s
  | some r =>
    let g := r.tiles.headD 0
    match s.readSucc r g (bitsOf (r.recd.getD 3 0) 63 56) (bitsOf (r.recd.getD 3 0) 55 0) with
    | (.ok l, s) => (s.endRegion i cause status).decAll i g r l
    | (.error (va, level, why, pte), s) =>
      (match s.pageFault i r.tenant g 28 0 va level why pte with
       | some (id, s) => s.updReg i (fun r => { r with succWait := some id })
       | none => s)

/-- The writes that completion releases are performed (R24). -/
def State.drained (s : State) (i : Nat) : Bool :=
  s.reqs.all (fun r => r.inst != i || r.performed || r.op != .store || r.withheld.isSome ||
    (r.counted && (r.releases || r.pieces.any (fun p => p.kind == 0 || (match p.place with | .virt _ => true | _ => false)))))

/-- Complete a region whose contexts have ended, unless its record finds the completion buffer full (R24, R378) (DEDUCED, log entry 51). -/
def State.tryComplete (s : State) (i : Nat) : State :=
  match NMap.find s.regions i with
  | none => s
  | some r =>
    if r.live ∧ s.allEnded r ∧ s.drained i ∧ r.succWait.isNone ∧ !(r.recorded && s.bufFull) then s.completeRegion i 0 r.status else s

/-- Discarded regions that keep their tiles for want of room end, oldest first, as room comes (R378). -/
def State.freeEndings (s : State) : State :=
  s.regions.foldl (fun s x => match x.2.st with | .ending c => if s.bufFull then s else s.endRegion x.1 c 0xFF01 | _ => s) s

/-! Completion queues (R377, R378). -/

/-- Register word `w` of a completion queue. -/
def State.cqWord (s : State) (q w : Nat) : Word := s.hubWord (0x40000 + 32 * q + 8 * w)

/-- The `sig` of a record completes (R238). -/
def State.sigDone (s : State) (o : Option Nat) : State :=
  match o with
  | some id => if (s.req id).isSome then s.finish id 0 else s
  | none => s

/-- The completion buffer without the first record of a queue. -/
def dropRec (q : Nat) : List (Nat × List Word × Option Nat) → List (Nat × List Word × Option Nat)
  | [] => []
  | x :: r => if x.1 = q then r else x :: dropRec q r

/-- COMPLETION_RECORD_WRITE (R378): the oldest waiting record of queue `e` is written, sent or discarded; a discarded region that waits for room
ends. A record waits while the ring's memory does not answer (R410), as it waits for a full ring (DESIGN CHOICE, log entry 69). -/
def execCompletionRecordWrite (s : State) : Host.Outcome State Fault Refusal :=
  .next (
    let q := s.ev.e
    match s.compBuf.find? (fun x => x.1 == q) with
    | none => s
    | some (_, ws, o) =>
      let w := s.cqWord q 0
      let drop (s : State) : State := ({ s with compBuf := dropRec q s.compBuf } : State)
      let fin (s : State) : State := (s.sigDone o).freeEndings
      let prod := NMap.get s.prod q 0
      let cons := bitsOf (s.cqWord q 2) 23 0
      let size := 64 * 2 ^ bitsOf w 55 52
      match bitsOf w 57 56 with
      | 1 =>
        if size ≤ (prod + 2 ^ 24 - cons) % 2 ^ 24 ∨ !s.reachable (redirect s.migs (bitsOf w 51 6 * 64 + 64 * (prod % size))) then s
        else
          let s := (drop s).writeBlocks (bitsOf w 51 6 * 64 + 64 * (prod % size)) (bytesOfWords ws)
          let s := { s with prod := NMap.set s.prod q ((prod + 1) % 2 ^ 24) }
          let d := s.cqWord q 3
          fin (if bitOf w 58 then { s with irqs := s.irqs ++ [(bitsOf d 43 40, bitsOf d 39 32)] } else s)
      | 2 => fin { drop s with sent := s.sent ++ [(q, s.cqWord q 3, ws)] }
      | _ => fin (drop s))

/-- COMPLETION_CONS_WRITE (R377, R378): a hall core writes `w0` to cons of queue `e`. -/
def execCompletionConsWrite (s : State) : Host.Outcome State Fault Refusal :=
  .next (if !s.hallUp then s else s.setHub (0x40000 + 32 * (s.ev.e % 256) + 16) (s.ev.w0 &&& bits 23 0))

/-! Reads (R370). -/

/-- A tender is pending at the Crier (R297, R383). -/
def Tend.pending (t : Tend) : Bool := t.st == 1 || t.st == 2


/-- A field of a word. -/
def fld (v lo : Nat) : Word := BitVec.ofNat 64 (v * 2 ^ lo)
/-- A flag at a bit. -/
def flg (b : Bool) (k : Nat) : Word := fld (b2n b) k

/-- Ready records of a level, saturating (R381). -/
def State.nrdyAt (s : State) (l : Nat) : Nat :=
  min 255 (s.streams.foldl (fun n x => n + (x.2.recs.filter (fun q => q.ready && q.level == l)).length) 0)

/-- What a hall core reads at a hub offset (R370 to R424). -/
def State.hubRead (s : State) (off : Nat) : Word :=
  let w := off / 8 % 8
  if off < 0x4000 ∧ w = 3 then
    let l := (s.stream (off / 64)).recs
    fld (l.filter (·.ready)).length 24 ||| fld (l.filter (fun q => !q.ready)).length 0
  else if 0x10000 ≤ off ∧ off < 0x10080 then NMap.get s.appendRes ((off - 0x10000) / 8) 0
  else if off = 0x20008 then (List.range 8).foldl (fun a l => a ||| fld (s.nrdyAt l) (8 * l)) 0
  else if off = 0x20010 then (match s.rsv with | some h => fld 1 32 ||| fld h 0 | none => 0)
  else if off = 0x20018 then s.pops
  else if off = 0x30008 then fld (s.tends.filter (·.pending)).length 16 ||| fld (s.tendSeq % 65536) 0
  else if off = 0x30010 then fld (min s.falls 65535) 48 ||| fld (min s.retends 65535) 32 ||| fld (min s.wdraws 65535) 16 ||| fld (min s.awards 65535) 0
  else if 0x40000 ≤ off ∧ off < 0x42000 ∧ off / 8 % 4 = 1 then fld (NMap.get s.prod ((off - 0x40000) / 32) 0) 0
  else if 0x50000 ≤ off ∧ off < 0x52000 ∧ off / 8 % 4 = 3 then
    flg (s.shooting.any (fun k => k.byHub && k.sd.tenant == s.entTenant ((off - 0x50000) / 32))) 63 ||| s.hubWord off
  else if 0x70008 ≤ off ∧ off < 0x70088 then
    (match NMap.find s.links ((off - 0x70008) / 8) with
     | some l => flg l.dup 10 ||| flg l.up 9 ||| fld l.peer 1 ||| flg l.rdy 0
     | none => 0)
  else if off = 0x80008 then flg s.stewBusy 63 ||| flg s.stewRefused 62 ||| s.hubWord off
  else if off = 0x80100 then s.ready0
  else if off = 0x80108 then s.ready1
  else if off = 0x80210 then s.dbgData
  else if off = 0x80218 then fld s.dbgState 16 ||| fld s.dbgCause 8 ||| flg s.dbgBusy 0
  else if 0x80300 ≤ off ∧ off < 0x80400 then word64 (NMap.get s.meas ((off - 0x80300) / 32) []) (off % 32)
  else if 0x80440 ≤ off ∧ off < 0x80460 then word64 Slh.idKey (off - 0x80440)
  else if off = 0x80488 then flg s.repBusy 0
  else if 0x80500 ≤ off ∧ off < 0x80540 then 0
  else if off = 0x82108 then fld s.watts 0
  else if 0x83000 ≤ off ∧ off < 0x83400 then
    (match NMap.find s.links ((off - 0x83000) / 64) with
     | some l => (match w with | 0 => l.tx | 1 => l.rx | 2 => l.fec | 3 => l.bad | 4 => l.rpl | 5 => flg l.down 0 | _ => 0)
     | none => 0)
  else if 0x83400 ≤ off ∧ off < 0x83480 then (if w < 4 then NMap.get s.intake ((off - 0x83400) / 8) 0 else 0)
  else if 0x84000 ≤ off ∧ off < 0x84100 then
    (List.range 32).foldl (fun a k => a ||| fld (NMap.get s.islands ((off - 0x84000) / 8 * 32 + k) 0) (2 * k)) 0
  else if 0x85000 ≤ off ∧ off < 0x85C00 then
    let t := s.tile ((off - 0x85000) / 8)
    fld t.lvl 8 ||| ((BitVec.ofInt 8 t.temp).setWidth 64)
  else if 0x86000 ≤ off ∧ off < 0x87000 then (if w < 5 then NMap.get (s.vault ((off - 0x86000) / 64)).cnt w 0 else 0)
  else if 0x88000 ≤ off ∧ off < 0x8E000 then NMap.get (s.tile ((off - 0x88000) / 64)).fleet (8 + w) 0
  else s.hubWord off

end Sys2Proof.Machine
end

