-- ==== Sys2Proof/Machine/Jobs.lean ====
section
/-! DEFINITION. Jobs 0xE0 to 0xE3: `job.spawn`, `job.join`, `done`, `sig`, and the end of a context (R24, R235 to R238). -/

namespace Sys2Proof.Machine

/-- `job.spawn` (R235): the record is read like a load of 64 bytes, then appended. -/
def execJobSpawn (f : Fields) (s : State) : Host.Outcome State Fault Refusal :=
  .next (match beginTask (.iJobSpawn f) f s noBad with
    | .stop s => s
    | .go t =>
      let r := { s.taskReq t .ld (.jobSpawn (bitsOf t.b 7 0)) with d := t.f.d.toNat, e := t.f.e.toNat, dup := true, ea := t.a.toNat }
      if t.a.toNat % 64 ≠ 0 ∨ bitsOf t.a 63 56 ≠ 0 then s.issueOr t { r with phase := .done, res := 2 ^ 32 } true
      else s.issueOr t { r with pieces := [Piece.mk1 (.virt t.a.toNat) 9 64 0 0 0 0] } true)

/-- The record of a `job.spawn` has been read (R235): its tenant and priority are the region's own, and it is appended. -/
def State.doSpawn (s : State) (r : Req) (k : Nat) (ws : List Word) : State :=
  match NMap.find s.regions r.inst with
  | none => s
  | some q =>
    let ws := putBits (putBits ws 2 39 24 q.tenant) 2 18 16 (min (recPrio ws) q.prio)
    let (v, s) := s.append k 1 ws
    s.finish r.id v

/-- `job.join` (R236). -/
def execJobJoin (f : Fields) (s : State) : Host.Outcome State Fault Refusal :=
  .next (match beginTask (.iJobJoin f) f s noBad with
    | .stop s => s
    | .go t => s.issueOr t (s.taskReq t .st (.jobJoin (bitsOf t.a 31 0))) false)

/-- A `job.join` reaches the stream of its record (R236, R376). -/
def State.doJoin (s : State) (r : Req) (h : Nat) : State :=
  match NMap.find s.regions r.inst with
  | none => s
  | some q => (s.decJoin q.recd q.handle h).finish r.id 0

/-- `sig` (R238). -/
def execSig (f : Fields) (s : State) : Host.Outcome State Fault Refusal :=
  .next (match beginTask (.iSig f) f s noBad with
    | .stop s => s
    | .go t => s.issueOr t (s.taskReq t .st (.sig t.a (bitsOf t.b 15 0))) false)

/-- A progress record (R238, R379). -/
def Region.progressRec (r : Region) (a : Word) (code : Nat) : List Word :=
  [BitVec.ofNat 64 (bitsOf (r.recd.getD 4 0) 63 32 * 2 ^ 32 + 2 * 2 ^ 24 + code), BitVec.ofNat 64 r.handle, a, 0, 0, 0, 0, 0]

/-- A `sig` reaches the hub (R238): its record waits to be written. -/
def State.doSig (s : State) (r : Req) (a : Word) (code : Nat) : State :=
  match NMap.find s.regions r.inst with
  | none => s
  | some q =>
    let s := s.updReq r.id (fun x => { x with phase := .accepted })
    { s with compBuf := s.compBuf ++ [(bitsOf (q.recd.getD 4 0) 7 0, q.progressRec a code, some r.id)] }

/-- The counts `done` waits for are all 0 (R237). -/
def Ctx.clear (x : Ctx) : Bool := x.ld == 0 && x.st == 0 && x.cp == 0 && x.tl == 0

/-- `done` (R237): the context ends once its counts are 0, and the region with its last context (R24). -/
def runDone (f : Fields) (s : State) : State :=
  match beginTask (.iDone f) f s (fun _ a _ => nine (decide (0xFF00 ≤ bitsOf a 15 0))) with
  | .stop s => s
  | .go t =>
    let st : BitVec 16 := t.a.setWidth 16
    if !t.x.clear then (s.block t.g t.p t.c .blkDone).updCtx t.g t.p t.c (fun x => { x with donest := st })
    else
      let s := (s.retire t t.x).updCtx t.g t.p t.c (fun x => { x with status := .ended, donest := st })
      match (s.tile t.g).inst with
      | some i => (s.updReg i (fun r => { r with status := if r.status = 0 then st.toNat else r.status })).tryComplete i
      | none => s

/-- `done` (R237). -/
def execDone (f : Fields) (s : State) : Host.Outcome State Fault Refusal := .next (runDone f s)

/-- CONTEXT_END (R237, R24): context `c` of task processor `e`, blocked in `done`, ends; one that has ended lets its region complete
once nothing holds it back. -/
def execContextEnd (s : State) : Host.Outcome State Fault Refusal :=
  .next (
    let g := s.ev.g
    let p := s.ev.e
    let c := s.ev.c
    let x := s.ctx g p c
    if !s.liveAt g then s
    else
      match x.status with
      | .blkDone =>
        if !x.clear then s
        else
          (match decodeWord (s.wordAt g p x) with
           | .ok (.iDone f) => runDone f ((s.updCtx g p c (·.unblock (s.acCycles g))).setSite (.task g p c))
           | _ => s)
      | .ended => (match (s.tile g).inst with | some i => s.tryComplete i | none => s)
      | _ => s)

end Sys2Proof.Machine
end

