-- ==== Sys2Proof/Machine/System.lean ====
section
/-! DEFINITION. Traps, control registers, counters, identity, debugging and the pre-emption instructions, 0xF0 to 0xFF
(R239 to R249), and the traps of an issue turn. -/

namespace Sys2Proof.Machine

/-! Traps (R239 to R241). -/

/-- `trap` (R241): the operand is read, and nothing is consumed. -/
def execTrap (f : Fields) (s : State) : Host.Outcome State Fault Refusal :=
  .next (match beginTask (.iTrap f) f s noBad with
    | .stop s => s
    | .go t => s.trapAt t.g t.p t.c 0x11 t.a)

/-- `brk` (R241, R240, R247): a breakpoint trap, or a halt in steward mode. -/
def execBrk (f : Fields) (s : State) : Host.Outcome State Fault Refusal :=
  .next (match beginTask (.iBrk f) f s noBad with
    | .stop s => s
    | .go t =>
      if t.x.steward then (s.retire t t.x.advance).updCtx t.g t.p t.c (fun x => { x with status := .halted })
      else s.trapAt t.g t.p t.c 0x12 t.a)

/-- `eret` (R241). -/
def execEret (f : Fields) (s : State) : Host.Outcome State Fault Refusal :=
  .next (match beginTask (.iEret f) f s noBad with
    | .stop s => s
    | .go t => s.retire t t.x.ret)

/-- `ill` (R191, R241): a task takes cause 0x0C; no element holds it (R190). -/
def execIll (f : Fields) (s : State) : Host.Outcome State Fault Refusal :=
  .next (match s.site with
    | .task g p c => s.trapAt g p c 0x0C (((encodeWord (.iIll f)).getD 0xFFFFFFFF).setWidth 64)
    | .elem g e => s.endFire g e false)

/-- A context is the one whose turn it is (R21). -/
def State.isTurn (s : State) (g p c : Nat) : Bool := s.liveAt g && nextCtx (s.tp g p) == some c

/-- ILLEGAL_INSTRUCTION_WORD (R191): the word at the pc of the context whose turn it is decodes to nothing. -/
def execIllegalInstructionWord (s : State) : Host.Outcome State Fault Refusal :=
  .next (match s.site with
    | .task g p c =>
      let x := s.ctx g p c
      let w := s.wordAt g p x
      (match decodeWord w with
       | .ok _ => s
       | .error _ =>
         if s.isTurn g p c ∧ (x.held = [] ∨ x.steward) then s.trapAt g p c (wordCause .task false w (s.litAt g p x) []) (w.setWidth 64)
         else s)
    | .elem g e => if (s.elem g e).cur.isSome then s.endFire g e false else s)

/-- DEFERRED_TRAP_TAKEN (R239): context `c` of task processor `e`, whose turn it is, takes its oldest deferred trap. -/
def execDeferredTrapTaken (s : State) : Host.Outcome State Fault Refusal :=
  .next (
    let g := s.ev.g
    let p := s.ev.e
    let c := s.ev.c
    let x := s.ctx g p c
    match x.held with
    | [] => s
    | (cause, v) :: rest =>
      if s.isTurn g p c ∧ !x.steward then
        (s.updCtx g p c (fun x => { x with held := rest })).takeTrap g p c (BitVec.ofNat 16 (0x8000 + cause % 256)) x.pc v x.rpt
      else s)

/-- CONTEXT_BREAKPOINT_TRAP (R245): the address match of context `c` of task processor `e` stops its issue. -/
def execContextBreakpointTrap (s : State) : Host.Outcome State Fault Refusal :=
  .next (
    let g := s.ev.g
    let p := s.ev.e
    let c := s.ev.c
    let x := s.ctx g p c
    if s.isTurn g p c ∧ x.held = [] ∧ brkHits (NMap.get (s.tile g).amatch (4 * p + c) 0) x then
      (s.updCtx g p c (fun x => { x with skip := true })).trapAt g p c 0x12 0
    else s)

/-- WATCHDOG_EXPIRY (R41): a hang token is counted at the sink of team 0, and the region is discarded. -/
def execWatchdogExpiry (s : State) : Host.Outcome State Fault Refusal :=
  .next (match s.liveReg s.ev.inst with
    | none => s
    | some r =>
      if r.wdg < 2 ^ 24 then s
      else
        let pay := errPayload 0x70 (r.tileOf 0) 0 0
        (s.updReg s.ev.inst (fun r =>
          if (NMap.find r.sinks 0).isSome then { r with errors := r.errors + 1, first := if r.first.isNone then some pay else r.first }
          else { r with stray := r.stray + 1 })).discard s.ev.inst 1)

/-! Control registers (R229, R242). -/

/-- A control register number outside the map (R242). -/
def ctlUnassigned (n : Nat) : Bool := !(decide (n ≤ 0xB) || (decide (0x20 ≤ n) && decide (n ≤ 0x3F)))
/-- A system register. -/
def ctlSystem (n : Nat) : Bool := n == 5 || n == 6
/-- A register that is read-only in a mode. -/
def ctlReadOnly (steward : Bool) (n : Nat) : Bool := n == 7 || n == 8 || n == 0xB || (!steward && decide (n ≤ 2))

/-- The value of a control register (R242). -/
def State.ctlGet (s : State) (g p c : Nat) (x : Ctx) (n : Nat) : Word :=
  match n with
  | 0 => x.tcause.setWidth 64
  | 1 => x.tslot.setWidth 64
  | 2 => x.tval
  | 3 => x.uslot.setWidth 64
  | 4 => x.utvec.setWidth 64
  | 5 => x.tvec.setWidth 64
  | 6 => x.sscr
  | 7 => x.rsave.word
  | 8 => x.rpt.word
  | 9 => x.statusWord c
  | 0xA => (s.tp g p).cperr
  | 0xB => (s.tp g p).cpdone
  | n => if 0x24 ≤ n ∧ n ≤ 0x3F then (s.elem g ((s.tile g).phys (n - 0x20))).statusWord else 0

/-- Write a control register that a context holds (R242). -/
def Ctx.ctlSet (x : Ctx) (n : Nat) (b : Word) : Ctx :=
  match n with
  | 0 => { x with tcause := b.setWidth 16 }
  | 1 => { x with tslot := b.setWidth 11 }
  | 2 => { x with tval := b }
  | 3 => { x with uslot := b.setWidth 11 }
  | 4 => { x with utvec := b.setWidth 12 }
  | 5 => { x with tvec := b.setWidth 8 }
  | 6 => { x with sscr := b }
  | 9 => { x with lnan := x.lnan && !bitOf b 0 }
  | _ => x

/-- `ctl.rd` (R242). -/
def execCtlRd (f : Fields) (s : State) : Host.Outcome State Fault Refusal :=
  .next (match beginTask (.iCtlRd f) f s (fun x a _ =>
      let n := bitsOf a 11 0
      if ctlUnassigned n then 9 else if ctlSystem n && !x.steward then 0x10 else 0) with
    | .stop s => s
    | .go t => s.putResult t true (s.ctlGet t.g t.p t.c t.x (bitsOf t.a 11 0)))

/-- `ctl.wr` (R242). -/
def execCtlWr (f : Fields) (s : State) : Host.Outcome State Fault Refusal :=
  .next (match beginTask (.iCtlWr f) f s (fun x a _ =>
      let n := bitsOf a 11 0
      if ctlUnassigned n || ctlReadOnly x.steward n then 9 else if ctlSystem n && !x.steward then 0x10 else 0) with
    | .stop s => s
    | .go t =>
      let n := bitsOf t.a 11 0
      let s := s.retire t (t.x.ctlSet n t.b).advance
      if n = 0xA then s.updTp t.g t.p (fun q => { q with cperr := q.cperr &&& ~~~t.b })
      else if 0x24 ≤ n ∧ n ≤ 0x3F then s.updElem t.g ((s.tile t.g).phys (n - 0x20)) (·.clearStatus t.b)
      else s)

/-! Counters and identity (R243, R244, R421). -/

/-- The watchdog count of the region on a tile. -/
def State.wdgAt (s : State) (g : Nat) : Word := match s.regOf g with | some (_, r) => BitVec.ofNat 64 r.wdg | none => 0

/-- A counter of a context (R243). -/
def State.cntGet (s : State) (g : Nat) (x : Ctx) (n : Nat) : Word :=
  match n with
  | 0 => BitVec.ofNat 64 (s.acCycles g)
  | 1 => x.work
  | 2 => x.blk
  | 3 => s.wdgAt g
  | 4 => (s.tile g).steps
  | n => NMap.get (s.tile g).fleet n 0

/-- `cnt.rd` (R243). -/
def execCntRd (f : Fields) (s : State) : Host.Outcome State Fault Refusal :=
  .next (match s.site with
    | .task _ _ _ =>
      (match beginTask (.iCntRd f) f s (fun x a _ =>
          let n := a.toNat
          if n ≤ 4 then 0 else if 8 ≤ n ∧ n ≤ 15 then (if x.steward then 0 else 0x10) else 9) with
       | .stop s => s
       | .go t => s.putResult t true (s.cntGet t.g t.x t.a.toNat))
    | .elem _ _ =>
      runElem (.iCntRd f) s (fun _ => false) (fun s g _ el r a _ _ =>
        let ret (v : Word) : Except (Nat × Word) (State × List Out) := .ok (s, [.a (Tok.scalar r.thread r.iter v)])
        match a.scal.toNat with
        | 0 => ret (BitVec.ofNat 64 (s.acCycles g))
        | 1 => ret el.work
        | 2 => ret el.blk
        | 3 => ret (s.wdgAt g)
        | _ => .error (0x40, a.scal)))

/-- An identity word (R244): the task processor is named by its role (DEDUCED, log entry 52). -/
def State.idGet (s : State) (g p c n : Nat) : Word :=
  let t := s.tile g
  match s.regOf g with
  | none => 0
  | some (i, r) =>
    match n with
    | 0 => BitVec.ofNat 64 (g / 48 + g % 48 * 8 + t.role p * 2 ^ 9 + c * 2 ^ 11)
    | 1 => BitVec.ofNat 64 (t.team + r.tiles.length * 2 ^ 16)
    | 2 => BitVec.ofNat 64 (i % 2 ^ 32)
    | 3 => BitVec.ofNat 64 r.tenant
    | 4 => BitVec.ofNat 64 s.chip
    | _ => Config.deviceRevision.setWidth 64

/-- `id.rd` (R244). -/
def execIdRd (f : Fields) (s : State) : Host.Outcome State Fault Refusal :=
  .next (match beginTask (.iIdRd f) f s (fun _ a _ => nine (decide (5 < a.toNat))) with
    | .stop s => s
    | .go t => s.putResult t true (s.idGet t.g t.p t.c t.a.toNat))

/-! Halts and debugging (R245 to R247). -/

/-- `halt` (R247). -/
def execHalt (f : Fields) (s : State) : Host.Outcome State Fault Refusal :=
  .next (match beginTask (.iHalt f) f s noBad with
    | .stop s => s
    | .go t => (s.retire t t.x.advance).updCtx t.g t.p t.c (fun x => { x with status := .halted }))

/-- `idle` (R247): the context waits at its slot, and an event takes it to the next one. -/
def execIdle (f : Fields) (s : State) : Host.Outcome State Fault Refusal :=
  .next (match beginTask (.iIdle f) f s noBad with
    | .stop s => s
    | .go t => (s.retire t t.x).block t.g t.p t.c .blkIdle)

/-- The value of a debug register (R246); 0x0A5 is write-only and reads a free value (DESIGN CHOICE, log entry 49). -/
def State.dbgGet (s : State) (g p n : Nat) : Word × State :=
  let t := s.tile g
  if n < 0x80 then (NMap.get t.shadow n 0, s)
  else if n < 0xA0 then (NMap.get t.filter (n - 0x80) 0, s)
  else if n < 0xA4 then (NMap.get t.amatch (4 * p + (n - 0xA0)) 0, s)
  else if n = 0xA4 then (t.stepMatch, s)
  else s.takeFree

/-- A halted element fires again (R246). -/
def Elem.resume (x : Elem) : Elem := if x.halt then { x with halt := false, skipBrk := true } else x
/-- A halted context issues again (R247). -/
def Ctx.resume (x : Ctx) : Ctx := match x.status with | .halted => { x with status := .runnable } | _ => x

/-- Resume what a write to 0x0A5 names (R246). -/
def State.dbgResume (s : State) (g p : Nat) (b : Word) : State :=
  let s := (List.range 32).foldl (fun s k =>
    if 4 ≤ k ∧ bitOf b k then (let e := (s.tile g).phys k; if (s.elem g e).halt then s.updElem g e (·.resume) else s) else s) s
  let s := (List.range 4).foldl (fun s c => if bitOf b (32 + c) then s.updCtx g p c (·.resume) else s) s
  if bitOf b 40 ∧ (s.tile g).triad.halted then s.updTriad g (fun t => { t with halted := false, skipBrk := true }) else s

/-- Write a debug register (R246). -/
def State.dbgSet (s : State) (g p n : Nat) (b : Word) : State :=
  if n < 0x80 then s.updTile g (fun t => { t with shadow := NMap.set t.shadow n b })
  else if n < 0xA0 then s.updTile g (fun t => { t with filter := NMap.set t.filter (n - 0x80) (b &&& bits 33 0) })
  else if n < 0xA4 then s.updTile g (fun t => { t with amatch := NMap.set t.amatch (4 * p + (n - 0xA0)) (b &&& bits 44 0) })
  else if n = 0xA4 then s.updTile g (fun t => { t with stepMatch := b &&& bits 36 0 })
  else s.dbgResume g p b

/-- `dbg.x` (R246). -/
def execDbgX (f : Fields) (s : State) : Host.Outcome State Fault Refusal :=
  .next (match beginTask (.iDbgX f) f s (fun _ a _ => nine (decide (0xA5 < bitsOf a 9 0))) with
    | .stop s => s
    | .go t =>
      let n := bitsOf t.a 9 0
      let (v, s) := s.dbgGet t.g t.p n
      let s := s.putResult t true v
      if bitOf t.a 12 then s.dbgSet t.g t.p n t.b else s)

/-! Planes and pre-emption (R248, R249). -/

/-- `swp.pl` (R248): a swap step after the element's current firing. -/
def execSwpPl (f : Fields) (s : State) : Host.Outcome State Fault Refusal :=
  .next (match beginTask (.iSwpPl f) f s (fun _ a _ => nine (decide (bitsOf a 4 0 < 4))) with
    | .stop s => s
    | .go t =>
      let e := (s.tile t.g).phys (bitsOf t.a 4 0)
      let s := s.retire t t.x.advance
      if (s.elem t.g e).cur.isSome then s.updElem t.g e (fun x => { x with swapReq := true }) else s.swapStep t.g e)

/-- `qsc` (R249). -/
def execQsc (f : Fields) (s : State) : Host.Outcome State Fault Refusal :=
  .next (match beginTask (.iQsc f) f s noBad with
    | .stop s => s
    | .go t =>
      if !bitOf t.a 0 then (s.retire t t.x.advance).updTile t.g (fun q => { q with intake := true })
      else
        let s := s.updTile t.g (fun q => { q with intake := false })
        if s.arcsClear t.g ∧ (s.tile t.g).triad.interruptible then s.retire t t.x.advance
        else s.block t.g t.p t.c (.blkEngine .clear))

/-- A pre-emption of a running region is asked for (R249, R398, R403): the low byte is the cause, the next the reason. -/
def State.askStop (s : State) (i cause : Nat) : State :=
  s.updReg i (fun r => if r.st = .running then { r with st := .stopping cause } else r)

/-- `pmt` (R249). -/
def execPmt (f : Fields) (s : State) : Host.Outcome State Fault Refusal :=
  .next (match beginTask (.iPmt f) f s noBad with
    | .stop s => s
    | .go t =>
      let s := s.retire t t.x.advance
      match (s.tile t.g).inst with
      | some i => s.askStop i (2 + 256 * bitsOf t.a 7 0)
      | none => s)

/-- `ckpt` (R249). -/
def execCkpt (f : Fields) (s : State) : Host.Outcome State Fault Refusal :=
  .next (
    let shut : Bool := match s.site with | .task g _ _ => !(s.tile g).intake | .elem _ _ => false
    match beginTask (.iCkpt f) f s (fun _ a _ => nine (!shut || a.toNat % 64 != 0)) with
    | .stop s => s
    | .go t =>
      if !s.reachable (redirect s.migs t.a.toNat) ∨ !s.reachable (redirect s.migs (t.a.toNat + 0x23FFFF)) then s.memTrap t 0x21 t.a.toNat
      else s.issueOr t { s.taskReq t .st (.ckpt t.a.toNat) with ea := t.a.toNat } false)

/-- `rstor` (R249, R406). -/
def execRstor (f : Fields) (s : State) : Host.Outcome State Fault Refusal :=
  .next (match beginTask (.iRstor f) f s (fun _ a _ => nine (a.toNat % 64 != 0)) with
    | .stop s => s
    | .go t =>
      if !s.reachable (redirect s.migs t.a.toNat) ∨ !s.reachable (redirect s.migs (t.a.toNat + 0x23FFFF)) then s.memTrap t 0x21 t.a.toNat
      else s.issueOr t { s.taskReq t .ld (.rstor t.a.toNat) with ea := t.a.toNat, verdict := true } false)

end Sys2Proof.Machine
end

