-- ==== Sys2Proof/Machine/Shuffle.lean ====
section
/-! DEFINITION. Holdings tables and coded shuffles: 0xE6 to 0xEA (R146 to R153, R301 to R303). -/

namespace Sys2Proof.Machine

/-! Holdings (R150, R303). -/

/-- A physical address lies in a vault. -/
def inVault (pa : Nat) : Bool := decide (vaultBase ≤ pa % 2 ^ 44)
/-- The offset of an address within its vault. -/
def vaultOff (pa : Nat) : Nat := (pa % 2 ^ 44 - vaultBase) % 0x4000000

/-- Insert an entry (R150): the latest is last; into a full table the earliest goes. True where one was evicted. -/
def Vault.insert (v : Vault) (h : Holding) : Bool × Vault :=
  let rest := v.holds.filter (fun x => x.id != h.id)
  if rest.length = v.holds.length ∧ 1024 ≤ rest.length then (true, { v with holds := rest.tail ++ [h] })
  else (false, { v with holds := rest ++ [h] })

/-- The word of an entry (R303). -/
def Holding.word (h : Holding) : Word := BitVec.ofNat 64 (2 ^ 31 + (h.len - 1) % 64 * 2 ^ 20 + vaultOff h.pa / 64 % 2 ^ 20)

/-- A holdings operation at its vault. -/
def State.holdOp (s : State) (r : Req) (pa : Nat) : State :=
  let v := homeOf pa
  let fin (s : State) (x : Word) : State := s.unitDone r [x] (Tok.scalar r.thread r.iter x)
  match r.op with
  | .holdIns id len =>
    let (out, x) := (s.vault v).insert ⟨id, pa, len⟩
    let s := s.updVault v (fun _ => x)
    fin (if out then s.bumpVault v 3 else s) 0
  | .holdDrop id => fin (s.updVault v (fun x => { x with holds := x.holds.filter (fun h => h.id != id) })) 0
  | .holdQ id => fin s (match (s.vault v).holds.find? (fun h => h.id == id) with | some h => h.word | none => 0)
  | _ => s

/-- HOLDINGS_OP_AT_VAULT (R150, R303): one operation on the table of the vault that holds its address. -/
def execHoldingsOpAtVault (s : State) : Host.Outcome State Fault Refusal :=
  .next (match s.liveReq s.ev.id with
    | none => s
    | some r =>
      match r.op, r.pieces with
      | .holdIns _ _, p :: _ | .holdDrop _, p :: _ | .holdQ _, p :: _ =>
        (match p.place with
         | .phys pa => if s.mayPerform r p ∧ s.slotFirst r then s.holdOp r pa else s
         | _ => s)
      | _, _ => s)

/-- The address of a holdings instruction lies in a vault, and a 64-byte-aligned block of `len` units at it does (R303). -/
def holdAt (pl : Place) (len : Nat) : Bool :=
  match pl with
  | .phys pa => inVault pa && (len == 0 || (vaultOff pa % 64 == 0 && decide (vaultOff pa + 64 * len ≤ 0x4000000)))
  | _ => false

/-- An operation at an address that passes, or cause 0x21. -/
def holdMk (s : State) (g : Nat) (wins : NMap Win) (sp : Nat) (ea : Int) (len : Nat) (op : ReqOp) : Except (Nat × Nat) ReqOp :=
  match s.place g wins ⟨sp, ea, 1, false, false, 2⟩ with
  | .ok (pl, _) => if holdAt pl len then .ok op else .error (0x21, (BitVec.ofInt 64 ea).toNat)
  | .error c => .error (c, (BitVec.ofInt 64 ea).toNat)

/-- A holdings instruction (R303): `mk` from its operand word. -/
def runHold (i : Instr) (f : Fields) (s : State) (cls : Cls) (al : Nat) (d : Bool) (len : Word → Nat) (mk : Word → ReqOp) : State :=
  runUnit i f s cls 1 al 2 false false d
    (fun s t => holdMk s t.g t.x.wins (litSpace t.lit) t.ea (len t.d) (mk t.d))
    (fun s g el r q a _ => holdMk s g el.wins q.space (q.addr r.iter) (len a.scal) (mk a.scal))

/-- `hold.ins` (R303). -/
def execHoldIns (f : Fields) (s : State) : Host.Outcome State Fault Refusal :=
  .next (runHold (.iHoldIns f) f s .st 64 false (fun v => bitsOf v 37 32 + 1) (fun v => .holdIns (bitsOf v 31 0) (bitsOf v 37 32 + 1)))
/-- `hold.drop` (R303). -/
def execHoldDrop (f : Fields) (s : State) : Host.Outcome State Fault Refusal :=
  .next (runHold (.iHoldDrop f) f s .st 1 false (fun _ => 0) (fun v => .holdDrop (bitsOf v 31 0)))
/-- `hold.q` (R303). -/
def execHoldQ (f : Fields) (s : State) : Host.Outcome State Fault Refusal :=
  .next (runHold (.iHoldQ f) f s .ld 1 true (fun _ => 0) (fun v => .holdQ (bitsOf v 31 0)))

/-! Plans (R146 to R148). -/

/-- A plan entry (R146, R147). -/
structure PEnt where
  port : Nat
  coder : Bool
  /-- Units of 64 bytes. -/
  blen : Nat
  /-- Id, source and fallback of each contributor. -/
  cons : List (Nat × Nat × Nat)
  rcvs : List Rcv
  deriving DecidableEq, Repr

/-- A physical address field is a 64-byte-aligned address with its upper bits zero. -/
def addrOk (w : Word) : Bool := bitsOf w 63 52 == 0 && bitsOf w 5 0 == 0

/-- The fields of an entry in 256 bytes (R146, R147). -/
def entryOf (bs : List Byte) : PEnt :=
  let w (off : Nat) : Word := word64 bs off
  { port := bitsOf (w 0) 17 14, coder := bitOf (w 0) 13, blen := bitsOf (w 0) 9 4 + 1
    rcvs := (List.range (bitsOf (w 0) 12 10 + 1)).map (fun k =>
      let a := w (0x70 + 16 * k)
      let b := w (0x78 + 16 * k)
      { dst := bitsOf a 51 0, want := bitsOf a 57 56, cancel := bitsOf a 61 58, chip := bitsOf b 7 0, vault := bitsOf b 13 8, done := false })
    cons := (List.range (bitsOf (w 0) 2 0)).map (fun k => (bitsOf (w (0x10 + 24 * k)) 31 0, bitsOf (w (0x18 + 24 * k)) 51 0, bitsOf (w (0x20 + 24 * k)) 51 0)) }

/-- A receiver of an entry of `ncon` contributors names its block and its vault (R148). -/
def Rcv.ok (r : Rcv) (ncon : Nat) : Bool :=
  r.dst % 64 == 0 && decide (r.want < ncon) && r.cancel == 2 ^ ncon - 1 - 2 ^ r.want && decide (vaultAddr r.vault ≤ r.dst) &&
    decide (r.dst < vaultAddr (r.vault + 1))

/-- The entry in 256 bytes, where valid (R148) (DEDUCED, log entry 47). One whose src, fb or dst is no multiple of 64 is invalid too, which R147
forbids and R148 does not list (DESIGN CHOICE, log entry 69). -/
def State.parseEntry (s : State) (bs : List Byte) : Option PEnt :=
  let w (off : Nat) : Word := word64 bs off
  let e := entryOf bs
  let ncon := e.cons.length
  let chip := match e.rcvs with | v :: _ => v.chip | [] => 0
  let conRsv (k : Nat) : Bool :=
    bitsOf (w (0x10 + 24 * k)) 63 32 == 0 && bitsOf (w (0x18 + 24 * k)) 63 52 == 0 && bitsOf (w (0x20 + 24 * k)) 63 52 == 0
  let rcRsv (k : Nat) : Bool :=
    bitsOf (w (0x70 + 16 * k)) 55 52 == 0 && bitsOf (w (0x70 + 16 * k)) 63 62 == 0 && bitsOf (w (0x78 + 16 * k)) 63 14 == 0
  let conOk (k : Nat) : Bool := addrOk (w (0x18 + 24 * k)) && addrOk (w (0x20 + 24 * k))
  let rcOk (r : Rcv) : Bool := r.ok ncon && r.chip == chip && e.coder == (r.chip != 0)
  let link : Bool := match NMap.find s.links e.port with | some l => l.up && !l.down && l.peer == chip | none => false
  if ncon = 0 ∨ 4 < ncon ∨ bitsOf (w 0) 63 18 ≠ 0 ∨ bitOf (w 0) 3 ∨ w 8 ≠ 0 ∨ w 0xF0 ≠ 0 ∨ w 0xF8 ≠ 0 ∨
      !(List.range 4).all conRsv ∨ !(List.range 8).all rcRsv ∨ !(List.range ncon).all conOk ∨ !e.rcvs.all rcOk ∨ (e.coder ∧ !link) then none
  else some e

/-- Entries a plan header gives (R146, R301); none where it is refused. -/
def planCount (ws : List Word) : Option Nat :=
  let n := bitsOf (ws.getD 0 0) 16 0
  if n = 0 ∨ 65536 < n ∨ bitsOf (ws.getD 0 0) 63 17 ≠ 0 ∨ (ws.drop 1).any (· != 0) then none else some n

/-- An engine's error token for an operation of a context, with its issue's tag (R426), and the tag's error bit where asked. -/
def State.shfError (s : State) (r : Req) (tag cause off : Nat) (bit : Bool) : State :=
  match r.who with
  | .ctx g p _ =>
    let s := if bit then s.setCpErr g p tag else s
    s.toSink g (Tok.error r.thread r.iter 0 (s.reqPay r cause off))
  | _ => s

/-- The tag of a shuffle or an uncoded transfer. -/
def ReqOp.tag : ReqOp → Nat
  | .shf t _ _ => t
  | .shfFb t => t
  | _ => 0

/-! Issue (R301, R302). -/

/-- `shf.go` and `shf.fb` name a plan: its header is read at the plan's home, the verdict follows. -/
def runShf (i : Instr) (f : Fields) (s : State) (op : Nat) : State :=
  match beginTask i f s (fun _ a _ => nine (bitsOf a 51 48 == 4)) with
  | .stop s => s
  | .go t =>
    match s.holds t .cp false with
    | some st => s.block t.g t.p t.c st
    | none =>
      let off := bitsOf t.a 47 0
      match s.unitPlace t.g t.x.wins (bitsOf t.a 51 48) off 64 64 0 true false with
      | .error c => s.memTrap t c off
      | .ok (pl, kind, room, past) =>
        s.issue t { s.taskReq t .cp (.desc (BitVec.ofNat 32 (op * 2 ^ 24))) with
          pieces := [{ Piece.mk1 pl kind 64 t.b.toNat 0 0 0 with key := winKey t.x.wins (bitsOf t.a 51 48) }], verdict := true, ea := off, room := room, past := past,
          pages := winPages t.x.wins (bitsOf t.a 51 48) }

/-- `shf.go` (R301). -/
def execShfGo (f : Fields) (s : State) : Host.Outcome State Fault Refusal := .next (runShf (.iShfGo f) f s 0xE6)
/-- `shf.fb` (R302). -/
def execShfFb (f : Fields) (s : State) : Host.Outcome State Fault Refusal := .next (runShf (.iShfFb f) f s 0xE7)

/-- The number of a receiver's vault: 64 x chip + vault (R385). -/
def Rcv.at (r : Rcv) : Nat := 64 * r.chip + r.vault
/-- The physical address of a receiver's block, as this chip sees it. -/
def Rcv.pa (r : Rcv) : Nat := r.chip * 2 ^ 44 + r.dst % 2 ^ 44

/-- A packet, or uncoded transfers, of an entry for some receivers. -/
def PEnt.packet (e : PEnt) (r : Req) (data : List Byte) (bws : List (List Nat)) (rcvs : List Rcv) (uncoded : Bool) : Packet :=
  { req := r.id, inst := r.inst, blen := e.blen, ids := e.cons.map (·.1), srcs := e.cons.map (·.2.1), fbs := e.cons.map (·.2.2), data := data,
    bws := bws, rcvs := rcvs, uncoded := uncoded }

/-- Count a copy on a tag (R112). -/
def State.addTag (s : State) (g p tag : Nat) : State :=
  s.updTp g p (fun q => { q with tags := NMap.set q.tags tag (NMap.get q.tags tag 0 + 1), cpdone := q.cpdone &&& ~~~(BitVec.ofNat 64 (2 ^ tag)) })

/-- The first of `n` units that cannot be read (R408): its block is in error, or the act finds it so (`arc` 6, `w0` its number among the units the
act reads; these stand from number `k` on). -/
def State.unitBad (s : State) (k pa n : Nat) : Option Nat :=
  ((List.range n).find? (fun j => s.badBlock (.phys (pa + 64 * j)) || (s.ev.arc == 6 && s.ev.w0.toNat == k + j))).map (fun j => pa + 64 * j)
/-- The same of several runs of units, each of `n`, one after the other. -/
def State.unitsBad (s : State) (k : Nat) (l : List Nat) (n : Nat) : Option Nat := l.zipIdx.findSome? (fun x => s.unitBad (k + n * x.2) x.1 n)

/-- The header of a plan has been read (R301, R302): a trap, held at issue while the tag counts 31, or accepted, its tag's release at package
scope until an entry uses a link coder (R153). -/
def State.shfDesc (s : State) (r : Req) (fb : Bool) (pa : Nat) (ws : List Word) : State :=
  match r.who, r.pieces with
  | .ctx g p c, q :: _ =>
    let b : Word := BitVec.ofNat 64 q.val
    let tag := bitsOf b 5 0
    let full := decide (31 ≤ NMap.get (s.tp g p).tags tag 0)
    let go (s : State) (op : ReqOp) (sc : Nat) : State :=
      ((s.addTag g p tag).updReq r.id (fun x => { x with op := op, sc := sc, phase := .accepted, pieces := x.pieces.map (fun y => { y with done := true }) })).settle r.id
    (match planCount ws with
     | none => s.refuse r 0x38
     | some n =>
       if !fb then (if full then (s.unissue r).block g p c (.blkEngine (.tag tag)) else go s (.shf tag 0 n) 2)
       else
         let k := bitsOf b 21 6
         let z := bitsOf b 24 22
         if n ≤ k then s.refuse r 0x38
         else if r.room < 64 + 256 * (k + 1) then s.refuse r r.past
         else
           match s.unitBad 0 (pa + 64 + 256 * k) 4, s.parseEntry (s.keyBytes (pa + 64 + 256 * k) 256 q.key) with
           | some a, _ => s.dataError r a
           | none, none => s.refuse r 0x38
           | none, some e =>
             (match e.rcvs[z]? with
              | none => s.refuse r 0x38
              | some v =>
                if full then (s.unissue r).block g p c (.blkEngine (.tag tag))
                else (go s (.shfFb tag) (if e.coder then 3 else 2)).updVault v.at (fun x => { x with packets := x.packets ++ [e.packet r [] [] [v] true] })))
  | _, _ => s

/-! Coding (R149). -/

/-- Byte-wise exclusive or. -/
def xorBytes : List Byte → List Byte → List Byte
  | a :: l, b :: m => (a ^^^ b) :: xorBytes l m
  | _, _ => []

/-- The block words of `n` units. -/
def State.unitWords (s : State) (pa n : Nat) : List Nat := (List.range n).map (fun k => s.metaPa (pa + 64 * k))

/-- The first of `n` units that cannot be reached (R104). -/
def State.unitLost (s : State) (pa n : Nat) : Option Nat :=
  (List.range n).map (fun k => pa + 64 * k) |>.find? (fun a => !s.reachable (redirect s.migs a))

/-- Send an entry (R149): one packet to each receiving vault, or uncoded transfers where a contributor cannot be read. The contributors are read
in the one act that forms the packet (DESIGN CHOICE, log entry 69). -/
def State.sendEntry (s : State) (r : Req) (e : PEnt) : State :=
  let vs := (e.rcvs.map Rcv.at).eraseDups
  let s := if e.coder then s.updReq r.id (fun x => { x with sc := 3 }) else s
  match e.cons.findSome? (fun c => s.unitLost c.2.1 e.blen) with
  | some a =>
    let s := s.shfError r r.op.tag 0x21 a false
    vs.foldl (fun s v => s.updVault v (fun x => { x with packets := x.packets ++ [e.packet r [] [] (e.rcvs.filter (fun q => q.at == v)) true] })) s
  | none =>
    match s.unitsBad 4 (e.cons.map (·.2.1)) e.blen with
    | some a => s.dataError r a
    | none =>
      let blocks := e.cons.map (fun c => s.paBytes c.2.1 (64 * e.blen))
      let data := match blocks with | b :: l => l.foldl xorBytes b | [] => []
      let bws := e.cons.map (fun c => s.unitWords c.2.1 e.blen)
      vs.foldl (fun s v => s.updVault v (fun x => { x with heldPk := x.heldPk ++ [e.packet r data bws (e.rcvs.filter (fun q => q.at == v)) false] })) s

/-- SHUFFLE_ENTRY_CODE (R148, R149): the next entry of a shuffle's plan is read and checked, and its packet sent. -/
def execShuffleEntryCode (s : State) : Host.Outcome State Fault Refusal :=
  .next (match s.liveReq s.ev.id with
    | none => s
    | some r =>
      match r.op, r.pieces with
      | .shf tag k n, p :: _ =>
        if n ≤ k then s
        else
          let pa := p.place.pa + 64 + 256 * k
          let s := s.updReq r.id (fun x => { x with op := .shf tag (k + 1) n })
          if r.room < 64 + 256 * (k + 1) then s.shfError r tag r.past (r.ea + 64 + 256 * k) true
          else
            match s.unitBad 0 pa 4 with
            | some a => s.dataError r a
            | none =>
              (match s.parseEntry (s.keyBytes pa 256 p.key) with
               | none => s.shfError r tag 0x38 (r.ea + 64 + 256 * k) true
               | some e => s.sendEntry r e)
      | _, _ => s)

/-- SHUFFLE_PACKET_ADMIT (R151): the oldest packet held for vault `e` (the oldest: DESIGN CHOICE, log entry 69) enters its decode buffer of 256 KiB. -/
def execShufflePacketAdmit (s : State) : Host.Outcome State Fault Refusal :=
  .next (
    let v := s.vault s.ev.e
    match v.heldPk with
    | [] => s
    | q :: rest =>
      if v.packets.foldl (fun n x => n + x.data.length) 0 + q.data.length ≤ 0x40000 then
        s.updVault s.ev.e (fun x => { x with heldPk := rest, packets := x.packets ++ [q] })
      else s)

/-! Decoding (R151, R152). -/

/-- The agent whose copies and shuffles a request's tag stands for: its tile's Porter (R112, R153). -/
def Req.porter (r : Req) : Agent := match r.who with | .peer c => .peer c | a => .porter (a.tile.getD 0)

/-- Write a block at its destination, with its block words: posted writes, like a copy's (R153), which are accesses performed (R41); as of an RC
page, whatever kind the vault grant there has (DESIGN CHOICE, log entry 69). -/
def State.putBlock (s : State) (r : Req) (pa : Nat) (bs : List Byte) (bws : List Nat) : State :=
  let s := (List.range (bs.length / 8)).foldl (fun (s : State) k =>
    (s.postWrite r.inst r.id r.porter false none (pa + 8 * k) 8 (natOfBytes ((bs.drop (8 * k)).take 8))).afterWrite (pa + 8 * k)) s
  let s := { s with bad := s.bad.filter (fun b => !(List.range (bs.length / 64)).any (fun k => b == redirect s.migs (pa + 64 * k) / 64)) }
  (bws.zipIdx.foldl (fun s (x : Nat × Nat) => s.setMetaPa (pa + 64 * x.2) x.1) s).progress r.inst

/-- A unit of a receiver's block that cannot be written. A peer's vault is the peer's own: its packets come by their entry's port. -/
def State.dstLost (s : State) (v : Rcv) (n : Nat) : Option Nat := if v.chip = 0 then s.unitLost v.pa n else none

/-- A unit of a fallback's source that cannot be read: of the plan's own chip it is read over the link the packet came by (R147). -/
def State.srcLost (s : State) (r : Req) (pa n : Nat) : Option Nat :=
  match r.who with
  | .peer c => if pa / 2 ^ 44 = c then (List.range n).map (fun k => pa + 64 * k) |>.find? (fun a => !paLocalOk (a % 2 ^ 44)) else s.unitLost pa n
  | _ => s.unitLost pa n

/-- The uncoded transfer of a receiver (R152): its source is read as the plan's chip sees it. -/
def State.fallback (s : State) (r : Req) (q : Packet) (v : Rcv) : State :=
  let fb := q.fbs.getD v.want 0
  let pa := if fb = 0 then q.srcs.getD v.want 0 else fb
  match s.srcLost r pa q.blen, s.dstLost v q.blen with
  | some a, _ => s.shfError r r.op.tag 0x21 a true
  | none, some a => s.shfError r r.op.tag 0x21 a true
  | none, none =>
    match s.unitBad 0 pa q.blen with
    | some a => s.dataError r a
    | none => (s.bumpVault v.at 2).putBlock r v.pa (s.paBytes pa (64 * q.blen)) (s.unitWords pa q.blen)

/-- The held blocks that a receiver cancels, where every id is held with the packet's length (R151). -/
def State.heldBlocks (s : State) (q : Packet) (v : Rcv) : Option (List Nat) :=
  ((List.range q.ids.length).filter (fun k => v.cancel.testBit k)).mapM (fun k =>
    ((s.vault v.at).holds.find? (fun h => h.id == q.ids.getD k 0 && h.len == q.blen)).map (·.pa))

/-- Serve a receiver of a packet (R151, R152). -/
def State.serveRcv (s : State) (r : Req) (q : Packet) (v : Rcv) : State :=
  if q.uncoded then s.fallback r q v
  else
    match s.heldBlocks q v with
    | none => (s.bumpVault v.at 0).fallback r q v
    | some l =>
      match s.unitsBad 0 l q.blen, s.dstLost v q.blen with
      | some a, _ => s.dataError r a
      | none, some a => s.shfError r r.op.tag 0x21 a true
      | none, none =>
        let bs := l.foldl (fun bs pa => xorBytes bs (s.paBytes pa (64 * q.blen))) q.data
        (s.bumpVault v.at 1).putBlock r v.pa bs (q.bws.getD v.want [])

/-- PACKET_DECODE (R151): the oldest packet at vault `e` (the oldest: DESIGN CHOICE, log entry 69) serves its next receiver; after the last its
space is free. -/
def execPacketDecode (s : State) : Host.Outcome State Fault Refusal :=
  .next (match (s.vault s.ev.e).packets with
    | [] => s
    | q :: rest =>
      match q.rcvs with
      | [] => s.updVault s.ev.e (fun x => { x with packets := rest })
      | v :: more =>
        let put (s : State) : State := s.updVault s.ev.e (fun x => { x with packets := if more = [] then rest else { q with rcvs := more } :: rest })
        match s.liveReq q.req with
        | none => s.updVault s.ev.e (fun x => { x with packets := rest })
        | some r => (put s).serveRcv r q v)

/-- A shuffle still has packets or transfers. -/
def State.inFlight (s : State) (id : Nat) : Bool := s.vaults.any (fun v => (v.2.packets ++ v.2.heldPk).any (fun q => q.req == id))

/-- SHUFFLE_LANDED (R153): every receiver of every valid entry has been served: the tag and the count fall, a release of the blocks written. -/
def execShuffleLanded (s : State) : Host.Outcome State Fault Refusal :=
  .next (match s.liveReq s.ev.id with
    | none => s
    | some r =>
      let fin : Bool := match r.op with | .shf _ k n => decide (n ≤ k) | .shfFb _ => decide (r.phase = .accepted) | _ => false
      match r.who with
      | .ctx g p c =>
        if fin ∧ !s.inFlight r.id then
          let s := (s.dropReq r.id).releaseAt r.porter (fun e => e.who == r.porter && e.slot == r.id) r.sc [.tag g p r.op.tag, .cp g p c]
          (s.landTag g p r.op.tag).countDown r.who .cp
        else s
      | .peer _ => if fin ∧ !s.inFlight r.id then (s.dropReq r.id).reveal (fun e => e.who == r.porter && e.slot == r.id) else s
      | _ => s)

/-! A peer chip's shuffle (R149, R151, R385). -/

/-- An address as the peer chip that holds a plan sees it, as this chip sees it (R147). -/
def State.fromPeer (s : State) (chip a : Nat) : Nat :=
  if a / 2 ^ 44 = 0 then chip * 2 ^ 44 + a else if a / 2 ^ 44 = s.chip then a % 2 ^ 44 else a

/-- The packet a peer's link coder sends: the entry, the exclusive or of its blocks, and each contributor's block words (R149). -/
def State.peerPacket (s : State) (chip : Nat) (bs : List Byte) : Option PEnt × List Byte × List (List Nat) :=
  let e := entryOf bs
  let n := e.blen
  let see (a : Nat) : Nat := if a = 0 then 0 else s.fromPeer chip a
  let ok : Bool := e.cons != [] && decide (e.cons.length ≤ 4) && e.coder && e.rcvs.all (fun v => v.ok e.cons.length && v.chip == s.chip)
  (if ok then some { e with cons := e.cons.map (fun c => (c.1, s.fromPeer chip c.2.1, see c.2.2)), rcvs := e.rcvs.map (fun v => { v with chip := 0 }) } else none,
   ((bs.drop 256) ++ List.replicate (64 * n) 0).take (64 * n),
   (List.range e.cons.length).map (fun c => (List.range n).map (fun k => fieldN bs (256 + 64 * n + 2 * (n * c + k)) 2)))

/-- A peer's coded packet arrives (R151): a request of that chip stands for its shuffle, and the packet waits at the vaults of its receivers. -/
def State.peerShuffle (s : State) (chip : Nat) (bs : List Byte) : State :=
  match s.peerPacket chip bs with
  | (none, _, _) => s
  | (some e, data, bws) =>
    let r : Req := { Req.blank s.nextId (2 ^ 32 + chip) 0 (.peer chip) (.shf 0 0 0) with phase := .accepted, sc := 3 }
    let vs := (e.rcvs.map Rcv.at).eraseDups
    vs.foldl (fun s v => s.updVault v (fun x => { x with heldPk := x.heldPk ++ [e.packet r data bws (e.rcvs.filter (fun q => q.at == v)) false] })) (s.addReq r)

end Sys2Proof.Machine
end

