-- ==== Sys2Proof/Machine/Image.lean ====
section
/-! DEFINITION. Configuration images: reading and checking them (R168, R310, R318, R319, R335 to R351, R353, R354, R429). -/

namespace Sys2Proof.Machine

/-! Reading (R335, R429). -/

/-- A section of an image (R336). -/
structure Sec where
  idx : Nat
  kind : Nat
  team : Nat
  role : Nat
  plane : Nat
  off : Nat
  len : Nat
  deriving DecidableEq, Repr

/-- An image as it has been read. -/
structure Img where
  code : Nat
  bs : List Byte
  secs : List Sec
  deriving DecidableEq, Repr

/-- A refusal, before a placement: the image error record's fields (R354). -/
structure ImgErr where
  nosec : Bool
  team : Nat
  slot : Nat
  plane : Nat
  role : Nat
  sec : Nat
  cause : Nat
  off : Nat
  deriving DecidableEq, Repr

/-- A refusal of a section. -/
def Sec.err (q : Sec) (cause off : Nat) : ImgErr := ⟨false, q.team, 0, q.plane, q.role, q.idx, cause, off⟩
/-- A refusal that concerns no section. -/
def imgErr0 (cause team off : Nat) : ImgErr := ⟨true, team, 0, 0, 0, 0, cause, off⟩

/-- Header fields (R335). -/
def Img.hdr (m : Img) (off hi lo : Nat) : Nat := fieldBits m.bs off hi lo
/-- Teams. -/
def Img.tiles (m : Img) : Nat := m.hdr 8 8 0
/-- Class tendered. -/
def Img.tend (m : Img) : Bool := m.hdr 8 9 9 == 1
/-- Placement modifier. -/
def Img.placeMod (m : Img) : Nat := m.hdr 8 11 10
/-- Member of a multi-chip bundle. -/
def Img.multi (m : Img) : Bool := m.hdr 8 12 12 == 1
/-- Page kind of the grant. -/
def Img.vkind (m : Img) : Nat := m.hdr 8 17 16
/-- Grant offset. -/
def Img.vbase (m : Img) : Nat := m.hdr 0x10 25 0
/-- Grant size. -/
def Img.vsize (m : Img) : Nat := m.hdr 0x10 57 32
/-- Log2 of the fault limit. -/
def Img.flim (m : Img) : Nat := if m.hdr 0x30 5 0 = 0 then 20 else m.hdr 0x30 5 0
/-- Offset of the example frame. -/
def Img.foff (m : Img) : Nat := m.hdr 0x20 31 0

/-- The byte offset of the first header field that fails (R335, R354). -/
def headerFails (h : List Byte) : Option Nat :=
  let f (off hi lo : Nat) : Nat := fieldBits h off hi lo
  let length := f 0x18 31 0
  ([(0x00, decide (f 0 31 0 ≠ 0x464E4931)), (0x04, f 0 47 32 != 1), (0x06, f 0 63 48 != 0),
    (0x08, f 8 8 0 == 0 || decide (384 < f 8 8 0)), (0x09, f 8 11 10 == 3 || f 8 15 13 != 0), (0x0A, f 8 17 16 == 3 || f 8 63 18 != 0),
    (0x13, f 0x10 31 26 != 0), (0x17, f 0x10 63 58 != 0), (0x18, decide (length < 64)), (0x1E, f 0x18 63 48 != 0),
    (0x20, decide (length < f 0x20 31 0 + f 0x20 44 32)), (0x24, decide (4096 < f 0x20 44 32)), (0x25, f 0x20 63 45 != 0),
    (0x2C, f 0x28 63 32 != 0), (0x30, f 0x30 63 6 != 0), (0x38, f 0x38 63 0 != 0)] : List (Nat × Bool)).findSome?
    (fun x => if x.2 then some x.1 else none)

/-- A section of the table's entry `i` (R336): reserved bits are ignored (R3). -/
def secAt (bs : List Byte) (stab i : Nat) : Sec :=
  let a := stab + 16 * i
  { idx := i, kind := fieldBits bs a 15 0, team := fieldBits bs a 24 16, role := fieldBits bs a 29 25, plane := fieldBits bs a 31 30,
    off := fieldBits bs a 63 32, len := fieldBits bs (a + 8) 31 0 }

/-- Read the image of a tenant page by page, without the caches of any tile (R429). -/
def State.readImg (s : State) (tenant root : Nat) : Nat → Nat → Nat → VRead × State
  | 0, _, _ => (.ok [], s)
  | fuel + 1, va, n =>
    if n = 0 then (.ok [], s)
    else
      match (s.walk tenant va 4 5 1 root).1 with
      | .ok l =>
        let (l, s) := s.markLeaf l false
        let k := min n (l.vbase + l.size - va)
        let pa := l.pa va
        if !s.paOk pa l.key then (.dead va, s)
        else if s.rangeBad pa k then (.bad (va + s.firstBad pa k) (pa + s.firstBad pa k), s)
        else
          (match s.readImg tenant root fuel (va + k) (n - k) with
           | (.ok bs, s') => (.ok (s.paBytes pa k ++ bs), s')
           | r => r)
      | .denied => (.denied va, s)
      | .bad pa => (.bad va pa, s)
      | .dead => (.dead va, s)
      | .fault l r e => (.fault va l r e, s)

/-- How reading and checking an image ends. -/
inductive Loaded where
  | ok (m : Img)
  | refused (e : ImgErr)
  | fault (va level reason : Nat) (pte : Word)
  /-- Memory that does not answer, for which the spec gives no refusal (R429): the load goes on once it does (DESIGN CHOICE, log entry 53). -/
  | waits
  deriving DecidableEq, Repr

/-- The refusal of a failed read (R353): the section that holds the byte, if the table has been read. -/
def readErr (m : Img) (off : Nat) : ImgErr :=
  match m.secs.find? (fun q => decide (q.off ≤ off) && decide (off < q.off + q.len)) with
  | some q => q.err 0x6A (off - q.off)
  | none => imgErr0 0x6A 0 0

/-! Checks (R335 to R351, R353). -/

/-- Bytes of a section. -/
def Img.sec (m : Img) (q : Sec) : List Byte := (m.bs.drop q.off).take q.len
/-- Blocks of 64 bytes that a range touches. -/
def blocksOf (off n : Nat) : Nat := if n = 0 then 0 else (off + n - 1) / 64 - off / 64 + 1
/-- Offset, in its side or grant, and length of a data section (R343, R347). -/
def Img.dataRange (m : Img) (q : Sec) : Nat × Nat :=
  let b := m.sec q
  (if q.kind = 6 then fieldBits b 0 19 2 else fieldBits b 0 31 0, fieldBits b 0 63 32)
/-- Side of a scratchpad data section. -/
def Img.side (m : Img) (q : Sec) : Nat := fieldBits (m.sec q) 0 1 0
/-- Bytes of a data section. -/
def Img.data (m : Img) (q : Sec) : List Byte := ((m.sec q).drop 8).take (m.dataRange q).2
/-- Block words of a data section. -/
def Img.blockWords (m : Img) (q : Sec) : List Nat :=
  let (o, n) := m.dataRange q
  (List.range (blocksOf o n)).map (fun k => fieldN (m.sec q) (8 + n + 2 * k) 2)

/-- A section has the length its kind gives. -/
def Img.lenOk (m : Img) (q : Sec) : Bool :=
  match q.kind with
  | 1 => q.len == 64
  | 2 => q.len == 1024
  | 3 => q.len == 24576
  | 4 => q.len == 512
  | 5 => if kindOf q.role = .lut then q.len == 16448 else q.len == 64
  | 6 | 9 => decide (8 ≤ q.len) && q.len == 8 + (m.dataRange q).2 + 2 * blocksOf (m.dataRange q).1 (m.dataRange q).2
  | 7 | 13 => q.len % 16 == 0
  | 8 | 10 => q.len % 8 == 0
  | 11 => q.len == 16
  | 12 => decide (8 ≤ q.len) && q.len == 8 + 8 * fieldBits (m.sec q) 0 8 0 * (1 + m.tiles)
  | 14 => q.len % 8 == 0 && q.len != 0
  | _ => false

/-- The table's entry names what its kind uses. -/
def Sec.usesOk (q : Sec) : Bool :=
  let t := q.team == 0
  let r := q.role == 0
  let p := q.plane == 0
  match q.kind with
  | 1 | 6 | 9 => r && p
  | 2 => true
  | 3 | 4 | 5 => p
  | 7 | 8 | 10 | 11 | 12 | 13 | 14 => t && r && p
  | _ => false

/-- The first table entry that fails (R336, cause 0x61). -/
def Img.tableFails (m : Img) : Option ImgErr :=
  let length := m.hdr 0x18 31 0
  m.secs.findSome? (fun q =>
    if m.hdr 0x28 31 0 + 16 * (q.idx + 1) ≤ length ∧ q.off + q.len ≤ length ∧ q.usesOk ∧ m.lenOk q ∧
        (q.kind ≠ 13 ∨ m.multi) ∧ !m.secs.any (fun p => decide (p.idx < q.idx) && decide (p.off < q.off + q.len) && decide (q.off < p.off + p.len))
    then none else some (q.err 0x61 0))

/-- The sections of a kind. -/
def Img.ofKind (m : Img) (k : Nat) : List Sec := m.secs.filter (fun q => q.kind == k)
/-- A team's record (R337). -/
def Img.team (m : Img) (k : Nat) : List Byte := match (m.ofKind 1).find? (fun q => q.team == k) with | some q => m.sec q | none => []
/-- Roles a team uses, one bit each. -/
def Img.roles (m : Img) (k : Nat) : Nat := fieldBits (m.team k) 8 31 0
/-- A team uses a role. -/
def Img.hasRole (m : Img) (k c : Nat) : Bool := (m.roles k).testBit c
/-- The halfword of context `c` of task processor `p`. -/
def Img.ctxWord (m : Img) (k p c : Nat) : Nat := fieldN (m.team k) (0x20 + 2 * (4 * p + c)) 2
/-- A context is declared. -/
def Img.declared (m : Img) (k p c : Nat) : Bool := (m.ctxWord k p c).testBit 15
/-- Initial plane of a role. -/
def Img.iplane (m : Img) (k c : Nat) : Nat := fieldBits (m.team k) 0x10 63 0 / 4 ^ c % 4
/-- The generators of a port role. -/
def Img.gens (m : Img) (k c : Nat) : NMap Gen :=
  match (m.ofKind 4).find? (fun q => q.team == k && q.role == c) with | some q => parseGens (m.sec q) | none => []
/-- A slot is occupied in some plane of a role. -/
def Img.slotUsed (m : Img) (k c slot : Nat) : Bool :=
  (m.ofKind 2).any (fun q => q.team == k && q.role == c && fieldBits (m.sec q) 0x300 slot slot == 1)

/-- Team records (R337, cause 0x62): one for each team, and a context declared in some team; reserved bits are ignored (R3). -/
def Img.teamsFail (m : Img) : Option ImgErr :=
  let l := m.ofKind 1
  let bad := l.findSome? (fun q =>
    let b := m.sec q
    if m.tiles ≤ q.team ∨ fieldBits b 0 8 0 ≠ q.team ∨ l.any (fun p => decide (p.idx < q.idx) && p.team == q.team) then some (q.err 0x62 0)
    else
      let c := fieldBits b 0 20 16
      if fieldBits b 0 27 27 = 1 ∧ (c < 4 ∨ !m.hasRole q.team c) then some { q.err 0x63 0 with role := c }
      else match (List.range 32).find? (fun c => m.iplane q.team c != 0 && (decide (c < 4) || !m.hasRole q.team c)) with
      | some c => some { q.err 0x63 0x10 with role := c }
      | none => (List.range 16).findSome? (fun i =>
        let h := fieldN b (0x20 + 2 * i) 2
        if h.testBit 15 ∧ !m.hasRole q.team (i / 4) then some { q.err 0x63 (0x20 + 2 * i) with role := i / 4 } else none))
  match bad with
  | some e => some e
  | none =>
    match (List.range m.tiles).find? (fun k => !l.any (fun q => q.team == k)) with
    | some k => some (imgErr0 0x62 k 0)
    | none =>
      if (List.range m.tiles).any (fun k => (List.range 16).any (fun i => m.declared k (i / 4) (i % 4))) then none else some (imgErr0 0x62 0 0)

/-- A section's team and role (causes 0x62, 0x63). -/
def Img.roleFails (m : Img) (q : Sec) : Option ImgErr :=
  if q.kind ∉ [2, 3, 4, 5, 6, 9] then none
  else if m.tiles ≤ q.team then some (q.err 0x62 0)
  else
    let ok : Bool := match q.kind with
      | 2 | 5 => m.hasRole q.team q.role && decide (4 ≤ q.role)
      | 3 => m.hasRole q.team q.role && decide (q.role < 4)
      | 4 => m.hasRole q.team q.role && decide (28 ≤ q.role)
      | _ => true
    if ok then none else some (q.err 0x63 0)

/-- The grant is one that R310 allows. -/
def Img.grantOk (m : Img) : Bool :=
  m.vsize == 0 || (m.vbase % 4096 == 0 && m.vsize % 4096 == 0 && decide (m.vbase + m.vsize ≤ 0x3F00000))

/-- Two data ranges of one store meet. -/
def meets (a b : Nat × Nat) : Bool := decide (a.1 < b.1 + b.2) && decide (b.1 < a.1 + a.2)

/-- Data inside its side or grant, apart from the team's other data (cause 0x66). -/
def Img.dataFails (m : Img) (q : Sec) : Option ImgErr :=
  let (o, n) := m.dataRange q
  if q.kind = 6 then
    if m.side q = 3 ∨ 0x40000 < o + n ∨
        (m.ofKind 6).any (fun p => decide (p.idx < q.idx) && p.team == q.team && m.side p == m.side q && meets (m.dataRange p) (o, n))
    then some (q.err 0x66 0) else none
  else if q.kind = 9 then
    if o < m.vbase ∨ m.vbase + m.vsize < o + n ∨
        (m.ofKind 9).any (fun p => decide (p.idx < q.idx) && (p.team == q.team || m.placeMod == 1) && meets (m.dataRange p) (o, n))
    then some (q.err 0x66 0) else none
  else none

/-- A replica entry that R163 refuses. -/
def replicaBad (e : Word) : Bool := bitsOf e 63 42 != 0 || bitsOf e 17 16 == 3

/-- A vault data section is a plan (R146): its length and count agree. -/
def isPlan (b : List Byte) : Bool :=
  decide (64 < b.length) && (b.length - 64) % 256 == 0 && planCount (wordsOfBytes b 8) == some ((b.length - 64) / 256)

/-- A vault data section is a sketch (R134, R145): its length is that of its header's rows, legal or not, and its counters are zero. -/
def isSketch (b : List Byte) : Bool :=
  let d := fieldBits b 0 2 0
  let lgw := fieldBits b 0 7 3
  d != 0 && b.length == 64 + 4 * d * 2 ^ lgw && (b.drop 64).all (· == 0)

/-- The rules of an object in a vault data section (cause 0x67): a sketch header, a replica table of 2,048 bytes (R136, R163, R348); a
plan is checked once relocated, a barrier with its table entry. -/
def Img.objectFails (m : Img) (q : Sec) : Option ImgErr :=
  let b := m.data q
  if q.kind ≠ 9 then none
  else if isSketch b ∧ parseSk (b.take 64) = none then some (q.err 0x67 8)
  else if b.length = 2048 then
    (match (List.range 256).find? (fun e => replicaBad (word64 b (8 * e))) with
     | some e => some (q.err 0x67 (8 + 8 * e))
     | none => none)
  else none

/-- Planes and generators (R190, R339, R341, R342). -/
def Img.codeFails (m : Img) (q : Sec) : Option ImgErr :=
  let b := m.sec q
  if q.kind = 2 then
    (match planeFails (kindOf q.role) q.role q.plane (m.gens q.team q.role) b with
     | some (c, slot, off) => some { q.err c off with slot := slot }
     | none => none)
  else if q.kind = 4 then
    (match (List.range 16).find? (fun k =>
        match parseGen ((b.drop (32 * k)).take 32) with
        | some g => !g.ok m.vbase m.vsize
        | none => false) with
     | some k => some (q.err 0x65 (32 * k))
     | none => none)
  else none

/-- An arc of the table (R344). -/
def arcOf (w : Word) : Nat × Arc :=
  let f (hi lo : Nat) : Nat := bitsOf w hi lo
  let sp := f 31 27
  let dp := f 50 46
  (f 15 0,
   { schan := decide (24 ≤ sp), steam := f 40 32, selem := if 24 ≤ sp then 4 * f 26 22 + f 61 60 else f 26 22, sport := if 24 ≤ sp then sp - 24 else sp,
     dchan := decide (24 ≤ dp), dteam := f 59 51, delem := if 24 ≤ dp then 4 * f 45 41 + f 63 62 else f 45 41,
     dport := if 24 ≤ dp then dp - 24 else dp, slot := f 21 16 })
/-- A circuit of the table (R345). -/
def circOf (w : Word) : Nat × Arc :=
  let f (hi lo : Nat) : Nat := bitsOf w hi lo
  (f 15 0, { schan := false, steam := f 37 29, selem := f 26 22, sport := f 28 27, dchan := false, dteam := f 53 45, delem := f 42 38,
             dport := f 44 43, slot := f 21 16 })
/-- The arc words of a section, with their offsets. -/
def Img.arcWords (m : Img) (q : Sec) : List (Nat × Word) := (List.range (q.len / 16)).map (fun k => (16 * k, word64 (m.sec q) (16 * k)))
/-- All arcs, in order. -/
def Img.arcList (m : Img) : List (Nat × Arc) := (m.ofKind 7).flatMap (fun q => (m.arcWords q).map (fun x => arcOf x.2))
/-- The circuit words of a section, with their offsets. -/
def Img.circWords (m : Img) (q : Sec) : List (Nat × Word) := (List.range (q.len / 8)).map (fun k => (8 * k, word64 (m.sec q) (8 * k)))
/-- All circuits, in order. -/
def Img.circList (m : Img) : List (Nat × Arc) := (m.ofKind 8).flatMap (fun q => (m.circWords q).map (fun x => circOf x.2))

/-- The ends of an arc are declared (R17, R344, R346). -/
def Img.arcOk (m : Img) (w : Word) : Bool :=
  let sp := bitsOf w 31 27
  let dp := bitsOf w 50 46
  let sr := bitsOf w 26 22
  let dr := bitsOf w 45 41
  let st := bitsOf w 40 32
  let dt := bitsOf w 59 51
  decide (st < m.tiles) && decide (dt < m.tiles) &&
    (if sp < 16 then decide (4 ≤ sr) && m.hasRole st sr
     else decide (25 ≤ sp) && decide (sp ≤ 27) && decide (sr < 4) && m.declared st sr (bitsOf w 61 60)) &&
    (if dp < 16 then decide (4 ≤ dr) && m.hasRole dt dr && m.slotUsed dt dr (bitsOf w 21 16)
     else decide (24 ≤ dp) && decide (dp ≤ 27) && decide (dr < 4) && m.declared dt dr (bitsOf w 63 62) && bitsOf w 21 16 == 0)

/-- The channel ends an arc binds: team, processor and context, channel. -/
def Arc.binds (a : Arc) : List (Nat × Nat × Nat) :=
  (if a.schan then [(a.steam, a.selem, a.sport)] else []) ++ (if a.dchan then [(a.dteam, a.delem, a.dport)] else [])

/-- The ends of a circuit are declared. -/
def Img.circOk (m : Img) (w : Word) : Bool :=
  let c := (circOf w).2
  decide (c.steam < m.tiles) && decide (c.dteam < m.tiles) && decide (4 ≤ c.selem) && decide (4 ≤ c.delem) && m.hasRole c.steam c.selem &&
    m.hasRole c.dteam c.delem && m.slotUsed c.dteam c.delem c.slot

/-- The first arc or circuit that fails (cause 0x64). -/
def Img.arcsFail (m : Img) : Option ImgErr :=
  let arcs := (m.ofKind 7).flatMap (fun q => (m.arcWords q).map (fun x => (q, x.1, x.2)))
  let circs := (m.ofKind 8).flatMap (fun q => (m.circWords q).map (fun x => (q, x.1, x.2)))
  let before (l : List (Sec × Nat × Word)) (i : Nat) : List Word := (l.take i).map (·.2.2)
  match (arcs.zipIdx.findSome? (fun x =>
      let w := x.1.2.2
      let old := before arcs x.2
      if m.arcOk w ∧ !old.any (fun v => bitsOf v 15 0 == bitsOf w 15 0) ∧
          !old.any (fun v => ((arcOf v).2.binds).any (fun b => ((arcOf w).2.binds).contains b)) ∧
          (arcOf w).2.binds.eraseDups.length = (arcOf w).2.binds.length
      then none else some (x.1.1.err 0x64 x.1.2.1))) with
  | some e => some e
  | none =>
    circs.zipIdx.findSome? (fun x =>
      if m.circOk x.1.2.2 ∧ !(before circs x.2).any (fun v => bitsOf v 15 0 == bitsOf x.1.2.2 15 0) then none
      else some (x.1.1.err 0x64 x.1.2.1))

/-- Relocations (R347): section, byte offset within it, team. -/
def Img.relocs (m : Img) : List (Sec × Nat × Nat × Nat × Nat) :=
  (m.ofKind 10).flatMap (fun q => (List.range (q.len / 8)).map (fun k =>
    let o := 8 * k
    let b := m.sec q
    (q, o, fieldBits b o 15 0, fieldBits b o 47 16, fieldBits b o 56 48)))

/-- A relocation names an aligned word of a vault data section's bytes and a team (cause 0x61). -/
def Img.relocFails (m : Img) : Option ImgErr :=
  m.relocs.findSome? (fun (x : Sec × Nat × Nat × Nat × Nat) =>
    let (q, o, target, off, k) := x
    match m.secs[target]? with
    | some t =>
      if t.kind = 9 ∧ off % 8 = 0 ∧ 8 ≤ off ∧ off + 8 ≤ 8 + (m.dataRange t).2 ∧ k < m.tiles then none
      else some (q.err 0x61 o)
    | none => some (q.err 0x61 o))

/-- The formula record (R168). -/
def Img.formula (m : Img) : List Byte := match m.ofKind 11 with | q :: _ => m.sec q | [] => []

/-- The formula and tend (cause 0x69): no value of a formula's fields is refused (R168). -/
def Img.formulaFails (m : Img) : Option ImgErr :=
  match m.ofKind 11 with
  | q :: _ =>
    if !m.tend ∨ m.tiles ≠ 1 then some (q.err 0x69 0) else none
  | [] => if m.tend then some { imgErr0 0x69 0 0 with nosec := false } else none

/-- Entries of the barrier table: offset and team. -/
def Img.barrierList (m : Img) : List (Nat × Nat) :=
  (m.ofKind 14).flatMap (fun q => (List.range (q.len / 8)).map (fun k => (fieldBits (m.sec q) (8 * k) 25 0, fieldBits (m.sec q) (8 * k) 40 32)))

/-- The barrier object that team `t`'s vault data holds at an offset, if any, meets R318: exp is not 0, every other field is 0; reserved bits are
ignored (R3). -/
def Img.barrierOk (m : Img) (x t : Nat) : Bool :=
  match (m.ofKind 9).find? (fun q => q.team == t && decide ((m.dataRange q).1 ≤ x) && decide (x + 16 ≤ (m.dataRange q).1 + (m.dataRange q).2)) with
  | some q =>
    let b := (m.data q).drop (x - (m.dataRange q).1)
    fieldBits b 0 15 0 != 0 && fieldBits b 0 40 16 == 0 && fieldBits b 8 39 0 == 0
  | none => true

/-- The barrier table (R319, cause 0x67): at most 16 entries, over all its sections. -/
def Img.barriersFail (m : Img) : Option ImgErr :=
  (m.ofKind 14).findSome? (fun q =>
    let n := q.len / 8
    let before := ((m.ofKind 14).filter (fun p => decide (p.idx < q.idx))).foldl (fun n p => n + p.len / 8) 0
    if 16 < before + n then some (q.err 0x67 (8 * (16 - before)))
    else
      let e (k : Nat) : Nat × Nat := (fieldBits (m.sec q) (8 * k) 25 0, fieldBits (m.sec q) (8 * k) 40 32)
      match (List.range n).find? (fun k =>
        let (x, t) := e k
        x % 16 != 0 || decide (x < m.vbase) || decide (m.vbase + m.vsize < x + 16) || decide (m.tiles ≤ t) || !m.barrierOk x t) with
      | some k => some (q.err 0x67 (8 * k))
      | none => none)

/-- The catalogue holds 1 to 256 entries (R350, cause 0x61); where its teams may lie is seen as its placements are tried. -/
def Img.catalogueFails (m : Img) : Option ImgErr :=
  (m.ofKind 12).findSome? (fun q =>
    let n := fieldBits (m.sec q) 0 8 0
    if n = 0 ∨ 256 < n then some (q.err 0x61 0) else none)

/-- Whether some plane of a role holds a `cmpfw` in a slot. -/
def Img.isCmpfw (m : Img) (k c slot : Nat) : Bool :=
  (m.ofKind 2).any (fun q => q.team == k && q.role == c && fieldBits (m.sec q) 0x300 slot slot == 1 && fieldN (m.sec q) (4 * slot + 3) 1 == 0x78)

/-- The first `topk.rp` with more winners than its tree has experts (R156): the tree is the `cmpfw` slots that its replay port reaches (R227), each
with two inputs, so it has one expert more than it has slots; a replay port that reaches none gives no E, and nothing is refused (DEDUCED, log entry 53). -/
def Img.topkFails (m : Img) : Option ImgErr :=
  (m.ofKind 2).findSome? (fun q =>
    (List.range 64).findSome? (fun slot =>
      let w : Lane := BitVec.ofNat 32 (fieldN (m.sec q) (4 * slot) 4)
      let lit := word64 (m.sec q) (0x100 + 8 * slot)
      if fieldBits (m.sec q) 0x300 slot slot = 0 ∨ w.toNat / 2 ^ 24 ≠ 0x79 then none
      else
        let nodes := ((m.arcList.map (·.2)).filter (fun a => !a.schan && !a.dchan && a.steam == q.team && a.selem == q.role && a.sport == bitsOf lit 7 4 &&
          m.isCmpfw a.dteam a.delem a.slot)).map (fun a => (a.dteam, a.delem, a.slot))
        if (fieldsOf w).b = 31 ∧ nodes ≠ [] ∧ nodes.eraseDups.length + 1 < bitsOf lit 3 0 then some { q.err 9 (4 * slot) with slot := slot } else none))

/-- The first check that fails, after the header (R352 step 2, R353). -/
def Img.fails (m : Img) : Option ImgErr :=
  ([m.tableFails, m.teamsFail, if m.grantOk then none else some { imgErr0 0x66 0 0 with nosec := false },
    m.secs.findSome? m.roleFails, m.secs.findSome? m.codeFails, m.secs.findSome? m.dataFails, m.secs.findSome? m.objectFails,
    m.arcsFail, m.topkFails, m.relocFails, m.formulaFails, m.barriersFail, m.catalogueFails] : List (Option ImgErr)).findSome? id

/-- Read and check the image at a virtual address for an instance (R352, R429) (DEDUCED, log entry 53). A data error is a machine check that
discards no region: nothing of the image is placed (R353, R408). -/
def State.loadImage (s : State) (inst tenant root code : Nat) : Loaded × State :=
  let stop (m : Img) (r : VRead) (s : State) : Loaded × State :=
    match r with
    | .fault va l why e => (.fault va l why e, s)
    | .denied va => (.refused (readErr m (va - code)), s)
    | .bad va pa => (.refused (readErr m (va - code)), s.memCheck tenant inst pa)
    | .dead _ => (.waits, s)
    | .ok _ => (.refused (imgErr0 0x6A 0 0), s)
  match s.readImg tenant root 3 code 64 with
  | (.ok h, s) =>
    (match headerFails h with
     | some off => (.refused (imgErr0 0x60 0 off), s)
     | none =>
       let stab := fieldBits h 0x28 31 0
       let nsec := fieldBits h 0x18 47 32
       let length := fieldBits h 0x18 31 0
       if length < stab + 16 * nsec then
         (.refused { imgErr0 0x61 0 0 with nosec := false, sec := (length - stab) / 16 }, s)
       else
         match s.readImg tenant root (16 * nsec / 4096 + 3) (code + stab) (16 * nsec) with
         | (.ok t, s) =>
           let secs := (List.range nsec).map (fun i => secAt t 0 i)
           (match s.readImg tenant root (length / 4096 + 3) code length with
            | (.ok bs, s) =>
              let m : Img := ⟨code, bs, secs⟩
              (match m.fails with | some e => .refused e | none => .ok m, s)
            | (r, s) => stop ⟨code, h, secs⟩ r s)
         | (r, s) => stop ⟨code, h, []⟩ r s)
  | (r, s) => stop ⟨code, [], []⟩ r s

end Sys2Proof.Machine
end

