-- ==== Sys2Proof/Machine/Loader.lean ====
section
/-! DEFINITION. The distributor and the loader: candidates and their cost, placement, the writes of a load, go (R20, R23, R42, R97,
R310, R311, R316, R319, R320, R330, R338, R346, R347, R350, R352, R365, R371, R381, R416 to R418, R429). -/

namespace Sys2Proof.Machine

/-! Tenants (R371). -/

/-- The valid entry of a tenant. -/
def State.entryOf (s : State) (tenant : Nat) : Option Nat :=
  (List.range 256).find? (fun t => s.entValid t && s.entTenant t == tenant)
/-- The page-table root of an entry. -/
def State.entRoot (s : State) (t : Nat) : Nat := bitsOf (s.hubWord (0x50000 + 32 * t + 8)) 51 12 * 4096
/-- Tiles the tenant's regions may occupy. -/
def State.entMax (s : State) (t : Nat) : Nat := bitsOf (s.hubWord (0x50000 + 32 * t)) 27 19
/-- The root of a tenant. -/
def State.tenantRoot (s : State) (tenant : Nat) : Nat := match s.entryOf tenant with | some t => s.entRoot t | none => 0

/-- A region holds its tiles: it is placed and not pre-empted. -/
def Region.holds (r : Region) : Bool :=
  match r.st with | .gone => false | .preempted _ => false | _ => true
/-- Tiles a tenant's regions hold, or are awarded: one that is held and awarded counts once (R167, R371). -/
def State.tilesOf (s : State) (tenant : Nat) : List Nat :=
  (s.regions.flatMap (fun q => if q.2.tenant = tenant ∧ q.2.holds then q.2.tiles else []) ++
    (s.tends.filter (fun t => t.tenant == tenant && t.st == 2)).map (·.tile)).eraseDups
/-- Their count. -/
def State.tilesHeld (s : State) (tenant : Nat) : Nat := (s.tilesOf tenant).length

/-! Role maps (R338, R416). -/

/-- The codes of one kind of element. -/
def sameKind (c : Nat) : List Nat := (List.range 32).filter (fun e => decide (kindOf e = kindOf c))

/-- Move the roles on bad elements, lowest first; none where one cannot move. -/
def moveRoles (bad : Word) : List Nat → List Nat → Option (NMap Nat)
  | [], _ => some []
  | c :: l, used =>
    match (sameKind c).find? (fun e => !bitOf bad e && !used.contains e) with
    | some e => (match moveRoles bad l (e :: used) with | some m => some (NMap.set m c e) | none => none)
    | none => none

/-- The role map of a team on a tile: the roles that move. -/
def roleMapOf (bad : Word) (roles : Nat) : Option (NMap Nat) :=
  let mine := (List.range 32).filter (fun c => roles.testBit c)
  let (stuck, fine) := mine.partition (fun c => bitOf bad c)
  moveRoles bad stuck fine

/-- The bad-node word of a tile. -/
def State.badWord (s : State) (g : Nat) : Word := s.hubWord (badOff g)

/-! Routes (R346). -/

/-- No router needs more than 1,024 entries. -/
def routesOk (arcs : List (Nat × Arc)) (tiles : List Nat) : Bool :=
  let used := arcs.flatMap (fun a => pathOf (tiles.getD a.2.steam 0) (tiles.getD a.2.dteam 0))
  used.eraseDups.all (fun t => decide (used.count t ≤ 1024))

/-! The catalogue (R350). -/

/-- A position moved by offsets; none where it leaves the die. -/
def shifted (w : Word) (dd : Nat) (dr dc : Int) : Option Nat :=
  let r := (bitsOf w 5 3 : Nat) + dr
  let c := (bitsOf w 8 6 : Nat) + dc
  if 0 ≤ r ∧ r < 8 ∧ 0 ≤ c ∧ c < 6 then some ((bitsOf w 2 0 + dd) % 8 * 48 + r.toNat * 6 + c.toNat) else none

/-- All offsets of an entry, in order. -/
def offsetsOf (flags : Word) : List (Nat × Int × Int) :=
  (if bitOf flags 0 then List.range 8 else [0]).flatMap (fun dd =>
    (if bitOf flags 1 then (List.range 15).map (fun (k : Nat) => (k : Int) - 7) else [0]).flatMap (fun dr =>
      (if bitOf flags 2 then (List.range 11).map (fun (k : Nat) => (k : Int) - 5) else [0]).map (fun dc => (dd, dr, dc))))

/-- The placements of the catalogue, in order: the tile of each team. -/
def Img.placements (m : Img) : List (List Nat) :=
  (m.ofKind 12).flatMap (fun q =>
    let b := m.sec q
    (List.range (fieldBits b 0 8 0)).flatMap (fun e =>
      let at_ := 8 + 8 * e * (1 + m.tiles)
      (offsetsOf (word64 b at_)).filterMap (fun (o : Nat × Int × Int) =>
        (List.range m.tiles).mapM (fun k => shifted (word64 b (at_ + 8 + 8 * k)) o.1 o.2.1 o.2.2))))

/-- The last two conditions of R350, on elements that are not at fault: the modifier, the roles, the routes. -/
def State.fits (s : State) (m : Img) (tiles : List Nat) : Bool :=
  decide (tiles.eraseDups.length = tiles.length) &&
    (match m.placeMod with
     | 1 => decide ((tiles.map vaultOfTile).eraseDups.length ≤ 1)
     | 2 => decide ((tiles.map (· / 48)).eraseDups.length = tiles.length)
     | _ => true) &&
    tiles.zipIdx.all (fun (x : Nat × Nat) => bitsOf (s.badWord x.1) 34 32 == 0 && (roleMapOf (s.badWord x.1) (m.roles x.2)).isSome) &&
    routesOk m.arcList tiles

/-- Vault data of teams that share an arcade overlaps on a placement (R347, cause 0x66). -/
def Img.overlapFails (m : Img) (tiles : List Nat) : Option ImgErr :=
  let v (q : Sec) : Nat := vaultOfTile (tiles.getD q.team 0)
  ((m.ofKind 9).find? (fun q => (m.ofKind 9).any (fun p => decide (p.idx < q.idx) && v p == v q && meets (m.dataRange p) (m.dataRange q)))).map (·.err 0x66 0)

/-- No other region's grant meets the image's in a vault (R310). -/
def State.grantFree (s : State) (m : Img) (v : Nat) : Bool :=
  m.vsize == 0 || !s.regions.any (fun q => q.2.alive && q.2.tiles.any (fun g => vaultOfTile g == v) && meets (q.2.vbase, q.2.vsize) (m.vbase, m.vsize))

/-- A tile's die mesh and its vault are in service (R410, R417). -/
def State.tileUp (s : State) (g : Nat) : Bool := s.ready0.getLsbD (18 + g / 48) && s.ready1.getLsbD (vaultOfTile g)
/-- A tile may take a new region: free, awarded to none, its die's mesh and its vault ready (R350, R410). -/
def State.tileFree (s : State) (g : Nat) : Bool :=
  (s.tile g).inst.isNone && s.tileUp g && !s.tends.any (fun t => t.st == 2 && t.tile == g)

/-- The record with a handle that is ready. -/
def State.readyRec (s : State) (h : Nat) : Option QRec :=
  (s.streams.flatMap (fun q => q.2.recs)).find? (fun q => q.ready && q.handle == h)

/-- The image of a record, where it can be read and passes. -/
def State.imageOf (s : State) (q : QRec) : Option Img :=
  let tenant := recTenant q.words
  match (s.loadImage 0 tenant (s.tenantRoot tenant) (bitsOf (q.words.getD 0 0) 55 0)).1 with
  | .ok m => some m
  | _ => none

/-- Tiles kept off smaller regions by the reservation (R42): those of the reserving record's candidates. -/
def State.reserved (s : State) (q : QRec) (m : Img) : List Nat :=
  match s.rsv with
  | none => []
  | some h =>
    if h = q.handle then []
    else
      match s.readyRec h with
      | none => []
      | some big =>
        match s.imageOf big with
        | some b => if m.tiles < b.tiles then (b.placements.filter (s.fits b)).flatten.eraseDups else []
        | none => []

/-- A placement is a candidate now (R350, R371). -/
def State.candidate (s : State) (tenant : Nat) (m : Img) (off : List Nat) (tiles : List Nat) : Bool :=
  tiles.all (fun g => s.tileFree g && !off.contains g) && (tiles.map vaultOfTile).all (fun v => s.grantFree m v) &&
    (match s.entryOf tenant with | some t => decide (s.tilesHeld tenant + tiles.length ≤ s.entMax t) | none => false) && s.fits m tiles

/-! Islands and cost (R365, R381, R418). -/

/-- The islands a tile needs. -/
def islandsOf (g : Nat) : List Nat := [g, 384 + g, 768 + vaultOfTile g, routerIsland g]
/-- Cycles to wake an island (DEDUCED, log entry 54). -/
def wakeCost (i : Nat) : Nat := if i < 384 then 2160 else if i < 768 then 540 else if i < 832 then 3600 else 360
/-- An island is gated or in retention. -/
def State.asleep (s : State) (i : Nat) : Bool := s.island i == 1 || s.island i == 2
/-- Every island of a tile's arcade sleeps. -/
def State.arcadeAsleep (s : State) (v : Nat) : Bool :=
  ((List.range 6).flatMap (fun k => islandsOf (48 * (v / 8) + 6 * (v % 8) + k))).all s.asleep
/-- Every island of a die sleeps. -/
def State.dieAsleep (s : State) (d : Nat) : Bool := (List.range 8).all (fun a => s.arcadeAsleep (8 * d + a))

/-- The cost of a candidate. -/
def State.placeCost (s : State) (tiles : List Nat) : Nat :=
  let w := s.hubWord 0x20000
  ((tiles.flatMap islandsOf).eraseDups.filter s.asleep).foldl (fun n i => n + wakeCost i) 0 +
    bitsOf w 31 16 * ((tiles.map (· / 48)).eraseDups.filter s.dieAsleep).length +
    bitsOf w 47 32 * ((tiles.map vaultOfTile).eraseDups.filter s.arcadeAsleep).length

/-- The cheapest candidate, the first of equals (R350, R381). -/
def State.choose (s : State) (tenant : Nat) (m : Img) (off : List Nat) : Option (List Nat) :=
  (m.placements.filter (s.candidate tenant m off)).foldl (fun (b : Option (List Nat)) t =>
    match b with
    | none => some t
    | some u => if s.placeCost t < s.placeCost u then some t else b) none

/-! The distributor (R42, R376, R381). -/

/-- A region instance that holds nothing yet; its rights are set as it is placed (R371). -/
def Region.fresh (tenant : Nat) (k : Nat) (q : QRec) (prio : Nat) (tender : Option Nat) : Region :=
  { st := .popped, tenant := tenant, root := 0, dbg := false, tnd := false, prio := prio, recd := q.words, handle := q.handle, frame := 0, tiles := [],
    image := [], bads := [], vbase := 0,
    vsize := 0, vkind := 0, flim := 20, arcs := [], circs := [], wires := [], pulses := [], sinks := [], sinkQ := [], stray := 0,
    errors := 0, first := none, status := 0, imgErr := (0, 0), goAt := none, wdg := 0, held := [], succWait := none, links := [],
    tender := tender, slots := [], qrec := some (k, q) }

/-- The instance number a record's job runs under (R429): the one an earlier load of it has named, or the next. -/
def State.instOf (s : State) (q : QRec) : Nat := q.inst.getD s.instSeq

/-- The region of a record is made for the loader. -/
def State.makeRegion (s : State) (k : Nat) (q : QRec) (tender : Option Nat) : State :=
  { s with regions := NMap.set s.regions (s.instOf q) (Region.fresh (recTenant q.words) k q (recPrio q.words) tender),
           instSeq := if q.inst.isSome then s.instSeq else s.instSeq + 1 }

/-- A job ends without having been placed (R353, R371): its record is posted. -/
def State.endJob (s : State) (r : Region) (cause status : Nat) : State :=
  if r.recorded then s.post (bitsOf (r.recd.getD 4 0) 7 0) (r.record 0 cause status) else s

/-- Take a record out of its stream. -/
def State.takeRec (s : State) (k : Nat) (q : QRec) : State := s.updStream k (fun x => { x with recs := x.recs.filter (fun y => y.handle != q.handle) })
/-- Put a record back, ready as it was. -/
def State.putRec (s : State) (k : Nat) (q : QRec) : State := s.updStream k (fun x => { x with recs := q :: x.recs })

/-- The pops that others of a level wait through raise them, and count toward a reservation (R42). -/
def State.aged (s : State) (level : Nat) : State :=
  { s with streams := s.streams.map (fun (x : Nat × Stream) => (x.1, { x.2 with recs := x.2.recs.map (fun q =>
      if !q.ready then q
      else
        let q := { q with wait := q.wait + 1 }
        if q.level ≠ level then q
        else if q.age + 1 = 64 then { q with level := min 7 (q.level + 1), age := 0 } else { q with age := q.age + 1 }) })) }

/-- A record whose shape fits and that 256 pops have passed takes the reservation. -/
def State.reserve (s : State) : State :=
  if s.rsv.isSome then s
  else
    match (s.streams.flatMap (fun q => q.2.recs)).find? (fun q => q.ready && decide (256 ≤ q.wait) &&
        (match s.imageOf q with | some m => m.placements.any (s.fits m) | none => false)) with
    | some q => { s with rsv := some q.handle }
    | none => s

/-- A pop of a record at a level of a stream. -/
def State.popped (s : State) (k : Nat) (q : QRec) : State :=
  let s := (s.takeRec k q).aged q.level
  let s := { s with pops := s.pops + 1, lastStream := NMap.set s.lastStream q.level k, rsv := if s.rsv = some q.handle then none else s.rsv }
  s.reserve

/-- The distributor pops a stream (R373): its en bit is set; the Crier's returned records have no stream. -/
def State.popsStream (s : State) (k : Nat) : Bool := decide (256 ≤ k) || bitOf (s.streamWord k 1) 0

/-- The popped streams of a level in round-robin order, each with the record that became ready first (R376). -/
def State.heads (s : State) (level : Nat) : List (Nat × QRec) :=
  let last := NMap.get s.lastStream level 256
  let pop := s.streams.filter (fun x => s.popsStream x.1)
  let order := (pop.filter (fun x => decide (last < x.1))) ++ pop.filter (fun x => decide (x.1 ≤ last))
  order.filterMap (fun (x : Nat × Stream) =>
    let l := x.2.recs.filter (fun q => q.ready && q.level == level)
    match l.foldl (fun (b : Option QRec) q => match b with | none => some q | some p => if q.seq < p.seq then some q else b) none with
    | some q => some (x.1, q)
    | none => none)

/-- A region is pre-empted, and the cause is resolved (R42, R398): after a fault limit, no access of it is withheld under an unresolved id. -/
def Region.resumable (r : Region) : Bool :=
  match r.st with
  | .preempted c => c % 256 != 1 || r.held.all (fun h => h.2.1 == 65536)
  | _ => false

/-- A pre-empted region waits to resume: a newer record of its priority or lower is not placed (R42). -/
def State.behind (s : State) (q : QRec) : Bool :=
  s.regions.any (fun (x : Nat × Region) => x.2.resumable && decide (q.level ≤ x.2.prio) && (match x.2.qrec with | some (_, p) => decide (p.seq < q.seq) | none => true))

/-- What a pop would do with a record. -/
inductive PopTo where
  | revoked
  | crier
  | loader
  | waits
  deriving DecidableEq, Repr

/-- The Crier accepts a tender: ready, enabled, and fewer than 64 pending (R297, R383, R410). -/
def State.crierOpen (s : State) : Bool :=
  s.ready0.getLsbD 56 && bitOf (s.hubWord 0x30000) 0 && decide ((s.tends.filter (·.pending)).length < 64)

/-- Where a ready record goes now: a record whose image cannot be read or passed over goes to the loader, which finds out. A job whose record the
full completion buffer has no room for waits (R378). -/
def State.popTo (s : State) (q : QRec) : PopTo :=
  let tenant := recTenant q.words
  match s.entryOf tenant with
  | none => if bitOf (q.words.getD 4 0) 8 ∧ s.bufFull then .waits else .revoked
  | some t =>
    if s.behind q ∨ q.await.isSome then .waits
    else if recTendered q.words ∧ !q.placed then (if s.crierOpen then .crier else .waits)
    else
      match (s.loadImage 0 tenant (s.entRoot t) (bitsOf (q.words.getD 0 0) 55 0)).1 with
      | .ok m => if (s.choose tenant m (s.reserved q m)).isSome ∨ !m.placements.any (s.fits m) then .loader else .waits
      | _ => .loader

/-- A new tender round at the Crier (R169, R297): the number, and the state. -/
def State.addTend (s : State) (home : Nat) (q : QRec) (round : Nat) : Nat × State :=
  let t : Tend := { seq := s.tendSeq % 65536, tenant := recTenant q.words, home := home, rcd := q, round := round, st := 1, announced := false,
                    bids := [], closed := false, tried := 0, cost := 0, tile := 0, next := 0 }
  let l := s.tends ++ [t]
  (t.seq, { s with tendSeq := (s.tendSeq + 1) % 65536, tends := l.filter (fun x => x.pending || decide ((t.seq + 65536 - x.seq) % 65536 < 1024)) })

/-- Put a region into the list. -/
def State.setRegion (s : State) (i : Nat) (r : Region) : State := { s with regions := NMap.set s.regions i r }

/-- A load is under way that has not placed its region. -/
def State.placing (s : State) : Bool := s.regions.any (fun x => (x.2.st == .popped || x.2.st == .writing) && x.2.tender.isNone)

/-- DISTRIBUTOR_POP (R381): the first record in order that does not wait; records behind busy ones are passed over. -/
def execDistributorPop (s : State) : Host.Outcome State Fault Refusal :=
  .next (
    if !bitOf (s.hubWord 0x20000) 0 ∨ s.placing then s
    else
      let order := [7, 6, 5, 4, 3, 2, 1, 0].flatMap s.heads
      match order.find? (fun x => decide (s.popTo x.2 ≠ .waits)) with
      | none => s
      | some (k, q) =>
        let s' := s.popped k q
        match s.popTo q with
        | .revoked => s'.endJob (Region.fresh (recTenant q.words) k q 0 none) 8 0xFF01
        | .crier => (s'.addTend k q 0).2
        | .loader => s'.makeRegion k q none
        | .waits => s)

/-! The writes of a load (R97, R193, R319, R320, R338 to R348, R352). -/

/-- Element registers of a role. -/
def Img.eRegs (m : Img) (k c : Nat) : Vector Word 8 :=
  match (m.ofKind 5).find? (fun q => q.team == k && q.role == c) with
  | some q => Vector.ofFn (fun (i : Fin 8) => word64 (m.sec q) (8 * i.val))
  | none => Vector.replicate 8 0
/-- Coefficient memory of a LUT role. -/
def Img.lut (m : Img) (k c : Nat) : NMap Coef :=
  match (m.ofKind 5).find? (fun q => q.team == k && q.role == c) with
  | some q =>
    if q.len < 16448 then []
    else (List.range 1024).map (fun i =>
      let w (j : Nat) : Lane := BitVec.ofNat 32 (fieldN (m.sec q) (64 + 16 * i + 4 * j) 4)
      (i, (⟨w 0, w 1, w 2, w 3⟩ : Coef)))
  | none => []

/-- An element as the image gives it; its counter counts on from the tile's reset (R243). -/
def Img.elem (m : Img) (k c : Nat) (old : Elem) (sh : List Shoot) : Elem :=
  { Elem.reset with
    e := m.eRegs k c
    planes := ((m.ofKind 2).filter (fun q => q.team == k && q.role == c)).foldl (fun l q => NMap.set l q.plane (parsePlane (m.sec q))) []
    apl := m.iplane k c
    gens := m.gens k c
    lut := m.lut k c
    work := old.work
    blk := old.blk
    shoots := sh }

/-- A task processor as the image gives it (R340): stores, and the channels its contexts bind (R17). -/
def Img.tp (m : Img) (k c : Nat) (old : Tp) : Tp :=
  let b := match (m.ofKind 3).find? (fun q => q.team == k && q.role == c) with | some q => m.sec q | none => []
  let word (i : Nat) : Lane := BitVec.ofNat 32 (fieldN b (4 * i) 4)
  let binds (x : Nat) : NMap Chan := m.arcList.foldl (fun (l : NMap Chan) a =>
    let l := if a.2.schan ∧ a.2.steam = k ∧ a.2.selem = 4 * c + x then NMap.set l a.2.sport ⟨some a.1, true, false, []⟩ else l
    if a.2.dchan ∧ a.2.dteam = k ∧ a.2.delem = 4 * c + x then NMap.set l a.2.dport ⟨some a.1, false, false, []⟩ else l) []
  { Tp.reset with
    store := if b = [] then [] else (List.range 2048).filterMap (fun i => if word i = 0xFFFFFFFF then none else some (i, word i))
    lits := if b = [] then [] else (List.range 2048).filterMap (fun i => let v := word64 b (8192 + 8 * i); if v = 0 then none else some (i, v))
    sstore := old.sstore
    slits := old.slits
    ctxs := (List.range 4).map (fun x =>
      let o := old.ctx x
      (x, { Ctx.reset with
        pc := BitVec.ofNat 11 (m.ctxWord k c x % 2048), status := if m.declared k c x then .runnable else .idle, vc := binds x,
        work := o.work, blk := o.blk, shoots := o.shoots })) }

/-- Scratchpad data of a team. Of two sections that give one block different words, the later in the table stands (R55, R343 and R347 leave it
open: DESIGN CHOICE, log entry 69). -/
def Img.spad (m : Img) (k : Nat) : Memory × NMap Nat :=
  ((m.ofKind 6).filter (fun q => q.team == k)).foldl (fun (a : Memory × NMap Nat) q =>
    let (o, _) := m.dataRange q
    let base := m.side q * 0x40000 + o
    (Memory.writeBytes a.1 base (m.data q), (m.blockWords q).zipIdx.foldl (fun (l : NMap Nat) x => NMap.set l (base / 64 + x.2) x.1) a.2)) ([], [])

/-- A tile as a load leaves it for team `k` of instance `i`: what belongs to the machine stays (DEDUCED, log entry 55). -/
def Img.tile (m : Img) (t : Tile) (bad : Word) (i k : Nat) (bars : List (Nat × Nat)) : Tile :=
  let rm := (roleMapOf bad (m.roles k)).getD []
  let ph (c : Nat) : Nat := NMap.get rm c c
  let mine := (List.range 32).filter (fun c => m.hasRole k c)
  let (sp, bw) := m.spad k
  let rest (e : Nat) : Elem := { Elem.reset with work := (t.elem e).work, blk := (t.elem e).blk, shoots := t.shoots }
  let spare (p : Nat) : Tp := { m.tp k 32 (t.tp p) with store := [], lits := [] }
  { t with
    tps := (mine.filter (· < 4)).foldl (fun (l : NMap Tp) c => NMap.set l (ph c) (m.tp k c (t.tp (ph c)))) ((List.range 4).map (fun p => (p, spare p)))
    elems := (mine.filter (4 ≤ ·)).foldl (fun (l : NMap Elem) c => NMap.set l (ph c) (m.elem k c (t.elem (ph c)) t.shoots))
      (t.elems.map (fun (x : Nat × Elem) => (x.1, rest x.1)))
    spad := sp, spadBw := bw
    swz := (List.range 3).map (fun d => (d, fieldBits (m.team k) 0 33 28 / 4 ^ d % 4))
    inst := some i, lastInst := some i, team := k, intake := true, roleMap := rm, barriers := bars, triad := Triad.reset
    rtCount := [], rtPsum := [], rtLive := 0, rngSeed := 0, rngCtr := 0, bmc := [] }

/-- Grant the pages of a vault (R311): pages last granted to another tenant read as zero. -/
def State.grantPages (s : State) (v tenant base size : Nat) : State :=
  (List.range (size / 4096)).foldl (fun s k =>
    let page := base / 4096 + k
    let s' := if NMap.find (s.vault v).granted page = some tenant then s
      else
        let pa := vaultAddr v + 4096 * page
        let s := s.writeBlocks pa (List.replicate 4096 0)
        (List.range 64).foldl (fun s j => s.setMetaPa (pa + 64 * j) 0x0080) s
    s'.updVault v (fun x => { x with granted := NMap.set x.granted page tenant })) s

/-- The words of a vault data section that a relocation changes (R347): the target word, and a plan receiver's vault field. -/
def Img.relocated (m : Img) (tiles : List Nat) (q : Sec) : List Byte :=
  let b := m.data q
  m.relocs.foldl (fun (b : List Byte) (x : Sec × Nat × Nat × Nat × Nat) =>
    let (_, _, target, off, k) := x
    if target ≠ q.idx then b
    else
      let o := off - 8
      let v := vaultOfTile (tiles.getD k 0)
      let put (b : List Byte) (o : Nat) (w : Nat) : List Byte := b.take o ++ bytesOfNat 8 w ++ b.drop (o + 8)
      let b := put b o ((fieldN b o 8 + vaultAddr v) % 2 ^ 64)
      let e := (o - 64) % 256
      if isPlan (m.data q) ∧ 64 ≤ o ∧ 0x70 ≤ e ∧ e < 0xF0 ∧ e % 16 = 0 then
        let w := fieldN b (o + 8) 8
        put b (o + 8) (w - w / 256 % 64 * 256 + v * 256)
      else b) b

/-- Write a vault data section (R347). -/
def State.vaultData (s : State) (m : Img) (tiles : List Nat) (q : Sec) : State :=
  let (o, _) := m.dataRange q
  let pa := vaultAddr (vaultOfTile (tiles.getD q.team 0)) + o
  let s := s.writeBlocks pa (m.relocated tiles q)
  (m.blockWords q).zipIdx.foldl (fun s x => s.setMetaPa (pa / 64 * 64 + 64 * x.2) x.1) s

/-- A relocated plan entry that R148 refuses (cause 0x67). -/
def State.planFails (s : State) (m : Img) (tiles : List Nat) : Option ImgErr :=
  (m.ofKind 9).findSome? (fun q =>
    let b := m.relocated tiles q
    if !isPlan b then none
    else
      match (List.range ((b.length - 64) / 256)).find? (fun k =>
        let e := (b.drop (64 + 256 * k)).take 256
        (s.parseEntry e).isNone) with
      | some k => some (q.err 0x67 (8 + 64 + 256 * k))
      | none => none)

/-- The loader's writes of an image on chosen tiles (R352, steps 4 and 5), and the waking of what sleeps (R418). The role maps are those of step 3, from
the bad-node words read then (R355, R416); the reserved bits of a listed barrier object read as zero (R3, R113); the region keeps the rights that its
tenant's entry gives now (R371). -/
def State.place_ (s : State) (i : Nat) (r : Region) (m : Img) (tiles : List Nat) (bads : List Word) : State :=
  let bars := m.barrierList.map (fun x => (vaultOfTile (tiles.getD x.2 0), x.1))
  let s := (tiles.map vaultOfTile).eraseDups.foldl (fun s v => s.grantPages v r.tenant m.vbase m.vsize) s
  let s := (m.ofKind 9).foldl (fun s q => s.vaultData m tiles q) s
  let s := bars.foldl (fun (s : State) (b : Nat × Nat) =>
    let a := vaultAddr b.1 + b.2
    (s.writePa a 8 (s.readPa a 8 % 2 ^ 41)).writePa (a + 8) 8 (s.readPa (a + 8) 8 % 2 ^ 40)) s
  let s := tiles.zipIdx.foldl (fun s (x : Nat × Nat) => s.updTile x.1 (fun t => m.tile t (bads.getD x.2 0) i x.2 bars)) s
  let s := ((tiles.flatMap islandsOf).eraseDups.filter s.asleep).foldl (fun s k => s.setIsland k 3) s
  let fr := bitsOf (r.recd.getD 1 0) 55 0
  let right (k : Nat) : Bool := match s.entryOf r.tenant with | some t => bitOf (s.hubWord (0x50000 + 32 * t)) k | none => false
  let root := s.tenantRoot r.tenant
  s.updReg i (fun r => { r with
    st := .loaded, tiles := tiles, image := [], bads := bads, held := [], root := root, dbg := right 17, tnd := right 18, vbase := m.vbase, vsize := m.vsize, vkind := m.vkind, flim := m.flim
    frame := BitVec.ofNat 64 (if fr = 0 then m.code + m.foff else fr)
    arcs := m.arcList.foldl (fun (l : NMap Arc) a => NMap.set l a.1 a.2) []
    circs := m.circList.foldl (fun (l : NMap Arc) a => NMap.set l a.1 a.2) []
    sinks := (List.range m.tiles).filterMap (fun k =>
      if fieldBits (m.team k) 0 27 27 = 1 then some (k, (fieldBits (m.team k) 0 20 16, fieldBits (m.team k) 0 26 21)) else none)
    links := (m.ofKind 13).flatMap (fun q => (List.range (q.len / 16)).map (fun k => (fieldBits (m.sec q) (16 * k) 7 0, fieldBits (m.sec q) (16 * k) 11 8))) })

/-- A load ends without a region: its tiles are free again. One that had been written stays the one placed there last (R386). -/
def State.dropLoad (s : State) (i : Nat) (r : Region) : State :=
  let s := r.tiles.foldl (fun (s : State) g => s.updTile g (fun (x : Tile) => if x.inst = some i then { x with inst := none } else x)) s
  if r.st = .loaded then s.updReg i (fun r => { r with st := .gone }) else { s with regions := NMap.erase s.regions i }

/-- The image in bytes that have been read and checked. -/
def imgOf (code : Nat) (bs : List Byte) : Img := ⟨code, bs, (List.range (fieldBits bs 0x18 47 32)).map (secAt bs (fieldBits bs 0x28 31 0))⟩

/-- The virtual address of a region's image. -/
def Region.code (r : Region) : Nat := bitsOf (r.recd.getD 0 0) 55 0

/-- An image refused (R353, R354): nothing of it is placed, and its job completes with status *refused*, once the completion buffer has room (R378).
`at_`: the tiles and bad-node words of the placement, where step 3 has chosen one; before that the tile reads 0 and the physical element is a free
value. -/
def State.refuseImage (s : State) (i : Nat) (r : Region) (at_ : Option (Img × List Nat × List Word)) (e : ImgErr) : State :=
  if r.recorded ∧ s.bufFull then s
  else
    let (g, ph, s) : Nat × Nat × State := match at_ with
      | some (m, tiles, bads) => (tiles.getD e.team 0, NMap.get ((roleMapOf (bads.getD e.team 0) (m.roles e.team)).getD []) e.role e.role, s)
      | none => let (v, s) := s.takeFree; (0, v.toNat % 32, s)
    let w := imgError e.nosec e.team e.slot e.plane ph e.role g e.sec e.cause e.off
    (s.endJob { r with imgErr := w } 6 0xFF02).dropLoad i r

/-- The tiles of an award. -/
def State.awardOf (s : State) (r : Region) : Option Tend :=
  match r.tender with | some n => s.tends.find? (fun t => t.seq == n && t.st == 2) | none => none

/-- The bad-node words of tiles, read once for a load (R355). -/
def State.badWords (s : State) (tiles : List Nat) : List Word := tiles.map s.badWord

/-- Steps 4 and 5 of a load on chosen tiles (R352): at once, or, where `later`, in an event of their own, the tiles, their grants and the bad-node
words held meanwhile. -/
def State.install_ (s : State) (i : Nat) (r : Region) (m : Img) (tiles : List Nat) (later : Bool) : State :=
  if later then
    let bads := s.badWords tiles
    let s := tiles.foldl (fun (s : State) g => s.updTile g (fun (x : Tile) => { x with inst := some i })) s
    s.updReg i (fun r => { r with st := .writing, tiles := tiles, image := m.bs, bads := bads, vbase := m.vbase, vsize := m.vsize })
  else s.place_ i r m tiles (s.badWords tiles)

/-- A placement that passes R350 and that the image's vault data or plans fail on (R148, R347). -/
def State.placeFails (s : State) (m : Img) (tiles : List Nat) : Option ImgErr :=
  match m.overlapFails tiles with | some e => some e | none => s.planFails m tiles

/-- The record an award was made for waits behind a pre-empted region (R42). -/
def State.awardBehind (s : State) (r : Region) : Bool := match r.qrec with | some (_, q) => s.behind q | none => false

/-- Load the image of an award on its tile (R169): nothing happens until the tile is free and no region is to resume first (R42), and a load that
fails is withdrawn. -/
def State.loadAward (s : State) (i : Nat) (r : Region) (t : Tend) (m : Img) (later : Bool) : State :=
  if (s.tile t.tile).inst.isSome ∨ !s.tileUp t.tile ∨ s.awardBehind r ∨ !s.grantFree m (vaultOfTile t.tile) ∨ m.tiles ≠ 1 ∨ !s.fits m [t.tile] ∨
      (s.placeFails m [t.tile]).isSome then s
  else s.install_ i r m [t.tile] later

/-- REGION_LOAD (R352): the image is read and checked, a placement chosen, everything written; `flag`: the writes of step 4 follow in a second such
event, whose reads may be withheld, and which writes the values that were checked (R355). A record whose candidates are all busy, whose tenant's
entry is gone, or that a pre-empted region comes before is ready again. -/
def execRegionLoad (s : State) : Host.Outcome State Fault Refusal :=
  .next (match NMap.find s.regions s.ev.inst with
    | none => s
    | some r =>
      let i := s.ev.inst
      let back (s : State) (k : Nat) (q : QRec) : State := (s.putRec k { q with inst := some i }).dropLoad i r
      match r.st with
      | .writing =>
        let m := imgOf r.code r.image
        (match s.readImg r.tenant (s.tenantRoot r.tenant) (r.image.length / 4096 + 3) r.code r.image.length with
         | (.ok _, s') => s'.place_ i r m r.tiles r.bads
         | (.denied va, s') => if r.tender.isSome then s else s'.refuseImage i r (some (m, r.tiles, r.bads)) (readErr m (va - r.code))
         | (.bad va pa, s') => if r.tender.isSome then s else (s'.memCheck r.tenant i pa).refuseImage i r (some (m, r.tiles, r.bads)) (readErr m (va - r.code))
         | _ => s)
      | .popped =>
        (match s.loadImage i r.tenant (s.tenantRoot r.tenant) r.code with
         | (.fault _ _ _ _, _) => s
         | (.waits, _) => s
         | (.refused e, s') => if r.tender.isSome then s else s'.refuseImage i r none e
         | (.ok m, s') =>
           match r.tender with
           | some _ => (match s'.awardOf r with | some t => s'.loadAward i r t m s.ev.flag | none => s)
           | none =>
             match r.qrec with
             | none => s
             | some (k, q) =>
               if (s.entryOf r.tenant).isNone ∨ s.behind q then back s k q
               else
                 match s'.choose r.tenant m (s'.reserved q m) with
                 | some tiles =>
                   (match s'.placeFails m tiles with
                    | some e => s'.refuseImage i r (some (m, tiles, s'.badWords tiles)) e
                    | none => s'.install_ i r m tiles s.ev.flag)
                 | none => if m.placements.any (s'.fits m) then back s' k q else s'.refuseImage i r none (imgErr0 0x68 0 0))
      | _ => s)

/-- The tile a load's page fault names (R429): team 0's of the placement chosen, or that of an award; 0 while there is none. -/
def State.loadTile (s : State) (r : Region) : Nat :=
  match r.tiles with
  | g :: _ => g
  | [] => match s.awardOf r with | some t => t.tile | none => 0

/-- LOADER_READ_WITHHELD (R429): the read waits under a fault id, in step 4 with its placement held. `x`: the id of a new fault. -/
def execLoaderReadWithheld (s : State) : Host.Outcome State Fault Refusal :=
  .next (match NMap.find s.regions s.ev.inst with
    | none => s
    | some r =>
      let wait (va level reason : Nat) (pte : Word) (s' : State) : State :=
        match s'.pageFault s.ev.inst r.tenant (s.loadTile r) 0 2 va level reason pte with
        | some (id, s') => s'.updReg s.ev.inst (fun r => { r with st := .withheld id, held := [(s.nextId, id, s.now)] })
        | none => s
      match r.st with
      | .popped =>
        (match s.loadImage s.ev.inst r.tenant (s.tenantRoot r.tenant) r.code with
         | (.fault va level reason pte, s') => wait va level reason pte s'
         | _ => s)
      | .writing =>
        (match s.readImg r.tenant (s.tenantRoot r.tenant) (r.image.length / 4096 + 3) r.code r.image.length with
         | (.fault va level reason pte, s') => wait va level reason pte s'
         | _ => s)
      | _ => s)

/-- A load that has stayed withheld in step 4 for the fault limit ends (R429): its tiles are free, and its record waits, ready, for the id; an award
stays with its tile, and its load begins again. -/
def State.dropWithheld (s : State) (i : Nat) (r : Region) (id : Nat) : State :=
  match r.qrec with
  | some (k, q) =>
    if r.tender.isSome then
      (s.dropLoad i r).setRegion i { r with tiles := [], image := [], bads := [], vbase := 0, vsize := 0, held := [] }
    else (s.putRec k { q with inst := some i, await := some id }).dropLoad i r
  | none => s

/-- FAULT_LIMIT_EXPIRY (R398, R429): a withheld access has waited 2^flim cycles, and the region is to be pre-empted with cause 1; or a load withheld in
step 4 has, and gives its tiles up. -/
def execFaultLimitExpiry (s : State) : Host.Outcome State Fault Refusal :=
  .next (match NMap.find s.regions s.ev.inst with
    | none => s
    | some r =>
      match r.st with
      | .running => if r.held.any (fun h => decide (2 ^ r.flim ≤ s.now - h.2.2)) then s.updReg s.ev.inst (fun r => { r with st := .stopping 1 }) else s
      | .withheld id =>
        if r.tiles ≠ [] ∧ r.held.any (fun h => decide (2 ^ (imgOf r.code r.image).flim ≤ s.now - h.2.2)) then s.dropWithheld s.ev.inst r id else s
      | _ => s)

/-- A context at go (R20, R242). -/
def Ctx.atGo (x : Ctx) (fp : Word) (tvec : BitVec 8) : Ctx := { x with fp := fp, tvec := tvec }

/-- Go reaches every team of a region (R20, R23, R352). -/
def State.go (s : State) (i : Nat) (r : Region) : State :=
  let s := r.tiles.foldl (fun s g => s.updTile g (fun t => { t with
    tps := t.tps.map (fun (p : Nat × Tp) => (p.1, { p.2 with ctxs := p.2.ctxs.map (fun (c : Nat × Ctx) => (c.1, c.2.atGo r.frame s.stewTvec)) })) })) s
  s.updReg i (fun r => { r with st := .running, goAt := some (s.acCycles (r.tiles.headD 0)), wdg := 0 })

/-- Every island a region needs is on (R418). -/
def State.awake (s : State) (r : Region) : Bool := (r.tiles.flatMap islandsOf).all (fun k => s.island k == 0)

/-- GO_TOKEN (R23). -/
def execGoToken (s : State) : Host.Outcome State Fault Refusal :=
  .next (match NMap.find s.regions s.ev.inst with
    | none => s
    | some r => if r.st = .loaded ∧ r.tender.isNone ∧ s.awake r then s.go s.ev.inst r else s)

/-! Islands (R418). -/

/-- ISLAND_WAKE_COMPLETE (R418): a waking island is on. -/
def execIslandWakeComplete (s : State) : Host.Outcome State Fault Refusal :=
  .next (if s.island s.ev.e = 3 then s.setIsland s.ev.e 0 else s)

/-- An island is a link or network port's (R418). -/
def portIsland (i : Nat) : Bool := (decide (976 ≤ i) && decide (i < 992)) || (decide (1004 ≤ i) && decide (i < 1006))

/-- A port is idle (R418): no access goes over the link, in either direction; no record waits to be sent by the network ports. -/
def State.portIdle (s : State) (i : Nat) : Bool :=
  if i < 992 then
    match NMap.find s.links (i - 976) with
    | some l => !s.reqs.any (fun r => !r.performed && (r.who == .peer l.peer || r.pieces.any (fun p => !p.done && (match p.place with | .phys a => a / 2 ^ 44 == l.peer && decide (2 ^ 44 ≤ a) | _ => false))))
    | none => true
  else !s.compBuf.any (fun x => bitsOf (s.cqWord x.1 0) 57 56 == 2)

/-- An island may be gated: no placed region needs it, and it is none of the hub die's but an idle port. -/
def State.mayGate (s : State) (i : Nat) : Bool :=
  (decide (i < 960) || (portIsland i && s.portIdle i)) &&
    !s.regions.any (fun q => q.2.alive && (q.2.tiles.flatMap islandsOf).contains i)

/-- A vault loses its contents: its bytes and block words are free values, and it has granted nothing since (DESIGN CHOICE, log entry 58). -/
def State.scrambleVault (s : State) (v : Nat) : State :=
  let pa := vaultAddr v
  let s := s.writeBlocks pa ((List.range 0x4000000).map (fun k => (Config.freeWord (s.free + k)).setWidth 8))
  let s := { s with free := s.free + 0x4000000 }
  let s := (List.range 0x100000).foldl (fun s k => s.setMetaPa (pa + 64 * k) ((Config.freeWord (s.free + k)).toNat % 65536)) s
  { s.updVault v (fun x => { x with granted := [] }) with free := s.free + 0x100000 }

/-- ISLAND_GATING (R418): the distributor gates island `e` (`x` = 1) or puts a vault into retention (`x` = 2). A vault gated out of
retention loses its contents: free values. `x` = 3: a gated port that something uses wakes. -/
def execIslandGating (s : State) : Host.Outcome State Fault Refusal :=
  .next (
    let i := s.ev.e
    let vault : Bool := decide (768 ≤ i) && decide (i < 832)
    if s.ev.x = 3 then (if portIsland i ∧ !s.portIdle i then (s.wakePort i).2 else s)
    else if s.island i ≠ 0 ∨ !s.mayGate i ∨ (s.ev.x ≠ 1 ∧ (s.ev.x ≠ 2 ∨ !vault)) then s
    else
      let s := s.setIsland i s.ev.x
      if vault ∧ s.ev.x = 1 then s.scrambleVault (i - 768) else s)

/-! The steward store (R372). -/

/-- STEWARD_LOAD (R372): the image at `w0` is copied into every task processor, unless the distributor is enabled or a region runs. One whose memory
does not answer (R410), or that holds a word that cannot be corrected (R408: a machine check of no region), is not copied, and the write reads as
refused (R372 leaves it open: DESIGN CHOICE, log entry 69). -/
def execStewardLoad (s : State) : Host.Outcome State Fault Refusal :=
  .next (
    let pa := bitsOf s.ev.w0 51 6 * 64
    if !s.hallUp then s
    else if bitOf (s.hubWord 0x20000) 0 ∨ s.regions.any (fun q => q.2.live) then { s with stewRefused := true }
    else if !s.reachable (redirect s.migs pa) ∨ !s.reachable (redirect s.migs (pa + 3071)) then { s with stewRefused := true }
    else if (s.readFails pa 3072).isSome then { s.memCheck 0 0 (pa + (s.readFails pa 3072).getD 0) with stewRefused := true }
    else
      let bs := s.paBytes pa 3072
      let st : NMap Lane := (List.range 256).map (fun k => (k, BitVec.ofNat 32 (fieldN bs (4 * k) 4)))
      let sl : NMap Word := (List.range 256).map (fun k => (k, word64 bs (1024 + 8 * k)))
      let s := (List.range 384).foldl (fun s g => (List.range 4).foldl (fun s p => s.updTp g p (fun t => { t with sstore := st, slits := sl })) s) s
      { s.setHub 0x80000 s.ev.w0 with stewBusy := true, stewRefused := false, stewTvec := BitVec.ofNat 8 (bitsOf (s.hubWord 0x80008) 7 0) })

/-- STEWARD_LOAD_DONE (R372): every copy is complete. -/
def execStewardLoadDone (s : State) : Host.Outcome State Fault Refusal := .next { s with stewBusy := false }

end Sys2Proof.Machine
end

