-- ==== Sys2Proof/Machine/Tender.lean ====
section
/-! DEFINITION. The Crier, the Bourse and the tender instructions (R42, R165 to R169, R297 to R300, R383). -/

namespace Sys2Proof.Machine

/-! Bids (R166 to R168). -/

/-- A data set: home vault, and the ranges' vaults and lengths (R166). -/
abbrev Ranges := List (Nat × Nat)

/-- The valid ranges of a frame's first 64 bytes. -/
def rangesOf (bs : List Byte) : Ranges :=
  (List.range 8).filterMap (fun k =>
    let w := word64 bs (8 * k)
    if bitOf w 30 then some (bitsOf w 29 24, bitsOf w 23 0) else none)

/-- The features of a tile that the moment of the bid decides: runnable contexts, a gated array, degrees past the target (R167, R419). -/
def State.f245 (s : State) (g : Nat) : Nat × Nat × Nat :=
  let t := s.tile g
  let f2 := if s.liveAt g then t.tps.foldl (fun n p => n + (p.2.ctxs.filter (fun c => c.2.status == .runnable)).length) 0 else 0
  (f2, b2n (s.island g == 1), (t.temp - ((bitsOf (s.hubWord 0x82100) 7 0 : Nat) : Int)).toNat)

/-- Hops from a data set's home to a tile (R167). -/
def hopsTo (l : Ranges) (g : Nat) : Nat :=
  match l with
  | [] => 0
  | (v, _) :: _ =>
    let w := vaultOfTile g
    let d := max (w % 8) (v % 8) - min (w % 8) (v % 8)
    if w = v then 0 else if w / 8 = v / 8 then d else 8 + d

/-- The cost of features under a formula (R167, R168). -/
def bidCost (f : List Byte) (f1 f2 f3 f4 f5 : Nat) : Nat :=
  let c (k : Nat) : Int := sgn 16 (fieldN f (2 * k) 2)
  let z (n : Nat) : Int := n
  let v : Int := c 0 + c 1 * z f1 + c 2 * z f2 + c 3 * z f3 + c 4 * z f4 + c 5 * z f5
  (satInt v 0 (2 ^ 24 - 1 : Nat)).toNat

/-- The bid of a tile: f1 and f3 from the data set, the others from the moment (R167). -/
def bidOf (f : List Byte) (l : Ranges) (g f2 f4 f5 : Nat) : Bid :=
  let f1 := l.foldl (fun n x => if x.1 = vaultOfTile g then n else n + x.2) 0
  let f3 := hopsTo l g
  ⟨bidCost f f1 f2 f3 f4 f5, g, f1, f2, f3, f4, f5⟩

/-- `n` bytes of a frame at a virtual address, read page by page: what lies before the first that cannot be read. A data error is a machine check of
its instance that discards no region (R408). -/
def State.readFrame (s : State) (inst tenant root : Nat) : Nat → Nat → Nat → List Byte × State
  | 0, _, _ => ([], s)
  | fuel + 1, va, n =>
    if n = 0 then ([], s)
    else
      match (s.walk tenant va 1 5 1 root).1 with
      | .ok l =>
        let k := min n (l.vbase + l.size - va)
        if !s.paOk (l.pa va) l.key then ([], s)
        else if s.rangeBad (l.pa va) k then ([], s.memCheck tenant inst (l.pa va + s.firstBad (l.pa va) k))
        else
          let (bs, s') := s.readFrame inst tenant root fuel (va + k) (n - k)
          (s.keyBytes (l.pa va) k (some l.key) ++ bs, s')
      | .bad pa => ([], s.memCheck tenant inst pa)
      | _ => ([], s)

/-- The data set of a record: the first 64 bytes of its frame (R166); one that cannot be read has no valid range. -/
def State.rangesFor (s : State) (inst tenant root : Nat) (ws : List Word) (m : Img) : Ranges × State :=
  let fr := bitsOf (ws.getD 1 0) 55 0
  if fr = 0 then (rangesOf (m.bs.drop m.foff), s)
  else
    let (bs, s) := s.readFrame inst tenant root 2 fr 64
    (rangesOf bs, s)

/-- A tile is eligible for a record of a tenant (R167, R42): one that a region of the tenant still holds takes up no more of its allocation. -/
def State.eligible (s : State) (tenant : Nat) (q : QRec) (m : Img) (g : Nat) : Bool :=
  decide (m.tiles = 1) && s.fits m [g] && s.tileUp g && !(s.reserved q m).contains g &&
    (match s.regOf g with | some (_, r) => r.tenant == tenant | none => true) &&
    (match s.entryOf tenant with | some t => decide (((g :: s.tilesOf tenant).eraseDups).length ≤ s.entMax t) | none => false)

/-- The better of two bids under a sequence number: lower cost, then the lower rotated index (R169). -/
def bidLe (seq : Nat) (a b : Bid) : Bool :=
  decide (a.cost < b.cost) || (a.cost == b.cost && decide ((a.tile + seq) % 384 ≤ (b.tile + seq) % 384))

/-- Every bid on a tender, best first (DEDUCED, log entry 59), and the state in which the image and the frame have been read. -/
def State.bidsFor (s : State) (t : Tend) : List Bid × State :=
  let root := s.tenantRoot t.tenant
  let i := s.instOf t.rcd
  match s.loadImage i t.tenant root (bitsOf (t.rcd.words.getD 0 0) 55 0) with
  | (.ok m, _) =>
    let (l, s') := s.rangesFor i t.tenant root t.rcd.words m
    let all := ((List.range 384).filter (s.eligible t.tenant t.rcd m)).map (fun g => let (f2, f4, f5) := s.f245 g; bidOf m.formula l g f2 f4 f5)
    (all.mergeSort (bidLe t.seq), s')
  | (_, s') => ([], s')

/-! Rounds (R169). -/

/-- Update the tender of a number. -/
def State.updTend (s : State) (seq : Nat) (f : Tend → Tend) : State :=
  { s with tends := s.tends.map (fun t => if t.seq = seq ∧ t.pending then f t else t) }
/-- The pending tender of a number. -/
def State.tendOf (s : State) (seq : Nat) : Option Tend := s.tends.find? (fun t => t.seq == seq && t.pending)

/-- Award the best bid left of a tender; with none left a new round begins, and after three the record goes to the distributor. It was popped from
its stream then, and no ring entry is its own any more (R373). -/
def State.award (s : State) (t : Tend) : State :=
  match t.bids[t.tried]? with
  | some b =>
    let q := { t.rcd with inst := some (s.instOf t.rcd) }
    let s := s.updTend t.seq (fun t => { t with st := 2, tried := t.tried + 1, cost := b.cost, tile := b.tile, rcd := q })
    ({ s with awards := s.awards + 1 }.bumpFleet b.tile 13 1).makeRegion t.home t.rcd (some t.seq)
  | none =>
    if t.round < 2 then
      let (n, s) := s.addTend t.home t.rcd (t.round + 1)
      { s.updTend t.seq (fun t => { t with st := 4, next := n }) with retends := s.retends + 1 }
    else
      let s := s.updTend t.seq (fun t => { t with st := 5 })
      { s.putRec 256 { t.rcd with placed := true, ready := true } with falls := s.falls + 1 }

/-- TENDER_ANNOUNCE (R169): the oldest record not announced; the eligible tiles compute their bids. -/
def execTenderAnnounce (s : State) : Host.Outcome State Fault Refusal :=
  .next (match s.tends.find? (fun t => t.pending && !t.announced) with
    | none => s
    | some t =>
      let (l, s) := s.bidsFor t
      let s := s.updTend t.seq (fun t => { t with announced := true, bids := l })
      l.foldl (fun s b => s.bumpFleet b.tile 12 1) s)

/-- BID_WINDOW_EXPIRY (R169): the Bourse keeps the four lowest bids that have arrived (byte k of `body` nonzero: tile k's came too
late), and the best is awarded. -/
def execBidWindowExpiry (s : State) : Host.Outcome State Fault Refusal :=
  .next (match s.tendOf s.ev.id with
    | none => s
    | some t =>
      if !t.announced ∨ t.closed then s
      else
        let l := (t.bids.filter (fun b => s.ev.body.getD b.tile 0 == 0)).take 4
        let t := { t with bids := l, closed := true }
        (s.updTend t.seq (fun _ => t)).award t)

/-- The region of an award. -/
def State.awarded (s : State) (seq : Nat) : Option (Nat × Region) :=
  s.regions.find? (fun q => q.2.tender == some seq && q.2.alive)

/-- AWARD_GO (R169): go to the awarded tile, whose image is loaded. -/
def execAwardGo (s : State) : Host.Outcome State Fault Refusal :=
  .next (match s.tendOf s.ev.id, s.awarded s.ev.id with
    | some t, some (i, r) =>
      if t.st = 2 ∧ r.st = .loaded ∧ s.awake r then (s.go i r).updTend t.seq (fun t => { t with st := 3 }) else s
    | _, _ => s)

/-- An award ends before go: its region is gone, its tile free, and the next kept bid is awarded. -/
def State.withdraw (s : State) (t : Tend) : State :=
  let s := match s.awarded t.seq with
    | some (i, r) => s.dropLoad i r
    | none => s
  ({ s with wdraws := s.wdraws + 1 }.bumpFleet t.tile 14 1).award t

/-- The load of an award fails at its tile (R169, R190, R338), or the tile's mesh or vault has gone (R417); and the state in which its image has been
read. The bad-node word is read once for a load (R355): one that has chosen its role map goes by that. -/
def State.awardFails (s : State) (t : Tend) (r : Region) : Bool × State :=
  match s.loadImage (s.instOf t.rcd) r.tenant (s.tenantRoot r.tenant) r.code with
  | (.ok m, _) =>
    ((s.entryOf r.tenant).isNone || !s.tileUp t.tile || decide (m.tiles ≠ 1) || (r.bads == [] && !s.fits m [t.tile]) || (s.placeFails m [t.tile]).isSome, s)
  | (.refused _, s') => (true, s')
  | _ => ((s.entryOf r.tenant).isNone || !s.tileUp t.tile, s)

/-- LOADER_WITHDRAWAL (R169): the awarded tile's loader withdraws because its load fails. -/
def execLoaderWithdrawal (s : State) : Host.Outcome State Fault Refusal :=
  .next (match s.tendOf s.ev.id, s.awarded s.ev.id with
    | some t, some (_, r) =>
      if t.st ≠ 2 ∨ (r.st ≠ .popped ∧ r.st ≠ .writing) then s
      else match s.awardFails t r with | (true, s') => s'.withdraw t | (false, _) => s
    | _, _ => s)

/-! The instructions (R297 to R300). -/

/-- A record at a virtual address is read like a load of 64 bytes (R297, R299); one that is not aligned gives status 1. -/
def runTender (i : Instr) (f : Fields) (s : State) (mk : Nat → ReqOp) : State :=
  match beginTask i f s noBad with
  | .stop s => s
  | .go t =>
    let r := { s.taskReq t .ld (mk t.g) with d := t.f.d.toNat, ea := t.a.toNat }
    if t.a.toNat % 64 ≠ 0 ∨ bitsOf t.a 63 56 ≠ 0 then s.issueOr t { r with phase := .done, res := 2 ^ 32 } true
    else s.issueOr t { r with pieces := [Piece.mk1 (.virt t.a.toNat) 9 64 0 0 0 0] } true

/-- `tnd.call` (R297). -/
def execTndCall (f : Fields) (s : State) : Host.Outcome State Fault Refusal := .next (runTender (.iTndCall f) f s (fun _ => .tndCall))

/-- `tnd.cost` (R299): the features are those of the moment of issue. -/
def execTndCost (f : Fields) (s : State) : Host.Outcome State Fault Refusal :=
  .next (runTender (.iTndCost f) f s (fun g => let (f2, f4, f5) := s.f245 g; .tndCost f2 f4 f5))

/-- `tnd.wd` (R298). -/
def execTndWd (f : Fields) (s : State) : Host.Outcome State Fault Refusal :=
  .next (match beginTask (.iTndWd f) f s noBad with
    | .stop s => s
    | .go t => s.issueOr t { s.taskReq t .ld (.tndWd (bitsOf t.a 15 0)) with d := t.f.d.toNat } false)

/-- `tnd.st` (R300). -/
def execTndSt (f : Fields) (s : State) : Host.Outcome State Fault Refusal :=
  .next (match beginTask (.iTndSt f) f s noBad with
    | .stop s => s
    | .go t => s.issueOr t { s.taskReq t .ld (.tndSt (bitsOf t.a 15 0)) with d := t.f.d.toNat } false)

/-- The record a region tenders: its tenant and priority are the region's own (R297). -/
def Region.own (q : Region) (ws : List Word) : List Word := putBits (putBits ws 2 39 24 q.tenant) 2 18 16 (min (recPrio ws) q.prio)

/-- The record of a `tnd.call` has been read (R297). The handle of a record that no stream holds is a free value. -/
def State.doCall (s : State) (r : Req) (ws : List Word) : State :=
  match NMap.find s.regions r.inst with
  | none => s
  | some q =>
    let ws := q.own ws
    match (s.readImg q.tenant q.root 3 (bitsOf (ws.getD 0 0) 55 0) 64) with
    | (.ok h, s) =>
      if !recTendered ws ∨ fieldBits h 8 8 0 ≠ 1 ∨ !q.tnd then s.finish r.id (2 * 2 ^ 32)
      else if !s.crierOpen then s.finish r.id (3 * 2 ^ 32)
      else
        let (v, s) := s.takeFree
        let rcd : QRec := { pos := 0, entry := 0, handle := v.toNat % 2 ^ 32, words := ws, join := 0, ready := false, seq := s.readySeq, level := recPrio ws,
                            age := 0, wait := 0, placed := false, inst := none, await := none }
        let (n, s) := { s with readySeq := s.readySeq + 1 }.addTend 256 rcd 0
        s.finish r.id (BitVec.ofNat 64 n)
    | (.bad _ pa, s) => (s.memCheck q.tenant r.inst pa).finish r.id (2 ^ 32)
    | (_, s) => s.finish r.id (2 ^ 32)

/-- The record of a `tnd.cost` has been read (R299). -/
def State.doCost (s : State) (r : Req) (g f2 f4 f5 : Nat) (ws : List Word) : State :=
  match NMap.find s.regions r.inst with
  | none => s
  | some q =>
    let ws := q.own ws
    match s.loadImage r.inst q.tenant q.root (bitsOf (ws.getD 0 0) 55 0) with
    | (.ok m, s) =>
      if !recTendered ws ∨ m.tiles ≠ 1 then s.finish r.id (2 * 2 ^ 32)
      else
        let rcd : QRec := { pos := 0, entry := 0, handle := 2 ^ 32, words := ws, join := 0, ready := false, seq := 0, level := 0, age := 0, wait := 0, placed := false, inst := none, await := none }
        let (l, s) := s.rangesFor r.inst q.tenant q.root ws m
        let c := (bidOf m.formula l g f2 f4 f5).cost
        s.finish r.id (BitVec.ofNat 64 (c + b2n (s.eligible q.tenant rcd m g) * 2 ^ 24))
    | (_, s) => s.finish r.id (2 ^ 32)

/-- A `tnd.wd` reaches its tile (R298): the withdrawal, or what go has made of it. -/
def State.doWithdraw (s : State) (r : Req) (g seq : Nat) : State :=
  match s.tends.find? (fun t => t.seq == seq && t.tile == g && (t.st == 2 || (t.st == 3 && (s.awarded seq).isSome))) with
  | none => s.finish r.id 1
  | some t =>
    if t.tenant ≠ r.tenant then s.finish r.id 3
    else if t.st = 2 then (s.finish r.id 0).withdraw t
    else
      let s := (s.finish r.id 2).bumpFleet g 14 1
      match s.awarded seq with
      | some (i, _) => { s with wdraws := s.wdraws + 1 }.discard i 4
      | none => s

/-- The word of `tnd.st` (R300). -/
def Tend.word (t : Tend) : Word :=
  let held : Bool := t.st == 2 || t.st == 3 || t.st == 6
  BitVec.ofNat 64 (t.st + t.round * 2 ^ 4 + (if held then t.tile else 0) * 2 ^ 6 + (if t.closed then t.bids.length else 0) * 2 ^ 15 +
    (if held then t.cost else 0) * 2 ^ 18 + (if t.st = 4 then t.next else 0) * 2 ^ 42)

/-- A `tnd.st` reaches the Crier (R300): the latest tender of the number. -/
def State.doTenderState (s : State) (r : Req) (seq : Nat) : State :=
  match s.tends.reverse.find? (fun t => t.seq == seq && t.tenant == r.tenant && decide ((s.tendSeq + 65536 - 1 - t.seq) % 65536 < 1024)) with
  | some t => s.finish r.id t.word
  | none => s.finish r.id 0

end Sys2Proof.Machine
end

