-- ==== Sys2Proof/Machine/AtHome.lean ====
section
/-! DEFINITION. Checkpoints, and what a request does when it reaches its home (R104, R106, R116 to R127, R192, R235 to R238, R249, R268,
R274, R275, R297 to R302, R404 to R406). -/

namespace Sys2Proof

/-- What the device takes from internal sections of a checkpoint that it never wrote (R404 leaves their layout to it): a free value
(DESIGN CHOICE, log entry 56). -/
opaque Config.foreignTile : List Word → Machine.Tile

end Sys2Proof

namespace Sys2Proof.Machine

/-! Checkpoints (R404 to R406). -/

/-- The cause word of a checkpoint's header: free where the region is not being pre-empted. -/
def State.stopCause (s : State) (r : Region) : Nat × State :=
  match r.st with
  | .stopping c => (c, s)
  | .settling c => (c, s)
  | .preempted c => (c, s)
  | _ => let (v, s) := s.takeFree; (v.toNat % 65536, s)

/-- Active planes by role (R405). -/
def Tile.aplWord (t : Tile) : Nat := (List.range 28).foldl (fun n k => n + (t.elem (t.phys (k + 4))).apl % 4 * 4 ^ k) 0

/-- A plane as its image lies in memory (R339). -/
def Plane.image (q : Plane) (role k : Nat) : List Byte :=
  (List.range 64).flatMap (fun i => bytesOfNat 4 (NMap.get q.words i 0).toNat) ++ (List.range 64).flatMap (fun i => bytesOfNat 8 (NMap.get q.lits i 0).toNat) ++
    bytesOfNat 8 q.mask.toNat ++ bytesOfNat 8 (role % 32 + k % 4 * 32) ++ List.replicate 0xF0 0

/-- A task store as its section lies in memory (R340). -/
def Tp.image (q : Tp) : List Byte :=
  (List.range 2048).flatMap (fun i => bytesOfNat 4 (NMap.get q.store i 0xFFFFFFFF).toNat) ++ (List.range 2048).flatMap (fun i => bytesOfNat 8 (NMap.get q.lits i 0).toNat)

/-- A coefficient memory as it lies in memory (R343). -/
def lutImage (l : NMap Coef) : List Byte :=
  (List.range 1024).flatMap (fun i =>
    let c := NMap.get l i Coef.zero
    bytesOfNat 4 c.c0.toNat ++ bytesOfNat 4 c.c1.toNat ++ bytesOfNat 4 c.c2.toNat ++ bytesOfNat 4 c.c3.toNat)

/-- The sections of a checkpoint at 0x1000 to 0x10AFFF (R404): scratchpad, block words, planes, task stores, coefficient memories. -/
def Tile.sections (t : Tile) : List Byte :=
  Memory.readBytes t.spad 0 0xC0000 ++ (List.range 0x3000).flatMap (fun b => bytesOfNat 2 (NMap.get t.spadBw b 0x0080)) ++
    (List.range 112).flatMap (fun n => (NMap.get (t.elem (t.phys (n / 4 + 4))).planes (n % 4) Plane.empty).image (n / 4 + 4) (n % 4)) ++
    (List.range 4).flatMap (fun p => (t.tp p).image) ++ (List.range 4).flatMap (fun l => lutImage (t.elem (t.phys (l + 24))).lut)

/-- Words of a checkpoint's other sections, 0x10B000 to 0x23FFFF, which only the device reads (R404). -/
def internalWords : Nat := (0x240000 - 0x10B000) / 8

/-- Write a team's checkpoint (R404, R405), its sequencer as it stands at interruptible points (R90). What the sections without a layout hold is kept beside memory, under the number of the first of the
free words that stand for it (DEDUCED, log entry 56); so are the entries of the re-issue list, whose requests stay queued. -/
def State.writeCkpt (s : State) (g i : Nat) (r : Region) (pa : Nat) : State :=
  let t := { s.tile g with triad := (s.tile g).triad.atPoint }
  let (c, s) := s.stopCause r
  let nre := s.nodeQueue g
  let key := s.free
  let free (n k : Nat) : List Word := (List.range n).map (fun j => Config.freeWord (key + k + j))
  let hdr : List Word :=
    [BitVec.ofNat 64 (2 ^ 32 + 0x4B435031), BitVec.ofNat 64 (r.tenant % 65536 * 2 ^ 48 + t.team % 512 * 2 ^ 32 + i % 2 ^ 32),
     BitVec.ofNat 64 (c / 256 % 256 * 2 ^ 56 + r.wdg % 2 ^ 24 * 2 ^ 16 + nre % 256 * 2 ^ 8 + c % 256), BitVec.ofNat 64 t.aplWord] ++
      List.replicate 28 0 ++ free (6 * nre) internalWords ++ List.replicate (0x1E0 - 6 * nre) 0
  let s := s.writeBlocks pa (bytesOfWords hdr ++ t.sections ++ bytesOfWords (free internalWords 0))
  { s with free := key + internalWords + 6 * nre, ckpts := NMap.set s.ckpts key t }

/-- The header at an address has the magic and the version, and names this team of this instance (R406). -/
def State.ckptOk (s : State) (pa i team : Nat) : Bool :=
  let w (k : Nat) : Nat := s.readPa (pa + 8 * k) 8
  w 0 % 2 ^ 48 == 2 ^ 32 + 0x4B435031 && w 1 / 2 ^ 32 % 512 == team && w 1 % 2 ^ 32 == i % 2 ^ 32

/-- What a checkpoint's device-internal sections hold: the record they were written with, wherever their bytes have been copied. -/
def State.internal (s : State) (pa : Nat) : Tile :=
  match s.ckpts.find? (fun (x : Nat × Tile) => (List.range internalWords).all (fun k => s.readPa (pa + 0x10B000 + 8 * k) 8 == (Config.freeWord (x.1 + k)).toNat)) with
  | some x => x.2
  | none => Config.foreignTile ((List.range internalWords).map (fun k => BitVec.ofNat 64 (s.readPa (pa + 0x10B000 + 8 * k) 8)))

/-- A restored element: its planes, its active plane and its coefficients as the checkpoint's bytes give them. -/
def Elem.restored (x : Elem) (role apl : Nat) (planes lut : List Byte) : Elem :=
  { x with
    planes := (List.range 4).filterMap (fun k =>
      let b := (planes.drop (1024 * k)).take 1024
      if (NMap.find x.planes k).isNone ∧ word64 b 0x300 = 0 then none else some (k, parsePlane b))
    apl := apl
    lut := if 24 ≤ role ∧ role < 28 then (List.range 1024).filterMap (fun i =>
        let w (j : Nat) : Lane := BitVec.ofNat 32 (fieldN lut (16 * i + 4 * j) 4)
        let c : Coef := ⟨w 0, w 1, w 2, w 3⟩
        if c = Coef.zero then none else some (i, c))
      else x.lut }

/-- A restored task processor: its stores as the checkpoint's bytes give them. -/
def Tp.restored (q : Tp) (b : List Byte) : Tp :=
  { q with
    store := (List.range 2048).filterMap (fun i => let w : Lane := BitVec.ofNat 32 (fieldN b (4 * i) 4); if w = 0xFFFFFFFF then none else some (i, w))
    lits := (List.range 2048).filterMap (fun i => let v := word64 b (8192 + 8 * i); if v = 0 then none else some (i, v)) }

/-- The tile that a checkpoint at an address holds (R404, R406). -/
def State.ckptTile (s : State) (pa : Nat) : Tile :=
  let old := s.internal pa
  let apl := s.readPa (pa + 0x18) 8
  let bytes (off n : Nat) : List Byte := s.paBytes (pa + off) n
  { old with
    spad := Memory.writeBytes [] 0 (bytes 0x1000 0xC0000)
    spadBw := (List.range 0x3000).filterMap (fun b => let v := s.readPa (pa + 0xC1000 + 2 * b) 2; if v = 0x0080 then none else some (b, v))
    elems := (List.range 28).foldl (fun m k =>
      let e := old.phys (k + 4)
      let x := (old.elem e).restored (k + 4) (apl / 4 ^ k % 4) (bytes (0xC7000 + 4096 * k) 4096) (bytes (0xFB000 + 16384 * (k - 20)) 16384)
      if x = Elem.reset then m else NMap.set m e x) old.elems
    tps := (List.range 4).map (fun p => (p, (old.tp p).restored (bytes (0xE3000 + 24576 * p) 24576))) }

/-- The first plane of a restored tile that fails its check (R190, R192, R406): role, plane, cause, slot and offset. Words of its task stores
are checked when they issue, as R190 has it. -/
def State.ckptFails (s : State) (pa : Nat) (t : Tile) : Option (Nat × Nat × Nat × Nat × Nat) :=
  (List.range 112).findSome? (fun n =>
    let role := n / 4 + 4
    let x := t.elem (t.phys role)
    if (NMap.find x.planes (n % 4)).isNone then none
    else
      match planeFails (kindOf role) role (n % 4) x.gens (s.paBytes (pa + 0xC7000 + 1024 * n) 1024) with
      | some (c, slot, off) => some (role, n % 4, c, slot, off)
      | none => none)

/-- A restored plane fails (R192, R406): the region is discarded with cause 5 and the image error. -/
def State.restoreFails (s : State) (i g team : Nat) (t : Tile) : Nat × Nat × Nat × Nat × Nat → State
  | (role, plane, cause, slot, off) =>
    (s.updReg i (fun q => { q with imgErr := imgError false team slot plane (t.phys role) role g 0 cause off })).discard i 5

/-- A restored window against the hub's log of shoot-downs (R406). -/
def State.recheck (s : State) (w : Win) : Win :=
  { w with revoked := w.revoked || s.shootLog.any (fun k => k.covers w.tenant w.va w.size && olderSeq w.seq k.num) ||
      (decide (256 ≤ s.shootLog.length) && s.shootLog.all (fun k => olderSeq w.seq k.num)) }

/-- Restored windows against the log. -/
def State.recheckAll (s : State) (l : NMap Win) : NMap Win := l.map (fun (x : Nat × Win) => (x.1, s.recheck x.2))

/-- What a tile holds after a restore: the checkpoint's team, on the machine as it is now, whose performance counters count on (R243). -/
def State.reload (s : State) (now old : Tile) : Tile :=
  let spare (e : Nat) : Elem := { Elem.reset with work := (now.elem e).work, blk := (now.elem e).blk, shoots := now.shoots }
  { now with
    tps := old.tps.map (fun (p : Nat × Tp) => (p.1, { p.2 with
      sstore := (now.tp p.1).sstore, slits := (now.tp p.1).slits
      ctxs := (List.range 4).map (fun c =>
        let x := p.2.ctx c
        (c, { x with wins := s.recheckAll x.wins, shoots := now.shoots, work := ((now.tp p.1).ctx c).work, blk := ((now.tp p.1).ctx c).blk })) }))
    elems := old.elems.foldl (fun (l : NMap Elem) (e : Nat × Elem) => NMap.set l e.1
      { e.2 with wins := s.recheckAll e.2.wins, shoots := now.shoots, work := (now.elem e.1).work, blk := (now.elem e.1).blk })
      (now.elems.map (fun (x : Nat × Elem) => (x.1, spare x.1)))
    spad := old.spad, spadBw := old.spadBw, swz := old.swz, team := old.team, intake := old.intake, roleMap := old.roleMap
    barriers := old.barriers, triad := old.triad, rtCount := old.rtCount, rtPsum := old.rtPsum, rtLive := old.rtLive
    rngSeed := old.rngSeed, rngCtr := old.rngCtr, bmc := [] }

/-- A `ckpt` is performed (R249, R404). -/
def State.doCkpt (s : State) (r : Req) (pa : Nat) : State :=
  match r.who, NMap.find s.regions r.inst with
  | .ctx g _ _, some q => (s.writeCkpt g r.inst q pa).performedNow r.id 0
  | _, _ => s

/-- A `rstor` is performed (R249, R406): refused with cause 0x09 where the header does not match; the context that issued it goes on. A plane
that fails its check ends the region (R192). -/
def State.doRstor (s : State) (r : Req) (pa : Nat) : State :=
  match r.who with
  | .ctx g p c =>
    let x := s.ctx g p c
    let t := s.tile g
    if s.ckptOk pa r.inst t.team then
      let old := s.ckptTile pa
      match s.ckptFails pa old with
      | some f => s.restoreFails r.inst g t.team old f
      | none => ((s.updTile g (fun now => { s.reload now old with intake := now.intake, team := now.team })).updCtx g p c (fun _ => x)).performedNow r.id 0
    else s.refuseWord r
  | _ => s

/-! At the home (R104, R116, R117, R126). -/

/-- A descriptor, read whole, answers its instruction. -/
def State.doDesc (s : State) (r : Req) (w : Lane) (pa : Nat) (ws : List Word) : State :=
  match w.toNat / 2 ^ 24 with
  | 0xB0 => s.copyDesc r 0 ws
  | 0xB1 => s.copyDesc r 1 ws
  | 0xB2 => s.copyDesc r 2 ws
  | 0xB3 => s.copyDesc r 3 ws
  | 0xC5 => s.performedNow r.id (parseDesc ws).comb
  | 0xE6 => s.shfDesc r false pa ws
  | 0xE7 => s.shfDesc r true pa ws
  | _ => s

/-- `n` bytes at a place as an agent sees them under a key slot, each 8-byte location of memory for itself (R117). -/
def State.readRange (s : State) (who : Agent) (key : Option Nat) (k : Nat) (pl : Place) : List (Nat × Nat) → Nat × State
  | [] => (0, s)
  | (o, n) :: l =>
    let (v, s) := s.agentRead who (pl.off o) key n k
    let (w, s) := s.readRange who key k pl l
    (v + w * 256 ^ n, s)

/-- The words at a place as an agent sees them, passing over writes it may miss. -/
def State.wordsAs (s : State) (who : Agent) (key : Option Nat) (k : Nat) : Nat → Place → List Word × State
  | 0, _ => ([], s)
  | n + 1, pl =>
    let (v, s) := s.readRange who key k pl (cuts 8 pl.addr 8 0)
    let (l, s) := s.wordsAs who key k n (pl.off 8)
    (BitVec.ofNat 64 v :: l, s)

/-- A part whose read meets a data error (R106, R408): a block of it is in error, or the act says that a word cannot be corrected. -/
def State.partBad (s : State) (p : Piece) : Bool :=
  match p.place with
  | .phys a => s.ev.flag || s.rangeBad a p.n
  | _ => false

/-- The address where a part's read fails. -/
def State.badIn (s : State) (p : Piece) : Nat := p.place.addr + (if s.rangeBad p.place.addr p.n then s.firstBad p.place.addr p.n else 0)

/-- The next part of a load, store or atomic is performed (R126, R408): a block in error gives the machine check. -/
def State.homePart (s : State) (r : Req) : State :=
  match r.nextPiece s.ev.e with
  | none => s
  | some (k, p) =>
    if !s.mayPerform r p then s
    else if r.op ≠ .store ∧ s.partBad p then s.dataError r (s.badIn p)
    else
      let (v, s) := s.doPiece r p s.ev.x
      let s := s.updReq r.id (fun q => { q with pieces := q.pieces.set k { p with done := true, got := v } })
      let s := match s.req r.id with
        | some q => if q.allDone then (s.mended q).finish r.id 0 else s
        | none => s
      s.progress r.inst

/-- An operation that reads one part whole and acts on its words: the read is an access performed (R41). -/
def State.homeWhole (s : State) (r : Req) (act : State → Nat → List Word → State) : State :=
  match r.pieces with
  | p :: _ =>
    if !s.mayPerform r p then s
    else if s.partBad p then s.dataError r (s.badIn p)
    else
      let (ws, s) := s.wordsAs r.who p.key s.ev.x (p.n / 8) p.place
      (act s p.place.addr ws).progress r.inst
  | [] => s

/-- A read that its region's completion has left behind meets its home (R409): a word that cannot be corrected is still recorded. -/
def State.orphanRead (s : State) (id : Nat) : State :=
  match NMap.find s.orphans id with
  | none => s
  | some (i, g, pl) =>
    let s := { s with orphans := NMap.erase s.orphans id }
    match pl with
    | .phys a => if s.ev.flag || s.badBlock pl then (s.blockError a).checkRecord g i 2 0 (redirect s.migs a / 64 * 64) 2 0 else s
    | _ => s

/-- ACCESS_AT_HOME (R104, R116): a request, or its next part (`e`: the lane, where the lanes are independent), is performed. `flag`: a
word read cannot be corrected; `x`: how many of the newest writes that its agent may miss a read passes over (R118). -/
def execAccessAtHome (s : State) : Host.Outcome State Fault Refusal :=
  .next (match s.liveReq s.ev.id with
    | none => s.orphanRead s.ev.id
    | some r =>
      if r.phase ≠ .wait then s
      else
        match r.op with
        | .load => s.homePart r
        | .store => s.homePart r
        | .amo _ => s.homePart r
        | .desc w => s.homeWhole r (fun s pa ws => s.doDesc r w pa ws)
        | .jobSpawn k => s.homeWhole r (fun s _ ws => s.doSpawn r k ws)
        | .tndCall => s.homeWhole r (fun s _ ws => s.doCall r ws)
        | .tndCost f2 f4 f5 => s.homeWhole r (fun s _ ws => s.doCost r (r.who.tile.getD 0) f2 f4 f5 ws)
        | .mig => s.homeWhole r (fun s pa _ => s.doMig r pa)
        | .bmcInv first count =>
          (match r.pieces with
           | p :: _ => if s.mayPerform r p then s.doBmcInv r first count p.place.addr else s
           | [] => s)
        | .jobJoin h => s.doJoin r h
        | .sig a code => s.doSig r a code
        | .tndWd n => s.doWithdraw r (r.who.tile.getD 0) n
        | .tndSt n => s.doTenderState r n
        | .ckpt pa => s.doCkpt r pa
        | .rstor pa => if s.rangeBad pa 0x240000 then s.dataError r (pa + s.firstBad pa 0x240000) else s.doRstor r pa
        | _ => s)

end Sys2Proof.Machine
end

