-- ==== Sys2Proof/Machine/Compare.lean ====
section
/-! DEFINITION. Compare, select and move instructions 0x20 to 0x2F (R201). -/

namespace Sys2Proof.Machine

/-- A truth value as an integer of W bits. -/
def flag {w : Nat} (b : Bool) : BitVec w := if b then 1 else 0
/-- `sext` and `zext` (R201): the low n bits, extended. -/
def extend {w : Nat} (sg : Bool) (a b : BitVec w) : BitVec w :=
  let n := b.toNat % 128
  if n = 0 then 0 else if w ≤ n then a
  else if sg then BitVec.ofInt w (sgn n a.toNat) else BitVec.ofNat w (a.toNat % 2 ^ n)
/-- Signed lesser. -/
def minS {w : Nat} (a b : BitVec w) : BitVec w := if a.slt b then a else b
/-- Signed greater. -/
def maxS {w : Nat} (a b : BitVec w) : BitVec w := if a.slt b then b else a

/-- `lane` (R201): lane b mod L of a as a scalar, at that lane's iteration. -/
def execLane (f : Fields) (s : State) : Host.Outcome State Fault Refusal :=
  .next (runElem (.iLane f) s (fun _ => false) (fun s _ _ _ r a b _ =>
    let k := (r.opnd b).toNat % r.n
    .ok (s, [.a (Tok.scalar r.thread ((r.iter + k) % 2 ^ 20) ((a.lane k).setWidth 64))])))

/-- `mov` (R201). -/
def execMov (f : Fields) (s : State) : Host.Outcome State Fault Refusal :=
  .next (runCompute (.iMov f) f s (pure3 fun _ a _ _ => a))

/-- `seq` (R201). -/
def execSeq (f : Fields) (s : State) : Host.Outcome State Fault Refusal :=
  .next (runCompute (.iSeq f) f s (pure3 fun _ a b _ => flag (a == b)))

/-- `sne` (R201). -/
def execSne (f : Fields) (s : State) : Host.Outcome State Fault Refusal :=
  .next (runCompute (.iSne f) f s (pure3 fun _ a b _ => flag (a != b)))

/-- `slt` (R201). -/
def execSlt (f : Fields) (s : State) : Host.Outcome State Fault Refusal :=
  .next (runCompute (.iSlt f) f s (pure3 fun _ a b _ => flag (a.slt b)))

/-- `sle` (R201). -/
def execSle (f : Fields) (s : State) : Host.Outcome State Fault Refusal :=
  .next (runCompute (.iSle f) f s (pure3 fun _ a b _ => flag (a.sle b)))

/-- `sltu` (R201). -/
def execSltu (f : Fields) (s : State) : Host.Outcome State Fault Refusal :=
  .next (runCompute (.iSltu f) f s (pure3 fun _ a b _ => flag (a.ult b)))

/-- `sleu` (R201). -/
def execSleu (f : Fields) (s : State) : Host.Outcome State Fault Refusal :=
  .next (runCompute (.iSleu f) f s (pure3 fun _ a b _ => flag (a.ule b)))

/-- `sel` (R201, R40). -/
def execSel (f : Fields) (s : State) : Host.Outcome State Fault Refusal :=
  .next (runCompute (.iSel f) f s (pure3 fun _ a b c => if c = 0 then b else a))

/-- `min` (R201). -/
def execMin (f : Fields) (s : State) : Host.Outcome State Fault Refusal :=
  .next (runCompute (.iMin f) f s (pure3 fun _ a b _ => minS a b))

/-- `max` (R201). -/
def execMax (f : Fields) (s : State) : Host.Outcome State Fault Refusal :=
  .next (runCompute (.iMax f) f s (pure3 fun _ a b _ => maxS a b))

/-- `minu` (R201). -/
def execMinu (f : Fields) (s : State) : Host.Outcome State Fault Refusal :=
  .next (runCompute (.iMinu f) f s (pure3 fun _ a b _ => if a.ult b then a else b))

/-- `maxu` (R201). -/
def execMaxu (f : Fields) (s : State) : Host.Outcome State Fault Refusal :=
  .next (runCompute (.iMaxu f) f s (pure3 fun _ a b _ => if a.ult b then b else a))

/-- `clamp` (R201). -/
def execClamp (f : Fields) (s : State) : Host.Outcome State Fault Refusal :=
  .next (runCompute (.iClamp f) f s (pure3 fun _ a b c => minS (maxS a b) c))

/-- `sext` (R201). -/
def execSext (f : Fields) (s : State) : Host.Outcome State Fault Refusal :=
  .next (runCompute (.iSext f) f s (pure3 fun _ a b _ => extend true a b))

/-- `zext` (R201). -/
def execZext (f : Fields) (s : State) : Host.Outcome State Fault Refusal :=
  .next (runCompute (.iZext f) f s (pure3 fun _ a b _ => extend false a b))

end Sys2Proof.Machine
end

