-- ==== Sys2Proof/Machine/Preempt.lean ====
section
/-! DEFINITION. Pre-emption of a region and its resumption (R42, R398, R402 to R407). -/

namespace Sys2Proof.Machine

/-- Checkpoint slots in use. -/
def State.slotsUsed (s : State) : List Nat := s.regions.flatMap (fun q => q.2.slots.map (·.slot))
/-- Free slots of the pool (R402). -/
def State.slotsFree (s : State) : List Nat := (List.range (bitsOf (s.hubWord 0x20028) 8 0)).filter (fun k => !s.slotsUsed.contains k)
/-- Physical address of a slot. -/
def State.slotAt (s : State) (k : Nat) : Nat := bitsOf (s.hubWord 0x20020) 51 12 * 4096 + k * 0x240000

/-- Some part of a region is debug-halted (R245, R403). -/
def State.regHalted (s : State) (r : Region) : Bool := r.tiles.any (fun g => (s.tile g).debugHalted)

/-- A request lets its region be checkpointed: it is performed, accepted, withheld (under a fault id or waiting for one, R396) or queued at its node,
waits for a combine entry, or for something that the checkpoint keeps; copies and fills have landed (R403, R405, R407). -/
def State.restful (s : State) (x : Region) (r : Req) : Bool :=
  r.performed || r.withheld.isSome || r.unwalked || x.held.any (fun h => h.1 == r.id) || (s.vault r.home).cmbQ.contains r.id ||
    (match r.op with
     | .copy _ => false
     | .shf _ _ _ => false
     | .shfFb _ => false
     | .plf _ _ => false
     | .fence => true
     | .emit _ => true
     | .tri => true
     | _ => r.phase == .accepted)

/-- Steps 2 to 4 of a pre-emption are over (R403): no token or pulse travels, copies have landed, every sequencer is interruptible (DEDUCED, log entry 57). -/
def State.settled (s : State) (i : Nat) (r : Region) : Bool :=
  r.wires.all (fun w => w.2.all (fun x => x.stage == 0)) && r.pulses.all (fun p => p.2 == 0) &&
    (s.reqs.filter (fun q => q.inst == i)).all (s.restful r) && r.tiles.all (fun g => (s.tile g).triad.interruptible)

/-- A ready record of higher priority waits: the distributor may pre-empt (R403). -/
def State.outranked (s : State) (r : Region) : Bool :=
  s.streams.any (fun x => x.2.recs.any (fun q => q.ready && decide (r.prio < q.level)))

/-- A device event record of a region (R396). -/
def State.regionEvent (s : State) (event i : Nat) (r : Region) : State :=
  s.post 0 (eventRec event 0 0 0 (BitVec.ofNat 64 (r.tenant % 65536)) (BitVec.ofNat 64 (i % 2 ^ 32)) 0)

/-- Write the checkpoints and free the tiles (R403, steps 5 and 6). -/
def State.checkpoint (s : State) (i : Nat) (r : Region) (cause : Nat) : State :=
  let s := r.slots.foldl (fun s (x : Slot) => s.writeCkpt x.tile i r (s.slotAt x.slot)) s
  let s := r.tiles.foldl (fun s g => s.updTile g (fun t => { t with inst := none })) s
  let s := s.updReg i (fun r => { r with st := .preempted cause })
  let s := match s.begun with | some (g, _) => if r.tiles.contains g then { s with begun := none } else s | none => s
  s.regionEvent 3 i r

/-- Checkpoint slots for the teams of a region, in team order (R402): they are its own from the moment its intake stops. -/
def Region.reserve (r : Region) (slots : List Nat) : List Slot := (r.tiles.zip slots).zipIdx.map (fun (x : (Nat × Nat) × Nat) => (⟨x.2, x.1.1, x.1.2⟩ : Slot))

/-- PREEMPTION (R403): the next step of the pre-emption of region `inst`. `x` = 3: the distributor asks, for a record of higher priority. -/
def execPreemption (s : State) : Host.Outcome State Fault Refusal :=
  .next (
    let i := s.ev.inst
    match NMap.find s.regions i with
    | none => s
    | some r =>
      match r.st with
      | .running => if s.ev.x = 3 ∧ s.outranked r then s.askStop i 3 else s
      | .stopping c =>
        if s.regHalted r ∨ s.slotsFree.length < r.tiles.length then s
        else
          let s := r.tiles.foldl (fun s g => s.updTile g (fun t => { t with intake := false })) s
          s.updReg i (fun r => { r with st := .settling c, slots := r.reserve s.slotsFree })
      | .settling c => if s.regHalted r ∨ !s.settled i r then s else s.checkpoint i r c
      | _ => s)

/-- A re-issued copy's windows are checked against the log (R406): one shot down while its region was parked is revoked. -/
def State.recheckCopy (s : State) (r : Req) : Req :=
  match r.op with | .copy c => { r with op := .copy { c with wins := s.recheckAll c.wins } } | _ => r

/-- The re-issue entries of a region are issued again (R406): an access walks anew, and the time of its fault limit begins anew should it be
withheld again; a copy whose id is still unresolved stays withheld until it is (R325), its time beginning anew as well. -/
def State.reissue (s : State) (i : Nat) : State :=
  let stays (r : Req) : Bool := (match r.op with | .copy _ => true | _ => false) &&
    (match r.withheld with | some k => s.faults.any (fun f => f.id == k && f.tenant == r.tenant) | none => false)
  let kept := (s.reqs.filter (fun (r : Req) => r.inst == i && stays r)).map (·.id)
  let s := { s with reqs := s.reqs.map (fun (r : Req) => if r.inst ≠ i then r else s.recheckCopy (if stays r then r else { r with withheld := none })) }
  s.updReg i (fun r => { r with held := (r.held.filter (fun (h : Nat × Nat × Nat) => kept.contains h.1)).map (fun (h : Nat × Nat × Nat) => (h.1, h.2.1, s.now)) })

/-- Restore every team of a region from its checkpoint (R406). -/
def State.restoreTeams (s : State) (i : Nat) (r : Region) : State :=
  r.slots.foldl (fun s k =>
    let old := s.ckptTile (s.slotAt k.slot)
    let s := s.updTile k.tile (fun t => { s.reload t old with inst := some i, lastInst := some i, team := k.team, intake := true })
    if k.team = 0 then s.updReg i (fun r => { r with wdg := s.readPa (s.slotAt k.slot + 0x10) 8 / 2 ^ 16 % 2 ^ 24 }) else s) s

/-- The first block in error of a region's checkpoints (R408): team's tile and address. -/
def State.slotBad (s : State) (r : Region) : Option (Nat × Nat) :=
  r.slots.findSome? (fun k => let a := s.slotAt k.slot; if s.rangeBad a 0x240000 then some (k.tile, a + s.firstBad a 0x240000) else none)

/-- REGION_RESUME (R406): the teams are restored on the same tiles, withheld accesses are issued again, intake reopens, and from then on the held answers
are delivered in their turn (R407). Sleeping islands are woken first (R418). A checkpoint with a data error is a machine check (R408), a plane that fails its check ends
the region (R192). -/
def execRegionResume (s : State) : Host.Outcome State Fault Refusal :=
  .next (
    let i := s.ev.inst
    match NMap.find s.regions i with
    | none => s
    | some r =>
      if !r.resumable ∨ !r.tiles.all s.tileFree then s
      else if !s.awake r then
        ((r.tiles.flatMap islandsOf).eraseDups.filter s.asleep).foldl (fun s k => s.setIsland k 3) s
      else
        let bad := s.slotBad r
        let fails := r.slots.findSome? (fun k =>
          let a := s.slotAt k.slot
          let t := s.ckptTile a
          match s.ckptFails a t with | some f => some (k, t, f) | none => none)
        let s := (s.restoreTeams i r).updReg i (fun r => { r with st := .running, slots := [] })
        match bad, fails with
        | some (g, a), _ => (s.blockError a).machineCheck g 2 0 (redirect s.migs a / 64 * 64) 2 0 2
        | none, some (k, t, f) => s.restoreFails i k.tile k.team t f
        | none, none =>
          let s := (s.reissue i).regionEvent 4 i r
          r.tiles.foldl (fun s g => s.wakeTile g) s)

end Sys2Proof.Machine
end

