-- ==== Sys2Proof/Machine/Fleet.lean ====
section
/-! DEFINITION. The fleet and the outside world: chip links, error windows, heat and power, reset and readiness, measurements, reports,
keys, and the debug access block (R244, R384 to R386, R410 to R424). -/

namespace Sys2Proof.Machine

/-! Chip links (R384, R423). -/

/-- A link port not yet trained. -/
def Link.reset : Link := ⟨false, false, false, 0, false, 0, 0, 0, 0, 0, 0, 0⟩
/-- Link port `p`. -/
def State.link (s : State) (p : Nat) : Link := NMap.get s.links p Link.reset
/-- Update a link port. -/
def State.updLink (s : State) (p : Nat) (f : Link → Link) : State := { s with links := NMap.set s.links p (f (s.link p)) }

/-- CHIP_NUMBER_WRITE (R384): word 0 takes `w0` once. -/
def execChipNumberWrite (s : State) : Host.Outcome State Fault Refusal :=
  .next (if s.chip = 0 ∧ s.hallUp then s.setHub 0x70000 (s.ev.w0 &&& 0xFF) else s)

/-- CHIP_NUMBER_EXCHANGE (R384): port `arc` learns its peer's number `x`. -/
def execChipNumberExchange (s : State) : Host.Outcome State Fault Refusal :=
  .next (
    let p := s.ev.arc % 16
    let peer := s.ev.x % 256
    if !(s.link p).rdy ∨ s.chip = 0 ∨ peer = 0 then s
    else s.updLink p (fun l => { l with peer := peer, up := true, dup := peer == s.chip }))

/-- A link goes down (R417, R423) (DEDUCED, log entry 60). -/
def State.linkDown (s : State) (p : Nat) : State :=
  let s := s.updLink p (fun l => { l with rdy := false, up := false, down := true, replay := 0 })
  let s := { s with ready0 := s.ready0 &&& ~~~(BitVec.ofNat 64 (2 ^ (38 + p))) }
  let s := s.post 0 (eventRec 6 0 0x22 0 0 0 0)
  (s.regions.filter (fun q => q.2.links.any (fun l => l.2 == p))).foldl (fun s q => s.discard q.1 2) s

/-- What a frame asks of a home, by its number (R128, R385): 1 load, 2 store, 3 to 10 an atomic, 11 srd, 12 swr, 13 sclr, 14 sprb, 15 a barrier's
arrival with its bytes, 16 and 17 a combine with its control word, 18 to 20 an operation of a holdings table with its operand word (R303), 21 a whole
block of a copy, which its block word comes with (R267). -/
def peerOp (k : Nat) (v cc : Word) : Option ReqOp :=
  match k with
  | 1 => some .load
  | 2 => some .store
  | 3 => some (.amo .add)
  | 4 => some (.amo .and)
  | 5 => some (.amo .or)
  | 6 => some (.amo .xor)
  | 7 => some (.amo .min)
  | 8 => some (.amo .max)
  | 9 => some (.amo .swp)
  | 10 => some (.amo .cas)
  | 11 => some .srd
  | 12 => some .swr
  | 13 => some .sclr
  | 14 => some .sprb
  | 15 => some (.bar (v.toNat % 2 ^ 40))
  | 16 => some (.cmb false cc)
  | 17 => some (.cmb true cc)
  | 18 => some (.holdIns (bitsOf v 31 0) (bitsOf v 37 32 + 1))
  | 19 => some (.holdDrop (bitsOf v 31 0))
  | 20 => some (.holdQ (bitsOf v 31 0))
  | 21 => some .store
  | _ => none

/-- Bytes of a peer's access, within one aligned word for the plain ones and the atomics. -/
def peerBytes (op : ReqOp) (a n : Nat) : Nat :=
  match op with
  | .bar _ => 16
  | .cmb _ cc => typeBytes (bitsOf cc 6 4)
  | .holdIns _ _ => 64
  | .holdDrop _ | .holdQ _ => 1
  | .load | .store => min (max n 1) (8 - a % 8)
  | .amo _ => if n = 4 then 4 else 8
  | _ => 8

/-- A peer chip's access reaches a home (R126, R128): `id` bytes at `w0`, in this chip's memory or in the peer's own, with value `w1` and compare or
control `w2`; a block of a copy has its 64 bytes in `body` and its block word in `w1`. Bits 0 and 1 of `g` make it an acquire and a release at system
scope, which structure operations and arrivals are of themselves; the rest of `g` is one more than the key slot of this chip it names (R385), or 0. It
has no region here (log entry 66). -/
def State.peerAccess (s : State) (chip : Nat) : State :=
  let v := s.ev
  match peerOp v.c v.w1 v.w2 with
  | none => s
  | some op =>
    let block := v.c == 21
    let n := if block then 64 else peerBytes op v.w0.toNat v.id
    let a := match op with | .load => v.w0.toNat | .store => if block then v.w0.toNat / 64 * 64 else v.w0.toNat | _ => v.w0.toNat / n * n
    let hold : Bool := match op with | .holdIns _ _ | .holdDrop _ | .holdQ _ => true | _ => false
    let fits : Bool := match op with | .holdIns _ len => holdAt (.phys a) len | _ => !hold || inVault a
    let key : Option Nat := if v.g / 4 = 0 then none else some (v.g / 4 - 1)
    let here : Bool := decide (a < 2 ^ 44) && s.reachable (redirect s.migs a) && (match key with | some k => (NMap.find s.keys k).isSome | none => true)
    let there : Bool := a / 2 ^ 44 == chip && paLocalOk (a % 2 ^ 44)
    if (!here ∧ !there) ∨ !fits then s
    else
      let kind := match op with | .srd | .swr | .sclr | .sprb => 3 | .store => 1 | _ => 0
      let acq : Bool := match op with | .srd | .bar _ => true | _ => v.g % 2 == 1
      let rel : Bool := match op with | .swr | .bar _ => true | _ => v.g / 2 % 2 == 1
      let ps := if block then piecesOf (.phys a) kind 64 (natOfBytes (v.body.take 64)) 0
        else [Piece.mk1 (.phys a) kind n (v.w1.toNat % 256 ^ n) (v.w2.toNat % 256 ^ n) 0 0]
      let s := if block then s.setMetaPa a (v.w1.toNat % 65536) else s
      s.addReq { Req.blank 0 (2 ^ 32 + chip) 0 (.peer chip) op with
        pieces := ps.map (fun p => { p with key := key }), acq := acq, rel := rel, sc := 3, ea := a }

/-- What a frame of a peer carries goes on: an access, or, by number 22, a coded packet in `body` (R149, R151). -/
def State.peerFrame (s : State) (chip : Nat) : State := if s.ev.c = 22 then s.peerShuffle chip s.ev.body else s.peerAccess chip

/-- A port carries traffic: numbers are exchanged, and the peer's is not this chip's own (R384). -/
def Link.carries (l : Link) : Bool := l.rdy && l.up && !l.dup && !l.down

/-- LINK_FRAME_RECEIVE (R423): a frame arrives at port `arc` with `x` symbols corrected; `flag`: it passes its CRC, and what it carries goes on to its
home (R128). `e`: frames the port has sent since, which its replay buffer keeps. A gated port wakes first (R418). -/
def execLinkFrameReceive (s : State) : Host.Outcome State Fault Refusal :=
  .next (
    let p := s.ev.arc % 16
    if !(s.link p).rdy then s
    else if !(s.wakePort (976 + p)).1 then (s.wakePort (976 + p)).2
    else
      let s := s.updLink p (fun l => { l with fec := l.fec + BitVec.ofNat 64 s.ev.x, tx := l.tx + BitVec.ofNat 64 s.ev.e, replay := l.replay + s.ev.e })
      if s.ev.flag then
        let s := s.updLink p (fun l => { l with rx := l.rx + 1 })
        if (s.link p).carries then s.peerFrame (s.link p).peer else s
      else
        let s := (s.rollWindow (linkUnit p)).updLink p (fun l => { l with bad := l.bad + 1, win := l.win + 1 })
        if NMap.get s.policy (linkUnit p) 16 < (s.link p).win then s.linkDown p else s)

/-- LINK_REPLAY (R144, R423): port `arc` sends the frames its buffer keeps from number `x` on again; the state they carry does not change. -/
def execLinkReplay (s : State) : Host.Outcome State Fault Refusal :=
  .next (
    let p := s.ev.arc % 16
    if (s.link p).rdy then s.updLink p (fun l => { l with rpl := l.rpl + BitVec.ofNat 64 (l.replay - s.ev.x) }) else s)

/-- LINK_RETRAIN (R423): a write of retr at a down port `arc`; `flag`: training succeeds. -/
def execLinkRetrain (s : State) : Host.Outcome State Fault Refusal :=
  .next (
    let p := s.ev.arc % 16
    if (s.link p).down ∧ s.ev.flag ∧ s.hallUp then
      { s.updLink p (fun l => { l with rdy := true, down := false }) with ready0 := s.ready0 ||| BitVec.ofNat 64 (2 ^ (38 + p)) }
    else s)

/-! Error windows (R415). -/

/-- ERROR_WINDOW_EXPIRY (R415, R423): unit `id` passes the boundary of its window, if 2^30 of its own cycles have brought it there. -/
def execErrorWindowExpiry (s : State) : Host.Outcome State Fault Refusal := .next (s.rollWindow s.ev.id)

/-! Heat and power (R419, R420). -/

/-- The throttle level of a temperature (R420). -/
def State.levelFor (s : State) (temp : Int) : Nat :=
  let w := s.hubWord 0x82100
  if !bitOf w 16 then 0
  else if (bitsOf w 15 8 : Int) ≤ temp then 8
  else
    let l := min 7 ((temp - (bitsOf w 7 0 : Int)).toNat / 2)
    if 2600 < s.watts then min 7 (l + 1) else l

/-- TEMPERATURE_UPDATE (R420): tile `g` has reached `temp` degrees. -/
def execTemperatureUpdate (s : State) : Host.Outcome State Fault Refusal :=
  .next (
    let g := s.ev.g
    let temp := sgn 8 (BitVec.ofInt 8 s.ev.temp).toNat
    let trip : Int := (bitsOf (s.hubWord 0x82100) 15 8 : Nat)
    let old := s.tile g
    let k := s.acCycles g / 65536
    if old.tempAt = k then s
    else
    let hot : Bool := if bitOf (s.hubWord 0x82100) 16 then decide (old.lvl < 8) && decide (8 ≤ s.levelFor temp)
      else decide (old.temp < trip) && decide (trip ≤ temp)
    let s := s.updTile g (fun t => { t with temp := temp, lvl := s.levelFor temp, tempAt := k })
    if hot then s.post 0 (eventRec 7 0 0 0 (BitVec.ofNat 64 (placeWord g)) 0 0) else s)

/-- POWER_AVERAGE_UPDATE (R420): the package has drawn `x` watts over the last 2^20 hub cycles; there is one average for each such window. -/
def execPowerAverageUpdate (s : State) : Host.Outcome State Fault Refusal :=
  .next (if s.wattsAt = s.cycles 1006 / 2 ^ 20 then s else { s with watts := s.ev.x % 65536, wattsAt := s.cycles 1006 / 2 ^ 20 })

/-! Reset and readiness (R410, R411). -/

/-- The firmware image is verified (R411): the hash of its public key, then its signature. -/
def firmwareOk (image : List Byte) : Bool :=
  let key := (image.drop 32).take 32
  let n := image.length - 7856
  decide (64 + 7856 ≤ image.length) && sha256 key == Config.fusedHash && Slh.verify key (image.take n) (image.drop n)

/-- DEVICE_RESET (R411): every register is as at reset and memory keeps what was last written, under the keys it was written with; a verified image
sets m0 and boot. -/
def execDeviceReset (s : State) : Host.Outcome State Fault Refusal :=
  .next (
    let image := s.ev.body
    let t : State := { State.reset with
      agenda := s.agenda, tick := s.tick, now := s.now, resetAt := s.tick, free := s.free, nextId := s.nextId, mem := s.mem, blockWord := s.blockWord
      bad := s.bad, keyed := s.keyed, ckpts := s.ckpts }
    if firmwareOk image then
      { t with meas := [(0, sha256 (image.take (image.length - 7856)))], ready0 := 2 }
    else t)

/-- FUNCTION_READY (R410): function `e` comes into service: bits 0 to 56 of word 0, and vault v at 64 + v. No hall core starts before boot,
which the boot ROM alone sets, and what a lasting fault took out of service stays out, as does a link that is down until it is retrained (R423). A link
port is then trained (R384). -/
def execFunctionReady (s : State) : Host.Outcome State Fault Refusal :=
  .next (
    let e := s.ev.e
    if s.dead.contains e ∨ e = 1 ∨ (2 ≤ e ∧ e < 18 ∧ !s.ready0.getLsbD 1) ∨ (38 ≤ e ∧ e < 54 ∧ (s.link (e - 38)).down) then s
    else if e < 57 then
      let s := { s with ready0 := s.ready0 ||| BitVec.ofNat 64 (2 ^ e) }
      if 38 ≤ e ∧ e < 54 then s.updLink (e - 38) (fun l => { l with rdy := true }) else s
    else if 64 ≤ e ∧ e < 128 then { s with ready1 := s.ready1 ||| BitVec.ofNat 64 (2 ^ (e - 64)) }
    else s)

/-! Measurements, reports and keys (R412, R413). -/

/-- A measurement. -/
def State.measure (s : State) (k : Nat) : List Byte := NMap.get s.meas k (List.replicate 32 0)

/-- MEASUREMENT_EXTEND (R412): a write of `e` to 0x8_0420 extends that measurement; m0 cannot be extended. -/
def execMeasurementExtend (s : State) : Host.Outcome State Fault Refusal :=
  .next (
    let k := s.ev.e
    let buf := bytesOfWords ((List.range 4).map (fun j => s.hubWord (0x80400 + 8 * j)))
    if k = 0 ∨ 7 < k ∨ !s.hallUp then s else { s with meas := NMap.set s.meas k (sha256 (s.measure k ++ buf)) })

/-- REPORT_REQUEST (R412): a write of address `w0` starts a report under the nonce written. -/
def execReportRequest (s : State) : Host.Outcome State Fault Refusal :=
  .next (
    if s.repBusy ∨ !s.hallUp then s
    else { s with repBusy := true, repAddr := s.ev.w0, repNonce := bytesOfWords ((List.range 4).map (fun j => s.hubWord (0x80460 + 8 * j))) })

/-- The content of a report (R412): 352 bytes. -/
def State.report (s : State) : List Byte :=
  let pad (n : Nat) (l : List Byte) : List Byte := (l ++ List.replicate n 0).take n
  bytesOfNat 4 0x52545431 ++ bytesOfNat 2 1 ++ bytesOfNat 2 Config.deviceRevision.toNat ++ bytesOfNat 1 s.chip ++ List.replicate 7 0 ++
    pad 32 Slh.idKey ++ pad 32 s.repNonce ++ (List.range 8).flatMap (fun k => pad 32 (s.measure k)) ++ bytesOfNat 8 (s.repCount + 1) ++
    List.replicate 8 0

/-- REPORT_WRITTEN (R412): the report, signed under the identity key, is in memory, and busy clears; where memory does not answer it is not written, and
busy stays. The random bytes of the signature are free values. -/
def execReportWritten (s : State) : Host.Outcome State Fault Refusal :=
  .next (
    let pa := bitsOf s.repAddr 51 6 * 64
    if !s.repBusy ∨ !s.reachable (redirect s.migs pa) ∨ !s.reachable (redirect s.migs (pa + 8207)) then s
    else
      let c := s.report
      let (v, s) := s.takeFree
      let (w, s) := s.takeFree
      let s := s.writeBlocks pa (c ++ Slh.sign Slh.seed c (bytesOfWords [v, w]))
      { s with repBusy := false, repCount := s.repCount + 1 })

/-- An access under a key slot has performed some of its parts and not others: its slot keeps its key meanwhile (R413). -/
def State.midAccess (s : State) (k : Nat) : Bool := s.reqs.any (fun r => r.pieces.any (fun p => p.key == some k && p.done) && r.pieces.any (fun p => p.key == some k && !p.done))

/-- KEY_INSTALL (R413): a write of `w0` to 0x8_0540 installs the key written, or invalidates the slot, between accesses. -/
def execKeyInstall (s : State) : Host.Outcome State Fault Refusal :=
  .next (
    let k := bitsOf s.ev.w0 9 0
    let key := (List.range 8).map (fun j => s.hubWord (0x80500 + 8 * j))
    if !s.hallUp ∨ s.midAccess k then s
    else if bitOf s.ev.w0 63 then { s with keys := NMap.set s.keys k key }
    else { s with keys := NMap.erase s.keys k })

/-! The debug access block (R386). -/

/-- The physical addresses of the bytes of a debug access in `mem`, with their key slots, or its cause. An entry of the page table in a block in error is
a machine check (R408). -/
def State.dbgMem (s : State) (g : Nat) (r : Region) (need sk : Nat) : Nat → Nat → Except Nat (List (Nat × Option Nat)) × State
  | 0, _ => (.ok [], s)
  | n + 1, va =>
    match s.translate g r.tenant r.root (va % 2 ^ 56) need false with
    | (.ok l, s) =>
      if kindBad sk l.kind then (.error 0x27, s)
      else if !s.paOk (l.pa va) l.key then (.error 0x21, s)
      else
        (match s.dbgMem g r need sk n (va + 1) with
         | (.ok ps, s) => (.ok ((l.pa va, some l.key) :: ps), s)
         | q => q)
    | (.denied, s) => (.error 0x25, s)
    | (.fault _ _ _, s) => (.error 0x21, s)
    | (.bad pa, s) => (.error 0x21, s.memCheck r.tenant ((s.tile g).lastInst.getD 0) pa)
    | (.dead, s) => (.error 0x21, s)

/-- Where the bytes of a debug access lie: scratchpad offset, or physical addresses; or the cause. A probe names the aligned word, as `sprb` does (R252). -/
def State.dbgPlace (s : State) (g : Nat) (r : Region) (sp off n : Nat) (wr probe : Bool) : Except Nat (Option Nat × List (Nat × Option Nat)) × State :=
  let sk := if probe then 1 else 0
  let off := if probe then off / 8 * 8 else off
  if sp < 3 then
    (if 0x40000 < off + n then .error 0x21 else if probe then .error 0x27 else .ok (some (sp * 0x40000 + off), []), s)
  else if sp = 3 then
    let pa := vaultAddr (vaultOfTile g) + off
    (if 0x4000000 < off + n then .error 0x21
     else if off < r.vbase ∨ r.vbase + r.vsize < off + n then .error 0x26
     else if kindBad sk r.vkind then .error 0x27
     else if !s.paOk pa 0 then .error 0x21
     else .ok (none, (List.range n).map (fun k => (pa + k, none))), s)
  else if sp = 4 then
    match s.dbgMem g r (if wr then 2 else 1) sk n off with
    | (.ok ps, s) => (.ok (none, ps), s)
    | (.error c, s) => (.error c, s)
  else (.error 0x21, s)

/-- End a debug access. -/
def State.dbgEnd (s : State) (cause : Nat) (data : Word) (st : Nat) : State :=
  { s with dbgBusy := false, dbgCause := cause, dbgData := data, dbgState := st }

/-- A debug access that the spec gives no outcome for ends with a free cause and free data. -/
def State.dbgFree (s : State) : State :=
  let (v, s) := s.takeFree
  let (w, s) := s.takeFree
  s.dbgEnd (v.toNat % 256) w s.dbgState

/-- Perform the debug access that words 0 to 2 describe, as an access of the region's own under its key slots (R99, R113). `arc` 6: a word read cannot be
corrected (R408). -/
def State.dbgRun (s : State) : State :=
  let w := s.hubWord 0x80200
  let off := bitsOf (s.hubWord 0x80208) 55 0
  let g := 48 * bitsOf w 2 0 + bitsOf w 8 3
  let n := 2 ^ bitsOf w 17 16
  let wr := bitOf w 18
  let probe := bitOf w 19
  if 48 ≤ bitsOf w 8 3 then s.dbgEnd 0x21 s.dbgData s.dbgState
  else
    match (s.tile g).lastInst.bind (NMap.find s.regions) with
    | none => s.dbgEnd 0x21 s.dbgData s.dbgState
    | some r =>
      if !r.dbg then s.dbgEnd 0x25 s.dbgData s.dbgState
      else if probe ∧ (wr ∨ n ≠ 8) then s.dbgFree
      else
        match s.dbgPlace g r (bitsOf w 15 12) off n wr probe with
        | (.error c, s) => s.dbgEnd c s.dbgData s.dbgState
        | (.ok (some o, _), s) =>
          if wr then (s.writeSp g o n (s.dbgData.toNat % 256 ^ n)).dbgEnd 0 s.dbgData s.dbgState
          else s.dbgEnd 0 (BitVec.ofNat 64 (s.readSp g o n)) s.dbgState
        | (.ok (none, ps), s) =>
          if !wr ∧ (s.ev.arc = 6 ∨ ps.any (fun x => s.badBlock (.phys x.1))) then
            let pa := ((ps.find? (fun x => s.badBlock (.phys x.1))).getD (ps.headD (0, none))).1
            (s.dataError (Req.blank 0 0 r.tenant (.porter g) .load) pa).dbgFree
          else if probe then
            let (pa, key) := ps.headD (0, none)
            let st := s.presence (redirect s.migs pa)
            if st = 3 then (s.dataError (Req.blank 0 0 r.tenant (.porter g) .load) pa).dbgFree
            else s.dbgEnd 0 (if st = 1 then BitVec.ofNat 64 (s.readUnder (redirect s.migs pa) 8 key) else 0) st
          else if wr then
            (ps.zipIdx.foldl (fun s (x : (Nat × Option Nat) × Nat) => (s.putPa x.1.1 1 (s.dbgData.toNat / 256 ^ x.2 % 256) x.1.2).afterWrite x.1.1) s).dbgEnd 0 s.dbgData s.dbgState
          else s.dbgEnd 0 (BitVec.ofNat 64 (ps.foldr (fun x v => s.readUnder (redirect s.migs x.1) 1 x.2 + 256 * v) 0)) s.dbgState

/-- DEBUG_ACCESS_GO (R386): a hall core writes words 0 to 2 with go set, or, with `flag`, the device performs the request in progress. -/
def execDebugAccessGo (s : State) : Host.Outcome State Fault Refusal :=
  .next (
    if s.ev.flag then (if s.dbgBusy then s.dbgRun else s)
    else if s.dbgBusy ∨ !bitOf s.ev.w0 63 ∨ !s.hallUp then s
    else
      { (s.setHub 0x80200 (s.ev.w0 &&& hubMask 0x80200)).setHub 0x80208 (s.ev.w1 &&& bits 55 0) with dbgBusy := true, dbgData := s.ev.w2 })

end Sys2Proof.Machine
end

