-- ==== Sys2Proof/Machine/FloatOps.lean ====
section
/-! DEFINITION. Float instructions 0x30 to 0x3F (R202, R203). -/

namespace Sys2Proof.Machine

/-- A comparison of FP32 values as an integer lane (R203). -/
def fcmp (p : FVal → FVal → Bool) (a b : Lane) : Lane := if p (val32 a) (val32 b) then 1 else 0

/-- `fadd` (R202). -/
def execFadd (f : Fields) (s : State) : Host.Outcome State Fault Refusal :=
  .next (runCompute (.iFadd f) f s (flt3 fun a b _ => f32add a b))

/-- `fsub` (R202). -/
def execFsub (f : Fields) (s : State) : Host.Outcome State Fault Refusal :=
  .next (runCompute (.iFsub f) f s (flt3 fun a b _ => f32sub a b))

/-- `fmul` (R202). -/
def execFmul (f : Fields) (s : State) : Host.Outcome State Fault Refusal :=
  .next (runCompute (.iFmul f) f s (flt3 fun a b _ => f32mul a b))

/-- `fma` (R202). -/
def execFma (f : Fields) (s : State) : Host.Outcome State Fault Refusal :=
  .next (runCompute (.iFma f) f s (flt3 fun a b c => f32fma a b c))

/-- `fms` (R202). -/
def execFms (f : Fields) (s : State) : Host.Outcome State Fault Refusal :=
  .next (runCompute (.iFms f) f s (flt3 fun a b c => f32fms a b c))

/-- `fnma` (R202). -/
def execFnma (f : Fields) (s : State) : Host.Outcome State Fault Refusal :=
  .next (runCompute (.iFnma f) f s (flt3 fun a b c => f32fnma a b c))

/-- `fmin` (R203). -/
def execFmin (f : Fields) (s : State) : Host.Outcome State Fault Refusal :=
  .next (runCompute (.iFmin f) f s (flt3 fun a b _ => f32min a b))

/-- `fmax` (R203). -/
def execFmax (f : Fields) (s : State) : Host.Outcome State Fault Refusal :=
  .next (runCompute (.iFmax f) f s (flt3 fun a b _ => f32max a b))

/-- `fabs` (R202). -/
def execFabs (f : Fields) (s : State) : Host.Outcome State Fault Refusal :=
  .next (runCompute (.iFabs f) f s (flt3 fun a _ _ => f32abs a))

/-- `fneg` (R202). -/
def execFneg (f : Fields) (s : State) : Host.Outcome State Fault Refusal :=
  .next (runCompute (.iFneg f) f s (flt3 fun a _ _ => f32neg a))

/-- `feq` (R203). -/
def execFeq (f : Fields) (s : State) : Host.Outcome State Fault Refusal :=
  .next (runCompute (.iFeq f) f s (flt3 fun a b _ => fcmp FVal.eq a b))

/-- `flt` (R203). -/
def execFlt (f : Fields) (s : State) : Host.Outcome State Fault Refusal :=
  .next (runCompute (.iFlt f) f s (flt3 fun a b _ => fcmp FVal.lt a b))

/-- `fle` (R203). -/
def execFle (f : Fields) (s : State) : Host.Outcome State Fault Refusal :=
  .next (runCompute (.iFle f) f s (flt3 fun a b _ => fcmp (fun x y => FVal.lt x y || FVal.eq x y) a b))

/-- `fclass` (R203). -/
def execFclass (f : Fields) (s : State) : Host.Outcome State Fault Refusal :=
  .next (runCompute (.iFclass f) f s (flt3 fun a _ _ => f32class a))

/-- `fdiv` (R202). -/
def execFdiv (f : Fields) (s : State) : Host.Outcome State Fault Refusal :=
  .next (runCompute (.iFdiv f) f s (flt3 fun a b _ => f32div a b))

/-- `fsqrt` (R202). -/
def execFsqrt (f : Fields) (s : State) : Host.Outcome State Fault Refusal :=
  .next (runCompute (.iFsqrt f) f s (flt3 fun a _ _ => f32sqrt a))

end Sys2Proof.Machine
end

