-- ==== Sys2Proof/Machine/Integer.lean ====
section
/-! DEFINITION. Integer instructions 0x01 to 0x0F and `nop` (R198, R199). -/

namespace Sys2Proof.Machine

/-- Signed quotient truncated toward zero; all ones on division by zero (R199). -/
def divS {w : Nat} (a b : BitVec w) : BitVec w := if b = 0 then BitVec.allOnes w else a.sdiv b
/-- Unsigned quotient (R199). -/
def divU {w : Nat} (a b : BitVec w) : BitVec w := if b = 0 then BitVec.allOnes w else a / b
/-- Signed remainder with the sign of a (R199). -/
def remS {w : Nat} (a b : BitVec w) : BitVec w := if b = 0 then a else a.srem b
/-- Unsigned remainder (R199). -/
def remU {w : Nat} (a b : BitVec w) : BitVec w := if b = 0 then a else a % b
/-- High half of the signed product (R198). -/
def mulHi {w : Nat} (a b : BitVec w) : BitVec w := BitVec.ofInt w (a.toInt * b.toInt / (2 ^ w : Nat))
/-- High half of the unsigned product (R198). -/
def mulHiU {w : Nat} (a b : BitVec w) : BitVec w := BitVec.ofNat w (a.toNat * b.toNat / 2 ^ w)

/-- `nop` (R198): it takes its sources and emits nothing. -/
def execNop (f : Fields) (s : State) : Host.Outcome State Fault Refusal :=
  .next (match s.site with
    | .task _ _ _ =>
      match beginTask (.iNop f) f s noBad with
      | .stop s => s
      | .go t => s.retire t t.x.advance
    | .elem _ _ => runElem (.iNop f) s (fun _ => false) (fun s _ _ _ _ _ _ _ => .ok (s, [])))

/-- `add` (R198). -/
def execAdd (f : Fields) (s : State) : Host.Outcome State Fault Refusal :=
  .next (runCompute (.iAdd f) f s (pure3 fun _ a b _ => a + b))

/-- `sub` (R198). -/
def execSub (f : Fields) (s : State) : Host.Outcome State Fault Refusal :=
  .next (runCompute (.iSub f) f s (pure3 fun _ a b _ => a - b))

/-- `mul` (R198). -/
def execMul (f : Fields) (s : State) : Host.Outcome State Fault Refusal :=
  .next (runCompute (.iMul f) f s (pure3 fun _ a b _ => a * b))

/-- `mulh` (R198). -/
def execMulh (f : Fields) (s : State) : Host.Outcome State Fault Refusal :=
  .next (runCompute (.iMulh f) f s (pure3 fun _ a b _ => mulHi a b))

/-- `mulhu` (R198). -/
def execMulhu (f : Fields) (s : State) : Host.Outcome State Fault Refusal :=
  .next (runCompute (.iMulhu f) f s (pure3 fun _ a b _ => mulHiU a b))

/-- `div` (R198, R199). -/
def execDiv (f : Fields) (s : State) : Host.Outcome State Fault Refusal :=
  .next (runCompute (.iDiv f) f s (pure3 fun _ a b _ => divS a b))

/-- `divu` (R198, R199). -/
def execDivu (f : Fields) (s : State) : Host.Outcome State Fault Refusal :=
  .next (runCompute (.iDivu f) f s (pure3 fun _ a b _ => divU a b))

/-- `rem` (R198, R199). -/
def execRem (f : Fields) (s : State) : Host.Outcome State Fault Refusal :=
  .next (runCompute (.iRem f) f s (pure3 fun _ a b _ => remS a b))

/-- `remu` (R198, R199). -/
def execRemu (f : Fields) (s : State) : Host.Outcome State Fault Refusal :=
  .next (runCompute (.iRemu f) f s (pure3 fun _ a b _ => remU a b))

/-- `neg` (R198). -/
def execNeg (f : Fields) (s : State) : Host.Outcome State Fault Refusal :=
  .next (runCompute (.iNeg f) f s (pure3 fun _ a _ _ => 0 - a))

/-- `abs` (R198): the minimum wraps to itself. -/
def execAbs (f : Fields) (s : State) : Host.Outcome State Fault Refusal :=
  .next (runCompute (.iAbs f) f s (pure3 fun _ a _ _ => if a.msb then 0 - a else a))

/-- `adds` (R198). -/
def execAdds (f : Fields) (s : State) : Host.Outcome State Fault Refusal :=
  .next (runCompute (.iAdds f) f s (pure3 fun w a b _ => satSum w (a.toInt + b.toInt)))

/-- `subs` (R198). -/
def execSubs (f : Fields) (s : State) : Host.Outcome State Fault Refusal :=
  .next (runCompute (.iSubs f) f s (pure3 fun w a b _ => satSum w (a.toInt - b.toInt)))

/-- `mad` (R198). -/
def execMad (f : Fields) (s : State) : Host.Outcome State Fault Refusal :=
  .next (runCompute (.iMad f) f s (pure3 fun _ a b c => a * b + c))

/-- `lea` (R198). -/
def execLea (f : Fields) (s : State) : Host.Outcome State Fault Refusal :=
  .next (runCompute (.iLea f) f s (pure3 fun w a b _ => a + b * BitVec.ofNat w (w / 8)))

end Sys2Proof.Machine
end

