-- ==== Sys2Proof/Machine/Logic.lean ====
section
/-! DEFINITION. Logic and bit instructions 0x10 to 0x1F (R200). -/

namespace Sys2Proof.Machine

/-- A shift count: b mod W (R200). -/
def shCount {w : Nat} (b : BitVec w) : Nat := b.toNat % w
/-- Zeros below bit `k` upward, at most `n` bits seen. -/
def trailZ (x : Nat) : Nat → Nat
  | 0 => 0
  | n + 1 => if x % 2 = 1 then 0 else trailZ (x / 2) n + 1
/-- Leading zeros of a number of `n` bits. -/
def leadZ (x : Nat) : Nat → Nat
  | 0 => 0
  | n + 1 => if x / 2 ^ n % 2 = 1 then 0 else leadZ x n + 1
/-- Low bit of a field descriptor (R200). -/
def fieldLo {w : Nat} (f : BitVec w) : Nat := f.toNat % 64
/-- The mask of a field descriptor (R200). -/
def fieldMask (w : Nat) (f : BitVec w) : BitVec w :=
  BitVec.ofNat w ((2 ^ min (f.toNat / 64 % 64 + 1) (w - fieldLo f) - 1) * 2 ^ fieldLo f)
/-- `bext` (R200). -/
def bitExt {w : Nat} (a f : BitVec w) : BitVec w := if w ≤ fieldLo f then 0 else (a &&& fieldMask w f) >>> fieldLo f
/-- `bins` (R200). -/
def bitIns {w : Nat} (a b f : BitVec w) : BitVec w :=
  if w ≤ fieldLo f then a else (a &&& ~~~(fieldMask w f)) ||| ((b <<< fieldLo f) &&& fieldMask w f)
/-- The bytes of a number of `n` bytes in opposite order (R200). -/
def byteRev (x : Nat) : Nat → Nat
  | 0 => 0
  | n + 1 => x % 256 * 256 ^ n + byteRev (x / 256) n

/-- `and` (R200). -/
def execAnd (f : Fields) (s : State) : Host.Outcome State Fault Refusal :=
  .next (runCompute (.iAnd f) f s (pure3 fun _ a b _ => a &&& b))

/-- `or` (R200). -/
def execOr (f : Fields) (s : State) : Host.Outcome State Fault Refusal :=
  .next (runCompute (.iOr f) f s (pure3 fun _ a b _ => a ||| b))

/-- `xor` (R200). -/
def execXor (f : Fields) (s : State) : Host.Outcome State Fault Refusal :=
  .next (runCompute (.iXor f) f s (pure3 fun _ a b _ => a ^^^ b))

/-- `andn` (R200). -/
def execAndn (f : Fields) (s : State) : Host.Outcome State Fault Refusal :=
  .next (runCompute (.iAndn f) f s (pure3 fun _ a b _ => a &&& ~~~b))

/-- `not` (R200). -/
def execNot (f : Fields) (s : State) : Host.Outcome State Fault Refusal :=
  .next (runCompute (.iNot f) f s (pure3 fun _ a _ _ => ~~~a))

/-- `shl` (R200). -/
def execShl (f : Fields) (s : State) : Host.Outcome State Fault Refusal :=
  .next (runCompute (.iShl f) f s (pure3 fun _ a b _ => a <<< shCount b))

/-- `shr` (R200). -/
def execShr (f : Fields) (s : State) : Host.Outcome State Fault Refusal :=
  .next (runCompute (.iShr f) f s (pure3 fun _ a b _ => a >>> shCount b))

/-- `sra` (R200). -/
def execSra (f : Fields) (s : State) : Host.Outcome State Fault Refusal :=
  .next (runCompute (.iSra f) f s (pure3 fun _ a b _ => a.sshiftRight (shCount b)))

/-- `rol` (R200). -/
def execRol (f : Fields) (s : State) : Host.Outcome State Fault Refusal :=
  .next (runCompute (.iRol f) f s (pure3 fun _ a b _ => a.rotateLeft (shCount b)))

/-- `popc` (R200). -/
def execPopc (f : Fields) (s : State) : Host.Outcome State Fault Refusal :=
  .next (runCompute (.iPopc f) f s (pure3 fun w a _ _ => BitVec.ofNat w (popcount a.toNat w)))

/-- `clz` (R200). -/
def execClz (f : Fields) (s : State) : Host.Outcome State Fault Refusal :=
  .next (runCompute (.iClz f) f s (pure3 fun w a _ _ => BitVec.ofNat w (leadZ a.toNat w)))

/-- `ctz` (R200). -/
def execCtz (f : Fields) (s : State) : Host.Outcome State Fault Refusal :=
  .next (runCompute (.iCtz f) f s (pure3 fun w a _ _ => BitVec.ofNat w (trailZ a.toNat w)))

/-- `bext` (R200). -/
def execBext (f : Fields) (s : State) : Host.Outcome State Fault Refusal :=
  .next (runCompute (.iBext f) f s (pure3 fun _ a b _ => bitExt a b))

/-- `bins` (R200). -/
def execBins (f : Fields) (s : State) : Host.Outcome State Fault Refusal :=
  .next (runCompute (.iBins f) f s (pure3 fun _ a b c => bitIns a b c))

/-- `brev` (R200). -/
def execBrev (f : Fields) (s : State) : Host.Outcome State Fault Refusal :=
  .next (runCompute (.iBrev f) f s (pure3 fun _ a _ _ => a.reverse))

/-- `bswap` (R200). -/
def execBswap (f : Fields) (s : State) : Host.Outcome State Fault Refusal :=
  .next (runCompute (.iBswap f) f s (pure3 fun w a _ _ => BitVec.ofNat w (byteRev a.toNat (w / 8))))

end Sys2Proof.Machine
end

