-- ==== Sys2Proof/Machine/Special.lean ====
section
/-! DEFINITION. Special functions 0x40 to 0x47 (R204 to R207). -/

namespace Sys2Proof.Machine

/-- The value of a control operand for lane `k`: a scalar gives all its bits (DEDUCED, log entry 26). -/
def Val.ctl (v : Val) (k : Nat) : Word := match v with | .sc w => w | .vec ls _ => (ls.getD k 0).setWidth 64

/-- The lanes of a function of a lane and a control word, or the refused control word. -/
def ctlLanes (ok : Word → Bool) (fn : Lane → Word → Lane) (a b : Val) : Nat → Nat → Except Word (List Lane)
  | 0, _ => .ok []
  | n + 1, k =>
    if ok (b.ctl k) then
      match ctlLanes ok fn a b n (k + 1) with
      | .ok l => .ok (fn (a.lane k) (b.ctl k) :: l)
      | .error v => .error v
    else .error (b.ctl k)

/-- Run an instruction of a LUT element with a control word in srcB (R205, R206): `wide` at scalar width, `fn` in a lane. -/
def runCtl (i : Instr) (s : State) (ok : Word → Bool) (wide : Elem → Word → Word → Word) (fn : Elem → Lane → Word → Lane) : State :=
  runElem i s (fun _ => false) (fun s _ _ el r a b _ =>
    if r.vec then
      match ctlLanes ok (fn el) a b r.n 0 with
      | .ok l => .ok (s, [.a ⟨.vector, r.thread, r.iter, r.n - 1, 0, l, firstIdx a b (.sc 0)⟩])
      | .error v => .error (0x40, v)
    else if ok b.scal then .ok (s, [.a (Tok.scalar r.thread r.iter (wide el a.scal b.scal))])
    else .error (0x40, b.scal))

/-- `lut.ev` (R205). -/
def execLutEv (f : Fields) (s : State) : Host.Outcome State Fault Refusal :=
  .next (runCtl (.iLutEv f) s (lutOk true) (fun el a b => (lutEv el.lut (a.setWidth 32) b).setWidth 64) (fun el a b => lutEv el.lut a b))

/-- `lut.ix` (R205). -/
def execLutIx (f : Fields) (s : State) : Host.Outcome State Fault Refusal :=
  .next (runCtl (.iLutIx f) s (lutOk false) (fun el a b => (lutIx el.lut a.toInt b).setWidth 64) (fun el a b => lutIx el.lut a.toInt b))

/-- A control word of the range reductions is legal (R206). -/
def rredOk (b : Word) : Bool := decide (b.toNat < 32) && decide (b.toNat % 16 ≤ 10)

/-- A range reduction at either width (R206): r, or n as a signed integer. -/
def runRred (i : Instr) (s : State) (fn : Lane → Nat → Lane × Int) : State :=
  runCtl i s rredOk
    (fun _ a b => let q := fn (a.setWidth 32) (b.toNat % 16); if bitOf b 4 then BitVec.ofInt 64 q.2 else q.1.setWidth 64)
    (fun _ a b => let q := fn a (b.toNat % 16); if bitOf b 4 then BitVec.ofInt 32 q.2 else q.1)

/-- `rred.exp` (R206). -/
def execRredExp (f : Fields) (s : State) : Host.Outcome State Fault Refusal := .next (runRred (.iRredExp f) s rredExp)
/-- `rred.log` (R206). -/
def execRredLog (f : Fields) (s : State) : Host.Outcome State Fault Refusal := .next (runRred (.iRredLog f) s (fun x _ => rredLog x))
/-- `rred.trig` (R206). -/
def execRredTrig (f : Fields) (s : State) : Host.Outcome State Fault Refusal := .next (runRred (.iRredTrig f) s (fun x _ => rredTrig x))

/-- `scalb` (R207): b is a signed integer of W bits. -/
def execScalb (f : Fields) (s : State) : Host.Outcome State Fault Refusal :=
  .next (runCompute (.iScalb f) f s (pure3 fun w a b _ => (f32scalb (a.setWidth 32) b.toInt).setWidth w))

/-- `frcp.e` (R207). -/
def execFrcpE (f : Fields) (s : State) : Host.Outcome State Fault Refusal :=
  .next (runCompute (.iFrcpE f) f s (flt3 fun a _ _ => f32rcpE a))

/-- `frsq.e` (R207). -/
def execFrsqE (f : Fields) (s : State) : Host.Outcome State Fault Refusal :=
  .next (runCompute (.iFrsqE f) f s (flt3 fun a _ _ => f32rsqE a))

end Sys2Proof.Machine
end

