-- ==== Sys2Proof/Machine/TaskCtl.lean ====
section
/-! DEFINITION. Task control instructions 0x80 to 0x8F (R230 to R234). -/

namespace Sys2Proof.Machine

/-- A target beyond the store of the context's mode: cause 0x0A (R230, R231). -/
def badTarget (x : Ctx) (n : Nat) : Nat := if (if x.steward then 256 else 2048) ≤ n then 0x0A else 0

/-- The target slot of a branch literal (R188). -/
def branchSlot (s : State) : Nat :=
  match s.site with
  | .task g p c => bitsOf (s.litAt g p (s.ctx g p c)) 10 0
  | .elem _ _ => 0

/-- A branch (R230): taken where `cond` holds of srcA and dstA. -/
def runBranch (i : Instr) (f : Fields) (s : State) (cond : Word → Word → Bool) : State :=
  match beginTask i f s (fun x _ _ => badTarget x (branchSlot s)) with
  | .stop s => s
  | .go t => s.retire t (if cond t.a t.d then t.x.jump (BitVec.ofNat 11 (bitsOf t.lit 10 0)) else t.x.advance)

/-- `br` (R230). -/
def execBr (f : Fields) (s : State) : Host.Outcome State Fault Refusal := .next (runBranch (.iBr f) f s (fun _ _ => true))
/-- `bz` (R230). -/
def execBz (f : Fields) (s : State) : Host.Outcome State Fault Refusal := .next (runBranch (.iBz f) f s (fun a _ => a == 0))
/-- `bnz` (R230). -/
def execBnz (f : Fields) (s : State) : Host.Outcome State Fault Refusal := .next (runBranch (.iBnz f) f s (fun a _ => a != 0))
/-- `blt` (R230). -/
def execBlt (f : Fields) (s : State) : Host.Outcome State Fault Refusal := .next (runBranch (.iBlt f) f s (fun a b => a.slt b))
/-- `bge` (R230). -/
def execBge (f : Fields) (s : State) : Host.Outcome State Fault Refusal := .next (runBranch (.iBge f) f s (fun a b => !a.slt b))
/-- `bltu` (R230). -/
def execBltu (f : Fields) (s : State) : Host.Outcome State Fault Refusal := .next (runBranch (.iBltu f) f s (fun a b => a.ult b))
/-- `bgeu` (R230). -/
def execBgeu (f : Fields) (s : State) : Host.Outcome State Fault Refusal := .next (runBranch (.iBgeu f) f s (fun a b => !a.ult b))

/-- The return slot pc + 1 as a register takes it: exact, not wrapped to the width of the pc (R231). -/
def Ctx.link (x : Ctx) : Word := BitVec.ofNat 64 (x.pc.toNat + 1)

/-- `call` (R231). -/
def execCall (f : Fields) (s : State) : Host.Outcome State Fault Refusal :=
  .next (match beginTask (.iCall f) f s (fun x _ _ => badTarget x (branchSlot s)) with
    | .stop s => s
    | .go t => s.retire t ((t.x.write 23 t.x.link).jump (BitVec.ofNat 11 (bitsOf t.lit 10 0))))

/-- `ret` (R231): the pc takes s23. -/
def execRet (f : Fields) (s : State) : Host.Outcome State Fault Refusal :=
  .next (match beginTask (.iRet f) f s (fun x _ _ => badTarget x (x.src 0 23).toNat) with
    | .stop s => s
    | .go t => s.retire t (t.x.jump ((t.x.src 0 23).setWidth 11)))

/-- `jr` (R231): srcA is read before dstA takes the return slot. -/
def execJr (f : Fields) (s : State) : Host.Outcome State Fault Refusal :=
  .next (match beginTask (.iJr f) f s (fun x a _ => badTarget x a.toNat) with
    | .stop s => s
    | .go t => s.putThen t true t.x.link (fun x => x.jump (t.a.setWidth 11)))

/-- The end of a repeat body would exceed the store, or a repeat is active (R232). -/
def badRep (s : State) (x : Ctx) : Nat := nine (x.rpt.active || decide (2047 < x.pc.toNat + bitsOf (BitVec.ofNat 64 (branchSlot s)) 5 0 + 1))

/-- `rep` (R232). -/
def execRep (f : Fields) (s : State) : Host.Outcome State Fault Refusal :=
  .next (match beginTask (.iRep f) f s (fun x _ _ => badRep s x) with
    | .stop s => s
    | .go t =>
      let n1 := BitVec.ofNat 6 (bitsOf t.lit 5 0)
      let k : BitVec 32 := t.a.setWidth 32
      s.retire t (if k = 0 then { t.x with pc := t.x.pc + n1.setWidth 11 + 2 }
        else { t.x with rpt := ⟨k, t.x.nextPc, n1, true, k⟩, pc := t.x.nextPc }))

/-- Block until a wait's condition holds (R21, R123): an acquire waits for the agent's own earlier releases too; otherwise go on as `k` says. -/
def State.waitFor (s : State) (t : TIn) (u : Until) (k : State → State) : State :=
  if (s.tp t.g t.p).meets t.x u && !(u.acquires && s.releasing (.ctx t.g t.p t.c)) then k s else s.block t.g t.p t.c (.blkWait u)

/-- What the return of a wait on tags observes (R123, R127): the releases that set them. -/
def State.acquireTags (s : State) (t : TIn) (v : Word) : State :=
  s.acquireAt (.ctx t.g t.p t.c) 3 (fun m => match m with | .tag g p k => g == t.g && p == t.p && v.getLsbD k | _ => false)

/-- `wait` (R233, R179): each count at or below its immediate; one that brings cp or tl to 0 is an acquire (R123). -/
def execWait (f : Fields) (s : State) : Host.Outcome State Fault Refusal :=
  .next (match beginTask (.iWait f) f s noBad with
    | .stop s => s
    | .go t =>
      s.waitFor t (.counts f.a.toNat f.b.toNat f.d.toNat f.e.toNat (f.d == 0 || f.e == 0)) (fun s =>
        (s.acquireAt (.ctx t.g t.p t.c) 3 (fun m => match m with
          | .cp g p c => f.d == 0 && g == t.g && p == t.p && c == t.c
          | .tl g p c => f.e == 0 && g == t.g && p == t.p && c == t.c
          | _ => false)).retire t t.x.advance))

/-- `wtag.any` (R234, R123). -/
def execWtagAny (f : Fields) (s : State) : Host.Outcome State Fault Refusal :=
  .next (match beginTask (.iWtagAny f) f s noBad with
    | .stop s => s
    | .go t =>
      let v := (s.tp t.g t.p).cpdone &&& t.a
      s.waitFor t (.anyTag t.a) (fun s => (s.acquireTags t v).putResult t (isDup (taskShape (.iWtagAny f))) v))

/-- `wtag.all` (R234, R123). -/
def execWtagAll (f : Fields) (s : State) : Host.Outcome State Fault Refusal :=
  .next (match beginTask (.iWtagAll f) f s noBad with
    | .stop s => s
    | .go t => s.waitFor t (.allTags t.a) (fun s => (s.acquireTags t t.a).retire t t.x.advance))

/-- The lowest set bit of a word, or all ones (R234). -/
def lowestBit (v : Word) : Word :=
  match (List.range 64).find? (fun k => v.getLsbD k) with
  | some k => BitVec.ofNat 64 k
  | none => BitVec.allOnes 64

/-- `ftag` (R234). -/
def execFtag (f : Fields) (s : State) : Host.Outcome State Fault Refusal :=
  .next (match beginTask (.iFtag f) f s noBad with
    | .stop s => s
    | .go t => s.putResult t true (lowestBit ((s.tp t.g t.p).cpdone &&& t.a)))

/-- `ctag` (R234). -/
def execCtag (f : Fields) (s : State) : Host.Outcome State Fault Refusal :=
  .next (match beginTask (.iCtag f) f s noBad with
    | .stop s => s
    | .go t => (s.retire t t.x.advance).updTp t.g t.p (fun q => { q with cpdone := q.cpdone &&& ~~~t.a }))

end Sys2Proof.Machine
end

