-- ==== Sys2Proof/Machine/Dispatch.lean ====
section
/-! DEFINITION. One arm per row of the opcode table: a direct call of its meaning. -/

namespace Sys2Proof.Machine

/-- Execute one instruction. -/
def exec (i : Instr) (s : State) : Host.Outcome State Fault Refusal :=
  match i with
  | .iNop f => Sys2Proof.Machine.execNop f s
  | .iAdd f => Sys2Proof.Machine.execAdd f s
  | .iSub f => Sys2Proof.Machine.execSub f s
  | .iMul f => Sys2Proof.Machine.execMul f s
  | .iMulh f => Sys2Proof.Machine.execMulh f s
  | .iMulhu f => Sys2Proof.Machine.execMulhu f s
  | .iDiv f => Sys2Proof.Machine.execDiv f s
  | .iDivu f => Sys2Proof.Machine.execDivu f s
  | .iRem f => Sys2Proof.Machine.execRem f s
  | .iRemu f => Sys2Proof.Machine.execRemu f s
  | .iNeg f => Sys2Proof.Machine.execNeg f s
  | .iAbs f => Sys2Proof.Machine.execAbs f s
  | .iAdds f => Sys2Proof.Machine.execAdds f s
  | .iSubs f => Sys2Proof.Machine.execSubs f s
  | .iMad f => Sys2Proof.Machine.execMad f s
  | .iLea f => Sys2Proof.Machine.execLea f s
  | .iAnd f => Sys2Proof.Machine.execAnd f s
  | .iOr f => Sys2Proof.Machine.execOr f s
  | .iXor f => Sys2Proof.Machine.execXor f s
  | .iAndn f => Sys2Proof.Machine.execAndn f s
  | .iNot f => Sys2Proof.Machine.execNot f s
  | .iShl f => Sys2Proof.Machine.execShl f s
  | .iShr f => Sys2Proof.Machine.execShr f s
  | .iSra f => Sys2Proof.Machine.execSra f s
  | .iRol f => Sys2Proof.Machine.execRol f s
  | .iPopc f => Sys2Proof.Machine.execPopc f s
  | .iClz f => Sys2Proof.Machine.execClz f s
  | .iCtz f => Sys2Proof.Machine.execCtz f s
  | .iBext f => Sys2Proof.Machine.execBext f s
  | .iBins f => Sys2Proof.Machine.execBins f s
  | .iBrev f => Sys2Proof.Machine.execBrev f s
  | .iBswap f => Sys2Proof.Machine.execBswap f s
  | .iMov f => Sys2Proof.Machine.execMov f s
  | .iSeq f => Sys2Proof.Machine.execSeq f s
  | .iSne f => Sys2Proof.Machine.execSne f s
  | .iSlt f => Sys2Proof.Machine.execSlt f s
  | .iSle f => Sys2Proof.Machine.execSle f s
  | .iSltu f => Sys2Proof.Machine.execSltu f s
  | .iSleu f => Sys2Proof.Machine.execSleu f s
  | .iSel f => Sys2Proof.Machine.execSel f s
  | .iMin f => Sys2Proof.Machine.execMin f s
  | .iMax f => Sys2Proof.Machine.execMax f s
  | .iMinu f => Sys2Proof.Machine.execMinu f s
  | .iMaxu f => Sys2Proof.Machine.execMaxu f s
  | .iClamp f => Sys2Proof.Machine.execClamp f s
  | .iSext f => Sys2Proof.Machine.execSext f s
  | .iZext f => Sys2Proof.Machine.execZext f s
  | .iLane f => Sys2Proof.Machine.execLane f s
  | .iFadd f => Sys2Proof.Machine.execFadd f s
  | .iFsub f => Sys2Proof.Machine.execFsub f s
  | .iFmul f => Sys2Proof.Machine.execFmul f s
  | .iFma f => Sys2Proof.Machine.execFma f s
  | .iFms f => Sys2Proof.Machine.execFms f s
  | .iFnma f => Sys2Proof.Machine.execFnma f s
  | .iFmin f => Sys2Proof.Machine.execFmin f s
  | .iFmax f => Sys2Proof.Machine.execFmax f s
  | .iFabs f => Sys2Proof.Machine.execFabs f s
  | .iFneg f => Sys2Proof.Machine.execFneg f s
  | .iFeq f => Sys2Proof.Machine.execFeq f s
  | .iFlt f => Sys2Proof.Machine.execFlt f s
  | .iFle f => Sys2Proof.Machine.execFle f s
  | .iFclass f => Sys2Proof.Machine.execFclass f s
  | .iFdiv f => Sys2Proof.Machine.execFdiv f s
  | .iFsqrt f => Sys2Proof.Machine.execFsqrt f s
  | .iLutEv f => Sys2Proof.Machine.execLutEv f s
  | .iLutIx f => Sys2Proof.Machine.execLutIx f s
  | .iRredExp f => Sys2Proof.Machine.execRredExp f s
  | .iRredLog f => Sys2Proof.Machine.execRredLog f s
  | .iRredTrig f => Sys2Proof.Machine.execRredTrig f s
  | .iScalb f => Sys2Proof.Machine.execScalb f s
  | .iFrcpE f => Sys2Proof.Machine.execFrcpE f s
  | .iFrsqE f => Sys2Proof.Machine.execFrsqE f s
  | .iCvt f => Sys2Proof.Machine.execCvt f s
  | .iCvtSr f => Sys2Proof.Machine.execCvtSr f s
  | .iCvtfI f => Sys2Proof.Machine.execCvtfI f s
  | .iCvtiF f => Sys2Proof.Machine.execCvtiF f s
  | .iPack f => Sys2Proof.Machine.execPack f s
  | .iUnpack f => Sys2Proof.Machine.execUnpack f s
  | .iBscale f => Sys2Proof.Machine.execBscale f s
  | .iMkdesc f => Sys2Proof.Machine.execMkdesc f s
  | .iAmax f => Sys2Proof.Machine.execAmax f s
  | .iVsum f => Sys2Proof.Machine.execVsum f s
  | .iVmax f => Sys2Proof.Machine.execVmax f s
  | .iVmin f => Sys2Proof.Machine.execVmin f s
  | .iVscan f => Sys2Proof.Machine.execVscan f s
  | .iVperm f => Sys2Proof.Machine.execVperm f s
  | .iVsplat f => Sys2Proof.Machine.execVsplat f s
  | .iVslide f => Sys2Proof.Machine.execVslide f s
  | .iVext f => Sys2Proof.Machine.execVext f s
  | .iVins f => Sys2Proof.Machine.execVins f s
  | .iFilt f => Sys2Proof.Machine.execFilt f s
  | .iCmpct f => Sys2Proof.Machine.execCmpct f s
  | .iSplit f => Sys2Proof.Machine.execSplit f s
  | .iCat f => Sys2Proof.Machine.execCat f s
  | .iVcnt f => Sys2Proof.Machine.execVcnt f s
  | .iArgmx f => Sys2Proof.Machine.execArgmx f s
  | .iSteer f => Sys2Proof.Machine.execSteer f s
  | .iMerge f => Sys2Proof.Machine.execMerge f s
  | .iGate f => Sys2Proof.Machine.execGate f s
  | .iJoin f => Sys2Proof.Machine.execJoin f s
  | .iReord f => Sys2Proof.Machine.execReord f s
  | .iSink f => Sys2Proof.Machine.execSink f s
  | .iEor f => Sys2Proof.Machine.execEor f s
  | .iItgen f => Sys2Proof.Machine.execItgen f s
  | .iCmpfw f => Sys2Proof.Machine.execCmpfw f s
  | .iTopkRp f => Sys2Proof.Machine.execTopkRp f s
  | .iRnorm f => Sys2Proof.Machine.execRnorm f s
  | .iTagset f => Sys2Proof.Machine.execTagset f s
  | .iCtlOut f => Sys2Proof.Machine.execCtlOut f s
  | .iCtlWt f => Sys2Proof.Machine.execCtlWt f s
  | .iErrMk f => Sys2Proof.Machine.execErrMk f s
  | .iFin f => Sys2Proof.Machine.execFin f s
  | .iBr f => Sys2Proof.Machine.execBr f s
  | .iBz f => Sys2Proof.Machine.execBz f s
  | .iBnz f => Sys2Proof.Machine.execBnz f s
  | .iBlt f => Sys2Proof.Machine.execBlt f s
  | .iBge f => Sys2Proof.Machine.execBge f s
  | .iBltu f => Sys2Proof.Machine.execBltu f s
  | .iBgeu f => Sys2Proof.Machine.execBgeu f s
  | .iCall f => Sys2Proof.Machine.execCall f s
  | .iRet f => Sys2Proof.Machine.execRet f s
  | .iJr f => Sys2Proof.Machine.execJr f s
  | .iWait f => Sys2Proof.Machine.execWait f s
  | .iWtagAny f => Sys2Proof.Machine.execWtagAny f s
  | .iWtagAll f => Sys2Proof.Machine.execWtagAll f s
  | .iFtag f => Sys2Proof.Machine.execFtag f s
  | .iCtag f => Sys2Proof.Machine.execCtag f s
  | .iRep f => Sys2Proof.Machine.execRep f s
  | .iLdB f => Sys2Proof.Machine.execLdB f s
  | .iLdH f => Sys2Proof.Machine.execLdH f s
  | .iLdW f => Sys2Proof.Machine.execLdW f s
  | .iLdD f => Sys2Proof.Machine.execLdD f s
  | .iStB f => Sys2Proof.Machine.execStB f s
  | .iStH f => Sys2Proof.Machine.execStH f s
  | .iStW f => Sys2Proof.Machine.execStW f s
  | .iStD f => Sys2Proof.Machine.execStD f s
  | .iVld f => Sys2Proof.Machine.execVld f s
  | .iVst f => Sys2Proof.Machine.execVst f s
  | .iLdt f => Sys2Proof.Machine.execLdt f s
  | .iSts f => Sys2Proof.Machine.execSts f s
  | .iGld f => Sys2Proof.Machine.execGld f s
  | .iSst f => Sys2Proof.Machine.execSst f s
  | .iLdAcq f => Sys2Proof.Machine.execLdAcq f s
  | .iStRel f => Sys2Proof.Machine.execStRel f s
  | .iAmoAdd f => Sys2Proof.Machine.execAmoAdd f s
  | .iAmoAnd f => Sys2Proof.Machine.execAmoAnd f s
  | .iAmoOr f => Sys2Proof.Machine.execAmoOr f s
  | .iAmoXor f => Sys2Proof.Machine.execAmoXor f s
  | .iAmoMin f => Sys2Proof.Machine.execAmoMin f s
  | .iAmoMax f => Sys2Proof.Machine.execAmoMax f s
  | .iAmoSwp f => Sys2Proof.Machine.execAmoSwp f s
  | .iAmoCas f => Sys2Proof.Machine.execAmoCas f s
  | .iCmb f => Sys2Proof.Machine.execCmb f s
  | .iCmbF f => Sys2Proof.Machine.execCmbF f s
  | .iSrd f => Sys2Proof.Machine.execSrd f s
  | .iSwr f => Sys2Proof.Machine.execSwr f s
  | .iSclr f => Sys2Proof.Machine.execSclr f s
  | .iSprb f => Sys2Proof.Machine.execSprb f s
  | .iFence f => Sys2Proof.Machine.execFence f s
  | .iBar f => Sys2Proof.Machine.execBar f s
  | .iCp f => Sys2Proof.Machine.execCp f s
  | .iCp2 f => Sys2Proof.Machine.execCp2 f s
  | .iCpg f => Sys2Proof.Machine.execCpg f s
  | .iCps f => Sys2Proof.Machine.execCps f s
  | .iPlf f => Sys2Proof.Machine.execPlf f s
  | .iXlt f => Sys2Proof.Machine.execXlt f s
  | .iXinv f => Sys2Proof.Machine.execXinv f s
  | .iWinChk f => Sys2Proof.Machine.execWinChk f s
  | .iBmcInv f => Sys2Proof.Machine.execBmcInv f s
  | .iMig f => Sys2Proof.Machine.execMig f s
  | .iTriad f => Sys2Proof.Machine.execTriad f s
  | .iThold f => Sys2Proof.Machine.execThold f s
  | .iTdrain f => Sys2Proof.Machine.execTdrain f s
  | .iTzero f => Sys2Proof.Machine.execTzero f s
  | .iTacc f => Sys2Proof.Machine.execTacc f s
  | .iTcomb f => Sys2Proof.Machine.execTcomb f s
  | .iTstat f => Sys2Proof.Machine.execTstat f s
  | .iTabort f => Sys2Proof.Machine.execTabort f s
  | .iTrag f => Sys2Proof.Machine.execTrag f s
  | .iTscl f => Sys2Proof.Machine.execTscl f s
  | .iTpri f => Sys2Proof.Machine.execTpri f s
  | .iSkInit f => Sys2Proof.Machine.execSkInit f s
  | .iSkAdd f => Sys2Proof.Machine.execSkAdd f s
  | .iSkQry f => Sys2Proof.Machine.execSkQry f s
  | .iSkMerge f => Sys2Proof.Machine.execSkMerge f s
  | .iSkScale f => Sys2Proof.Machine.execSkScale f s
  | .iSkClr f => Sys2Proof.Machine.execSkClr f s
  | .iSkRd f => Sys2Proof.Machine.execSkRd f s
  | .iSkStat f => Sys2Proof.Machine.execSkStat f s
  | .iRtCnt f => Sys2Proof.Machine.execRtCnt f s
  | .iRtSnap f => Sys2Proof.Machine.execRtSnap f s
  | .iRsort f => Sys2Proof.Machine.execRsort f s
  | .iRtMap f => Sys2Proof.Machine.execRtMap f s
  | .iTndCall f => Sys2Proof.Machine.execTndCall f s
  | .iTndWd f => Sys2Proof.Machine.execTndWd f s
  | .iTndCost f => Sys2Proof.Machine.execTndCost f s
  | .iTndSt f => Sys2Proof.Machine.execTndSt f s
  | .iJobSpawn f => Sys2Proof.Machine.execJobSpawn f s
  | .iJobJoin f => Sys2Proof.Machine.execJobJoin f s
  | .iDone f => Sys2Proof.Machine.execDone f s
  | .iSig f => Sys2Proof.Machine.execSig f s
  | .iRngSeed f => Sys2Proof.Machine.execRngSeed f s
  | .iRng f => Sys2Proof.Machine.execRng f s
  | .iShfGo f => Sys2Proof.Machine.execShfGo f s
  | .iShfFb f => Sys2Proof.Machine.execShfFb f s
  | .iHoldIns f => Sys2Proof.Machine.execHoldIns f s
  | .iHoldDrop f => Sys2Proof.Machine.execHoldDrop f s
  | .iHoldQ f => Sys2Proof.Machine.execHoldQ f s
  | .iTrap f => Sys2Proof.Machine.execTrap f s
  | .iEret f => Sys2Proof.Machine.execEret f s
  | .iCtlRd f => Sys2Proof.Machine.execCtlRd f s
  | .iCtlWr f => Sys2Proof.Machine.execCtlWr f s
  | .iBrk f => Sys2Proof.Machine.execBrk f s
  | .iHalt f => Sys2Proof.Machine.execHalt f s
  | .iIdle f => Sys2Proof.Machine.execIdle f s
  | .iCntRd f => Sys2Proof.Machine.execCntRd f s
  | .iSwpPl f => Sys2Proof.Machine.execSwpPl f s
  | .iQsc f => Sys2Proof.Machine.execQsc f s
  | .iPmt f => Sys2Proof.Machine.execPmt f s
  | .iCkpt f => Sys2Proof.Machine.execCkpt f s
  | .iRstor f => Sys2Proof.Machine.execRstor f s
  | .iIdRd f => Sys2Proof.Machine.execIdRd f s
  | .iDbgX f => Sys2Proof.Machine.execDbgX f s
  | .iIll f => Sys2Proof.Machine.execIll f s
  | .eGoToken => Sys2Proof.Machine.execGoToken s
  | .eRegionLoad => Sys2Proof.Machine.execRegionLoad s
  | .eLoaderReadWithheld => Sys2Proof.Machine.execLoaderReadWithheld s
  | .eTokenArrival => Sys2Proof.Machine.execTokenArrival s
  | .eRouterHop => Sys2Proof.Machine.execRouterHop s
  | .eArcTokenDeparture => Sys2Proof.Machine.execArcTokenDeparture s
  | .eWindowTokenArrival => Sys2Proof.Machine.execWindowTokenArrival s
  | .eControlPulseArrival => Sys2Proof.Machine.execControlPulseArrival s
  | .eChannelWordArrival => Sys2Proof.Machine.execChannelWordArrival s
  | .eFiring => Sys2Proof.Machine.execFiring s
  | .eSinkTokenEntry => Sys2Proof.Machine.execSinkTokenEntry s
  | .eItgenRunEmit => Sys2Proof.Machine.execItgenRunEmit s
  | .eFinEmit => Sys2Proof.Machine.execFinEmit s
  | .eContextBreakpointTrap => Sys2Proof.Machine.execContextBreakpointTrap s
  | .eDeferredTrapTaken => Sys2Proof.Machine.execDeferredTrapTaken s
  | .eContextEnd => Sys2Proof.Machine.execContextEnd s
  | .eWatchdogExpiry => Sys2Proof.Machine.execWatchdogExpiry s
  | .eAccessAtHome => Sys2Proof.Machine.execAccessAtHome s
  | .eAccessCompletion => Sys2Proof.Machine.execAccessCompletion s
  | .eStructOpAtHome => Sys2Proof.Machine.execStructOpAtHome s
  | .eCombineContribution => Sys2Proof.Machine.execCombineContribution s
  | .eCombineQueueAdmit => Sys2Proof.Machine.execCombineQueueAdmit s
  | .eBarrierArrival => Sys2Proof.Machine.execBarrierArrival s
  | .ePorterBeatLanding => Sys2Proof.Machine.execPorterBeatLanding s
  | .eCopyLanded => Sys2Proof.Machine.execCopyLanded s
  | .eSketchOpAtUnit => Sys2Proof.Machine.execSketchOpAtUnit s
  | .eHoldingsOpAtVault => Sys2Proof.Machine.execHoldingsOpAtVault s
  | .eShuffleEntryCode => Sys2Proof.Machine.execShuffleEntryCode s
  | .eShufflePacketAdmit => Sys2Proof.Machine.execShufflePacketAdmit s
  | .ePacketDecode => Sys2Proof.Machine.execPacketDecode s
  | .eShuffleLanded => Sys2Proof.Machine.execShuffleLanded s
  | .eRouteSnapshotWrite => Sys2Proof.Machine.execRouteSnapshotWrite s
  | .eSorterRun => Sys2Proof.Machine.execSorterRun s
  | .eGeneratorRequestServe => Sys2Proof.Machine.execGeneratorRequestServe s
  | .eSequencerOpStart => Sys2Proof.Machine.execSequencerOpStart s
  | .eBreakIn => Sys2Proof.Machine.execBreakIn s
  | .eFeederSliceFetch => Sys2Proof.Machine.execFeederSliceFetch s
  | .eTriadStep => Sys2Proof.Machine.execTriadStep s
  | .eStreamResultToken => Sys2Proof.Machine.execStreamResultToken s
  | .eContractionComplete => Sys2Proof.Machine.execContractionComplete s
  | .eDrainComplete => Sys2Proof.Machine.execDrainComplete s
  | .eTaccReadServe => Sys2Proof.Machine.execTaccReadServe s
  | .eRaggedRowToken => Sys2Proof.Machine.execRaggedRowToken s
  | .eRaggedPass => Sys2Proof.Machine.execRaggedPass s
  | .eRaggedEndToken => Sys2Proof.Machine.execRaggedEndToken s
  | .eRaggedClose => Sys2Proof.Machine.execRaggedClose s
  | .eTabortRun => Sys2Proof.Machine.execTabortRun s
  | .ePlaneFillComplete => Sys2Proof.Machine.execPlaneFillComplete s
  | .eTranslationWalk => Sys2Proof.Machine.execTranslationWalk s
  | .eFaultLimitExpiry => Sys2Proof.Machine.execFaultLimitExpiry s
  | .eFaultResolve => Sys2Proof.Machine.execFaultResolve s
  | .eShootdownRequest => Sys2Proof.Machine.execShootdownRequest s
  | .eShootdownReceive => Sys2Proof.Machine.execShootdownReceive s
  | .eShootdownComplete => Sys2Proof.Machine.execShootdownComplete s
  | .eMigrationLineCopy => Sys2Proof.Machine.execMigrationLineCopy s
  | .ePreemption => Sys2Proof.Machine.execPreemption s
  | .eRegionResume => Sys2Proof.Machine.execRegionResume s
  | .eDistributorPop => Sys2Proof.Machine.execDistributorPop s
  | .eIslandWakeComplete => Sys2Proof.Machine.execIslandWakeComplete s
  | .eTenderAnnounce => Sys2Proof.Machine.execTenderAnnounce s
  | .eBidWindowExpiry => Sys2Proof.Machine.execBidWindowExpiry s
  | .eAwardGo => Sys2Proof.Machine.execAwardGo s
  | .eLoaderWithdrawal => Sys2Proof.Machine.execLoaderWithdrawal s
  | .eStreamAppend => Sys2Proof.Machine.execStreamAppend s
  | .eAppendResultRead => Sys2Proof.Machine.execAppendResultRead s
  | .eCompletionRecordWrite => Sys2Proof.Machine.execCompletionRecordWrite s
  | .eCompletionConsWrite => Sys2Proof.Machine.execCompletionConsWrite s
  | .eIntakeMessage => Sys2Proof.Machine.execIntakeMessage s
  | .eStewardLoad => Sys2Proof.Machine.execStewardLoad s
  | .eStewardLoadDone => Sys2Proof.Machine.execStewardLoadDone s
  | .eDebugAccessGo => Sys2Proof.Machine.execDebugAccessGo s
  | .eChipNumberWrite => Sys2Proof.Machine.execChipNumberWrite s
  | .eChipNumberExchange => Sys2Proof.Machine.execChipNumberExchange s
  | .eLinkFrameReceive => Sys2Proof.Machine.execLinkFrameReceive s
  | .eLinkReplay => Sys2Proof.Machine.execLinkReplay s
  | .eLinkRetrain => Sys2Proof.Machine.execLinkRetrain s
  | .eErrorWindowExpiry => Sys2Proof.Machine.execErrorWindowExpiry s
  | .eTemperatureUpdate => Sys2Proof.Machine.execTemperatureUpdate s
  | .ePowerAverageUpdate => Sys2Proof.Machine.execPowerAverageUpdate s
  | .eDeviceReset => Sys2Proof.Machine.execDeviceReset s
  | .eFunctionReady => Sys2Proof.Machine.execFunctionReady s
  | .eMeasurementExtend => Sys2Proof.Machine.execMeasurementExtend s
  | .eReportRequest => Sys2Proof.Machine.execReportRequest s
  | .eKeyInstall => Sys2Proof.Machine.execKeyInstall s
  | .eHubRegisterWrite => Sys2Proof.Machine.execHubRegisterWrite s
  | .eIllegalInstructionWord => Sys2Proof.Machine.execIllegalInstructionWord s
  | .eSequencerOperationComplete => Sys2Proof.Machine.execSequencerOperationComplete s
  | .eIslandGating => Sys2Proof.Machine.execIslandGating s
  | .eReportWritten => Sys2Proof.Machine.execReportWritten s

end Sys2Proof.Machine
end

