-- ==== Sys2Proof/Machine/Step.lean ====
section
/-! DEFINITION. One step of the package, and the placing of an instruction where the step fetches it (DESIGN CHOICE, log entries 2, 3). -/

namespace Sys2Proof.Machine

/-- One step: time passes, then the next instruction or event runs; where nothing is ready, nothing else changes. -/
def step (s : State) : Host.Outcome State Fault Refusal :=
  let s := s.passTime
  match select s with
  | some (i, s) => exec i s
  | none => .next (idleStep s)

/-- A region of one team, running on tile 0, where none runs there (DESIGN CHOICE, log entry 3). -/
def State.withRegion (s : State) : State :=
  if s.liveAt 0 then s
  else
    { s with
      regions := NMap.set s.regions s.instSeq
        { st := .running, tenant := 0, root := 0, dbg := false, tnd := false, prio := 0, recd := [], handle := 0, frame := 0, tiles := [0], image := [], bads := [], vbase := 0,
          vsize := 0, vkind := 0, flim := 0, arcs := [], circs := [], wires := [], pulses := [], sinks := [], sinkQ := [], stray := 0,
          errors := 0, first := none, status := 0, imgErr := (0, 0), goAt := some (s.acCycles 0), wdg := 0, held := [], succWait := none, links := [],
          tender := none, slots := [], qrec := none }
      instSeq := s.instSeq + 1
      tiles := NMap.set s.tiles 0 { s.tile 0 with inst := some s.instSeq, lastInst := some s.instSeq, team := 0 } }

/-- The instruction at the pc of context 0 of task processor 0 of tile 0, which issues next. -/
def State.withTaskWord (s : State) (w : Lane) : State :=
  let s := s.withRegion
  let pc := (s.ctx 0 0 0).pc.toNat
  let s := s.updTile 0 (fun t => { t with amatch := NMap.erase t.amatch 0 })
  let s := s.updTp 0 0 (fun q => { q with store := NMap.set q.store pc w, last := 3 })
  let s := s.updCtx 0 0 0 (fun x => { x with status := .runnable, steward := false, held := [] })
  { s with begun := none, agenda := .turn 0 0 :: s.agenda }

/-- A scalar firing without tokens of slot 0. -/
def Fire.bare (w : Lane) (n : Nat) : Fire :=
  { slot := 0, word := w, lit := 0, toks := [], thread := 0, iter := 0, n := 1, vec := false, eor := false, fire := n }

/-- The instruction of a firing that element `e` of tile 0 has begun. -/
def State.withElemWord (s : State) (e : Nat) (w : Lane) : State :=
  let s := s.withRegion
  let s := s.updElem 0 e (fun x => { x with cur := some (Fire.bare w x.fireSeq) })
  { s with begun := some (0, e) }

/-- `s` with the instruction of a table word stored where `step` fetches next. -/
def State.withFetchWord (s : State) (nbits w : Nat) : State :=
  let l : Lane := BitVec.ofNat 32 (w % 2 ^ nbits)
  match decodeTableWord nbits w with
  | some i =>
    if (taskShape i).isSome then s.withTaskWord l
    else if (shapeOn .graph i).isSome then s.withElemWord 4 l
    else if (shapeOn .lut i).isSome then s.withElemWord 24 l
    else if (shapeOn .port i).isSome then s.withElemWord 28 l
    else s.withTaskWord l
  | none => s.withTaskWord l

end Sys2Proof.Machine
end

