-- ==== Sys2Proof/Safety.lean ====
section
/-! DEFINITION. What counts as a well-kept state, and when an instruction issues or fires with nothing in its way, in the
terms the statements use. -/

namespace Sys2Proof

open Machine

/-- Main memory and the vaults are in canonical form. -/
def MemOk (s : State) : Prop := Memory.wf s.mem = true

/-- The fields of an encoded row; all z of a row without an encoding. -/
def fieldsOfInstr (i : Instr) : Fields := match i.enc with | some k => k.f | none => ⟨28, 28, 28, 28, 0⟩

/-- Context `c` of task processor `p` of tile `g` issues `i`, of shape `h`, and nothing turns it away: its word and literal are
legal there (R189), a steward-only instruction stands in steward mode (R183), every channel it names is bound and, where it is read, holds a word
(R177, R22), no arc of a channel it writes holds it back (R22), and no register it reads has still to be written (R357). -/
def Issues (s : State) (i : Instr) (h : Shape) (g p c : Nat) : Prop :=
  s.site = .task g p c ∧ taskShape i = some h ∧
  wordCause .task false ((encodeWord i).getD 0xFFFFFFFF) (s.litAt g p (s.ctx g p c)) [] = 0 ∧
  (stewardOnly i = true → (s.ctx g p c).steward = true) ∧
  (s.ctx g p c).bound h (fieldsOfInstr i) = true ∧ (s.ctx g p c).emptyChan h (fieldsOfInstr i) = none ∧
  s.heldChan g (s.ctx g p c) h (fieldsOfInstr i) = none ∧ s.pendingSrc i h (fieldsOfInstr i) g p c = none

/-- What the issued instruction works on. -/
def issueIn (s : State) (i : Instr) (h : Shape) (g p c : Nat) : TIn := s.taskIn h (fieldsOfInstr i) g p c

/-- Element `e` of tile `g` has begun a firing `r` of instruction `i`, of shape `h`, and no token of it propagates (R30). -/
def Fires (s : State) (i : Instr) (h : Shape) (r : Fire) (g e : Nat) : Prop :=
  s.site = .elem g e ∧ (s.elem g e).cur = some r ∧ elemShape i = some h ∧ decodeWord r.word = .ok i ∧
  r.bad h (fun _ => false) = none

/-- The state after a firing that gave results `os` in state `s` (R31, R32, R39). -/
def fired (s : State) (h : Shape) (r : Fire) (g e : Nat) (os : List Out) : State :=
  (s.emitOuts g e r.f (h.e.isDst && !h.role2) r.lit r.tagB os).endFire g e r.eor

/-- The state after a firing that an operand value stops: an error token in the place of the result (R196, R104). -/
def firedError (s : State) (h : Shape) (r : Fire) (g e cause : Nat) (v : Word) : State :=
  (s.failOut g e r h (Tok.error r.thread r.iter (r.n - 1) (errPayload cause g ((s.tile g).role e) v.toNat))).endFire g e r.eor

end Sys2Proof
end

