-- ==== Sys2Proof/Certificates/Slice0/Obligations.lean ====
section
/-! DEFINITION. The statements for the provers: what the rules of spec/ say the instructions and the machine do. -/

open Sys2Proof Sys2Proof.Machine

/-! Encoding (R175, R178, R180). -/

/-- O1 (tier 3): the bytes of every well-formed encoded instruction, whatever follows them, decode to it and leave the rest. -/
def Obligations.DecodeOfEncode : Prop :=
  ∀ (i : Instr) (rest : List Byte), i.enc.isSome = true → i.wf = true → decode (encode i ++ rest) = .ok (i, rest)

/-- Part of `EncodeOfDecode`: a word means one instruction, and no bit of it is dropped: what it decodes to is well formed and encodes to the word. -/
def Claims.PartEncodeOfDecode : Prop :=
  ∀ (w : Lane) (i : Instr), decodeWord w = .ok i → i.wf = true ∧ encodeWord i = some w

/-- O2 (tier 1): words the spec writes out, read as it reads them. -/
def Obligations.SpecWords : Prop :=
  decodeWord 0x0E088640 = .ok (.iMad ⟨1, 2, 3, 4, 0⟩) ∧ decodeWord 0x830FC5C0 = .ok (.iBlt ⟨1, 31, 2, 28, 0⟩) ∧
  decodeWord 0x8A07FFF0 = .ok (.iWait ⟨0, 31, 31, 31, 0⟩) ∧ decodeWord 0xB507C1C0 = .ok (.iXlt ⟨0, 31, 0, 28, 0⟩) ∧
  decodeWord 0xCAFF39C0 = .ok (.iTpri ⟨31, 28, 28, 28, 0⟩) ∧ decodeWord 0xD80701C0 = .ok (.iRtCnt ⟨0, 28, 0, 28, 0⟩) ∧
  decodeWord 0xDF4F09C0 = .ok (.iTndSt ⟨9, 28, 4, 28, 0⟩) ∧ decodeWord 0xE22F39C0 = .ok (.iDone ⟨5, 28, 28, 28, 0⟩)

/-- Part of `EncodeOfDecode`: a word decodes to nothing exactly where its opcode is reserved or a fixed field of its row is broken, and then it has
an encoding cause in a task (R189). -/
def Claims.PartUndecodedWordsAreIllegal : Prop :=
  ∀ (w : Lane) (x : DecodeError) (lit : Word), decodeWord w = .error x →
    x ≠ .truncated ∧ wordCause .task false w lit [] ≠ 0 ∧
    (x = .reservedOpcode ↔ Encoding.ctor (w.toNat / 2 ^ 24) = none) ∧
    (x = .reservedOpcode → wordCause .task false w lit [] = 1)

/-- O3 (tier 2): the other direction. What a word decodes to is well formed and encodes to the word, so a word means one instruction;
a word that decodes to nothing has a reserved opcode or breaks a fixed field of its row, and has an encoding cause in a task, 0x01 where the opcode is reserved. -/
def Obligations.EncodeOfDecode : Prop :=
  Claims.PartEncodeOfDecode ∧ Claims.PartUndecodedWordsAreIllegal

/-! Steps, reset and memory. -/

/-- O4 (tier 1): a step runs the decoded instruction. Time passes first (log entry 6). Where a firing has begun, the step runs the
instruction of its slot on that element (R31). Otherwise the head of the agenda moves (log entry 2): on the turn of a task
processor of a live region, the next ready context in round robin issues the word at its pc (R21), unless a held trap or its
breakpoint comes first (R239, R245); an event row runs with its argument.
The model's readings here: log entries 2, 4, 6. -/
def Obligations.StepRunsDecoded : Prop :=
  (∀ (s : State) (g e : Nat) (r : Fire) (i : Instr),
    s.passTime.begun = some (g, e) → (s.passTime.elem g e).cur = some r → decodeWord r.word = .ok i →
    step s = exec i (s.passTime.setSite (.elem g e))) ∧
  (∀ (s t : State) (g p c : Nat) (rest : List Act) (i : Instr),
    t = s.passTime.setAgenda rest → s.passTime.begun = none → s.passTime.agenda = .turn g p :: rest →
    (Act.turn g p).wf = true → t.liveAt g = true → nextCtx (t.tp g p) = some c →
    ((t.ctx g p c).held = [] ∨ (t.ctx g p c).steward = true) →
    brkHits (NMap.get (t.tile g).amatch (4 * p + c) 0) (t.ctx g p c) = false →
    decodeWord (t.wordAt g p (t.ctx g p c)) = .ok i →
    step s = exec i (t.setSite (.task g p c))) ∧
  (∀ (s : State) (i : Instr) (a : EvArg) (rest : List Act),
    s.passTime.begun = none → s.passTime.agenda = .event i a :: rest → i.enc = none → (Act.event i a).wf = true →
    step s = exec i ((s.passTime.setAgenda rest).setEv a))

/-- O5 (tier 1): right after reset no region runs, no request is outstanding, memory lists nothing, every bank of every route unit
holds zero (R320), and the registers the spec gives a reset value hold it: the distributor's timing word, the error policy
and the thermal word (R381, R415, R420).
The model's readings here: log entries 7, 9. -/
def Obligations.ResetLeaves : Prop :=
  State.reset.regions = [] ∧ State.reset.reqs = [] ∧ State.reset.mem = [] ∧ State.reset.ready0 = 0 ∧ State.reset.ready1 = 0 ∧
  (∀ g, (State.reset.tile g).rtCount = [] ∧ (State.reset.tile g).rtPsum = [] ∧ (State.reset.tile g).inst = none) ∧
  State.reset.hubWord 0x20000 = 0x000001F40FA00000 ∧ State.reset.hubWord 0x82000 = 0x1004 ∧ State.reset.hubWord 0x82100 = 0x16955 ∧
  (∀ g p c, (State.reset.ctx g p c).steward = false ∧ (State.reset.ctx g p c).ld = 0 ∧ (State.reset.ctx g p c).st = 0 ∧
    (State.reset.ctx g p c).cp = 0 ∧ (State.reset.ctx g p c).tl = 0)

/-- O6 (tier 1): memory is in canonical form at reset.
The model's readings here: log entry 7. -/
def Obligations.MemoryCanonicalAtReset : Prop := MemOk State.reset

/-- O7 (tier 3): every step keeps main memory and the vaults in canonical form, from every state in which they are. -/
def Obligations.MemoryCanonicalKept : Prop :=
  ∀ s s' : State, MemOk s → step s = .next s' → MemOk s'

/-! Frames of a step on a task processor. -/

/-- Nothing changes but context `c` of task processor `p` of tile `g`, which context that processor served last, and region
records. -/
def Claims.onlyCtx (s s' : State) (g p c : Nat) : Prop :=
  { s' with tiles := s.tiles, regions := s.regions } = s ∧ (∀ k, k ≠ g → s'.tile k = s.tile k) ∧
  { s'.tile g with tps := (s.tile g).tps } = s.tile g ∧ (∀ k, k ≠ p → s'.tp g k = s.tp g k) ∧
  { s'.tp g p with ctxs := (s.tp g p).ctxs, last := (s.tp g p).last } = s.tp g p ∧ (∀ k, k ≠ c → s'.ctx g p k = s.ctx g p k)

/-- Of the region records, only the watchdog of the region on tile `g` changes: it starts again (R41). -/
def Claims.onlyWatchdog (s s' : State) (g : Nat) : Prop :=
  ∀ j, NMap.find s'.regions j = if (s.tile g).inst = some j then (NMap.find s.regions j).map (fun r => { r with wdg := 0 })
    else NMap.find s.regions j

/-- Of the region records, only the watchdog and the tokens on the arcs named change, in the region on tile `g`. -/
def Claims.onlyArcs (s s' : State) (g : Nat) (arcs : List Nat) : Prop :=
  ∀ j, match NMap.find s.regions j, NMap.find s'.regions j with
    | some r, some r' => { r' with wdg := r.wdg, wires := r.wires } = r ∧
      (∀ a, a ∉ arcs → NMap.get r'.wires a [] = NMap.get r.wires a []) ∧ ((s.tile g).inst ≠ some j → r' = r)
    | none, none => True
    | _, _ => False

/-- The arc of a channel of a context that an issue writes, if `code` names one. -/
def Claims.arcOf (x : Ctx) (code : Nat) : List Nat := if 25 ≤ code ∧ code < 28 then (x.chan (code - 24)).arc.toList else []

/-- O8 (tier 2): what an issue works on (R177, R184). A select code of a source field reads a register, the next word of a
channel, zero, the tag, fp or the literal; each channel named is taken from once, whatever field names it; the context keeps
everything else, and the channel word of srcB carries its thread and iteration to `~tagb` (code 8), which keeps the tag where srcB names no channel.
The model's readings here: log entry 41. -/
def Obligations.OperandsOfAnIssue : Prop :=
  ∀ (s : State) (h : Shape) (f : Fields) (g p c : Nat),
    let x := s.ctx g p c
    let lit := s.litAt g p x
    let t := s.taskIn h f g p c
    (∀ (u : FUse) (code : BitVec 5), x.opnd lit u code = if u.isSrc then
      (if code.toNat < 24 then x.s[code.toNat]?.getD 0
       else if code.toNat < 28 then ((x.chan (code.toNat - 24)).buf.head?.map Tok.value).getD 0
       else if code = 28 then 0 else if code = 29 then x.tag.setWidth 64 else if code = 30 then x.fp else lit) else 0) ∧
    t.a = x.opnd lit h.a f.a ∧ t.b = x.opnd lit h.b f.b ∧ t.d = x.opnd lit h.d f.d ∧ t.e = x.opnd lit h.e f.e ∧ t.lit = lit ∧
    (∀ k, t.x.chan k = if k ∈ srcChans h f then { x.chan k with buf := (x.chan k).buf.tail } else x.chan k) ∧
    { t.x with vc := x.vc } = x ∧
    t.tb = (if h.b.isSrc = true ∧ 24 ≤ f.b.toNat ∧ f.b.toNat < 28 then (x.chan (f.b.toNat - 24)).buf.head?.map (fun k => (k.thread, k.iter)) else none) ∧
    (∀ k th it, t.tb = some (th, it) → tagAct 8 lit t.tb k = { k with thread := th, iter := it }) ∧ (∀ k, t.tb = none → tagAct 8 lit t.tb k = k) ∧
    (∀ k, k ∈ srcChans h f ↔ k < 4 ∧ ((h.a.isSrc = true ∧ f.a.toNat = 24 + k) ∨ (h.b.isSrc = true ∧ f.b.toNat = 24 + k) ∨
      (h.d.isSrc = true ∧ f.d.toNat = 24 + k) ∨ (h.e.isSrc = true ∧ f.e.toNat = 24 + k)))

/-- O9 (tier 2): an instruction that writes a result. `putResult` is the next state of every such statement below; here is
what it holds. The context's registers, tag and fp change only where dstA, or a dstB that duplicates it, names them, and take
the result; the pc goes on (R232), the work count rises (R243). Each of dstA and dstB that names a channel sends one word on its arc, dstA's before
dstB's, for the slot of that arc and with the context's tag rewritten by the tag action (R22, R184); with no channel named, no arc changes. Memory, scratchpads,
vaults, hub, requests, the other contexts, processors, tiles and regions keep everything. The tag sent is the one held before the
instruction writes tg: log entry 63. -/
def Obligations.ResultFrame : Prop :=
  ∀ (s : State) (t : TIn) (dup : Bool) (v : Word),
    let s' := s.putResult t dup v
    let d := t.f.d.toNat
    let e := if dup then t.f.e.toNat else 28
    let x' := s'.ctx t.g t.p t.c
    Claims.onlyCtx s s' t.g t.p t.c ∧
    (∀ k, k < 24 → x'.s[k]? = if k = d ∨ k = e then some v else t.x.s[k]?) ∧
    x'.tag = (if d = 29 ∨ e = 29 then v.setWidth 32 else t.x.tag) ∧ x'.fp = (if d = 30 ∨ e = 30 then v else t.x.fp) ∧
    x'.pc = t.x.advance.pc ∧ x'.rpt = t.x.advance.rpt ∧ x'.work = t.x.work + 1 ∧ x'.status = .runnable ∧
    x'.skip = (t.x.skip && t.x.steward) ∧
    { x' with s := t.x.s, tag := t.x.tag, fp := t.x.fp, pc := t.x.pc, rpt := t.x.rpt, work := t.x.work, status := t.x.status, skip := t.x.skip } = t.x ∧
    (s'.tp t.g t.p).last = t.c ∧
    ((d < 25 ∨ 28 ≤ d) → (e < 25 ∨ 28 ≤ e) → Claims.onlyWatchdog s s' t.g) ∧
    Claims.onlyArcs s s' t.g (Claims.arcOf t.x d ++ Claims.arcOf t.x e) ∧
    (∀ (a j : Nat) (r : Region), (s.tile t.g).inst = some j → NMap.find s.regions j = some r → ∃ r', NMap.find s'.regions j = some r' ∧
      NMap.get r'.wires a [] = NMap.get r.wires a [] ++ ([d, e].filter (fun k => decide (25 ≤ k ∧ k < 28 ∧ (t.x.chan (k - 24)).arc = some a))).map (fun _ =>
        ⟨((NMap.find r.arcs a).map (·.slot)).getD 0, tagAct t.f.t.toNat t.lit t.tb (Tok.scalar t.x.thread t.x.iter v), 0, 0⟩))

/-- O10 (tier 2): an instruction that only goes on. `retire s t x` is the next state of the statements below that write no
result: the context becomes `x`, counted and runnable, and nothing else changes but the watchdog and the context served last. -/
def Obligations.RetireFrame : Prop :=
  ∀ (s : State) (t : TIn) (x : Ctx),
    Claims.onlyCtx s (s.retire t x) t.g t.p t.c ∧ Claims.onlyWatchdog s (s.retire t x) t.g ∧
    (s.retire t x).ctx t.g t.p t.c = { x with work := x.work + 1, status := .runnable, skip := t.x.skip && t.x.steward } ∧
    ((s.retire t x).tp t.g t.p).last = t.c

/-- Part of `TaskRepeats`: after an instruction without a taken transfer (R232). Inside an active repeat the slot after the last one of
the body is the body's first while passes are left; the pass that ends the count leaves the repeat inactive. A taken transfer
ends the repeat. -/
def Claims.PartRepeatAdvance : Prop :=
  ∀ x : Ctx, (x.rpt.active = false → x.advance = { x with pc := x.pc + 1 }) ∧
    (x.pc ≠ x.rpt.start + x.rpt.n1.setWidth 11 → x.advance = { x with pc := x.pc + 1 }) ∧
    (x.rpt.active = true → x.pc = x.rpt.start + x.rpt.n1.setWidth 11 → x.rpt.left ≠ 1 →
      x.advance = { x with pc := x.rpt.start, rpt := { x.rpt with left := x.rpt.left - 1 } }) ∧
    (x.rpt.active = true → x.pc = x.rpt.start + x.rpt.n1.setWidth 11 → x.rpt.left = 1 →
      x.advance = { x with pc := x.pc + 1, rpt := { x.rpt with left := 0, active := false } }) ∧
    (∀ n, x.jump n = { x with pc := n, rpt := { x.rpt with active := false } })

/-! Exceptions (R191, R239, R240, R241). -/

/-- Part of `TrapEntry`: a machine check sends its event record (R408), with the class, the detail, the block's address, the tenant, the die and tile, the
element and the unit where it was found, and the instance, also where the region has completed first; a region that is not over by then is discarded
with the cause (R409), one whose last `done` is over goes on to complete. -/
def Claims.PartMachineCheck : Prop :=
  ∀ (s : State) (g cls detail addr unit phys cause i : Nat), unit ≠ 2 →
    let tenant := match NMap.find s.regions i with | some r => r.tenant | none => 0
    let u : State := { s with compBuf := s.compBuf ++ [(0, [BitVec.ofNat 64 (5 * 2 ^ 16 + cls * 2 ^ 8 + detail), BitVec.ofNat 64 addr,
      BitVec.ofNat 64 (tenant + g / 48 * 2 ^ 16 + g % 48 * 2 ^ 19 + phys * 2 ^ 25 + unit * 2 ^ 30), BitVec.ofNat 64 i, 0, 0, 0, 0], none)] }
    ((s.tile g).inst = some i → s.machineCheck g cls detail addr unit phys cause = u.discard i cause) ∧
    ((s.tile g).inst = none → (s.tile g).lastInst = some i → s.machineCheck g cls detail addr unit phys cause = u) ∧
    (∀ r, NMap.find s.regions i = some r → s.lastDone r = true → s.discard i cause = s) ∧
    (∀ r, NMap.find s.regions i = some r → r.live = true → s.lastDone r = false → (r.recorded = false ∨ s.compBuf.length < 4096) → ∃ q,
      NMap.find (s.discard i cause).regions i = some q ∧ q.st = .gone ∧ q.wires = [] ∧
      (∀ g, (s.tile g).inst = some i → g ∈ r.tiles → ((s.discard i cause).tile g).inst = none) ∧
      (r.recorded = true → ∃ ws n, (s.discard i cause).compBuf = s.compBuf ++ [(n, ws, none)] ∧ (ws.getD 0 0).toNat % 2 ^ 16 = 0xFF01 ∧
        (cause < 256 → (ws.getD 0 0).toNat / 2 ^ 16 % 256 = cause)))

/-- O11 (tier 2): taking a trap in tenant mode is one step (R240): the cause, the slot and the value are saved, tsl0 takes the slot
and rsave the repeat state, the repeat becomes inactive, the mode becomes steward, and the pc goes to the steward store's slot
tvec. The tag, fp, registers and channels stay. In steward mode it is a machine check of class 3 instead (R240), which discards
the region with cause 3 after its event record (R408, R409): the record and the discard are stated too. -/
def Obligations.TrapEntry : Prop :=
  ∀ (s : State) (g p c : Nat) (cause : BitVec 16) (slot : BitVec 11) (val : Word) (rpt : Rpt),
    ((s.ctx g p c).steward = false →
      let s' := s.takeTrap g p c cause slot val rpt
      s'.ctx g p c = { s.ctx g p c with
        tcause := cause, tslot := slot, tval := val, tsl0 := slot, rsave := rpt, rpt := { rpt with active := false }, steward := true
        pc := (s.ctx g p c).tvec.setWidth 11, status := .runnable } ∧
      Claims.onlyCtx s s' g p c ∧ s'.regions = s.regions) ∧
    ((s.ctx g p c).steward = true →
      s.takeTrap g p c cause slot val rpt =
        (s.updTp g p (fun t => { t with last := c })).machineCheck g 3 (cause.toNat % 256) 0 0 p 3) ∧
    Claims.PartMachineCheck

/-- O12 (tier 2): every word that is not legal where a context issues it takes the illegal-instruction trap with the lowest of its
encoding causes and itself as tval, whatever instruction its opcode names, and has no other effect (R189, R191).
The model's readings here: log entry 40. -/
def Obligations.IllegalWordTraps : Prop :=
  ∀ (s : State) (i : Instr) (w : Lane) (g p c : Nat), i.enc.isSome = true → encodeWord i = some w → s.site = .task g p c →
    wordCause .task false w (s.litAt g p (s.ctx g p c)) [] ≠ 0 →
    exec i s = .next (s.takeTrap g p c (BitVec.ofNat 16 (wordCause .task false w (s.litAt g p (s.ctx g p c)) []))
      (s.ctx g p c).pc (w.setWidth 64) (s.ctx g p c).rpt)

/-- The operands of a steward-only instruction are ones it takes (R246, R249): `dbg.x` names a register up to 0xA5, `ckpt` and `rstor` name an
address aligned to 64 bytes, and `ckpt` finds the team's intake closed. -/
def Claims.stewardOperands (s : State) (t : TIn) : Instr → Prop
  | .iDbgX _ => t.a.toNat % 1024 ≤ 0xA5
  | .iCkpt _ => (s.tile t.g).intake = false ∧ t.a.toNat % 64 = 0
  | .iRstor _ => t.a.toNat % 64 = 0
  | _ => True

/-- Part of `IssueTurnedAway`: a steward-only instruction in tenant mode takes cause 0x10 and has no other effect (R183); where it refuses its
operands too, it takes the lower cause 0x09 (R189, R191). -/
def Claims.PartStewardOnlyTraps : Prop :=
  ∀ (s : State) (i : Instr) (h : Shape) (w : Lane) (g p c : Nat), stewardOnly i = true → encodeWord i = some w →
    s.site = .task g p c → taskShape i = some h → wordCause .task false w (s.litAt g p (s.ctx g p c)) [] = 0 →
    (s.ctx g p c).bound h (fieldsOfInstr i) = true → s.pendingSrc i h (fieldsOfInstr i) g p c = none → (s.ctx g p c).steward = false →
    (Claims.stewardOperands s (issueIn s i h g p c) i →
      exec i s = .next (s.takeTrap g p c 0x10 (s.ctx g p c).pc (w.setWidth 64) (s.ctx g p c).rpt)) ∧
    (¬ Claims.stewardOperands s (issueIn s i h g p c) i → (s.ctx g p c).emptyChan h (fieldsOfInstr i) = none →
      exec i s = .next (s.takeTrap g p c 9 (s.ctx g p c).pc (w.setWidth 64) (s.ctx g p c).rpt))

/-- The instructions that refuse some values of their operands or of the state at issue, with a cause of their own. -/
def Claims.mayRefuse : Instr → Bool
  | .iBr _ | .iBz _ | .iBnz _ | .iBlt _ | .iBge _ | .iBltu _ | .iBgeu _ | .iCall _ | .iRet _ | .iJr _ | .iRep _ => true
  | .iCtlRd _ | .iCtlWr _ | .iCntRd _ | .iIdRd _ | .iDbgX _ | .iSwpPl _ | .iCkpt _ | .iRstor _ | .iDone _ | .iPlf _ => true
  | .iCmb _ | .iCmbF _ | .iCp _ | .iCp2 _ | .iCpg _ | .iCps _ | .iShfGo _ | .iShfFb _ | .iRsort _ => true
  | .iTscl _ | .iTrag _ | .iTstat _ | .iTpri _ => true
  | _ => false

/-- A context waits at its slot in a state of its own: nothing else changes but the cycle from which its blocked cycles count (R21, R243). -/
def Claims.waits (s : State) (g p c : Nat) (st : CtxSt) : State := s.updCtx g p c (fun x => { x with status := st, blkAt := s.acCycles g })

/-- Part of `IssueTurnedAway`: what a legal word waits for before anything else happens, where the context keeps its pc and takes no word of
any channel: a register it reads that an earlier instruction has still to write (R357), then a channel it reads that holds no word, then
the arc of a channel it writes, which holds its sender back (R21, R22, R239). An instruction that refuses operand values may trap for one that is
there. The model's reading of an arc that holds a context back: log entry 63. -/
def Claims.PartIssueWaits : Prop :=
  ∀ (s : State) (i : Instr) (h : Shape) (w : Lane) (g p c k : Nat), encodeWord i = some w → s.site = .task g p c →
    taskShape i = some h → wordCause .task false w (s.litAt g p (s.ctx g p c)) [] = 0 →
    (∀ f, i ≠ .iIll f) →
    (s.pendingSrc i h (fieldsOfInstr i) g p c = some k → exec i s = .next (Claims.waits s g p c (.blkReg k))) ∧
    (s.pendingSrc i h (fieldsOfInstr i) g p c = none → (stewardOnly i = true → (s.ctx g p c).steward = true) →
      (s.ctx g p c).bound h (fieldsOfInstr i) = true → (s.ctx g p c).emptyChan h (fieldsOfInstr i) = some k →
      (Claims.mayRefuse i = false → exec i s = .next (Claims.waits s g p c (.blkChan k))) ∧
      (exec i s = .next (Claims.waits s g p c (.blkChan k)) ∨ ∃ cause : BitVec 16, cause ≠ 0 ∧
        exec i s = .next (s.takeTrap g p c cause (s.ctx g p c).pc (w.setWidth 64) (s.ctx g p c).rpt))) ∧
    (s.pendingSrc i h (fieldsOfInstr i) g p c = none → (stewardOnly i = true → (s.ctx g p c).steward = true) →
      (s.ctx g p c).bound h (fieldsOfInstr i) = true → (s.ctx g p c).emptyChan h (fieldsOfInstr i) = none →
      s.heldChan g (s.ctx g p c) h (fieldsOfInstr i) = some k →
      (Claims.mayRefuse i = false → exec i s = .next (Claims.waits s g p c (.blkSend k))) ∧
      (exec i s = .next (Claims.waits s g p c (.blkSend k)) ∨ ∃ cause : BitVec 16, cause ≠ 0 ∧
        exec i s = .next (s.takeTrap g p c cause (s.ctx g p c).pc (w.setWidth 64) (s.ctx g p c).rpt)))

/-- O13 (tier 2): what turns a legal word away before it has any effect: a steward-only instruction in tenant mode takes cause 0x10, or 0x09
where it refuses its operands too (R183, R189); and a word waits for a register, a channel word or a held-back arc (R21, R22, R239, R357).
The model's readings here: log entry 63. -/
def Obligations.IssueTurnedAway : Prop :=
  Claims.PartStewardOnlyTraps ∧ Claims.PartIssueWaits

/-- O14 (tier 2): the trap instructions (R241): `trap` takes cause 0x11 and `brk` in tenant mode 0x12, with srcA as tval; `brk` in
steward mode halts the context at the next slot (R247); `eret` returns to tslot in tenant mode, with the saved repeat state where
tslot is the slot that trapped; `ill` takes cause 0x0C.
The model's readings here: log entry 48. -/
def Obligations.TrapInstructions : Prop :=
  ∀ (s : State) (h : Shape) (f : Fields) (g p c : Nat),
    (Issues s (.iTrap f) h g p c →
      exec (.iTrap f) s = .next (s.takeTrap g p c 0x11 (s.ctx g p c).pc (issueIn s (.iTrap f) h g p c).a (s.ctx g p c).rpt)) ∧
    (Issues s (.iBrk f) h g p c → (s.ctx g p c).steward = false →
      exec (.iBrk f) s = .next (s.takeTrap g p c 0x12 (s.ctx g p c).pc (issueIn s (.iBrk f) h g p c).a (s.ctx g p c).rpt)) ∧
    (Issues s (.iBrk f) h g p c → (s.ctx g p c).steward = true → ∀ t, t = issueIn s (.iBrk f) h g p c →
      exec (.iBrk f) s = .next ((s.retire t t.x.advance).updCtx g p c (fun x => { x with status := .halted }))) ∧
    (Issues s (.iEret f) h g p c → ∀ t, t = issueIn s (.iEret f) h g p c →
      exec (.iEret f) s = .next (s.retire t { t.x with
        steward := false, pc := t.x.tslot
        rpt := if t.x.tslot = t.x.tsl0 then t.x.rsave else { t.x.rpt with active := false } })) ∧
    (s.site = .task g p c → exec (.iIll f) s = .next (s.takeTrap g p c 0x0C (s.ctx g p c).pc
      (((encodeWord (.iIll f)).getD 0).setWidth 64) (s.ctx g p c).rpt))

/-! Number formats (R43 to R51). -/

/-- The finite number `m / 2 ^ k` with a sign. -/
def Claims.isNum (v : FVal) (neg : Bool) (m k : Nat) : Prop := ∃ n d, v = .fin neg n d ∧ 0 < d ∧ n * 2 ^ k = m * d

/-- O15 (tier 2): what an element's code means. Signed binary8 of precision p (R45): bias 2^(7-p), code 0x80 NaN, in the extended
form 0x7F and 0xFF the infinities, subnormals where the exponent field is 0. Unsigned binary8 (R47): bias 2^(8-p), code 0xFF NaN,
in the extended form 0xFE infinity. E2M1 (R49): a sign and the magnitudes 0, 0.5, 1, 1.5, 2, 3, 4 and 6. -/
def Obligations.NumberFormats : Prop :=
  (∀ (p c : Nat) (ext : Bool), 1 ≤ p → p ≤ 7 → c < 256 →
    let v := decodeFmt ((if ext then 0x20 else 0x10) + p) c
    let neg := decide (128 ≤ c)
    let x := c % 128 / 2 ^ (p - 1)
    let t := c % 2 ^ (p - 1)
    let bias := 2 ^ (7 - p)
    if c = 0x80 then v = .nan
    else if ext = true ∧ c % 128 = 0x7F then v = .inf neg
    else if x = 0 then Claims.isNum v neg t (bias - 1 + (p - 1))
    else Claims.isNum v neg ((2 ^ (p - 1) + t) * 2 ^ x) (bias + (p - 1))) ∧
  (∀ (p c : Nat) (ext : Bool), 1 ≤ p → p ≤ 7 → c < 256 →
    let v := decodeFmt ((if ext then 0x40 else 0x30) + p) c
    let x := c / 2 ^ (p - 1)
    let t := c % 2 ^ (p - 1)
    let bias := 2 ^ (8 - p)
    if c = 0xFF then v = .nan
    else if ext = true ∧ c = 0xFE then v = .inf false
    else if x = 0 then Claims.isNum v false t (bias - 1 + (p - 1))
    else Claims.isNum v false ((2 ^ (p - 1) + t) * 2 ^ x) (bias + (p - 1))) ∧
  (∀ c m, c < 16 → [0, 1, 2, 3, 4, 6, 8, 12][c % 8]? = some m → Claims.isNum (decodeFmt 0x50 c) (decide (8 ≤ c)) m 1)

/-! Results of computation (R194 to R212), at any width: an operation takes the width, three operands and gives the result with the
lost-NaN flag. -/

/-- A number kept within the signed range of W bits. -/
def Claims.satS (w : Nat) (x : Int) : BitVec w :=
  if x < -(2 ^ (w - 1) : Int) then BitVec.ofInt w (-(2 ^ (w - 1) : Int))
  else if 2 ^ (w - 1) ≤ x then BitVec.ofInt w (2 ^ (w - 1) - 1) else BitVec.ofInt w x

/-- The integer instructions, in exact integers (R198, R199). -/
def Claims.intOp : Instr → Option OpF
  | .iAdd _ => some (pure3 fun w a b _ => BitVec.ofNat w (a.toNat + b.toNat))
  | .iSub _ => some (pure3 fun w a b _ => BitVec.ofInt w ((a.toNat : Int) - b.toNat))
  | .iMul _ => some (pure3 fun w a b _ => BitVec.ofNat w (a.toNat * b.toNat))
  | .iMulh _ => some (pure3 fun w a b _ => BitVec.ofInt w ((a.toInt * b.toInt) / 2 ^ w))
  | .iMulhu _ => some (pure3 fun w a b _ => BitVec.ofNat w (a.toNat * b.toNat / 2 ^ w))
  | .iDiv _ => some (pure3 fun w a b _ => if b = 0 then BitVec.allOnes w else BitVec.ofInt w (a.toInt.tdiv b.toInt))
  | .iDivu _ => some (pure3 fun w a b _ => if b = 0 then BitVec.allOnes w else BitVec.ofNat w (a.toNat / b.toNat))
  | .iRem _ => some (pure3 fun w a b _ => if b = 0 then a else BitVec.ofInt w (a.toInt - b.toInt * a.toInt.tdiv b.toInt))
  | .iRemu _ => some (pure3 fun w a b _ => if b = 0 then a else BitVec.ofNat w (a.toNat % b.toNat))
  | .iNeg _ => some (pure3 fun w a _ _ => BitVec.ofInt w (-(a.toNat : Int)))
  | .iAbs _ => some (pure3 fun w a _ _ => BitVec.ofNat w a.toInt.natAbs)
  | .iAdds _ => some (pure3 fun w a b _ => Claims.satS w (a.toInt + b.toInt))
  | .iSubs _ => some (pure3 fun w a b _ => Claims.satS w (a.toInt - b.toInt))
  | .iMad _ => some (pure3 fun w a b c => BitVec.ofNat w (a.toNat * b.toNat + c.toNat))
  | .iLea _ => some (pure3 fun w a b _ => BitVec.ofNat w (a.toNat + b.toNat * (w / 8)))
  | _ => none

/-- A word whose bit `k` is `f k`. -/
def Claims.ofBits (w : Nat) (f : Nat → Bool) : BitVec w := BitVec.ofFnLE (fun k : Fin w => f k.val)

/-- The logic and bit instructions, bit by bit or by exact arithmetic (R200). A field descriptor gives its low bit in bits 5 to 0
and its length less one in bits 11 to 6; bits of a field outside the word are not there. -/
def Claims.logicOp : Instr → Option OpF
  | .iAnd _ => some (pure3 fun w a b _ => Claims.ofBits w (fun k => a.getLsbD k && b.getLsbD k))
  | .iOr _ => some (pure3 fun w a b _ => Claims.ofBits w (fun k => a.getLsbD k || b.getLsbD k))
  | .iXor _ => some (pure3 fun w a b _ => Claims.ofBits w (fun k => a.getLsbD k != b.getLsbD k))
  | .iAndn _ => some (pure3 fun w a b _ => Claims.ofBits w (fun k => a.getLsbD k && !b.getLsbD k))
  | .iNot _ => some (pure3 fun w a _ _ => Claims.ofBits w (fun k => !a.getLsbD k))
  | .iShl _ => some (pure3 fun w a b _ => BitVec.ofNat w (a.toNat * 2 ^ (b.toNat % w)))
  | .iShr _ => some (pure3 fun w a b _ => BitVec.ofNat w (a.toNat / 2 ^ (b.toNat % w)))
  | .iSra _ => some (pure3 fun w a b _ => BitVec.ofInt w (a.toInt / 2 ^ (b.toNat % w)))
  | .iRol _ => some (pure3 fun w a b _ => Claims.ofBits w (fun k => a.getLsbD ((k + w - b.toNat % w) % w)))
  | .iPopc _ => some (pure3 fun w a _ _ => BitVec.ofNat w ((List.range w).countP (a.getLsbD ·)))
  | .iClz _ => some (pure3 fun w a _ _ => BitVec.ofNat w (((List.range w).find? (fun k => a.getLsbD (w - 1 - k))).getD w))
  | .iCtz _ => some (pure3 fun w a _ _ => BitVec.ofNat w (((List.range w).find? (fun k => a.getLsbD k)).getD w))
  | .iBext _ => some (pure3 fun w a b _ => Claims.ofBits w (fun k => decide (k ≤ b.toNat / 64 % 64) && a.getLsbD (b.toNat % 64 + k)))
  | .iBins _ => some (pure3 fun w a b c => Claims.ofBits w (fun k =>
      if c.toNat % 64 ≤ k ∧ k ≤ c.toNat % 64 + c.toNat / 64 % 64 then b.getLsbD (k - c.toNat % 64) else a.getLsbD k))
  | .iBrev _ => some (pure3 fun w a _ _ => Claims.ofBits w (fun k => a.getLsbD (w - 1 - k)))
  | .iBswap _ => some (pure3 fun w a _ _ => Claims.ofBits w (fun k => a.getLsbD (8 * (w / 8 - 1 - k / 8) + k % 8)))
  | _ => none

/-- The compare, select and move instructions (R201, R40). -/
def Claims.compareOp : Instr → Option OpF
  | .iMov _ => some (pure3 fun _ a _ _ => a)
  | .iSeq _ => some (pure3 fun w a b _ => BitVec.ofNat w (if a.toNat = b.toNat then 1 else 0))
  | .iSne _ => some (pure3 fun w a b _ => BitVec.ofNat w (if a.toNat = b.toNat then 0 else 1))
  | .iSlt _ => some (pure3 fun w a b _ => BitVec.ofNat w (if a.toInt < b.toInt then 1 else 0))
  | .iSle _ => some (pure3 fun w a b _ => BitVec.ofNat w (if a.toInt ≤ b.toInt then 1 else 0))
  | .iSltu _ => some (pure3 fun w a b _ => BitVec.ofNat w (if a.toNat < b.toNat then 1 else 0))
  | .iSleu _ => some (pure3 fun w a b _ => BitVec.ofNat w (if a.toNat ≤ b.toNat then 1 else 0))
  | .iSel _ => some (pure3 fun _ a b c => if c.toNat ≠ 0 then a else b)
  | .iMin _ => some (pure3 fun w a b _ => BitVec.ofInt w (min a.toInt b.toInt))
  | .iMax _ => some (pure3 fun w a b _ => BitVec.ofInt w (max a.toInt b.toInt))
  | .iMinu _ => some (pure3 fun w a b _ => BitVec.ofNat w (min a.toNat b.toNat))
  | .iMaxu _ => some (pure3 fun w a b _ => BitVec.ofNat w (max a.toNat b.toNat))
  | .iClamp _ => some (pure3 fun w a b c => BitVec.ofInt w (min (max a.toInt b.toInt) c.toInt))
  | .iSext _ => some (pure3 fun w a b _ => if w ≤ b.toNat % 128 then a else
      Claims.ofBits w (fun k => b.toNat % 128 ≠ 0 && a.getLsbD (min k (b.toNat % 128 - 1))))
  | .iZext _ => some (pure3 fun w a b _ => if w ≤ b.toNat % 128 then a else BitVec.ofNat w (a.toNat % 2 ^ (b.toNat % 128)))
  | _ => none

/-- An FP32 operation by the exact value of its result, rounded once (R202): `enc32` is that rounding, `val32` the value of a code. -/
def Claims.exactly (f : FVal → FVal → FVal → FVal) : OpF :=
  flt3 (fun a b c => enc32 (f (val32 a) (val32 b) (val32 c)))

/-- A comparison of values: 0 where either is a NaN (R203). -/
def Claims.cmpF (p : FVal → FVal → Bool) : OpF := flt3 (fun a b _ => if p (val32 a) (val32 b) then 1 else 0)

/-- The float instructions (R202, R203), `scalb`, the estimates (R207), and the conversions and scale instructions that read no
literal (R210, R212). -/
def Claims.floatOp : Instr → Option OpF
  | .iFadd _ => some (Claims.exactly fun a b _ => a.add b)
  | .iFsub _ => some (Claims.exactly fun a b _ => a.add b.neg)
  | .iFmul _ => some (Claims.exactly fun a b _ => a.mul b)
  | .iFma _ => some (Claims.exactly fun a b c => (a.mul b).add c)
  | .iFms _ => some (Claims.exactly fun a b c => (a.mul b).add c.neg)
  | .iFnma _ => some (Claims.exactly fun a b c => (a.mul b).neg.add c)
  | .iFdiv _ => some (Claims.exactly fun a b _ => a.div b)
  | .iFsqrt _ => some (flt3 fun a _ _ => f32sqrt a)
  | .iFmin _ => some (flt3 fun a b _ => f32min a b)
  | .iFmax _ => some (flt3 fun a b _ => f32max a b)
  | .iFabs _ => some (flt3 fun a _ _ => if isNan32 a then 0x7FC00000 else BitVec.ofNat 32 (a.toNat % 2 ^ 31))
  | .iFneg _ => some (flt3 fun a _ _ => if isNan32 a then 0x7FC00000 else BitVec.ofNat 32 ((a.toNat + 2 ^ 31) % 2 ^ 32))
  | .iFeq _ => some (Claims.cmpF FVal.eq)
  | .iFlt _ => some (Claims.cmpF FVal.lt)
  | .iFle _ => some (Claims.cmpF fun x y => FVal.lt x y || FVal.eq x y)
  | .iFclass _ => some (flt3 fun a _ _ =>
      if isNan32 a then (if a.getLsbD 22 then 0x200 else 0x100)
      else if a = 0xFF800000 then 1 else if a = 0x7F800000 then 0x80
      else if a = 0x80000000 then 8 else if a = 0 then 0x10
      else if a.toNat % 2 ^ 31 < 2 ^ 23 then (if a.msb then 4 else 0x20) else if a.msb then 2 else 0x40)
  | .iScalb _ => some (fun w a b _ => ((f32scalb (a.setWidth 32) b.toInt).setWidth w, false))
  | .iFrcpE _ => some (flt3 fun a _ _ => f32rcpE a)
  | .iFrsqE _ => some (flt3 fun a _ _ => f32rsqE a)
  | .iCvtfI _ => some (fun w a b _ =>
      let q := encodeInt w (!b.getLsbD 0) (if b.getLsbD 1 then .rne else .rtz) (val32 (a.setWidth 32)); (BitVec.ofInt w q.1, q.2))
  | .iCvtiF _ => some (fun w a b _ => ((enc32 (if b.getLsbD 0 then .fin false a.toNat 1
      else .fin (decide (a.toInt < 0)) a.toInt.natAbs 1)).setWidth w, false))
  | .iBscale _ => some (fun w a b _ =>
      let c := scaleVal (b.toNat % 256)
      let x := val32 (a.setWidth 32)
      ((enc32 (if b.getLsbD 8 then x.div c else x.mul c)).setWidth w, false))
  | .iMkdesc _ => some (fun w a b _ => (BitVec.ofNat w (f32mkdesc (a.setWidth 32) (b.toNat % 256)), false))
  | _ => none

/-- The operation of an instruction that computes. -/
def Claims.computeOp (i : Instr) : Option OpF :=
  (Claims.intOp i).orElse fun _ => (Claims.logicOp i).orElse fun _ => (Claims.compareOp i).orElse fun _ => Claims.floatOp i

/-- Part of `TaskComputeResults`: integer instructions 0x00 to 0x0F on a task processor complete with the result of R198 and R199 in 64 bits, in
dstA and the destinations dstB adds; `nop` reads its sources and writes nothing. -/
def Claims.PartTaskIntegerResults : Prop :=
  (∀ (s : State) (i : Instr) (op : OpF) (h : Shape) (g p c : Nat) (t : TIn), Claims.intOp i = some op → Issues s i h g p c →
    t = issueIn s i h g p c → exec i s = .next (s.putResult t h.e.isDst (op 64 t.a t.b t.e).1)) ∧
  (∀ (s : State) (f : Fields) (h : Shape) (g p c : Nat) (t : TIn), Issues s (.iNop f) h g p c → t = issueIn s (.iNop f) h g p c →
    exec (.iNop f) s = .next (s.retire t t.x.advance))

/-- Part of `TaskComputeResults`: logic and bit instructions 0x10 to 0x1F on a task processor complete with the result of R200 in 64 bits. -/
def Claims.PartTaskLogicResults : Prop :=
  ∀ (s : State) (i : Instr) (op : OpF) (h : Shape) (g p c : Nat) (t : TIn), Claims.logicOp i = some op → Issues s i h g p c →
    t = issueIn s i h g p c → exec i s = .next (s.putResult t h.e.isDst (op 64 t.a t.b t.e).1)

/-- Part of `TaskComputeResults`: compare, select and move instructions 0x20 to 0x2E on a task processor complete with the result of R201 in 64
bits. -/
def Claims.PartTaskCompareResults : Prop :=
  ∀ (s : State) (i : Instr) (op : OpF) (h : Shape) (g p c : Nat) (t : TIn), Claims.compareOp i = some op → Issues s i h g p c →
    t = issueIn s i h g p c → exec i s = .next (s.putResult t h.e.isDst (op 64 t.a t.b t.e).1)

/-- O16 (tier 2): integer, logic, compare, select and move instructions of a task processor complete with the results of R198 to R201 in
64 bits, and `nop` goes on.
The model's readings here: log entry 41. -/
def Obligations.TaskComputeResults : Prop :=
  Claims.PartTaskIntegerResults ∧ Claims.PartTaskLogicResults ∧ Claims.PartTaskCompareResults

/-- O17 (tier 2): float, scale and conversion instructions on a task processor complete with the result of R202, R203, R207, R209,
R210 and R212; a lost NaN sets the context's bit (R209), which nothing else of the instruction clears. -/
def Obligations.TaskFloatResults : Prop :=
  (∀ (s : State) (i : Instr) (op : OpF) (h : Shape) (g p c : Nat) (t : TIn), Claims.floatOp i = some op → Issues s i h g p c →
    t = issueIn s i h g p c →
    exec i s = .next (s.putResult { t with x := { t.x with lnan := t.x.lnan || (op 64 t.a t.b t.e).2 } } h.e.isDst (op 64 t.a t.b t.e).1)) ∧
  (∀ (s : State) (f : Fields) (h : Shape) (g p c : Nat) (t : TIn) (q : Nat × Bool), Issues s (.iCvt f) h g p c →
    t = issueIn s (.iCvt f) h g p c →
    q = (if bitsOf t.lit 7 0 = 0x80 then ((if isNan32 (t.a.setWidth 32) then 0x7FC00000 else t.a.toNat % 2 ^ 32), false)
      else encodeFmt (bitsOf t.lit 7 0) (Rnd.ofCode (bitsOf t.lit 10 8) 0) (Sat.ofCode (bitsOf t.lit 12 11)) (val32 (t.a.setWidth 32))) →
    exec (.iCvt f) s = .next (s.putResult { t with x := { t.x with lnan := t.x.lnan || q.2 } } h.e.isDst (BitVec.ofNat 64 q.1)))

/-! Control of a task context (R230 to R234, R242 to R249). -/

/-- Whether a branch is taken, on srcA and dstA (R230). -/
def Claims.taken : Instr → Option (Word → Word → Bool)
  | .iBr _ => some (fun _ _ => true)
  | .iBz _ => some (fun a _ => decide (a.toNat = 0))
  | .iBnz _ => some (fun a _ => decide (a.toNat ≠ 0))
  | .iBlt _ => some (fun a b => decide (a.toInt < b.toInt))
  | .iBge _ => some (fun a b => decide (b.toInt ≤ a.toInt))
  | .iBltu _ => some (fun a b => decide (a.toNat < b.toNat))
  | .iBgeu _ => some (fun a b => decide (b.toNat ≤ a.toNat))
  | _ => none

/-- The slots of the store of a context's mode (R20, R240). -/
def Claims.slots (x : Ctx) : Nat := if x.steward then 256 else 2048

/-- Part of `TaskTransfers`: branches (R230). Where the target slot of the literal exists, a branch whose condition holds goes to it and ends
a repeat in progress, and one whose condition fails goes on (R232); a target beyond the store traps with cause 0x0A, taken or not. -/
def Claims.PartTaskBranches : Prop :=
  ∀ (s : State) (i : Instr) (h : Shape) (g p c n : Nat) (cond : Word → Word → Bool) (t : TIn) (w : Lane),
    Claims.taken i = some cond → Issues s i h g p c → t = issueIn s i h g p c → n = t.lit.toNat % 2048 → encodeWord i = some w →
    (n < Claims.slots (s.ctx g p c) → exec i s = .next (s.retire t (if cond t.a t.d then
      { t.x with pc := BitVec.ofNat 11 n, rpt := { t.x.rpt with active := false } } else t.x.advance))) ∧
    (Claims.slots (s.ctx g p c) ≤ n → exec i s = .next (s.takeTrap g p c 0x0A (s.ctx g p c).pc (w.setWidth 64) (s.ctx g p c).rpt))

/-- Part of `TaskTransfers`: calls and returns (R231). `call` puts the next slot's number into s23 and goes to the literal's slot; `ret` goes to the
slot in s23; `jr` goes to srcA's slot, read before dstA takes the next slot's number. Each ends a repeat in progress. -/
def Claims.PartTaskCalls : Prop :=
  ∀ (s : State) (f : Fields) (h : Shape) (g p c : Nat) (t : TIn),
    (Issues s (.iCall f) h g p c → t = issueIn s (.iCall f) h g p c → t.lit.toNat % 2048 < Claims.slots (s.ctx g p c) →
      exec (.iCall f) s = .next (s.retire t { t.x with
        s := t.x.s.setIfInBounds 23 (BitVec.ofNat 64 (t.x.pc.toNat + 1)), pc := BitVec.ofNat 11 t.lit.toNat
        rpt := { t.x.rpt with active := false } })) ∧
    (Issues s (.iRet f) h g p c → t = issueIn s (.iRet f) h g p c → ∀ v, (s.ctx g p c).s[23]? = some v →
      v.toNat < Claims.slots (s.ctx g p c) →
      exec (.iRet f) s = .next (s.retire t { t.x with pc := v.setWidth 11, rpt := { t.x.rpt with active := false } })) ∧
    (Issues s (.iJr f) h g p c → t = issueIn s (.iJr f) h g p c → t.a.toNat < Claims.slots (s.ctx g p c) →
      exec (.iJr f) s = .next (s.putThen t true (BitVec.ofNat 64 (t.x.pc.toNat + 1))
        (fun x => { x with pc := t.a.setWidth 11, rpt := { x.rpt with active := false } }))) ∧
    (∀ (i : Instr) (w : Lane), (i = .iCall f ∨ i = .iRet f ∨ i = .iJr f) → Issues s i h g p c → t = issueIn s i h g p c →
      encodeWord i = some w →
      Claims.slots (s.ctx g p c) ≤ (match i with | .iCall _ => t.lit.toNat % 2048 | .iRet _ => ((s.ctx g p c).s[23]?.getD 0).toNat | _ => t.a.toNat) →
      exec i s = .next (s.takeTrap g p c 0x0A (s.ctx g p c).pc (w.setWidth 64) (s.ctx g p c).rpt))

/-- O18 (tier 2): branches (R230), calls and returns (R231): where each goes, and the trap of a target beyond the store. -/
def Obligations.TaskTransfers : Prop :=
  Claims.PartTaskBranches ∧ Claims.PartTaskCalls

/-- Part of `TaskRepeats`: `rep` (R232). The low 32 bits of srcA count the passes of the body, the next slot up to the one n1 after it; a count
of zero skips the body. It traps with cause 0x09 while a repeat is active, or where the body would run past the last slot. -/
def Claims.PartTaskRepeats : Prop :=
  ∀ (s : State) (f : Fields) (h : Shape) (g p c n1 : Nat) (t : TIn) (w : Lane), Issues s (.iRep f) h g p c →
    t = issueIn s (.iRep f) h g p c → n1 = t.lit.toNat % 64 → encodeWord (.iRep f) = some w →
    (t.x.rpt.active = false → t.x.pc.toNat + n1 + 1 < 2048 → t.a.toNat % 2 ^ 32 ≠ 0 →
      exec (.iRep f) s = .next (s.retire t { t.x with
        pc := t.x.pc + 1, rpt := ⟨t.a.setWidth 32, t.x.pc + 1, BitVec.ofNat 6 n1, true, t.a.setWidth 32⟩ })) ∧
    (t.x.rpt.active = false → t.x.pc.toNat + n1 + 1 < 2048 → t.a.toNat % 2 ^ 32 = 0 →
      exec (.iRep f) s = .next (s.retire t { t.x with pc := BitVec.ofNat 11 (t.x.pc.toNat + n1 + 2) })) ∧
    (t.x.rpt.active = true ∨ 2048 ≤ t.x.pc.toNat + n1 + 1 →
      exec (.iRep f) s = .next (s.takeTrap g p c 9 (s.ctx g p c).pc (w.setWidth 64) (s.ctx g p c).rpt))

/-- O19 (tier 2): `rep` (R232): the repeat it starts, the body it skips at a count of zero, the forms it refuses, and how a context goes on
inside and at the end of a body. -/
def Obligations.TaskRepeats : Prop :=
  Claims.PartRepeatAdvance ∧ Claims.PartTaskRepeats

/-- An acquire of agent `a` (R123): it observes the writes that a release covered whose mark `f` names and whose scope covers it. Nothing else
changes. -/
def Claims.acquired (s : State) (a : Agent) (f : Mark → Bool) : State :=
  { s with stale := s.stale.map (fun e => if (∃ m ∈ e.marks, f m.1 = true ∧ inScopeOf m.2.1 m.2.2 a = true) ∧ a ∉ e.obs then
      { e with obs := a :: e.obs } else e) }

/-- The marks that the releases of the tags in `v` leave at a task processor (R123). -/
def Claims.tagMark (g p : Nat) (v : Word) : Mark → Bool
  | .tag a b k => decide (a = g ∧ b = p ∧ v.getLsbD k = true)
  | _ => false

/-- A release of agent `a` is not yet performed. -/
def Claims.releasing (s : State) (a : Agent) : Prop := ∃ r ∈ s.reqs, r.who = a ∧ r.rel = true ∧ r.performed = false

/-- O20 (tier 2): waiting (R233, R234). `wait` goes on when every class counts no more than its immediate and blocks otherwise; the
tag instructions read the done bits of the task processor: `wtag.any` gives the set ones of srcA and blocks while there is none,
unless srcA is zero; `wtag.all` blocks until all are set; `ftag` gives the lowest set one, all ones if none; `ctag` clears. The return of
a tag wait, and of a `wait` that brings cp or tl to 0, is an acquire of what the copies and tile operations released, and waits for the
context's own earlier releases (R123). The model's readings here: log entry 11. -/
def Obligations.WaitsAndTags : Prop :=
  ∀ (s : State) (f : Fields) (h : Shape) (g p c : Nat) (t : TIn),
    (Issues s (.iWait f) h g p c → t = issueIn s (.iWait f) h g p c →
      let met := t.x.ld ≤ f.a.toNat ∧ t.x.st ≤ f.b.toNat ∧ t.x.cp ≤ f.d.toNat ∧ t.x.tl ≤ f.e.toNat
      let acq := f.d.toNat = 0 ∨ f.e.toNat = 0
      (met → (acq → ¬ Claims.releasing s (.ctx g p c)) → exec (.iWait f) s = .next ((Claims.acquired s (.ctx g p c) (fun m =>
        (f.d.toNat = 0 ∧ m = .cp g p c) ∨ (f.e.toNat = 0 ∧ m = .tl g p c))).retire t t.x.advance)) ∧
      (¬ (met ∧ (acq → ¬ Claims.releasing s (.ctx g p c))) → exec (.iWait f) s = .next (Claims.waits s g p c
        (.blkWait (.counts f.a.toNat f.b.toNat f.d.toNat f.e.toNat (f.d == 0 || f.e == 0)))))) ∧
    (Issues s (.iWtagAny f) h g p c → t = issueIn s (.iWtagAny f) h g p c → ∀ v, v = (s.tp g p).cpdone &&& t.a →
      ((t.a = 0 ∨ v ≠ 0) → ¬ Claims.releasing s (.ctx g p c) → exec (.iWtagAny f) s = .next ((Claims.acquired s (.ctx g p c) (fun m =>
        Claims.tagMark g p v m)).putResult t h.e.isDst v)) ∧
      (¬ (t.a = 0 ∨ v ≠ 0) ∨ Claims.releasing s (.ctx g p c) → exec (.iWtagAny f) s = .next (Claims.waits s g p c (.blkWait (.anyTag t.a))))) ∧
    (Issues s (.iWtagAll f) h g p c → t = issueIn s (.iWtagAll f) h g p c →
      ((s.tp g p).cpdone &&& t.a = t.a → ¬ Claims.releasing s (.ctx g p c) → exec (.iWtagAll f) s = .next ((Claims.acquired s (.ctx g p c) (fun m =>
        Claims.tagMark g p t.a m)).retire t t.x.advance)) ∧
      ((s.tp g p).cpdone &&& t.a ≠ t.a ∨ Claims.releasing s (.ctx g p c) → exec (.iWtagAll f) s = .next (Claims.waits s g p c (.blkWait (.allTags t.a))))) ∧
    (Issues s (.iFtag f) h g p c → t = issueIn s (.iFtag f) h g p c → ∀ v : Word,
      (∀ k, k < 64 → ((s.tp g p).cpdone &&& t.a).getLsbD k = true → (∀ j, j < k → ((s.tp g p).cpdone &&& t.a).getLsbD j = false) →
        v = BitVec.ofNat 64 k) → ((s.tp g p).cpdone &&& t.a = 0 → v = 0xFFFFFFFFFFFFFFFF) →
      exec (.iFtag f) s = .next (s.putResult t true v)) ∧
    (Issues s (.iCtag f) h g p c → t = issueIn s (.iCtag f) h g p c →
      exec (.iCtag f) s = .next ((s.retire t t.x.advance).updTp g p (fun q => { q with cpdone := q.cpdone &&& ~~~t.a })))

/-- The value `ctl.rd` gives for a control register of the map (R242). -/
def Claims.ctlValue (s : State) (g p c : Nat) (x : Ctx) : Nat → Word
  | 0x0 => x.tcause.setWidth 64
  | 0x1 => x.tslot.setWidth 64
  | 0x2 => x.tval
  | 0x3 => x.uslot.setWidth 64
  | 0x4 => x.utvec.setWidth 64
  | 0x5 => x.tvec.setWidth 64
  | 0x6 => x.sscr
  | 0x7 => BitVec.ofNat 64 (x.rsave.left.toNat + x.rsave.start.toNat * 2 ^ 32 + x.rsave.n1.toNat * 2 ^ 43 + (if x.rsave.active then 2 ^ 49 else 0))
  | 0x8 => BitVec.ofNat 64 (x.rpt.left.toNat + x.rpt.start.toNat * 2 ^ 32 + x.rpt.n1.toNat * 2 ^ 43 + (if x.rpt.active then 2 ^ 49 else 0))
  | 0x9 => BitVec.ofNat 64 ((if x.lnan then 1 else 0) + (if x.steward then 2 else 0) + c % 4 * 8)
  | 0xA => (s.tp g p).cperr
  | 0xB => (s.tp g p).cpdone
  | n => if 0x24 ≤ n ∧ n ≤ 0x3F then (s.elem g ((s.tile g).phys (n - 0x20))).statusWord else 0

/-- Part of `ControlRegisters`: `ctl.rd` reads every register of the map in the mode that may (R242); a number outside it traps with cause 0x09, a
system register in tenant mode with cause 0x10. -/
def Claims.PartControlReads : Prop :=
  ∀ (s : State) (f : Fields) (h : Shape) (g p c n : Nat) (t : TIn) (w : Lane), Issues s (.iCtlRd f) h g p c →
    t = issueIn s (.iCtlRd f) h g p c → n = t.a.toNat % 4096 → encodeWord (.iCtlRd f) = some w →
    ((n < 0xC ∨ (0x20 ≤ n ∧ n < 0x40)) → (n = 5 ∨ n = 6 → t.x.steward = true) →
      exec (.iCtlRd f) s = .next (s.putResult t true (Claims.ctlValue s g p c t.x n))) ∧
    (¬ (n < 0xC ∨ (0x20 ≤ n ∧ n < 0x40)) →
      exec (.iCtlRd f) s = .next (s.takeTrap g p c 9 (s.ctx g p c).pc (w.setWidth 64) (s.ctx g p c).rpt)) ∧
    (n = 5 ∨ n = 6 → t.x.steward = false →
      exec (.iCtlRd f) s = .next (s.takeTrap g p c 0x10 (s.ctx g p c).pc (w.setWidth 64) (s.ctx g p c).rpt))

/-- Part of `ControlRegisters`: `ctl.wr` (R242). Each writable register takes srcB in its own width; ctxst and cperr clear the bits written as one
(ctxst its lost-NaN bit alone), an element's status its sticky bits; a read-only register, or a number outside the map,
traps with cause 0x09, a system register in tenant mode with cause 0x10. -/
def Claims.PartControlWrites : Prop :=
  ∀ (s : State) (f : Fields) (h : Shape) (g p c n : Nat) (t : TIn) (w : Lane), Issues s (.iCtlWr f) h g p c →
    t = issueIn s (.iCtlWr f) h g p c → n = t.a.toNat % 4096 → encodeWord (.iCtlWr f) = some w →
    (∀ x', (match n with
        | 0 => t.x.steward = true ∧ x' = { t.x with tcause := t.b.setWidth 16 }
        | 1 => t.x.steward = true ∧ x' = { t.x with tslot := t.b.setWidth 11 }
        | 2 => t.x.steward = true ∧ x' = { t.x with tval := t.b }
        | 3 => x' = { t.x with uslot := t.b.setWidth 11 }
        | 4 => x' = { t.x with utvec := t.b.setWidth 12 }
        | 5 => t.x.steward = true ∧ x' = { t.x with tvec := t.b.setWidth 8 }
        | 6 => t.x.steward = true ∧ x' = { t.x with sscr := t.b }
        | 9 => x' = { t.x with lnan := t.x.lnan && !t.b.getLsbD 0 }
        | _ => False) → exec (.iCtlWr f) s = .next (s.retire t x'.advance)) ∧
    (n = 0xA → exec (.iCtlWr f) s =
      .next ((s.retire t t.x.advance).updTp g p (fun q => { q with cperr := q.cperr &&& ~~~t.b }))) ∧
    (0x20 ≤ n → n < 0x24 → exec (.iCtlWr f) s = .next (s.retire t t.x.advance)) ∧
    (0x24 ≤ n → n < 0x40 → exec (.iCtlWr f) s =
      .next ((s.retire t t.x.advance).updElem g ((s.tile g).phys (n - 0x20)) (fun x => { x with
        smiss := x.smiss && !t.b.getLsbD 1, lnan := x.lnan && !t.b.getLsbD 2, wrf := x.wrf && !t.b.getLsbD 3
        esl := x.esl && !t.b.getLsbD 4, recCnt := if t.b.toNat / 2 ^ 16 % 256 = 0 then x.recCnt else 0
        gzc := if t.b.toNat / 2 ^ 24 % 256 = 0 then x.gzc else 0 }))) ∧
    ((¬ (n < 0xC ∨ (0x20 ≤ n ∧ n < 0x40)) ∨ n = 7 ∨ n = 8 ∨ n = 0xB ∨ (n < 3 ∧ t.x.steward = false)) →
      exec (.iCtlWr f) s = .next (s.takeTrap g p c 9 (s.ctx g p c).pc (w.setWidth 64) (s.ctx g p c).rpt)) ∧
    (n = 5 ∨ n = 6 → t.x.steward = false →
      exec (.iCtlWr f) s = .next (s.takeTrap g p c 0x10 (s.ctx g p c).pc (w.setWidth 64) (s.ctx g p c).rpt))

/-- O21 (tier 2): `ctl.rd` and `ctl.wr` (R242): every register of the map, read and written in the mode that may, and what traps. -/
def Obligations.ControlRegisters : Prop :=
  Claims.PartControlReads ∧ Claims.PartControlWrites

/-- O22 (tier 2): counters and identity on a task processor (R243, R244, R421). `cnt.rd` gives the cycles since the tile's reset, the
instructions issued, the cycles blocked, the watchdog count, the array steps, and in steward mode the fleet counters 8 to 15;
`id.rd` the place (the task processor by its role: log entry 52), the team and the number of teams, the instance, the tenant, the
chip and the device revision. Other numbers trap with cause 0x09, and a fleet counter in tenant mode with cause 0x10.
The model's readings here: log entries 20, 50, 52. -/
def Obligations.CountersAndIdentity : Prop :=
  ∀ (s : State) (f : Fields) (h : Shape) (g p c : Nat) (t : TIn) (i : Nat) (r : Region), (s.tile g).inst = some i →
    NMap.find s.regions i = some r →
    (Issues s (.iCntRd f) h g p c → t = issueIn s (.iCntRd f) h g p c → ∀ v : Word,
      (match t.a.toNat with
        | 0 => v = BitVec.ofNat 64 (s.acCycles g)
        | 1 => v = t.x.work
        | 2 => v = t.x.blk
        | 3 => v = BitVec.ofNat 64 r.wdg
        | 4 => v = (s.tile g).steps
        | n => 8 ≤ n ∧ n < 16 ∧ t.x.steward = true ∧ v = NMap.get (s.tile g).fleet n 0) →
      exec (.iCntRd f) s = .next (s.putResult t true v)) ∧
    (Issues s (.iIdRd f) h g p c → t = issueIn s (.iIdRd f) h g p c → ∀ v : Word,
      (match t.a.toNat with
        | 0 => v = BitVec.ofNat 64 (g / 48 + g % 48 * 2 ^ 3 + (s.tile g).role p * 2 ^ 9 + c * 2 ^ 11)
        | 1 => v = BitVec.ofNat 64 ((s.tile g).team + r.tiles.length * 2 ^ 16)
        | 2 => v = BitVec.ofNat 64 (i % 2 ^ 32)
        | 3 => v = BitVec.ofNat 64 r.tenant
        | 4 => v = (s.hubWord 0x70000) &&& 0xFF
        | 5 => v = Config.deviceRevision.setWidth 64
        | _ => False) →
      exec (.iIdRd f) s = .next (s.putResult t true v)) ∧
    (∀ (j : Instr) (w : Lane), Issues s j h g p c → t = issueIn s j h g p c → encodeWord j = some w →
      (j = .iIdRd f ∧ 5 < t.a.toNat ∨ j = .iCntRd f ∧ (4 < t.a.toNat ∧ t.a.toNat < 8 ∨ 16 ≤ t.a.toNat)) →
      exec j s = .next (s.takeTrap g p c 9 (s.ctx g p c).pc (w.setWidth 64) (s.ctx g p c).rpt)) ∧
    (∀ (w : Lane), Issues s (.iCntRd f) h g p c → t = issueIn s (.iCntRd f) h g p c → encodeWord (.iCntRd f) = some w →
      8 ≤ t.a.toNat → t.a.toNat < 16 → t.x.steward = false →
      exec (.iCntRd f) s = .next (s.takeTrap g p c 0x10 (s.ctx g p c).pc (w.setWidth 64) (s.ctx g p c).rpt))

/-- Part of `HaltsAndDebug`: a write of a debug register (R246): it reads back in its own width, and no other debug register changes; one of 0xA5
resumes the halted elements, contexts and sequencer that its bits name. Nothing else changes. -/
def Claims.PartDebugWrites : Prop :=
  ∀ (s : State) (g p n : Nat) (b : Word),
    let s' := s.dbgSet g p n b
    let wide := if n < 0x80 then 64 else if n < 0xA0 then 34 else if n < 0xA4 then 45 else 37
    { s' with tiles := s.tiles } = s ∧ (∀ h, h ≠ g → s'.tile h = s.tile h) ∧
    (n ≤ 0xA4 → p < 4 → (s'.dbgGet g p n).1 = BitVec.ofNat 64 (b.toNat % 2 ^ wide) ∧ (∀ m, m ≤ 0xA4 → m ≠ n → (s'.dbgGet g p m).1 = (s.dbgGet g p m).1) ∧
      { s'.tile g with shadow := (s.tile g).shadow, filter := (s.tile g).filter, amatch := (s.tile g).amatch, stepMatch := (s.tile g).stepMatch } = s.tile g) ∧
    (n = 0xA5 →
      { s'.tile g with elems := (s.tile g).elems, tps := (s.tile g).tps, triad := (s.tile g).triad } = s.tile g ∧
      (∀ e, let named : Prop := (s.elem g e).halt = true ∧ ∃ k, 4 ≤ k ∧ k < 32 ∧ (s.tile g).phys k = e ∧ b.getLsbD k = true
        (named → s'.elem g e = { s.elem g e with halt := false, skipBrk := true }) ∧ (¬ named → s'.elem g e = s.elem g e)) ∧
      (∀ q c, s'.ctx g q c = if q = p ∧ c < 4 ∧ b.getLsbD (32 + c) = true ∧ (s.ctx g q c).status = .halted then
        { s.ctx g q c with status := .runnable } else s.ctx g q c) ∧
      (s'.tile g).triad = if b.getLsbD 40 = true ∧ (s.tile g).triad.halted = true then
        { (s.tile g).triad with halted := false, skipBrk := true } else (s.tile g).triad)

/-- Part of `HaltsAndDebug`: the swap step of an element (R39, R248): to the next plane where it is ready, and then the tokens of slots that the new
plane fills stay; a wait for the fill where one is pending; else the swap-miss bit. -/
def Claims.PartSwapStep : Prop :=
  ∀ (s : State) (g e : Nat),
    let x := s.elem g e
    let y := (s.swapStep g e).elem g e
    let full : Nat → Bool := fun k => (NMap.get x.planes x.npl Plane.empty).mask.getLsbD k
    (x.nrdy = true → y.apl = x.npl ∧ y.nrdy = false ∧ y.swapWait = false ∧ y.planes = x.planes ∧ y.e = x.e ∧ y.cur = x.cur ∧ y.smiss = x.smiss ∧
      y.store = x.store.filter (fun q => full q.slot)) ∧
    (x.nrdy = false → x.npnd = true → s.swapStep g e = s.updElem g e (fun z => { z with swapWait := true })) ∧
    (x.nrdy = false → x.npnd = false → s.swapStep g e = s.updElem g e (fun z => { z with smiss := true }))

/-- O23 (tier 2): halts, plane swaps, intake, pre-emption requests and debug registers (R246 to R249). `halt` stops the context at the
next slot; `idle` waits at its own slot; `swp.pl` swaps at once where no firing is under way, else asks for it; `qsc` with bit 0
clear opens the team's intake, with bit 0 set closes it and goes on once nothing is on its way in and the array may be
interrupted; `pmt` asks for the region's pre-emption with cause 2 and a reason; `dbg.x` gives the register's value, and writes
it where bit 12 of srcA is set; a number beyond 0xA5, or an element code below 4, is cause 0x09. What a swap and a write of a debug register do
is stated too.
The model's readings here: log entries 49, 50. -/
def Obligations.HaltsAndDebug : Prop :=
  ∀ (s : State) (f : Fields) (h : Shape) (g p c : Nat) (t : TIn),
    (Issues s (.iHalt f) h g p c → t = issueIn s (.iHalt f) h g p c →
      exec (.iHalt f) s = .next ((s.retire t t.x.advance).updCtx g p c (fun x => { x with status := .halted }))) ∧
    (Issues s (.iIdle f) h g p c → t = issueIn s (.iIdle f) h g p c →
      exec (.iIdle f) s = .next ((s.retire t t.x).block g p c .blkIdle)) ∧
    (Issues s (.iSwpPl f) h g p c → t = issueIn s (.iSwpPl f) h g p c → 4 ≤ t.a.toNat % 32 → ∀ e, e = (s.tile g).phys (t.a.toNat % 32) →
      exec (.iSwpPl f) s = .next (if (s.elem g e).cur.isSome
        then (s.retire t t.x.advance).updElem g e (fun x => { x with swapReq := true }) else (s.retire t t.x.advance).swapStep g e)) ∧
    (Issues s (.iQsc f) h g p c → t = issueIn s (.iQsc f) h g p c → t.a.getLsbD 0 = false →
      exec (.iQsc f) s = .next ((s.retire t t.x.advance).updTile g (fun q => { q with intake := true }))) ∧
    (Issues s (.iQsc f) h g p c → t = issueIn s (.iQsc f) h g p c → t.a.getLsbD 0 = true →
      ∀ u, u = s.updTile g (fun q => { q with intake := false }) →
      exec (.iQsc f) s = .next (if u.arcsClear g ∧ (u.tile g).triad.interruptible then u.retire t t.x.advance
        else u.block g p c (.blkEngine .clear))) ∧
    (Issues s (.iPmt f) h g p c → t = issueIn s (.iPmt f) h g p c → ∀ i, (s.tile g).inst = some i →
      exec (.iPmt f) s = .next ((s.retire t t.x.advance).updReg i (fun r =>
        match r.st with | .running => { r with st := .stopping (2 + 256 * (t.a.toNat % 256)) } | _ => r))) ∧
    (Issues s (.iDbgX f) h g p c → t = issueIn s (.iDbgX f) h g p c → ∀ n, n = t.a.toNat % 1024 → n ≤ 0xA5 →
      ∀ (v : Word) (u : State), (v, u) = s.dbgGet g p n →
      exec (.iDbgX f) s = .next (if t.a.getLsbD 12 then (u.putResult t true v).dbgSet g p n t.b else u.putResult t true v)) ∧
    (∀ (j : Instr) (w : Lane), Issues s j h g p c → t = issueIn s j h g p c → encodeWord j = some w →
      (j = .iDbgX f ∧ 0xA5 < t.a.toNat % 1024 ∨ j = .iSwpPl f ∧ t.a.toNat % 32 < 4) →
      exec j s = .next (s.takeTrap g p c 9 (s.ctx g p c).pc (w.setWidth 64) (s.ctx g p c).rpt)) ∧
    (∀ n, (n < 0x80 → s.dbgGet g p n = (NMap.get (s.tile g).shadow n 0, s)) ∧
      (0x80 ≤ n → n < 0xA0 → s.dbgGet g p n = (NMap.get (s.tile g).filter (n - 0x80) 0, s)) ∧
      (0xA0 ≤ n → n < 0xA4 → s.dbgGet g p n = (NMap.get (s.tile g).amatch (4 * p + (n - 0xA0)) 0, s)) ∧
      (n = 0xA4 → s.dbgGet g p n = ((s.tile g).stepMatch, s))) ∧
    Claims.PartDebugWrites ∧ Claims.PartSwapStep

/-! Firings (R30 to R39, R194 to R197). -/

/-- A firing of `i` completes: its results leave in order, and it ends (R31, R32). -/
def Claims.gives (s : State) (i : Instr) (h : Shape) (r : Fire) (g e : Nat) (os : List Out) : Prop :=
  exec i s = .next (fired s h r g e os)

/-- A firing of `i` is stopped by an operand value: an error token with the cause and the value leaves in place of the result
(R104, R196). -/
def Claims.refuses (s : State) (i : Instr) (h : Shape) (r : Fire) (g e cause : Nat) (v : Word) : Prop :=
  exec i s = .next (firedError s h r g e cause v)

/-- The values of the three sources of a firing (R177, R194). -/
def Claims.va (s : State) (r : Fire) (g e : Nat) : Val := r.val (s.elem g e) r.f.a.toNat
/-- The second source. -/
def Claims.vb (s : State) (r : Fire) (g e : Nat) : Val := r.val (s.elem g e) r.f.b.toNat
/-- The third source. -/
def Claims.vc (s : State) (r : Fire) (g e : Nat) : Val := r.val (s.elem g e) r.f.e.toNat

/-- A scalar token of a firing. -/
def Claims.sc (r : Fire) (v : Word) : Tok := ⟨.scalar, r.thread, r.iter, 0, v, [], []⟩
/-- A run of a firing, numbered from its overlap (R32). -/
def Claims.run (r : Fire) (ls : List Lane) (idx : List Nat) : Tok := ⟨.vector, r.thread, r.iter, r.n - 1, 0, ls, idx⟩

/-- O24 (tier 2): what a firing changes. With no plane swap due: the element's firing ends, its work counts, and of its registers
only those a result names change. Memory, scratchpads, vaults, hub, requests, every other tile, every other element and
every task processor of its tile keep everything; of the region records only the tile's own changes, and there only the arcs
that start at the element, the circuits that start there, the sink queue, the stray count and the watchdog. -/
def Obligations.FiringFrame : Prop :=
  ∀ (s : State) (h : Shape) (r : Fire) (g e : Nat) (os : List Out), r.eor = false → (s.elem g e).swapReq = false →
    let s' := fired s h r g e os
    { s' with tiles := s.tiles, regions := s.regions, begun := s.begun, free := s.free } = s ∧ s'.begun = none ∧
    (∀ k, k ≠ g → s'.tile k = s.tile k) ∧ { s'.tile g with elems := (s.tile g).elems } = s.tile g ∧
    (∀ k, k ≠ e → s'.elem g k = s.elem g k) ∧
    { s'.elem g e with e := (s.elem g e).e, cur := (s.elem g e).cur, work := (s.elem g e).work, recCnt := (s.elem g e).recCnt }
      = { s.elem g e with swapReq := false } ∧
    (s'.elem g e).cur = none ∧ (s'.elem g e).work = (s.elem g e).work + 1 ∧
    (∀ k, r.f.d.toNat ≠ 16 + k → r.f.e.toNat ≠ 16 + k → (∀ t, .port (16 + k) t ∉ os) → (s'.elem g e).e[k]? = (s.elem g e).e[k]?) ∧
    (∀ j, (s.tile g).inst ≠ some j → NMap.find s'.regions j = NMap.find s.regions j) ∧
    (∀ j q q', NMap.find s.regions j = some q → NMap.find s'.regions j = some q' →
      { q' with wires := q.wires, pulses := q.pulses, sinkQ := q.sinkQ, stray := q.stray, wdg := q.wdg } = q ∧
      (∀ a, (∀ port x, (a, x) ∉ q.arcsAt (s.tile g).team ((s.tile g).role e) port) → NMap.get q'.wires a [] = NMap.get q.wires a []) ∧
      (∀ a, (∀ port x, (a, x) ∉ q.circsAt (s.tile g).team ((s.tile g).role e) port) → NMap.get q'.pulses a 0 = NMap.get q.pulses a 0))

/-- Part of `ResultsAndBadTokens`: where one result goes (R32, R34, R177). With the tag action applied: an out-port puts one token on the end of every
arc that starts there, an element register takes the scalar value, `z` discards it, a control port puts one pulse on every
circuit that starts there; a bad token never enters a register, which counts it instead (R30). -/
def Claims.PartResultDestination : Prop :=
  ∀ (s : State) (g e : Nat) (f : Fields) (lit : Word) (tb : Option (Nat × Nat)) (k : Tok),
    let q := tagAct f.t.toNat lit tb k
    let s' := s.emitOut g e f false lit tb (.a k)
    (∀ i r, f.d.toNat < 16 → (s.tile g).inst = some i → NMap.find s.regions i = some r →
      ∃ r', NMap.find s'.regions i = some r' ∧ { r' with wires := r.wires } = r ∧ ∀ a, NMap.get r'.wires a [] = NMap.get r.wires a [] ++
        (r.arcsAt (s.tile g).team ((s.tile g).role e) f.d.toNat).filterMap (fun x => if x.1 = a then some ⟨x.2.slot, q, 0, 0⟩ else none)) ∧
    (∀ n, n < 8 → f.d.toNat = 16 + n → q.isBad = false → q.lanes = [] →
      s' = s.updElem g e (fun x => { x with e := x.e.setIfInBounds n q.value })) ∧
    (∀ n, n < 8 → f.d.toNat = 16 + n → q.isBad = true → s' = s.updElem g e (fun x => { x with recCnt := min 255 (x.recCnt + 1) })) ∧
    (28 ≤ f.d.toNat → s' = s) ∧
    (∀ n i, n < 4 → f.d.toNat = 24 + n → (s.tile g).inst = some i → q.kind ≠ .err → q.kind ≠ .fault →
      s' = s.updReg i (fun r => r.pulseAll (r.circsAt (s.tile g).team ((s.tile g).role e) n)))

/-- Part of `ResultsAndBadTokens`: bad tokens propagate (R30). A firing that consumed an error or fault token on a source, where the instruction
takes no such token as an operand, gives in place of its result a token of that kind with the firing's tag and length and the payload
of the first one in the order srcA, srcB, dstB, to every destination the word names, and does nothing else. -/
def Claims.PartBadTokensPropagate : Prop :=
  ∀ (s : State) (i : Instr) (h : Shape) (r : Fire) (g e : Nat) (k : Tok), (∀ f, i ≠ .iSink f) → e < 28 → i.enc.isSome = true →
    s.site = .elem g e → (s.elem g e).cur = some r → elemShape i = some h → r.bad h (fun _ => false) = some k →
    k.kind ≠ .window → (∀ f, i ≠ .iIll f) →
    exec i s = .next ((s.emitOuts g e r.f (h.e.isDst && !h.role2) r.lit r.tagB
      (errOuts h r.f ⟨k.kind, r.thread, r.iter, r.n - 1, k.pay, [], []⟩)).endFire g e r.eor)

/-- O25 (tier 2): where one result goes (R32, R34, R177), and a firing that consumed an error or fault token (R30).
The model's readings here: log entries 42, 43. -/
def Obligations.ResultsAndBadTokens : Prop :=
  Claims.PartResultDestination ∧ Claims.PartBadTokensPropagate

/-- O26 (tier 2): an instruction that computes (chapter 10), fired: one operation at 64 bits where every source is a scalar, else one at
32 bits in each of the L lanes, a scalar source giving its low half to every lane (R194, R195); the result carries the indices of
the first indexed source (R197). Every instruction of the tables above completes so, with `nop`, `cvt` and `cvt.sr`.
The model's readings here: log entry 41. -/
def Obligations.FiringCompute : Prop :=
  ∀ (s : State) (i : Instr) (h : Shape) (r : Fire) (g e : Nat), Fires s i h r g e →
    let a := Claims.va s r g e
    let b := Claims.vb s r g e
    let c := Claims.vc s r g e
    let idx := if a.idx ≠ [] then a.idx else if b.idx ≠ [] then b.idx else c.idx
    let cv : Nat → Lane → Nat × Bool := fun u x =>
      if bitsOf r.lit 7 0 = 0x80 then ((if isNan32 x then 0x7FC00000 else x.toNat), false)
      else encodeFmt (bitsOf r.lit 7 0) (Rnd.ofCode (bitsOf r.lit 10 8) u) (Sat.ofCode (bitsOf r.lit 12 11)) (val32 x)
    let s' := fun l => s.updElem g e (fun x => { x with lnan := x.lnan || l })
    (∀ op, Claims.computeOp i = some op → r.vec = false → exec i s =
      .next (fired (s' (op 64 a.scal b.scal c.scal).2) h r g e [.a (Claims.sc r (op 64 a.scal b.scal c.scal).1)])) ∧
    (∀ op, Claims.computeOp i = some op → r.vec = true →
      let l := (List.range r.n).map (fun k => op 32 (a.lane k) (b.lane k) (c.lane k))
      exec i s = .next (fired (s' (l.any (·.2))) h r g e [.a (Claims.run r (l.map (·.1)) idx)])) ∧
    (∀ f, i = .iNop f → Claims.gives s i h r g e []) ∧
    (∀ f, i = .iCvt f → r.vec = false →
      let q := cv 0 (a.scal.setWidth 32)
      exec i s = .next (fired (s' q.2) h r g e [.a (Claims.sc r (BitVec.ofNat 64 q.1))])) ∧
    (∀ f, i = .iCvt f → r.vec = true →
      let l := (List.range r.n).map (fun k => cv 0 (a.lane k))
      exec i s = .next (fired (s' (l.any (·.2))) h r g e [.a (Claims.run r (l.map (fun q => BitVec.ofNat 32 q.1)) idx)])) ∧
    (∀ f, i = .iCvtSr f → r.vec = false →
      let q := cv (c.scal.toNat / 2 ^ 32) (a.scal.setWidth 32)
      exec i s = .next (fired (s' q.2) h r g e [.a (Claims.sc r (BitVec.ofNat 64 q.1))])) ∧
    (∀ f, i = .iCvtSr f → r.vec = true →
      let l := (List.range r.n).map (fun k => cv (c.lane k).toNat (a.lane k))
      exec i s = .next (fired (s' (l.any (·.2))) h r g e [.a (Claims.run r (l.map (fun q => BitVec.ofNat 32 q.1)) idx)]))

/-- A function of a lane and a control word: whether the control word is legal, the scalar result and the lane result (R205, R206). -/
def Claims.ctlOp (lut : NMap Coef) : Instr → Option ((Word → Bool) × (Word → Word → Word) × (Lane → Word → Lane))
  | .iLutEv _ => some (lutOk true, fun a b => (lutEv lut (a.setWidth 32) b).setWidth 64, fun a b => lutEv lut a b)
  | .iLutIx _ => some (lutOk false,
      fun a b => (NMap.get lut (b.toNat % 1024 + (min (max a.toInt 0) (2 ^ bitsOf b 13 10 - 1)).toNat) Coef.zero).c0.setWidth 64,
      fun a b => (NMap.get lut (b.toNat % 1024 + (min (max a.toInt 0) (2 ^ bitsOf b 13 10 - 1)).toNat) Coef.zero).c0)
  | .iRredExp _ => some (fun b => decide (b.toNat < 32 ∧ b.toNat % 16 ≤ 10),
      fun a b => if b.getLsbD 4 then BitVec.ofInt 64 (rredExp (a.setWidth 32) (b.toNat % 16)).2 else (rredExp (a.setWidth 32) (b.toNat % 16)).1.setWidth 64,
      fun a b => if b.getLsbD 4 then BitVec.ofInt 32 (rredExp a (b.toNat % 16)).2 else (rredExp a (b.toNat % 16)).1)
  | .iRredLog _ => some (fun b => decide (b.toNat < 32 ∧ b.toNat % 16 ≤ 10),
      fun a b => if b.getLsbD 4 then BitVec.ofInt 64 (rredLog (a.setWidth 32)).2 else (rredLog (a.setWidth 32)).1.setWidth 64,
      fun a b => if b.getLsbD 4 then BitVec.ofInt 32 (rredLog a).2 else (rredLog a).1)
  | .iRredTrig _ => some (fun b => decide (b.toNat < 32 ∧ b.toNat % 16 ≤ 10),
      fun a b => if b.getLsbD 4 then BitVec.ofInt 64 (rredTrig (a.setWidth 32)).2 else (rredTrig (a.setWidth 32)).1.setWidth 64,
      fun a b => if b.getLsbD 4 then BitVec.ofInt 32 (rredTrig a).2 else (rredTrig a).1)
  | _ => none

/-- O27 (tier 2): the instructions of the LUT elements (R205, R206): a firing whose control words are all legal gives the function's
result, in every lane where a source is a run; the first illegal control word gives cause 0x40.
The model's readings here: log entries 14, 26. -/
def Obligations.FiringLut : Prop :=
  ∀ (s : State) (i : Instr) (h : Shape) (r : Fire) (g e : Nat) (ok : Word → Bool) (wide : Word → Word → Word) (fn : Lane → Word → Lane),
    Fires s i h r g e → Claims.ctlOp (s.elem g e).lut i = some (ok, wide, fn) →
    let a := Claims.va s r g e
    let b := Claims.vb s r g e
    (r.vec = false → ok b.scal = true → Claims.gives s i h r g e [.a (Claims.sc r (wide a.scal b.scal))]) ∧
    (r.vec = false → ok b.scal = false → Claims.refuses s i h r g e 0x40 b.scal) ∧
    (r.vec = true → (∀ k, k < r.n → ok (b.ctl k) = true) → Claims.gives s i h r g e
      [.a (Claims.run r ((List.range r.n).map (fun k => fn (a.lane k) (b.ctl k))) (if a.idx ≠ [] then a.idx else b.idx))]) ∧
    (∀ k, r.vec = true → k < r.n → (∀ j, j < k → ok (b.ctl j) = true) → ok (b.ctl k) = false →
      Claims.refuses s i h r g e 0x40 (b.ctl k))

/-- The fold of a reduction: the FP32 operation, and the integer one. -/
def Claims.reduceOp : Instr → Option ((Lane → Lane → Lane) × (Int → Int → Int))
  | .iVsum _ => some (fun a b => enc32 ((val32 a).add (val32 b)), fun x y => x + y)
  | .iVmax _ => some (f32max, max)
  | .iVmin _ => some (f32min, min)
  | _ => none

/-- A source of a firing as a number at the firing's width (R194): where a source is a run, bits [31:0] of one that is none. -/
def Claims.num (r : Fire) (v : Val) : Nat := if r.vec then v.scal.toNat % 2 ^ 32 else v.scal.toNat

/-- O28 (tier 2): reductions, counts and scans (R66, R67, R213), and `amax` (R212), over the lanes of srcA, a scalar standing for
one lane. srcB gives the type at the firing's width (R194), 0 FP32, 1 signed, 2 unsigned; any other gives cause 0x40. The FP32 fold is the
pairwise tree, the integer one exact, extended to 64 bits; `vscan` runs in lane order. A NaN that goes through unchanged is made canonical: log
entry 63. -/
def Obligations.FiringReductions : Prop :=
  ∀ (s : State) (i : Instr) (h : Shape) (r : Fire) (g e : Nat), Fires s i h r g e →
    let a := Claims.va s r g e
    let b := Claims.vb s r g e
    let ls := a.lanes
    let canon : Lane → Lane := fun x => if isNan32 x then 0x7FC00000 else x
    let ty := Claims.num r b
    let num : Lane → Int := fun x => if ty = 1 then x.toInt else x.toNat
    (∀ fp int, Claims.reduceOp i = some (fp, int) →
      (ty = 0 → Claims.gives s i h r g e [.a (Claims.sc r ((canon (treeReduce fp 0 ls)).setWidth 64))]) ∧
      (∀ x l, ty = 1 ∨ ty = 2 → ls = x :: l →
        Claims.gives s i h r g e [.a (Claims.sc r (BitVec.ofInt 64 ((l.map num).foldl int (num x))))])) ∧
    (∀ f x l, i = .iVscan f → ls = x :: l → ty ≤ 2 → ∃ out : List Lane, out.length = ls.length ∧
      Claims.gives s i h r g e [.a ⟨.vector, r.thread, r.iter, ls.length - 1, 0, out, if a.idx ≠ [] then a.idx else b.idx⟩] ∧
      out[0]? = some (if ty = 0 then canon x else x) ∧
      ∀ (k : Nat) (y z : Lane), k + 1 < ls.length → out[k]? = some y → ls[k + 1]? = some z →
        out[k + 1]? = some (if ty = 0 then enc32 ((val32 y).add (val32 z)) else y + z)) ∧
    (∀ f, i = .iVcnt f → Claims.gives s i h r g e [.a (Claims.sc r (BitVec.ofNat 64 (ls.countP (fun x => decide (x.toNat ≠ 0)))))]) ∧
    (∀ f, i = .iArgmx f → ty = 1 ∨ ty = 2 → ∀ (k : Nat) (x : Lane), ls[k]? = some x → ls.length ≤ 32 →
      (∀ (j : Nat) (y : Lane), ls[j]? = some y → num y ≤ num x) →
      (∀ (j : Nat) (y : Lane), j < k → ls[j]? = some y → num y < num x) →
      Claims.gives s i h r g e [.a (Claims.sc r (BitVec.ofInt 64 (num x))), .b (Claims.sc r (BitVec.ofNat 64 k))]) ∧
    (∀ f, i = .iArgmx f → ty = 0 →
      let w := treeReduce (fun x y : Lane × Nat => if !isNan32 y.1 && (isNan32 x.1 || (val32 x.1).lt (val32 y.1)) then y else x) (0, 0) ls.zipIdx
      Claims.gives s i h r g e [.a (Claims.sc r ((canon w.1).setWidth 64)), .b (Claims.sc r (BitVec.ofNat 64 w.2))]) ∧
    ((Claims.reduceOp i).isSome ∨ (∃ f, i = .iVscan f) ∨ (∃ f, i = .iArgmx f) → 2 < ty →
      Claims.refuses s i h r g e 0x40 b.scal) ∧
    (∀ f, i = .iAmax f → Claims.gives s i h r g e [.a (Claims.sc r ((treeReduce
      (fun x y => if isNan32 x || isNan32 y then 0x7FC00000 else f32max x y) 0 (ls.map f32abs)).setWidth 64))])

/-- Lane `k` of a run as R214 reads it: 0 beyond its length. -/
def Claims.at (r : Fire) (v : Val) (k : Nat) : Lane := if k < r.n then v.lane k else 0

/-- O29 (tier 2): lane-moving instructions on runs (R194, R201, R214), each with the operand values it refuses: an indexed source of
`vperm`, `vslide`, `vins` or `cat` gives cause 0x41, a number out of range cause 0x40.
The model's readings here: log entry 26. -/
def Obligations.FiringLaneMoves : Prop :=
  ∀ (s : State) (i : Instr) (h : Shape) (r : Fire) (g e : Nat), Fires s i h r g e → r.n ≤ 32 →
    let a := Claims.va s r g e
    let b := Claims.vb s r g e
    let c := Claims.vc s r g e
    let n := r.n
    let x := Claims.at r a
    let run : (Nat → Lane) → Tok := fun f => Claims.run r ((List.range n).map f) []
    let part : Nat → Nat → Tok := fun k m =>
      ⟨.vector, r.thread, (r.iter + k) % 2 ^ 20, m - 1, 0, (List.range m).map (fun j => x (k + j)), (a.idx.drop k).take m⟩
    (∀ f, i = .iLane f → let k := Claims.num r b % n
      Claims.gives s i h r g e [.a ⟨.scalar, r.thread, (r.iter + k) % 2 ^ 20, 0, (a.lane k).setWidth 64, [], []⟩]) ∧
    (∀ f, i = .iVperm f → r.vec = true → r.iter < 2 ^ 20 → a.idx = [] → b.idx = [] →
      Claims.gives s i h r g e [.a (run fun k => x ((b.lane k).toNat % 32))]) ∧
    (∀ f, i = .iVslide f → r.vec = true → r.iter < 2 ^ 20 → a.idx = [] → b.idx = [] → Claims.gives s i h r g e [.a (run fun k =>
      if (k : Int) + (b.lane 0).toInt < 0 then 0 else x ((k : Int) + (b.lane 0).toInt).toNat)]) ∧
    (∀ f, i = .iVins f → r.vec = true → r.iter < 2 ^ 20 → a.idx = [] → b.idx = [] → c.idx = [] → c.scal.toNat % 32 < n →
      Claims.gives s i h r g e [.a (run fun k => if k = c.scal.toNat % 32 then b.lane 0 else x k)]) ∧
    (∀ f, i = .iVins f → a.idx = [] → b.idx = [] → c.idx = [] → n ≤ c.scal.toNat % 32 → Claims.refuses s i h r g e 0x40 c.scal) ∧
    (∀ f m, i = .iVsplat f → m = b.scal.toNat % 2 ^ 32 → 1 ≤ m → m ≤ 32 →
      Claims.gives s i h r g e [.a ⟨.vector, r.thread, r.iter, m - 1, 0, List.replicate m (a.lane 0), []⟩]) ∧
    (∀ f m, i = .iVsplat f → m = b.scal.toNat % 2 ^ 32 → m = 0 ∨ 32 < m → Claims.refuses s i h r g e 0x40 b.scal) ∧
    (∀ f k m, i = .iVext f → k = b.scal.toNat % 32 → k < n → m = min (b.scal.toNat / 32 % 32 + 1) (n - k) →
      Claims.gives s i h r g e [.a ((fun t : Tok => { t with idx := (a.idx.drop k).take (b.scal.toNat / 32 % 32 + 1) }) (part k m))]) ∧
    (∀ f, i = .iVext f → n ≤ b.scal.toNat % 32 → Claims.refuses s i h r g e 0x40 b.scal) ∧
    (∀ f k, i = .iSplit f → k = b.scal.toNat % 2 ^ 32 → 0 < k → k < n → a.idx.length ≤ n → r.iter < 2 ^ 20 →
      Claims.gives s i h r g e [.a (part 0 k), .b (part k (n - k))]) ∧
    (∀ f, i = .iSplit f → n ≤ b.scal.toNat % 2 ^ 32 → Claims.gives s i h r g e [.a (r.whole a)]) ∧
    (∀ f, i = .iSplit f → b.scal.toNat % 2 ^ 32 = 0 → 0 < n → Claims.gives s i h r g e [.b (r.whole a)]) ∧
    (∀ f, i = .iCat f → a.idx = [] → b.idx = [] → n ≤ 16 → Claims.gives s i h r g e
      [.a ⟨.vector, r.thread, 2 * r.iter % 2 ^ 20, 2 * n - 1, 0, (List.range n).map a.lane ++ (List.range n).map b.lane, []⟩]) ∧
    (∀ f, i = .iCat f → a.idx = [] → b.idx = [] → 16 < n → Claims.refuses s i h r g e 0x40 a.scal) ∧
    ((∃ f, i = .iVperm f ∨ i = .iVslide f ∨ i = .iVins f ∨ i = .iCat f) → a.idx ≠ [] → Claims.refuses s i h r g e 0x41 a.scal)

/-- A token of lanes a firing makes: a scalar firing's single lane is a scalar (log entry 26). -/
def Claims.shaped (r : Fire) (it : Nat) (ls : List Lane) (idx : List Nat) : Tok :=
  if r.vec = false ∧ ls.length = 1 then ⟨.scalar, r.thread, it, 0, (ls.headD 0).setWidth 64, [], []⟩
  else ⟨.vector, r.thread, it, ls.length - 1, 0, ls, idx⟩

/-- The indices of a run of `m` lanes that `pack` or `unpack` makes, and the state that gave them (R197, R211): none for a plain source, the
source's own where a lane holds one element, and otherwise free ones (log entry 27). -/
def Claims.packIdx (s u : State) (a : Val) (w m : Nat) (ix : List Nat) : Prop :=
  if a.idx = [] then ix = [] ∧ u = s else if w = 1 then ix = a.idx ∧ u = s else ix.length = m ∧ u = { s with free := u.free }

/-- O30 (tier 2): `pack` and `unpack` (R197, R211): element i of the lanes stands at place i mod g of output lane i div g,
and back; a lane that holds one element keeps its index; cause 0x40 where the result of `unpack` would not fit a run.
The model's readings here: log entries 26, 27. -/
def Obligations.FiringPacking : Prop :=
  ∀ (s : State) (i : Instr) (h : Shape) (r : Fire) (g e w m : Nat), Fires s i h r g e → w = 32 / fmtBits (bitsOf r.lit 7 0) →
    fmtBits (bitsOf r.lit 7 0) ∈ [1, 4, 8, 16, 32] →
    let a := Claims.va s r g e
    let bits := fmtBits (bitsOf r.lit 7 0)
    let elt : Lane → Nat × Bool := fun x =>
      if bitsOf r.lit 7 4 = 12 then (x.toNat % 2, false)
      else if bitsOf r.lit 7 0 = 0x80 then ((if isNan32 x then 0x7FC00000 else x.toNat), false)
      else encodeFmt (bitsOf r.lit 7 0) (Rnd.ofCode (bitsOf r.lit 10 8) 0) (Sat.ofCode (bitsOf r.lit 12 11)) (val32 x)
    (∀ f, i = .iPack f → a.lanes ≠ [] → r.iter < 2 ^ 20 → m = (r.iter + a.lanes.length - 1) / w - r.iter / w + 1 →
      ∃ (out : List Lane) (ix : List Nat) (u : State), out.length = m ∧ Claims.packIdx s u a w m ix ∧
        exec i s = .next (fired (u.updElem g e (fun x => { x with lnan := x.lnan || (a.lanes.any fun x => (elt x).2) })) h r g e
          [.a (Claims.shaped r (r.iter / w) out ix)]) ∧
        ∀ j p y, j < m → p < w → out[j]? = some y → y.toNat / 2 ^ (bits * p) % 2 ^ bits =
          (let k := (r.iter / w + j) * w + p
           if r.iter ≤ k then (match a.lanes[k - r.iter]? with | some x => (elt x).1 | none => 0) else 0)) ∧
    (∀ f, i = .iUnpack f → a.lanes.length * w ≤ 32 → ∃ (ix : List Nat) (u : State), Claims.packIdx s u a w (a.lanes.length * w) ix ∧
      exec i s = .next (fired u h r g e [.a (Claims.shaped r (r.iter * w % 2 ^ 20)
        (a.lanes.flatMap (fun x => (List.range w).map (fun j => unpackLane (bitsOf r.lit 7 0) bits x j))) ix)])) ∧
    (∀ f, i = .iUnpack f → 32 < a.lanes.length * w → Claims.refuses s i h r g e 0x40 a.scal)

/-- The iteration lane `k` of a source carries (R197). -/
def Claims.it (r : Fire) (v : Val) (k : Nat) : Nat := if v.idx = [] then (r.iter + k) % 2 ^ 20 else v.idx.getD k 0

/-- The lanes a predicate keeps, as R215 emits them: nothing, the run itself, or an indexed token of the kept lanes. -/
def Claims.kept (r : Fire) (v : Val) (whole : Tok) (p : Nat → Bool) : List Tok :=
  let ks := (List.range r.n).filter p
  if ks = [] then [] else if ks.length = r.n ∧ v.idx = [] then [whole]
  else [⟨.vector, r.thread, r.iter, ks.length - 1, 0, ks.map v.lane, ks.map (Claims.it r v)⟩]

/-- Part of `FiringRouting`: routing of tokens (R215, R217, R219, R220, R222, R224, R228, R293). A token that goes on unchanged carries the firing's tag; a
predicate is one for the token where srcB is a scalar, else one for each lane. -/
def Claims.PartFiringRouting : Prop :=
  ∀ (s : State) (i : Instr) (h : Shape) (r : Fire) (g e : Nat), Fires s i h r g e →
    let a := Claims.va s r g e
    let b := Claims.vb s r g e
    let w := r.fwd r.f.a.toNat
    (a.idx = [] ∨ a.idx.length = r.n) →
    (∀ f v, i = .iSteer f → b = .sc v → Claims.gives s i h r g e [if v ≠ 0 then .a w else .b w]) ∧
    (∀ f ls ix, i = .iSteer f → b = .vec ls ix → ls.length = r.n → Claims.gives s i h r g e
      ((Claims.kept r a w (fun k => decide (ls.getD k 0 ≠ 0))).map Out.a ++ (Claims.kept r a w (fun k => decide (ls.getD k 0 = 0))).map Out.b)) ∧
    (∀ f, i = .iGate f → 24 ≤ f.b.toNat → f.b.toNat < 28 → Claims.gives s i h r g e [.a w]) ∧
    (∀ f v, i = .iGate f → ¬ (24 ≤ f.b.toNat ∧ f.b.toNat < 28) → b = .sc v → Claims.gives s i h r g e (if v ≠ 0 then [.a w] else [])) ∧
    (∀ f ls ix, i = .iGate f → ¬ (24 ≤ f.b.toNat ∧ f.b.toNat < 28) → b = .vec ls ix → ls.length = r.n →
      Claims.gives s i h r g e ((Claims.kept r a w (fun k => decide (ls.getD k 0 ≠ 0))).map Out.a)) ∧
    (∀ f, i = .iFilt f → Claims.gives s i h r g e ((Claims.kept r a (r.whole a) (fun k => decide (b.lane k ≠ 0))).map Out.a)) ∧
    (∀ f, i = .iJoin f → Claims.gives s i h r g e [.a w]) ∧
    (∀ f port k, i = .iMerge f → r.toks = [(port, k)] → Claims.gives s i h r g e [.a { k with thread := r.thread, iter := r.iter }]) ∧
    (∀ f, i = .iTagset f → Claims.gives s i h r g e [.a { w with thread := b.scal.toNat / 2 ^ 20 % 2 ^ 12, iter := b.scal.toNat % 2 ^ 20 }]) ∧
    (∀ f, i = .iCtlOut f → Claims.gives s i h r g e [.a (Claims.sc r 0)]) ∧
    (∀ f, i = .iCtlWt f → b.scal.toNat % 256 ≠ 0 → Claims.gives s i h r g e [.a (Claims.sc r (b.scal &&& 0xFF))]) ∧
    (∀ f, i = .iCtlWt f → b.scal.toNat % 256 = 0 → Claims.refuses s i h r g e 0x40 b.scal) ∧
    (∀ f, i = .iErrMk f → 0x80 ≤ b.scal.toNat % 256 → Claims.gives s i h r g e
      [.a ⟨.err, r.thread, r.iter, r.n - 1, errPayload (b.scal.toNat % 256) g ((s.tile g).role e) a.scal.toNat, [], []⟩]) ∧
    (∀ f, i = .iErrMk f → b.scal.toNat % 256 < 0x80 → Claims.refuses s i h r g e 0x40 b.scal) ∧
    (∀ f, i = .iFin f → exec i s = .next (fired (s.updElem g e (fun x => { x with fins := x.fins ++
      [⟨tagAct f.t.toNat r.lit r.tagB (Claims.sc r a.scal), f.d.toNat, f.e.toNat, r.fire⟩] })) h r g e [])) ∧
    (∀ f, i = .iSink f → Claims.gives s i h r g e [.a (Claims.sc r w.value)]) ∧
    (∀ f, i = .iRtCnt f → e < 28 → ∀ k, r.tok f.a.toNat = some k →
      exec i s = .next (fired (s.updTile g (fun t => k.rows.foldl (fun t p => t.countRow (r.thread % 256) p) t)) h r g e [.a w])) ∧
    (∀ f, i = .iRnorm f → 8 < a.lanes.length → Claims.refuses s i h r g e 0x40 a.scal) ∧
    (∀ f x l, i = .iRnorm f → a.lanes = x :: l → l.length < 8 →
      let sum := l.foldl (fun p q => enc32 ((val32 p).add (val32 q))) x
      let idx := if r.vec then a.idx else []
      let tok : List Lane → Tok := fun ls => ⟨.vector, r.thread, r.iter, ls.length - 1, 0, ls, idx⟩
      (isNormal32 sum = true → Claims.gives s i h r g e
        [.a (tok (a.lanes.map (fun y => enc32 ((val32 y).div (val32 sum))))), .b (Claims.sc r 0)]) ∧
      (isNormal32 sum = false → exec i s = .next (fired (s.updElem g e (fun y => { y with gzc := min 255 (y.gzc + 1) })) h r g e
        [.a (tok (a.lanes.map (fun _ => enc32 (.fin false 1 a.lanes.length)))), .b (Claims.sc r 1)])))

/-- Part of `FiringRouting`: `sink` counts errors (R222): an error or fault token is an operand there, the region's error count rises, and the
first one's payload is recorded. -/
def Claims.PartSinkCountsErrors : Prop :=
  ∀ (s : State) (f : Fields) (h : Shape) (r : Fire) (g e j : Nat) (k : Tok) (q : Region), s.site = .elem g e →
    (s.elem g e).cur = some r → elemShape (.iSink f) = some h → r.tok r.f.a.toNat = some k → r.f.a = f.a →
    (k.kind = .err ∨ k.kind = .fault) → (s.tile g).inst = some j → NMap.find s.regions j = some q →
    exec (.iSink f) s = .next (fired (s.updReg j (fun q => { q with
      errors := q.errors + 1, first := if q.first.isNone then some k.pay else q.first })) h r g e
      [.a (Claims.sc r k.value)])

/-- O31 (tier 2): routing of tokens (R215, R217, R219, R220, R222, R224, R228, R293), and the errors `sink` counts (R222).
The model's readings here: log entry 42. -/
def Obligations.FiringRouting : Prop :=
  Claims.PartFiringRouting ∧ Claims.PartSinkCountsErrors

/-! Instructions that keep state in an element (R155, R156, R216, R221, R223, R225 to R227, R243). -/

/-- O32 (tier 2): order, rounds and iterations (R221, R223) and counters (R243). `reord` refuses a token before the expected
iteration with cause 0x42, and otherwise emits it and then each held token that has become next; the thread's entry then expects what follows
the last of them, and is free once an end-of-round token was among them; the tokens it emits leave the store, and no other entry does but for what
srcB supplies them with there. `eor` cuts a run where its count reaches the round's length, each piece with the tag of its first lane, and marks the
pieces that end a round, and the last piece of an end-of-round run; `itgen` queues its runs; `cnt.rd` reads the element's
counters.
The model's readings here: log entries 20, 44. -/
def Obligations.FiringRounds : Prop :=
  ∀ (s : State) (i : Instr) (h : Shape) (r : Fire) (g e : Nat), Fires s i h r g e →
    let a := Claims.va s r g e
    let b := Claims.vb s r g e
    let el := s.elem g e
    let w := r.fwd r.f.a.toNat
    let x := (NMap.find el.reord r.thread).getD (b.scal.toNat % 2 ^ 20)
    let next := (w.iter + w.len + 1) % 2 ^ 20
    let n := b.scal.toNat % 2 ^ 32
    let c := NMap.get el.eors r.slot 0
    let eorTo : Nat → State := fun left => s.updElem g e (fun y => { y with eors := NMap.set y.eors r.slot left })
    (∀ f, i = .iReord f → r.iter < x → Claims.refuses s i h r g e 0x42 w.value) ∧
    (∀ f, i = .iReord f → x ≤ r.iter →
      (∀ q ∈ el.store, q.slot = r.slot → q.port = f.a.toNat → q.tok.thread = r.thread → q.tok.isBad = false → q.tok.iter ≠ next) →
      exec i s = .next (fired (s.updElem g e (fun y => { y with
        reord := if r.eor then NMap.erase y.reord r.thread else NMap.set y.reord r.thread next })) h r g e [.a w])) ∧
    (∀ f, i = .iReord f → x ≤ r.iter → ∃ (l : List Tok) (st : List Entry),
      let last := (w :: l).getLastD w
      let ends := r.eor = true ∨ ∃ k ∈ l, k.kind = .eor
      exec i s = .next (fired (s.updElem g e (fun y => { y with
        reord := if ends then NMap.erase y.reord r.thread else NMap.set y.reord r.thread ((last.iter + last.len + 1) % 2 ^ 20)
        store := st, swapReq := y.swapReq || decide (∃ k ∈ l, k.kind = .eor) })) h r g e (.a w :: l.map Out.a)) ∧
      (∀ k ∈ l, k.isBad = false ∧ ∃ q ∈ el.store, q.tok = k ∧ q.slot = r.slot ∧ q.port = f.a.toNat ∧ k.thread = r.thread) ∧
      (∀ (n : Nat) (k k' : Tok), (w :: l)[n]? = some k → l[n]? = some k' → k'.iter = (k.iter + k.len + 1) % 2 ^ 20) ∧
      (∀ q ∈ el.store, ¬ (q.slot = r.slot ∧ q.tok.thread = r.thread ∧ (q.port = f.a.toNat ∨ q.port = f.b.toNat)) → q ∈ st) ∧
      (∀ q ∈ st, q ∈ el.store ∨ (f.b.toNat < 16 ∧ q.slot = r.slot ∧ q.port = f.b.toNat ∧ q.tok.thread = r.thread)) ∧
      (16 ≤ f.b.toNat → ∃ gone : List Entry, gone.map (·.tok) = l ∧ (gone ++ st).Perm el.store ∧ st.Sublist el.store) ∧
      (16 ≤ f.b.toNat → el.store.length ≤ 128 → ∀ q ∈ st, q.slot = r.slot → q.port = f.a.toNat →
        q.tok.thread = r.thread → q.tok.isBad = false → q.tok.iter ≠ (last.iter + last.len + 1) % 2 ^ 20)) ∧
    (∀ f, i = .iEor f → n = 0 ∨ 2 ^ 20 < n → Claims.refuses s i h r g e 0x40 b.scal) ∧
    (∀ f, i = .iEor f → 1 ≤ n → n ≤ 2 ^ 20 → w.lanes = [] → c + 1 < n → w.kind = .scalar →
      exec i s = .next (fired (eorTo (c + 1)) h r g e [.a w])) ∧
    (∀ f, i = .iEor f → 1 ≤ n → n ≤ 2 ^ 20 → w.lanes = [] → c + 1 = n →
      exec i s = .next (fired (eorTo 0) h r g e [.a { w with kind := .eor }])) ∧
    (∀ f, i = .iEor f → 1 ≤ n → n ≤ 2 ^ 20 → w.lanes ≠ [] → w.kind = .vector ∨ w.kind = .eor → a.idx = [] → c < n → ∃ l : List Tok,
      exec i s = .next (fired (eorTo ((c + r.n) % n)) h r g e (l.map Out.a)) ∧ l.flatMap (·.lanes) = r.lanes a ∧
      ∀ (j p : Nat) (k : Tok), l[j]? = some k → p = ((l.take j).flatMap (·.lanes)).length →
        let m := min (n - (c + p) % n) (r.n - p)
        k.lanes.length = m ∧ k.thread = r.thread ∧ k.iter = (r.iter + p) % 2 ^ 20 ∧ k.len = m - 1 ∧ k.idx = [] ∧
        k.kind = (if (c + p + m) % n = 0 ∨ (w.kind = .eor ∧ j + 1 = l.length) then .eor else .vector)) ∧
    (∀ f m k, i = .iItgen f → m = a.scal.toNat % 2 ^ 32 → k = b.scal.toNat % 64 → 1 ≤ m → m ≤ 2 ^ 20 → 1 ≤ k → k ≤ 32 → exec i s =
      .next (fired (s.updElem g e (fun y => { y with itgen := y.itgen ++ [⟨r.slot, r.thread, m, k, 0, f.d.toNat, f.e.toNat, f.t.toNat, r.lit, r.tagB, r.fire⟩] }))
        h r g e [])) ∧
    (∀ f k, i = .iItgen f → a.scal.toNat % 2 ^ 32 = 0 → k = b.scal.toNat % 64 → 1 ≤ k → k ≤ 32 → Claims.gives s i h r g e []) ∧
    (∀ f, i = .iItgen f → 2 ^ 20 < a.scal.toNat % 2 ^ 32 → Claims.refuses s i h r g e 0x40 a.scal) ∧
    (∀ f, i = .iItgen f → a.scal.toNat % 2 ^ 32 ≤ 2 ^ 20 → b.scal.toNat % 64 = 0 ∨ 32 < b.scal.toNat % 64 →
      Claims.refuses s i h r g e 0x40 b.scal) ∧
    (∀ f, i = .iCntRd f → a.scal.toNat = 0 → Claims.gives s i h r g e [.a (Claims.sc r (BitVec.ofNat 64 (s.acCycles g)))]) ∧
    (∀ f, i = .iCntRd f → a.scal.toNat = 1 → Claims.gives s i h r g e [.a (Claims.sc r el.work)]) ∧
    (∀ f, i = .iCntRd f → a.scal.toNat = 2 → Claims.gives s i h r g e [.a (Claims.sc r el.blk)]) ∧
    (∀ f j q, i = .iCntRd f → a.scal.toNat = 3 → (s.tile g).inst = some j → NMap.find s.regions j = some q →
      Claims.gives s i h r g e [.a (Claims.sc r (BitVec.ofNat 64 q.wdg))]) ∧
    (∀ f, i = .iCntRd f → 4 ≤ a.scal.toNat → Claims.refuses s i h r g e 0x40 a.scal)

/-- Part of `FiringTournament`: the tournament (R155, R156, R225 to R227). `cmpfw` keeps a candidate on its side of the pair of its key, and once both
sides hold one emits the winner with tr set; an excluded candidate loses to one that is not, a NaN score to any other, equal scores go
to the lower expert id. An exclusion marks the candidate of its expert on either side, or takes out one that came up the tree. `topk.rp` emits the winner numbered j and an exclusion request on its replay port, the last one with the release
bit, and counts on. -/
def Claims.PartFiringTournament : Prop :=
  (∀ (s : State) (f : Fields) (h : Shape) (r : Fire) (g e port : Nat) (x : Tok) (rest : List (Nat × Tok)), Fires s (.iCmpfw f) h r g e →
    r.toks = (port, x) :: rest →
    let el := s.elem g e
    let mine : Pair → Bool := fun q => q.slot == r.slot && q.thread == r.thread && q.iter == r.iter
    let others := el.pairs.filter (fun q => !mine q)
    let q := (el.pairs.find? mine).getD ⟨r.slot, r.thread, r.iter, none, none⟩
    let put : List Pair → State := fun l => s.updElem g e (fun y => { y with pairs := l })
    let x' : Tok := { x with pay := x.value }
    let id : Word → Nat := fun v => v.toNat / 2 ^ 32 % 256
    (x.lanes ≠ [] → Claims.refuses s (.iCmpfw f) h r g e 0x40 x.value) ∧
    (x.lanes = [] → x.value.getLsbD 63 = false → port = f.a.toNat → q.c1 = none →
      exec (.iCmpfw f) s = .next (fired (put (others ++ [{ q with c0 := some x' }])) h r g e [])) ∧
    (∀ y, x.lanes = [] → x.value.getLsbD 63 = false → port = f.a.toNat → q.c1 = some y →
      exec (.iCmpfw f) s = .next (fired (put (others ++ [{ q with c0 := some x' }])) h r g e
        [.a (Claims.sc r (candBest x.value y.pay ||| 0x4000000000000000))])) ∧
    (∀ y, x.lanes = [] → x.value.getLsbD 63 = false → port ≠ f.a.toNat → q.c0 = some y →
      exec (.iCmpfw f) s = .next (fired (put (others ++ [{ q with c1 := some x' }])) h r g e
        [.a (Claims.sc r (candBest y.pay x.value ||| 0x4000000000000000))])) ∧
    (x.lanes = [] → x.value.getLsbD 63 = false → port ≠ f.a.toNat → q.c0 = none →
      exec (.iCmpfw f) s = .next (fired (put (others ++ [{ q with c1 := some x' }])) h r g e [])) ∧
    (x.lanes = [] → x.value.getLsbD 63 = true → x.value.getLsbD 60 = false → el.pairs.find? mine = none →
      Claims.gives s (.iCmpfw f) h r g e []) ∧
    (∀ q' y (right : Bool), x.lanes = [] → x.value.getLsbD 63 = true → x.value.getLsbD 60 = false → el.pairs.find? mine = some q' →
      (if right = true then q'.c1 else q'.c0) = some y → id y.pay = id x.value → (right = true → ∀ z, q'.c0 = some z → id z.pay ≠ id x.value) →
      let z : Option Tok := if y.pay.getLsbD 62 = true then none else some { y with pay := y.pay ||| 0x2000000000000000 }
      let p : Pair := if right = true then { q' with c1 := z } else { q' with c0 := z }
      exec (.iCmpfw f) s = .next (fired (put (others ++ [p])) h r g e (match z, p.c0, p.c1 with
        | some _, some u, some v => [.a (Claims.sc r (candBest u.pay v.pay ||| 0x4000000000000000))]
        | _, _, _ => []))) ∧
    (∀ q', x.lanes = [] → x.value.getLsbD 63 = true → x.value.getLsbD 60 = false → el.pairs.find? mine = some q' →
      (∀ y, q'.c0 = some y ∨ q'.c1 = some y → id y.pay ≠ id x.value) → Claims.gives s (.iCmpfw f) h r g e []) ∧
    (x.lanes = [] → x.value.getLsbD 63 = true → x.value.getLsbD 60 = true →
      exec (.iCmpfw f) s = .next (fired (put others) h r g e []))) ∧
  (∀ x y : Word, let id : Word → Nat := fun v => v.toNat / 2 ^ 32 % 256
    let val : Word → FVal := fun v => val32 (v.setWidth 32)
    (x.getLsbD 61 = false → y.getLsbD 61 = true → candBest x y = x ∧ candBest y x = x) ∧
    (x.getLsbD 61 = true → y.getLsbD 61 = true → id x < id y → candBest x y = x ∧ candBest y x = x) ∧
    (x.getLsbD 61 = false → y.getLsbD 61 = false → val x ≠ .nan → val y = .nan → candBest x y = x ∧ candBest y x = x) ∧
    (x.getLsbD 61 = false → y.getLsbD 61 = false → (val y).lt (val x) = true → candBest x y = x ∧ candBest y x = x) ∧
    (x.getLsbD 61 = false → y.getLsbD 61 = false → val x ≠ .nan → val y ≠ .nan → (val y).lt (val x) = false → (val x).lt (val y) = false →
      id x < id y → candBest x y = x ∧ candBest y x = x)) ∧
  (∀ (s : State) (f : Fields) (h : Shape) (r : Fire) (g e k p j : Nat), Fires s (.iTopkRp f) h r g e →
    let a := Claims.va s r g e
    let b := Claims.vb s r g e
    let el := s.elem g e
    let mine : TopK → Bool := fun q => q.slot == r.slot && q.thread == r.thread && q.iter == r.iter
    let others := el.topk.filter (fun q => !mine q)
    j = ((el.topk.find? mine).map (·.j)).getD 0 → k = b.scal.toNat % 16 → p = b.scal.toNat / 16 % 16 →
    (b.scal.toNat < 256 → 1 ≤ k → k ≤ 8 → a.idx = [] → r.vec = false → a.scal.getLsbD 61 = false →
      exec (.iTopkRp f) s = .next (fired
        (s.updElem g e (fun y => { y with topk := if k ≤ j + 1 then others else others ++ [⟨r.slot, r.thread, r.iter, j + 1⟩] })) h r g e
        [.a (Claims.sc r ((a.scal &&& 0x0FFFF8FFFFFFFFFF) ||| BitVec.ofNat 64 (j % 8 * 2 ^ 40))),
         .port p (Claims.sc r (a.scal ||| (if k ≤ j + 1 then 0x9000000000000000 else 0x8000000000000000)))])) ∧
    (256 ≤ b.scal.toNat ∨ k = 0 ∨ 8 < k → Claims.refuses s (.iTopkRp f) h r g e 0x40 b.scal) ∧
    (b.scal.toNat < 256 → 1 ≤ k → k ≤ 8 → (a.idx ≠ [] ∨ r.vec = true ∨ a.scal.getLsbD 61 = true) →
      Claims.refuses s (.iTopkRp f) h r g e 0x40 a.scal))

/-- Part of `FiringTournament`: `cmpct` (R216). A thread's staging buffer takes the lanes in order with the iteration each carries. Where the slot's four
buffers are all of other threads, the one appended to least recently is emitted first and taken. The lanes emitted and the lanes left staged are the old staged lanes and the new ones in
order, each with the iteration it carried, every run emitted but an end-of-round's has 32 lanes, and the runs are numbered on from the buffer's counter; an end-of-round token
frees the buffer and ends the output. -/
def Claims.PartFiringCompact : Prop :=
  ∀ (s : State) (f : Fields) (h : Shape) (r : Fire) (g e : Nat) (bf : CmpBuf), Fires s (.iCmpct f) h r g e →
    let a := Claims.va s r g e
    (r.vec = true ∨ r.n = 1 ∧ ∃ v, a = .sc v) →
    let bufs := NMap.get (s.elem g e).cmpct r.slot []
    let held := bufs.filter (fun b => b.thread != r.thread)
    let full := bufs.any (fun b => b.thread == r.thread) = false ∧ 4 ≤ held.length
    bf = (bufs.find? (fun b => b.thread == r.thread)).getD ⟨r.thread, [], [], 0, 0⟩ → bf.lanes.length < 32 → bf.idx.length = bf.lanes.length →
    (a.idx = [] ∨ a.idx.length = r.n) → ∃ (l old : List Tok) (left : CmpBuf) (bufs' others : List CmpBuf),
      exec (.iCmpct f) s = .next (fired (s.updElem g e (fun x => { x with cmpct := NMap.set x.cmpct r.slot bufs' })) h r g e ((old ++ l).map Out.a)) ∧
      (¬ full → old = [] ∧ others = held) ∧
      (full → ∃ o ∈ held, (∀ q ∈ held, o.stamp ≤ q.stamp) ∧ others = held.filter (fun b => b.thread != o.thread) ∧
        old = if o.lanes = [] then [] else [⟨.vector, o.thread, 32 * o.count % 2 ^ 20, o.lanes.length - 1, 0, o.lanes, o.idx⟩]) ∧
      (r.eor = false → bufs' = others ++ [left] ∧ left.thread = r.thread ∧ left.lanes.length < 32 ∧ left.count = bf.count + l.length ∧
        l.flatMap (·.lanes) ++ left.lanes = bf.lanes ++ r.lanes a ∧ l.flatMap (·.idx) ++ left.idx = bf.idx ++ (List.range r.n).map (Claims.it r a) ∧
        left.idx.length = left.lanes.length ∧ (∀ k ∈ l, k.lanes.length = 32 ∧ k.idx.length = 32 ∧ k.kind = .vector)) ∧
      (r.eor = true → bufs' = others ∧ l.flatMap (·.lanes) = bf.lanes ++ r.lanes a ∧ l.flatMap (·.idx) = bf.idx ++ (List.range r.n).map (Claims.it r a) ∧
        (∀ k ∈ l, k.idx.length = k.lanes.length) ∧ (∀ k ∈ l.getLast?, k.kind = .eor ∧ (k.lanes = [] → k.pay = 0)) ∧ (∀ k ∈ l.dropLast, k.lanes.length = 32 ∧ k.kind = .vector)) ∧
      (∀ (n : Nat) (k : Tok), l[n]? = some k → k.thread = r.thread ∧ k.iter = 32 * (bf.count + n) % 2 ^ 20)

/-- O33 (tier 2): the tournament (R155, R156, R225 to R227) and `cmpct` (R216).
The model's readings here: log entry 44. -/
def Obligations.FiringTournament : Prop :=
  Claims.PartFiringTournament ∧ Claims.PartFiringCompact

/-! Memory instructions (R250 to R265): what issues and what fires. -/

/-- O34 (tier 2): issuing a request (R120, R253). Its class counts one more, it stands last with the next number, an acquire is noted, a
request that waits for a verdict blocks its context; the context keeps its registers, tag, fp, channels, mode, windows and trap registers; on a UN page an
acquire form is a plain access (R121); memory, scratchpads, vaults and hub keep every byte, the other requests stay. -/
def Obligations.IssueFrame : Prop :=
  ∀ (s : State) (t : TIn) (r : Req),
    let s' := s.issue t r
    let x' := s'.ctx t.g t.p t.c
    { s' with tiles := s.tiles, regions := s.regions, reqs := s.reqs, nextId := s.nextId } = s ∧
    s'.reqs = s.reqs ++ [{ r with id := s.nextId }] ∧ s'.nextId = s.nextId + 1 ∧ Claims.onlyWatchdog s s' t.g ∧
    (∀ k, k ≠ t.g → s'.tile k = s.tile k) ∧ { s'.tile t.g with tps := (s.tile t.g).tps } = s.tile t.g ∧
    (∀ k, k ≠ t.p → s'.tp t.g k = s.tp t.g k) ∧
    { s'.tp t.g t.p with ctxs := (s.tp t.g t.p).ctxs, last := (s.tp t.g t.p).last } = s.tp t.g t.p ∧
    (∀ k, k ≠ t.c → s'.ctx t.g t.p k = s.ctx t.g t.p k) ∧
    { x' with pc := t.x.pc, rpt := t.x.rpt, work := t.x.work, acq := t.x.acq, ld := t.x.ld, st := t.x.st, cp := t.x.cp, tl := t.x.tl, status := t.x.status,
              skip := t.x.skip, blkAt := t.x.blkAt } = t.x ∧
    x'.pc = t.x.advance.pc ∧ x'.rpt = t.x.advance.rpt ∧ x'.skip = (t.x.skip && t.x.steward) ∧ (s'.tp t.g t.p).last = t.c ∧ x'.work = t.x.work + 1 ∧ x'.acq = (if r.acq = true ∧ (∀ p ∈ r.pieces, p.kind ≠ 2) then some s.nextId else t.x.acq) ∧
    (∀ k, k ≠ .none → x'.count k = t.x.count k + if k = r.cls then 1 else 0) ∧
    x'.status = (if r.verdict then .blkVerdict s.nextId else .runnable)

/-- What a memory instruction of a context asks for: class, operation, aligned unit or 0, bytes of an element, values, compare
value, read and write permission, page kinds, acquire, release, verdict, destination (R252, R253, R255, R260, R263, R265). -/
def Claims.memOp (t : TIn) : Instr → Option TOp
  | .iLdB _ => some (ld 1) | .iLdH _ => some (ld 2) | .iLdW _ => some (ld 4) | .iLdD _ => some (ld 8)
  | .iStB _ => some (st 1) | .iStH _ => some (st 2) | .iStW _ => some (st 4) | .iStD _ => some (st 8)
  | .iLdAcq _ => some ⟨.ld, .load, n, n, [0], 0, true, false, 0, true, false, false, d⟩
  | .iStRel _ => some ⟨.st, .store, n, n, [t.d.toNat % 256 ^ n], 0, false, true, 0, false, true, false, 28⟩
  | .iAmoAdd _ => some (amo .add) | .iAmoAnd _ => some (amo .and) | .iAmoOr _ => some (amo .or)
  | .iAmoXor _ => some (amo .xor) | .iAmoMin _ => some (amo .min) | .iAmoMax _ => some (amo .max)
  | .iAmoSwp _ => some (amo .swp) | .iAmoCas _ => some (amo .cas)
  | .iSrd _ => some ⟨.ld, .srd, 8, 8, [0], 0, true, false, 1, true, false, true, d⟩
  | .iSprb _ => some ⟨.ld, .sprb, 8, 8, [0], 0, true, false, 1, false, false, true, d⟩
  | .iSwr _ => some ⟨.st, .swr, 8, 8, [t.d.toNat], 0, false, true, 1, false, true, true, 28⟩
  | .iSclr _ => some ⟨.st, .sclr, 8, 8, [0], 0, false, true, 1, false, false, true, 28⟩
  | .iBar _ => some ⟨.ld, .bar (t.d.toNat % 2 ^ 40), 16, 16, [0], 0, false, true, 2, true, true, true, 28⟩
  | _ => none
where
  /-- The size of an acquire, release or atomic by the literal's width. -/
  n : Nat := if bitsOf t.lit 57 56 = 2 then 4 else 8
  /-- dstA. -/
  d : Nat := t.f.d.toNat
  /-- A plain load of w bytes for each register. -/
  ld (w : Nat) : TOp := ⟨.ld, .load, 0, w, List.replicate (bitsOf t.lit 59 58 + 1) 0, 0, true, false, 0, false, false, false, d⟩
  /-- A plain store of the low w bytes of each register. -/
  st (w : Nat) : TOp := ⟨.st, .store, 0, w, (List.range (bitsOf t.lit 59 58 + 1)).map (fun k =>
    (if k = 0 then t.d.toNat else (t.x.src t.lit (t.f.d.toNat + k)).toNat) % 256 ^ w), 0, false, true, 0, false, false, false, 28⟩
  /-- An atomic; order bits 48 and 49 make it an acquire and a release. -/
  amo (o : Amo) : TOp := ⟨.ld, .amo o, n, n, [t.e.toNat % 256 ^ n], t.d.toNat % 256 ^ n, true, true, 0, t.lit.getLsbD 48, t.lit.getLsbD 49, true, d⟩

/-- Where offset 0 of a space lies in memory, as far as alignment goes: a window's base counts (R252). -/
def Claims.base (wins : NMap Win) (sp : Nat) : Nat := if sp < 5 then 0 else ((NMap.find wins (sp - 5)).map (·.base)).getD 0

/-- The address of an access in its space, in the aligned unit of memory that contains it, or as it is (R252): a window's base counts. -/
def Claims.unit (wins : NMap Win) (sp : Nat) (a : Int) (unit : Nat) : Int :=
  if unit = 0 then a else ((Claims.base wins sp : Nat) + a) / (unit : Int) * (unit : Int) - (Claims.base wins sp : Nat)

/-- The bytes of a range that lie below the end of its window, where it runs past that end (R126); 0 otherwise. -/
def Claims.below (wins : NMap Win) (k : Acc) : Nat :=
  match NMap.find wins (k.sp - 5) with
  | some w => if 5 ≤ k.sp ∧ 0 ≤ k.ea ∧ k.ea < (w.extent : Int) ∧ (w.extent : Int) < k.ea + (k.n : Nat) then w.extent - k.ea.toNat else 0
  | none => 0

/-- The address of a task access (R252). -/
def Claims.ea (t : TIn) (unit : Nat) : Int :=
  Claims.unit t.x.wins (bitsOf t.lit 55 52) ((t.a + BitVec.ofInt 64 (sgn 48 (t.lit.toNat % 2 ^ 48))).toNat : Int) unit

/-- An address of a space as a 64-bit word (R104). -/
def Claims.word (a : Int) : Nat := (BitVec.ofInt 64 a).toNat

/-- The parts carry the key slot of the window they were reached by (R101, R413). -/
def Claims.keyed (wins : NMap Win) (sp : Nat) (ps : List Piece) : List Piece :=
  ps.map (fun p => { p with key := if sp < 5 then none else (NMap.find wins (sp - 5)).map (·.key) })

/-- The range a task access needs (R252, R104). -/
def Claims.range (t : TIn) (o : TOp) : Acc :=
  ⟨bitsOf t.lit 55 52, Claims.ea t o.unit, o.w * o.vals.length, o.rd, o.wr, o.sk⟩

/-- The parts of a task access at a place: a plain access is cut at every 8-byte boundary (R252), the rest act on their unit. -/
def Claims.parts (o : TOp) (pl : Place) (kind : Nat) : List Piece :=
  if o.unit = 0 then runPieces pl kind o.w o.vals
  else o.vals.zipIdx.map (fun q => Piece.mk1 (pl.off (o.w * q.2)) kind o.w q.1 o.cmp q.2 0)

/-- Part of `TaskMemoryIssues`: loads, stores, acquires, releases, atomics, structure operations and barriers of a context (R252, R253): each
issues as one request of its class where nothing holds it and its address passes the checks; a check that fails is a precise memory
trap with the cause of R104 and no effect but that a store which straddles the end of its window has the parts below it performed (R126; log entry 13; in
`mem` the rest of the check comes later); an acquire not yet performed, a class at 31
or a full translation node holds the context. A `bar` in the vault finds its object in the region's barrier table (R319), as `AddressChecks` says. -/
def Claims.PartTaskMemoryIssues : Prop :=
  ∀ (s : State) (i : Instr) (h : Shape) (g p c : Nat) (t : TIn) (o : TOp), Issues s i h g p c → t = issueIn s i h g p c →
    Claims.memOp t i = some o →
    (∀ (pl : Place) (kind : Nat), s.holds t o.cls (bitsOf t.lit 55 52 == 4) = none →
      s.placeOf g t.x.wins o.op (Claims.range t o) = .ok (pl, kind) →
      exec i s = .next (s.issue t { s.taskReq t o.cls o.op with
        pieces := Claims.keyed t.x.wins (bitsOf t.lit 55 52) (Claims.parts o pl kind)
        acq := o.acq, rel := o.rel, verdict := o.verdict, d := o.d, n := o.vals.length, ea := Claims.word (Claims.ea t o.unit), anyLane := true
        pages := winPages t.x.wins (bitsOf t.lit 55 52) })) ∧
    (∀ cause : Nat, s.holds t o.cls (bitsOf t.lit 55 52 == 4) = none → s.placeOf g t.x.wins o.op (Claims.range t o) = .error cause →
      o.op ≠ .store ∨ o.unit ≠ 0 ∨ Claims.below t.x.wins (Claims.range t o) = 0 → exec i s = .next (s.takeTrap g p c (BitVec.ofNat 16 cause) (s.ctx g p c).pc
        (errPayload cause g ((s.tile g).role p) (Claims.word (Claims.ea t o.unit))) (s.ctx g p c).rpt)) ∧
    (∀ (room : Nat) (pl : Place) (kind : Nat), s.holds t o.cls (bitsOf t.lit 55 52 == 4) = none → o.op = .store → o.unit = 0 →
      room = Claims.below t.x.wins (Claims.range t o) → 0 < room → s.place g t.x.wins { Claims.range t o with n := room } = .ok (pl, kind) → ∃ x : Req,
      exec i s = .next ((s.addReq x).takeTrap g p c 0x21 (s.ctx g p c).pc
        (errPayload 0x21 g ((s.tile g).role p) (Claims.word (Claims.ea t 0))) (s.ctx g p c).rpt) ∧ x.op = .store ∧ x.who = .ctx g p c ∧ x.counted = false ∧
      x.verdict = false ∧ x.pieces = partsBelow (Claims.keyed t.x.wins (bitsOf t.lit 55 52) (runPieces pl kind o.w o.vals)) pl room ∧
      ∀ q ∈ x.pieces, q.place.addr + q.n ≤ pl.addr + room) ∧
    (t.x.acq.isSome = true → exec i s = .next (s.block g p c .blkAcq)) ∧
    (t.x.acq = none → 31 ≤ t.x.count o.cls → exec i s = .next (s.block g p c (.blkIssue o.cls)))

/-- Part of `AddressChecks`: a `bar` in the vault whose object the region's barrier table lists is performed at the object in the vault listed, and that
vault's readiness alone counts (R319); every other operation is performed where its address lies. -/
def Claims.PartBarrierPlaces : Prop :=
  ∀ (s : State) (g n : Nat) (wins : NMap Win) (op : ReqOp) (k : Acc),
    ((∀ m, op ≠ .bar m) → s.placeOf g wins op k = s.place g wins k) ∧
    (k.sp ≠ 3 → s.placeOf g wins (.bar n) k = s.place g wins k) ∧
    (∀ i r, k.sp = 3 → k.sk = 2 → 0 ≤ k.ea → k.ea % 16 = 0 → k.ea + (k.n : Nat) ≤ 0x4000000 → s.regOf g = some (i, r) → r.vbase ≤ k.ea → k.ea + (k.n : Nat) ≤ r.vbase + r.vsize →
      (∀ v x, (s.tile g).barriers.find? (fun b => b.2 == k.ea.toNat) = some (v, x) → s.placeOf g wins (.bar n) k =
        if s.paOk (0x10000000000 + v * 0x4000000 + x) 0 = true then .ok (.phys (0x10000000000 + v * 0x4000000 + x), r.vkind) else .error 0x21) ∧
      ((∀ b ∈ (s.tile g).barriers, b.2 ≠ k.ea.toNat) → s.placeOf g wins (.bar n) k = s.place g wins k))

/-- O35 (tier 2): where an address of a space lies, and what refuses it (R93, R102, R104, R252), and the place of a listed barrier (R319).
The model's readings here: log entry 21. -/
def Obligations.AddressChecks : Prop :=
  Claims.PartBarrierPlaces ∧ ∀ (s : State) (g : Nat) (wins : NMap Win) (k : Acc), 0 ≤ k.ea →
    let last := k.ea.toNat + k.n
    (k.sp < 3 → last ≤ 0x40000 → k.sk ≠ 1 → s.place g wins k = .ok (.spad g (k.sp * 0x40000 + k.ea.toNat), 4)) ∧
    (k.sp < 3 → 0x40000 < last → s.place g wins k = .error 0x21) ∧
    (k.sp < 3 → last ≤ 0x40000 → k.sk = 1 → s.place g wins k = .error 0x27) ∧
    (k.sp = 3 → 0x4000000 < last → s.place g wins k = .error 0x21) ∧
    (∀ i r, k.sp = 3 → last ≤ 0x4000000 → s.regOf g = some (i, r) → k.ea.toNat < r.vbase ∨ r.vbase + r.vsize < last →
      s.place g wins k = .error 0x26) ∧
    (∀ i r, k.sp = 3 → last ≤ 0x4000000 → s.regOf g = some (i, r) → r.vbase ≤ k.ea.toNat → last ≤ r.vbase + r.vsize →
      ¬ (k.sk = 0 ∧ r.vkind = 3 ∨ k.sk = 1 ∧ r.vkind ≠ 3) → s.paOk (0x10000000000 + vaultOfTile g * 0x4000000 + k.ea.toNat) 0 = true →
      s.place g wins k = .ok (.phys (0x10000000000 + vaultOfTile g * 0x4000000 + k.ea.toNat), r.vkind)) ∧
    (k.sp = 4 → last ≤ 2 ^ 56 → s.place g wins k = .ok (.virt k.ea.toNat, 9)) ∧
    (k.sp = 4 → 2 ^ 56 < last → s.place g wins k = .error 0x21) ∧
    (5 ≤ k.sp → NMap.find wins (k.sp - 5) = none → s.place g wins k = .error 0x24) ∧
    (∀ w, 5 ≤ k.sp → NMap.find wins (k.sp - 5) = some w →
      (w.revoked = true → s.place g wins k = .error 0x23) ∧
      (w.revoked = false → w.extent < last → s.place g wins k = .error 0x21) ∧
      (w.revoked = false → last ≤ w.extent → (k.rd = true ∧ w.rd = false ∨ k.wr = true ∧ w.wr = false) → s.place g wins k = .error 0x25) ∧
      (w.revoked = false → last ≤ w.extent → ¬ (k.rd = true ∧ w.rd = false ∨ k.wr = true ∧ w.wr = false) →
        (k.sk = 0 ∧ w.kind = 3 ∨ k.sk = 1 ∧ w.kind ≠ 3) → s.place g wins k = .error 0x27) ∧
      (w.revoked = false → last ≤ w.extent → ¬ (k.rd = true ∧ w.rd = false ∨ k.wr = true ∧ w.wr = false) →
        ¬ (k.sk = 0 ∧ w.kind = 3 ∨ k.sk = 1 ∧ w.kind ≠ 3) → s.paOk (w.base + k.ea.toNat) w.key = true →
        s.place g wins k = .ok (.phys (w.base + k.ea.toNat), w.kind)))

/-- Part of `TaskMemoryIssues`: combines and fences of a context (R124, R262, R264). A combine whose control word is legal and fits the literal's
width issues with the value of dstA; another is cause 0x09. A fence goes on once every load and store of the context is performed; it then
covers, at its scope, the context's own writes and the writes to UN pages by the Porter and the drains of its tile for its region (log entry 11). -/
def Claims.PartTaskCombinesAndFences : Prop :=
  (∀ (s : State) (i : Instr) (f : Fields) (h : Shape) (g p c n : Nat) (t : TIn) (fixed : Bool) (cc : Word) (o : TOp),
    (i = .iCmb f ∧ fixed = false ∨ i = .iCmbF f ∧ fixed = true) → Issues s i h g p c → t = issueIn s i h g p c →
    cc = (s.ctx g p c).src 0 (f.d.toNat + 1) → f.d.toNat < 23 → n = (if bitsOf cc 6 4 = 2 ∨ bitsOf cc 6 4 = 3 then 8 else 4) →
    o = ⟨.st, .cmb fixed cc, n, n, [t.d.toNat % 256 ^ n], 0, false, true, 0, false, false, true, 28⟩ →
    (ccOk true fixed cc = true → bitsOf t.lit 57 56 = (if n = 8 then 3 else 2) →
      (cc.getLsbD 26 = true → ((s.ctx g p c).chan (bitsOf cc 33 32)).arc.isSome = true ∧ ((s.ctx g p c).chan (bitsOf cc 33 32)).dest = false) →
      s.holds t .st (bitsOf t.lit 55 52 == 4) = none → ∀ (pl : Place) (kind : Nat),
      s.place g t.x.wins (Claims.range t o) = .ok (pl, kind) → exec i s = .next (s.issue t { s.taskReq t .st (.cmb fixed cc) with
        pieces := Claims.keyed t.x.wins (bitsOf t.lit 55 52) [Piece.mk1 pl kind n (t.d.toNat % 256 ^ n) 0 0 0]
        verdict := true, n := 1, ea := Claims.word (Claims.ea t n), anyLane := true, pages := winPages t.x.wins (bitsOf t.lit 55 52) })) ∧
    (∀ w, encodeWord i = some w → ccOk true fixed cc = false ∨ bitsOf t.lit 57 56 ≠ (if n = 8 then 3 else 2) →
      exec i s = .next (s.takeTrap g p c 9 (s.ctx g p c).pc (w.setWidth 64) (s.ctx g p c).rpt))) ∧
  (∀ (s : State) (f : Fields) (h : Shape) (g p c : Nat) (t : TIn), Issues s (.iFence f) h g p c → t = issueIn s (.iFence f) h g p c →
    (t.x.acq = none → (∀ r ∈ s.reqs, r.who = .ctx g p c → r.cls = .ld ∨ r.cls = .st → r.performed = true) →
      exec (.iFence f) s = .next ((s.releaseAt (.ctx g p c) (fun e => decide (e.who = .ctx g p c ∨
        e.un = true ∧ (e.who = .porter g ∨ e.who = .seq g) ∧ (s.tile g).inst = some e.inst)) (bitsOf t.lit 51 50) []).retire t
          { t.x.advance with fenceAt := some (s.nextId, bitsOf t.lit 51 50) })) ∧
    (t.x.acq = none → (∃ r ∈ s.reqs, r.who = .ctx g p c ∧ (r.cls = .ld ∨ r.cls = .st) ∧ r.performed = false) →
      exec (.iFence f) s = .next (s.block g p c .blkFence)) ∧
    (t.x.acq.isSome = true → exec (.iFence f) s = .next (s.block g p c .blkAcq)))

/-- O36 (tier 2): memory instructions of a context (R124, R252, R253, R262, R264): loads, stores, acquires, releases, atomics, structure
operations and barriers, combines and fences.
The model's readings here: log entries 13, 21, 24. -/
def Obligations.TaskMemoryIssues : Prop :=
  Claims.PartTaskMemoryIssues ∧ Claims.PartTaskCombinesAndFences

/-- What a memory port asks for in a firing of one lane, or in one lane of a vector form: operation with its generator `q`, iteration
and value of the firing's first lane (R254 to R260, R262, R263, R265). -/
def Claims.portOp (r : Fire) (a : Val) (q : Gen) : Instr → Option EOp
  | .iLdB _ => some (ld 1) | .iLdH _ => some (ld 2) | .iLdW _ => some (ld 4) | .iLdD _ => some (ld 8)
  | .iStB _ => some (st 1) | .iStH _ => some (st 2) | .iStW _ => some (st 4) | .iStD _ => some (st 8)
  | .iLdAcq _ => some ⟨.ld, .load, w, w, [(q, it, 0, 0)], true, false, 0, false, true⟩
  | .iStRel _ => some ⟨.st, .store, w, w, [(q, it, a.scal.toNat % 256 ^ w, 0)], false, true, 0, true, false⟩
  | .iAmoAdd _ => some (amo .add) | .iAmoAnd _ => some (amo .and) | .iAmoOr _ => some (amo .or) | .iAmoXor _ => some (amo .xor)
  | .iAmoMin _ => some (amo .min) | .iAmoMax _ => some (amo .max) | .iAmoSwp _ => some (amo .swp)
  | .iSrd _ => some ⟨.ld, .srd, 8, 8, [(q, it, a.scal.toNat, 0)], true, false, 1, false, true⟩
  | .iSwr _ => some ⟨.st, .swr, 8, 8, [(q, it, a.scal.toNat, 0)], false, true, 1, true, false⟩
  | .iSclr _ => some ⟨.st, .sclr, 8, 8, [(q, it, a.scal.toNat, 0)], false, true, 1, false, false⟩
  | .iSprb _ => some ⟨.ld, .sprb, 8, 8, [(q, it, a.scal.toNat, 0)], true, false, 1, false, false⟩
  | .iBar _ => some ⟨.ld, .bar (a.scal.toNat % 2 ^ 40), 16, 16, [(q, it, 0, 0)], false, true, 2, true, true⟩
  | .iCmb _ => some (cmb false) | .iCmbF _ => some (cmb true)
  | .iVld _ => some ⟨.ld, .load, 0, w, ((r.its a).take r.n).map (fun i => (q, i, 0, 0)), true, false, 0, false, false⟩
  | .iVst _ => some ⟨.st, .store, 0, w, ((r.its a).zip (r.lanes a)).map (fun x => (q, x.1, x.2.toNat % 256 ^ w, 0)), false, true, 0, false, false⟩
  | .iGld _ => some ⟨.ld, .load, 0, w, (r.lanes a).map (fun v => (q, v.toNat, 0, 0)), true, false, 0, false, false⟩
  | .iLdt _ => some ⟨.ld, .load, 0, 16, ((r.its a).take r.n).map (fun i => (q, i, 0, 0)), true, false, 0, false, false⟩
  | _ => none
where
  /-- The first lane's iteration. -/
  it : Nat := (r.its a).headD r.iter
  /-- The generator's width. -/
  w : Nat := widthBytes q.width
  /-- A scalar load. -/
  ld (n : Nat) : EOp := ⟨.ld, .load, 0, n, [(q, it, 0, 0)], true, false, 0, false, false⟩
  /-- A scalar store. -/
  st (n : Nat) : EOp := ⟨.st, .store, 0, n, [(q, it, a.scal.toNat % 256 ^ n, 0)], false, true, 0, false, false⟩
  /-- An atomic. -/
  amo (o : Amo) : EOp := ⟨.ld, .amo o, w, w, [(q, it, a.scal.toNat % 256 ^ w, 0)], true, true, 0, false, false⟩
  /-- A combine of a scalar. -/
  cmb (fixed : Bool) : EOp :=
    let n := if bitsOf q.cc 6 4 = 2 ∨ bitsOf q.cc 6 4 = 3 then 8 else 4
    ⟨.st, .cmb fixed q.cc, n, n, [(q, it, a.scal.toNat % 256 ^ n, 0)], false, true, 0, false, false⟩

/-- The vector forms, which take every lane of a firing. -/
def Claims.isVector : Instr → Bool
  | .iVld _ | .iVst _ | .iGld _ | .iLdt _ => true
  | _ => false

/-- Part of `PortMemoryIssues`: memory instructions of a port (R254 to R260, R262, R263, R265). A firing whose every lane passes the checks becomes one
request, and the firing ends; the first lane that fails gives its cause in place of a result, though a store that straddles the end of its window has
the parts below it performed (R126; log entry 13); a scalar form refuses more than one lane with cause 0x40, and nothing of it is performed. -/
def Claims.PartPortMemoryIssues : Prop :=
  ∀ (s : State) (i : Instr) (h : Shape) (r : Fire) (g e : Nat) (q : Gen) (o : EOp), Fires s i h r g e →
    let a := Claims.va s r g e
    NMap.find (s.elem g e).gens (bitsOf r.lit 3 0) = some q → Claims.portOp r a q i = some o →
    ((∃ f, i = .iCmb f ∨ i = .iCmbF f) → ∃ v, a = .sc v) → ((∃ f, i = .iLdt f) → a.idx = []) →
    (Claims.isVector i = true ∨ r.n ≤ 1 → ∀ ps, s.lanePieces g (s.elem g e) o o.lanes 0 = .ok ps → ∃ q' : Req,
      exec i s = .next (fired (s.addReq q') h r g e []) ∧ q'.pieces = ps ∧ q'.op = o.op ∧ q'.cls = o.cls ∧ q'.who = .elem g e ∧
      q'.thread = r.thread ∧ q'.iter = r.iter ∧ q'.slot = r.slot ∧ q'.acq = o.acq ∧ q'.rel = o.rel ∧ q'.sc = bitsOf r.lit 5 4 ∧
      q'.phase = .wait ∧ q'.d = r.f.d.toNat ∧ q'.e = r.f.e.toNat ∧ q'.t = r.f.t.toNat) ∧
    (Claims.isVector i = true ∨ r.n ≤ 1 → ∀ cause v, s.lanePieces g (s.elem g e) o o.lanes 0 = .error (cause, v) →
      o.op ≠ .store ∨ o.unit ≠ 0 ∨ (∀ x ∈ o.lanes, Claims.below (s.elem g e).wins ⟨x.1.space, x.1.base + (x.2.1 : Nat) * x.1.step, o.w, o.rd, o.wr, o.sk⟩ = 0) →
      Claims.refuses s i h r g e cause v) ∧
    (∀ (it v room : Nat) (pl : Place) (kind : Nat), Claims.isVector i = true ∨ r.n ≤ 1 → o.op = .store → o.unit = 0 → o.lanes = [(q, it, v, 0)] → it < q.limit →
      q.disabled = false → let k : Acc := ⟨q.space, q.base + (it : Nat) * q.step, o.w, o.rd, o.wr, o.sk⟩
      room = Claims.below (s.elem g e).wins k → 0 < room → s.place g (s.elem g e).wins { k with n := room } = .ok (pl, kind) → ∃ x y : Req,
      exec i s = .next (fired ((s.addReq x).addReq y) h r g e []) ∧ x.op = .store ∧ x.who = .elem g e ∧ x.counted = false ∧
      x.pieces = partsBelow (Claims.keyed (s.elem g e).wins q.space (piecesOf pl kind o.w v 0)) pl room ∧ y.phase = .done ∧
      y.op = .emit (Tok.error r.thread r.iter (r.n - 1) (errPayload 0x21 g ((s.tile g).role e) (Claims.word k.ea)))) ∧
    (Claims.isVector i = false → 1 < r.n → Claims.refuses s i h r g e 0x40 a.scal)

/-- Part of `PortMemoryIssues`: the address of a lane (R15, R102, R104, R252): its generator's base and as many steps as its iteration, in the aligned unit
that contains it; an iteration at or past the limit, a disabled generator and a failed check end the firing's accesses with the cause at that lane. A plain
lane is cut at every 8-byte boundary, and each part holds its share of the lane's bytes. -/
def Claims.PartLaneAddresses : Prop :=
  (∀ (s : State) (g k i v c : Nat) (el : Elem) (o : EOp) (q : Gen) (rest : List (Gen × Nat × Nat × Nat)),
    let at' := Claims.unit el.wins q.space (q.base + (i : Nat) * q.step) o.unit
    let all := s.lanePieces g el o ((q, i, v, c) :: rest) k
    let placed := s.placeOf g el.wins o.op ⟨q.space, at', o.w, o.rd, o.wr, o.sk⟩
    (s.lanePieces g el o [] k = .ok []) ∧
    (q.limit ≤ i → all = .error (0x20, BitVec.ofInt 64 at')) ∧
    (i < q.limit → q.disabled = true → all = .error (0x22, BitVec.ofInt 64 at')) ∧
    (∀ cause, i < q.limit → q.disabled = false → placed = .error cause → all = .error (cause, BitVec.ofInt 64 at')) ∧
    (∀ pl kind, i < q.limit → q.disabled = false → placed = .ok (pl, kind) →
      (∀ x, s.lanePieces g el o rest (k + 1) = .error x → all = .error x) ∧
      (∀ ps, s.lanePieces g el o rest (k + 1) = .ok ps → all = .ok (Claims.keyed el.wins q.space
        (if o.unit = 0 then piecesOf pl kind o.w v k else [Piece.mk1 pl kind o.w v c k 0]) ++ ps)))) ∧
  (∀ (pl : Place) (kind n v k : Nat),
    (∀ p ∈ piecesOf pl kind n v k, p.place = pl.off p.sh ∧ p.kind = kind ∧ p.lane = k ∧ 0 < p.n ∧ p.place.addr % 8 + p.n ≤ 8 ∧ p.sh + p.n ≤ n ∧
      p.val = v / 256 ^ p.sh % 256 ^ p.n ∧ p.done = false) ∧
    (∀ b, b < n → ∃ p ∈ piecesOf pl kind n v k, p.sh ≤ b ∧ b < p.sh + p.n))

/-- Part of `PortMemoryIssues`: the stash, scatter, compare-and-swap and fence forms of a port (R124, R182, R258, R259, R260). `sts` stores every
lane at its iteration and, by the next generator, at its transposed one; `sst` stores the second half of its lanes at the indices of the
first; `amo.cas` takes compare and new value as lanes; `fence` waits as a request of its own. -/
def Claims.PartPortSpecialForms : Prop :=
  ∀ (s : State) (f : Fields) (h : Shape) (r : Fire) (g e : Nat) (q q' : Gen) (ps : List Piece),
    let el := s.elem g e
    let a := Claims.va s r g e
    let n := bitsOf r.lit 3 0
    let w := widthBytes q.width
    let done : Instr → ReqOp → Cls → Prop := fun i op cls => ∃ x : Req, exec i s = .next (fired (s.addReq x) h r g e []) ∧ x.op = op ∧
      x.cls = cls ∧ x.pieces = ps ∧ x.who = .elem g e ∧ x.thread = r.thread ∧ x.phase = .wait
    NMap.find el.gens n = some q →
    (Fires s (.iSts f) h r g e → NMap.find el.gens (n + 1) = some q' → (∀ lanes,
      lanes = ((r.its a).zip (r.lanes a)).flatMap (fun x => [(q, x.1, x.2.toNat % 256 ^ w, 0),
        (q', x.1 / 1024 * 1024 + 32 * (x.1 % 32) + x.1 / 32 % 32, x.2.toNat % 256 ^ w, 0)]) →
      s.lanePieces g el ⟨.st, .store, 0, w, lanes, false, true, 0, false, false⟩ lanes 0 = .ok ps → done (.iSts f) .store .st)) ∧
    (Fires s (.iSst f) h r g e → (∀ (l1 l2 : List Lane) ix lanes, a = .vec (l1 ++ l2) ix → l1.length = l2.length → l1 ≠ [] → r.vec = true →
      lanes = (l1.zip l2).map (fun x => (q, x.1.toNat, x.2.toNat % 256 ^ w, 0)) →
      s.lanePieces g el ⟨.st, .store, 0, w, lanes, false, true, 0, false, false⟩ lanes 0 = .ok ps → done (.iSst f) .store .st)) ∧
    (Fires s (.iAmoCas f) h r g e → (∀ (c v : Lane) ix lanes, a = .vec [c, v] ix → w = 4 →
      lanes = [(q, (r.its a).headD r.iter, v.toNat, c.toNat)] →
      s.lanePieces g el ⟨.ld, .amo .cas, 4, 4, lanes, true, true, 0, false, false⟩ lanes 0 = .ok ps → done (.iAmoCas f) (.amo .cas) .ld)) ∧
    (Fires s (.iFence f) h r g e → ps = [] → done (.iFence f) .fence .none)

/-- Part of `PortMemoryIssues`: the vector combine and the operands a form refuses (R104, R182, R257 to R262). A combine of a vector takes one address,
the aligned 128 bytes that contain it, and puts lane k at 4k; it has no 8-byte type. A compare-and-swap takes two lanes of 4 bytes or four that
make two values of 8. A scatter's lanes come in pairs, an indexed token has no transposed load, and a generator that is not there is cause 0x20. -/
def Claims.PartPortOperands : Prop :=
  ∀ (s : State) (i : Instr) (f : Fields) (h : Shape) (r : Fire) (g e : Nat), Fires s i h r g e →
    let el := s.elem g e
    let a := Claims.va s r g e
    let gen := NMap.find el.gens (bitsOf r.lit 3 0)
    let cas : Nat → List (Gen × Nat × Nat × Nat) → EOp := fun w lanes => ⟨.ld, .amo .cas, w, w, lanes, true, true, 0, false, false⟩
    let done : EOp → List Piece → Prop := fun o ps => ∃ x : Req, exec i s = .next (fired (s.addReq x) h r g e []) ∧ x.op = o.op ∧
      x.cls = o.cls ∧ x.pieces = ps ∧ x.who = .elem g e ∧ x.thread = r.thread ∧ x.phase = .wait
    ((∀ q, Claims.portOp r a q i ≠ none) ∨ i = .iSts f ∨ i = .iSst f ∨ i = .iAmoCas f → gen = none → Claims.refuses s i h r g e 0x20 0) ∧
    (∀ (q : Gen) (fixed : Bool) (ls : List Lane) (ix : List Nat), (i = .iCmb f ∧ fixed = false ∨ i = .iCmbF f ∧ fixed = true) → gen = some q → a = .vec ls ix →
      (¬ (bitsOf q.cc 6 4 = 2 ∨ bitsOf q.cc 6 4 = 3) →
        let at' := Claims.unit el.wins q.space (q.base + ((r.its a).headD r.iter : Nat) * q.step) 128
        ∀ (pl : Place) (kind : Nat), (r.its a).headD r.iter < q.limit → q.disabled = false →
          s.place g el.wins ⟨q.space, at', 4 * ls.length, false, true, 0⟩ = .ok (pl, kind) →
          done ⟨.st, .cmb fixed q.cc, 128, 4 * ls.length, [], false, true, 0, false, false⟩
            (Claims.keyed el.wins q.space (ls.zipIdx.map (fun l => Piece.mk1 (pl.off (4 * l.2)) kind 4 l.1.toNat 0 l.2 0)))) ∧
      (bitsOf q.cc 6 4 = 2 ∨ bitsOf q.cc 6 4 = 3 → Claims.refuses s i h r g e 0x40 a.scal)) ∧
    (∀ (q : Gen), i = .iAmoCas f → gen = some q →
      (∀ (c0 c1 v0 v1 : Lane) ix lanes ps, a = .vec [c0, c1, v0, v1] ix → widthBytes q.width = 8 →
        lanes = [(q, (r.its a).headD r.iter, v0.toNat + 2 ^ 32 * v1.toNat, c0.toNat + 2 ^ 32 * c1.toNat)] →
        s.lanePieces g el (cas 8 lanes) lanes 0 = .ok ps → done (cas 8 lanes) ps) ∧
      ((∀ v, a = .sc v → Claims.refuses s i h r g e 0x40 a.scal) ∧
       (∀ ls ix, a = .vec ls ix → ¬ (ls.length = 2 ∧ widthBytes q.width = 4) → ¬ (ls.length = 4 ∧ widthBytes q.width = 8) →
         Claims.refuses s i h r g e 0x40 a.scal))) ∧
    (∀ (q : Gen), i = .iSst f → gen = some q → (∀ v, a = .sc v → Claims.refuses s i h r g e 0x40 a.scal) ∧
      (∀ ls ix, a = .vec ls ix → ls.length % 2 = 1 → Claims.refuses s i h r g e 0x40 a.scal)) ∧
    (∀ (q : Gen), i = .iLdt f → gen = some q → a.idx ≠ [] → Claims.refuses s i h r g e 0x41 a.scal)

/-- O37 (tier 2): memory instructions of a port (R254 to R260, R262, R263, R265), with the address of each lane (R15, R252), the stash, scatter, compare-and-swap, vector combine and
fence forms (R124, R182, R258 to R262), and the operands each refuses.
The model's readings here: log entries 13, 21. -/
def Obligations.PortMemoryIssues : Prop :=
  Claims.PartPortMemoryIssues ∧ Claims.PartLaneAddresses ∧ Claims.PartPortSpecialForms ∧ Claims.PartPortOperands

/-! Engines: home units, copies, the sorter, the generator, the plane fill (R266 to R274, R291 to R296, R303 to R305). -/

/-- What an instruction of a home unit asks for in a context: class, bytes and alignment of its object, page kinds, read and write
permission, whether it answers into dstA, and its operation (R277, R291, R303). -/
def Claims.unitOp (s : State) (t : TIn) : Instr → Option (Cls × Nat × Nat × Nat × Bool × Bool × Bool × ReqOp)
  | .iSkInit _ => some (.st, 64, 64, 0, false, true, false, .skInit (Memory.readBytes (s.tile t.g).spad (t.d.toNat % 2 ^ 20) 64))
  | .iSkAdd _ => some (.st, 64, 64, 0, true, true, false,
      .skAdd [(t.d.toNat % 2 ^ 32, BitVec.ofNat 32 (t.d.toNat / 2 ^ 32), (t.e.setWidth 8).toInt)])
  | .iSkQry _ => some (.ld, 64, 64, 0, true, false, true, .skQry [t.d.toNat % 2 ^ 32])
  | .iSkScale _ => some (.st, 64, 64, 0, true, true, false, .skScale (t.d.setWidth 32))
  | .iSkClr _ => some (.st, 64, 64, 0, true, true, false, .skClr)
  | .iSkRd _ => some (.ld, 64, 64, 0, true, false, true, .skRd (bitsOf t.d 28 26) (bitsOf t.d 25 0) 1)
  | .iSkStat _ => some (.ld, 64, 64, 0, true, false, true, .skStat)
  | .iHoldIns _ => some (.st, 1, 64, 2, false, false, false, .holdIns (bitsOf t.d 31 0) (bitsOf t.d 37 32 + 1))
  | .iHoldDrop _ => some (.st, 1, 1, 2, false, false, false, .holdDrop (bitsOf t.d 31 0))
  | .iHoldQ _ => some (.ld, 1, 1, 2, false, false, true, .holdQ (bitsOf t.d 31 0))
  | _ => none

/-- The units of 64 bytes an entry of a holdings table covers, from its place. -/
def Claims.covers : ReqOp → Nat
  | .holdIns _ n => n
  | _ => 0

/-- O38 (tier 2): sketch and holdings instructions of a context (R277, R291, R303): where nothing holds the instruction and its object passes
the checks, it issues to its home unit and waits for the verdict; a scratchpad space is cause 0x33, an object that fails a check a precise
trap with that check's cause. `sk.init` waits for the context's own stores to its template; a holdings address lies in a vault.
The model's readings here: log entry 46. -/
def Obligations.UnitIssues : Prop :=
  ∀ (s : State) (i : Instr) (h : Shape) (g p c n al sk : Nat) (t : TIn) (cls : Cls) (rd wr d : Bool) (op : ReqOp), Issues s i h g p c →
    t = issueIn s i h g p c → Claims.unitOp s t i = some (cls, n, al, sk, rd, wr, d, op) → s.holds t cls false = none →
    (∀ f, i = .iSkInit f → s.storing g p c (t.d.toNat % 2 ^ 20) 64 = false) →
    (∀ (pl : Place) (kind room past : Nat),
      s.unitPlace g t.x.wins (bitsOf t.lit 55 52) (Claims.ea t 0) n al sk rd wr = .ok (pl, kind, room, past) →
      (∀ f, i = .iSkInit f → let off := t.d.toNat % 2 ^ 20; off < 0xC0000 ∧ off % 64 = 0) →
      ((∃ f, i = .iHoldIns f ∨ i = .iHoldDrop f ∨ i = .iHoldQ f) → ∃ pa, pl = .phys pa ∧ 0x10000000000 ≤ pa % 2 ^ 44 ∧
        (pa % 2 ^ 44 - 0x10000000000) % 0x4000000 + 64 * Claims.covers op ≤ 0x4000000) →
      exec i s = .next (s.issue t { s.taskReq t cls op with
        pieces := Claims.keyed t.x.wins (bitsOf t.lit 55 52) [Piece.mk1 pl kind n 0 0 0 0], verdict := true, d := if d then t.f.d.toNat else 28
        ea := Claims.word (Claims.ea t 0), room := room, past := past, pages := winPages t.x.wins (bitsOf t.lit 55 52) })) ∧
    (∀ cause, s.unitPlace g t.x.wins (bitsOf t.lit 55 52) (Claims.ea t 0) n al sk rd wr = .error cause →
      exec i s = .next (s.takeTrap g p c (BitVec.ofNat 16 cause) (s.ctx g p c).pc
        (errPayload cause g ((s.tile g).role p) (Claims.word (Claims.ea t 0))) (s.ctx g p c).rpt)) ∧
    (bitsOf t.lit 55 52 < 3 → s.unitPlace g t.x.wins (bitsOf t.lit 55 52) (Claims.ea t 0) n al sk rd wr = .error 0x33)

/-- The operation of a home unit's instruction on a memory port, lane by lane (R277, R291, R303). -/
def Claims.unitPort (t : Tile) (el : Elem) (r : Fire) (q : Gen) (a c : Val) : Instr → Option (Cls × Nat × Nat × Nat × Bool × Bool × ReqOp)
  | .iSkInit _ => some (.st, 64, 64, 0, false, true, .skInit (Memory.readBytes t.spad (a.scal.toNat % 2 ^ 20) 64))
  | .iHoldIns _ => some (.st, 1, 64, 2, false, false, .holdIns (bitsOf a.scal 31 0) (bitsOf a.scal 37 32 + 1))
  | .iHoldDrop _ => some (.st, 1, 1, 2, false, false, .holdDrop (bitsOf a.scal 31 0))
  | .iHoldQ _ => some (.ld, 1, 1, 2, false, false, .holdQ (bitsOf a.scal 31 0))
  | .iSkAdd _ => some (.st, 64, 64, 0, true, true, .skAdd ((List.range r.n).map (fun k => ((a.lane k).toNat, c.lane k,
      if q.lsReg then sgn 8 (bitsOf (el.e[q.ls.toNat]?.getD 0) 7 0) else q.ls))))
  | .iSkQry _ => some (.ld, 64, 64, 0, true, false, .skQry ((List.range r.n).map (fun k => (a.lane k).toNat)))
  | .iSkScale _ => some (.st, 64, 64, 0, true, true, .skScale (a.scal.setWidth 32))
  | .iSkClr _ => some (.st, 64, 64, 0, true, true, .skClr)
  | .iSkRd _ => some (.ld, 64, 64, 0, true, false, .skRd (bitsOf a.scal 28 26) (bitsOf a.scal 25 0) (bitsOf a.scal 33 29 + 1))
  | .iSkStat _ => some (.ld, 64, 64, 0, true, false, .skStat)
  | _ => none

/-- `sk.add`, whose dstB is its third source on a port (R276, R291). -/
def Claims.adds : Instr → Bool
  | .iSkAdd _ => true
  | _ => false

/-- Part of `UnitPortIssues`: sketch and snapshot instructions of a memory port (R277, R291, R294): the firing becomes one request at the generator's
address for its iteration, whose result goes to dstB as well but for `sk.add`; a refused iteration or object gives its cause in place of a result. -/
def Claims.PartUnitPortIssues : Prop :=
  ∀ (s : State) (i : Instr) (h : Shape) (r : Fire) (g e n al sk : Nat) (q : Gen) (cls : Cls) (rd wr : Bool) (op : ReqOp), Fires s i h r g e →
    let el := s.elem g e
    NMap.find el.gens (bitsOf r.lit 3 0) = some q →
    (Claims.unitPort (s.tile g) el r q (Claims.va s r g e) (Claims.vc s r g e) i = some (cls, n, al, sk, rd, wr, op) →
      (∀ (pl : Place) (kind room past : Nat), q.refuses r.iter = none →
        s.unitPlace g el.wins q.space (q.addr r.iter) n al sk rd wr = .ok (pl, kind, room, past) →
        (∀ f, i = .iSkInit f → let off := (Claims.va s r g e).scal.toNat % 2 ^ 20; off < 0xC0000 ∧ off % 64 = 0) →
        ((∃ f, i = .iHoldIns f ∨ i = .iHoldDrop f ∨ i = .iHoldQ f) → ∃ pa, pl = .phys pa ∧ 0x10000000000 ≤ pa % 2 ^ 44 ∧
          (pa % 2 ^ 44 - 0x10000000000) % 0x4000000 + 64 * Claims.covers op ≤ 0x4000000) → ∃ x : Req,
        exec i s = .next (fired (s.addReq x) h r g e []) ∧ x.op = op ∧ x.cls = cls ∧ x.who = .elem g e ∧ x.room = room ∧ x.past = past ∧
        x.pieces = Claims.keyed el.wins q.space [Piece.mk1 pl kind n 0 0 0 0] ∧ x.d = r.f.d.toNat ∧ x.e = r.f.e.toNat ∧
        x.dup = !(Claims.adds i)) ∧
      (∀ cause, q.refuses r.iter = none → s.unitPlace g el.wins q.space (q.addr r.iter) n al sk rd wr = .error cause →
        Claims.refuses s i h r g e cause (BitVec.ofInt 64 (q.addr r.iter))) ∧
      (∀ cause, q.refuses r.iter = some cause → Claims.refuses s i h r g e cause (BitVec.ofInt 64 (q.addr r.iter)))) ∧
    (∀ f (pl pl' : Place) (kind kind' room room' past past' : Nat), i = .iSkMerge f → q.refuses r.iter = none →
      s.unitPlace g el.wins q.space (q.addr r.iter) 64 64 0 true true = .ok (pl, kind, room, past) →
      s.unitPlace g el.wins q.space (Claims.va s r g e).scal.toNat 64 64 0 true false = .ok (pl', kind', room', past') → ∃ x : Req,
      exec i s = .next (fired (s.addReq x) h r g e []) ∧ x.op = .skMerge pl' room' past' none [] ∧ x.cls = .st ∧ x.who = .elem g e ∧
      x.pieces = Claims.keyed el.wins q.space [Piece.mk1 pl kind 64 0 0 0 0]) ∧
    (∀ f (pl : Place) (kind : Nat), i = .iRtSnap f → q.refuses r.iter = none → (Claims.base el.wins q.space + (q.addr r.iter).toNat) % 64 = 0 →
      s.place g el.wins ⟨q.space, q.addr r.iter, 2048, false, true, 0⟩ = .ok (pl, kind) → ∃ x : Req,
      exec i s = .next (fired (s.addReq x) h r g e []) ∧ x.op = .rtSnap ∧ x.cls = .st ∧ x.who = .elem g e ∧
      x.pieces = Claims.keyed el.wins q.space [Piece.mk1 pl kind 2048 0 0 0 0])

/-- O39 (tier 2): copies, block-map invalidation, sketch merge, route snapshot, sort, random words and plane fill of a context (R266, R267, R270, R274, R294,
R295, R304, R305). A descriptor off its alignment is cause 0x09; a sort's ranges lie in one side each and are equal or apart; a fill is
pending at once, and an element that is not there, already fills or runs that plane is cause 0x09.
The model's readings here: log entries 45, 61. -/
def Obligations.EngineIssues : Prop :=
  ∀ (s : State) (i : Instr) (f : Fields) (h : Shape) (g p c : Nat) (t : TIn) (w : Lane), Issues s i h g p c → t = issueIn s i h g p c →
    encodeWord i = some w →
    let sp := bitsOf t.lit 55 52
    let ea := Claims.word (Claims.ea t 0)
    let keyed := Claims.keyed t.x.wins sp
    let nine := s.takeTrap g p c 9 (s.ctx g p c).pc (w.setWidth 64) (s.ctx g p c).rpt
    (∀ (op : Nat) (pl : Place) (kind : Nat), (i = .iCp f ∧ op = 0xB0 ∨ i = .iCp2 f ∧ op = 0xB1 ∨ i = .iCpg f ∧ op = 0xB2 ∨ i = .iCps f ∧ op = 0xB3) →
      s.holds t .cp (sp == 4) = none → ea % 64 = 0 → s.place g t.x.wins ⟨sp, Claims.ea t 0, 64, true, false, 0⟩ = .ok (pl, kind) →
      exec i s = .next (s.issue t { s.taskReq t .cp (.desc (BitVec.ofNat 32 (op * 2 ^ 24))) with
        pieces := keyed [Piece.mk1 pl kind 64 0 0 0 0], verdict := true, n := 1, ea := ea, anyLane := true, pages := winPages t.x.wins sp })) ∧
    ((i = .iCp f ∨ i = .iCp2 f ∨ i = .iCpg f ∨ i = .iCps f) → ea % 64 ≠ 0 → exec i s = .next nine) ∧
    (∀ (pl : Place) (kind : Nat), i = .iBmcInv f → s.holds t .st (sp == 4) = none →
      s.place g t.x.wins ⟨sp, Claims.ea t 4, 4, true, false, 0⟩ = .ok (pl, kind) →
      exec i s = .next (s.issue t { s.taskReq t .st (.bmcInv (bitsOf t.d 31 0) (bitsOf t.d 63 32)) with
        pieces := keyed [Piece.mk1 pl kind 4 0 0 0 0], n := 1, ea := Claims.word (Claims.ea t 4), anyLane := true, pages := winPages t.x.wins sp })) ∧
    (∀ (pl pl' : Place) (kind kind' room room' past past' : Nat), i = .iSkMerge f → s.holds t .st false = none →
      s.unitPlace g t.x.wins sp ea 64 64 0 true true = .ok (pl, kind, room, past) →
      s.unitPlace g t.x.wins sp t.d.toNat 64 64 0 true false = .ok (pl', kind', room', past') →
      exec i s = .next (s.issue t { s.taskReq t .st (.skMerge pl' room' past' none []) with
        pieces := keyed [Piece.mk1 pl kind 64 0 0 0 0], verdict := true, ea := ea, room := room, past := past, pages := winPages t.x.wins sp })) ∧
    (∀ (pl : Place) (kind : Nat), i = .iRtSnap f → s.holds t .st false = none → (Claims.base t.x.wins sp + ea) % 64 = 0 →
      s.place g t.x.wins ⟨sp, ea, 2048, false, true, 0⟩ = .ok (pl, kind) →
      exec i s = .next (s.issue t { s.taskReq t .st .rtSnap with
        pieces := keyed [Piece.mk1 pl kind 2048 0 0 0 0], verdict := true, ea := ea, pages := winPages t.x.wins sp })) ∧
    (∀ src dst n, i = .iRsort f → src = t.a.toNat % 2 ^ 20 → dst = t.a.toNat / 2 ^ 20 % 2 ^ 20 → n = t.b.toNat % 2 ^ 16 + 1 →
      (src % 4 = 0 → dst % 4 = 0 → (src = dst ∨ dst + 4 * n ≤ src ∨ src + 4 * n ≤ dst) → s.holds t .st false = none →
        src < 0xC0000 → src % 0x40000 + 4 * n ≤ 0x40000 → dst < 0xC0000 → dst % 0x40000 + 4 * n ≤ 0x40000 →
        exec i s = .next (s.issue t { s.taskReq t .st (.rsort src dst n) with
          ea := src, pieces := [Piece.mk1 (.spad g dst) 4 (4 * n) 0 0 0 0, Piece.mk1 (.spad g src) 4 (4 * n) 0 0 1 0] })) ∧
      (src % 4 ≠ 0 ∨ dst % 4 ≠ 0 ∨ (src ≠ dst ∧ src < dst + 4 * n ∧ dst < src + 4 * n) → exec i s = .next nine)) ∧
    (i = .iRngSeed f → s.holds t .st false = none → exec i s = .next (s.issue t (s.taskReq t .st (.rngSeed t.a)))) ∧
    (i = .iRng f → s.holds t .ld false = none →
      exec i s = .next (s.issue t { s.taskReq t .ld (.rng 0) with d := t.f.d.toNat })) ∧
    (∀ role k e, i = .iPlf f → role = t.b.toNat % 32 → k = t.b.toNat / 32 % 4 → e = (s.tile g).phys role →
      (4 ≤ role → (s.elem g e).planes ≠ [] → (s.elem g e).apl ≠ k → (s.elem g e).npnd = false → s.holds t .cp true = none → t.a.toNat < 2 ^ 56 →
        exec i s = .next ((s.updElem g e (fun x => { x with npnd := true, npl := k, nrdy := false })).issue t
          { (s.updElem g e (fun x => { x with npnd := true, npl := k, nrdy := false })).taskReq t .cp (.plf role k) with ea := t.a.toNat })) ∧
      (role < 4 ∨ (s.elem g e).planes = [] ∨ (s.elem g e).apl = k ∨ (s.elem g e).npnd = true → exec i s = .next nine))

/-- Part of `UnitPortIssues`: draws and row maps of an element (R296, R305). `rng` asks the tile's generator for srcB's number of lanes, 0 for a scalar,
and waits for it; more than 32 is cause 0x40. `rt.map` refuses a table that is in scratchpad or translated, or not aligned. -/
def Claims.PartFiringRequests : Prop :=
  ∀ (s : State) (i : Instr) (f : Fields) (h : Shape) (r : Fire) (g e : Nat), Fires s i h r g e →
    let b := (Claims.vb s r g e).scal
    (i = .iRng f → b.toNat % 64 ≤ 32 → ∃ x : Req, exec i s = .next (fired (s.addReq x) h r g e []) ∧ x.op = .rng (b.toNat % 64) ∧
      x.who = .elem g e ∧ x.thread = r.thread ∧ x.iter = r.iter) ∧
    (i = .iRng f → 32 < b.toNat % 64 → Claims.refuses s i h r g e 0x40 b) ∧
    (i = .iRtMap f → bitsOf b 51 48 < 3 ∨ bitsOf b 51 48 = 4 ∨ b.toNat % 64 ≠ 0 → Claims.refuses s i h r g e 0x40 b) ∧
    (∀ (j : Nat) (q : Region) (ea : Nat), i = .iRtMap f → bitsOf b 51 48 = 3 → ea = bitsOf b 47 0 → ea % 64 = 0 → s.regOf g = some (j, q) →
      q.vbase ≤ ea → ea + 2048 ≤ q.vbase + q.vsize → q.vbase + q.vsize ≤ 0x4000000 → q.vkind ≠ 3 → s.bad = [] → s.ev.arc ≠ 6 →
      let pa := 0x10000000000 + vaultOfTile g * 0x4000000 + (ea + 8 * (r.thread % 256))
      let ent : Word := BitVec.ofNat 64 (s.readPa pa 8)
      s.paOk pa 0 = true → s.stale = [] →
      ((bitsOf ent 63 42 ≠ 0 ∨ bitsOf ent 17 16 = 3) → Claims.refuses s i h r g e 0x39 (BitVec.ofNat 64 (ea + 8 * (r.thread % 256)))) ∧
      (bitsOf ent 63 42 = 0 → bitsOf ent 17 16 ≠ 3 → (Claims.va s r g e).idx = [] →
        let w := r.fwd r.f.a.toNat
        let second : Nat → Bool := fun k => let it := (r.iter + k) % 2 ^ 20
          (bitsOf ent 17 16 = 1 && decide (it % 2 = 1)) || (bitsOf ent 17 16 = 2 && decide (bitsOf ent 41 18 ≤ it))
        let to_ : Nat → (Nat → Bool) → List Tok := fun ph m => let th := r.thread / 256 * 256 + ph
          Claims.kept { r with thread := th } (Claims.va s r g e) { w with thread := th } m
        Claims.gives s i h r g e ((to_ (bitsOf ent 7 0) (fun k => !second k)).map Out.a ++ (to_ (bitsOf ent 15 8) second).map Out.a)))

/-- O40 (tier 2): sketch and snapshot instructions of a port (R277, R291, R294), and the draws and row maps of an element (R296, R305).
The model's readings here: log entries 38, 45, 46. -/
def Obligations.UnitPortIssues : Prop :=
  Claims.PartUnitPortIssues ∧ Claims.PartFiringRequests

/-! Translation and the triad engine (R271 to R290). -/

/-- The cause a window gives a check word: absent, revoked, or shorter than the least extent; 0 where it passes (R272). -/
def Claims.winCause (wins : NMap Win) (b : Word) : Nat :=
  match NMap.find wins (b.toNat % 16) with
  | none => 0x24
  | some w => if w.revoked = true then 0x23 else if w.extent < b.toNat / 2 ^ 8 % 2 ^ 52 then 0x21 else 0

/-- O41 (tier 2): translation instructions (R271, R272, R273, R275). `xlt` asks the tile's node for the window of a virtual address; an
address with bits above 55, or a register above 10, is answered without a walk. `win.chk` answers 0 or the cause (the offset field of its
payload is free: log entry 30). `xinv` numbers a shoot-down, and `mig` sends the record it names; both are steward only.
The model's readings here: log entries 30, 39. -/
def Obligations.TranslationIssues : Prop :=
  (∀ (s : State) (i : Instr) (f : Fields) (h : Shape) (g p c : Nat) (t : TIn), Issues s i h g p c → t = issueIn s i h g p c →
    let rq : Req := { s.taskReq t .ld (.xlt (t.b.toNat % 16) (t.b.toNat / 16 % 8)) with d := t.f.d.toNat, ea := t.a.toNat }
    let no : Nat → Req := fun cause => { rq with phase := .done, res := errPayload cause g ((s.tile g).role p) t.a.toNat }
    (i = .iXlt f → s.holds t .ld true = none →
      (t.a.toNat < 2 ^ 56 → t.b.toNat % 16 ≤ 10 → exec i s = .next (s.issue t rq)) ∧
      (2 ^ 56 ≤ t.a.toNat → exec i s = .next (s.issue t (no 0x21))) ∧
      (t.a.toNat < 2 ^ 56 → 10 < t.b.toNat % 16 → exec i s = .next (s.issue t (no 0x24)))) ∧
    (i = .iWinChk f →
      (Claims.winCause t.x.wins t.b = 0 → exec i s = .next (s.putResult t false 0)) ∧
      (Claims.winCause t.x.wins t.b ≠ 0 → ∃ off : Nat, exec i s = .next (({ s with free := s.free + 1 } : State).putResult t false
        (errPayload (Claims.winCause t.x.wins t.b) g ((s.tile g).role p) off)))) ∧
    (i = .iXinv f → s.holds t .st false = none →
      let k : Shoot := ⟨(s.shootSeq + 1) % 2 ^ 32, t.b.toNat / 2 ^ 48, t.a.toNat / 2 ^ 12 % 2 ^ 44, t.b.toNat % 2 ^ 48⟩
      let s' : State := { s with
        shootSeq := k.num, shooting := s.shooting ++ [⟨k, false, List.range 384, []⟩]
        shootLog := (s.shootLog ++ [k]).drop (s.shootLog.length - 255) }
      exec i s = .next (s'.issue t (s'.taskReq t .st (.xinv k.num)))) ∧
    (i = .iMig f → s.holds t .st false = none → s.reachable (redirect s.migs t.a.toNat) = true →
      s.reachable (redirect s.migs (t.a.toNat + 31)) = true →
      exec i s = .next (s.issue t { s.taskReq t .st .mig with
        d := t.f.d.toNat, ea := t.a.toNat, pieces := [Piece.mk1 (.phys t.a.toNat) 1 32 0 0 0 0] }))) ∧
  (∀ (s : State) (i : Instr) (f : Fields) (h : Shape) (r : Fire) (g e : Nat), Fires s i h r g e →
    let a := (Claims.va s r g e).scal
    let b := (Claims.vb s r g e).scal
    (i = .iXlt f → a.toNat < 2 ^ 56 → b.toNat % 16 ≤ 10 → ∃ x : Req, exec i s = .next (fired (s.addReq x) h r g e []) ∧
      x.op = .xlt (b.toNat % 16) (b.toNat / 16 % 8) ∧ x.ea = a.toNat ∧ x.who = .elem g e ∧ x.phase = .wait ∧ x.dup = true ∧
      x.thread = r.thread ∧ x.iter = r.iter) ∧
    (i = .iXlt f → 2 ^ 56 ≤ a.toNat → ∃ x : Req, exec i s = .next (fired (s.addReq x) h r g e []) ∧ x.phase = .done ∧
      x.op = .emit ⟨.fault, r.thread, r.iter, r.n - 1, errPayload 0x21 g ((s.tile g).role e) a.toNat, [], []⟩) ∧
    (i = .iXlt f → a.toNat < 2 ^ 56 → 10 < b.toNat % 16 → Claims.refuses s i h r g e 0x40 b) ∧
    (i = .iWinChk f → b &&& 0xF0000000000000F0 = 0 → b.toNat % 16 ≤ 10 → (∀ k, r.tok f.a.toNat = some k → k.kind ≠ .fault) →
      Claims.winCause (s.elem g e).wins b = 0 → ∃ x : Req, exec i s = .next (fired (s.addReq x) h r g e []) ∧ x.phase = .done ∧
        x.op = .emit (Claims.sc r 0)))

/-- What a scratchpad descriptor of the triad engine passes at issue (R78, R278, R279): aligned and inside one side, no store of the
context to it pending, its fields legal, a bank that is not poisoned, and, but for `thold`, one whose filling it may go on with. -/
def Claims.descOk (s : State) (t : TIn) (u : DUse) (d : Desc) : Prop :=
  let off := t.a.toNat % 2 ^ 20
  let q := (s.tile t.g).triad
  off % 128 = 0 ∧ off < 0xC0000 ∧ s.storing t.g t.p t.c off 128 = false ∧ d = parseDesc (s.spadWords t.g off 16) ∧
  (∃ j r, s.regOf t.g = some (j, r) ∧ d.check u r = 0) ∧
  (d.stream = true ∨ (q.bank d.bank).state ≠ 2) ∧ (u = .hold ∨ q.mixOk d = true)

/-- The state after a triad operation has entered queue `hi` (R90): the context goes on and its tl count rises. -/
def Claims.queued (s : State) (t : TIn) (hi : Bool) (op : SeqOp) (oth : Nat) : State :=
  ({ s.retire t { t.x.advance with tl := t.x.tl + 1 } with nextId := s.nextId + 1 } : State).updTriad t.g (fun q =>
    { q with
      hiQ := if hi = true then q.hiQ ++ [⟨s.nextId, op, t.p, t.c, oth⟩] else q.hiQ
      loQ := if hi = true then q.loQ else q.loQ ++ [⟨s.nextId, op, t.p, t.c, oth⟩] })

/-- Part of `TriadIssues`: the queued triad instructions (R90, R278 to R283, R287, R288). Nothing holding them and their queue holding fewer
than eight operations, each enters the queue its operand names, with its operands read now, the scale registers among them, for which it waits (R73,
R357); a full queue blocks the context. A drain of a
poisoned bank traps with 0x55 and of a bank without an epilogue with 0x54, a bad descriptor address with 0x54; a descriptor of a poisoned bank
traps with 0x55, one that may not go on with its bank's filling with 0x53; a bank held by an open
ragged product blocks. -/
def Claims.PartTriadQueues : Prop :=
  ∀ (s : State) (i : Instr) (f : Fields) (h : Shape) (g p c : Nat) (t : TIn), Issues s i h g p c → t = issueIn s i h g p c →
    s.holds t .tl false = none →
    let q := (s.tile g).triad
    let bank := t.a.toNat % 2
    let off := t.a.toNat % 2 ^ 20
    let sc : Nat → Lane := fun k => if k < 24 then (t.x.src 0 k).setWidth 32 else 0x3F800000
    let free : Bool → Prop := fun hi => q.entries hi < 8
    let trap : Nat → Nat → Prop := fun cause v =>
      exec i s = .next (s.takeTrap g p c (BitVec.ofNat 16 cause) (s.ctx g p c).pc (BitVec.ofNat 64 v) (s.ctx g p c).rpt)
    let engine : Await → State := fun w => s.block g p c (.blkEngine w)
    let late : Desc → Nat → Prop := fun d k => (k = d.wsc ∨ k = d.nsc) ∧ k < 24 ∧ s.pendingReg g p c k = true
    (∀ d, i = .iTriad f → Claims.descOk s t .triad d → (∀ k, ¬ late d k) →
      (if d.stream = true then (t.x.chan d.och).writable = true else q.heldBy d.bank = false) → free (t.b.getLsbD 0) →
      exec i s = .next (Claims.queued s t (t.b.getLsbD 0) (.triad d (sc d.wsc) (sc d.nsc)) d.oth)) ∧
    (∀ d k, i = .iTriad f → Claims.descOk s t .triad d → (if d.stream = true then (t.x.chan d.och).writable = true else q.heldBy d.bank = false) →
      late d k → (∀ j, late d j → j = k) → exec i s = .next (s.block g p c (.blkReg k))) ∧
    (∀ d, i = .iThold f → Claims.descOk s t .hold d → (d.stream = true ∨ q.heldBy d.bank = false) → free (t.b.getLsbD 0) →
      exec i s = .next (Claims.queued s t (t.b.getLsbD 0) (.hold d) d.oth)) ∧
    (∀ d, i = .iTrag f → Claims.descOk s t .rag d → t.b.toNat / 2 ^ 12 % 4 ≠ 0 → q.bound d.bank = false → (∀ k, ¬ late d k) →
      (t.x.chan (t.b.toNat / 2 ^ 12 % 4)).readable = true → free (t.b.getLsbD 14) →
      exec i s = .next (Claims.queued s t (t.b.getLsbD 14) (.rag d (t.b.toNat % 2 ^ 12) (t.b.toNat / 2 ^ 12 % 4) (sc d.wsc) (sc d.nsc)) d.oth)) ∧
    (∀ d j r u, (i = .iTriad f ∧ u = .triad ∨ i = .iThold f ∧ u = .hold ∨ i = .iTrag f ∧ u = .rag ∧ t.b.toNat / 2 ^ 12 % 4 ≠ 0) → off % 128 = 0 → off < 0xC0000 →
      s.storing g p c off 128 = false → d = parseDesc (s.spadWords t.g off 16) → s.regOf t.g = some (j, r) → d.check u r = 0 →
      d.stream = false → (q.bank d.bank).state = 2 → trap 0x55 d.bank) ∧
    (∀ d j r u, (i = .iTriad f ∧ u = .triad ∨ i = .iTrag f ∧ u = .rag ∧ t.b.toNat / 2 ^ 12 % 4 ≠ 0) → off % 128 = 0 → off < 0xC0000 →
      s.storing g p c off 128 = false → d = parseDesc (s.spadWords t.g off 16) → s.regOf t.g = some (j, r) → d.check u r = 0 →
      (d.stream = true ∨ (q.bank d.bank).state ≠ 2) → q.mixOk d = false → trap 0x53 off) ∧
    (∀ d, i = .iTrag f → Claims.descOk s t .rag d → t.b.toNat / 2 ^ 12 % 4 ≠ 0 → q.bound d.bank = true → trap 0x55 d.bank) ∧
    ((i = .iTriad f ∨ i = .iThold f) → off % 128 ≠ 0 ∨ 0xC0000 ≤ off → trap 0x54 off) ∧
    (i = .iTdrain f → (q.bank bank).state ≠ 2 → q.hasEpi bank = true → free (t.b.getLsbD 0) →
      exec i s = .next (Claims.queued s t (t.b.getLsbD 0) (.drain bank) 0)) ∧
    (i = .iTdrain f → (q.bank bank).state = 2 → trap 0x55 bank) ∧
    (i = .iTdrain f → (q.bank bank).state ≠ 2 → q.hasEpi bank = false → trap 0x54 bank) ∧
    (i = .iTzero f → q.heldBy bank = false → free (t.b.getLsbD 0) →
      exec i s = .next (Claims.queued s t (t.b.getLsbD 0) (.zero bank) 0)) ∧
    (i = .iTzero f → q.heldBy bank = true → exec i s = .next (engine (.bank bank))) ∧
    (i = .iTscl f → off % 128 = 0 → off < 0xC0000 → t.b.toNat % 4 ≠ 3 → free (t.b.getLsbD 2) →
      exec i s = .next (Claims.queued s t (t.b.getLsbD 2) (.scl off (t.b.toNat % 4)) 0)) ∧
    (i = .iTabort f → free (t.a.getLsbD 0) → exec i s = .next (Claims.queued s t (t.a.getLsbD 0) .abort 0)) ∧
    (i = .iTabort f → 8 ≤ q.entries (t.a.getLsbD 0) → exec i s = .next (engine (.queue (t.a.getLsbD 0))))

/-- Part of `TriadIssues`: reads of the triad engine and its policy (R284, R285, R286, R289). `tacc` asks the bank's node for one accumulator;
`tcomb` reads 128 bytes of the scratchpad; `tstat` gives the status of a bank or of the sequencer; `tpri` sets the policy at the next
instruction boundary, at once where nothing runs. A selector of 3 is cause 0x09. -/
def Claims.PartTriadReads : Prop :=
  ∀ (s : State) (i : Instr) (f : Fields) (h : Shape) (g p c : Nat) (t : TIn) (w : Lane), Issues s i h g p c → t = issueIn s i h g p c →
    encodeWord i = some w →
    let q := (s.tile g).triad
    let off := t.a.toNat % 2 ^ 20
    let n := t.a.toNat % 4
    let k := q.bank n
    (i = .iTacc f → s.holds t .ld false = none → exec i s = .next (s.issue t { s.taskReq t .ld
      (.tacc (t.a.toNat % 2) (t.a.toNat / 2 % 32) (t.a.toNat / 2 ^ 6 % 32)) with d := t.f.d.toNat })) ∧
    (i = .iTcomb f → s.holds t .ld false = none → off < 0xC0000 → off % 0x40000 + 128 ≤ 0x40000 → exec i s = .next (s.issue t
      { s.taskReq t .ld (.desc 0xC5000000) with d := t.f.d.toNat, ea := off, pieces := [Piece.mk1 (.spad g off) 4 128 0 0 0 0] })) ∧
    (i = .iTstat f → n < 2 → exec i s = .next (s.putResult t false (BitVec.ofNat 64 (k.state + (if k.int = true then 4 else 0) +
      k.mode % 8 * 8 + (if k.sat = true then 64 else 0) + (if q.heldBy n = true then 128 else 0) + k.pcause % 256 * 256 + k.steps % 2 ^ 36 * 65536)))) ∧
    (i = .iTstat f → n = 2 → exec i s = .next (s.putResult t false (BitVec.ofNat 64 (q.entries true + q.entries false * 16 + q.pol % 4 * 256 +
      (if q.runs.any (fun r => r.high) = true then 1024 else 0) + (if q.runs.any (fun r => !r.high) = true then 2048 else 0) +
      (if q.halted = true then 4096 else 0))))) ∧
    (i = .iTpri f → n ≠ 3 → exec i s = .next ((s.retire t t.x.advance).updTriad g (fun x =>
      if x.runs = [] then { x with pol := n, pend := none } else { x with pend := some n }))) ∧
    ((i = .iTstat f ∨ i = .iTpri f) → n = 3 →
      exec i s = .next (s.takeTrap g p c 9 (s.ctx g p c).pc (w.setWidth 64) (s.ctx g p c).rpt))

/-- O42 (tier 2): triad instructions of a context: the queued ones (R90, R278 to R283, R287, R288), and the reads of the engine and its
policy (R284, R285, R286, R289).
The model's readings here: log entries 34, 36. -/
def Obligations.TriadIssues : Prop :=
  Claims.PartTriadQueues ∧ Claims.PartTriadReads

/-! Jobs, tenders, shuffles and checkpoints (R235 to R238, R249, R297 to R302). -/

/-- A record read by virtual address (R235, R297, R299): like a load of 64 bytes; one that is not aligned, or above bit 55, is answered
with status 1 and no read. -/
def Claims.recordRead (s : State) (i : Instr) (t : TIn) (r : Req) : Prop :=
  (t.a.toNat % 64 = 0 → t.a.toNat < 2 ^ 56 →
    exec i s = .next (s.issue t { r with pieces := [Piece.mk1 (.virt t.a.toNat) 9 64 0 0 0 0] })) ∧
  (t.a.toNat % 64 ≠ 0 ∨ 2 ^ 56 ≤ t.a.toNat → exec i s = .next (s.issue t { r with phase := .done, res := 2 ^ 32 }))

/-- Part of `JobAndTenderIssues`: jobs and tenders of a context (R235, R236, R238, R297 to R300). Where nothing holds it, `job.spawn`, `tnd.call` and
`tnd.cost` read a record of 64 bytes, the last with the tile's features of the moment; `job.join`, `sig`, `tnd.wd` and `tnd.st` send
their operands to the hub or the Crier; each counts in its class. -/
def Claims.PartJobAndTenderIssues : Prop :=
  ∀ (s : State) (i : Instr) (f : Fields) (h : Shape) (g p c : Nat) (t : TIn), Issues s i h g p c → t = issueIn s i h g p c →
    (i = .iJobSpawn f → s.holds t .ld true = none → Claims.recordRead s i t { s.taskReq t .ld (.jobSpawn (t.b.toNat % 256)) with
      d := t.f.d.toNat, e := t.f.e.toNat, dup := true, ea := t.a.toNat }) ∧
    (i = .iTndCall f → s.holds t .ld true = none → Claims.recordRead s i t { s.taskReq t .ld .tndCall with d := t.f.d.toNat, ea := t.a.toNat }) ∧
    (∀ f2 f4 f5, i = .iTndCost f → s.holds t .ld true = none → s.f245 g = (f2, f4, f5) →
      Claims.recordRead s i t { s.taskReq t .ld (.tndCost f2 f4 f5) with d := t.f.d.toNat, ea := t.a.toNat }) ∧
    (i = .iJobJoin f → s.holds t .st false = none →
      exec i s = .next (s.issue t (s.taskReq t .st (.jobJoin (t.a.toNat % 2 ^ 32))))) ∧
    (i = .iSig f → s.holds t .st false = none →
      exec i s = .next (s.issue t (s.taskReq t .st (.sig t.a (t.b.toNat % 2 ^ 16))))) ∧
    (i = .iTndWd f → s.holds t .ld false = none →
      exec i s = .next (s.issue t { s.taskReq t .ld (.tndWd (t.a.toNat % 2 ^ 16)) with d := t.f.d.toNat })) ∧
    (i = .iTndSt f → s.holds t .ld false = none →
      exec i s = .next (s.issue t { s.taskReq t .ld (.tndSt (t.a.toNat % 2 ^ 16)) with d := t.f.d.toNat }))

/-- Part of `JobAndTenderIssues`: `done` (R237, R24). With its four counts at zero the context ends with the status of srcA, and the region keeps
its first status that is not zero; with one of them above zero it blocks and has not ended; a status of 0xFF00 or above is cause
0x09. -/
def Claims.PartDoneEnds : Prop :=
  ∀ (s : State) (f : Fields) (h : Shape) (g p c j : Nat) (q : Region) (t : TIn) (w : Lane), Issues s (.iDone f) h g p c →
    t = issueIn s (.iDone f) h g p c → (s.tile g).inst = some j → NMap.find s.regions j = some q → encodeWord (.iDone f) = some w →
    (t.a.toNat % 2 ^ 16 < 0xFF00 → t.x.ld = 0 ∧ t.x.st = 0 ∧ t.x.cp = 0 ∧ t.x.tl = 0 → ∃ s' : State, exec (.iDone f) s = .next s' ∧
      (s'.ctx g p c).status = .ended ∧ (s'.ctx g p c).donest = t.a.setWidth 16 ∧ (s'.ctx g p c).s = (s.ctx g p c).s ∧
      (s'.allEnded q = false → ∃ q', NMap.find s'.regions j = some q' ∧ q'.st = q.st ∧
        q'.status = (if q.status = 0 then t.a.toNat % 2 ^ 16 else q.status))) ∧
    (t.a.toNat % 2 ^ 16 < 0xFF00 → ¬ (t.x.ld = 0 ∧ t.x.st = 0 ∧ t.x.cp = 0 ∧ t.x.tl = 0) → ∃ s' : State, exec (.iDone f) s = .next s' ∧
      (s'.ctx g p c).status = .blkDone ∧ (s'.ctx g p c).pc = (s.ctx g p c).pc ∧ s'.regions = s.regions) ∧
    (0xFF00 ≤ t.a.toNat % 2 ^ 16 → exec (.iDone f) s = .next (s.takeTrap g p c 9 (s.ctx g p c).pc (w.setWidth 64) (s.ctx g p c).rpt))

/-- O43 (tier 2): jobs and tenders of a context (R235, R236, R238, R297 to R300), and `done` (R237, R24).
The model's readings here: log entries 48, 59. -/
def Obligations.JobAndTenderIssues : Prop :=
  Claims.PartJobAndTenderIssues ∧ Claims.PartDoneEnds

/-- O44 (tier 2): shuffles and checkpoints of a context (R249, R301, R302). `shf.go` and `shf.fb` read their plan's header, which is their
verdict, carrying srcB's tag and receiver; a plan in `mem` is cause 0x09. `ckpt` needs a closed intake, and both checkpoint forms an
aligned address, or cause 0x09, and one that can be reached, or cause 0x21.
The model's readings here: log entries 47, 56. -/
def Obligations.ShuffleAndCheckpointIssues : Prop :=
  ∀ (s : State) (i : Instr) (f : Fields) (h : Shape) (g p c : Nat) (t : TIn) (w : Lane), Issues s i h g p c → t = issueIn s i h g p c →
    encodeWord i = some w →
    let sp := t.a.toNat / 2 ^ 48 % 16
    let off : Nat := t.a.toNat % 2 ^ 48
    let pa := t.a.toNat
    let reach : Nat → Prop := fun a => s.reachable (redirect s.migs a) = true
    let trap : Nat → Word → Prop := fun cause v => exec i s = .next (s.takeTrap g p c (BitVec.ofNat 16 cause) (s.ctx g p c).pc v (s.ctx g p c).rpt)
    (∀ (op : Nat) (pl : Place) (kind room past : Nat), (i = .iShfGo f ∧ op = 0xE6 ∨ i = .iShfFb f ∧ op = 0xE7) → sp ≠ 4 →
      s.holds t .cp false = none → s.unitPlace g t.x.wins sp off 64 64 0 true false = .ok (pl, kind, room, past) →
      exec i s = .next (s.issue t { s.taskReq t .cp (.desc (BitVec.ofNat 32 (op * 2 ^ 24))) with
        pieces := [Piece.mk1 pl kind 64 t.b.toNat 0 0 0], verdict := true, ea := off, room := room, past := past
        pages := winPages t.x.wins sp })) ∧
    ((i = .iShfGo f ∨ i = .iShfFb f) → sp = 4 → trap 9 (w.setWidth 64)) ∧
    ((i = .iShfGo f ∨ i = .iShfFb f) → sp < 3 → s.holds t .cp false = none → trap 0x33 (errPayload 0x33 g ((s.tile g).role p) off)) ∧
    (i = .iCkpt f → (s.tile g).intake = false → pa % 64 = 0 → reach pa → reach (pa + 0x23FFFF) → s.holds t .st false = none →
      exec i s = .next (s.issue t { s.taskReq t .st (.ckpt pa) with ea := pa })) ∧
    (i = .iRstor f → pa % 64 = 0 → reach pa → reach (pa + 0x23FFFF) → s.holds t .ld false = none →
      exec i s = .next (s.issue t { s.taskReq t .ld (.rstor pa) with ea := pa, verdict := true })) ∧
    (i = .iCkpt f → (s.tile g).intake = true ∨ pa % 64 ≠ 0 → trap 9 (w.setWidth 64)) ∧
    (i = .iRstor f → pa % 64 ≠ 0 → trap 9 (w.setWidth 64)) ∧
    (i = .iRstor f → pa % 64 = 0 → ¬ (reach pa ∧ reach (pa + 0x23FFFF)) → trap 0x21 (errPayload 0x21 g ((s.tile g).role p) pa))

/-! Steps that are no instruction: tokens, firings, contexts and regions (R20 to R24, R29 to R41, R101, R191, R193, R222 to R224, R239, R245). -/

/-- Part of `ArcSteps`: what a parity check finds (R27, R28, R29). The flits of a token pass every check as they were made, and one changed data bit of any of
them fails the check; a token of up to 6 lanes, or a scalar, is one flit, further lanes and carried iterations go eight to a flit. -/
def Claims.PartFlits : Prop :=
  ∀ (k : Tok) (arc slot : Nat), k.lanes.length ≤ 32 → k.idx.length ≤ 32 →
    let l := k.flits arc slot
    l.length = 1 + (k.lanes.length - 6 + 7) / 8 + (if k.kind = .window then 0 else (k.idx.length + 7) / 8) ∧ flitsOk l = true ∧
    (∀ (j n b : Nat) (f : Flit), l[j]? = some f → n < 8 → b < 32 → flitsOk (l.set j { f with data := f.data ^^^ BitVec.ofNat 256 (2 ^ (32 * n + b)) }) = false)

/-- O45 (tier 2): arcs, circuits and channels (R22, R28, R29, R33, R35, R38, R101, R193, R222, R247). The oldest token held at its sender leaves
when its destination has room and its team takes tokens, and a context it held back looks again; each router of the arc's route checks the oldest
token before it and forwards it, or, where its parity fails, discards it and the region; the first token, past its last router, enters the
matching store of the element or the buffer of the channel, in order, and wakes the context; a window token goes to its
window register instead; a token for an empty slot is dropped, sets the element's status bit and counts as stray; a pulse counts at its
port while fewer than 255 wait; an engine's token enters its team's sink element. Intake is open.
The model's readings here: log entries 18, 28, 29, 42. -/
def Obligations.ArcSteps : Prop :=
  Claims.PartFlits ∧
  ∀ (s : State) (j a g : Nat) (r : Region) (x : Arc), s.ev.inst = j → s.ev.arc = a → NMap.find s.regions j = some r → r.live = true →
    g = r.tiles.getD x.dteam 0 → (s.tile g).intake = true →
    let e := (s.tile g).phys x.delem
    let el := s.elem g e
    let p := (s.tile g).phys (x.delem / 4)
    let c := x.delem % 4
    let line := NMap.get r.wires a []
    let lineSet : List Wire → State := fun l => s.updReg j (fun q => { q with wires := NMap.set q.wires a l })
    let route := pathOf (r.tiles.getD x.steam 0) (r.tiles.getD x.dteam 0)
    let at' : Wire → Prop := fun v => v.stage = 1 ∧ route[v.hop]? = some s.ev.g
    let src := r.tiles.getD x.steam 0
    let here : Nat → Bool := fun slot => (NMap.get el.planes el.apl Plane.empty).mask.getLsbD slot
    (∀ pre w post, NMap.find r.arcs a = some x → line = pre ++ w :: post → (∀ v ∈ pre, v.stage ≠ 0) → w.stage = 0 →
      (x.dchan = true → ((s.ctx g p c).chan x.dport).buf.length < 8) → (x.dchan = false → el.store.length < 128) →
      exec .eArcTokenDeparture s = .next (if x.schan = true then
        (lineSet (pre ++ { w with stage := 1 } :: post)).wakeCtx src ((s.tile src).phys (x.selem / 4)) (x.selem % 4)
        else lineSet (pre ++ { w with stage := 1 } :: post))) ∧
    (NMap.find r.arcs a = some x → (x.dchan = true ∧ 8 ≤ ((s.ctx g p c).chan x.dport).buf.length ∨ x.dchan = false ∧ 128 ≤ el.store.length) →
      exec .eArcTokenDeparture s = .next s) ∧
    (∀ pre w post, NMap.find r.arcs a = some x → line = pre ++ w :: post → (∀ v ∈ pre, ¬ at' v) → at' w → s.ev.flag = false →
      exec .eRouterHop s = .next (lineSet (pre ++ { w with hop := w.hop + 1, stage := if w.hop + 1 < route.length then 1 else 2 } :: post))) ∧
    (∀ pre w post, NMap.find r.arcs a = some x → line = pre ++ w :: post → (∀ v ∈ pre, ¬ at' v) → at' w → s.ev.flag = true →
      flitsOk (struckFlits s.ev (w.tok.flits a w.slot)) = false → ∃ (s' : State) (q : Region), exec .eRouterHop s = .next s' ∧
        NMap.find s'.regions j = some q ∧ (q.st = .gone ∨ q.st = .ending 2)) ∧
    (∀ w post, NMap.find r.arcs a = some x → line = w :: post → w.stage = 2 → x.dchan = false → s.ev.flag = false →
      (w.tok.kind ≠ .window ∨ isPort e = false) → here w.slot = true → el.store.length < 128 →
      exec .eTokenArrival s = .next ((lineSet post).updElem g e (fun y =>
        { y with store := y.store ++ [⟨w.slot, x.dport, w.tok, y.arrSeq⟩], arrSeq := y.arrSeq + 1 }))) ∧
    (∀ w post, NMap.find r.arcs a = some x → line = w :: post → w.stage = 2 → x.dchan = false → s.ev.flag = false →
      (w.tok.kind ≠ .window ∨ isPort e = false) → here w.slot = false →
      exec .eTokenArrival s = .next (((lineSet post).updElem g e (fun y => { y with esl := true })).strayAt g 1)) ∧
    (∀ w post, NMap.find r.arcs a = some x → line = w :: post → w.stage = 2 → x.dchan = false → w.tok.kind = .window → isPort e = true →
      s.ev.flag = false → exec .eWindowTokenArrival s = .next (if winNum w.tok ≤ 10 then (lineSet post).updElem g e (fun y => y.writeWin (winNum w.tok) (winOfTok w.tok))
        else (lineSet post).updElem g e (fun y => { y with wrf := true }))) ∧
    (∀ w post, NMap.find r.arcs a = some x → line = w :: post → w.stage = 2 → x.dchan = true → ((s.ctx g p c).chan x.dport).buf.length < 8 →
      s.ev.flag = false → exec .eChannelWordArrival s = .next ((((lineSet post).updCtx g p c (fun y =>
        { y with vc := NMap.set y.vc x.dport { y.chan x.dport with buf := (y.chan x.dport).buf ++ [w.tok] } })).wakeIdle g p c).wakeCtx g p c)) ∧
    (∀ n, NMap.find r.circs a = some x → NMap.get r.pulses a 0 = n + 1 → here x.slot = true →
      (NMap.get el.ctl (4 * x.slot + x.dport) []).length < 255 →
      exec .eControlPulseArrival s = .next ((s.updReg j (fun q => { q with pulses := NMap.set q.pulses a n })).updElem g e (fun y =>
        { y with ctl := NMap.set y.ctl (4 * x.slot + x.dport) (NMap.get y.ctl (4 * x.slot + x.dport) [] ++ [y.arrSeq]), arrSeq := y.arrSeq + 1 }))) ∧
    (∀ k rest role slot, r.sinkQ = (x.dteam, k) :: rest → NMap.find r.sinks x.dteam = some (role, slot) → role = x.delem → here slot = true →
      el.store.length < 128 → exec .eSinkTokenEntry s = .next ((s.updReg j (fun q => { q with sinkQ := rest })).updElem g e (fun y =>
        { y with
          store := y.store ++ [⟨slot, (fieldsOf (NMap.get (NMap.get el.planes el.apl Plane.empty).words slot 0xFFFFFFFF)).a.toNat, k, y.arrSeq⟩]
          arrSeq := y.arrSeq + 1 })))

/-- O46 (tier 2): firings, later emissions, traps and the watchdog (R31, R33, R41, R191, R223, R224, R237, R239, R245). FIRING begins the
element's oldest matched set, and the next step runs its instruction, an `xlt` once the tile's node has an entry free; an armed breakpoint halts the element first. `itgen` emits its
next run and `fin` its oldest word to both destinations. A held trap is taken at the next issue in tenant mode with cause bit
15 set, an address match traps with 0x12, a word that decodes to nothing with its cause; a blocked `done` whose counts have
fallen ends. A region without progress for 2^24 counted cycles is discarded with cause 1, and keeps its tiles while its completion record has no
room in the hub's buffer (R378).
The model's readings here: log entries 4, 25. -/
def Obligations.EmissionAndTrapSteps : Prop :=
  ∀ (s : State) (g e c : Nat), s.ev.g = g → s.ev.e = e → s.ev.c = c →
    let x := s.ctx g e c
    let turn : Prop := s.isTurn g e c = true
    let emitBoth : State → Nat → Nat → Tok → State := fun q d d' k => (q.emitTo g e d k).emitTo g e d' k
    (∀ m, elemOk e = true → s.mayFire g e = true → nextMatch (s.elem g e).allocReord = some m →
      (m.word.toNat / 2 ^ 24 ≠ 0xB5 ∨ s.nodeQueue g < 64) → elemBreak (s.tile g) e (s.elem g e).allocReord m = false →
      exec .eFiring s = .next { s.updElem g e (fun y => y.allocReord.begin m) with begun := some (g, e) }) ∧
    (∀ m, elemOk e = true → s.mayFire g e = true → nextMatch (s.elem g e).allocReord = some m →
      (m.word.toNat / 2 ^ 24 ≠ 0xB5 ∨ s.nodeQueue g < 64) → elemBreak (s.tile g) e (s.elem g e).allocReord m = true →
      exec .eFiring s = .next (s.updElem g e (fun y => { y.allocReord with halt := true }))) ∧
    (∀ q, (s.elem g e).itgen.find? (fun q => q.slot == c) = some q → s.liveAt g = true → s.heldBack g e = false →
      exec .eItgenRunEmit s = .next (emitBoth (s.updElem g e (fun y => { y with itgen := stepRuns c y.itgen })) q.d q.e
        (tagAct q.t q.lit q.tb (Tok.vec q.thread (q.next % 2 ^ 20)
          ((List.range (min q.r (q.n - q.next))).map (fun k => BitVec.ofNat 32 (q.next + k))) [])))) ∧
    (∀ q rest, (s.elem g e).fins = q :: rest → s.liveAt g = true → s.earlierGone g e q.fire = true →
      exec .eFinEmit s = .next (emitBoth (s.updElem g e (fun y => { y with fins := rest })) q.d q.e q.tok)) ∧
    (turn → x.steward = false → ∀ cause v rest, x.held = (cause, v) :: rest → cause < 256 →
      ∃ s' : State, exec .eDeferredTrapTaken s = .next s' ∧ (s'.ctx g e c).held = rest ∧ (s'.ctx g e c).steward = true ∧
        (s'.ctx g e c).tcause = BitVec.ofNat 16 (0x8000 + cause) ∧ (s'.ctx g e c).tval = v ∧ (s'.ctx g e c).tslot = x.pc ∧
        (s'.ctx g e c).pc = x.tvec.setWidth 11) ∧
    (turn → x.held = [] → brkHits (NMap.get (s.tile g).amatch (4 * e + c) 0) x = true →
      ∃ s' : State, exec .eContextBreakpointTrap s = .next s' ∧ (s'.ctx g e c).steward = true ∧ (s'.ctx g e c).tcause = 0x12 ∧
        (s'.ctx g e c).tval = 0 ∧ (s'.ctx g e c).tslot = x.pc ∧ (s'.ctx g e c).pc = x.tvec.setWidth 11 ∧ (s'.ctx g e c).skip = true) ∧
    (turn → s.site = .task g e c → x.held = [] ∨ x.steward = true → (∀ i, decodeWord (s.wordAt g e x) ≠ .ok i) →
      exec .eIllegalInstructionWord s = .next (s.takeTrap g e c
        (BitVec.ofNat 16 (wordCause .task false (s.wordAt g e x) (s.litAt g e x) [])) x.pc ((s.wordAt g e x).setWidth 64) x.rpt)) ∧
    (∀ f, x.status = .blkDone → s.liveAt g = true → x.ld = 0 ∧ x.st = 0 ∧ x.cp = 0 ∧ x.tl = 0 → decodeWord (s.wordAt g e x) = .ok (.iDone f) →
      let s1 := (s.updCtx g e c (fun y => y.unblock (s.acCycles g))).setSite (.task g e c)
      ∃ s' : State, exec .eContextEnd s = .next s' ∧ exec (.iDone f) s1 = .next s') ∧
    (∀ r, NMap.find s.regions s.ev.inst = some r → r.live = true → 2 ^ 24 ≤ r.wdg →
      let waits : Prop := (r.recd.getD 4 0).getLsbD 8 = true ∧ 4096 ≤ s.compBuf.length
      ∃ s' q, exec .eWatchdogExpiry s = .next s' ∧ NMap.find s'.regions s.ev.inst = some q ∧ q.tiles = r.tiles ∧
      (¬ waits → q.st = .gone ∧ q.wires = []) ∧ (waits → q.st = .ending 1 ∧ s'.compBuf = s.compBuf) ∧
      q.errors = (if (NMap.find r.sinks 0).isSome = true then r.errors + 1 else r.errors)) ∧
    (∀ r, NMap.find s.regions s.ev.inst = some r → r.live = true → r.wdg < 2 ^ 24 → exec .eWatchdogExpiry s = .next s)

/-- Part of O47: what a load leaves on the tiles it chose, in the order of the image's teams (R338, R340, R347, R352): the role map, in which a role
whose element is marked bad stands at another good one of its kind and no two stand at one; the planes, stores and scratchpad data of the
image's sections; and vault data in the team's vault. `bad k`: the bad-node word of team `k`'s tile. -/
def Claims.loadedAs (s1 s' : State) (m : Img) (tiles : List Nat) (bad : Nat → Word) : Prop :=
  (∀ k g rm, tiles[k]? = some g → tiles.Nodup → roleMapOf (bad k) (m.roles k) = some rm →
    let t := s'.tile g
    t.roleMap = rm ∧ t.team = k ∧
    (∀ c, c < 32 → m.hasRole k c = true → kindOf (t.phys c) = kindOf c ∧ (bad k).getLsbD (t.phys c) = false ∧
      ((bad k).getLsbD c = false → t.phys c = c) ∧ ∀ d, d < 32 → m.hasRole k d = true → t.phys d = t.phys c → d = c) ∧
    (∀ q c, 4 ≤ c → c < 32 → m.hasRole k c = true → q ∈ m.ofKind 2 → q.team = k → q.role = c →
      (∀ x ∈ m.ofKind 2, x.team = k → x.role = c → x.plane = q.plane → x = q) →
      NMap.find (t.elem (t.phys c)).planes q.plane = some (parsePlane (m.sec q)) ∧ (t.elem (t.phys c)).apl = m.iplane k c) ∧
    (∀ q c n, c < 4 → n < 2048 → m.hasRole k c = true → q ∈ m.ofKind 3 → q.team = k → q.role = c → m.sec q ≠ [] →
      (∀ x ∈ m.ofKind 3, x.team = k → x.role = c → x = q) →
      NMap.get (t.tp (t.phys c)).store n 0xFFFFFFFF = BitVec.ofNat 32 (fieldN (m.sec q) (4 * n) 4) ∧
      NMap.get (t.tp (t.phys c)).lits n 0 = word64 (m.sec q) (8192 + 8 * n)) ∧
    (∀ q n b, q ∈ m.ofKind 6 → q.team = k → (∀ x ∈ m.ofKind 6, x.team = k → x = q) → (m.data q)[n]? = some b →
      Memory.get t.spad (m.side q * 0x40000 + (m.dataRange q).1 + n) = b)) ∧
  (∀ q n b, s1.migs = [] → m.ofKind 9 = [q] → m.relocs = [] → m.barrierList = [] → (m.data q)[n]? = some b →
    s'.readPa (vaultAddr (vaultOfTile (tiles.getD q.team 0)) + (m.dataRange q).1 + n) 1 = b.toNat)

/-- O47 (tier 2): loading and starting a region (R20, R23, R352, R353, R429). A read of the image without a page withholds the load under a fault
id; a refused image ends the job with cause 6 and status 0xFF02; an accepted one is placed on its cheapest candidate, at once or in a second event
that holds the tiles meanwhile, every tile left with its role map, an empty triad engine, a generator of seed and counter 0 and open intake; a
record whose tenant's entry is gone, or that a pre-empted region comes before, is ready again in its stream, before its others, with the
instance number it was given; go starts it once its islands are on: every context takes the
region's frame pointer and steward vector.
The model's readings here: log entries 53, 55. -/
def Obligations.RegionSteps : Prop :=
  ∀ (s s1 : State) (r : Region), NMap.find s.regions s.ev.inst = some r →
    let j := s.ev.inst
    let code := (r.recd.getD 0 0).toNat % 2 ^ 56
    let root := s.loadImage j r.tenant (s.tenantRoot r.tenant) code
    let loads : Img → Nat → QRec → List Nat → Prop := fun m k q tiles => r.st = .popped ∧ r.tender = none ∧ r.qrec = some (k, q) ∧ root = (.ok m, s1) ∧
      s.entryOf r.tenant ≠ none ∧ s.behind q = false ∧ s1.choose r.tenant m (s1.reserved q m) = some tiles ∧ s1.placeFails m tiles = none ∧
      NMap.find s1.regions j = some r
    (∀ va level reason pte id s2, r.st = .popped → root = (.fault va level reason pte, s1) →
      s1.pageFault j r.tenant (s.loadTile r) 0 2 va level reason pte = some (id, s2) →
      exec .eLoaderReadWithheld s = .next (s2.updReg j (fun q => { q with st := .withheld id, held := [(s.nextId, id, s.now)] }))) ∧
    (∀ e, r.st = .popped → r.tender = none → root = (.refused e, s1) → ((r.recd.getD 4 0).getLsbD 8 = true → s1.compBuf.length < 4096) →
      ∃ s' : State, exec .eRegionLoad s = .next s' ∧ NMap.find s'.regions j = none ∧ s'.free = s1.free + 1 ∧
      ((r.recd.getD 4 0).getLsbD 8 = true → ∃ ws, s'.compBuf = s1.compBuf ++ [((r.recd.getD 4 0).toNat % 256, ws, none)] ∧
        (ws.getD 0 0).toNat % 2 ^ 16 = 0xFF02 ∧ (ws.getD 0 0).toNat / 2 ^ 16 % 256 = 6)) ∧
    (∀ m k q tiles, loads m k q tiles → s.ev.flag = false →
      ∃ s' q', exec .eRegionLoad s = .next s' ∧ NMap.find s'.regions j = some q' ∧ q'.st = .loaded ∧ q'.tiles = tiles ∧
        q'.vbase = m.vbase ∧ q'.vsize = m.vsize ∧ Claims.loadedAs s1 s' m tiles (fun k => s1.badWord (tiles.getD k 0)) ∧ ∀ g ∈ tiles, (s'.tile g).inst = some j ∧ (s'.tile g).triad = Triad.reset ∧ (s'.tile g).intake = true ∧ (s'.tile g).rngSeed = 0 ∧ (s'.tile g).rngCtr = 0) ∧
    (∀ m k q tiles, loads m k q tiles → s.ev.flag = true → ∃ s' q', exec .eRegionLoad s = .next s' ∧ NMap.find s'.regions j = some q' ∧
      q'.st = .writing ∧ q'.tiles = tiles ∧ q'.image = m.bs ∧ q'.bads = tiles.map s1.badWord ∧ ∀ g ∈ tiles, (s'.tile g).inst = some j) ∧
    (∀ bs, r.st = .writing → s.readImg r.tenant (s.tenantRoot r.tenant) (r.image.length / 4096 + 3) code r.image.length = (.ok bs, s1) →
      NMap.find s1.regions j = some r → ∃ s' q', exec .eRegionLoad s = .next s' ∧ NMap.find s'.regions j = some q' ∧ q'.st = .loaded ∧ q'.tiles = r.tiles ∧
        Claims.loadedAs s1 s' (imgOf code r.image) r.tiles (fun k => r.bads.getD k 0) ∧ ∀ g ∈ r.tiles, (s'.tile g).inst = some j ∧ (s'.tile g).triad = Triad.reset ∧ (s'.tile g).intake = true) ∧
    (∀ m k q, r.st = .popped → r.tender = none → r.qrec = some (k, q) → root = (.ok m, s1) → s.entryOf r.tenant = none ∨ s.behind q = true →
      ∃ s' : State, exec .eRegionLoad s = .next s' ∧ NMap.find s'.regions j = none ∧ s'.mem = s1.mem ∧
        (s'.stream k).recs = { q with inst := some j } :: (s1.stream k).recs) ∧
    (r.st = .loaded → r.tender = none → s.awake r = true → ∃ s' : State, exec .eGoToken s = .next s' ∧
      NMap.find s'.regions j = some { r with st := .running, goAt := some (s.acCycles (r.tiles.headD 0)), wdg := 0 } ∧
      { s' with tiles := s.tiles, regions := s.regions } = s ∧
      (∀ g ∈ r.tiles, ∀ p c tp x, NMap.find (s.tile g).tps p = some tp → NMap.find tp.ctxs c = some x →
        s'.ctx g p c = { x with fp := r.frame, tvec := s.stewTvec }) ∧
      (∀ g, g ∉ r.tiles → s'.tile g = s.tile g)) ∧
    (r.st = .loaded → s.awake r = false → exec .eGoToken s = .next s)

/-! Accesses at their home, and their completion (R36, R104 to R127, R253, R254, R262 to R265). -/

/-- What part `p` of a plain access stores where it read `old` (R260): an unequal `cas` stores nothing. -/
def Claims.stored (op : ReqOp) (p : Piece) (old : Nat) : Option Nat :=
  match op with
  | .store => some p.val
  | .amo o =>
    let m := 256 ^ p.n
    let a := old % m
    let b := p.val % m
    let sa := if 2 * a < m then (a : Int) else (a : Int) - m
    let sb := if 2 * b < m then (b : Int) else (b : Int) - m
    match o with
    | .add => some ((a + b) % m)
    | .and => some (a &&& b)
    | .or => some (a ||| b)
    | .xor => some (a ^^^ b)
    | .min => some (if sa ≤ sb then a else b)
    | .max => some (if sa ≤ sb then b else a)
    | .swp => some b
    | .cas => if a = p.cmp % m then some b else none
  | _ => none

/-- The bytes of a memory after `n` bytes at `a` were written with a value, or nothing was: every other byte is as before. -/
def Claims.wrote (m m' : Memory) (a n : Nat) : Option Nat → Prop
  | none => ∀ b, Memory.get m' b = Memory.get m b
  | some v => Memory.readN m' a n = v % 256 ^ n ∧ ∀ b, b < a ∨ a + n ≤ b → Memory.get m' b = Memory.get m b

/-- The `n` bytes of a place stand under no key, or under the one that an access's slot holds (R99, R413): the access reads them as they are. -/
def Claims.oneKey (s : State) (a n : Nat) (slot : Option Nat) : Prop :=
  ∀ b k key, a ≤ b → b < a + n → NMap.find s.keyed (b / 16) = some k → s.keyFor a slot = some key → k = key

/-- A request that its home refuses (R104, R253): on an element it is refused, to give its error token in turn; a context in tenant mode, where no
answer is held before it, takes the trap at the instruction. -/
def Claims.refused (s s' : State) (r : Req) (cause : Nat) : Prop :=
  (∀ g e, r.who = .elem g e → ∃ x, s'.req r.id = some x ∧ x.phase = .refused cause r.ea) ∧
  (∀ g n c, r.who = .ctx g n c → s.prompt r = true → (s.ctx g n c).steward = false → (s'.ctx g n c).steward = true ∧
    (s'.ctx g n c).tcause = BitVec.ofNat 16 cause ∧ (s'.ctx g n c).tslot = BitVec.ofNat 11 r.slot ∧
    (s'.ctx g n c).pc = (s.ctx g n c).tvec.setWidth 11 ∧ (s'.ctx g n c).s = (s.ctx g n c).s)

/-- Part of O48: what another agent sees of a posted write (R117, R118, R121): its own agent reads it at once, another may still read the older
value of an RC page and then not the older one again, of a UN page reads it; once the writer has released it at a scope that holds the
reader, the reader gets it; a write that is the flag of a UN hand-over is seen by the agents its fence's scope holds, and by no other (R121, R130). -/
def Claims.PartVisibility : Prop :=
  ∀ (s : State) (inst slot pa n v sc k : Nat) (w b : Agent) (un : Bool), s.stale = [] → 1 ≤ n → redirect s.migs pa % 8 + n ≤ 8 →
    redirect s.migs pa < 2 ^ 44 → s.barObject (redirect s.migs pa) = false → b ≠ w →
    let a := redirect s.migs pa
    let t := s.postWrite inst slot w un none pa n v
    let old := Memory.readN s.mem a n
    let new := v % 256 ^ n
    (t.readAs w a n k false).1 = new ∧
    (un = false → (t.readAs b a n 0 false).1 = new ∧ (t.readAs b a n 1 false).1 = old ∧ ((t.readAs b a n 0 false).2.readAs b a n 1 false).1 = new) ∧
    (un = true → (t.readAs b a n k false).1 = old) ∧
    (∀ fs, let f := s.postWrite inst slot w true (some fs) pa n v
      (f.readAs b a n 0 false).1 = if inScopeOf fs (w.tile.getD 0) b = true then new else old) ∧
    (inScopeOf sc (w.tile.getD 0) b = true → ((t.releaseAt w (fun e => e.who == w) sc []).readAs b a n k false).1 = new)

/-- O48 (tier 2): the next part of a load, store or atomic is performed (R116, R126, R260) where the order of R120 to R125 lets it: its
bytes are read or written, and no other byte of memory or of a scratchpad changes; the part keeps what it read, and with its
last part the request is performed. What it read is the bytes of memory where no write of their location is still to be seen by an agent, and else
one of those its agent may still see (the second part). No team waits at a barrier in the 16 bytes written (R115); of a barrier object a
write leaves gen, arr and pend (R113). Under another key than the bytes', a part reads them as that key's (R99, R413), and no byte outside the
16-byte units it touches changes.
The model's readings here: log entries 11, 12, 13, 23. -/
def Obligations.AccessPerformed : Prop :=
  Claims.PartVisibility ∧
  ∀ (s : State) (r : Req) (q : Region) (k : Nat) (p : Piece), s.req s.ev.id = some r → NMap.find s.regions r.inst = some q → q.live = true →
    r.phase = .wait → r.op.plain = true → r.counted = true → r.nextPiece s.ev.e = some (k, p) → 1 ≤ p.n → p.n ≤ 16 →
    s.mayPerform r p = true → (r.op = .store ∨ s.partBad p = false) →
    (∀ a, p.place = .phys a → ∀ x ∈ (s.vault (homeOf (a / 16 * 16))).parties, x.pa ≠ a / 16 * 16) →
    let old := (s.loadPiece r p (if r.op = .load then s.ev.x else 0)).1
    let ps := r.pieces.set k { p with done := true, got := if r.op = .store then 0 else old }
    let all := ps.all (fun x => x.done)
    ∃ s' : State, exec .eAccessAtHome s = .next s' ∧
      s'.req r.id = some { r with pieces := ps, phase := if all = true then .done else r.phase, res := if all = true then 0 else r.res } ∧
      (∀ a, p.place = .phys a → let same : Prop := Claims.oneKey s (redirect s.migs a) p.n p.key
        (same → s.barObject (redirect s.migs a) = false → Claims.wrote s.mem s'.mem (redirect s.migs a) p.n (Claims.stored r.op p old)) ∧
        (same → ∀ b, b < redirect s.migs a ∨ redirect s.migs a + p.n ≤ b → Memory.get s'.mem b = Memory.get s.mem b) ∧
        (∀ b, b / 16 < redirect s.migs a / 16 ∨ (redirect s.migs a + p.n - 1) / 16 < b / 16 → Memory.get s'.mem b = Memory.get s.mem b) ∧
        (s.barObject (redirect s.migs a) = true → redirect s.migs a % 16 + p.n ≤ 16 →
          ∀ b, 2 ≤ b % 16 ∧ b % 16 < 5 ∨ 8 ≤ b % 16 ∧ b % 16 < 13 → Memory.get s'.mem b = Memory.get s.mem b) ∧
        ((∀ e ∈ s.stale, ∀ b ∈ e.bytes, b.1 / 8 ≠ redirect s.migs a / 8) → old = s.readUnder (redirect s.migs a) p.n p.key ∧
          (same → old = Memory.readN s.mem (redirect s.migs a) p.n)) ∧
        ∀ g, (s'.tile g).spad = (s.tile g).spad) ∧
      (∀ g o, p.place = .spad g o → old = Memory.readN (s.tile g).spad o p.n ∧
        Claims.wrote (s.tile g).spad (s'.tile g).spad o p.n (Claims.stored r.op p old) ∧ s'.mem = s.mem ∧
        ∀ h, h ≠ g → (s'.tile h).spad = (s.tile h).spad)

/-- O49 (tier 2): an access completes (R36, R120, R253, R254). In a context its words go to consecutive registers from its
destination and its class's count falls by one; on an element its token leaves on both destinations: the
loaded value or lanes with the firing's tag, the old value of an atomic, a zero for a store, an error token for a refused one.
Memory keeps every byte. A context whose refusal its home held takes its trap in the turn of that answer (R407).
The model's readings here: log entry 28. -/
def Obligations.AccessCompletes : Prop :=
  (∀ (s : State) (r : Req) (q : Region) (g p c cause off : Nat), s.req s.ev.id = some r → NMap.find s.regions r.inst = some q → q.live = true →
    s.heldAnswer r.id = true → s.inTurn r = true → r.who = .ctx g p c → r.phase = .refused cause off → (s.ctx g p c).steward = false →
    ∃ s' : State, exec .eAccessCompletion s = .next s' ∧ s'.mem = s.mem ∧ (s'.ctx g p c).steward = true ∧
      (s'.ctx g p c).tcause = BitVec.ofNat 16 cause ∧ (s'.ctx g p c).tslot = BitVec.ofNat 11 r.slot ∧
      (s'.ctx g p c).pc = (s.ctx g p c).tvec.setWidth 11) ∧
  ∀ (s : State) (r : Req) (q : Region), s.req s.ev.id = some r → NMap.find s.regions r.inst = some q → q.live = true → s.mayComplete r = true →
    (∀ g p c cause off, r.who = .ctx g p c → r.phase ≠ .refused cause off) →
    ∃ s' : State, exec .eAccessCompletion s = .next s' ∧ s'.mem = s.mem ∧
      (∀ g p c, r.who = .ctx g p c → (∀ k, r.op ≠ .emit k) → r.dup = false → (r.d < 24 ∧ r.d + r.words.length ≤ 24 ∨ r.d = 28) →
        (∀ j, j < 24 → (s'.ctx g p c).s[j]? = if r.d < 24 ∧ r.d ≤ j ∧ j < r.d + r.words.length then r.words[j - r.d]? else (s.ctx g p c).s[j]?) ∧
        (s'.ctx g p c).count r.cls = (s.ctx g p c).count r.cls - 1 ∧ (s'.ctx g p c).pc = (s.ctx g p c).pc) ∧
      (∀ g e k, r.who = .elem g e → r.performed = true →
        (r.phase = .done → r.op = .load → r.vec = false → r.width = 0 → k = Tok.scalar r.thread r.iter (BitVec.ofNat 64 (laneGot r.pieces 0))) →
        (r.phase = .done → r.op = .load → r.vec = true → r.width = 0 → k = Tok.vec r.thread r.iter
          ((List.range r.n).map (fun j => BitVec.ofNat 32 (laneGot r.pieces j))) r.idx) →
        (r.phase = .done → (∃ o, r.op = .amo o) → k = Tok.scalar r.thread r.iter (BitVec.ofNat 64 (laneGot r.pieces 0))) →
        (r.phase = .done → r.op = .store → k = Tok.scalar r.thread r.iter 0) →
        (∀ cause off, r.phase = .refused cause off →
          k = Tok.error r.thread r.iter (r.n - 1) (errPayload cause g ((s.tile g).role e) off)) → r.op ≠ .fence →
        (r.op = .load ∧ r.width = 0 ∨ r.op = .store ∨ (∃ o, r.op = .amo o) ∨ (∃ cause off, r.phase = .refused cause off)) →
        s' = ((s.unanswer r.id).dropReq r.id).emitOuts g e
          ⟨0, 0, BitVec.ofNat 5 r.d, BitVec.ofNat 5 r.e, BitVec.ofNat 4 r.t⟩ r.dup r.lit r.tb [.a k])

/-- O50 (tier 2): a structure operation at its word's home (R106, R107, R108). `srd` of a full word gives it, else defers the reader: a pool
record, the word deferred and naming its first and last reader, no answer yet, and no progress for the watchdog (R41, R328); with no record free it
is refused with 0x2A. `swr` of an empty word fills it, and of a deferred word fills it and answers every listed reader with the value, in list order;
of a full word it is refused with 0x28. `sclr` empties a full word and is refused with 0x29 where readers wait; `sprb`
gives the state and a full word's value. A context in tenant mode traps at the instruction with the refusal's cause.
The model's readings here: log entries 22, 31. -/
def Obligations.StructureAtHome : Prop :=
  ∀ (s : State) (r : Req) (q : Region) (p : Piece) (a : Nat), s.req s.ev.id = some r → NMap.find s.regions r.inst = some q → q.live = true →
    r.pieces = [p] → p.place = .phys a → s.mayPerform r p = true → r.counted = true → s.ev.flag = false → s.badBlock (.phys a) = false →
    let pa := redirect s.migs a
    let v := homeOf pa
    let st := s.presence pa
    let val := s.readUnder pa 8 p.key
    let same : Prop := Claims.oneKey s pa 8 p.key
    let waiting := (s.vault v).pool.filter (fun x => x.pa == pa)
    st ≠ 3 → (st = 2 → s.deferredOk v pa p.key = true) → (r.op = .srd ∨ r.op = .swr ∨ r.op = .sclr ∨ r.op = .sprb) →
    let plain : Prop := (∃ g e, r.who = .elem g e) ∨ ∃ g n c, r.who = .ctx g n c ∧ (s.ctx g n c).steward = false
    let finished : State → Nat → Prop := fun s' res => ∃ x, s'.req r.id = some x ∧ x.phase = .done ∧ x.res = BitVec.ofNat 64 res
    ∃ s' : State, exec .eStructOpAtHome s = .next s' ∧ (same → val = Memory.readN s.mem pa 8) ∧
      (r.op = .srd → st = 1 → finished s' val ∧ (∀ x, s'.req r.id = some x → ∃ y, x.pieces = [y] ∧ y.got = val) ∧
        s'.mem = s.mem ∧ s'.blockWord = s.blockWord) ∧
      (∀ k, r.op = .srd → st ≠ 1 → (s.vault v).freeRec = some k → s'.presence pa = 2 ∧
        (s'.vault v).pool = (s.vault v).pool ++ [⟨k, r.inst, pa, r.id⟩] ∧ (∃ x, s'.req r.id = some x ∧ x.phase = .accepted) ∧ s'.regions = s.regions ∧
        s'.readUnder pa 8 p.key = ((waiting.map (·.idx)).headD k + 2 ^ 16 * k) % 2 ^ 64 ∧
        (same → ∀ b, b < pa ∨ pa + 8 ≤ b → Memory.get s'.mem b = Memory.get s.mem b)) ∧
      (r.op = .srd → st ≠ 1 → (s.vault v).freeRec = none → plain → s'.mem = s.mem ∧ s'.blockWord = s.blockWord ∧ Claims.refused s s' r 0x2A) ∧
      (r.op = .swr → st ≠ 1 → s.barObject pa = false → (∀ x ∈ (s.vault (homeOf (pa / 16 * 16))).parties, x.pa ≠ pa / 16 * 16) →
        s'.presence pa = 1 ∧ (same → Claims.wrote s.mem s'.mem pa 8 (some p.val)) ∧ finished s' 0 ∧
        (st = 2 → (s'.vault v).pool = (s.vault v).pool.filter (fun x => x.pa != pa) ∧
          (∀ rd ∈ waiting, ∀ x, s.req rd.req = some x → rd.req ≠ r.id → x.counted = true →
            ∃ y, s'.req rd.req = some y ∧ y.phase = .done ∧ y.res = BitVec.ofNat 64 p.val) ∧
          ((∀ rd ∈ waiting, rd.req ≠ r.id ∧ ∃ x, s.req rd.req = some x ∧ s.reqLive x = false ∧ x.home = v) →
            ∃ l, (s'.vault v).answers = (s.vault v).answers ++ waiting.map (fun rd => (rd.req, 0)) ++ l))) ∧
      (r.op = .swr → st = 1 → plain → s'.mem = s.mem ∧ s'.blockWord = s.blockWord ∧ Claims.refused s s' r 0x28) ∧
      (r.op = .sclr → st ≠ 2 → s'.presence pa = 0 ∧ s'.mem = s.mem ∧ finished s' 0) ∧
      (r.op = .sclr → st = 2 → plain → s'.mem = s.mem ∧ s'.blockWord = s.blockWord ∧ Claims.refused s s' r 0x29) ∧
      (r.op = .sprb → finished s' st ∧ (∀ x, s'.req r.id = some x → ∃ y, x.pieces = [y] ∧ y.got = if st = 1 then val else 0) ∧
        s'.mem = s.mem ∧ s'.blockWord = s.blockWord)

/-- O51 (tier 2): combines and barriers at their home (R109, R110, R114, R115). A combine with no entry at its address opens one, or waits in
the queue while 4,096 are open; one of the entry's kind merges and is done; the waiting one is admitted in turn. A NaN counts as the canonical NaN (R109). A `bar` adds one
to the arrivals and its bytes to the pending ones, and waits; one that arrives at a full barrier, or at one that expects nobody,
sets err and is refused with 0x2E. The last contribution of an entry frees it, and writes the result, merged or in place of what stood there, or
sends it to where the first one asked (R110), `cmb.f` summing in rank order (R111); one of another kind is refused with 0x2B, a rank met before with
0x2C, a rank past the count with 0x2D. The last party of a barrier with no pending bytes ends its generation: the arrivals are 0, the generation one
more, and every party is answered with the old one (R114).
The model's readings here: log entry 23. -/
def Obligations.CombinesAndBarriersAtHome : Prop :=
  ∀ (s : State) (r : Req) (q : Region) (p : Piece) (ps : List Piece) (a : Nat), s.req s.ev.id = some r → NMap.find s.regions r.inst = some q →
    q.live = true → r.pieces = p :: ps → p.place = .phys a → s.mayPerform r p = true → s.ev.flag = false → s.badBlock (.phys a) = false → r.counted = true →
    let pa := redirect s.migs a
    let v := homeOf pa
    let V := s.vault v
    let vals : Word → List Nat := fun cc => r.pieces.map (fun x => if bitsOf cc 6 4 = 4 then
      (match val32 (BitVec.ofNat 32 x.val) with | .nan => 0x7FC00000 | _ => x.val) else x.val)
    let at' := r.pieces.map (fun x => redirect s.migs x.place.addr)
    let lanes := if r.vec = true then r.pieces.length else 0
    let ent := V.cmbs.find? (fun k => k.inst == r.inst && k.place == pa)
    let plain : Prop := (∃ g e, r.who = .elem g e) ∨ ∃ g n c, r.who = .ctx g n c ∧ (s.ctx g n c).steward = false
    (∀ fixed cc k, r.op = .cmb fixed cc → V.cmbQ = [] → ent = some k → plain → ccKey k.cc ≠ ccKey cc ∨ k.lanes ≠ lanes ∨ k.fixed ≠ fixed →
      ∃ s' : State, exec .eCombineContribution s = .next s' ∧ s'.mem = s.mem ∧ (s'.vault v).cmbs = V.cmbs ∧ Claims.refused s s' r 0x2B) ∧
    (∀ cc, r.op = .cmb true cc → V.cmbQ = [] → plain → bitsOf cc 23 8 ≤ bitsOf cc 31 28 →
      (∀ k, ent = some k → ccKey k.cc = ccKey cc ∧ k.lanes = lanes ∧ k.fixed = true) →
      ∃ s' : State, exec .eCombineContribution s = .next s' ∧ s'.mem = s.mem ∧ (s'.vault v).cmbs = V.cmbs ∧ Claims.refused s s' r 0x2D) ∧
    (∀ cc k l, r.op = .cmb true cc → V.cmbQ = [] → plain → bitsOf cc 31 28 < bitsOf cc 23 8 → ent = some k → ccKey k.cc = ccKey cc → k.lanes = lanes →
      k.fixed = true → NMap.find k.ranks (bitsOf cc 31 28) = some l →
      ∃ s' : State, exec .eCombineContribution s = .next s' ∧ s'.mem = s.mem ∧ (s'.vault v).cmbs = V.cmbs ∧ Claims.refused s s' r 0x2C) ∧
    (∀ fixed cc k nv, r.op = .cmb fixed cc → V.cmbQ = [] → ent = some k → k.fixed = fixed → ccKey k.cc = ccKey cc → k.lanes = lanes →
      k.seen + 1 = bitsOf cc 23 8 → (fixed = false → nv = k.vals.zipWith (combine (bitsOf cc 3 0) (bitsOf cc 6 4)) (vals cc)) →
      (fixed = true → bitsOf cc 31 28 < bitsOf cc 23 8 ∧ NMap.find k.ranks (bitsOf cc 31 28) = none ∧
        ∃ L : Nat → List Nat, NMap.set k.ranks (bitsOf cc 31 28) (vals cc) = (List.range (bitsOf cc 23 8)).map (fun i => (i, L i)) ∧
          nv = (List.range (bitsOf cc 23 8 - 1)).foldl (fun acc i => acc.zipWith (combine 0 4) (L (i + 1))) (L 0)) →
      let n := if bitsOf cc 6 4 = 2 ∨ bitsOf cc 6 4 = 3 then 8 else 4
      ∃ s' : State, exec .eCombineContribution s = .next s' ∧
        (s'.vault v).cmbs = V.cmbs.filter (fun x => !(x.inst == r.inst && x.place == pa)) ∧ (∃ x, s'.req r.id = some x ∧ x.phase = .done) ∧
        (bitOf cc 24 = false → s'.mem = s.mem) ∧
        (bitOf cc 24 = true →
          (∀ b ∈ k.lanesAt, Claims.oneKey s b n k.key ∧ s.barObject b = false ∧ ∀ x ∈ (s.vault (homeOf (b / 16 * 16))).parties, x.pa ≠ b / 16 * 16) →
          k.lanesAt.Pairwise (fun b c => b + n ≤ c ∨ c + n ≤ b) → ∀ (j b x : Nat), k.lanesAt[j]? = some b → nv[j]? = some x →
          Memory.readN s'.mem b n = (if bitOf cc 25 = true then x else combine (bitsOf cc 3 0) (bitsOf cc 6 4) (Memory.readN s.mem b n) x) % 256 ^ n) ∧
        (∀ d, k.dest = some d → ∃ x ∈ s'.reqs, x.op = .emit (if lanes = 0 then Tok.scalar d.thread d.iter (BitVec.ofNat 64 (nv.headD 0))
            else Tok.vec d.thread d.iter (nv.map (BitVec.ofNat 32)) []) ∧
          x.phase = .done ∧ x.counted = true ∧ x.who = d.who ∧ x.inst = d.inst ∧ x.d = d.d ∧ x.e = d.e)) ∧
    (∀ cc, r.op = .cmb false cc → V.cmbQ = [] → V.cmbs.length < 4096 → ent = none → bitsOf cc 23 8 ≠ 1 → bitOf cc 26 = false →
      ∃ s' : State, exec .eCombineContribution s = .next s' ∧ s'.mem = s.mem ∧
        (s'.vault v).cmbs = V.cmbs ++ [{ inst := r.inst, place := pa, lanesAt := at', fixed := false, cc := cc, lanes := lanes, seen := 1, vals := vals cc, ranks := [], dest := none, key := p.key }] ∧ ∃ x, s'.req r.id = some x ∧ x.phase = .done) ∧
    (∀ cc k, r.op = .cmb false cc → V.cmbQ = [] → ent = some k → k.fixed = false → ccKey k.cc = ccKey cc → k.lanes = lanes →
      k.seen + 1 ≠ bitsOf cc 23 8 → ∃ s' : State, exec .eCombineContribution s = .next s' ∧ s'.mem = s.mem ∧
        (s'.vault v).cmbs.find? (fun k => k.inst == r.inst && k.place == pa) =
          some { k with seen := k.seen + 1, vals := k.vals.zipWith (combine (bitsOf cc 3 0) (bitsOf cc 6 4)) (vals cc) } ∧
        ∃ x, s'.req r.id = some x ∧ x.phase = .done) ∧
    (∀ cc, r.op = .cmb false cc → V.cmbQ = [] → 4096 ≤ V.cmbs.length → ent = none →
      ∃ s' : State, exec .eCombineContribution s = .next s' ∧ s'.mem = s.mem ∧ (s'.vault v).cmbs = V.cmbs ∧ (s'.vault v).cmbQ = [r.id]) ∧
    (∀ cc rest, r.op = .cmb false cc → s.ev.e = v → V.cmbQ = r.id :: rest → V.cmbs.length < 4096 → ent = none → bitsOf cc 23 8 ≠ 1 → bitOf cc 26 = false →
      ∃ s' : State, exec .eCombineQueueAdmit s = .next s' ∧ s'.mem = s.mem ∧ (s'.vault v).cmbQ = rest ∧
        (s'.vault v).cmbs = V.cmbs ++ [{ inst := r.inst, place := pa, lanesAt := at', fixed := false, cc := cc, lanes := lanes, seen := 1, vals := vals cc, ranks := [], dest := none, key := p.key }]) ∧
    (∀ n w0 w1 exp arr, r.op = .bar n → 0x10000000000 ≤ a % 2 ^ 44 → pa = a → w0 = s.readPa a 8 → w1 = s.readPa (a + 8) 8 → redirect s.migs (a + 8) = a + 8 →
      exp = w0 % 65536 → arr = w0 / 65536 % 65536 →
      (exp ≠ 0 → arr + 1 < exp → -(2 ^ 39 : Int) ≤ sgn 40 w1 + n → sgn 40 w1 + n < (2 ^ 39 : Int) → ∃ s' : State, exec .eBarrierArrival s = .next s' ∧
        Memory.readN s'.mem a 8 = w0 + 65536 ∧ sgn 40 (Memory.readN s'.mem (a + 8) 8) = sgn 40 w1 + n ∧
        (∀ b, b < a ∨ a + 16 ≤ b → Memory.get s'.mem b = Memory.get s.mem b) ∧
        (s'.vault v).parties = V.parties ++ [⟨a, w0 / 2 ^ 32 % 256, r.id⟩] ∧ ∃ x, s'.req r.id = some x ∧ x.phase = .accepted) ∧
      (arr + 1 = exp → w0 / 2 ^ 40 % 2 = 0 → sgn 40 w1 + n = 0 → ∃ s' : State, exec .eBarrierArrival s = .next s' ∧
        let gen := w0 / 2 ^ 32 % 256
        Memory.readN s'.mem a 8 = w0 / 2 ^ 40 * 2 ^ 40 + (gen + 1) % 256 * 2 ^ 32 + exp ∧ Memory.readN s'.mem (a + 8) 8 = w1 / 2 ^ 40 * 2 ^ 40 ∧
        (∀ b, b < a ∨ a + 16 ≤ b → Memory.get s'.mem b = Memory.get s.mem b) ∧
        (s'.vault v).parties = V.parties.filter (fun y => y.pa != a || y.gen != gen) ∧
        (∃ x, s'.req r.id = some x ∧ x.phase = .done ∧ x.res = BitVec.ofNat 64 gen) ∧
        ∀ y ∈ V.parties, y.pa = a → y.gen = gen → ∀ x, s.req y.req = some x → x.counted = true →
          ∃ z, s'.req y.req = some z ∧ z.phase = .done ∧ z.res = BitVec.ofNat 64 gen) ∧
      (exp = 0 ∨ arr = exp → (∃ g e, r.who = .elem g e) → ∃ s' : State, exec .eBarrierArrival s = .next s' ∧
        Memory.readN s'.mem a 8 = (if w0 / 2 ^ 40 % 2 = 1 then w0 else w0 + 2 ^ 40) ∧ Memory.readN s'.mem (a + 8) 8 = w1 ∧
        ∃ x, s'.req r.id = some x ∧ x.phase = .refused 0x2E r.ea))

/-! Units: copies, sketches, holdings, shuffles, route, sorter, generator, plane fills (R112, R136 to R153, R160, R161, R266 to R270, R291 to R305). -/

/-- Part of O52: coding (R149). An entry whose contributors are all reachable and sound is one packet to each vault that receives, its data the
exclusive or of the blocks and its block words each contributor's; one with a contributor that is out of reach goes as uncoded
transfers. Memory is as before. -/
def Claims.PartCoding : Prop :=
  ∀ (s : State) (r : Req) (e : PEnt), e.cons ≠ [] → s.ev.arc ≠ 6 →
    let s' := s.sendEntry r e
    let unit : Nat → Nat → Nat := fun src k => redirect s.migs (src + 64 * k)
    let takes : Nat → Prop := fun v => ∃ x ∈ e.rcvs, x.at = v
    let kept : Packet → Nat → Prop := fun pk v => pk.req = r.id ∧ pk.blen = e.blen ∧ pk.ids = e.cons.map (·.1) ∧ pk.srcs = e.cons.map (·.2.1) ∧
      pk.fbs = e.cons.map (·.2.2) ∧ pk.rcvs = e.rcvs.filter (fun x => x.at == v)
    (s.bad = [] → (∀ c ∈ e.cons, ∀ k, k < e.blen → s.reachable (unit c.2.1 k) = true) → s'.mem = s.mem ∧ ∀ v, (s'.vault v).packets = (s.vault v).packets ∧
      (¬ takes v → (s'.vault v).heldPk = (s.vault v).heldPk) ∧
      (takes v → ∃ pk, (s'.vault v).heldPk = (s.vault v).heldPk ++ [pk] ∧ kept pk v ∧ pk.uncoded = false ∧ pk.data.length = 64 * e.blen ∧
        (∀ i b, pk.data[i]? = some b → b = e.cons.foldl (fun x c => x ^^^ Memory.get s.mem (redirect s.migs (c.2.1 + i))) 0) ∧
        pk.bws = e.cons.map (fun c => (List.range e.blen).map (fun k => s.metaPa (c.2.1 + 64 * k))))) ∧
    (∀ c k, c ∈ e.cons → k < e.blen → s.reachable (unit c.2.1 k) = false → ∀ v,
      (¬ takes v → (s'.vault v).packets = (s.vault v).packets) ∧
      (takes v → ∃ pk, (s'.vault v).packets = (s.vault v).packets ++ [pk] ∧ kept pk v ∧ pk.uncoded = true))

/-- Part of O52: decoding (R151, R152). A receiver of this chip whose held blocks are all there gets the packet's data with them taken off again, and
the block words of the contributor it wants; where one is not held, or no packet was formed, it gets the fallback source's bytes, or the
contributor's own. The vault counts which. No byte outside the block changes. -/
def Claims.PartDecoding : Prop :=
  ∀ (s : State) (r : Req) (pk : Packet) (v : Rcv) (g p c : Nat), r.who = .ctx g p c → s.migs = [] → s.bad = [] → s.ev.arc ≠ 6 → v.chip = 0 →
    v.dst % 64 = 0 → (∀ k, k < pk.blen → s.reachable (v.pa + 64 * k) = true) →
    (∀ i, i < 64 * pk.blen → s.barObject (v.pa + i) = false ∧ ∀ x ∈ (s.vault (homeOf ((v.pa + i) / 16 * 16))).parties, x.pa ≠ (v.pa + i) / 16 * 16) →
    let s' := s.serveRcv r pk v
    let canceled := (List.range pk.ids.length).filter (fun k => v.cancel.testBit k)
    let held : Nat → List Holding := fun k => (s.vault v.at).holds.filter (fun x => x.id == pk.ids.getD k 0 && x.len == pk.blen)
    let src := if pk.fbs.getD v.want 0 = 0 then pk.srcs.getD v.want 0 else pk.fbs.getD v.want 0
    let lands : (Nat → Byte) → (Nat → Nat) → Prop := fun f w =>
      (∀ i, i < 64 * pk.blen → Memory.get s'.mem (v.pa + i) = f i) ∧ (∀ k, k < pk.blen → s'.metaPa (v.pa + 64 * k) = w k) ∧
      ∀ b, b < v.pa ∨ v.pa + 64 * pk.blen ≤ b → Memory.get s'.mem b = Memory.get s.mem b
    let counts : Nat → Nat → Prop := fun k n => NMap.get (s'.vault v.at).cnt k 0 = NMap.get (s.vault v.at).cnt k 0 + BitVec.ofNat 64 n
    (pk.uncoded = false → pk.data.length = 64 * pk.blen → (pk.bws.getD v.want []).length = pk.blen → (∀ k ∈ canceled, held k ≠ []) →
      lands (fun i => canceled.foldl (fun b k => b ^^^ Memory.get s.mem (((held k).map (·.pa)).headD 0 + i)) (pk.data.getD i 0))
        (fun k => (pk.bws.getD v.want []).getD k 0) ∧ counts 1 1 ∧ counts 0 0 ∧ counts 2 0) ∧
    ((∀ k, k < pk.blen → s.reachable (src + 64 * k) = true) → (pk.uncoded = true ∨ ∃ k ∈ canceled, held k = []) →
      lands (fun i => Memory.get s.mem (src + i)) (fun k => s.metaPa (src + 64 * k)) ∧ counts 2 1 ∧ counts 1 0 ∧
        counts 0 (if pk.uncoded = true then 0 else 1))

/-- O52 (tier 2): copies, plane fills and shuffles (R112, R151, R153, R267 to R270, R192). A copy's next source bytes, up to the end of an
8-byte word, wait in the Porter, as its agent sees them under the key of their page; of `cpg` they are those of the pool block that the table's entry
for the logical block names, and a block without a valid entry is passed over; the next fetched bytes land in memory or in a scratchpad, of `cps` those
of its pattern, and no other byte of memory changes (with no barrier of its own, and no team
waiting at one in those bytes); once all have landed, or it has failed, the context's count and the tag's fall, and at zero the done bit
is set; so for a shuffle once its entries are coded and no packet is left. A vault decodes its oldest packet, and admits a held
one while its buffer has room. A fill whose image is legal writes its plane, which is ready.
The model's readings here: log entries 47, 61, 69. -/
def Obligations.CopyAndShuffleSteps : Prop :=
  Claims.PartCoding ∧ Claims.PartDecoding ∧
  ∀ (s s1 : State) (r : Req) (q : Region) (g p x : Nat), s.req s.ev.id = some r → NMap.find s.regions r.inst = some q → q.live = true →
    r.who = .ctx g p x →
    let landed : State → Nat → Prop := fun s' tag =>
      let n := NMap.get (s.tp g p).tags tag 0
      s'.req r.id = none ∧ (s'.ctx g p x).cp = (s.ctx g p x).cp - 1 ∧ NMap.get (s'.tp g p).tags tag 0 = n - 1 ∧ s'.mem = s.mem ∧
      (s'.tp g p).cpdone = (if n ≤ 1 then (s.tp g p).cpdone ||| BitVec.ofNat 64 (2 ^ tag) else (s.tp g p).cpdone)
    (∀ (c : Copy) (pl : Place) (kind v b base i : Nat) (key : Option Nat) (s0 s2 : State), r.op = .copy c → c.bad = false → s.ev.e = 1 →
      r.withheld = none → c.stuck = false → c.mode ≠ 3 → 0 < c.len → (c.mode = 2 → c.map = some (b, base, i)) →
      c.fetch = c.pos + c.got.length → c.fetch < c.total → c.got.length < 4096 →
      let row := c.fetch / c.len
      let k := c.fetch % c.len
      let src : End × Int := if c.mode = 2 then (c.pool, ((b * 16 * c.len + row % 16 * c.len + k : Nat) : Int)) else (c.src, (row : Int) * c.sstr + (k : Int))
      let n := min (8 - (winBase c.wins src.1.space + ((src.1.off : Int) + src.2).toNat) % 8) (c.len - k)
      s.dstWaits r g c n = (none, s0) → s0.reachEnd r g c src.1 src.2 n false = (.at pl kind key, s1) → s1.badBlock pl = false →
      s1.agentRead (.porter g) pl key n s1.ev.c = (v, s2) →
      let c' : Copy := { c with
        got := c.got ++ (bytesOfNat n v).zipIdx.map (fun b => (b.1, pl.off b.2, s2.blockWordAt pl))
        fetch := c.fetch + n
        map := if c.mode = 2 ∧ (c.fetch + n) % (16 * c.len) = 0 then none else c.map }
      exec .ePorterBeatLanding s = .next ((s2.updReq r.id (fun y => { y with op := .copy c' })).unheld r)) ∧
    (∀ (c : Copy) (pl : Place) (kind v : Nat) (s2 : State), r.op = .copy c → c.bad = false → s.ev.e = 1 → r.withheld = none → c.mode = 2 → 0 < c.len →
      c.map = none → c.got = [] → c.fetch = c.pos → c.fetch < c.total → c.fetch % (16 * c.len) = 0 →
      let i := c.first + c.fetch / (16 * c.len)
      s.endPlace c c.table ((4 * i : Nat) : Int) 4 false = .ok (pl, kind) → (∀ a, pl ≠ .virt a) → (∀ x ∈ (s.tile g).bmc, x.1 ≠ pl.addr - 4 * i ∨ x.2.1 ≠ i) →
      s.badBlock pl = false → s.agentRead (.porter g) pl (winKey c.wins c.table.space) 4 s.ev.c = (v, s2) →
      ∃ s' : State, exec .ePorterBeatLanding s = .next s' ∧ s'.mem = s.mem ∧
        (v / 2 ^ 31 % 2 = 1 → s2.poolFail c (v % 2 ^ 31) = none →
          s'.req r.id = some { r with op := .copy { c with map := some (v % 2 ^ 31, pl.addr - 4 * i, i) } } ∧
          (s'.tile g).bmc = ((pl.addr - 4 * i, i, v % 2 ^ 31) :: (s.tile g).bmc).take 256) ∧
        (v / 2 ^ 31 % 2 = 0 → s'.req r.id = some { r with op := .copy { c with pos := c.pos + 16 * c.len, fetch := c.fetch + 16 * c.len } } ∧
          (s'.tile g).bmc = (s.tile g).bmc)) ∧
    (∀ (c : Copy) (a kind : Nat) (key : Option Nat), r.op = .copy c → c.bad = false → s.ev.e ≠ 1 ∧ s.ev.e ≠ 2 → (r.withheld = none ∨ c.stuck = false) → c.bv = false →
      c.pos < c.total → 0 < c.len →
      let off : Int := ((c.pos / c.len : Nat) : Int) * c.dstr + ((c.pos % c.len : Nat) : Int)
      let n := min (8 - (winBase c.wins c.dst.space + ((c.dst.off : Int) + off).toNat) % 8) (c.len - c.pos % c.len)
      let bytes := if c.mode = 3 then (List.range n).map (fun j => BitVec.ofNat 8 (c.aux.toNat / 256 ^ ((c.pos % c.len + j) % 8))) else (c.got.take n).map (·.1)
      (c.mode = 3 ∨ n ≤ c.got.length) → s.reachEnd r g c c.dst off n true = (.at (.phys a) kind key, s1) →
      s1.barObject (redirect s1.migs a) = false →
      (∀ y ∈ (s1.vault (homeOf (a / 16 * 16))).parties, y.pa ≠ a / 16 * 16) → ∃ (s' : State) (c' : Copy) (y : Req), exec .ePorterBeatLanding s = .next s' ∧
        Memory.readBytes s'.mem (redirect s1.migs a) n = bytes ∧
        (Claims.oneKey s1 (redirect s1.migs a) n key → ∀ b, b < redirect s1.migs a ∨ redirect s1.migs a + n ≤ b → Memory.get s'.mem b = Memory.get s1.mem b) ∧
        s1.req r.id = some y ∧ s'.req r.id = some { y with op := .copy c' } ∧ c'.pos = c.pos + n ∧ c'.got = c.got.drop n ∧ c'.bad = false) ∧
    (∀ (c : Copy) (h o kind : Nat) (key : Option Nat), r.op = .copy c → c.bad = false → s.ev.e ≠ 1 ∧ s.ev.e ≠ 2 → (r.withheld = none ∨ c.stuck = false) →
      c.bv = false → c.pos < c.total → 0 < c.len →
      let off : Int := ((c.pos / c.len : Nat) : Int) * c.dstr + ((c.pos % c.len : Nat) : Int)
      let n := min (8 - (winBase c.wins c.dst.space + ((c.dst.off : Int) + off).toNat) % 8) (c.len - c.pos % c.len)
      let bytes := if c.mode = 3 then (List.range n).map (fun j => BitVec.ofNat 8 (c.aux.toNat / 256 ^ ((c.pos % c.len + j) % 8))) else (c.got.take n).map (·.1)
      (c.mode = 3 ∨ n ≤ c.got.length) → s.reachEnd r g c c.dst off n true = (.at (.spad h o) kind key, s1) →
      ∃ (s' : State) (c' : Copy) (y : Req), exec .ePorterBeatLanding s = .next s' ∧ s'.mem = s1.mem ∧
        Memory.readBytes (s'.tile h).spad o n = bytes ∧
        (∀ b, b < o ∨ o + n ≤ b → Memory.get (s'.tile h).spad b = Memory.get (s1.tile h).spad b) ∧ (∀ x, x ≠ h → (s'.tile x).spad = (s1.tile x).spad) ∧
        s1.req r.id = some y ∧ s'.req r.id = some { y with op := .copy c' } ∧ c'.pos = c.pos + n ∧ c'.got = c.got.drop n ∧ c'.bad = false) ∧
    (∀ c : Copy, r.op = .copy c → (c.bad = true ∨ c.total ≤ c.pos) → ∃ s' : State, exec .eCopyLanded s = .next s' ∧ landed s' c.tag) ∧
    (∀ c : Copy, r.op = .copy c → c.bad = false → c.pos < c.total → exec .eCopyLanded s = .next s) ∧
    (∀ tag k n, r.op = .shf tag k n → n ≤ k → s.inFlight r.id = false → ∃ s' : State, exec .eShuffleLanded s = .next s' ∧ landed s' tag) ∧
    (∀ tag k n y ys e, r.op = .shf tag k n → r.pieces = y :: ys → k < n → 64 + 256 * (k + 1) ≤ r.room →
      s.unitBad 0 (y.place.pa + 64 + 256 * k) 4 = none → s.parseEntry (s.keyBytes (y.place.pa + 64 + 256 * k) 256 y.key) = some e →
      exec .eShuffleEntryCode s = .next ((s.updReq r.id (fun z => { z with op := .shf tag (k + 1) n })).sendEntry r e)) ∧
    (∀ pk rest, (s.vault s.ev.e).heldPk = pk :: rest → ((s.vault s.ev.e).packets.map (fun z => z.data.length)).sum + pk.data.length ≤ 0x40000 →
      exec .eShufflePacketAdmit s = .next (s.updVault s.ev.e (fun z => { z with heldPk := rest, packets := z.packets ++ [pk] }))) ∧
    (∀ pk rest, (s.vault s.ev.e).packets = pk :: rest → pk.rcvs = [] →
      exec .ePacketDecode s = .next (s.updVault s.ev.e (fun z => { z with packets := rest }))) ∧
    (∀ pk rest v more, (s.vault s.ev.e).packets = pk :: rest → pk.rcvs = v :: more → pk.req = r.id →
      exec .ePacketDecode s = .next (((s.updVault s.ev.e (fun z =>
        { z with packets := if more = [] then rest else { pk with rcvs := more } :: rest })).serveRcv r pk v))) ∧
    (∀ role k bs e, r.op = .plf role k → s.nodeFree g r = true → s.readVirt g r.tenant (s.rootOf r.inst) 4 3 (r.ea % 2 ^ 56) 1024 = (.ok bs, s1) →
      e = (s1.tile g).phys role → planeFails (kindOf role) role k (s1.elem g e).gens bs = none → (s1.elem g e).swapWait = false →
      ∃ s' : State, exec .ePlaneFillComplete s = .next s' ∧ NMap.find (s'.elem g e).planes k = some (parsePlane bs) ∧ (s'.elem g e).nrdy = true ∧
        (s'.elem g e).npnd = false ∧ (s'.elem g e).apl = (s1.elem g e).apl ∧ (s'.ctx g p x).cp = (s1.ctx g p x).cp - 1 ∧ s'.req r.id = none)

/-- `c` is the integer nearest to `num / den`, a tie to even. -/
def Claims.nearest (num : Int) (den : Nat) (c : Int) : Prop :=
  2 * (c * den - num).natAbs ≤ den ∧ (2 * (c * den - num).natAbs = den → c % 2 = 0)

/-- Part of O53: what a sketch operation computes (R138, R139, R142, R143). The hash of an index gives its bucket and sign in each row. `sk.add`
adds in lane order to every row the signed contribution of a value, rounded to an integer under the loss scale, saturating: a NaN changes no
row and sets nanf, a clamp sets its row's satr. `sk.qry` gives the median of the rows' estimates; `sk.scale` multiplies, `sk.merge` adds the
source's counters and flags, `sk.clr` and `sk.init` zero, `sk.rd` gives counters of a row. No byte outside the sketch changes. -/
def Claims.PartSketch : Prop :=
  (∀ (q L : Int) (v : Lane), (val32 v = .nan → skValue q L v = none) ∧
    (∀ neg, val32 v = .inf neg → skValue q L v = some (if neg = true then -2 ^ 40 else 2 ^ 40)) ∧
    (∀ neg num den, val32 v = .fin neg num den → ∃ c, skValue q L v = some c ∧
      Claims.nearest ((if neg = true then -(num : Int) else num) * 2 ^ (q - L).toNat) (den * 2 ^ (L - q).toNat) c)) ∧
  ∀ (s : State) (r : Req) (pa : Nat), s.migs = [] → s.bad = [] →
    let word : State → Word := fun t => BitVec.ofNat 64 (t.readUnder pa 8 r.key)
    let clamp : Int → Int := fun t => max (-2 ^ 31) (min t (2 ^ 31 - 1))
    let apart : State → Nat → Prop := fun t n => ∀ b, b < pa ∨ pa + n ≤ b → Memory.get t.mem b = Memory.get s.mem b
    let free : Nat → Prop := fun n => (∀ i, i < n → s.barObject (pa + i) = false) ∧ Claims.oneKey s pa n r.key
    (r.op.isSk = true → (∀ t, r.op ≠ .skInit t) → (∀ a b c d e, r.op ≠ .skMerge a b c d e) → s.skAt r pa = none → s.skOp r pa = .error 0x30) ∧
    (∀ bs k, r.op = .skInit bs → bs.length = 64 → parseSk bs = some k → k.bytes ≤ r.room → free k.bytes →
      ∃ s' : State, s.skOp r pa = .ok ([], s') ∧ apart s' k.bytes ∧ (∀ i b, bs[i]? = some b → s'.readUnder (pa + i) 1 r.key = b.toNat) ∧
        ∀ n, n < k.count → s'.ctr r.key pa n = 0) ∧
    (∀ k, s.skAt r pa = some k → k.bytes ≤ r.room →
      let at' : Nat → Int := fun n => s.ctr r.key pa n
      let hash : Nat → Nat → Nat := fun row i => (i % 2 ^ 32 * (k.seeds.getD row (0, 0)).1 + (k.seeds.getD row (0, 0)).2) % 2 ^ 32
      let bucket : Nat → Nat → Nat := fun row i => hash row i / 2 ^ (32 - k.lgw)
      let sign : Nat → Nat → Int := fun row i => if (hash row i).testBit (31 - k.lgw) = true then -1 else 1
      (∀ l, r.op = .skAdd l → free k.bytes → ∃ s' : State, s.skOp r pa = .ok ([], s') ∧ apart s' k.bytes ∧
        let step : Nat → Nat → Int × Bool → Nat × Lane × Int → Int × Bool := fun row b a x =>
          match skValue k.q x.2.2 x.2.1 with
          | none => a
          | some c => if bucket row x.1 = b then (clamp (a.1 + sign row x.1 * c), a.2 || clamp (a.1 + sign row x.1 * c) != a.1 + sign row x.1 * c) else a
        (∀ row b, row < k.d → b < k.width → s'.ctr r.key pa (row * k.width + b) = (l.foldl (step row b) (at' (row * k.width + b), false)).1) ∧
        ((word s').getLsbD 23 = true ↔ k.w0.getLsbD 23 = true ∨ ∃ x ∈ l, skValue k.q x.2.2 x.2.1 = none) ∧
        (∀ row, row < k.d → ((word s').getLsbD (16 + row) = true ↔ k.w0.getLsbD (16 + row) = true ∨
          ∃ b, b < k.width ∧ (l.foldl (step row b) (at' (row * k.width + b), false)).2 = true)) ∧
        (word s').setWidth 16 = k.w0.setWidth 16) ∧
      (∀ l, r.op = .skQry l → ∃ out, s.skOp r pa = .ok (out, s) ∧ out.length = l.length ∧ ∀ (j i : Nat), l[j]? = some i → ∃ m : Int,
        out[j]? = some ((enc32 ((FVal.fin (decide (m < 0)) m.natAbs 1).scale (-k.q))).setWidth 64) ∧
        let est := (List.range k.d).map (fun row => sign row i * at' (row * k.width + bucket row i))
        m ∈ est ∧ (est.filter (fun x => decide (x < m))).length ≤ k.d / 2 ∧ (est.filter (fun x => decide (m < x))).length ≤ k.d / 2) ∧
      (∀ f neg num den, r.op = .skScale f → val32 f = .fin neg num den → free k.bytes → ∃ (s' : State) (c : Nat → Int), s.skOp r pa = .ok ([], s') ∧
        apart s' k.bytes ∧ (∀ n, n < k.count → Claims.nearest (at' n * (if neg = true then -(num : Int) else num)) den (c n) ∧ s'.ctr r.key pa n = clamp (c n)) ∧
        (word s').getLsbD 23 = k.w0.getLsbD 23 ∧ ∀ row, row < k.d → ((word s').getLsbD (16 + row) = true ↔ k.w0.getLsbD (16 + row) = true ∨
          ∃ n, n < k.count ∧ n / k.width = row ∧ clamp (c n) ≠ c n)) ∧
      (∀ f, r.op = .skScale f → (∀ neg num den, val32 f ≠ .fin neg num den) → s.skOp r pa = .error 0x32) ∧
      (r.op = .skClr → free k.bytes → ∃ s' : State, s.skOp r pa = .ok ([], s') ∧ apart s' k.bytes ∧ (∀ n, n < k.count → s'.ctr r.key pa n = 0) ∧
        word s' = k.w0 &&& ~~~0xFF0000) ∧
      (∀ row first n, r.op = .skRd row first n → row < k.d → first + n ≤ k.width →
        s.skOp r pa = .ok ((List.range n).map (fun x => BitVec.ofInt 64 (at' (row * k.width + first + x))), s)) ∧
      (∀ row first n, r.op = .skRd row first n → k.d ≤ row ∨ k.width < first + n → s.skOp r pa = .error 0x21) ∧
      (∀ src room past j m, r.op = .skMerge src room past none [] → parseSk (s.keyBytes src.pa 64 r.key) = some j → j.bytes ≤ room →
        (j.d = k.d ∧ j.lgw = k.lgw ∧ j.q = k.q ∧ j.seeds = k.seeds →
          s.skMergeAt r pa m = .ok false (s.updReq r.id (fun q => { q with op := .skMerge src room past (some j.w0) [] }))) ∧
        (j.d ≠ k.d ∨ j.lgw ≠ k.lgw ∨ j.q ≠ k.q ∨ j.seeds ≠ k.seeds → s.skMergeAt r pa m = .refused 0x31)) ∧
      (∀ src room past w0, r.op = .skMerge src room past (some w0) [] → free k.bytes → ∃ s' : State, s.skMergeAt r pa k.count = .ok true s' ∧ apart s' k.bytes ∧
        let sum : Nat → Int := fun n => at' n + s.ctr r.key src.pa n
        (∀ n, n < k.count → s'.ctr r.key pa n = clamp (sum n)) ∧
        ((word s').getLsbD 23 = true ↔ k.w0.getLsbD 23 = true ∨ w0.getLsbD 23 = true) ∧
        ∀ row, row < k.d → ((word s').getLsbD (16 + row) = true ↔ k.w0.getLsbD (16 + row) = true ∨ w0.getLsbD (16 + row) = true ∨
          ∃ n, n < k.count ∧ n / k.width = row ∧ clamp (sum n) ≠ sum n)))

/-- O53 (tier 2): home units and the tile's own (R136, R140, R150, R160, R161, R291, R303 to R305). A sketch operation is performed whole, or
refused with its cause, a merge counter by counter of its source and then whole; a holdings table keeps its latest entry last, evicts the earliest of 1,024, drops and answers by id; the
snapshot flips the banks, then writes the old one, counts and sums, and clears both; the sorter leaves the words it read in rising order and no other byte
of the scratchpad changed; the generator is seeded, or gives its next words, of each of the n lanes of a vector the high half, and counts them.
The model's readings here: log entries 45, 46. -/
def Obligations.UnitSteps : Prop :=
  Claims.PartSketch ∧
  ∀ (s : State) (r : Req) (q : Region), s.req s.ev.id = some r → NMap.find s.regions r.inst = some q → q.live = true → r.counted = true →
    let answered : State → Word → Prop := fun s' v => ∃ x, s'.req r.id = some x ∧ x.phase = .done ∧ (∀ g p c, r.who = .ctx g p c → x.res = v) ∧
      (∀ g e, r.who = .elem g e → x.op = .emit (Tok.scalar r.thread r.iter v))
    (∀ p ps pa l s1, r.pieces = p :: ps → p.place = .phys pa → r.op.isSk = true → s.mayPerform r p = true → s.slotFirst r = true → s.ev.flag = false →
      s.merging r pa = false → s.skBad r pa = none → (∀ a b c d e, r.op ≠ .skMerge a b c d e) → s.skOp r pa = .ok (l, s1) →
      exec .eSketchOpAtUnit s = .next (s1.unitDone r l (r.skTok l))) ∧
    (∀ p ps pa src room past w got fin s1, r.pieces = p :: ps → p.place = .phys pa → r.op = .skMerge src room past w got → s.mayPerform r p = true →
      s.slotFirst r = true → s.ev.flag = false → s.merging r pa = false → s.skBad r pa = none → s.skMergeAt r pa (s.ev.c + 1) = .ok fin s1 →
      exec .eSketchOpAtUnit s = .next (if fin = true then s1.unitDone r [] (r.skTok []) else s1)) ∧
    (∀ p ps pa k, r.pieces = p :: ps → p.place = .phys pa → r.op = .skStat → s.mayPerform r p = true → s.slotFirst r = true → s.ev.flag = false →
      s.merging r pa = false → s.skBad r pa = none → s.skAt r pa = some k → k.bytes ≤ r.room →
      ∃ s' : State, exec .eSketchOpAtUnit s = .next s' ∧ s'.mem = s.mem ∧ answered s' k.w0) ∧
    (∀ p ps pa cause, r.pieces = p :: ps → p.place = .phys pa → r.op.isSk = true → s.mayPerform r p = true → s.slotFirst r = true → s.ev.flag = false →
      s.merging r pa = false → s.skBad r pa = none → (∀ a b c d e, r.op ≠ .skMerge a b c d e) → s.skOp r pa = .error cause →
      exec .eSketchOpAtUnit s = .next (s.refuse r cause)) ∧
    (∀ p ps pa, r.pieces = p :: ps → p.place = .phys pa → s.mayPerform r p = true → s.slotFirst r = true →
      let v := homeOf pa
      let l := (s.vault v).holds
      (∀ id len, r.op = .holdIns id len → ∃ s' : State, exec .eHoldingsOpAtVault s = .next s' ∧ s'.mem = s.mem ∧ answered s' 0 ∧
        (s'.vault v).holds = (if (∀ x ∈ l, x.id ≠ id) ∧ 1024 ≤ l.length then l.tail else l.filter (fun x => x.id != id)) ++ [⟨id, pa, len⟩]) ∧
      (∀ id, r.op = .holdDrop id → ∃ s' : State, exec .eHoldingsOpAtVault s = .next s' ∧ s'.mem = s.mem ∧ answered s' 0 ∧
        (s'.vault v).holds = l.filter (fun x => x.id != id)) ∧
      (∀ id, r.op = .holdQ id → ∃ s' : State, exec .eHoldingsOpAtVault s = .next s' ∧ s'.mem = s.mem ∧ (s'.vault v).holds = l ∧
        (l.find? (fun x => x.id == id) = none → answered s' 0) ∧ (∀ x, l.find? (fun x => x.id == id) = some x → answered s' x.word))) ∧
    (∀ g p ps, r.op = .rtSnap → r.who.tile = some g → r.pieces = p :: ps →
      (r.phase = .wait → s.mayPerform r p = true → s.unitBusy r (fun o => o == .rtSnap) = false → ∃ s' : State, exec .eRouteSnapshotWrite s = .next s' ∧
        (s'.tile g).rtLive = 1 - (s.tile g).rtLive ∧ (s'.tile g).rtCount = (s.tile g).rtCount ∧ s'.mem = s.mem ∧
        ∃ x, s'.req r.id = some x ∧ x.phase = .accepted) ∧
      (∀ h o, r.phase = .accepted → p.place = .spad h o → ∃ s' : State, exec .eRouteSnapshotWrite s = .next s' ∧ s'.mem = s.mem ∧
        (∀ e, e < 256 → let b := 1 - (s.tile g).rtLive
          Memory.readN (s'.tile h).spad (o + 8 * e) 4 = NMap.get (s.tile g).rtCount (256 * b + e) 0 % 2 ^ 32 ∧
          Memory.readN (s'.tile h).spad (o + 8 * e + 4) 4 = (NMap.get (s.tile g).rtPsum (256 * b + e) 0).toNat ∧
          NMap.get (s'.tile g).rtCount (256 * b + e) 0 = 0 ∧ NMap.get (s'.tile g).rtPsum (256 * b + e) 0 = 0) ∧
        (∀ a, a < o ∨ o + 2048 ≤ a → Memory.get (s'.tile h).spad a = Memory.get (s.tile h).spad a) ∧ ∃ x, s'.req r.id = some x ∧ x.phase = .done) ∧
      (∀ pa, r.phase = .accepted → p.place = .phys pa → s.migs = [] → (∀ i, i < 2048 → s.barObject (pa + i) = false) → ∃ s' : State, exec .eRouteSnapshotWrite s = .next s' ∧
        (∀ e, e < 256 → let b := 1 - (s.tile g).rtLive
          Memory.readN s'.mem (pa + 8 * e) 4 = NMap.get (s.tile g).rtCount (256 * b + e) 0 % 2 ^ 32 ∧
          Memory.readN s'.mem (pa + 8 * e + 4) 4 = (NMap.get (s.tile g).rtPsum (256 * b + e) 0).toNat ∧
          NMap.get (s'.tile g).rtCount (256 * b + e) 0 = 0 ∧ NMap.get (s'.tile g).rtPsum (256 * b + e) 0 = 0) ∧
        (Claims.oneKey s pa 2048 p.key → ∀ a, a < pa ∨ pa + 2048 ≤ a → Memory.get s'.mem a = Memory.get s.mem a) ∧ ∃ x, s'.req r.id = some x ∧ x.phase = .done)) ∧
    (∀ g src dst n, r.op = .rsort src dst n → r.who.tile = some g → (∀ p ∈ r.pieces, s.mayPerform r p = true) → s.unitBusy r ReqOp.isSort = false →
      ∃ s' : State, exec .eSorterRun s = .next s' ∧ s'.mem = s.mem ∧
        ((List.range n).map (fun k => s'.readSp g (dst + 4 * k) 4)).Perm ((List.range n).map (fun k => s.readSp g (src + 4 * k) 4)) ∧
        (∀ k, k + 1 < n → s'.readSp g (dst + 4 * k) 4 ≤ s'.readSp g (dst + 4 * (k + 1)) 4) ∧
        (∀ o, o < dst ∨ dst + 4 * n ≤ o → Memory.get (s'.tile g).spad o = Memory.get (s.tile g).spad o) ∧
        (∀ h, h ≠ g → (s'.tile h).spad = (s.tile h).spad) ∧ ∃ x, s'.req r.id = some x ∧ x.phase = .done) ∧
    (∀ g, r.who.tile = some g → r.phase = .wait → (s.earlier r).any (fun x => x.op.isRng && !x.performed) = false →
      (∀ v, r.op = .rngSeed v → ∃ s' : State, exec .eGeneratorRequestServe s = .next s' ∧ (s'.tile g).rngSeed = v ∧ (s'.tile g).rngCtr = 0 ∧
        ∃ x, s'.req r.id = some x ∧ x.phase = .done) ∧
      (∀ n, r.op = .rng n → ∃ s' : State, exec .eGeneratorRequestServe s = .next s' ∧ (s'.tile g).rngSeed = (s.tile g).rngSeed ∧
        (s'.tile g).rngCtr = (s.tile g).rngCtr + BitVec.ofNat 64 (max n 1) ∧ (n = 0 → answered s' ((s.tile g).rngWord (s.tile g).rngCtr)) ∧
        (∀ h e, 0 < n → r.who = .elem h e → ∃ x, s'.req r.id = some x ∧ x.phase = .done ∧ x.op = .emit (Tok.vec r.thread r.iter
          ((List.range n).map (fun k => ((mix ((s.tile g).rngSeed ^^^ ((s.tile g).rngCtr + BitVec.ofNat 64 k))) >>> 32).setWidth 32)) []))))

/-! The triad engine at work (R81 to R91, R278 to R289). -/

/-- The state of a tile's triad engine after a step, of which only these parts matter to a statement. -/
def Claims.engine (s' : State) (g : Nat) (ok : Triad → Prop) : Prop := ok (s'.tile g).triad

/-- The rational a decoded value stands for; none for NaN and the infinities. -/
def Claims.rat : FVal → Option ℚ
  | .fin neg num den => some ((if neg = true then -(num : ℚ) else num) / den)
  | _ => none

/-- A number limited to INT32. -/
def Claims.clamp (t : Int) : Int := max (-2 ^ 31) (min t (2 ^ 31 - 1))

/-- Part of O54: what a step computes (R70, R71, R81, R82). A cell's value is the exact sum over lanes of w, n and t, times the block scales of W and N,
or the count of a binary cell, and NaN where a lane is; each accumulator that the mode writes takes the value or the exact sum of its row or column, rounded once
to FP32 or saturated to INT32 with the bank's flag, from 0 where the descriptor overwrites at step 0; no other accumulator changes; a stream
mode leaves all of them and sends its lanes under both per-tensor scales. -/
def Claims.PartArithmetic : Prop :=
  (∀ (d : Desc) (ws ns ts : List El) (L : Nat), ws.length = L → ns.length = L → 0 < L → (d.tone = true → ts = []) → (d.tone = false → ts.length = L) →
    (∀ (w n t : Nat → ℚ) (cw cn : ℚ), d.cls ≠ 4 → (∀ l x, ws[l]? = some x → Claims.rat x.val = some (w l)) → (∀ l x, ns[l]? = some x → Claims.rat x.val = some (n l)) →
      (∀ l x, ts[l]? = some x → Claims.rat x.val = some (t l)) → (d.tone = true → ∀ l, t l = 1) →
      (∀ x, ws[0]? = some x → Claims.rat x.scale = some cw) → (∀ x, ns[0]? = some x → Claims.rat x.scale = some cn) →
      Claims.rat (d.cell ws ns ts) = some (((List.range L).map (fun l => w l * n l * t l)).sum * cw * cn)) ∧
    (∀ x, d.cls ≠ 4 → x ∈ ws ∨ x ∈ ns ∨ x ∈ ts → x.val = .nan → d.cell ws ns ts = .nan) ∧
    (d.cls = 4 → d.cell ws ns ts = .fin false ((List.range L).filter (fun l =>
      let a := (ws.getD l ⟨0, 0⟩).bits.testBit 0
      let b := (ns.getD l ⟨0, 0⟩).bits.testBit 0
      (if d.bop = true then a && b else a != b) && (d.tone || (ts.getD l ⟨0, 0⟩).bits.testBit 0))).length 1)) ∧
  (∀ (acc : Lane) (v : FVal), accumulate false acc v = (enc32 ((val32 acc).add v), false)) ∧
  (∀ (acc : Lane) (neg : Bool) (num den : Nat), 0 < den → ∃ c, Claims.nearest (if neg = true then -(num : Int) else num) den c ∧
    (accumulate true acc (.fin neg num den)).1.toInt = Claims.clamp (acc.toInt + c) ∧
    ((accumulate true acc (.fin neg num den)).2 = true ↔ Claims.clamp (acc.toInt + c) ≠ acc.toInt + c)) ∧
  (∀ (l : List FVal) (x : Nat → ℚ), (∀ neg num den, .fin neg num den ∈ l → 0 < den) → (∀ k v, l[k]? = some v → Claims.rat v = some (x k)) →
    Claims.rat (sumVals l) = some ((List.range l.length).map x).sum) ∧
  (∀ (t : Triad) (r : Run) (d : Desc) (cs : List (List FVal)), d.stream = false → d.mode ≤ 2 → d.ncols ≤ 32 → (∀ row ∈ cs, row.length = d.ncols) →
    let t' := t.apply r d cs
    let target : Nat → FVal → Prop := fun k v =>
      (d.mode = 0 ∧ ∃ m n row, cs[m]? = some row ∧ row[n]? = some v ∧ k = 1024 * d.bank + 32 * (r.base + m) + n) ∨
      (d.mode = 1 ∧ ∃ m row, cs[m]? = some row ∧ v = sumVals row ∧ k = 1024 * d.bank + 32 * m) ∨
      (d.mode = 2 ∧ ∃ n, n < d.ncols ∧ v = sumVals (cs.map (fun row => row.getD n (.fin false 0 1))) ∧ k = 1024 * d.bank + n)
    let new : Nat → FVal → Lane × Bool := fun k v => accumulate d.intOnly (if d.ow = true ∧ r.j = 0 then 0 else NMap.get t.acc k 0) v
    (∀ k v, target k v → NMap.get t'.acc k 0 = (new k v).1) ∧ (∀ k, (∀ v, ¬ target k v) → NMap.get t'.acc k 0 = NMap.get t.acc k 0) ∧
    ((t'.bank d.bank).sat = true ↔ (t.bank d.bank).sat = true ∨ ∃ k v, target k v ∧ (new k v).2 = true) ∧ (t'.bank d.bank).steps = r.j + 1 ∧
    ∀ b, b ≠ d.bank → t'.bank b = t.bank b) ∧
  (∀ (t : Triad) (r : Run) (d : Desc) (cs : List (List FVal)) (sw sn : Lane), d.stream = true → r.ent.op = .triad d sw sn →
    let t' := t.apply r d cs
    let one : List FVal → Lane := fun l => (d.lane sw sn (sumVals l)).1
    let token : Nat → List Lane → List (Nat × Nat × Nat × Tok) := fun it l => [(r.ent.p, r.ent.c, d.och, Tok.vec d.oth (it % 2 ^ 20) l [])]
    t'.acc = t.acc ∧
    (d.mode = 4 → t'.out = t.out ++ token r.j (cs.map one)) ∧
    (d.mode = 5 → t'.out = t.out ++ token r.j ((List.range d.ncols).map (fun n => one (cs.map (fun row => row.getD n (.fin false 0 1)))))) ∧
    (d.mode = 3 → t'.out = t.out ++ if r.acc.length = 31 ∨ r.j + 1 = d.total then token (r.j - r.acc.length) (r.acc ++ [one cs.flatten]) else [])) ∧
  (∀ (d : Desc) (sw sn : Lane) (v : FVal), d.intOnly = false → d.cls ≠ 4 → d.lane sw sn v = (enc32 ((v.mul (val32 sw)).mul (val32 sn)), false)) ∧
  (∀ (d : Desc) (sw sn : Lane) (v : FVal), d.intOnly = true → let x := if d.cls = 4 then v else (v.mul (val32 sw)).mul (val32 sn)
    (x = .nan → d.lane sw sn v = (0, true)) ∧ (∀ neg, x = .inf neg → d.lane sw sn v = (if neg = true then 0x80000000 else 0x7FFFFFFF, true)) ∧
    (∀ neg num den, x = .fin neg num den → 0 < den → ∃ c, Claims.nearest (if neg = true then -(num : Int) else num) den c ∧
      (d.lane sw sn v).1.toInt = Claims.clamp c ∧ ((d.lane sw sn v).2 = true ↔ Claims.clamp c ≠ c)))

/-- Part of O55: what a drain computes and writes (R88, R61, R62). An accumulator times its row and column scales and both per-tensor scales, with its bias, is rounded once to FP32; the LUT
element's function is taken where asked; the result is rounded and saturated to the output format, with one word of the generator where the rounding is
stochastic; its bits go to their place, no other bit changes, and every block it touches takes the format's block word. -/
def Claims.PartEpilogue : Prop :=
  (∀ (t : Triad) (b : Nat) (d : Desc) (sw sn : Lane) (m n : Nat) (xa rs cs qw qn bv : ℚ),
    let acc : Lane := NMap.get t.acc (1024 * b + 32 * m + n) 0
    ((t.bank b).int = true → xa = acc.toInt) → ((t.bank b).int = false → Claims.rat (val32 acc) = some xa) →
    (if d.e 13 13 = 1 then Claims.rat (val32 (NMap.get t.rs m 0x3F800000)) = some rs else rs = 1) →
    (if d.e 14 14 = 1 then Claims.rat (val32 (NMap.get t.cs n 0x3F800000)) = some cs else cs = 1) →
    (if d.cls = 4 then qw = 1 ∧ qn = 1 else Claims.rat (val32 sw) = some qw ∧ Claims.rat (val32 sn) = some qn) →
    (if d.e 15 15 = 1 then Claims.rat (val32 (NMap.get t.bias (if d.e 16 16 = 1 then m else n) 0)) = some bv else bv = 0) →
    ∃ x, t.epiVal b d sw sn m n = enc32 x ∧ Claims.rat x = some (xa * rs * cs * qw * qn + bv)) ∧
  (∀ (s : State) (g b : Nat) (d : Desc) (sw sn : Lane) (m n : Nat),
    let T := s.tile g
    let el := s.elem g (T.phys (24 + d.e 19 18))
    let y := T.triad.epiVal b d sw sn m n
    let z := if d.e 17 17 = 1 then lutEv el.lut y (NMap.get (NMap.get el.planes el.apl Plane.empty).lits 63 0) else y
    let u := if d.e 10 8 = 5 then (mix (T.rngSeed ^^^ T.rngCtr)).toNat / 2 ^ 32 else 0
    (s.drainVal g b d sw sn m n).1 = (encodeFmt (d.e 7 0) (Rnd.ofCode (d.e 10 8) u) (Sat.ofCode (d.e 12 11)) (val32 z)).1 ∧
    (s.drainVal g b d sw sn m n).2 = if d.e 10 8 = 5 then s.updTile g (fun t => { t with rngCtr := t.rngCtr + 1 }) else s) ∧
  (∀ (s : State) (g pos v : Nat) (d : Desc),
    let bits := fmtBits (d.e 7 0)
    let s' := s.drainPut g d pos v
    let bitAt : Memory → Nat → Bool := fun m i => (Memory.get m (i / 8)).getLsbD (i % 8)
    let base := vaultAddr (vaultOfTile g)
    0 < bits → (pos % 8 = 0 ∨ bits < 8 ∧ pos % bits = 0) →
    (d.e 28 28 = 0 → s'.mem = s.mem ∧
      (∀ i, bitAt (s'.tile g).spad i = if pos ≤ i ∧ i < pos + bits then v.testBit (i - pos) else bitAt (s.tile g).spad i) ∧
      ∀ k, s'.metaSp g (64 * k) = if pos / 512 ≤ k ∧ k ≤ (pos + bits - 1) / 512 then d.e 7 0 * 256 + 0x80 else s.metaSp g (64 * k)) ∧
    (d.e 28 28 = 1 → s.migs = [] → (∀ a, base + pos / 8 ≤ a → a ≤ base + (pos + bits - 1) / 8 → s.barObject a = false ∧
        ∀ x ∈ (s.vault (homeOf (a / 16 * 16))).parties, x.pa ≠ a / 16 * 16) → (s'.tile g).spad = (s.tile g).spad ∧
      (∀ i, bitAt s'.mem (8 * base + i) = if pos ≤ i ∧ i < pos + bits then v.testBit (i - pos) else bitAt s.mem (8 * base + i)) ∧
      ∀ k, s'.metaPa (base + 64 * k) = if pos / 512 ≤ k ∧ k ≤ (pos + bits - 1) / 512 then d.e 7 0 * 256 + 0x80 else s.metaPa (base + 64 * k)))

/-- O54 (tier 2): starting, breaking in, fetching, stepping and aborting (R75, R81, R84, R85, R90, R279, R280, R287). With nothing running, the
head of a queue whose turn it is starts, unless its bank is poisoned or held; a high operation breaks into a low one at an
interruptible point, and into a drain beside a contraction, and none starts that touches what the broken ones hold; a feeder brings the next
step's slices, at most eight ahead; a step adds its cells' sums and counts, but none while a result token waits; an operand that ends early faults with 0x50; `tabort` removes what its queue holds before it and completes:
the context's tl falls by one for each and for itself.
The model's readings here: log entries 34, 36, 37. -/
def Obligations.SequencerSteps : Prop :=
  Claims.PartArithmetic ∧
  ∀ (s : State) (g : Nat), s.ev.g = g → s.liveAt g = true →
    let T := s.tile g
    let t := T.triad
    (∀ e rest, t.runs = [] → (t.broke = [] ∨ s.ev.flag = true ∧ t.clearOf e.op = true) → t.turn s.ev.flag = true →
      (if s.ev.flag = true then t.hiQ else t.loQ) = e :: rest → e.op ≠ .abort → (∀ d th ch x y, e.op ≠ .rag d th ch x y) → (∀ b, e.op.bank = some b → (t.bank b).state ≠ 2 ∧ t.heldBy b = false) →
      ∃ s' : State, exec .eSequencerOpStart s = .next s' ∧ Claims.engine s' g (fun t' => t'.runs = [Run.new e s.ev.flag] ∧ t'.acc = t.acc ∧
        t'.hiQ = (if s.ev.flag = true then rest else t.hiQ) ∧ t'.loQ = (if s.ev.flag = true then t.loQ else rest) ∧ t'.lastHigh = s.ev.flag)) ∧
    (∀ e rest, t.broke ≠ [] → t.hiQ = e :: rest → t.clearOf e.op = false → s.ev.flag = true → exec .eSequencerOpStart s = .next s) ∧
    (∀ r rs, t.runs = [] → t.hiQ = [] → t.broke = r :: rs → s.ev.flag = false →
      exec .eSequencerOpStart s = .next (s.updTriad g (fun y => { y with runs := r :: rs, broke := [] }))) ∧
    (∀ r h rest, t.runs = [r] → t.hiQ = h :: rest → t.pol = 0 → r.high = false → t.broke = [] → r.interruptible = true → h.op ≠ .abort →
      breakable h.op r.ent.op = true → exec .eBreakIn s = .next (s.updTriad g (fun y => { y with runs := [], broke := [match r.ent.op with
        | .drain _ => r
        | _ => { r with fw := r.j, fn := r.j, ft := r.j, sw := [], sn := [], st := [] }] }))) ∧
    (∀ r q b h rest, t.runs = [r, q] → r ≠ q → r.ent.op = .drain b → t.hiQ = h :: rest → t.pol = 0 → r.high = false → q.high = false → t.broke = [] →
      r.interruptible = true → h.op ≠ .abort → breakable h.op r.ent.op = true → breakable h.op q.ent.op = true →
      exec .eBreakIn s = .next (s.updTriad g (fun y => { y with runs := [q], broke := [r] }))) ∧
    (∀ r h rest, t.runs = [r] → t.hiQ = h :: rest → (t.pol ≠ 0 ∨ r.interruptible = false ∨ r.high = true) → exec .eBreakIn s = .next s) ∧
    (∀ r d sw sn, t.runs = [r] → r.ent.op = .triad d sw sn → r.fin = false → s.bad = [] → s.ev.flag = false → s.ev.e = 0 → r.fw < d.total → r.fw < r.j + 8 →
      (d.w.lim = 0 ∨ r.fw < d.w.lim) → (d.w.space = 1 → s.vaultUp g = true) → ∃ st, exec .eFeederSliceFetch s = .next { s.updTriad g (fun y =>
        { y with runs := [{ r with fw := r.fw + 1, sw := r.sw ++ [s.slices g d.w (classOf d.cls).1 (classOf d.cls).2.2 (s.wAddrs g d r r.fw)] }] }) with
        stale := st }) ∧
    (∀ r d sw sn, t.runs = [r] → r.ent.op = .triad d sw sn → r.fin = false → s.ev.e = 0 → r.j + 8 ≤ r.fw →
      exec .eFeederSliceFetch s = .next s) ∧
    (∀ r d sw sn ws wt ns nt, t.runs = [r] → r.ent.op = .triad d sw sn → r.fin = false → r.rag = none → t.halted = false → T.lvl < 8 → r.j < d.total → t.waiting = false →
      d.stream = false → bitOf T.stepMatch 36 = false → (d.w.lim = 0 ∨ r.j < d.w.lim) → (d.n.lim = 0 ∨ r.j < d.n.lim) →
      d.tFed = false → r.sw = ws :: wt → r.sn = ns :: nt → (∀ l ∈ ws, ∀ x ∈ l, El.ok d.w.fam d.intOnly x = true) →
      (∀ l ∈ ns, ∀ x ∈ l, El.ok d.n.fam d.intOnly x = true) → ∃ s' : State, exec .eTriadStep s = .next s' ∧
        (s'.tile g).steps = T.steps + 1 ∧ s'.mem = s.mem ∧ (s'.tile g).spad = T.spad ∧ Claims.engine s' g (fun t' =>
          t'.runs = [{ r with j := r.j + 1, sw := wt, sn := nt, st := r.st.tail }] ∧ (t'.bank d.bank).steps = r.j + 1 ∧
          t'.acc = (t.apply r d (t.cells d 0 d.mrows ws ns (r.st.headD []) r.j)).acc ∧ ∀ b, b ≠ d.bank → t'.bank b = t.bank b)) ∧
    (∀ r d sw sn, t.runs = [r] → r.ent.op = .triad d sw sn → r.fin = false → t.halted = false → T.lvl < 8 → r.j < d.total → t.waiting = false →
      bitOf T.stepMatch 36 = false → d.w.lim ≠ 0 → d.w.lim ≤ r.j → exec .eTriadStep s = .next (s.seqFault g r d 0x50)) ∧
    (∀ r d sw sn, t.runs = [r] → r.ent.op = .triad d sw sn → r.fin = false → t.waiting = true → exec .eTriadStep s = .next s) ∧
    (∀ a pre post, t.runs = [] → t.broke = [] → t.rags = [] → t.loQ = pre ++ a :: post → s.ev.flag = false → a.op = .abort →
      (∀ e ∈ pre, e.num < a.num ∧ e.op ≠ .abort) → (∀ e ∈ post, a.num < e.num) → ∃ s' : State, exec .eTabortRun s = .next s' ∧
        Claims.engine s' g (fun t' => t'.loQ = post ∧ t'.hiQ = t.hiQ ∧ t'.banks = t.banks) ∧ s'.mem = s.mem ∧
        ∀ p c, (s'.ctx g p c).tl = (s.ctx g p c).tl - ((pre ++ [a]).filter (fun e => e.p == p && e.c == c)).length)

/-- O55 (tier 2): finishing, draining, results and ragged products (R71, R86 to R91, R278, R282 to R284, R288). A contraction that has applied
its steps fills its bank and keeps its epilogue; `thold` loads a slice of T for every cell of its extents and every inner step; the other queued operations have their effect; each completes for its context's tl. A drain
writes an element at a time, and its stashed copy, then completes. A result token leaves when its arc takes it. `tacc` is answered with the accumulator,
or with the payload of a poisoned bank. A row of the bound thread joins the product and opens it, another thread's counts as stray; a
pass takes the waiting rows; the end token, once they are applied, lets the rows be drained, an element at a time, by the scales kept at issue; then the bank is clear, and the
count goes out. An end token before any row is stream-short.
The model's readings here: log entries 34, 35, 37, 69. -/
def Obligations.ContractionAndRaggedSteps : Prop :=
  Claims.PartEpilogue ∧
  ∀ (s : State) (g : Nat), s.ev.g = g → s.liveAt g = true →
    let T := s.tile g
    let t := T.triad
    let done : State → QEnt → Prop := fun s' e => (s'.ctx g e.p e.c).tl = (s.ctx g e.p e.c).tl - 1 ∧ (s'.tile g).triad.runs = []
    (∀ r d sw sn, t.runs = [r] → r.ent.op = .triad d sw sn → r.rag = none → d.stream = false → d.total ≤ r.j →
      ∃ s' : State, exec .eContractionComplete s = .next s' ∧ done s' r.ent ∧ Claims.engine s' g (fun t' => (t'.bank d.bank).state = 1 ∧
        (t'.bank d.bank).epi = some (d, sw, sn) ∧ (t'.bank d.bank).mode = d.mode ∧ (t'.bank d.bank).int = d.intOnly ∧ t'.acc = t.acc)) ∧
    (∀ r b d sw sn, t.runs = [r] → r.ent.op = .drain b → r.rag = none → (t.bank b).epi = some (d, sw, sn) → d.e 17 17 ≠ 1 → d.group r.j = [] →
      ∃ s' : State, exec .eDrainComplete s = .next s' ∧ done s' r.ent ∧ s'.mem = s.mem ∧ (s'.tile g).triad.acc = t.acc) ∧
    (∀ r b d sw sn, t.runs = [r] → r.ent.op = .drain b → r.rag = none → (t.bank b).epi = some (d, sw, sn) → d.e 17 17 ≠ 1 → ∀ m n, (d.group r.j)[r.fw]? = some (m, n) →
      (d.e 28 28 = 1 → s.vaultUp g = true) → T.intake = true →
      let w := s.drainVal g b d sw sn m n
      let two : Prop := d.e 20 20 = 1 ∧ d.mode = 0
      let go : State → (Run → Run) → State := fun q f => q.updTriad g (fun y =>
        { y with runs := y.runs.map (fun x => if x.ent.num = r.ent.num ∧ x.rag.isNone = true then f x else x) })
      let next : Run → Run := fun x => if r.fw + 1 < (d.group r.j).length then { x with fw := x.fw + 1, acc := [] } else { x with j := x.j + 1, fw := 0, acc := [] }
      (r.acc = [] → ¬two → exec .eDrainComplete s = .next (go (w.2.drainPut g d (d.outBit false m n).toNat w.1) next)) ∧
      (r.acc = [] → two → exec .eDrainComplete s = .next (go (w.2.drainPut g d (d.outBit false m n).toNat w.1) (fun x => { x with acc := [BitVec.ofNat 32 w.1] }))) ∧
      (∀ v l, r.acc = v :: l → two → exec .eDrainComplete s = .next (go (s.drainPut g d (d.outBit true m n).toNat v.toNat) next))) ∧
    (∀ r d, t.runs = [r] → r.ent.op = .hold d → r.rag = none → d.tone = false → d.inner ≤ 8 → d.ncols ≤ 32 → s.stale = [] → s.bad = [] → s.ev.flag = false →
      (d.t.space = 1 → s.vaultUp g = true) →
      let slice : Nat → Nat → Nat → List El := fun h m n =>
        s.slice g d.t ((d.t.off : Int) + (m : Int) * d.t.sm + (n : Int) * d.t.sn + (h : Int) * d.t.si) d.tb (classOf d.cls).2.2
      (∀ h m n, h < d.inner → m < d.mrows → n < d.ncols → ∀ x ∈ slice h m n, El.ok d.t.fam false x = true) →
      ∃ s' : State, exec .eSequencerOperationComplete s = .next s' ∧ done s' r.ent ∧ s'.mem = s.mem ∧ (s'.tile g).triad.acc = t.acc ∧
        ∀ h m n, h < d.inner → m < d.mrows → n < d.ncols → NMap.get (s'.tile g).triad.hold (8 * (32 * m + n) + h) [] = slice h m n) ∧
    (∀ r b, t.runs = [r] → r.ent.op = .zero b → r.rag = none → ∃ s' : State, exec .eSequencerOperationComplete s = .next s' ∧ done s' r.ent ∧
      Claims.engine s' g (fun t' => (∀ k, k < 1024 → NMap.get t'.acc (1024 * b + k) 0 = 0) ∧ (t'.bank b).state = 0 ∧ (t'.bank b).sat = false ∧
        (t'.bank b).epi = (t.bank b).epi)) ∧
    (∀ r off v, t.runs = [r] → r.ent.op = .scl off v → r.rag = none → v < 3 → ∃ s' : State, exec .eSequencerOperationComplete s = .next s' ∧ done s' r.ent ∧
      ∀ k, k < 32 → NMap.get (if v = 0 then (s'.tile g).triad.rs else if v = 1 then (s'.tile g).triad.cs else (s'.tile g).triad.bias) k 0 =
        BitVec.ofNat 32 (s.readSp g (off + 4 * k) 4)) ∧
    (∀ p c ch k rest i q a x, t.out = (p, c, ch, k) :: rest → s.regOf g = some (i, q) → q.live = true → ((s.ctx g p c).chan ch).arc = some a →
      NMap.find q.arcs a = some x → s.room q x = true → (∀ w ∈ NMap.get q.wires a [], w.stage ≠ 0) → s.shut (q.tileOf x.dteam) x = false → T.intake = true →
      exec .eStreamResultToken s = .next ((s.updTriad g (fun y => { y with out := rest })).updReg i (fun z =>
        { z with wires := NMap.set z.wires a (NMap.get z.wires a [] ++ [⟨x.slot, k, 1, 0⟩]) }))) ∧
    (∀ rq p c b m n, s.req s.ev.id = some rq → s.reqLive rq = true → rq.op = .tacc b m n → rq.who = .ctx g p c → rq.phase = .wait → rq.counted = true →
      ∃ s' : State, exec .eTaccReadServe s = .next s' ∧ ∃ x, s'.req rq.id = some x ∧ x.phase = .done ∧
        let acc : Lane := NMap.get t.acc (1024 * b + 32 * m + n) 0
        ((t.bank b).state ≠ 2 → x.res = if (t.bank b).int = true then acc.signExtend 64 else acc.setWidth 64) ∧
        ((t.bank b).state = 2 → x.res = errPayload 0x55 g (T.role p) b)) ∧
    (∀ b r k, s.ev.e = b → s.ragHead g b = some (r, k) → k.kind = .scalar → k.thread = r.thread → r.ended = false → (t.bank b).state ≠ 2 →
      r.rows.length < r.d.mrows → exec .eRaggedRowToken s = .next ((s.updCtx g r.p r.c (fun x => x.pop r.ch)).updTriad g (fun y =>
        y.setRag b (fun z => { z with rows := z.rows ++ [(k.pay.toNat % 2 ^ 20, k.iter)], isOpen := true })))) ∧
    (∀ b r k, s.ev.e = b → s.ragHead g b = some (r, k) → k.thread ≠ r.thread →
      exec .eRaggedRowToken s = .next ((s.updCtx g r.p r.c (fun x => x.pop r.ch)).strayAt g 1)) ∧
    (∀ b r k, s.ev.e = b → s.ragHead g b = some (r, k) → k.kind = .ctl → k.thread = r.thread → r.ended = false → (t.bank b).state ≠ 2 →
      (r.rows ≠ [] → exec .eRaggedEndToken s = .next ((s.updCtx g r.p r.c (fun x => x.pop r.ch)).updTriad g (fun y =>
        y.setRag b (fun z => { z with ended := true, isOpen := true })))) ∧
      (r.rows = [] → exec .eRaggedEndToken s = .next ((s.updCtx g r.p r.c (fun x => x.pop r.ch)).seqFault g
        { Run.new ⟨0, .rag r.d r.thread r.ch r.sw r.sn, r.p, r.c, r.d.oth⟩ r.high with rag := some (b, 0, 0) } r.d 0x50))) ∧
    (∀ b r, s.ev.e = b → NMap.find t.rags b = some r → r.d.bank = b → t.runs = [] → t.broke = [] → r.applied < r.rows.length → (t.bank b).state ≠ 2 →
      ∃ s' : State, exec .eRaggedPass s = .next s' ∧ Claims.engine s' g (fun t' => t'.runs = [{ Run.new ⟨0, .rag r.d r.thread r.ch r.sw r.sn, r.p, r.c, r.d.oth⟩ r.high with
        rag := some (b, r.applied, r.rows.length - r.applied) }] ∧ t'.acc = t.acc ∧ t'.rags = t.rags)) ∧
    (∀ b r i reg p, s.ev.e = b → NMap.find t.rags b = some r → s.regOf g = some (i, reg) → t.runs = [] → t.broke = [] → r.ended = true →
      r.rows.length ≤ r.applied → r.d.e 17 17 ≠ 1 → r.out < r.rows.length * r.d.ncols → (r.d.e 28 28 = 1 → s.vaultUp g = true) → T.intake = true →
      r.d.rowAt reg (r.rows.getD (r.out / r.d.ncols) (0, 0)).2 = (p, true) →
      let w := s.drainVal g b r.d r.sw r.sn (r.out / r.d.ncols) (r.out % r.d.ncols)
      exec .eRaggedClose s = .next ((w.2.drainPut g r.d (p + ((r.out % r.d.ncols * fmtBits (r.d.e 7 0) : Nat) : Int)).toNat w.1).updTriad g (fun y =>
        y.setRag b (fun z => { z with out := r.out + 1 })))) ∧
    (∀ b r, s.ev.e = b → NMap.find t.rags b = some r → t.runs = [] → t.broke = [] → r.ended = true → r.rows.length ≤ r.applied →
      r.out = r.rows.length * r.d.ncols → ∃ s' r', exec .eRaggedClose s = .next s' ∧ NMap.find (s'.tile g).triad.rags b = some r' ∧ r'.rows = [] ∧ r'.isOpen = false ∧ r'.prod = r.prod + 1 ∧
        ((s'.tile g).triad.bank b).state = 0 ∧ (r.d.och ≠ 0 → (r.p, r.c, r.d.och, Tok.scalar r.thread (r.prod % 2 ^ 20) (BitVec.ofNat 64 r.rows.length)) ∈
          (s'.tile g).triad.out))

/-! Translation, shoot-downs and migration; pre-emption, the distributor and islands (R271 to R275, R381, R387 to R407, R418). -/

/-- Part of O56: the walk of a page table where no cache holds the address (R387 to R391): five levels, indexed by va[55:48], [47:39], [38:30], [29:21]
and [20:12], each pointer entry naming the next table. It ends at the first entry that is not a sound pointer: not valid (reason 0), a
reserved bit (1), a pointer at the last level or a page size its level cannot hold (2), a page base out of line (3), an address that is not mapped (4), a
page kind of 4 or more (5), a permission missing, or a page, whose entry then has its accessed bit set, and its dirty bit for a write. An entry in
a block in error or in a stack that is not ready ends it too (R408, R410). -/
def Claims.PartWalk : Prop :=
  ∀ (s : State) (g tenant root va need L : Nat) (T : Nat → Nat), 1 ≤ L → L ≤ 5 → s.bad = [] → 5 < s.ev.arc → T 1 = root →
    let idx : Nat → Nat := fun l => if l = 1 then va / 2 ^ 48 % 256 else va / 2 ^ (57 - 9 * l) % 512
    let at' : Nat → Nat := fun l => T l + 8 * idx l
    let e : Nat → Word := fun l => BitVec.ofNat 64 (s.readPa (at' l) 8)
    let next : Nat → Nat := fun l => bitsOf (e l) 51 12 * 4096
    let up : Nat → Prop := fun l => s.reachable (redirect s.migs (at' l)) = true
    let valid : Nat → Prop := fun l => (e l).getLsbD 0 = true
    let ptr : Nat → Prop := fun l => bitsOf (e l) 3 1 = 0
    let sound : Nat → Prop := fun l => bitsOf (e l) 63 52 = 0 ∧ bitsOf (e l) 11 4 = 0
    let t := s.translate g tenant root va need true
    (∀ l, 1 ≤ l → l < L → up l ∧ valid l ∧ ptr l ∧ sound l ∧ s.mapped (next l) = true ∧ T (l + 1) = next l) →
    (¬ up L → t.1 = .dead) ∧
    (up L → ¬ valid L → t.1 = .fault L 0 (e L)) ∧
    (up L → valid L → ptr L → ¬ sound L → t.1 = .fault L 1 (e L)) ∧
    (up L → valid L → ptr L → sound L → L = 5 → t.1 = .fault 5 2 (e 5)) ∧
    (up L → valid L → ptr L → sound L → L < 5 → s.mapped (next L) = false → t.1 = .fault L 4 (e L)) ∧
    (up L → valid L → ¬ ptr L →
      let code := bitsOf (e L) 8 6
      let size := [0x1000, 0x4000, 0x10000, 0x40000, 0x200000, 0x2000000, 0x40000000, 0x400000000].getD code 0
      let fits : Prop := L = 5 ∧ code < 4 ∨ L = 4 ∧ 4 ≤ code ∧ code < 6 ∨ L = 3 ∧ 6 ≤ code
      let mapped : Prop := s.mapped (next L) = true ∧ s.mapped (next L + size - 1) = true
      let granted : Prop := (need % 2 = 1 → (e L).getLsbD 1 = true) ∧ (need / 2 % 2 = 1 → (e L).getLsbD 2 = true) ∧ (need / 4 % 2 = 1 → (e L).getLsbD 3 = true)
      (bitsOf (e L) 63 62 ≠ 0 → t.1 = .fault L 1 (e L)) ∧
      (bitsOf (e L) 63 62 = 0 → ¬ fits → t.1 = .fault L 2 (e L)) ∧
      (bitsOf (e L) 63 62 = 0 → fits → next L % size ≠ 0 → t.1 = .fault L 3 (e L)) ∧
      (bitsOf (e L) 63 62 = 0 → fits → next L % size = 0 → ¬ mapped → t.1 = .fault L 4 (e L)) ∧
      (bitsOf (e L) 63 62 = 0 → fits → next L % size = 0 → mapped → 4 ≤ bitsOf (e L) 11 9 → t.1 = .fault L 5 (e L)) ∧
      (bitsOf (e L) 63 62 = 0 → fits → next L % size = 0 → mapped → bitsOf (e L) 11 9 < 4 → ¬ granted → t.1 = .denied) ∧
      (bitsOf (e L) 63 62 = 0 → fits → next L % size = 0 → mapped → bitsOf (e L) 11 9 < 4 → granted →
        ∃ l, t.1 = .ok l ∧ l.pa va = next L + va % size ∧ l.vbase = va / size * size ∧ l.size = size ∧ l.kind = bitsOf (e L) 11 9 ∧ l.key = bitsOf (e L) 61 52 ∧
          t.2.readPa (at' L) 8 = ((e L) ||| 0x10 ||| (if need / 2 % 2 = 1 then 0x20 else 0)).toNat ∧
          ∀ b, b < redirect s.migs (at' L) ∨ redirect s.migs (at' L) + 8 ≤ b → Memory.get t.2.mem b = Memory.get s.mem b))

/-- O56 (tier 2): translation nodes, shoot-downs and migration (R104, R105, R252, R271, R275, R390 to R400). The node serves its oldest request: a
translation places the access or gives `xlt` its window, a missing permission refuses it with 0x25, a missing page withholds it under
a fault id, or under none while the tenant holds them all; a resolved fault frees every access withheld under it. A shoot-down goes out to all tiles, each of which drops what it covers
and revokes the windows whose page it covers; it is over when all have, and completes its `xinv`. A migrated line's bytes are those of the old one, and the pointer
passes it.
The model's readings here: log entries 22, 24, 31. -/
def Obligations.TranslationSteps : Prop :=
  Claims.PartWalk ∧
  ∀ (s s1 : State) (r : Req) (q : Region) (g va : Nat),
    let walking : Tr → Prop := fun t => s.req s.ev.id = some r ∧ NMap.find s.regions r.inst = some q ∧ q.live = true ∧ r.who.tile = some g ∧
      r.nextVa = some va ∧ r.unwalked = true ∧ s.nodeFree g r = true ∧ r.op.isFill = false ∧
      s.translate g r.tenant (s.rootOf r.inst) va r.op.needs.1 s.ev.flag = (t, s1)
    let goesOn : State → Prop := fun t => exec .eTranslationWalk s = .next ((t.unheld r).wakeTile g)
    (∀ l, walking (.ok l) → (∀ k n, r.op ≠ .xlt k n) → (r.acq = false ∨ (r.placed l).isUn = false) → ¬ (r.op.needs.2 = 0 ∧ l.kind = 3 ∨ r.op.needs.2 = 1 ∧ l.kind ≠ 3) →
      s1.paOk (l.pa va) l.key = true → goesOn (s1.updReq r.id (fun x => x.placed l))) ∧
    (∀ l k n, walking (.ok l) → r.op = .xlt k n → goesOn (s1.xltEnd r k (.ok ⟨l.pa va, l.vbase + l.size - va, l.kind, l.pte.getLsbD 1,
      l.pte.getLsbD 2 && l.pte.getLsbD 5, l.pte.getLsbD 3, l.key, (s1.tile g).seq, r.tenant, l.vbase, l.size, false⟩))) ∧
    (walking .denied → (∀ k n, r.op ≠ .xlt k n) → goesOn (s1.deny r va 0x25)) ∧
    (∀ k n, walking .denied → r.op = .xlt k n → goesOn (s1.xltEnd r k (.error 0x25))) ∧
    (walking .dead → (∀ k n, r.op ≠ .xlt k n) → goesOn (s1.deny r va 0x21)) ∧
    (∀ pa, walking (.bad pa) → goesOn (s1.dataError r pa)) ∧
    (∀ level reason pte, walking (.fault level reason pte) →
      let f := s1.pageFault r.inst r.tenant g (s1.roleOf r.who)
        (if r.op.needs.1 / 2 % 2 = 1 then 1 else if r.op.needs.1 / 4 % 2 = 1 then 2 else 0) va level reason pte
      (∀ id s2, f = some (id, s2) → exec .eTranslationWalk s = .next
        (((s2.updReq r.id (fun x => { x with withheld := some id })).updReg r.inst (fun x => x.hold r.id id s2.now)).wakeTile g)) ∧
      (f = none → exec .eTranslationWalk s = .next ((s1.updReg r.inst (fun x => x.hold r.id 65536 s1.now)).wakeTile g))) ∧
    (∀ j p, s.ev.inst = j → NMap.find s.regions j = some p → p.st = .running → (∃ h ∈ p.held, 2 ^ p.flim ≤ s.now - h.2.2) →
      exec .eFaultLimitExpiry s = .next (s.updReg j (fun x => { x with st := .stopping 1 }))) ∧
    (∀ tenant id, tenant = s.entTenant s.ev.arc → id = s.ev.id % 65536 → (∃ f ∈ s.faults, f.tenant = tenant ∧ f.id = id) → s.hallUp = true →
      ∃ s' : State, exec .eFaultResolve s = .next s' ∧ s'.mem = s.mem ∧ (∀ f, f ∈ s'.faults ↔ f ∈ s.faults ∧ ¬ (f.tenant = tenant ∧ f.id = id)) ∧
        (∀ k x, s.req k = some x → s'.req k = some (if x.tenant = tenant ∧ x.withheld = some id then { x with withheld := none } else x))) ∧
    (∀ tenant, tenant = s.entTenant s.ev.arc → (∀ k ∈ s.shooting, k.byHub = true → k.sd.tenant ≠ tenant) → s.hallUp = true →
      ∃ s' : State, exec .eShootdownRequest s = .next s' ∧
      s'.shooting = s.shooting ++ [⟨⟨(s.shootSeq + 1) % 2 ^ 32, tenant, bitsOf s.ev.w0 55 12, bitsOf s.ev.w0 11 0⟩, true, List.range 384, []⟩]) ∧
    (∀ k, s.shooting.find? (fun x => x.sd.num == s.ev.id && x.wait.contains g) = some k → s.ev.g = g → ∃ s' : State, exec .eShootdownReceive s = .next s' ∧
      (∀ l ∈ (s'.tile g).leaves, l ∈ (s.tile g).leaves ∧ k.sd.covers l.tenant l.vbase l.size = false) ∧
      (∀ e n w, NMap.find (s.elem g e).wins n = some w →
        NMap.find (s'.elem g e).wins n = some { w with revoked := w.revoked || k.sd.covers w.tenant w.va w.size }) ∧
      (∀ p c n w, NMap.find (s.ctx g p c).wins n = some w →
        NMap.find (s'.ctx g p c).wins n = some { w with revoked := w.revoked || k.sd.covers w.tenant w.va w.size }) ∧
      (∀ h, h ≠ g → s'.tile h = s.tile h) ∧ s'.mem = s.mem) ∧
    (∀ k x, s.shooting.find? (fun y => y.sd.num == s.ev.id) = some k → k.wait = [] → k.reqs = [] → s.reqs.find? (fun y => y.op == .xinv k.sd.num) = some x →
      exec .eShootdownComplete s = .next (({ s with shooting := s.shooting.filter (fun y => y.sd.num != k.sd.num) } : State).finish x.id 0)) ∧
    (∀ m, NMap.find (NMap.get s.migs s.ev.e []) s.ev.c = some m → m.done = false →
      (∀ v ∈ s.vaults, ∀ k ∈ v.2.cmbs, ∀ b ∈ k.lanesAt, b / 64 ≠ (m.old + m.pos) / 64) →
      (∀ x ∈ (s.vault (homeOf (m.old + m.pos))).pool, x.pa / 64 ≠ (m.old + m.pos) / 64) → ∃ s' : State, exec .eMigrationLineCopy s = .next s' ∧
        (∀ k, k < 64 → Memory.get s'.mem (m.new + m.pos + k) = Memory.get s.mem (m.old + m.pos + k)) ∧
        (∀ b, b < m.new + m.pos ∨ m.new + m.pos + 64 ≤ b → Memory.get s'.mem b = Memory.get s.mem b) ∧
        NMap.find (NMap.get s'.migs s.ev.e []) s.ev.c = some { m with pos := m.pos + 64, done := decide (m.len ≤ m.pos + 64) })

/-- O57 (tier 2): pre-emption, resumption, the distributor and islands (R381, R402 to R407, R418). A running region is asked to stop for a record
of higher priority; its teams' intake closes and free slots are its own; settled, its checkpoints, header and scratchpad among them, go there and its tiles are free;
resumed, every team of it runs on the same tile from the bytes of its slots, before any newer record of its priority or lower (R42). The distributor pops the first record that need not wait, for the loader or the Crier. A waking island is
on; one that no region needs can be gated.
The model's readings here: log entries 56, 57. -/
def Obligations.PreemptionAndDistributionSteps : Prop :=
  ∀ (s : State) (j : Nat) (r : Region), s.ev.inst = j → NMap.find s.regions j = some r →
    (r.st = .running → s.ev.x = 3 → (∃ x ∈ s.streams, ∃ y ∈ x.2.recs, y.ready = true ∧ r.prio < y.level) →
      exec .ePreemption s = .next (s.updReg j (fun x => { x with st := .stopping 3 }))) ∧
    (∀ c, r.st = .stopping c → s.regHalted r = false → r.tiles.length ≤ s.slotsFree.length → ∃ s' : State, exec .ePreemption s = .next s' ∧
      NMap.find s'.regions j = some { r with st := .settling c, slots := r.reserve s.slotsFree } ∧ (∀ g ∈ r.tiles, s'.tile g = { s.tile g with intake := false }) ∧
      (∀ g, g ∉ r.tiles → s'.tile g = s.tile g) ∧ s'.mem = s.mem) ∧
    (∀ c, r.st = .settling c → s.regHalted r = false → s.settled j r = true → exec .ePreemption s = .next (s.checkpoint j r c)) ∧
    (∀ c, r.st = .settling c → s.settled j r = false → exec .ePreemption s = .next s) ∧
    (∀ c, r.st = .settling c → s.regHalted r = false → s.settled j r = true → s.migs = [] → (r.slots.map (·.slot)).Nodup →
      (∀ k ∈ r.slots, s.nodeQueue k.tile ≤ 64) → ∃ s' q, exec .ePreemption s = .next s' ∧ NMap.find s'.regions j = some q ∧ q.st = .preempted c ∧
        q.slots = r.slots ∧ (∀ g ∈ r.tiles, (s'.tile g).inst = none) ∧
        ∀ k ∈ r.slots, let at' := bitsOf (s.hubWord 0x20020) 51 12 * 4096 + k.slot * 0x240000
          let t := s.tile k.tile
          s'.readPa at' 8 = 2 ^ 32 + 0x4B435031 ∧ s'.readPa (at' + 8) 8 = r.tenant % 65536 * 2 ^ 48 + t.team % 512 * 2 ^ 32 + j % 2 ^ 32 ∧
          s'.readPa (at' + 0x10) 8 = c / 256 % 256 * 2 ^ 56 + r.wdg % 2 ^ 24 * 2 ^ 16 + s.nodeQueue k.tile * 2 ^ 8 + c % 256 ∧
          (∀ e, e < 28 → s'.readPa (at' + 0x18) 8 / 4 ^ e % 4 = (t.elem (t.phys (e + 4))).apl % 4) ∧
          ∀ o, o < 0xC0000 → Memory.get s'.mem (at' + 0x1000 + o) = Memory.get t.spad o) ∧
    (r.resumable = true → (∀ g ∈ r.tiles, s.tileFree g = true) → s.awake r = true → (r.slots.map (·.tile)).Nodup → s.slotBad r = none →
      (∀ k ∈ r.slots, s.ckptFails (s.slotAt k.slot) (s.ckptTile (s.slotAt k.slot)) = none) → (∀ v ∈ s.vaults, v.2.answers = []) →
      ∃ s' q, exec .eRegionResume s = .next s' ∧ NMap.find s'.regions j = some q ∧ q.st = .running ∧ q.slots = [] ∧ s'.mem = s.mem ∧
        ∀ k ∈ r.slots, (s'.tile k.tile).inst = some j ∧ (s'.tile k.tile).team = k.team ∧ (s'.tile k.tile).intake = true ∧
          (s'.tile k.tile).spad = Memory.writeBytes [] 0 (s.paBytes (s.slotAt k.slot + 0x1000) 0xC0000) ∧
          (s'.tile k.tile).triad.acc = (s.ckptTile (s.slotAt k.slot)).triad.acc) ∧
    (∀ q, (s.entryOf (recTenant q.words)).isSome = true → s.behind q = true → s.popTo q = .waits) ∧
    (∀ k q, s.hubWord 0x20000 &&& 1 = 1 → s.placing = false →
      (([7, 6, 5, 4, 3, 2, 1, 0].flatMap s.heads).find? (fun x => decide (s.popTo x.2 ≠ .waits))) = some (k, q) →
      (s.popTo q = .loader → exec .eDistributorPop s = .next ((s.popped k q).makeRegion k q none)) ∧
      (s.popTo q = .crier → exec .eDistributorPop s = .next ((s.popped k q).addTend k q 0).2)) ∧
    (s.hubWord 0x20000 &&& 1 = 0 → exec .eDistributorPop s = .next s) ∧
    (NMap.get s.islands s.ev.e 0 = 3 → ∃ x y, exec .eIslandWakeComplete s = .next { s with
      islands := NMap.set s.islands s.ev.e 0, pausedAt := x, pausedSum := y }) ∧
    (NMap.get s.islands s.ev.e 0 = 0 → s.mayGate s.ev.e = true → s.ev.x = 1 → (s.ev.e < 768 ∨ 832 ≤ s.ev.e) →
      ∃ x y, exec .eIslandGating s = .next { s with islands := NMap.set s.islands s.ev.e 1, pausedAt := x, pausedSum := y })

/-! Tenders, the hub, and the package (R167 to R169, R238, R297 to R300, R370 to R386, R410 to R424). -/

/-- O58 (tier 2): tenders (R169, R297, R298). The oldest record not yet announced is, and every eligible tile's bid stands, best first; at the
end of the window the four best that arrived in time are kept and the best is awarded; go reaches the awarded tile once its image is
loaded; a tile whose load fails withdraws, and the tile of the next kept bid is awarded.
The model's readings here: log entry 59. -/
def Obligations.TenderSteps : Prop :=
  ∀ (s : State) (t : Tend),
    (s.tends.find? (fun x => x.pending && !x.announced) = some t → ∃ s' : State, exec .eTenderAnnounce s = .next s' ∧ s'.mem = (s.bidsFor t).2.mem ∧
      s'.tends = s.tends.map (fun x => if x.seq = t.seq ∧ x.pending = true then { x with announced := true, bids := (s.bidsFor t).1 } else x)) ∧
    (∀ b rest, s.tendOf s.ev.id = some t → t.announced = true → t.closed = false → t.tried = 0 → t.st = 1 →
      (t.bids.filter (fun b => s.ev.body.getD b.tile 0 == 0)).take 4 = b :: rest → ∃ s' : State, exec .eBidWindowExpiry s = .next s' ∧
        s'.awards = s.awards + 1 ∧ s'.mem = s.mem ∧
        s'.tends = s.tends.map (fun x => if x.seq = t.seq ∧ x.pending = true then
          { t with bids := b :: rest, closed := true, st := 2, tried := 1, cost := b.cost, tile := b.tile, rcd := { t.rcd with inst := some (s.instOf t.rcd) } } else x) ∧
        ∃ q, NMap.find s'.regions (s.instOf t.rcd) = some q ∧ q.tender = some t.seq ∧ q.st = .popped ∧ q.recd = t.rcd.words) ∧
    (∀ j r, s.tendOf s.ev.id = some t → s.awarded s.ev.id = some (j, r) → NMap.find s.regions j = some r → t.st = 2 → r.st = .loaded → s.awake r = true →
      ∃ s' : State, exec .eAwardGo s = .next s' ∧ NMap.find s'.regions j = some { r with st := .running, goAt := some (s.acCycles (r.tiles.headD 0)), wdg := 0 } ∧
        s'.tends = s.tends.map (fun x => if x.seq = t.seq ∧ x.pending = true then { x with st := 3 } else x)) ∧
    (∀ j r b, s.tendOf s.ev.id = some t → s.awarded s.ev.id = some (j, r) → t.st = 2 → (r.st = .popped ∨ r.st = .writing) → (s.awardFails t r).1 = true →
      t.bids[t.tried]? = some b → let u := (s.awardFails t r).2
      ∃ s' : State, exec .eLoaderWithdrawal s = .next s' ∧ s'.wdraws = u.wdraws + 1 ∧ s'.awards = u.awards + 1 ∧ s'.mem = u.mem ∧
        s'.tends = u.tends.map (fun x => if x.seq = t.seq ∧ x.pending = true then
          { x with st := 2, tried := x.tried + 1, cost := b.cost, tile := b.tile, rcd := { t.rcd with inst := some (u.instOf t.rcd) } } else x) ∧
        ∃ q, NMap.find s'.regions (u.instOf t.rcd) = some q ∧ q.tender = some t.seq ∧ q.st = .popped ∧ q.recd = t.rcd.words) ∧
    (∀ j r, s.tendOf s.ev.id = some t → s.awarded s.ev.id = some (j, r) → (t.st ≠ 2 ∨ (r.st ≠ .popped ∧ r.st ≠ .writing)) → exec .eLoaderWithdrawal s = .next s)

/-- Part of O59: an intake message for a queue pair that a valid rule of its port matches (R380, R424) is appended to the rule's stream: its record, with the
tenant of the rule's entry and the rule's fields, is the last of the stream, and the port counts it as taken. The record's ring memory answers (R410). -/
def Claims.PartIntakeTaken : Prop :=
  ∀ (s : State) (r k port tent : Nat) (w : Word) (ws : List Word), port = s.ev.arc % 2 → s.ready0.getLsbD (54 + port) = true → s.island (1004 + port) = 0 →
    s.ev.flag = true → s.ev.body.length = 64 → s.ruleFor port s.ev.x = some r → w = s.hubWord (0x60000 + 32 * r + 8) → k = bitsOf w 7 0 →
    ws = putBits (putBits (wordsOfBytes s.ev.body 8) 2 39 24 (s.entTenant (bitsOf w 15 8))) 4 8 0 (0x100 + bitsOf w 23 16) →
    recReserved ws = false → tent = bitsOf (s.streamWord k 1) 23 16 → recTenant ws = s.entTenant tent → s.entValid tent = true → bitOf (s.streamWord k 1) 1 = true →
    (s.stream k).recs.length < s.ringSize k →
    s.reachable (redirect s.migs (bitsOf (s.streamWord k 0) 51 6 * 64 + 64 * s.freeEntry k ((s.stream k).next % 2 ^ 24))) = true →
    ∃ (s' : State) (q : QRec), exec .eIntakeMessage s = .next s' ∧ (s'.stream k).recs = (s.stream k).recs ++ [q] ∧
      q.words = putBits ws 2 18 16 (min (recPrio ws) (bitsOf (s.streamWord k 1) 10 8)) ∧ q.handle = k + (s.stream k).next % 2 ^ 24 * 256 ∧
      (s'.stream k).next = ((s.stream k).next % 2 ^ 24 + 1) % 2 ^ 24 ∧ (∀ j, j ≠ k → s'.stream j = s.stream j) ∧
      NMap.get s'.intake (8 * port) 0 = NMap.get s.intake (8 * port) 0 + 1 ∧ (∀ j, j ≠ 8 * port → NMap.get s'.intake j 0 = NMap.get s.intake j 0) ∧
      s'.regions = s.regions ∧ s'.tiles = s.tiles

/-- Part of O59: the device performs the debug access in progress (R386) as an access of the region on the tile and ends it with a cause: 0x21 where no region has been on the
tile or the offset is outside the space, 0x25 for a region without dbg, 0x26 outside its vault grant, 0x27 for the page kind, what
translation gives for memory; else 0, with the bytes read, or written, and a probe gives a word's state, and its value where it is full. -/
def Claims.PartDebugAccess : Prop :=
  ∀ (s : State) (w : Word) (sp off g n : Nat), s.ev.flag = true → s.dbgBusy = true → w = s.hubWord 0x80200 → off = bitsOf (s.hubWord 0x80208) 55 0 →
    g = 48 * bitsOf w 2 0 + bitsOf w 8 3 → sp = bitsOf w 15 12 → n = 2 ^ bitsOf w 17 16 →
    let ended (u : State) (cause : Nat) (data : Word) (st : Nat) : Host.Outcome State Fault Refusal :=
      .next { u with dbgBusy := false, dbgCause := cause, dbgData := data, dbgState := st }
    let fails (u : State) (cause : Nat) := exec .eDebugAccessGo s = ended u cause u.dbgData u.dbgState
    (48 ≤ bitsOf w 8 3 → fails s 0x21) ∧
    (bitsOf w 8 3 < 48 → (s.tile g).lastInst = none → fails s 0x21) ∧
    ∀ (i : Nat) (r : Region), bitsOf w 8 3 < 48 → (s.tile g).lastInst = some i → NMap.find s.regions i = some r →
      (r.dbg = false → fails s 0x25) ∧
      (r.dbg = true → w.getLsbD 19 = false →
        (sp < 3 → 0x40000 < off + n → fails s 0x21) ∧
        (sp < 3 → off + n ≤ 0x40000 → w.getLsbD 18 = false →
          exec .eDebugAccessGo s = ended s 0 (BitVec.ofNat 64 (Memory.readN (s.tile g).spad (sp * 0x40000 + off) n)) s.dbgState) ∧
        (sp < 3 → off + n ≤ 0x40000 → w.getLsbD 18 = true →
          exec .eDebugAccessGo s = ended (s.updTile g (fun x => { x with spad := Memory.writeN x.spad (sp * 0x40000 + off) n (s.dbgData.toNat % 256 ^ n) })) 0 s.dbgData s.dbgState) ∧
        (sp = 3 → off + n ≤ 0x4000000 → (off < r.vbase ∨ r.vbase + r.vsize < off + n) → fails s 0x26) ∧
        (sp = 3 → off + n ≤ 0x4000000 → r.vbase ≤ off → off + n ≤ r.vbase + r.vsize → r.vkind = 3 → fails s 0x27) ∧
        (∀ pa, sp = 3 → pa = vaultAddr (vaultOfTile g) + off → off + 1 ≤ 0x4000000 → r.vbase ≤ off → off + 1 ≤ r.vbase + r.vsize → r.vkind ≠ 3 → n = 1 →
          s.paOk pa 0 = true → w.getLsbD 18 = false → s.bad = [] → s.ev.arc ≠ 6 →
          exec .eDebugAccessGo s = ended s 0 (BitVec.ofNat 64 (s.readUnder (redirect s.migs pa) 1 none)) s.dbgState) ∧
        (∀ u l, sp = 4 → n = 1 → w.getLsbD 18 = false → s.translate g r.tenant r.root (off % 2 ^ 56) 1 false = (.ok l, u) →
          (l.kind = 3 → fails u 0x27) ∧
          (l.kind ≠ 3 → u.paOk (l.pa off) l.key = false → fails u 0x21) ∧
          (l.kind ≠ 3 → u.paOk (l.pa off) l.key = true → u.bad = [] → u.ev.arc ≠ 6 →
            exec .eDebugAccessGo s = ended u 0 (BitVec.ofNat 64 (u.readUnder (redirect u.migs (l.pa off)) 1 (some l.key))) u.dbgState)) ∧
        (∀ u, sp = 4 → w.getLsbD 18 = false → s.translate g r.tenant r.root (off % 2 ^ 56) 1 false = (.denied, u) → fails u 0x25) ∧
        (∀ u a b c, sp = 4 → w.getLsbD 18 = false → s.translate g r.tenant r.root (off % 2 ^ 56) 1 false = (.fault a b c, u) → fails u 0x21) ∧
        (4 < sp → fails s 0x21)) ∧
      (∀ o pa, r.dbg = true → w.getLsbD 19 = true → w.getLsbD 18 = false → n = 8 → sp = 3 → o = off / 8 * 8 → pa = vaultAddr (vaultOfTile g) + o →
        o + 8 ≤ 0x4000000 → r.vbase ≤ o → o + 8 ≤ r.vbase + r.vsize → r.vkind = 3 → s.paOk pa 0 = true → s.bad = [] → s.ev.arc ≠ 6 →
        s.presence (redirect s.migs pa) ≠ 3 → exec .eDebugAccessGo s = ended s 0
          (if s.presence (redirect s.migs pa) = 1 then BitVec.ofNat 64 (s.readUnder (redirect s.migs pa) 8 none) else 0) (s.presence (redirect s.migs pa)))

/-- O59 (tier 2): streams, queues, intake, steward load and registers of the hub (R370 to R380, R386, R424). An append puts a legal record of its
tenant at the stream's tail and gives its handle, or the status that refuses it; a completion record goes to the next place of its
queue's ring while there is room, and nowhere else; a message without a rule is counted, one with a rule is appended; a steward load fills
every task processor's steward store; a debug access starts once, and a go written while it is busy does nothing; a write keeps the bits a
register has, and the bits of a bad-node word that the device sets in that cycle (R416).
No hall core acts before one is in service (R410, R411).
The model's readings here: log entries 15, 48, 60, 69. -/
def Obligations.HubSteps : Prop :=
  ∀ s : State,
    (s.hartUp (s.ev.e % 16) = false → exec .eStreamAppend s = .next s ∧ exec .eAppendResultRead s = .next s) ∧
    (∀ ws k v s0 s1, s.hartUp (s.ev.e % 16) = true → k = s.ev.c % 256 → s.readRecord (bitsOf s.ev.w0 51 0) = (some ws, s0) → s0.append k 0 ws = (v, s1) →
      exec .eStreamAppend s = .next { s1 with appendRes := NMap.set s1.appendRes (s.ev.e % 16) v }) ∧
    (∀ s0, s.hartUp (s.ev.e % 16) = true → s.readRecord (bitsOf s.ev.w0 51 0) = (none, s0) →
      exec .eStreamAppend s = .next { s0 with appendRes := NMap.set s0.appendRes (s.ev.e % 16) 0x100000000 }) ∧
    (∀ pa, (pa % 64 ≠ 0 ∨ s.reachable (redirect s.migs pa) = false → s.readRecord pa = (none, s)) ∧
      (pa % 64 = 0 → s.reachable (redirect s.migs pa) = true → s.bad = [] → s.ev.flag = false → s.readRecord pa = (some (wordsOfBytes (s.paBytes pa 64) 8), s))) ∧
    (∀ k via ws, recReserved ws = true → s.append k via ws = (0x100000000, s)) ∧
    (∀ k via ws, recReserved ws = false → (recTenant ws ≠ s.entTenant (bitsOf (s.streamWord k 1) 23 16) ∨ s.entValid (bitsOf (s.streamWord k 1) 23 16) = false ∨
      (via = 1 ∧ bitOf (s.streamWord k 1) 2 = false) ∨ (via = 2 ∧ bitOf (s.streamWord k 1) 1 = false)) → s.append k via ws = (0x200000000, s)) ∧
    (∀ k via ws tent pa, recReserved ws = false → tent = bitsOf (s.streamWord k 1) 23 16 → recTenant ws = s.entTenant tent → s.entValid tent = true →
      (via = 1 → bitOf (s.streamWord k 1) 2 = true) → (via = 2 → bitOf (s.streamWord k 1) 1 = true) →
      pa = bitsOf (s.streamWord k 0) 51 6 * 64 + 64 * s.freeEntry k ((s.stream k).next % 2 ^ 24) →
      (s.ringSize k ≤ (s.stream k).recs.length → s.append k via ws = (0x300000000, s)) ∧
      ((s.stream k).recs.length < s.ringSize k → s.reachable (redirect s.migs pa) = true → k < 256 → ws.length = 8 →
        ∃ q, (s.append k via ws).1 = BitVec.ofNat 64 (k + (s.stream k).next % 2 ^ 24 * 256) ∧
        q.words = putBits ws 2 18 16 (min (recPrio ws) (bitsOf (s.streamWord k 1) 10 8)) ∧ q.entry = s.freeEntry k ((s.stream k).next % 2 ^ 24) ∧
        (s.migs = [] → Memory.readBytes (s.append k via ws).2.mem pa 64 = bytesOfWords q.words) ∧
        ((s.append k via ws).2.stream k).recs = (s.stream k).recs ++ [q] ∧ q.handle = k + (s.stream k).next % 2 ^ 24 * 256 ∧
        q.join = recJoin ws ∧ q.ready = decide (recJoin ws = 0) ∧
        ((∀ y ∈ (s.stream k).recs, y.entry ≠ (s.stream k).next % 2 ^ 24 % s.ringSize k) → q.entry = (s.stream k).next % 2 ^ 24 % s.ringSize k) ∧
        ∀ y ∈ (s.stream k).recs, y.entry ≠ q.entry)) ∧
    (s.hartUp (s.ev.e % 16) = true →
      exec .eAppendResultRead s = .next { s with hartRead := NMap.set s.hartRead (s.ev.e % 16) (NMap.get s.appendRes (s.ev.e % 16) 0) }) ∧
    (∀ q w ws rest prod size, s.ev.e = q → s.compBuf = (q, ws, none) :: rest → ws.length = 8 → s.migs = [] → (∀ x ∈ s.regions, ∀ c, x.2.st ≠ .ending c) → w = s.hubWord (0x40000 + 32 * q) → bitsOf w 57 56 = 1 →
      prod = NMap.get s.prod q 0 → prod < 2 ^ 24 → size = 64 * 2 ^ bitsOf w 55 52 →
      let pa := bitsOf w 51 6 * 64 + 64 * (prod % size)
      let used := (prod + 2 ^ 24 - bitsOf (s.hubWord (0x40000 + 32 * q + 16)) 23 0) % 2 ^ 24
      (used < size → s.reachable pa = true → ∃ s' : State, exec .eCompletionRecordWrite s = .next s' ∧ Memory.readBytes s'.mem pa 64 = bytesOfWords ws ∧ s'.compBuf = rest ∧
        (∀ a, a < pa ∨ pa + 64 ≤ a → Memory.get s'.mem a = Memory.get s.mem a) ∧ NMap.get s'.prod q 0 = (prod + 1) % 2 ^ 24) ∧
      (size ≤ used → exec .eCompletionRecordWrite s = .next s)) ∧
    (s.hallUp = true → exec .eCompletionConsWrite s = .next (s.setHub (0x40000 + 32 * (s.ev.e % 256) + 16) (s.ev.w0 &&& 0xFFFFFF))) ∧
    let port := s.ev.arc % 2
    let on := s.ready0.getLsbD (54 + port) = true ∧ s.island (1004 + port) = 0
    (s.ready0.getLsbD (54 + port) = false → exec .eIntakeMessage s = .next s) ∧
    (s.ready0.getLsbD (54 + port) = true → s.island (1004 + port) = 1 → exec .eIntakeMessage s = .next (s.setIsland (1004 + port) 3)) ∧
    (on → s.ev.flag = false → let k := 8 * (s.ev.arc % 2) + 2
      exec .eIntakeMessage s = .next { s with intake := NMap.set s.intake k (NMap.get s.intake k 0 + 1) }) ∧
    (on → s.ev.flag = true → s.ev.body.length = 64 → s.ruleFor (s.ev.arc % 2) s.ev.x = none → let k := 8 * (s.ev.arc % 2) + 1
      exec .eIntakeMessage s = .next { s with intake := NMap.set s.intake k (NMap.get s.intake k 0 + 1) }) ∧
    (∀ r w ws v s1, on → s.ev.flag = true → s.ev.body.length = 64 → s.ruleFor port s.ev.x = some r → w = s.hubWord (0x60000 + 32 * r + 8) →
      ws = putBits (putBits (wordsOfBytes s.ev.body 8) 2 39 24 (s.entTenant (bitsOf w 15 8))) 4 8 0 (0x100 + bitsOf w 23 16) →
      s.append (bitsOf w 7 0) 2 ws = (v, s1) → let k := 8 * port + (if v.toNat / 2 ^ 32 = 0 then 0 else 3)
      exec .eIntakeMessage s = .next { s1 with intake := NMap.set s1.intake k (NMap.get s1.intake k 0 + 1) }) ∧
    (∀ r, r < 512 → (s.ruleFor port s.ev.x = some r → let w := s.hubWord (0x60000 + 32 * r)
      w.getLsbD 48 = true ∧ bitsOf w 49 49 = port ∧ ∀ b, b < 24 → w.getLsbD (24 + b) = true → s.ev.x.testBit b = w.getLsbD b)) ∧
    Claims.PartIntakeTaken ∧
    (s.hallUp = true → s.hubWord 0x20000 &&& 1 = 0 → (∀ q ∈ s.regions, q.2.live = false) → s.migs = [] →
      s.reachable (bitsOf s.ev.w0 51 6 * 64) = true → s.reachable (bitsOf s.ev.w0 51 6 * 64 + 3071) = true → s.bad = [] → s.ev.arc ≠ 6 → ∃ s' : State, exec .eStewardLoad s = .next s' ∧ s'.stewBusy = true ∧
      s'.stewRefused = false ∧ ∀ g p k, g < 384 → p < 4 → k < 256 → let pa := bitsOf s.ev.w0 51 6 * 64
        NMap.get (s'.tp g p).sstore k 0xFFFFFFFF = BitVec.ofNat 32 (Memory.readN s.mem (pa + 4 * k) 4) ∧
        NMap.get (s'.tp g p).slits k 0 = BitVec.ofNat 64 (Memory.readN s.mem (pa + 1024 + 8 * k) 8)) ∧
    (s.hallUp = true → s.hubWord 0x20000 &&& 1 = 1 → exec .eStewardLoad s = .next { s with stewRefused := true }) ∧
    (s.hallUp = true → s.hubWord 0x20000 &&& 1 = 0 → (∀ q ∈ s.regions, q.2.live = false) → s.reachable (redirect s.migs (bitsOf s.ev.w0 51 6 * 64)) = false →
      exec .eStewardLoad s = .next { s with stewRefused := true }) ∧
    exec .eStewardLoadDone s = .next { s with stewBusy := false } ∧
    (s.ev.flag = false → s.dbgBusy = true → exec .eDebugAccessGo s = .next s) ∧
    Claims.PartDebugAccess ∧
    (s.hallUp = true → s.ev.flag = false → s.dbgBusy = false → s.ev.w0.getLsbD 63 = true → ∃ s' : State, exec .eDebugAccessGo s = .next s' ∧ s'.dbgBusy = true ∧
      s'.dbgData = s.ev.w2 ∧ s'.hubWord 0x80200 = s.ev.w0 &&& 0xFF1FF ∧ s'.tiles = s.tiles ∧ s'.mem = s.mem) ∧
    (s.ev.x % 8 ≠ 0 ∨ s.hallUp = false → exec .eHubRegisterWrite s = .next s) ∧
    (s.hallUp = true → s.ev.x = 0x20000 → NMap.find s.nodeSet 0x20000 = none → exec .eHubRegisterWrite s = .next (s.setHub 0x20000 (s.ev.w0 &&& 0x0000FFFFFFFF0001))) ∧
    (s.hallUp = true → s.ev.x = 0x82000 → exec .eHubRegisterWrite s = .next (s.rollAll.setHub 0x82000 (s.ev.w0 &&& 0xFFFF))) ∧
    (s.hallUp = true → s.ev.x = 0x82100 → NMap.find s.nodeSet 0x82100 = none → exec .eHubRegisterWrite s = .next (s.setHub 0x82100 (s.ev.w0 &&& 0x1FFFF))) ∧
    (∀ t b, s.hallUp = true → 0x81000 ≤ s.ev.x → s.ev.x < 0x82000 → s.ev.x % 0x200 < 0x180 → s.ev.x % 8 = 0 → NMap.find s.nodeSet s.ev.x = some (t, b) →
      exec .eHubRegisterWrite s = .next (s.setHub s.ev.x (s.ev.w0 &&& 0x7FFFFFFFF ||| (if t = s.now then b else 0))))

/-- O60 (tier 2): links, errors, heat, reset, readiness, measurements and keys (R384, R410 to R423). The chip number takes its first value; a port
learns its peer, counts its frames and goes down past its policy; an error window ends with its counts; a temperature sets the level; reset keeps
memory and nothing of the tiles; readiness bits set; a measurement is extended by a hash; a report starts once and is written; keys
are installed and invalidated by slot, between accesses; bytes of main memory written under another key than their slot's read as that key's cipher, which is
a free value, and others as they are. A gated port wakes when a frame comes. No hall core acts before one is in service.
The model's readings here: log entries 16, 17, 18, 60, 66. -/
def Obligations.PackageSteps : Prop :=
  ∀ s : State,
    let p := s.ev.arc % 16
    let l := NMap.get s.links p Link.reset
    let links : Link → State := fun k => { s with links := NMap.set s.links p k }
    (s.hallUp = true → s.hubWord 0x70000 &&& 0xFF = 0 → exec .eChipNumberWrite s = .next (s.setHub 0x70000 (s.ev.w0 &&& 0xFF))) ∧
    (s.hubWord 0x70000 &&& 0xFF ≠ 0 → exec .eChipNumberWrite s = .next s) ∧
    (l.rdy = true → s.hubWord 0x70000 &&& 0xFF ≠ 0 → s.ev.x % 256 ≠ 0 → exec .eChipNumberExchange s = .next (links { l with
      peer := s.ev.x % 256, up := true, dup := decide (s.ev.x % 256 = (s.hubWord 0x70000).toNat % 256) })) ∧
    (l.rdy = true → s.island (976 + p) = 1 → exec .eLinkFrameReceive s = .next (s.setIsland (976 + p) 3)) ∧
    (l.rdy = true → s.island (976 + p) = 0 → s.ev.flag = true → ((peerOp s.ev.c s.ev.w1 s.ev.w2 = none ∧ s.ev.c ≠ 22) ∨ l.carries = false) → exec .eLinkFrameReceive s = .next (links { l with
      fec := l.fec + BitVec.ofNat 64 s.ev.x, tx := l.tx + BitVec.ofNat 64 s.ev.e, replay := l.replay + s.ev.e, rx := l.rx + 1 })) ∧
    (l.carries = true → s.island (976 + p) = 0 → s.ev.flag = true → s.ev.c = 12 → s.ev.g / 4 = 0 → s.ev.w0.toNat < 2 ^ 44 → s.ev.w0.toNat % 8 = 0 → s.reachable (redirect s.migs s.ev.w0.toNat) = true →
      ∃ (s' : State) (x : Req), exec .eLinkFrameReceive s = .next s' ∧ s'.reqs = s.reqs ++ [x] ∧ x.op = .swr ∧ x.who = .peer l.peer ∧ x.rel = true ∧ x.sc = 3 ∧
        x.pieces = [Piece.mk1 (.phys s.ev.w0.toNat) 3 8 s.ev.w1.toNat s.ev.w2.toNat 0 0] ∧ s'.mem = s.mem) ∧
    let same := NMap.get s.errWin (linkUnit p) 0 = s.ownCycles (linkUnit p) / 2 ^ 30
    (l.rdy = true → s.island (976 + p) = 0 → s.ev.flag = false → same → l.win + 1 ≤ NMap.get s.policy (linkUnit p) 16 → exec .eLinkFrameReceive s = .next (links { l with
      fec := l.fec + BitVec.ofNat 64 s.ev.x, tx := l.tx + BitVec.ofNat 64 s.ev.e, replay := l.replay + s.ev.e, bad := l.bad + 1, win := l.win + 1 })) ∧
    (l.rdy = true → s.island (976 + p) = 0 → s.ev.flag = false → same → NMap.get s.policy (linkUnit p) 16 < l.win + 1 → (∀ q ∈ s.regions, ∀ x ∈ q.2.links, x.2 ≠ p) →
      ∃ s' : State, exec .eLinkFrameReceive s = .next s' ∧ (NMap.get s'.links p Link.reset).down = true ∧ (NMap.get s'.links p Link.reset).rdy = false ∧
        (NMap.get s'.links p Link.reset).up = false ∧ s'.ready0.getLsbD (38 + p) = false ∧ s'.regions = s.regions) ∧
    (l.rdy = true → exec .eLinkReplay s = .next (links { l with rpl := l.rpl + BitVec.ofNat 64 (l.replay - s.ev.x) })) ∧
    (l.down = true → s.ev.flag = true → s.hallUp = true → exec .eLinkRetrain s = .next
      { links { l with rdy := true, down := false } with ready0 := s.ready0 ||| BitVec.ofNat 64 (2 ^ (38 + p)) }) ∧
    let win := s.ownCycles s.ev.id / 2 ^ 30
    (NMap.get s.errWin s.ev.id 0 = win → exec .eErrorWindowExpiry s = .next s) ∧
    (s.ev.id < linkUnit 0 → NMap.get s.errWin s.ev.id 0 ≠ win → exec .eErrorWindowExpiry s = .next { s with
      errWin := NMap.set s.errWin s.ev.id win, errs := NMap.erase s.errs s.ev.id, policy := NMap.set s.policy s.ev.id ((s.hubWord 0x82000).toNat % 256) }) ∧
    (∀ k y, k < 16 → s.ev.id = linkUnit k → NMap.find s.links k = some y → NMap.get s.errWin s.ev.id 0 ≠ win → exec .eErrorWindowExpiry s = .next { s with
      errWin := NMap.set s.errWin s.ev.id win, links := NMap.set s.links k { y with win := 0 },
      policy := NMap.set s.policy s.ev.id ((s.hubWord 0x82000).toNat / 256 % 256) }) ∧
    (∀ w target trip temp lvl, w = s.hubWord 0x82100 → target = ((w.toNat % 256 : Nat) : Int) → trip = ((w.toNat / 256 % 256 : Nat) : Int) → temp = s.ev.temp →
      -128 ≤ temp → temp < 128 → w.getLsbD 16 = true → (s.tile s.ev.g).tempAt ≠ s.acCycles s.ev.g / 65536 → lvl = (if trip ≤ temp then 8 else
        let base := min 7 (max 0 (temp - target) / 2).toNat
        if 2600 < s.watts then min 7 (base + 1) else base) → ∃ s' : State, exec .eTemperatureUpdate s = .next s' ∧
        s'.tile s.ev.g = { s.tile s.ev.g with temp := temp, lvl := lvl, tempAt := s.acCycles s.ev.g / 65536 } ∧ (∀ g, g ≠ s.ev.g → s'.tile g = s.tile g) ∧
        s'.compBuf.length = s.compBuf.length + (if (s.tile s.ev.g).lvl < 8 ∧ 8 ≤ lvl then 1 else 0)) ∧
    ((s.tile s.ev.g).tempAt = s.acCycles s.ev.g / 65536 → exec .eTemperatureUpdate s = .next s) ∧
    (s.wattsAt ≠ s.cycles 1006 / 2 ^ 20 → exec .ePowerAverageUpdate s = .next { s with watts := s.ev.x % 65536, wattsAt := s.cycles 1006 / 2 ^ 20 }) ∧
    (s.wattsAt = s.cycles 1006 / 2 ^ 20 → exec .ePowerAverageUpdate s = .next s) ∧
    (∃ s' : State, exec .eDeviceReset s = .next s' ∧ s'.mem = s.mem ∧ s'.blockWord = s.blockWord ∧ s'.regions = [] ∧ s'.reqs = [] ∧ s'.hub = [] ∧ s'.keys = [] ∧
      s'.streams = [] ∧ ∀ g, s'.tile g = Tile.reset) ∧
    (∀ e, s.ev.e = e → s.dead.contains e = false → (18 ≤ e ∧ e < 38 ∨ 54 ≤ e ∧ e < 57 ∨ e = 0) →
      exec .eFunctionReady s = .next { s with ready0 := s.ready0 ||| BitVec.ofNat 64 (2 ^ e) }) ∧
    (s.ev.e = 1 → exec .eFunctionReady s = .next s) ∧
    (∀ e, s.ev.e = e → s.dead.contains e = false → 2 ≤ e → e < 18 →
      (s.ready0.getLsbD 1 = true → exec .eFunctionReady s = .next { s with ready0 := s.ready0 ||| BitVec.ofNat 64 (2 ^ e) }) ∧
      (s.ready0.getLsbD 1 = false → exec .eFunctionReady s = .next s)) ∧
    (∀ k, k < 16 → s.ev.e = 38 + k → s.dead.contains (38 + k) = false → (NMap.get s.links k Link.reset).down = false →
      exec .eFunctionReady s = .next { s with ready0 := s.ready0 ||| BitVec.ofNat 64 (2 ^ (38 + k))
                                              links := NMap.set s.links k { NMap.get s.links k Link.reset with rdy := true } }) ∧
    (∀ e, s.ev.e = e → s.dead.contains e = false → 64 ≤ e → e < 128 →
      exec .eFunctionReady s = .next { s with ready1 := s.ready1 ||| BitVec.ofNat 64 (2 ^ (e - 64)) }) ∧
    (∀ k, s.ev.e = k → 0 < k → k < 8 → s.hallUp = true → exec .eMeasurementExtend s = .next { s with
      meas := NMap.set s.meas k (sha256 (NMap.get s.meas k (List.replicate 32 0) ++
        bytesOfWords [s.hubWord 0x80400, s.hubWord 0x80408, s.hubWord 0x80410, s.hubWord 0x80418])) }) ∧
    (s.ev.e = 0 → exec .eMeasurementExtend s = .next s) ∧
    (s.repBusy = false → s.hallUp = true → exec .eReportRequest s = .next { s with
      repBusy := true, repAddr := s.ev.w0, repNonce := bytesOfWords [s.hubWord 0x80460, s.hubWord 0x80468, s.hubWord 0x80470, s.hubWord 0x80478] }) ∧
    (∀ pa, s.repBusy = true → s.migs = [] → pa = bitsOf s.repAddr 51 6 * 64 → s.reachable pa = true → s.reachable (pa + 8207) = true → ∃ s' : State, exec .eReportWritten s = .next s' ∧
      s'.repBusy = false ∧ s'.repCount = s.repCount + 1 ∧ Memory.readN s'.mem pa 4 = 0x52545431 ∧
      ∀ a, a < pa ∨ pa + 8208 ≤ a → Memory.get s'.mem a = Memory.get s.mem a) ∧
    (∀ key, key = [s.hubWord 0x80500, s.hubWord 0x80508, s.hubWord 0x80510, s.hubWord 0x80518, s.hubWord 0x80520, s.hubWord 0x80528, s.hubWord 0x80530,
      s.hubWord 0x80538] → s.ev.w0.getLsbD 63 = true → s.hallUp = true → let k := s.ev.w0.toNat % 1024
      s.midAccess k = false → exec .eKeyInstall s = .next { s with keys := NMap.set s.keys k key }) ∧
    (s.ev.w0.getLsbD 63 = false → s.hallUp = true → s.midAccess (s.ev.w0.toNat % 1024) = false →
      exec .eKeyInstall s = .next { s with keys := NMap.erase s.keys (s.ev.w0.toNat % 1024) }) ∧
    (s.midAccess (s.ev.w0.toNat % 1024) = true → exec .eKeyInstall s = .next s) ∧
    (∀ a slot key, a < vaultBase → NMap.find s.keys slot = some key →
      (NMap.find s.keyed (a / 16) = none ∨ NMap.find s.keyed (a / 16) = some key → s.readUnder a 1 (some slot) = s.readAt a 1) ∧
      (∀ old, NMap.find s.keyed (a / 16) = some old → old ≠ key → s.readUnder a 1 (some slot) =
        ((Config.rekeyed old key (16 * (a / 16)) (Memory.readBytes s.mem (16 * (a / 16)) 16)).getD (a % 16) 0).toNat)) ∧
    (∀ a slot, vaultBase ≤ a → s.readUnder a 1 (some slot) = s.readAt a 1)
end

