-- ==== Sys2Proof/Laws/NMap.lean ====
section
/-! SUPPORT. The laws of sparse maps: what a key reads as after a write, and that writes keep the keys in order. -/

namespace Sys2Proof

variable {α : Type}

@[simp] theorem NMap.get_nil (k : Nat) (d : α) : NMap.get ([] : NMap α) k d = d := rfl

@[simp] theorem NMap.find_nil (k : Nat) : NMap.find ([] : NMap α) k = none := rfl

theorem NMap.get_eq_find (m : NMap α) (k : Nat) (d : α) : NMap.get m k d = (NMap.find m k).getD d := by
  induction m with
  | nil => rfl
  | cons x r ih =>
    obtain ⟨k', v⟩ := x
    by_cases h : k' = k <;> simp [NMap.get, NMap.find, h, ih]

@[simp] theorem NMap.find_set_same (m : NMap α) (k : Nat) (v : α) : NMap.find (NMap.set m k v) k = some v := by
  induction m with
  | nil => simp [NMap.set, NMap.find]
  | cons x r ih =>
    obtain ⟨k', v'⟩ := x
    by_cases h1 : k < k'
    · simp [NMap.set, NMap.find, h1]
    · by_cases h2 : k' = k <;> simp [NMap.set, NMap.find, h1, h2, ih]

theorem NMap.find_set_other (m : NMap α) {k j : Nat} (v : α) (h : k ≠ j) : NMap.find (NMap.set m k v) j = NMap.find m j := by
  induction m with
  | nil => simp [NMap.set, NMap.find, h]
  | cons x r ih =>
    obtain ⟨k', v'⟩ := x
    by_cases h1 : k < k'
    · simp [NMap.set, NMap.find, h1, h]
    · by_cases h2 : k' = k
      · subst h2; simp [NMap.set, NMap.find, h]
      · simp only [NMap.set, h1, h2, if_false, NMap.find, ih]

theorem NMap.find_set (m : NMap α) (k j : Nat) (v : α) :
    NMap.find (NMap.set m k v) j = if k = j then some v else NMap.find m j := by
  by_cases h : k = j
  · subst h; simp
  · simp [h, NMap.find_set_other m v h]

@[simp] theorem NMap.get_set_same (m : NMap α) (k : Nat) (v d : α) : NMap.get (NMap.set m k v) k d = v := by
  simp [NMap.get_eq_find]

theorem NMap.get_set_other (m : NMap α) {k j : Nat} (v d : α) (h : k ≠ j) : NMap.get (NMap.set m k v) j d = NMap.get m j d := by
  simp [NMap.get_eq_find, NMap.find_set_other m v h]

theorem NMap.get_set (m : NMap α) (k j : Nat) (v d : α) :
    NMap.get (NMap.set m k v) j d = if k = j then v else NMap.get m j d := by
  by_cases h : k = j
  · subst h; simp
  · simp [h, NMap.get_set_other m v d h]

theorem NMap.find_erase (m : NMap α) (k j : Nat) : NMap.find (NMap.erase m k) j = if k = j then none else NMap.find m j := by
  induction m with
  | nil => simp [NMap.erase, NMap.find]
  | cons x r ih =>
    obtain ⟨k', v'⟩ := x
    by_cases h1 : k' = k
    · simp only [NMap.erase, h1, if_true, NMap.find, ih]
      by_cases h2 : k = j <;> simp [h2]
    · simp only [NMap.erase, h1, if_false, NMap.find, ih]
      by_cases h2 : k = j
      · subst h2; simp [h1]
      · simp [h2]

theorem NMap.get_erase (m : NMap α) (k j : Nat) (d : α) :
    NMap.get (NMap.erase m k) j d = if k = j then d else NMap.get m j d := by
  by_cases h : k = j <;> simp [NMap.get_eq_find, NMap.find_erase, h]

/-- Every key of the map is at least `n`. -/
def NMap.above (m : NMap α) (n : Nat) : Prop := ∀ x ∈ m, n < x.1

theorem NMap.sorted_cons (k : Nat) (v : α) (m : NMap α) :
    NMap.sorted ((k, v) :: m) = true ↔ NMap.above m k ∧ NMap.sorted m = true := by
  induction m generalizing k v with
  | nil => simp [NMap.sorted, NMap.above]
  | cons x r ih =>
    obtain ⟨k', v'⟩ := x
    simp only [NMap.sorted, Bool.and_eq_true, decide_eq_true_eq, NMap.above, List.mem_cons, forall_eq_or_imp]
    constructor
    · rintro ⟨h1, h2⟩
      exact ⟨⟨h1, fun y hy => Nat.lt_trans h1 (((ih k' v').1 h2).1 y hy)⟩, h2⟩
    · rintro ⟨⟨h1, _⟩, h2⟩
      exact ⟨h1, h2⟩

theorem NMap.above_set {m : NMap α} {k n : Nat} (v : α) (h : NMap.above m n) (hk : n < k) : NMap.above (NMap.set m k v) n := by
  induction m with
  | nil => simpa [NMap.set, NMap.above] using hk
  | cons x r ih =>
    obtain ⟨k', v'⟩ := x
    have hr : NMap.above r n := fun y hy => h y (List.mem_cons_of_mem _ hy)
    have hx : n < k' := h (k', v') (List.mem_cons_self ..)
    unfold NMap.set
    split
    · intro y hy
      rcases List.mem_cons.1 hy with rfl | hy
      · exact hk
      · exact h y hy
    · split
      · intro y hy
        rcases List.mem_cons.1 hy with rfl | hy
        · exact hk
        · exact hr y hy
      · intro y hy
        rcases List.mem_cons.1 hy with rfl | hy
        · exact hx
        · exact ih hr y hy

/-- A write keeps the keys strictly rising. -/
theorem NMap.sorted_set {m : NMap α} (k : Nat) (v : α) (h : NMap.sorted m = true) : NMap.sorted (NMap.set m k v) = true := by
  induction m with
  | nil => rfl
  | cons x r ih =>
    obtain ⟨k', v'⟩ := x
    have h' := (NMap.sorted_cons k' v' r).1 h
    unfold NMap.set
    split
    · rename_i hlt
      refine (NMap.sorted_cons _ _ _).2 ⟨?_, h⟩
      intro y hy
      rcases List.mem_cons.1 hy with rfl | hy
      · exact hlt
      · exact Nat.lt_trans hlt (h'.1 y hy)
    · split
      · rename_i heq
        subst heq
        exact (NMap.sorted_cons _ _ _).2 ⟨h'.1, h'.2⟩
      · refine (NMap.sorted_cons _ _ _).2 ⟨NMap.above_set v h'.1 (by omega), ih h'.2⟩

theorem NMap.mem_erase {m : NMap α} {k : Nat} {x : Nat × α} (h : x ∈ NMap.erase m k) : x ∈ m := by
  induction m with
  | nil => simp [NMap.erase] at h
  | cons y r ih =>
    obtain ⟨k', v'⟩ := y
    unfold NMap.erase at h
    split at h
    · exact List.mem_cons_of_mem _ (ih h)
    · rcases List.mem_cons.1 h with rfl | h
      · exact List.mem_cons_self ..
      · exact List.mem_cons_of_mem _ (ih h)

/-- Taking a key out keeps the keys strictly rising. -/
theorem NMap.sorted_erase {m : NMap α} (k : Nat) (h : NMap.sorted m = true) : NMap.sorted (NMap.erase m k) = true := by
  induction m with
  | nil => rfl
  | cons x r ih =>
    obtain ⟨k', v'⟩ := x
    have h' := (NMap.sorted_cons k' v' r).1 h
    unfold NMap.erase
    split
    · exact ih h'.2
    · exact (NMap.sorted_cons _ _ _).2 ⟨fun y hy => h'.1 y (NMap.mem_erase hy), ih h'.2⟩

theorem NMap.mem_set {m : NMap α} {k : Nat} {v : α} {x : Nat × α} (h : x ∈ NMap.set m k v) : x = (k, v) ∨ x ∈ m := by
  induction m with
  | nil => simpa [NMap.set] using h
  | cons y r ih =>
    obtain ⟨k', v'⟩ := y
    unfold NMap.set at h
    split at h
    · rcases List.mem_cons.1 h with rfl | h
      · exact .inl rfl
      · exact .inr h
    · split at h
      · rcases List.mem_cons.1 h with rfl | h
        · exact .inl rfl
        · exact .inr (List.mem_cons_of_mem _ h)
      · rcases List.mem_cons.1 h with rfl | h
        · exact .inr (List.mem_cons_self ..)
        · rcases ih h with rfl | h
          · exact .inl rfl
          · exact .inr (List.mem_cons_of_mem _ h)

end Sys2Proof
end

