-- ==== Sys2Proof/Laws/Memory.lean ====
section
/-! SUPPORT. The laws of memory: every write keeps the canonical form, a byte written reads back, and other bytes stay. -/

namespace Sys2Proof.Machine

theorem Memory.wf_iff (m : Memory) : Memory.wf m = true ↔ NMap.sorted m = true ∧ ∀ x ∈ m, x.2 ≠ Memory.blank := by
  simp [Memory.wf]

/-- A byte write keeps the canonical form. -/
theorem Memory.wf_set {m : Memory} (a : Nat) (b : Byte) (h : Memory.wf m = true) : Memory.wf (Memory.set m a b) = true := by
  rw [Memory.wf_iff] at h ⊢
  unfold Memory.set
  split
  · exact ⟨NMap.sorted_erase a h.1, fun x hx => h.2 x (NMap.mem_erase hx)⟩
  · rename_i hb
    refine ⟨NMap.sorted_set a b h.1, fun x hx => ?_⟩
    rcases NMap.mem_set hx with rfl | hx
    · exact hb
    · exact h.2 x hx

theorem Memory.wf_writeN {m : Memory} (a n v : Nat) (h : Memory.wf m = true) : Memory.wf (Memory.writeN m a n v) = true := by
  induction n generalizing m a v with
  | zero => exact h
  | succ n ih => exact ih _ _ (Memory.wf_set a _ h)

theorem Memory.wf_writeBytes {m : Memory} (a : Nat) (l : List Byte) (h : Memory.wf m = true) :
    Memory.wf (Memory.writeBytes m a l) = true := by
  induction l generalizing m a with
  | nil => exact h
  | cons b r ih => exact ih _ (Memory.wf_set a b h)

theorem Memory.wf_foldl {β : Type} (l : List β) (f : β → Nat) (b : β → Byte) {m : Memory} (h : Memory.wf m = true) :
    Memory.wf (l.foldl (fun m x => Memory.set m (f x) (b x)) m) = true := by
  induction l generalizing m with
  | nil => exact h
  | cons x r ih => exact ih (Memory.wf_set _ _ h)

/-- What a byte reads as after a byte write. -/
theorem Memory.get_set (m : Memory) (a j : Nat) (b : Byte) :
    Memory.get (Memory.set m a b) j = if a = j then b else Memory.get m j := by
  unfold Memory.get Memory.set
  split
  · rename_i hb
    rw [NMap.get_erase, hb]
  · rw [NMap.get_set]

@[simp] theorem Memory.get_set_same (m : Memory) (a : Nat) (b : Byte) : Memory.get (Memory.set m a b) a = b := by
  simp [Memory.get_set]

/-- A write of `n` bytes leaves every other byte. -/
theorem Memory.get_writeN_other (m : Memory) (a n v j : Nat) (h : j < a ∨ a + n ≤ j) :
    Memory.get (Memory.writeN m a n v) j = Memory.get m j := by
  induction n generalizing m a v with
  | zero => rfl
  | succ n ih =>
    rw [Memory.writeN, ih _ _ _ (by omega), Memory.get_set]
    simp; omega

theorem Memory.get_writeBytes_other (m : Memory) (a j : Nat) (l : List Byte) (h : j < a ∨ a + l.length ≤ j) :
    Memory.get (Memory.writeBytes m a l) j = Memory.get m j := by
  induction l generalizing m a with
  | nil => rfl
  | cons b r ih =>
    simp only [List.length_cons] at h
    rw [Memory.writeBytes, ih _ _ (by omega), Memory.get_set]
    simp; omega

theorem Memory.readN_congr {m m' : Memory} (a n : Nat) (h : ∀ j, a ≤ j → j < a + n → Memory.get m j = Memory.get m' j) :
    Memory.readN m a n = Memory.readN m' a n := by
  induction n generalizing a with
  | zero => rfl
  | succ n ih =>
    rw [Memory.readN, Memory.readN, h a (by omega) (by omega), ih (a + 1) (fun j h1 h2 => h j (by omega) (by omega))]

/-- A read after a write to the same place gives the value written. -/
theorem Memory.readN_writeN (m : Memory) (a n v : Nat) : Memory.readN (Memory.writeN m a n v) a n = v % 256 ^ n := by
  induction n generalizing m a v with
  | zero => simp [Memory.readN, Nat.mod_one]
  | succ n ih =>
    rw [Memory.writeN, Memory.readN, Memory.get_writeN_other _ _ _ _ _ (by omega), Memory.get_set_same, ih]
    have hb : (BitVec.ofNat 8 v).toNat = v % 256 := by simp
    rw [hb, Nat.pow_succ, Nat.mul_comm (256 ^ n) 256, Nat.mod_mul]

/-! Keyed writes (R99, R113): what they can change, said once. -/

/-- A state whose memory, pending writes and keys alone differ from another's. -/
def State.sameBut (s s' : State) : Prop := s' = { s with mem := s'.mem, stale := s'.stale, keyed := s'.keyed }

theorem State.sameBut_trans {s t u : State} (h : s.sameBut t) (k : t.sameBut u) : s.sameBut u := by
  unfold State.sameBut at *
  rw [k, h]

/-- The units a write touches taking another key changes memory, pending writes and keys alone, and keeps the canonical form. -/
theorem State.keyTag_spec (s : State) (a n : Nat) (slot : Option Nat) :
    s.sameBut (s.keyTag a n slot) ∧ (Memory.wf s.mem = true → Memory.wf (s.keyTag a n slot).mem = true) := by
  unfold State.keyTag
  split
  · exact ⟨rfl, id⟩
  · rename_i key hk
    clear hk
    generalize unitsOf a n = l
    induction l generalizing s with
    | nil => exact ⟨rfl, id⟩
    | cons u l ih =>
      simp only [List.foldl_cons]
      have step : ∀ t : State, s.sameBut t ∧ (Memory.wf s.mem = true → Memory.wf t.mem = true) → s.sameBut (l.foldl _ t) ∧ (Memory.wf s.mem = true → Memory.wf (l.foldl _ t).mem = true) :=
        fun t ht => ⟨State.sameBut_trans ht.1 (ih t).1, fun hw => (ih t).2 (ht.2 hw)⟩
      split
      · split
        · exact ih s
        · exact step _ ⟨rfl, Memory.wf_writeBytes _ _⟩
      · exact step _ ⟨rfl, id⟩

/-- A program's write under a key slot changes memory, pending writes and keys alone, and keeps the canonical form. -/
theorem State.putPa_spec (s : State) (pa n v : Nat) (slot : Option Nat) :
    s.sameBut (s.putPa pa n v slot) ∧ (Memory.wf s.mem = true → Memory.wf (s.putPa pa n v slot).mem = true) := by
  have h := s.keyTag_spec (redirect s.migs pa) n slot
  refine ⟨State.sameBut_trans h.1 rfl, fun hw => Memory.wf_writeN _ _ _ (h.2 hw)⟩

end Sys2Proof.Machine
end

