-- ==== Sys2Proof/Laws/State.lean ====
section
/-! SUPPORT. The laws of the state's accessors: what each update leaves alone, field by field, and what it changes. -/

namespace Sys2Proof.Machine.State

/-! `setSite`: `site` may change; every other field stays. -/

@[simp] theorem setSite_agenda (s : State) (x : Site) : (s.setSite x).agenda = s.agenda := rfl
@[simp] theorem setSite_tick (s : State) (x : Site) : (s.setSite x).tick = s.tick := rfl
@[simp] theorem setSite_now (s : State) (x : Site) : (s.setSite x).now = s.now := rfl
@[simp] theorem setSite_resetAt (s : State) (x : Site) : (s.setSite x).resetAt = s.resetAt := rfl
@[simp] theorem setSite_free (s : State) (x : Site) : (s.setSite x).free = s.free := rfl
@[simp] theorem setSite_ev (s : State) (x : Site) : (s.setSite x).ev = s.ev := rfl
@[simp] theorem setSite_begun (s : State) (x : Site) : (s.setSite x).begun = s.begun := rfl
@[simp] theorem setSite_nextId (s : State) (x : Site) : (s.setSite x).nextId = s.nextId := rfl
@[simp] theorem setSite_reqs (s : State) (x : Site) : (s.setSite x).reqs = s.reqs := rfl
@[simp] theorem setSite_orphans (s : State) (x : Site) : (s.setSite x).orphans = s.orphans := rfl
@[simp] theorem setSite_tiles (s : State) (x : Site) : (s.setSite x).tiles = s.tiles := rfl
@[simp] theorem setSite_regions (s : State) (x : Site) : (s.setSite x).regions = s.regions := rfl
@[simp] theorem setSite_mem (s : State) (x : Site) : (s.setSite x).mem = s.mem := rfl
@[simp] theorem setSite_stale (s : State) (x : Site) : (s.setSite x).stale = s.stale := rfl
@[simp] theorem setSite_keyed (s : State) (x : Site) : (s.setSite x).keyed = s.keyed := rfl
@[simp] theorem setSite_blockWord (s : State) (x : Site) : (s.setSite x).blockWord = s.blockWord := rfl
@[simp] theorem setSite_bad (s : State) (x : Site) : (s.setSite x).bad = s.bad := rfl
@[simp] theorem setSite_vaults (s : State) (x : Site) : (s.setSite x).vaults = s.vaults := rfl
@[simp] theorem setSite_migs (s : State) (x : Site) : (s.setSite x).migs = s.migs := rfl
@[simp] theorem setSite_ptrs (s : State) (x : Site) : (s.setSite x).ptrs = s.ptrs := rfl
@[simp] theorem setSite_shooting (s : State) (x : Site) : (s.setSite x).shooting = s.shooting := rfl
@[simp] theorem setSite_shootSeq (s : State) (x : Site) : (s.setSite x).shootSeq = s.shootSeq := rfl
@[simp] theorem setSite_shootLog (s : State) (x : Site) : (s.setSite x).shootLog = s.shootLog := rfl
@[simp] theorem setSite_faults (s : State) (x : Site) : (s.setSite x).faults = s.faults := rfl
@[simp] theorem setSite_hub (s : State) (x : Site) : (s.setSite x).hub = s.hub := rfl
@[simp] theorem setSite_streams (s : State) (x : Site) : (s.setSite x).streams = s.streams := rfl
@[simp] theorem setSite_appendRes (s : State) (x : Site) : (s.setSite x).appendRes = s.appendRes := rfl
@[simp] theorem setSite_readySeq (s : State) (x : Site) : (s.setSite x).readySeq = s.readySeq := rfl
@[simp] theorem setSite_instSeq (s : State) (x : Site) : (s.setSite x).instSeq = s.instSeq := rfl
@[simp] theorem setSite_pops (s : State) (x : Site) : (s.setSite x).pops = s.pops := rfl
@[simp] theorem setSite_rsv (s : State) (x : Site) : (s.setSite x).rsv = s.rsv := rfl
@[simp] theorem setSite_lastStream (s : State) (x : Site) : (s.setSite x).lastStream = s.lastStream := rfl
@[simp] theorem setSite_prod (s : State) (x : Site) : (s.setSite x).prod = s.prod := rfl
@[simp] theorem setSite_compBuf (s : State) (x : Site) : (s.setSite x).compBuf = s.compBuf := rfl
@[simp] theorem setSite_sent (s : State) (x : Site) : (s.setSite x).sent = s.sent := rfl
@[simp] theorem setSite_irqs (s : State) (x : Site) : (s.setSite x).irqs = s.irqs := rfl
@[simp] theorem setSite_tends (s : State) (x : Site) : (s.setSite x).tends = s.tends := rfl
@[simp] theorem setSite_tendSeq (s : State) (x : Site) : (s.setSite x).tendSeq = s.tendSeq := rfl
@[simp] theorem setSite_awards (s : State) (x : Site) : (s.setSite x).awards = s.awards := rfl
@[simp] theorem setSite_wdraws (s : State) (x : Site) : (s.setSite x).wdraws = s.wdraws := rfl
@[simp] theorem setSite_retends (s : State) (x : Site) : (s.setSite x).retends = s.retends := rfl
@[simp] theorem setSite_falls (s : State) (x : Site) : (s.setSite x).falls = s.falls := rfl
@[simp] theorem setSite_links (s : State) (x : Site) : (s.setSite x).links = s.links := rfl
@[simp] theorem setSite_ready0 (s : State) (x : Site) : (s.setSite x).ready0 = s.ready0 := rfl
@[simp] theorem setSite_ready1 (s : State) (x : Site) : (s.setSite x).ready1 = s.ready1 := rfl
@[simp] theorem setSite_dead (s : State) (x : Site) : (s.setSite x).dead = s.dead := rfl
@[simp] theorem setSite_stewTvec (s : State) (x : Site) : (s.setSite x).stewTvec = s.stewTvec := rfl
@[simp] theorem setSite_stewBusy (s : State) (x : Site) : (s.setSite x).stewBusy = s.stewBusy := rfl
@[simp] theorem setSite_stewRefused (s : State) (x : Site) : (s.setSite x).stewRefused = s.stewRefused := rfl
@[simp] theorem setSite_dbgBusy (s : State) (x : Site) : (s.setSite x).dbgBusy = s.dbgBusy := rfl
@[simp] theorem setSite_dbgData (s : State) (x : Site) : (s.setSite x).dbgData = s.dbgData := rfl
@[simp] theorem setSite_dbgCause (s : State) (x : Site) : (s.setSite x).dbgCause = s.dbgCause := rfl
@[simp] theorem setSite_dbgState (s : State) (x : Site) : (s.setSite x).dbgState = s.dbgState := rfl
@[simp] theorem setSite_meas (s : State) (x : Site) : (s.setSite x).meas = s.meas := rfl
@[simp] theorem setSite_repAddr (s : State) (x : Site) : (s.setSite x).repAddr = s.repAddr := rfl
@[simp] theorem setSite_repNonce (s : State) (x : Site) : (s.setSite x).repNonce = s.repNonce := rfl
@[simp] theorem setSite_repBusy (s : State) (x : Site) : (s.setSite x).repBusy = s.repBusy := rfl
@[simp] theorem setSite_repCount (s : State) (x : Site) : (s.setSite x).repCount = s.repCount := rfl
@[simp] theorem setSite_keys (s : State) (x : Site) : (s.setSite x).keys = s.keys := rfl
@[simp] theorem setSite_nodeSet (s : State) (x : Site) : (s.setSite x).nodeSet = s.nodeSet := rfl
@[simp] theorem setSite_errs (s : State) (x : Site) : (s.setSite x).errs = s.errs := rfl
@[simp] theorem setSite_policy (s : State) (x : Site) : (s.setSite x).policy = s.policy := rfl
@[simp] theorem setSite_errWin (s : State) (x : Site) : (s.setSite x).errWin = s.errWin := rfl
@[simp] theorem setSite_islands (s : State) (x : Site) : (s.setSite x).islands = s.islands := rfl
@[simp] theorem setSite_pausedAt (s : State) (x : Site) : (s.setSite x).pausedAt = s.pausedAt := rfl
@[simp] theorem setSite_pausedSum (s : State) (x : Site) : (s.setSite x).pausedSum = s.pausedSum := rfl
@[simp] theorem setSite_watts (s : State) (x : Site) : (s.setSite x).watts = s.watts := rfl
@[simp] theorem setSite_wattsAt (s : State) (x : Site) : (s.setSite x).wattsAt = s.wattsAt := rfl
@[simp] theorem setSite_intake (s : State) (x : Site) : (s.setSite x).intake = s.intake := rfl
@[simp] theorem setSite_hartRead (s : State) (x : Site) : (s.setSite x).hartRead = s.hartRead := rfl
@[simp] theorem setSite_ckpts (s : State) (x : Site) : (s.setSite x).ckpts = s.ckpts := rfl

/-! `setEv`: `ev` may change; every other field stays. -/

@[simp] theorem setEv_agenda (s : State) (v : EvArg) : (s.setEv v).agenda = s.agenda := rfl
@[simp] theorem setEv_tick (s : State) (v : EvArg) : (s.setEv v).tick = s.tick := rfl
@[simp] theorem setEv_now (s : State) (v : EvArg) : (s.setEv v).now = s.now := rfl
@[simp] theorem setEv_resetAt (s : State) (v : EvArg) : (s.setEv v).resetAt = s.resetAt := rfl
@[simp] theorem setEv_free (s : State) (v : EvArg) : (s.setEv v).free = s.free := rfl
@[simp] theorem setEv_site (s : State) (v : EvArg) : (s.setEv v).site = s.site := rfl
@[simp] theorem setEv_begun (s : State) (v : EvArg) : (s.setEv v).begun = s.begun := rfl
@[simp] theorem setEv_nextId (s : State) (v : EvArg) : (s.setEv v).nextId = s.nextId := rfl
@[simp] theorem setEv_reqs (s : State) (v : EvArg) : (s.setEv v).reqs = s.reqs := rfl
@[simp] theorem setEv_orphans (s : State) (v : EvArg) : (s.setEv v).orphans = s.orphans := rfl
@[simp] theorem setEv_tiles (s : State) (v : EvArg) : (s.setEv v).tiles = s.tiles := rfl
@[simp] theorem setEv_regions (s : State) (v : EvArg) : (s.setEv v).regions = s.regions := rfl
@[simp] theorem setEv_mem (s : State) (v : EvArg) : (s.setEv v).mem = s.mem := rfl
@[simp] theorem setEv_stale (s : State) (v : EvArg) : (s.setEv v).stale = s.stale := rfl
@[simp] theorem setEv_keyed (s : State) (v : EvArg) : (s.setEv v).keyed = s.keyed := rfl
@[simp] theorem setEv_blockWord (s : State) (v : EvArg) : (s.setEv v).blockWord = s.blockWord := rfl
@[simp] theorem setEv_bad (s : State) (v : EvArg) : (s.setEv v).bad = s.bad := rfl
@[simp] theorem setEv_vaults (s : State) (v : EvArg) : (s.setEv v).vaults = s.vaults := rfl
@[simp] theorem setEv_migs (s : State) (v : EvArg) : (s.setEv v).migs = s.migs := rfl
@[simp] theorem setEv_ptrs (s : State) (v : EvArg) : (s.setEv v).ptrs = s.ptrs := rfl
@[simp] theorem setEv_shooting (s : State) (v : EvArg) : (s.setEv v).shooting = s.shooting := rfl
@[simp] theorem setEv_shootSeq (s : State) (v : EvArg) : (s.setEv v).shootSeq = s.shootSeq := rfl
@[simp] theorem setEv_shootLog (s : State) (v : EvArg) : (s.setEv v).shootLog = s.shootLog := rfl
@[simp] theorem setEv_faults (s : State) (v : EvArg) : (s.setEv v).faults = s.faults := rfl
@[simp] theorem setEv_hub (s : State) (v : EvArg) : (s.setEv v).hub = s.hub := rfl
@[simp] theorem setEv_streams (s : State) (v : EvArg) : (s.setEv v).streams = s.streams := rfl
@[simp] theorem setEv_appendRes (s : State) (v : EvArg) : (s.setEv v).appendRes = s.appendRes := rfl
@[simp] theorem setEv_readySeq (s : State) (v : EvArg) : (s.setEv v).readySeq = s.readySeq := rfl
@[simp] theorem setEv_instSeq (s : State) (v : EvArg) : (s.setEv v).instSeq = s.instSeq := rfl
@[simp] theorem setEv_pops (s : State) (v : EvArg) : (s.setEv v).pops = s.pops := rfl
@[simp] theorem setEv_rsv (s : State) (v : EvArg) : (s.setEv v).rsv = s.rsv := rfl
@[simp] theorem setEv_lastStream (s : State) (v : EvArg) : (s.setEv v).lastStream = s.lastStream := rfl
@[simp] theorem setEv_prod (s : State) (v : EvArg) : (s.setEv v).prod = s.prod := rfl
@[simp] theorem setEv_compBuf (s : State) (v : EvArg) : (s.setEv v).compBuf = s.compBuf := rfl
@[simp] theorem setEv_sent (s : State) (v : EvArg) : (s.setEv v).sent = s.sent := rfl
@[simp] theorem setEv_irqs (s : State) (v : EvArg) : (s.setEv v).irqs = s.irqs := rfl
@[simp] theorem setEv_tends (s : State) (v : EvArg) : (s.setEv v).tends = s.tends := rfl
@[simp] theorem setEv_tendSeq (s : State) (v : EvArg) : (s.setEv v).tendSeq = s.tendSeq := rfl
@[simp] theorem setEv_awards (s : State) (v : EvArg) : (s.setEv v).awards = s.awards := rfl
@[simp] theorem setEv_wdraws (s : State) (v : EvArg) : (s.setEv v).wdraws = s.wdraws := rfl
@[simp] theorem setEv_retends (s : State) (v : EvArg) : (s.setEv v).retends = s.retends := rfl
@[simp] theorem setEv_falls (s : State) (v : EvArg) : (s.setEv v).falls = s.falls := rfl
@[simp] theorem setEv_links (s : State) (v : EvArg) : (s.setEv v).links = s.links := rfl
@[simp] theorem setEv_ready0 (s : State) (v : EvArg) : (s.setEv v).ready0 = s.ready0 := rfl
@[simp] theorem setEv_ready1 (s : State) (v : EvArg) : (s.setEv v).ready1 = s.ready1 := rfl
@[simp] theorem setEv_dead (s : State) (v : EvArg) : (s.setEv v).dead = s.dead := rfl
@[simp] theorem setEv_stewTvec (s : State) (v : EvArg) : (s.setEv v).stewTvec = s.stewTvec := rfl
@[simp] theorem setEv_stewBusy (s : State) (v : EvArg) : (s.setEv v).stewBusy = s.stewBusy := rfl
@[simp] theorem setEv_stewRefused (s : State) (v : EvArg) : (s.setEv v).stewRefused = s.stewRefused := rfl
@[simp] theorem setEv_dbgBusy (s : State) (v : EvArg) : (s.setEv v).dbgBusy = s.dbgBusy := rfl
@[simp] theorem setEv_dbgData (s : State) (v : EvArg) : (s.setEv v).dbgData = s.dbgData := rfl
@[simp] theorem setEv_dbgCause (s : State) (v : EvArg) : (s.setEv v).dbgCause = s.dbgCause := rfl
@[simp] theorem setEv_dbgState (s : State) (v : EvArg) : (s.setEv v).dbgState = s.dbgState := rfl
@[simp] theorem setEv_meas (s : State) (v : EvArg) : (s.setEv v).meas = s.meas := rfl
@[simp] theorem setEv_repAddr (s : State) (v : EvArg) : (s.setEv v).repAddr = s.repAddr := rfl
@[simp] theorem setEv_repNonce (s : State) (v : EvArg) : (s.setEv v).repNonce = s.repNonce := rfl
@[simp] theorem setEv_repBusy (s : State) (v : EvArg) : (s.setEv v).repBusy = s.repBusy := rfl
@[simp] theorem setEv_repCount (s : State) (v : EvArg) : (s.setEv v).repCount = s.repCount := rfl
@[simp] theorem setEv_keys (s : State) (v : EvArg) : (s.setEv v).keys = s.keys := rfl
@[simp] theorem setEv_nodeSet (s : State) (v : EvArg) : (s.setEv v).nodeSet = s.nodeSet := rfl
@[simp] theorem setEv_errs (s : State) (v : EvArg) : (s.setEv v).errs = s.errs := rfl
@[simp] theorem setEv_policy (s : State) (v : EvArg) : (s.setEv v).policy = s.policy := rfl
@[simp] theorem setEv_errWin (s : State) (v : EvArg) : (s.setEv v).errWin = s.errWin := rfl
@[simp] theorem setEv_islands (s : State) (v : EvArg) : (s.setEv v).islands = s.islands := rfl
@[simp] theorem setEv_pausedAt (s : State) (v : EvArg) : (s.setEv v).pausedAt = s.pausedAt := rfl
@[simp] theorem setEv_pausedSum (s : State) (v : EvArg) : (s.setEv v).pausedSum = s.pausedSum := rfl
@[simp] theorem setEv_watts (s : State) (v : EvArg) : (s.setEv v).watts = s.watts := rfl
@[simp] theorem setEv_wattsAt (s : State) (v : EvArg) : (s.setEv v).wattsAt = s.wattsAt := rfl
@[simp] theorem setEv_intake (s : State) (v : EvArg) : (s.setEv v).intake = s.intake := rfl
@[simp] theorem setEv_hartRead (s : State) (v : EvArg) : (s.setEv v).hartRead = s.hartRead := rfl
@[simp] theorem setEv_ckpts (s : State) (v : EvArg) : (s.setEv v).ckpts = s.ckpts := rfl

/-! `setAgenda`: `agenda` may change; every other field stays. -/

@[simp] theorem setAgenda_tick (s : State) (l : List Act) : (s.setAgenda l).tick = s.tick := rfl
@[simp] theorem setAgenda_now (s : State) (l : List Act) : (s.setAgenda l).now = s.now := rfl
@[simp] theorem setAgenda_resetAt (s : State) (l : List Act) : (s.setAgenda l).resetAt = s.resetAt := rfl
@[simp] theorem setAgenda_free (s : State) (l : List Act) : (s.setAgenda l).free = s.free := rfl
@[simp] theorem setAgenda_site (s : State) (l : List Act) : (s.setAgenda l).site = s.site := rfl
@[simp] theorem setAgenda_ev (s : State) (l : List Act) : (s.setAgenda l).ev = s.ev := rfl
@[simp] theorem setAgenda_begun (s : State) (l : List Act) : (s.setAgenda l).begun = s.begun := rfl
@[simp] theorem setAgenda_nextId (s : State) (l : List Act) : (s.setAgenda l).nextId = s.nextId := rfl
@[simp] theorem setAgenda_reqs (s : State) (l : List Act) : (s.setAgenda l).reqs = s.reqs := rfl
@[simp] theorem setAgenda_orphans (s : State) (l : List Act) : (s.setAgenda l).orphans = s.orphans := rfl
@[simp] theorem setAgenda_tiles (s : State) (l : List Act) : (s.setAgenda l).tiles = s.tiles := rfl
@[simp] theorem setAgenda_regions (s : State) (l : List Act) : (s.setAgenda l).regions = s.regions := rfl
@[simp] theorem setAgenda_mem (s : State) (l : List Act) : (s.setAgenda l).mem = s.mem := rfl
@[simp] theorem setAgenda_stale (s : State) (l : List Act) : (s.setAgenda l).stale = s.stale := rfl
@[simp] theorem setAgenda_keyed (s : State) (l : List Act) : (s.setAgenda l).keyed = s.keyed := rfl
@[simp] theorem setAgenda_blockWord (s : State) (l : List Act) : (s.setAgenda l).blockWord = s.blockWord := rfl
@[simp] theorem setAgenda_bad (s : State) (l : List Act) : (s.setAgenda l).bad = s.bad := rfl
@[simp] theorem setAgenda_vaults (s : State) (l : List Act) : (s.setAgenda l).vaults = s.vaults := rfl
@[simp] theorem setAgenda_migs (s : State) (l : List Act) : (s.setAgenda l).migs = s.migs := rfl
@[simp] theorem setAgenda_ptrs (s : State) (l : List Act) : (s.setAgenda l).ptrs = s.ptrs := rfl
@[simp] theorem setAgenda_shooting (s : State) (l : List Act) : (s.setAgenda l).shooting = s.shooting := rfl
@[simp] theorem setAgenda_shootSeq (s : State) (l : List Act) : (s.setAgenda l).shootSeq = s.shootSeq := rfl
@[simp] theorem setAgenda_shootLog (s : State) (l : List Act) : (s.setAgenda l).shootLog = s.shootLog := rfl
@[simp] theorem setAgenda_faults (s : State) (l : List Act) : (s.setAgenda l).faults = s.faults := rfl
@[simp] theorem setAgenda_hub (s : State) (l : List Act) : (s.setAgenda l).hub = s.hub := rfl
@[simp] theorem setAgenda_streams (s : State) (l : List Act) : (s.setAgenda l).streams = s.streams := rfl
@[simp] theorem setAgenda_appendRes (s : State) (l : List Act) : (s.setAgenda l).appendRes = s.appendRes := rfl
@[simp] theorem setAgenda_readySeq (s : State) (l : List Act) : (s.setAgenda l).readySeq = s.readySeq := rfl
@[simp] theorem setAgenda_instSeq (s : State) (l : List Act) : (s.setAgenda l).instSeq = s.instSeq := rfl
@[simp] theorem setAgenda_pops (s : State) (l : List Act) : (s.setAgenda l).pops = s.pops := rfl
@[simp] theorem setAgenda_rsv (s : State) (l : List Act) : (s.setAgenda l).rsv = s.rsv := rfl
@[simp] theorem setAgenda_lastStream (s : State) (l : List Act) : (s.setAgenda l).lastStream = s.lastStream := rfl
@[simp] theorem setAgenda_prod (s : State) (l : List Act) : (s.setAgenda l).prod = s.prod := rfl
@[simp] theorem setAgenda_compBuf (s : State) (l : List Act) : (s.setAgenda l).compBuf = s.compBuf := rfl
@[simp] theorem setAgenda_sent (s : State) (l : List Act) : (s.setAgenda l).sent = s.sent := rfl
@[simp] theorem setAgenda_irqs (s : State) (l : List Act) : (s.setAgenda l).irqs = s.irqs := rfl
@[simp] theorem setAgenda_tends (s : State) (l : List Act) : (s.setAgenda l).tends = s.tends := rfl
@[simp] theorem setAgenda_tendSeq (s : State) (l : List Act) : (s.setAgenda l).tendSeq = s.tendSeq := rfl
@[simp] theorem setAgenda_awards (s : State) (l : List Act) : (s.setAgenda l).awards = s.awards := rfl
@[simp] theorem setAgenda_wdraws (s : State) (l : List Act) : (s.setAgenda l).wdraws = s.wdraws := rfl
@[simp] theorem setAgenda_retends (s : State) (l : List Act) : (s.setAgenda l).retends = s.retends := rfl
@[simp] theorem setAgenda_falls (s : State) (l : List Act) : (s.setAgenda l).falls = s.falls := rfl
@[simp] theorem setAgenda_links (s : State) (l : List Act) : (s.setAgenda l).links = s.links := rfl
@[simp] theorem setAgenda_ready0 (s : State) (l : List Act) : (s.setAgenda l).ready0 = s.ready0 := rfl
@[simp] theorem setAgenda_ready1 (s : State) (l : List Act) : (s.setAgenda l).ready1 = s.ready1 := rfl
@[simp] theorem setAgenda_dead (s : State) (l : List Act) : (s.setAgenda l).dead = s.dead := rfl
@[simp] theorem setAgenda_stewTvec (s : State) (l : List Act) : (s.setAgenda l).stewTvec = s.stewTvec := rfl
@[simp] theorem setAgenda_stewBusy (s : State) (l : List Act) : (s.setAgenda l).stewBusy = s.stewBusy := rfl
@[simp] theorem setAgenda_stewRefused (s : State) (l : List Act) : (s.setAgenda l).stewRefused = s.stewRefused := rfl
@[simp] theorem setAgenda_dbgBusy (s : State) (l : List Act) : (s.setAgenda l).dbgBusy = s.dbgBusy := rfl
@[simp] theorem setAgenda_dbgData (s : State) (l : List Act) : (s.setAgenda l).dbgData = s.dbgData := rfl
@[simp] theorem setAgenda_dbgCause (s : State) (l : List Act) : (s.setAgenda l).dbgCause = s.dbgCause := rfl
@[simp] theorem setAgenda_dbgState (s : State) (l : List Act) : (s.setAgenda l).dbgState = s.dbgState := rfl
@[simp] theorem setAgenda_meas (s : State) (l : List Act) : (s.setAgenda l).meas = s.meas := rfl
@[simp] theorem setAgenda_repAddr (s : State) (l : List Act) : (s.setAgenda l).repAddr = s.repAddr := rfl
@[simp] theorem setAgenda_repNonce (s : State) (l : List Act) : (s.setAgenda l).repNonce = s.repNonce := rfl
@[simp] theorem setAgenda_repBusy (s : State) (l : List Act) : (s.setAgenda l).repBusy = s.repBusy := rfl
@[simp] theorem setAgenda_repCount (s : State) (l : List Act) : (s.setAgenda l).repCount = s.repCount := rfl
@[simp] theorem setAgenda_keys (s : State) (l : List Act) : (s.setAgenda l).keys = s.keys := rfl
@[simp] theorem setAgenda_nodeSet (s : State) (l : List Act) : (s.setAgenda l).nodeSet = s.nodeSet := rfl
@[simp] theorem setAgenda_errs (s : State) (l : List Act) : (s.setAgenda l).errs = s.errs := rfl
@[simp] theorem setAgenda_policy (s : State) (l : List Act) : (s.setAgenda l).policy = s.policy := rfl
@[simp] theorem setAgenda_errWin (s : State) (l : List Act) : (s.setAgenda l).errWin = s.errWin := rfl
@[simp] theorem setAgenda_islands (s : State) (l : List Act) : (s.setAgenda l).islands = s.islands := rfl
@[simp] theorem setAgenda_pausedAt (s : State) (l : List Act) : (s.setAgenda l).pausedAt = s.pausedAt := rfl
@[simp] theorem setAgenda_pausedSum (s : State) (l : List Act) : (s.setAgenda l).pausedSum = s.pausedSum := rfl
@[simp] theorem setAgenda_watts (s : State) (l : List Act) : (s.setAgenda l).watts = s.watts := rfl
@[simp] theorem setAgenda_wattsAt (s : State) (l : List Act) : (s.setAgenda l).wattsAt = s.wattsAt := rfl
@[simp] theorem setAgenda_intake (s : State) (l : List Act) : (s.setAgenda l).intake = s.intake := rfl
@[simp] theorem setAgenda_hartRead (s : State) (l : List Act) : (s.setAgenda l).hartRead = s.hartRead := rfl
@[simp] theorem setAgenda_ckpts (s : State) (l : List Act) : (s.setAgenda l).ckpts = s.ckpts := rfl

/-! `updTile`: `tiles` may change; every other field stays. -/

@[simp] theorem updTile_agenda (s : State) (g : Nat) (f : Tile → Tile) : (s.updTile g f).agenda = s.agenda := rfl
@[simp] theorem updTile_tick (s : State) (g : Nat) (f : Tile → Tile) : (s.updTile g f).tick = s.tick := rfl
@[simp] theorem updTile_now (s : State) (g : Nat) (f : Tile → Tile) : (s.updTile g f).now = s.now := rfl
@[simp] theorem updTile_resetAt (s : State) (g : Nat) (f : Tile → Tile) : (s.updTile g f).resetAt = s.resetAt := rfl
@[simp] theorem updTile_free (s : State) (g : Nat) (f : Tile → Tile) : (s.updTile g f).free = s.free := rfl
@[simp] theorem updTile_site (s : State) (g : Nat) (f : Tile → Tile) : (s.updTile g f).site = s.site := rfl
@[simp] theorem updTile_ev (s : State) (g : Nat) (f : Tile → Tile) : (s.updTile g f).ev = s.ev := rfl
@[simp] theorem updTile_begun (s : State) (g : Nat) (f : Tile → Tile) : (s.updTile g f).begun = s.begun := rfl
@[simp] theorem updTile_nextId (s : State) (g : Nat) (f : Tile → Tile) : (s.updTile g f).nextId = s.nextId := rfl
@[simp] theorem updTile_reqs (s : State) (g : Nat) (f : Tile → Tile) : (s.updTile g f).reqs = s.reqs := rfl
@[simp] theorem updTile_orphans (s : State) (g : Nat) (f : Tile → Tile) : (s.updTile g f).orphans = s.orphans := rfl
@[simp] theorem updTile_regions (s : State) (g : Nat) (f : Tile → Tile) : (s.updTile g f).regions = s.regions := rfl
@[simp] theorem updTile_mem (s : State) (g : Nat) (f : Tile → Tile) : (s.updTile g f).mem = s.mem := rfl
@[simp] theorem updTile_stale (s : State) (g : Nat) (f : Tile → Tile) : (s.updTile g f).stale = s.stale := rfl
@[simp] theorem updTile_keyed (s : State) (g : Nat) (f : Tile → Tile) : (s.updTile g f).keyed = s.keyed := rfl
@[simp] theorem updTile_blockWord (s : State) (g : Nat) (f : Tile → Tile) : (s.updTile g f).blockWord = s.blockWord := rfl
@[simp] theorem updTile_bad (s : State) (g : Nat) (f : Tile → Tile) : (s.updTile g f).bad = s.bad := rfl
@[simp] theorem updTile_vaults (s : State) (g : Nat) (f : Tile → Tile) : (s.updTile g f).vaults = s.vaults := rfl
@[simp] theorem updTile_migs (s : State) (g : Nat) (f : Tile → Tile) : (s.updTile g f).migs = s.migs := rfl
@[simp] theorem updTile_ptrs (s : State) (g : Nat) (f : Tile → Tile) : (s.updTile g f).ptrs = s.ptrs := rfl
@[simp] theorem updTile_shooting (s : State) (g : Nat) (f : Tile → Tile) : (s.updTile g f).shooting = s.shooting := rfl
@[simp] theorem updTile_shootSeq (s : State) (g : Nat) (f : Tile → Tile) : (s.updTile g f).shootSeq = s.shootSeq := rfl
@[simp] theorem updTile_shootLog (s : State) (g : Nat) (f : Tile → Tile) : (s.updTile g f).shootLog = s.shootLog := rfl
@[simp] theorem updTile_faults (s : State) (g : Nat) (f : Tile → Tile) : (s.updTile g f).faults = s.faults := rfl
@[simp] theorem updTile_hub (s : State) (g : Nat) (f : Tile → Tile) : (s.updTile g f).hub = s.hub := rfl
@[simp] theorem updTile_streams (s : State) (g : Nat) (f : Tile → Tile) : (s.updTile g f).streams = s.streams := rfl
@[simp] theorem updTile_appendRes (s : State) (g : Nat) (f : Tile → Tile) : (s.updTile g f).appendRes = s.appendRes := rfl
@[simp] theorem updTile_readySeq (s : State) (g : Nat) (f : Tile → Tile) : (s.updTile g f).readySeq = s.readySeq := rfl
@[simp] theorem updTile_instSeq (s : State) (g : Nat) (f : Tile → Tile) : (s.updTile g f).instSeq = s.instSeq := rfl
@[simp] theorem updTile_pops (s : State) (g : Nat) (f : Tile → Tile) : (s.updTile g f).pops = s.pops := rfl
@[simp] theorem updTile_rsv (s : State) (g : Nat) (f : Tile → Tile) : (s.updTile g f).rsv = s.rsv := rfl
@[simp] theorem updTile_lastStream (s : State) (g : Nat) (f : Tile → Tile) : (s.updTile g f).lastStream = s.lastStream := rfl
@[simp] theorem updTile_prod (s : State) (g : Nat) (f : Tile → Tile) : (s.updTile g f).prod = s.prod := rfl
@[simp] theorem updTile_compBuf (s : State) (g : Nat) (f : Tile → Tile) : (s.updTile g f).compBuf = s.compBuf := rfl
@[simp] theorem updTile_sent (s : State) (g : Nat) (f : Tile → Tile) : (s.updTile g f).sent = s.sent := rfl
@[simp] theorem updTile_irqs (s : State) (g : Nat) (f : Tile → Tile) : (s.updTile g f).irqs = s.irqs := rfl
@[simp] theorem updTile_tends (s : State) (g : Nat) (f : Tile → Tile) : (s.updTile g f).tends = s.tends := rfl
@[simp] theorem updTile_tendSeq (s : State) (g : Nat) (f : Tile → Tile) : (s.updTile g f).tendSeq = s.tendSeq := rfl
@[simp] theorem updTile_awards (s : State) (g : Nat) (f : Tile → Tile) : (s.updTile g f).awards = s.awards := rfl
@[simp] theorem updTile_wdraws (s : State) (g : Nat) (f : Tile → Tile) : (s.updTile g f).wdraws = s.wdraws := rfl
@[simp] theorem updTile_retends (s : State) (g : Nat) (f : Tile → Tile) : (s.updTile g f).retends = s.retends := rfl
@[simp] theorem updTile_falls (s : State) (g : Nat) (f : Tile → Tile) : (s.updTile g f).falls = s.falls := rfl
@[simp] theorem updTile_links (s : State) (g : Nat) (f : Tile → Tile) : (s.updTile g f).links = s.links := rfl
@[simp] theorem updTile_ready0 (s : State) (g : Nat) (f : Tile → Tile) : (s.updTile g f).ready0 = s.ready0 := rfl
@[simp] theorem updTile_ready1 (s : State) (g : Nat) (f : Tile → Tile) : (s.updTile g f).ready1 = s.ready1 := rfl
@[simp] theorem updTile_dead (s : State) (g : Nat) (f : Tile → Tile) : (s.updTile g f).dead = s.dead := rfl
@[simp] theorem updTile_stewTvec (s : State) (g : Nat) (f : Tile → Tile) : (s.updTile g f).stewTvec = s.stewTvec := rfl
@[simp] theorem updTile_stewBusy (s : State) (g : Nat) (f : Tile → Tile) : (s.updTile g f).stewBusy = s.stewBusy := rfl
@[simp] theorem updTile_stewRefused (s : State) (g : Nat) (f : Tile → Tile) : (s.updTile g f).stewRefused = s.stewRefused := rfl
@[simp] theorem updTile_dbgBusy (s : State) (g : Nat) (f : Tile → Tile) : (s.updTile g f).dbgBusy = s.dbgBusy := rfl
@[simp] theorem updTile_dbgData (s : State) (g : Nat) (f : Tile → Tile) : (s.updTile g f).dbgData = s.dbgData := rfl
@[simp] theorem updTile_dbgCause (s : State) (g : Nat) (f : Tile → Tile) : (s.updTile g f).dbgCause = s.dbgCause := rfl
@[simp] theorem updTile_dbgState (s : State) (g : Nat) (f : Tile → Tile) : (s.updTile g f).dbgState = s.dbgState := rfl
@[simp] theorem updTile_meas (s : State) (g : Nat) (f : Tile → Tile) : (s.updTile g f).meas = s.meas := rfl
@[simp] theorem updTile_repAddr (s : State) (g : Nat) (f : Tile → Tile) : (s.updTile g f).repAddr = s.repAddr := rfl
@[simp] theorem updTile_repNonce (s : State) (g : Nat) (f : Tile → Tile) : (s.updTile g f).repNonce = s.repNonce := rfl
@[simp] theorem updTile_repBusy (s : State) (g : Nat) (f : Tile → Tile) : (s.updTile g f).repBusy = s.repBusy := rfl
@[simp] theorem updTile_repCount (s : State) (g : Nat) (f : Tile → Tile) : (s.updTile g f).repCount = s.repCount := rfl
@[simp] theorem updTile_keys (s : State) (g : Nat) (f : Tile → Tile) : (s.updTile g f).keys = s.keys := rfl
@[simp] theorem updTile_nodeSet (s : State) (g : Nat) (f : Tile → Tile) : (s.updTile g f).nodeSet = s.nodeSet := rfl
@[simp] theorem updTile_errs (s : State) (g : Nat) (f : Tile → Tile) : (s.updTile g f).errs = s.errs := rfl
@[simp] theorem updTile_policy (s : State) (g : Nat) (f : Tile → Tile) : (s.updTile g f).policy = s.policy := rfl
@[simp] theorem updTile_errWin (s : State) (g : Nat) (f : Tile → Tile) : (s.updTile g f).errWin = s.errWin := rfl
@[simp] theorem updTile_islands (s : State) (g : Nat) (f : Tile → Tile) : (s.updTile g f).islands = s.islands := rfl
@[simp] theorem updTile_pausedAt (s : State) (g : Nat) (f : Tile → Tile) : (s.updTile g f).pausedAt = s.pausedAt := rfl
@[simp] theorem updTile_pausedSum (s : State) (g : Nat) (f : Tile → Tile) : (s.updTile g f).pausedSum = s.pausedSum := rfl
@[simp] theorem updTile_watts (s : State) (g : Nat) (f : Tile → Tile) : (s.updTile g f).watts = s.watts := rfl
@[simp] theorem updTile_wattsAt (s : State) (g : Nat) (f : Tile → Tile) : (s.updTile g f).wattsAt = s.wattsAt := rfl
@[simp] theorem updTile_intake (s : State) (g : Nat) (f : Tile → Tile) : (s.updTile g f).intake = s.intake := rfl
@[simp] theorem updTile_hartRead (s : State) (g : Nat) (f : Tile → Tile) : (s.updTile g f).hartRead = s.hartRead := rfl
@[simp] theorem updTile_ckpts (s : State) (g : Nat) (f : Tile → Tile) : (s.updTile g f).ckpts = s.ckpts := rfl

/-! `updTp`: `tiles` may change; every other field stays. -/

@[simp] theorem updTp_agenda (s : State) (g p : Nat) (f : Tp → Tp) : (s.updTp g p f).agenda = s.agenda := rfl
@[simp] theorem updTp_tick (s : State) (g p : Nat) (f : Tp → Tp) : (s.updTp g p f).tick = s.tick := rfl
@[simp] theorem updTp_now (s : State) (g p : Nat) (f : Tp → Tp) : (s.updTp g p f).now = s.now := rfl
@[simp] theorem updTp_resetAt (s : State) (g p : Nat) (f : Tp → Tp) : (s.updTp g p f).resetAt = s.resetAt := rfl
@[simp] theorem updTp_free (s : State) (g p : Nat) (f : Tp → Tp) : (s.updTp g p f).free = s.free := rfl
@[simp] theorem updTp_site (s : State) (g p : Nat) (f : Tp → Tp) : (s.updTp g p f).site = s.site := rfl
@[simp] theorem updTp_ev (s : State) (g p : Nat) (f : Tp → Tp) : (s.updTp g p f).ev = s.ev := rfl
@[simp] theorem updTp_begun (s : State) (g p : Nat) (f : Tp → Tp) : (s.updTp g p f).begun = s.begun := rfl
@[simp] theorem updTp_nextId (s : State) (g p : Nat) (f : Tp → Tp) : (s.updTp g p f).nextId = s.nextId := rfl
@[simp] theorem updTp_reqs (s : State) (g p : Nat) (f : Tp → Tp) : (s.updTp g p f).reqs = s.reqs := rfl
@[simp] theorem updTp_orphans (s : State) (g p : Nat) (f : Tp → Tp) : (s.updTp g p f).orphans = s.orphans := rfl
@[simp] theorem updTp_regions (s : State) (g p : Nat) (f : Tp → Tp) : (s.updTp g p f).regions = s.regions := rfl
@[simp] theorem updTp_mem (s : State) (g p : Nat) (f : Tp → Tp) : (s.updTp g p f).mem = s.mem := rfl
@[simp] theorem updTp_stale (s : State) (g p : Nat) (f : Tp → Tp) : (s.updTp g p f).stale = s.stale := rfl
@[simp] theorem updTp_keyed (s : State) (g p : Nat) (f : Tp → Tp) : (s.updTp g p f).keyed = s.keyed := rfl
@[simp] theorem updTp_blockWord (s : State) (g p : Nat) (f : Tp → Tp) : (s.updTp g p f).blockWord = s.blockWord := rfl
@[simp] theorem updTp_bad (s : State) (g p : Nat) (f : Tp → Tp) : (s.updTp g p f).bad = s.bad := rfl
@[simp] theorem updTp_vaults (s : State) (g p : Nat) (f : Tp → Tp) : (s.updTp g p f).vaults = s.vaults := rfl
@[simp] theorem updTp_migs (s : State) (g p : Nat) (f : Tp → Tp) : (s.updTp g p f).migs = s.migs := rfl
@[simp] theorem updTp_ptrs (s : State) (g p : Nat) (f : Tp → Tp) : (s.updTp g p f).ptrs = s.ptrs := rfl
@[simp] theorem updTp_shooting (s : State) (g p : Nat) (f : Tp → Tp) : (s.updTp g p f).shooting = s.shooting := rfl
@[simp] theorem updTp_shootSeq (s : State) (g p : Nat) (f : Tp → Tp) : (s.updTp g p f).shootSeq = s.shootSeq := rfl
@[simp] theorem updTp_shootLog (s : State) (g p : Nat) (f : Tp → Tp) : (s.updTp g p f).shootLog = s.shootLog := rfl
@[simp] theorem updTp_faults (s : State) (g p : Nat) (f : Tp → Tp) : (s.updTp g p f).faults = s.faults := rfl
@[simp] theorem updTp_hub (s : State) (g p : Nat) (f : Tp → Tp) : (s.updTp g p f).hub = s.hub := rfl
@[simp] theorem updTp_streams (s : State) (g p : Nat) (f : Tp → Tp) : (s.updTp g p f).streams = s.streams := rfl
@[simp] theorem updTp_appendRes (s : State) (g p : Nat) (f : Tp → Tp) : (s.updTp g p f).appendRes = s.appendRes := rfl
@[simp] theorem updTp_readySeq (s : State) (g p : Nat) (f : Tp → Tp) : (s.updTp g p f).readySeq = s.readySeq := rfl
@[simp] theorem updTp_instSeq (s : State) (g p : Nat) (f : Tp → Tp) : (s.updTp g p f).instSeq = s.instSeq := rfl
@[simp] theorem updTp_pops (s : State) (g p : Nat) (f : Tp → Tp) : (s.updTp g p f).pops = s.pops := rfl
@[simp] theorem updTp_rsv (s : State) (g p : Nat) (f : Tp → Tp) : (s.updTp g p f).rsv = s.rsv := rfl
@[simp] theorem updTp_lastStream (s : State) (g p : Nat) (f : Tp → Tp) : (s.updTp g p f).lastStream = s.lastStream := rfl
@[simp] theorem updTp_prod (s : State) (g p : Nat) (f : Tp → Tp) : (s.updTp g p f).prod = s.prod := rfl
@[simp] theorem updTp_compBuf (s : State) (g p : Nat) (f : Tp → Tp) : (s.updTp g p f).compBuf = s.compBuf := rfl
@[simp] theorem updTp_sent (s : State) (g p : Nat) (f : Tp → Tp) : (s.updTp g p f).sent = s.sent := rfl
@[simp] theorem updTp_irqs (s : State) (g p : Nat) (f : Tp → Tp) : (s.updTp g p f).irqs = s.irqs := rfl
@[simp] theorem updTp_tends (s : State) (g p : Nat) (f : Tp → Tp) : (s.updTp g p f).tends = s.tends := rfl
@[simp] theorem updTp_tendSeq (s : State) (g p : Nat) (f : Tp → Tp) : (s.updTp g p f).tendSeq = s.tendSeq := rfl
@[simp] theorem updTp_awards (s : State) (g p : Nat) (f : Tp → Tp) : (s.updTp g p f).awards = s.awards := rfl
@[simp] theorem updTp_wdraws (s : State) (g p : Nat) (f : Tp → Tp) : (s.updTp g p f).wdraws = s.wdraws := rfl
@[simp] theorem updTp_retends (s : State) (g p : Nat) (f : Tp → Tp) : (s.updTp g p f).retends = s.retends := rfl
@[simp] theorem updTp_falls (s : State) (g p : Nat) (f : Tp → Tp) : (s.updTp g p f).falls = s.falls := rfl
@[simp] theorem updTp_links (s : State) (g p : Nat) (f : Tp → Tp) : (s.updTp g p f).links = s.links := rfl
@[simp] theorem updTp_ready0 (s : State) (g p : Nat) (f : Tp → Tp) : (s.updTp g p f).ready0 = s.ready0 := rfl
@[simp] theorem updTp_ready1 (s : State) (g p : Nat) (f : Tp → Tp) : (s.updTp g p f).ready1 = s.ready1 := rfl
@[simp] theorem updTp_dead (s : State) (g p : Nat) (f : Tp → Tp) : (s.updTp g p f).dead = s.dead := rfl
@[simp] theorem updTp_stewTvec (s : State) (g p : Nat) (f : Tp → Tp) : (s.updTp g p f).stewTvec = s.stewTvec := rfl
@[simp] theorem updTp_stewBusy (s : State) (g p : Nat) (f : Tp → Tp) : (s.updTp g p f).stewBusy = s.stewBusy := rfl
@[simp] theorem updTp_stewRefused (s : State) (g p : Nat) (f : Tp → Tp) : (s.updTp g p f).stewRefused = s.stewRefused := rfl
@[simp] theorem updTp_dbgBusy (s : State) (g p : Nat) (f : Tp → Tp) : (s.updTp g p f).dbgBusy = s.dbgBusy := rfl
@[simp] theorem updTp_dbgData (s : State) (g p : Nat) (f : Tp → Tp) : (s.updTp g p f).dbgData = s.dbgData := rfl
@[simp] theorem updTp_dbgCause (s : State) (g p : Nat) (f : Tp → Tp) : (s.updTp g p f).dbgCause = s.dbgCause := rfl
@[simp] theorem updTp_dbgState (s : State) (g p : Nat) (f : Tp → Tp) : (s.updTp g p f).dbgState = s.dbgState := rfl
@[simp] theorem updTp_meas (s : State) (g p : Nat) (f : Tp → Tp) : (s.updTp g p f).meas = s.meas := rfl
@[simp] theorem updTp_repAddr (s : State) (g p : Nat) (f : Tp → Tp) : (s.updTp g p f).repAddr = s.repAddr := rfl
@[simp] theorem updTp_repNonce (s : State) (g p : Nat) (f : Tp → Tp) : (s.updTp g p f).repNonce = s.repNonce := rfl
@[simp] theorem updTp_repBusy (s : State) (g p : Nat) (f : Tp → Tp) : (s.updTp g p f).repBusy = s.repBusy := rfl
@[simp] theorem updTp_repCount (s : State) (g p : Nat) (f : Tp → Tp) : (s.updTp g p f).repCount = s.repCount := rfl
@[simp] theorem updTp_keys (s : State) (g p : Nat) (f : Tp → Tp) : (s.updTp g p f).keys = s.keys := rfl
@[simp] theorem updTp_nodeSet (s : State) (g p : Nat) (f : Tp → Tp) : (s.updTp g p f).nodeSet = s.nodeSet := rfl
@[simp] theorem updTp_errs (s : State) (g p : Nat) (f : Tp → Tp) : (s.updTp g p f).errs = s.errs := rfl
@[simp] theorem updTp_policy (s : State) (g p : Nat) (f : Tp → Tp) : (s.updTp g p f).policy = s.policy := rfl
@[simp] theorem updTp_errWin (s : State) (g p : Nat) (f : Tp → Tp) : (s.updTp g p f).errWin = s.errWin := rfl
@[simp] theorem updTp_islands (s : State) (g p : Nat) (f : Tp → Tp) : (s.updTp g p f).islands = s.islands := rfl
@[simp] theorem updTp_pausedAt (s : State) (g p : Nat) (f : Tp → Tp) : (s.updTp g p f).pausedAt = s.pausedAt := rfl
@[simp] theorem updTp_pausedSum (s : State) (g p : Nat) (f : Tp → Tp) : (s.updTp g p f).pausedSum = s.pausedSum := rfl
@[simp] theorem updTp_watts (s : State) (g p : Nat) (f : Tp → Tp) : (s.updTp g p f).watts = s.watts := rfl
@[simp] theorem updTp_wattsAt (s : State) (g p : Nat) (f : Tp → Tp) : (s.updTp g p f).wattsAt = s.wattsAt := rfl
@[simp] theorem updTp_intake (s : State) (g p : Nat) (f : Tp → Tp) : (s.updTp g p f).intake = s.intake := rfl
@[simp] theorem updTp_hartRead (s : State) (g p : Nat) (f : Tp → Tp) : (s.updTp g p f).hartRead = s.hartRead := rfl
@[simp] theorem updTp_ckpts (s : State) (g p : Nat) (f : Tp → Tp) : (s.updTp g p f).ckpts = s.ckpts := rfl

/-! `updCtx`: `tiles` may change; every other field stays. -/

@[simp] theorem updCtx_agenda (s : State) (g p c : Nat) (f : Ctx → Ctx) : (s.updCtx g p c f).agenda = s.agenda := rfl
@[simp] theorem updCtx_tick (s : State) (g p c : Nat) (f : Ctx → Ctx) : (s.updCtx g p c f).tick = s.tick := rfl
@[simp] theorem updCtx_now (s : State) (g p c : Nat) (f : Ctx → Ctx) : (s.updCtx g p c f).now = s.now := rfl
@[simp] theorem updCtx_resetAt (s : State) (g p c : Nat) (f : Ctx → Ctx) : (s.updCtx g p c f).resetAt = s.resetAt := rfl
@[simp] theorem updCtx_free (s : State) (g p c : Nat) (f : Ctx → Ctx) : (s.updCtx g p c f).free = s.free := rfl
@[simp] theorem updCtx_site (s : State) (g p c : Nat) (f : Ctx → Ctx) : (s.updCtx g p c f).site = s.site := rfl
@[simp] theorem updCtx_ev (s : State) (g p c : Nat) (f : Ctx → Ctx) : (s.updCtx g p c f).ev = s.ev := rfl
@[simp] theorem updCtx_begun (s : State) (g p c : Nat) (f : Ctx → Ctx) : (s.updCtx g p c f).begun = s.begun := rfl
@[simp] theorem updCtx_nextId (s : State) (g p c : Nat) (f : Ctx → Ctx) : (s.updCtx g p c f).nextId = s.nextId := rfl
@[simp] theorem updCtx_reqs (s : State) (g p c : Nat) (f : Ctx → Ctx) : (s.updCtx g p c f).reqs = s.reqs := rfl
@[simp] theorem updCtx_orphans (s : State) (g p c : Nat) (f : Ctx → Ctx) : (s.updCtx g p c f).orphans = s.orphans := rfl
@[simp] theorem updCtx_regions (s : State) (g p c : Nat) (f : Ctx → Ctx) : (s.updCtx g p c f).regions = s.regions := rfl
@[simp] theorem updCtx_mem (s : State) (g p c : Nat) (f : Ctx → Ctx) : (s.updCtx g p c f).mem = s.mem := rfl
@[simp] theorem updCtx_stale (s : State) (g p c : Nat) (f : Ctx → Ctx) : (s.updCtx g p c f).stale = s.stale := rfl
@[simp] theorem updCtx_keyed (s : State) (g p c : Nat) (f : Ctx → Ctx) : (s.updCtx g p c f).keyed = s.keyed := rfl
@[simp] theorem updCtx_blockWord (s : State) (g p c : Nat) (f : Ctx → Ctx) : (s.updCtx g p c f).blockWord = s.blockWord := rfl
@[simp] theorem updCtx_bad (s : State) (g p c : Nat) (f : Ctx → Ctx) : (s.updCtx g p c f).bad = s.bad := rfl
@[simp] theorem updCtx_vaults (s : State) (g p c : Nat) (f : Ctx → Ctx) : (s.updCtx g p c f).vaults = s.vaults := rfl
@[simp] theorem updCtx_migs (s : State) (g p c : Nat) (f : Ctx → Ctx) : (s.updCtx g p c f).migs = s.migs := rfl
@[simp] theorem updCtx_ptrs (s : State) (g p c : Nat) (f : Ctx → Ctx) : (s.updCtx g p c f).ptrs = s.ptrs := rfl
@[simp] theorem updCtx_shooting (s : State) (g p c : Nat) (f : Ctx → Ctx) : (s.updCtx g p c f).shooting = s.shooting := rfl
@[simp] theorem updCtx_shootSeq (s : State) (g p c : Nat) (f : Ctx → Ctx) : (s.updCtx g p c f).shootSeq = s.shootSeq := rfl
@[simp] theorem updCtx_shootLog (s : State) (g p c : Nat) (f : Ctx → Ctx) : (s.updCtx g p c f).shootLog = s.shootLog := rfl
@[simp] theorem updCtx_faults (s : State) (g p c : Nat) (f : Ctx → Ctx) : (s.updCtx g p c f).faults = s.faults := rfl
@[simp] theorem updCtx_hub (s : State) (g p c : Nat) (f : Ctx → Ctx) : (s.updCtx g p c f).hub = s.hub := rfl
@[simp] theorem updCtx_streams (s : State) (g p c : Nat) (f : Ctx → Ctx) : (s.updCtx g p c f).streams = s.streams := rfl
@[simp] theorem updCtx_appendRes (s : State) (g p c : Nat) (f : Ctx → Ctx) : (s.updCtx g p c f).appendRes = s.appendRes := rfl
@[simp] theorem updCtx_readySeq (s : State) (g p c : Nat) (f : Ctx → Ctx) : (s.updCtx g p c f).readySeq = s.readySeq := rfl
@[simp] theorem updCtx_instSeq (s : State) (g p c : Nat) (f : Ctx → Ctx) : (s.updCtx g p c f).instSeq = s.instSeq := rfl
@[simp] theorem updCtx_pops (s : State) (g p c : Nat) (f : Ctx → Ctx) : (s.updCtx g p c f).pops = s.pops := rfl
@[simp] theorem updCtx_rsv (s : State) (g p c : Nat) (f : Ctx → Ctx) : (s.updCtx g p c f).rsv = s.rsv := rfl
@[simp] theorem updCtx_lastStream (s : State) (g p c : Nat) (f : Ctx → Ctx) : (s.updCtx g p c f).lastStream = s.lastStream := rfl
@[simp] theorem updCtx_prod (s : State) (g p c : Nat) (f : Ctx → Ctx) : (s.updCtx g p c f).prod = s.prod := rfl
@[simp] theorem updCtx_compBuf (s : State) (g p c : Nat) (f : Ctx → Ctx) : (s.updCtx g p c f).compBuf = s.compBuf := rfl
@[simp] theorem updCtx_sent (s : State) (g p c : Nat) (f : Ctx → Ctx) : (s.updCtx g p c f).sent = s.sent := rfl
@[simp] theorem updCtx_irqs (s : State) (g p c : Nat) (f : Ctx → Ctx) : (s.updCtx g p c f).irqs = s.irqs := rfl
@[simp] theorem updCtx_tends (s : State) (g p c : Nat) (f : Ctx → Ctx) : (s.updCtx g p c f).tends = s.tends := rfl
@[simp] theorem updCtx_tendSeq (s : State) (g p c : Nat) (f : Ctx → Ctx) : (s.updCtx g p c f).tendSeq = s.tendSeq := rfl
@[simp] theorem updCtx_awards (s : State) (g p c : Nat) (f : Ctx → Ctx) : (s.updCtx g p c f).awards = s.awards := rfl
@[simp] theorem updCtx_wdraws (s : State) (g p c : Nat) (f : Ctx → Ctx) : (s.updCtx g p c f).wdraws = s.wdraws := rfl
@[simp] theorem updCtx_retends (s : State) (g p c : Nat) (f : Ctx → Ctx) : (s.updCtx g p c f).retends = s.retends := rfl
@[simp] theorem updCtx_falls (s : State) (g p c : Nat) (f : Ctx → Ctx) : (s.updCtx g p c f).falls = s.falls := rfl
@[simp] theorem updCtx_links (s : State) (g p c : Nat) (f : Ctx → Ctx) : (s.updCtx g p c f).links = s.links := rfl
@[simp] theorem updCtx_ready0 (s : State) (g p c : Nat) (f : Ctx → Ctx) : (s.updCtx g p c f).ready0 = s.ready0 := rfl
@[simp] theorem updCtx_ready1 (s : State) (g p c : Nat) (f : Ctx → Ctx) : (s.updCtx g p c f).ready1 = s.ready1 := rfl
@[simp] theorem updCtx_dead (s : State) (g p c : Nat) (f : Ctx → Ctx) : (s.updCtx g p c f).dead = s.dead := rfl
@[simp] theorem updCtx_stewTvec (s : State) (g p c : Nat) (f : Ctx → Ctx) : (s.updCtx g p c f).stewTvec = s.stewTvec := rfl
@[simp] theorem updCtx_stewBusy (s : State) (g p c : Nat) (f : Ctx → Ctx) : (s.updCtx g p c f).stewBusy = s.stewBusy := rfl
@[simp] theorem updCtx_stewRefused (s : State) (g p c : Nat) (f : Ctx → Ctx) : (s.updCtx g p c f).stewRefused = s.stewRefused := rfl
@[simp] theorem updCtx_dbgBusy (s : State) (g p c : Nat) (f : Ctx → Ctx) : (s.updCtx g p c f).dbgBusy = s.dbgBusy := rfl
@[simp] theorem updCtx_dbgData (s : State) (g p c : Nat) (f : Ctx → Ctx) : (s.updCtx g p c f).dbgData = s.dbgData := rfl
@[simp] theorem updCtx_dbgCause (s : State) (g p c : Nat) (f : Ctx → Ctx) : (s.updCtx g p c f).dbgCause = s.dbgCause := rfl
@[simp] theorem updCtx_dbgState (s : State) (g p c : Nat) (f : Ctx → Ctx) : (s.updCtx g p c f).dbgState = s.dbgState := rfl
@[simp] theorem updCtx_meas (s : State) (g p c : Nat) (f : Ctx → Ctx) : (s.updCtx g p c f).meas = s.meas := rfl
@[simp] theorem updCtx_repAddr (s : State) (g p c : Nat) (f : Ctx → Ctx) : (s.updCtx g p c f).repAddr = s.repAddr := rfl
@[simp] theorem updCtx_repNonce (s : State) (g p c : Nat) (f : Ctx → Ctx) : (s.updCtx g p c f).repNonce = s.repNonce := rfl
@[simp] theorem updCtx_repBusy (s : State) (g p c : Nat) (f : Ctx → Ctx) : (s.updCtx g p c f).repBusy = s.repBusy := rfl
@[simp] theorem updCtx_repCount (s : State) (g p c : Nat) (f : Ctx → Ctx) : (s.updCtx g p c f).repCount = s.repCount := rfl
@[simp] theorem updCtx_keys (s : State) (g p c : Nat) (f : Ctx → Ctx) : (s.updCtx g p c f).keys = s.keys := rfl
@[simp] theorem updCtx_nodeSet (s : State) (g p c : Nat) (f : Ctx → Ctx) : (s.updCtx g p c f).nodeSet = s.nodeSet := rfl
@[simp] theorem updCtx_errs (s : State) (g p c : Nat) (f : Ctx → Ctx) : (s.updCtx g p c f).errs = s.errs := rfl
@[simp] theorem updCtx_policy (s : State) (g p c : Nat) (f : Ctx → Ctx) : (s.updCtx g p c f).policy = s.policy := rfl
@[simp] theorem updCtx_errWin (s : State) (g p c : Nat) (f : Ctx → Ctx) : (s.updCtx g p c f).errWin = s.errWin := rfl
@[simp] theorem updCtx_islands (s : State) (g p c : Nat) (f : Ctx → Ctx) : (s.updCtx g p c f).islands = s.islands := rfl
@[simp] theorem updCtx_pausedAt (s : State) (g p c : Nat) (f : Ctx → Ctx) : (s.updCtx g p c f).pausedAt = s.pausedAt := rfl
@[simp] theorem updCtx_pausedSum (s : State) (g p c : Nat) (f : Ctx → Ctx) : (s.updCtx g p c f).pausedSum = s.pausedSum := rfl
@[simp] theorem updCtx_watts (s : State) (g p c : Nat) (f : Ctx → Ctx) : (s.updCtx g p c f).watts = s.watts := rfl
@[simp] theorem updCtx_wattsAt (s : State) (g p c : Nat) (f : Ctx → Ctx) : (s.updCtx g p c f).wattsAt = s.wattsAt := rfl
@[simp] theorem updCtx_intake (s : State) (g p c : Nat) (f : Ctx → Ctx) : (s.updCtx g p c f).intake = s.intake := rfl
@[simp] theorem updCtx_hartRead (s : State) (g p c : Nat) (f : Ctx → Ctx) : (s.updCtx g p c f).hartRead = s.hartRead := rfl
@[simp] theorem updCtx_ckpts (s : State) (g p c : Nat) (f : Ctx → Ctx) : (s.updCtx g p c f).ckpts = s.ckpts := rfl

/-! `updElem`: `tiles` may change; every other field stays. -/

@[simp] theorem updElem_agenda (s : State) (g e : Nat) (f : Elem → Elem) : (s.updElem g e f).agenda = s.agenda := rfl
@[simp] theorem updElem_tick (s : State) (g e : Nat) (f : Elem → Elem) : (s.updElem g e f).tick = s.tick := rfl
@[simp] theorem updElem_now (s : State) (g e : Nat) (f : Elem → Elem) : (s.updElem g e f).now = s.now := rfl
@[simp] theorem updElem_resetAt (s : State) (g e : Nat) (f : Elem → Elem) : (s.updElem g e f).resetAt = s.resetAt := rfl
@[simp] theorem updElem_free (s : State) (g e : Nat) (f : Elem → Elem) : (s.updElem g e f).free = s.free := rfl
@[simp] theorem updElem_site (s : State) (g e : Nat) (f : Elem → Elem) : (s.updElem g e f).site = s.site := rfl
@[simp] theorem updElem_ev (s : State) (g e : Nat) (f : Elem → Elem) : (s.updElem g e f).ev = s.ev := rfl
@[simp] theorem updElem_begun (s : State) (g e : Nat) (f : Elem → Elem) : (s.updElem g e f).begun = s.begun := rfl
@[simp] theorem updElem_nextId (s : State) (g e : Nat) (f : Elem → Elem) : (s.updElem g e f).nextId = s.nextId := rfl
@[simp] theorem updElem_reqs (s : State) (g e : Nat) (f : Elem → Elem) : (s.updElem g e f).reqs = s.reqs := rfl
@[simp] theorem updElem_orphans (s : State) (g e : Nat) (f : Elem → Elem) : (s.updElem g e f).orphans = s.orphans := rfl
@[simp] theorem updElem_regions (s : State) (g e : Nat) (f : Elem → Elem) : (s.updElem g e f).regions = s.regions := rfl
@[simp] theorem updElem_mem (s : State) (g e : Nat) (f : Elem → Elem) : (s.updElem g e f).mem = s.mem := rfl
@[simp] theorem updElem_stale (s : State) (g e : Nat) (f : Elem → Elem) : (s.updElem g e f).stale = s.stale := rfl
@[simp] theorem updElem_keyed (s : State) (g e : Nat) (f : Elem → Elem) : (s.updElem g e f).keyed = s.keyed := rfl
@[simp] theorem updElem_blockWord (s : State) (g e : Nat) (f : Elem → Elem) : (s.updElem g e f).blockWord = s.blockWord := rfl
@[simp] theorem updElem_bad (s : State) (g e : Nat) (f : Elem → Elem) : (s.updElem g e f).bad = s.bad := rfl
@[simp] theorem updElem_vaults (s : State) (g e : Nat) (f : Elem → Elem) : (s.updElem g e f).vaults = s.vaults := rfl
@[simp] theorem updElem_migs (s : State) (g e : Nat) (f : Elem → Elem) : (s.updElem g e f).migs = s.migs := rfl
@[simp] theorem updElem_ptrs (s : State) (g e : Nat) (f : Elem → Elem) : (s.updElem g e f).ptrs = s.ptrs := rfl
@[simp] theorem updElem_shooting (s : State) (g e : Nat) (f : Elem → Elem) : (s.updElem g e f).shooting = s.shooting := rfl
@[simp] theorem updElem_shootSeq (s : State) (g e : Nat) (f : Elem → Elem) : (s.updElem g e f).shootSeq = s.shootSeq := rfl
@[simp] theorem updElem_shootLog (s : State) (g e : Nat) (f : Elem → Elem) : (s.updElem g e f).shootLog = s.shootLog := rfl
@[simp] theorem updElem_faults (s : State) (g e : Nat) (f : Elem → Elem) : (s.updElem g e f).faults = s.faults := rfl
@[simp] theorem updElem_hub (s : State) (g e : Nat) (f : Elem → Elem) : (s.updElem g e f).hub = s.hub := rfl
@[simp] theorem updElem_streams (s : State) (g e : Nat) (f : Elem → Elem) : (s.updElem g e f).streams = s.streams := rfl
@[simp] theorem updElem_appendRes (s : State) (g e : Nat) (f : Elem → Elem) : (s.updElem g e f).appendRes = s.appendRes := rfl
@[simp] theorem updElem_readySeq (s : State) (g e : Nat) (f : Elem → Elem) : (s.updElem g e f).readySeq = s.readySeq := rfl
@[simp] theorem updElem_instSeq (s : State) (g e : Nat) (f : Elem → Elem) : (s.updElem g e f).instSeq = s.instSeq := rfl
@[simp] theorem updElem_pops (s : State) (g e : Nat) (f : Elem → Elem) : (s.updElem g e f).pops = s.pops := rfl
@[simp] theorem updElem_rsv (s : State) (g e : Nat) (f : Elem → Elem) : (s.updElem g e f).rsv = s.rsv := rfl
@[simp] theorem updElem_lastStream (s : State) (g e : Nat) (f : Elem → Elem) : (s.updElem g e f).lastStream = s.lastStream := rfl
@[simp] theorem updElem_prod (s : State) (g e : Nat) (f : Elem → Elem) : (s.updElem g e f).prod = s.prod := rfl
@[simp] theorem updElem_compBuf (s : State) (g e : Nat) (f : Elem → Elem) : (s.updElem g e f).compBuf = s.compBuf := rfl
@[simp] theorem updElem_sent (s : State) (g e : Nat) (f : Elem → Elem) : (s.updElem g e f).sent = s.sent := rfl
@[simp] theorem updElem_irqs (s : State) (g e : Nat) (f : Elem → Elem) : (s.updElem g e f).irqs = s.irqs := rfl
@[simp] theorem updElem_tends (s : State) (g e : Nat) (f : Elem → Elem) : (s.updElem g e f).tends = s.tends := rfl
@[simp] theorem updElem_tendSeq (s : State) (g e : Nat) (f : Elem → Elem) : (s.updElem g e f).tendSeq = s.tendSeq := rfl
@[simp] theorem updElem_awards (s : State) (g e : Nat) (f : Elem → Elem) : (s.updElem g e f).awards = s.awards := rfl
@[simp] theorem updElem_wdraws (s : State) (g e : Nat) (f : Elem → Elem) : (s.updElem g e f).wdraws = s.wdraws := rfl
@[simp] theorem updElem_retends (s : State) (g e : Nat) (f : Elem → Elem) : (s.updElem g e f).retends = s.retends := rfl
@[simp] theorem updElem_falls (s : State) (g e : Nat) (f : Elem → Elem) : (s.updElem g e f).falls = s.falls := rfl
@[simp] theorem updElem_links (s : State) (g e : Nat) (f : Elem → Elem) : (s.updElem g e f).links = s.links := rfl
@[simp] theorem updElem_ready0 (s : State) (g e : Nat) (f : Elem → Elem) : (s.updElem g e f).ready0 = s.ready0 := rfl
@[simp] theorem updElem_ready1 (s : State) (g e : Nat) (f : Elem → Elem) : (s.updElem g e f).ready1 = s.ready1 := rfl
@[simp] theorem updElem_dead (s : State) (g e : Nat) (f : Elem → Elem) : (s.updElem g e f).dead = s.dead := rfl
@[simp] theorem updElem_stewTvec (s : State) (g e : Nat) (f : Elem → Elem) : (s.updElem g e f).stewTvec = s.stewTvec := rfl
@[simp] theorem updElem_stewBusy (s : State) (g e : Nat) (f : Elem → Elem) : (s.updElem g e f).stewBusy = s.stewBusy := rfl
@[simp] theorem updElem_stewRefused (s : State) (g e : Nat) (f : Elem → Elem) : (s.updElem g e f).stewRefused = s.stewRefused := rfl
@[simp] theorem updElem_dbgBusy (s : State) (g e : Nat) (f : Elem → Elem) : (s.updElem g e f).dbgBusy = s.dbgBusy := rfl
@[simp] theorem updElem_dbgData (s : State) (g e : Nat) (f : Elem → Elem) : (s.updElem g e f).dbgData = s.dbgData := rfl
@[simp] theorem updElem_dbgCause (s : State) (g e : Nat) (f : Elem → Elem) : (s.updElem g e f).dbgCause = s.dbgCause := rfl
@[simp] theorem updElem_dbgState (s : State) (g e : Nat) (f : Elem → Elem) : (s.updElem g e f).dbgState = s.dbgState := rfl
@[simp] theorem updElem_meas (s : State) (g e : Nat) (f : Elem → Elem) : (s.updElem g e f).meas = s.meas := rfl
@[simp] theorem updElem_repAddr (s : State) (g e : Nat) (f : Elem → Elem) : (s.updElem g e f).repAddr = s.repAddr := rfl
@[simp] theorem updElem_repNonce (s : State) (g e : Nat) (f : Elem → Elem) : (s.updElem g e f).repNonce = s.repNonce := rfl
@[simp] theorem updElem_repBusy (s : State) (g e : Nat) (f : Elem → Elem) : (s.updElem g e f).repBusy = s.repBusy := rfl
@[simp] theorem updElem_repCount (s : State) (g e : Nat) (f : Elem → Elem) : (s.updElem g e f).repCount = s.repCount := rfl
@[simp] theorem updElem_keys (s : State) (g e : Nat) (f : Elem → Elem) : (s.updElem g e f).keys = s.keys := rfl
@[simp] theorem updElem_nodeSet (s : State) (g e : Nat) (f : Elem → Elem) : (s.updElem g e f).nodeSet = s.nodeSet := rfl
@[simp] theorem updElem_errs (s : State) (g e : Nat) (f : Elem → Elem) : (s.updElem g e f).errs = s.errs := rfl
@[simp] theorem updElem_policy (s : State) (g e : Nat) (f : Elem → Elem) : (s.updElem g e f).policy = s.policy := rfl
@[simp] theorem updElem_errWin (s : State) (g e : Nat) (f : Elem → Elem) : (s.updElem g e f).errWin = s.errWin := rfl
@[simp] theorem updElem_islands (s : State) (g e : Nat) (f : Elem → Elem) : (s.updElem g e f).islands = s.islands := rfl
@[simp] theorem updElem_pausedAt (s : State) (g e : Nat) (f : Elem → Elem) : (s.updElem g e f).pausedAt = s.pausedAt := rfl
@[simp] theorem updElem_pausedSum (s : State) (g e : Nat) (f : Elem → Elem) : (s.updElem g e f).pausedSum = s.pausedSum := rfl
@[simp] theorem updElem_watts (s : State) (g e : Nat) (f : Elem → Elem) : (s.updElem g e f).watts = s.watts := rfl
@[simp] theorem updElem_wattsAt (s : State) (g e : Nat) (f : Elem → Elem) : (s.updElem g e f).wattsAt = s.wattsAt := rfl
@[simp] theorem updElem_intake (s : State) (g e : Nat) (f : Elem → Elem) : (s.updElem g e f).intake = s.intake := rfl
@[simp] theorem updElem_hartRead (s : State) (g e : Nat) (f : Elem → Elem) : (s.updElem g e f).hartRead = s.hartRead := rfl
@[simp] theorem updElem_ckpts (s : State) (g e : Nat) (f : Elem → Elem) : (s.updElem g e f).ckpts = s.ckpts := rfl

/-! `updTriad`: `tiles` may change; every other field stays. -/

@[simp] theorem updTriad_agenda (s : State) (g : Nat) (f : Triad → Triad) : (s.updTriad g f).agenda = s.agenda := rfl
@[simp] theorem updTriad_tick (s : State) (g : Nat) (f : Triad → Triad) : (s.updTriad g f).tick = s.tick := rfl
@[simp] theorem updTriad_now (s : State) (g : Nat) (f : Triad → Triad) : (s.updTriad g f).now = s.now := rfl
@[simp] theorem updTriad_resetAt (s : State) (g : Nat) (f : Triad → Triad) : (s.updTriad g f).resetAt = s.resetAt := rfl
@[simp] theorem updTriad_free (s : State) (g : Nat) (f : Triad → Triad) : (s.updTriad g f).free = s.free := rfl
@[simp] theorem updTriad_site (s : State) (g : Nat) (f : Triad → Triad) : (s.updTriad g f).site = s.site := rfl
@[simp] theorem updTriad_ev (s : State) (g : Nat) (f : Triad → Triad) : (s.updTriad g f).ev = s.ev := rfl
@[simp] theorem updTriad_begun (s : State) (g : Nat) (f : Triad → Triad) : (s.updTriad g f).begun = s.begun := rfl
@[simp] theorem updTriad_nextId (s : State) (g : Nat) (f : Triad → Triad) : (s.updTriad g f).nextId = s.nextId := rfl
@[simp] theorem updTriad_reqs (s : State) (g : Nat) (f : Triad → Triad) : (s.updTriad g f).reqs = s.reqs := rfl
@[simp] theorem updTriad_orphans (s : State) (g : Nat) (f : Triad → Triad) : (s.updTriad g f).orphans = s.orphans := rfl
@[simp] theorem updTriad_regions (s : State) (g : Nat) (f : Triad → Triad) : (s.updTriad g f).regions = s.regions := rfl
@[simp] theorem updTriad_mem (s : State) (g : Nat) (f : Triad → Triad) : (s.updTriad g f).mem = s.mem := rfl
@[simp] theorem updTriad_stale (s : State) (g : Nat) (f : Triad → Triad) : (s.updTriad g f).stale = s.stale := rfl
@[simp] theorem updTriad_keyed (s : State) (g : Nat) (f : Triad → Triad) : (s.updTriad g f).keyed = s.keyed := rfl
@[simp] theorem updTriad_blockWord (s : State) (g : Nat) (f : Triad → Triad) : (s.updTriad g f).blockWord = s.blockWord := rfl
@[simp] theorem updTriad_bad (s : State) (g : Nat) (f : Triad → Triad) : (s.updTriad g f).bad = s.bad := rfl
@[simp] theorem updTriad_vaults (s : State) (g : Nat) (f : Triad → Triad) : (s.updTriad g f).vaults = s.vaults := rfl
@[simp] theorem updTriad_migs (s : State) (g : Nat) (f : Triad → Triad) : (s.updTriad g f).migs = s.migs := rfl
@[simp] theorem updTriad_ptrs (s : State) (g : Nat) (f : Triad → Triad) : (s.updTriad g f).ptrs = s.ptrs := rfl
@[simp] theorem updTriad_shooting (s : State) (g : Nat) (f : Triad → Triad) : (s.updTriad g f).shooting = s.shooting := rfl
@[simp] theorem updTriad_shootSeq (s : State) (g : Nat) (f : Triad → Triad) : (s.updTriad g f).shootSeq = s.shootSeq := rfl
@[simp] theorem updTriad_shootLog (s : State) (g : Nat) (f : Triad → Triad) : (s.updTriad g f).shootLog = s.shootLog := rfl
@[simp] theorem updTriad_faults (s : State) (g : Nat) (f : Triad → Triad) : (s.updTriad g f).faults = s.faults := rfl
@[simp] theorem updTriad_hub (s : State) (g : Nat) (f : Triad → Triad) : (s.updTriad g f).hub = s.hub := rfl
@[simp] theorem updTriad_streams (s : State) (g : Nat) (f : Triad → Triad) : (s.updTriad g f).streams = s.streams := rfl
@[simp] theorem updTriad_appendRes (s : State) (g : Nat) (f : Triad → Triad) : (s.updTriad g f).appendRes = s.appendRes := rfl
@[simp] theorem updTriad_readySeq (s : State) (g : Nat) (f : Triad → Triad) : (s.updTriad g f).readySeq = s.readySeq := rfl
@[simp] theorem updTriad_instSeq (s : State) (g : Nat) (f : Triad → Triad) : (s.updTriad g f).instSeq = s.instSeq := rfl
@[simp] theorem updTriad_pops (s : State) (g : Nat) (f : Triad → Triad) : (s.updTriad g f).pops = s.pops := rfl
@[simp] theorem updTriad_rsv (s : State) (g : Nat) (f : Triad → Triad) : (s.updTriad g f).rsv = s.rsv := rfl
@[simp] theorem updTriad_lastStream (s : State) (g : Nat) (f : Triad → Triad) : (s.updTriad g f).lastStream = s.lastStream := rfl
@[simp] theorem updTriad_prod (s : State) (g : Nat) (f : Triad → Triad) : (s.updTriad g f).prod = s.prod := rfl
@[simp] theorem updTriad_compBuf (s : State) (g : Nat) (f : Triad → Triad) : (s.updTriad g f).compBuf = s.compBuf := rfl
@[simp] theorem updTriad_sent (s : State) (g : Nat) (f : Triad → Triad) : (s.updTriad g f).sent = s.sent := rfl
@[simp] theorem updTriad_irqs (s : State) (g : Nat) (f : Triad → Triad) : (s.updTriad g f).irqs = s.irqs := rfl
@[simp] theorem updTriad_tends (s : State) (g : Nat) (f : Triad → Triad) : (s.updTriad g f).tends = s.tends := rfl
@[simp] theorem updTriad_tendSeq (s : State) (g : Nat) (f : Triad → Triad) : (s.updTriad g f).tendSeq = s.tendSeq := rfl
@[simp] theorem updTriad_awards (s : State) (g : Nat) (f : Triad → Triad) : (s.updTriad g f).awards = s.awards := rfl
@[simp] theorem updTriad_wdraws (s : State) (g : Nat) (f : Triad → Triad) : (s.updTriad g f).wdraws = s.wdraws := rfl
@[simp] theorem updTriad_retends (s : State) (g : Nat) (f : Triad → Triad) : (s.updTriad g f).retends = s.retends := rfl
@[simp] theorem updTriad_falls (s : State) (g : Nat) (f : Triad → Triad) : (s.updTriad g f).falls = s.falls := rfl
@[simp] theorem updTriad_links (s : State) (g : Nat) (f : Triad → Triad) : (s.updTriad g f).links = s.links := rfl
@[simp] theorem updTriad_ready0 (s : State) (g : Nat) (f : Triad → Triad) : (s.updTriad g f).ready0 = s.ready0 := rfl
@[simp] theorem updTriad_ready1 (s : State) (g : Nat) (f : Triad → Triad) : (s.updTriad g f).ready1 = s.ready1 := rfl
@[simp] theorem updTriad_dead (s : State) (g : Nat) (f : Triad → Triad) : (s.updTriad g f).dead = s.dead := rfl
@[simp] theorem updTriad_stewTvec (s : State) (g : Nat) (f : Triad → Triad) : (s.updTriad g f).stewTvec = s.stewTvec := rfl
@[simp] theorem updTriad_stewBusy (s : State) (g : Nat) (f : Triad → Triad) : (s.updTriad g f).stewBusy = s.stewBusy := rfl
@[simp] theorem updTriad_stewRefused (s : State) (g : Nat) (f : Triad → Triad) : (s.updTriad g f).stewRefused = s.stewRefused := rfl
@[simp] theorem updTriad_dbgBusy (s : State) (g : Nat) (f : Triad → Triad) : (s.updTriad g f).dbgBusy = s.dbgBusy := rfl
@[simp] theorem updTriad_dbgData (s : State) (g : Nat) (f : Triad → Triad) : (s.updTriad g f).dbgData = s.dbgData := rfl
@[simp] theorem updTriad_dbgCause (s : State) (g : Nat) (f : Triad → Triad) : (s.updTriad g f).dbgCause = s.dbgCause := rfl
@[simp] theorem updTriad_dbgState (s : State) (g : Nat) (f : Triad → Triad) : (s.updTriad g f).dbgState = s.dbgState := rfl
@[simp] theorem updTriad_meas (s : State) (g : Nat) (f : Triad → Triad) : (s.updTriad g f).meas = s.meas := rfl
@[simp] theorem updTriad_repAddr (s : State) (g : Nat) (f : Triad → Triad) : (s.updTriad g f).repAddr = s.repAddr := rfl
@[simp] theorem updTriad_repNonce (s : State) (g : Nat) (f : Triad → Triad) : (s.updTriad g f).repNonce = s.repNonce := rfl
@[simp] theorem updTriad_repBusy (s : State) (g : Nat) (f : Triad → Triad) : (s.updTriad g f).repBusy = s.repBusy := rfl
@[simp] theorem updTriad_repCount (s : State) (g : Nat) (f : Triad → Triad) : (s.updTriad g f).repCount = s.repCount := rfl
@[simp] theorem updTriad_keys (s : State) (g : Nat) (f : Triad → Triad) : (s.updTriad g f).keys = s.keys := rfl
@[simp] theorem updTriad_nodeSet (s : State) (g : Nat) (f : Triad → Triad) : (s.updTriad g f).nodeSet = s.nodeSet := rfl
@[simp] theorem updTriad_errs (s : State) (g : Nat) (f : Triad → Triad) : (s.updTriad g f).errs = s.errs := rfl
@[simp] theorem updTriad_policy (s : State) (g : Nat) (f : Triad → Triad) : (s.updTriad g f).policy = s.policy := rfl
@[simp] theorem updTriad_errWin (s : State) (g : Nat) (f : Triad → Triad) : (s.updTriad g f).errWin = s.errWin := rfl
@[simp] theorem updTriad_islands (s : State) (g : Nat) (f : Triad → Triad) : (s.updTriad g f).islands = s.islands := rfl
@[simp] theorem updTriad_pausedAt (s : State) (g : Nat) (f : Triad → Triad) : (s.updTriad g f).pausedAt = s.pausedAt := rfl
@[simp] theorem updTriad_pausedSum (s : State) (g : Nat) (f : Triad → Triad) : (s.updTriad g f).pausedSum = s.pausedSum := rfl
@[simp] theorem updTriad_watts (s : State) (g : Nat) (f : Triad → Triad) : (s.updTriad g f).watts = s.watts := rfl
@[simp] theorem updTriad_wattsAt (s : State) (g : Nat) (f : Triad → Triad) : (s.updTriad g f).wattsAt = s.wattsAt := rfl
@[simp] theorem updTriad_intake (s : State) (g : Nat) (f : Triad → Triad) : (s.updTriad g f).intake = s.intake := rfl
@[simp] theorem updTriad_hartRead (s : State) (g : Nat) (f : Triad → Triad) : (s.updTriad g f).hartRead = s.hartRead := rfl
@[simp] theorem updTriad_ckpts (s : State) (g : Nat) (f : Triad → Triad) : (s.updTriad g f).ckpts = s.ckpts := rfl

/-! `updVault`: `vaults` may change; every other field stays. -/

@[simp] theorem updVault_agenda (s : State) (v : Nat) (f : Vault → Vault) : (s.updVault v f).agenda = s.agenda := rfl
@[simp] theorem updVault_tick (s : State) (v : Nat) (f : Vault → Vault) : (s.updVault v f).tick = s.tick := rfl
@[simp] theorem updVault_now (s : State) (v : Nat) (f : Vault → Vault) : (s.updVault v f).now = s.now := rfl
@[simp] theorem updVault_resetAt (s : State) (v : Nat) (f : Vault → Vault) : (s.updVault v f).resetAt = s.resetAt := rfl
@[simp] theorem updVault_free (s : State) (v : Nat) (f : Vault → Vault) : (s.updVault v f).free = s.free := rfl
@[simp] theorem updVault_site (s : State) (v : Nat) (f : Vault → Vault) : (s.updVault v f).site = s.site := rfl
@[simp] theorem updVault_ev (s : State) (v : Nat) (f : Vault → Vault) : (s.updVault v f).ev = s.ev := rfl
@[simp] theorem updVault_begun (s : State) (v : Nat) (f : Vault → Vault) : (s.updVault v f).begun = s.begun := rfl
@[simp] theorem updVault_nextId (s : State) (v : Nat) (f : Vault → Vault) : (s.updVault v f).nextId = s.nextId := rfl
@[simp] theorem updVault_reqs (s : State) (v : Nat) (f : Vault → Vault) : (s.updVault v f).reqs = s.reqs := rfl
@[simp] theorem updVault_orphans (s : State) (v : Nat) (f : Vault → Vault) : (s.updVault v f).orphans = s.orphans := rfl
@[simp] theorem updVault_tiles (s : State) (v : Nat) (f : Vault → Vault) : (s.updVault v f).tiles = s.tiles := rfl
@[simp] theorem updVault_regions (s : State) (v : Nat) (f : Vault → Vault) : (s.updVault v f).regions = s.regions := rfl
@[simp] theorem updVault_mem (s : State) (v : Nat) (f : Vault → Vault) : (s.updVault v f).mem = s.mem := rfl
@[simp] theorem updVault_stale (s : State) (v : Nat) (f : Vault → Vault) : (s.updVault v f).stale = s.stale := rfl
@[simp] theorem updVault_keyed (s : State) (v : Nat) (f : Vault → Vault) : (s.updVault v f).keyed = s.keyed := rfl
@[simp] theorem updVault_blockWord (s : State) (v : Nat) (f : Vault → Vault) : (s.updVault v f).blockWord = s.blockWord := rfl
@[simp] theorem updVault_bad (s : State) (v : Nat) (f : Vault → Vault) : (s.updVault v f).bad = s.bad := rfl
@[simp] theorem updVault_migs (s : State) (v : Nat) (f : Vault → Vault) : (s.updVault v f).migs = s.migs := rfl
@[simp] theorem updVault_ptrs (s : State) (v : Nat) (f : Vault → Vault) : (s.updVault v f).ptrs = s.ptrs := rfl
@[simp] theorem updVault_shooting (s : State) (v : Nat) (f : Vault → Vault) : (s.updVault v f).shooting = s.shooting := rfl
@[simp] theorem updVault_shootSeq (s : State) (v : Nat) (f : Vault → Vault) : (s.updVault v f).shootSeq = s.shootSeq := rfl
@[simp] theorem updVault_shootLog (s : State) (v : Nat) (f : Vault → Vault) : (s.updVault v f).shootLog = s.shootLog := rfl
@[simp] theorem updVault_faults (s : State) (v : Nat) (f : Vault → Vault) : (s.updVault v f).faults = s.faults := rfl
@[simp] theorem updVault_hub (s : State) (v : Nat) (f : Vault → Vault) : (s.updVault v f).hub = s.hub := rfl
@[simp] theorem updVault_streams (s : State) (v : Nat) (f : Vault → Vault) : (s.updVault v f).streams = s.streams := rfl
@[simp] theorem updVault_appendRes (s : State) (v : Nat) (f : Vault → Vault) : (s.updVault v f).appendRes = s.appendRes := rfl
@[simp] theorem updVault_readySeq (s : State) (v : Nat) (f : Vault → Vault) : (s.updVault v f).readySeq = s.readySeq := rfl
@[simp] theorem updVault_instSeq (s : State) (v : Nat) (f : Vault → Vault) : (s.updVault v f).instSeq = s.instSeq := rfl
@[simp] theorem updVault_pops (s : State) (v : Nat) (f : Vault → Vault) : (s.updVault v f).pops = s.pops := rfl
@[simp] theorem updVault_rsv (s : State) (v : Nat) (f : Vault → Vault) : (s.updVault v f).rsv = s.rsv := rfl
@[simp] theorem updVault_lastStream (s : State) (v : Nat) (f : Vault → Vault) : (s.updVault v f).lastStream = s.lastStream := rfl
@[simp] theorem updVault_prod (s : State) (v : Nat) (f : Vault → Vault) : (s.updVault v f).prod = s.prod := rfl
@[simp] theorem updVault_compBuf (s : State) (v : Nat) (f : Vault → Vault) : (s.updVault v f).compBuf = s.compBuf := rfl
@[simp] theorem updVault_sent (s : State) (v : Nat) (f : Vault → Vault) : (s.updVault v f).sent = s.sent := rfl
@[simp] theorem updVault_irqs (s : State) (v : Nat) (f : Vault → Vault) : (s.updVault v f).irqs = s.irqs := rfl
@[simp] theorem updVault_tends (s : State) (v : Nat) (f : Vault → Vault) : (s.updVault v f).tends = s.tends := rfl
@[simp] theorem updVault_tendSeq (s : State) (v : Nat) (f : Vault → Vault) : (s.updVault v f).tendSeq = s.tendSeq := rfl
@[simp] theorem updVault_awards (s : State) (v : Nat) (f : Vault → Vault) : (s.updVault v f).awards = s.awards := rfl
@[simp] theorem updVault_wdraws (s : State) (v : Nat) (f : Vault → Vault) : (s.updVault v f).wdraws = s.wdraws := rfl
@[simp] theorem updVault_retends (s : State) (v : Nat) (f : Vault → Vault) : (s.updVault v f).retends = s.retends := rfl
@[simp] theorem updVault_falls (s : State) (v : Nat) (f : Vault → Vault) : (s.updVault v f).falls = s.falls := rfl
@[simp] theorem updVault_links (s : State) (v : Nat) (f : Vault → Vault) : (s.updVault v f).links = s.links := rfl
@[simp] theorem updVault_ready0 (s : State) (v : Nat) (f : Vault → Vault) : (s.updVault v f).ready0 = s.ready0 := rfl
@[simp] theorem updVault_ready1 (s : State) (v : Nat) (f : Vault → Vault) : (s.updVault v f).ready1 = s.ready1 := rfl
@[simp] theorem updVault_dead (s : State) (v : Nat) (f : Vault → Vault) : (s.updVault v f).dead = s.dead := rfl
@[simp] theorem updVault_stewTvec (s : State) (v : Nat) (f : Vault → Vault) : (s.updVault v f).stewTvec = s.stewTvec := rfl
@[simp] theorem updVault_stewBusy (s : State) (v : Nat) (f : Vault → Vault) : (s.updVault v f).stewBusy = s.stewBusy := rfl
@[simp] theorem updVault_stewRefused (s : State) (v : Nat) (f : Vault → Vault) : (s.updVault v f).stewRefused = s.stewRefused := rfl
@[simp] theorem updVault_dbgBusy (s : State) (v : Nat) (f : Vault → Vault) : (s.updVault v f).dbgBusy = s.dbgBusy := rfl
@[simp] theorem updVault_dbgData (s : State) (v : Nat) (f : Vault → Vault) : (s.updVault v f).dbgData = s.dbgData := rfl
@[simp] theorem updVault_dbgCause (s : State) (v : Nat) (f : Vault → Vault) : (s.updVault v f).dbgCause = s.dbgCause := rfl
@[simp] theorem updVault_dbgState (s : State) (v : Nat) (f : Vault → Vault) : (s.updVault v f).dbgState = s.dbgState := rfl
@[simp] theorem updVault_meas (s : State) (v : Nat) (f : Vault → Vault) : (s.updVault v f).meas = s.meas := rfl
@[simp] theorem updVault_repAddr (s : State) (v : Nat) (f : Vault → Vault) : (s.updVault v f).repAddr = s.repAddr := rfl
@[simp] theorem updVault_repNonce (s : State) (v : Nat) (f : Vault → Vault) : (s.updVault v f).repNonce = s.repNonce := rfl
@[simp] theorem updVault_repBusy (s : State) (v : Nat) (f : Vault → Vault) : (s.updVault v f).repBusy = s.repBusy := rfl
@[simp] theorem updVault_repCount (s : State) (v : Nat) (f : Vault → Vault) : (s.updVault v f).repCount = s.repCount := rfl
@[simp] theorem updVault_keys (s : State) (v : Nat) (f : Vault → Vault) : (s.updVault v f).keys = s.keys := rfl
@[simp] theorem updVault_nodeSet (s : State) (v : Nat) (f : Vault → Vault) : (s.updVault v f).nodeSet = s.nodeSet := rfl
@[simp] theorem updVault_errs (s : State) (v : Nat) (f : Vault → Vault) : (s.updVault v f).errs = s.errs := rfl
@[simp] theorem updVault_policy (s : State) (v : Nat) (f : Vault → Vault) : (s.updVault v f).policy = s.policy := rfl
@[simp] theorem updVault_errWin (s : State) (v : Nat) (f : Vault → Vault) : (s.updVault v f).errWin = s.errWin := rfl
@[simp] theorem updVault_islands (s : State) (v : Nat) (f : Vault → Vault) : (s.updVault v f).islands = s.islands := rfl
@[simp] theorem updVault_pausedAt (s : State) (v : Nat) (f : Vault → Vault) : (s.updVault v f).pausedAt = s.pausedAt := rfl
@[simp] theorem updVault_pausedSum (s : State) (v : Nat) (f : Vault → Vault) : (s.updVault v f).pausedSum = s.pausedSum := rfl
@[simp] theorem updVault_watts (s : State) (v : Nat) (f : Vault → Vault) : (s.updVault v f).watts = s.watts := rfl
@[simp] theorem updVault_wattsAt (s : State) (v : Nat) (f : Vault → Vault) : (s.updVault v f).wattsAt = s.wattsAt := rfl
@[simp] theorem updVault_intake (s : State) (v : Nat) (f : Vault → Vault) : (s.updVault v f).intake = s.intake := rfl
@[simp] theorem updVault_hartRead (s : State) (v : Nat) (f : Vault → Vault) : (s.updVault v f).hartRead = s.hartRead := rfl
@[simp] theorem updVault_ckpts (s : State) (v : Nat) (f : Vault → Vault) : (s.updVault v f).ckpts = s.ckpts := rfl

/-! `setHub`: `hub` may change; every other field stays. -/

@[simp] theorem setHub_agenda (s : State) (o : Nat) (v : Word) : (s.setHub o v).agenda = s.agenda := rfl
@[simp] theorem setHub_tick (s : State) (o : Nat) (v : Word) : (s.setHub o v).tick = s.tick := rfl
@[simp] theorem setHub_now (s : State) (o : Nat) (v : Word) : (s.setHub o v).now = s.now := rfl
@[simp] theorem setHub_resetAt (s : State) (o : Nat) (v : Word) : (s.setHub o v).resetAt = s.resetAt := rfl
@[simp] theorem setHub_free (s : State) (o : Nat) (v : Word) : (s.setHub o v).free = s.free := rfl
@[simp] theorem setHub_site (s : State) (o : Nat) (v : Word) : (s.setHub o v).site = s.site := rfl
@[simp] theorem setHub_ev (s : State) (o : Nat) (v : Word) : (s.setHub o v).ev = s.ev := rfl
@[simp] theorem setHub_begun (s : State) (o : Nat) (v : Word) : (s.setHub o v).begun = s.begun := rfl
@[simp] theorem setHub_nextId (s : State) (o : Nat) (v : Word) : (s.setHub o v).nextId = s.nextId := rfl
@[simp] theorem setHub_reqs (s : State) (o : Nat) (v : Word) : (s.setHub o v).reqs = s.reqs := rfl
@[simp] theorem setHub_orphans (s : State) (o : Nat) (v : Word) : (s.setHub o v).orphans = s.orphans := rfl
@[simp] theorem setHub_tiles (s : State) (o : Nat) (v : Word) : (s.setHub o v).tiles = s.tiles := rfl
@[simp] theorem setHub_regions (s : State) (o : Nat) (v : Word) : (s.setHub o v).regions = s.regions := rfl
@[simp] theorem setHub_mem (s : State) (o : Nat) (v : Word) : (s.setHub o v).mem = s.mem := rfl
@[simp] theorem setHub_stale (s : State) (o : Nat) (v : Word) : (s.setHub o v).stale = s.stale := rfl
@[simp] theorem setHub_keyed (s : State) (o : Nat) (v : Word) : (s.setHub o v).keyed = s.keyed := rfl
@[simp] theorem setHub_blockWord (s : State) (o : Nat) (v : Word) : (s.setHub o v).blockWord = s.blockWord := rfl
@[simp] theorem setHub_bad (s : State) (o : Nat) (v : Word) : (s.setHub o v).bad = s.bad := rfl
@[simp] theorem setHub_vaults (s : State) (o : Nat) (v : Word) : (s.setHub o v).vaults = s.vaults := rfl
@[simp] theorem setHub_migs (s : State) (o : Nat) (v : Word) : (s.setHub o v).migs = s.migs := rfl
@[simp] theorem setHub_ptrs (s : State) (o : Nat) (v : Word) : (s.setHub o v).ptrs = s.ptrs := rfl
@[simp] theorem setHub_shooting (s : State) (o : Nat) (v : Word) : (s.setHub o v).shooting = s.shooting := rfl
@[simp] theorem setHub_shootSeq (s : State) (o : Nat) (v : Word) : (s.setHub o v).shootSeq = s.shootSeq := rfl
@[simp] theorem setHub_shootLog (s : State) (o : Nat) (v : Word) : (s.setHub o v).shootLog = s.shootLog := rfl
@[simp] theorem setHub_faults (s : State) (o : Nat) (v : Word) : (s.setHub o v).faults = s.faults := rfl
@[simp] theorem setHub_streams (s : State) (o : Nat) (v : Word) : (s.setHub o v).streams = s.streams := rfl
@[simp] theorem setHub_appendRes (s : State) (o : Nat) (v : Word) : (s.setHub o v).appendRes = s.appendRes := rfl
@[simp] theorem setHub_readySeq (s : State) (o : Nat) (v : Word) : (s.setHub o v).readySeq = s.readySeq := rfl
@[simp] theorem setHub_instSeq (s : State) (o : Nat) (v : Word) : (s.setHub o v).instSeq = s.instSeq := rfl
@[simp] theorem setHub_pops (s : State) (o : Nat) (v : Word) : (s.setHub o v).pops = s.pops := rfl
@[simp] theorem setHub_rsv (s : State) (o : Nat) (v : Word) : (s.setHub o v).rsv = s.rsv := rfl
@[simp] theorem setHub_lastStream (s : State) (o : Nat) (v : Word) : (s.setHub o v).lastStream = s.lastStream := rfl
@[simp] theorem setHub_prod (s : State) (o : Nat) (v : Word) : (s.setHub o v).prod = s.prod := rfl
@[simp] theorem setHub_compBuf (s : State) (o : Nat) (v : Word) : (s.setHub o v).compBuf = s.compBuf := rfl
@[simp] theorem setHub_sent (s : State) (o : Nat) (v : Word) : (s.setHub o v).sent = s.sent := rfl
@[simp] theorem setHub_irqs (s : State) (o : Nat) (v : Word) : (s.setHub o v).irqs = s.irqs := rfl
@[simp] theorem setHub_tends (s : State) (o : Nat) (v : Word) : (s.setHub o v).tends = s.tends := rfl
@[simp] theorem setHub_tendSeq (s : State) (o : Nat) (v : Word) : (s.setHub o v).tendSeq = s.tendSeq := rfl
@[simp] theorem setHub_awards (s : State) (o : Nat) (v : Word) : (s.setHub o v).awards = s.awards := rfl
@[simp] theorem setHub_wdraws (s : State) (o : Nat) (v : Word) : (s.setHub o v).wdraws = s.wdraws := rfl
@[simp] theorem setHub_retends (s : State) (o : Nat) (v : Word) : (s.setHub o v).retends = s.retends := rfl
@[simp] theorem setHub_falls (s : State) (o : Nat) (v : Word) : (s.setHub o v).falls = s.falls := rfl
@[simp] theorem setHub_links (s : State) (o : Nat) (v : Word) : (s.setHub o v).links = s.links := rfl
@[simp] theorem setHub_ready0 (s : State) (o : Nat) (v : Word) : (s.setHub o v).ready0 = s.ready0 := rfl
@[simp] theorem setHub_ready1 (s : State) (o : Nat) (v : Word) : (s.setHub o v).ready1 = s.ready1 := rfl
@[simp] theorem setHub_dead (s : State) (o : Nat) (v : Word) : (s.setHub o v).dead = s.dead := rfl
@[simp] theorem setHub_stewTvec (s : State) (o : Nat) (v : Word) : (s.setHub o v).stewTvec = s.stewTvec := rfl
@[simp] theorem setHub_stewBusy (s : State) (o : Nat) (v : Word) : (s.setHub o v).stewBusy = s.stewBusy := rfl
@[simp] theorem setHub_stewRefused (s : State) (o : Nat) (v : Word) : (s.setHub o v).stewRefused = s.stewRefused := rfl
@[simp] theorem setHub_dbgBusy (s : State) (o : Nat) (v : Word) : (s.setHub o v).dbgBusy = s.dbgBusy := rfl
@[simp] theorem setHub_dbgData (s : State) (o : Nat) (v : Word) : (s.setHub o v).dbgData = s.dbgData := rfl
@[simp] theorem setHub_dbgCause (s : State) (o : Nat) (v : Word) : (s.setHub o v).dbgCause = s.dbgCause := rfl
@[simp] theorem setHub_dbgState (s : State) (o : Nat) (v : Word) : (s.setHub o v).dbgState = s.dbgState := rfl
@[simp] theorem setHub_meas (s : State) (o : Nat) (v : Word) : (s.setHub o v).meas = s.meas := rfl
@[simp] theorem setHub_repAddr (s : State) (o : Nat) (v : Word) : (s.setHub o v).repAddr = s.repAddr := rfl
@[simp] theorem setHub_repNonce (s : State) (o : Nat) (v : Word) : (s.setHub o v).repNonce = s.repNonce := rfl
@[simp] theorem setHub_repBusy (s : State) (o : Nat) (v : Word) : (s.setHub o v).repBusy = s.repBusy := rfl
@[simp] theorem setHub_repCount (s : State) (o : Nat) (v : Word) : (s.setHub o v).repCount = s.repCount := rfl
@[simp] theorem setHub_keys (s : State) (o : Nat) (v : Word) : (s.setHub o v).keys = s.keys := rfl
@[simp] theorem setHub_nodeSet (s : State) (o : Nat) (v : Word) : (s.setHub o v).nodeSet = s.nodeSet := rfl
@[simp] theorem setHub_errs (s : State) (o : Nat) (v : Word) : (s.setHub o v).errs = s.errs := rfl
@[simp] theorem setHub_policy (s : State) (o : Nat) (v : Word) : (s.setHub o v).policy = s.policy := rfl
@[simp] theorem setHub_errWin (s : State) (o : Nat) (v : Word) : (s.setHub o v).errWin = s.errWin := rfl
@[simp] theorem setHub_islands (s : State) (o : Nat) (v : Word) : (s.setHub o v).islands = s.islands := rfl
@[simp] theorem setHub_pausedAt (s : State) (o : Nat) (v : Word) : (s.setHub o v).pausedAt = s.pausedAt := rfl
@[simp] theorem setHub_pausedSum (s : State) (o : Nat) (v : Word) : (s.setHub o v).pausedSum = s.pausedSum := rfl
@[simp] theorem setHub_watts (s : State) (o : Nat) (v : Word) : (s.setHub o v).watts = s.watts := rfl
@[simp] theorem setHub_wattsAt (s : State) (o : Nat) (v : Word) : (s.setHub o v).wattsAt = s.wattsAt := rfl
@[simp] theorem setHub_intake (s : State) (o : Nat) (v : Word) : (s.setHub o v).intake = s.intake := rfl
@[simp] theorem setHub_hartRead (s : State) (o : Nat) (v : Word) : (s.setHub o v).hartRead = s.hartRead := rfl
@[simp] theorem setHub_ckpts (s : State) (o : Nat) (v : Word) : (s.setHub o v).ckpts = s.ckpts := rfl

/-! `writePa`: `mem`, `stale`, `keyed` may change; every other field stays. -/

@[simp] theorem writePa_agenda (s : State) (a n v : Nat) : (s.writePa a n v).agenda = s.agenda := rfl
@[simp] theorem writePa_tick (s : State) (a n v : Nat) : (s.writePa a n v).tick = s.tick := rfl
@[simp] theorem writePa_now (s : State) (a n v : Nat) : (s.writePa a n v).now = s.now := rfl
@[simp] theorem writePa_resetAt (s : State) (a n v : Nat) : (s.writePa a n v).resetAt = s.resetAt := rfl
@[simp] theorem writePa_free (s : State) (a n v : Nat) : (s.writePa a n v).free = s.free := rfl
@[simp] theorem writePa_site (s : State) (a n v : Nat) : (s.writePa a n v).site = s.site := rfl
@[simp] theorem writePa_ev (s : State) (a n v : Nat) : (s.writePa a n v).ev = s.ev := rfl
@[simp] theorem writePa_begun (s : State) (a n v : Nat) : (s.writePa a n v).begun = s.begun := rfl
@[simp] theorem writePa_nextId (s : State) (a n v : Nat) : (s.writePa a n v).nextId = s.nextId := rfl
@[simp] theorem writePa_reqs (s : State) (a n v : Nat) : (s.writePa a n v).reqs = s.reqs := rfl
@[simp] theorem writePa_orphans (s : State) (a n v : Nat) : (s.writePa a n v).orphans = s.orphans := rfl
@[simp] theorem writePa_tiles (s : State) (a n v : Nat) : (s.writePa a n v).tiles = s.tiles := rfl
@[simp] theorem writePa_regions (s : State) (a n v : Nat) : (s.writePa a n v).regions = s.regions := rfl
@[simp] theorem writePa_keyed (s : State) (a n v : Nat) : (s.writePa a n v).keyed = unkeyed s.keyed (redirect s.migs a) n := rfl
@[simp] theorem writePa_blockWord (s : State) (a n v : Nat) : (s.writePa a n v).blockWord = s.blockWord := rfl
@[simp] theorem writePa_bad (s : State) (a n v : Nat) : (s.writePa a n v).bad = s.bad := rfl
@[simp] theorem writePa_vaults (s : State) (a n v : Nat) : (s.writePa a n v).vaults = s.vaults := rfl
@[simp] theorem writePa_migs (s : State) (a n v : Nat) : (s.writePa a n v).migs = s.migs := rfl
@[simp] theorem writePa_ptrs (s : State) (a n v : Nat) : (s.writePa a n v).ptrs = s.ptrs := rfl
@[simp] theorem writePa_shooting (s : State) (a n v : Nat) : (s.writePa a n v).shooting = s.shooting := rfl
@[simp] theorem writePa_shootSeq (s : State) (a n v : Nat) : (s.writePa a n v).shootSeq = s.shootSeq := rfl
@[simp] theorem writePa_shootLog (s : State) (a n v : Nat) : (s.writePa a n v).shootLog = s.shootLog := rfl
@[simp] theorem writePa_faults (s : State) (a n v : Nat) : (s.writePa a n v).faults = s.faults := rfl
@[simp] theorem writePa_hub (s : State) (a n v : Nat) : (s.writePa a n v).hub = s.hub := rfl
@[simp] theorem writePa_streams (s : State) (a n v : Nat) : (s.writePa a n v).streams = s.streams := rfl
@[simp] theorem writePa_appendRes (s : State) (a n v : Nat) : (s.writePa a n v).appendRes = s.appendRes := rfl
@[simp] theorem writePa_readySeq (s : State) (a n v : Nat) : (s.writePa a n v).readySeq = s.readySeq := rfl
@[simp] theorem writePa_instSeq (s : State) (a n v : Nat) : (s.writePa a n v).instSeq = s.instSeq := rfl
@[simp] theorem writePa_pops (s : State) (a n v : Nat) : (s.writePa a n v).pops = s.pops := rfl
@[simp] theorem writePa_rsv (s : State) (a n v : Nat) : (s.writePa a n v).rsv = s.rsv := rfl
@[simp] theorem writePa_lastStream (s : State) (a n v : Nat) : (s.writePa a n v).lastStream = s.lastStream := rfl
@[simp] theorem writePa_prod (s : State) (a n v : Nat) : (s.writePa a n v).prod = s.prod := rfl
@[simp] theorem writePa_compBuf (s : State) (a n v : Nat) : (s.writePa a n v).compBuf = s.compBuf := rfl
@[simp] theorem writePa_sent (s : State) (a n v : Nat) : (s.writePa a n v).sent = s.sent := rfl
@[simp] theorem writePa_irqs (s : State) (a n v : Nat) : (s.writePa a n v).irqs = s.irqs := rfl
@[simp] theorem writePa_tends (s : State) (a n v : Nat) : (s.writePa a n v).tends = s.tends := rfl
@[simp] theorem writePa_tendSeq (s : State) (a n v : Nat) : (s.writePa a n v).tendSeq = s.tendSeq := rfl
@[simp] theorem writePa_awards (s : State) (a n v : Nat) : (s.writePa a n v).awards = s.awards := rfl
@[simp] theorem writePa_wdraws (s : State) (a n v : Nat) : (s.writePa a n v).wdraws = s.wdraws := rfl
@[simp] theorem writePa_retends (s : State) (a n v : Nat) : (s.writePa a n v).retends = s.retends := rfl
@[simp] theorem writePa_falls (s : State) (a n v : Nat) : (s.writePa a n v).falls = s.falls := rfl
@[simp] theorem writePa_links (s : State) (a n v : Nat) : (s.writePa a n v).links = s.links := rfl
@[simp] theorem writePa_ready0 (s : State) (a n v : Nat) : (s.writePa a n v).ready0 = s.ready0 := rfl
@[simp] theorem writePa_ready1 (s : State) (a n v : Nat) : (s.writePa a n v).ready1 = s.ready1 := rfl
@[simp] theorem writePa_dead (s : State) (a n v : Nat) : (s.writePa a n v).dead = s.dead := rfl
@[simp] theorem writePa_stewTvec (s : State) (a n v : Nat) : (s.writePa a n v).stewTvec = s.stewTvec := rfl
@[simp] theorem writePa_stewBusy (s : State) (a n v : Nat) : (s.writePa a n v).stewBusy = s.stewBusy := rfl
@[simp] theorem writePa_stewRefused (s : State) (a n v : Nat) : (s.writePa a n v).stewRefused = s.stewRefused := rfl
@[simp] theorem writePa_dbgBusy (s : State) (a n v : Nat) : (s.writePa a n v).dbgBusy = s.dbgBusy := rfl
@[simp] theorem writePa_dbgData (s : State) (a n v : Nat) : (s.writePa a n v).dbgData = s.dbgData := rfl
@[simp] theorem writePa_dbgCause (s : State) (a n v : Nat) : (s.writePa a n v).dbgCause = s.dbgCause := rfl
@[simp] theorem writePa_dbgState (s : State) (a n v : Nat) : (s.writePa a n v).dbgState = s.dbgState := rfl
@[simp] theorem writePa_meas (s : State) (a n v : Nat) : (s.writePa a n v).meas = s.meas := rfl
@[simp] theorem writePa_repAddr (s : State) (a n v : Nat) : (s.writePa a n v).repAddr = s.repAddr := rfl
@[simp] theorem writePa_repNonce (s : State) (a n v : Nat) : (s.writePa a n v).repNonce = s.repNonce := rfl
@[simp] theorem writePa_repBusy (s : State) (a n v : Nat) : (s.writePa a n v).repBusy = s.repBusy := rfl
@[simp] theorem writePa_repCount (s : State) (a n v : Nat) : (s.writePa a n v).repCount = s.repCount := rfl
@[simp] theorem writePa_keys (s : State) (a n v : Nat) : (s.writePa a n v).keys = s.keys := rfl
@[simp] theorem writePa_nodeSet (s : State) (a n v : Nat) : (s.writePa a n v).nodeSet = s.nodeSet := rfl
@[simp] theorem writePa_errs (s : State) (a n v : Nat) : (s.writePa a n v).errs = s.errs := rfl
@[simp] theorem writePa_policy (s : State) (a n v : Nat) : (s.writePa a n v).policy = s.policy := rfl
@[simp] theorem writePa_errWin (s : State) (a n v : Nat) : (s.writePa a n v).errWin = s.errWin := rfl
@[simp] theorem writePa_islands (s : State) (a n v : Nat) : (s.writePa a n v).islands = s.islands := rfl
@[simp] theorem writePa_pausedAt (s : State) (a n v : Nat) : (s.writePa a n v).pausedAt = s.pausedAt := rfl
@[simp] theorem writePa_pausedSum (s : State) (a n v : Nat) : (s.writePa a n v).pausedSum = s.pausedSum := rfl
@[simp] theorem writePa_watts (s : State) (a n v : Nat) : (s.writePa a n v).watts = s.watts := rfl
@[simp] theorem writePa_wattsAt (s : State) (a n v : Nat) : (s.writePa a n v).wattsAt = s.wattsAt := rfl
@[simp] theorem writePa_intake (s : State) (a n v : Nat) : (s.writePa a n v).intake = s.intake := rfl
@[simp] theorem writePa_hartRead (s : State) (a n v : Nat) : (s.writePa a n v).hartRead = s.hartRead := rfl
@[simp] theorem writePa_ckpts (s : State) (a n v : Nat) : (s.writePa a n v).ckpts = s.ckpts := rfl

/-! `setMetaPa`: `blockWord` may change; every other field stays. -/

@[simp] theorem setMetaPa_agenda (s : State) (a v : Nat) : (s.setMetaPa a v).agenda = s.agenda := rfl
@[simp] theorem setMetaPa_tick (s : State) (a v : Nat) : (s.setMetaPa a v).tick = s.tick := rfl
@[simp] theorem setMetaPa_now (s : State) (a v : Nat) : (s.setMetaPa a v).now = s.now := rfl
@[simp] theorem setMetaPa_resetAt (s : State) (a v : Nat) : (s.setMetaPa a v).resetAt = s.resetAt := rfl
@[simp] theorem setMetaPa_free (s : State) (a v : Nat) : (s.setMetaPa a v).free = s.free := rfl
@[simp] theorem setMetaPa_site (s : State) (a v : Nat) : (s.setMetaPa a v).site = s.site := rfl
@[simp] theorem setMetaPa_ev (s : State) (a v : Nat) : (s.setMetaPa a v).ev = s.ev := rfl
@[simp] theorem setMetaPa_begun (s : State) (a v : Nat) : (s.setMetaPa a v).begun = s.begun := rfl
@[simp] theorem setMetaPa_nextId (s : State) (a v : Nat) : (s.setMetaPa a v).nextId = s.nextId := rfl
@[simp] theorem setMetaPa_reqs (s : State) (a v : Nat) : (s.setMetaPa a v).reqs = s.reqs := rfl
@[simp] theorem setMetaPa_orphans (s : State) (a v : Nat) : (s.setMetaPa a v).orphans = s.orphans := rfl
@[simp] theorem setMetaPa_tiles (s : State) (a v : Nat) : (s.setMetaPa a v).tiles = s.tiles := rfl
@[simp] theorem setMetaPa_regions (s : State) (a v : Nat) : (s.setMetaPa a v).regions = s.regions := rfl
@[simp] theorem setMetaPa_mem (s : State) (a v : Nat) : (s.setMetaPa a v).mem = s.mem := rfl
@[simp] theorem setMetaPa_stale (s : State) (a v : Nat) : (s.setMetaPa a v).stale = s.stale := rfl
@[simp] theorem setMetaPa_keyed (s : State) (a v : Nat) : (s.setMetaPa a v).keyed = s.keyed := rfl
@[simp] theorem setMetaPa_bad (s : State) (a v : Nat) : (s.setMetaPa a v).bad = s.bad := rfl
@[simp] theorem setMetaPa_vaults (s : State) (a v : Nat) : (s.setMetaPa a v).vaults = s.vaults := rfl
@[simp] theorem setMetaPa_migs (s : State) (a v : Nat) : (s.setMetaPa a v).migs = s.migs := rfl
@[simp] theorem setMetaPa_ptrs (s : State) (a v : Nat) : (s.setMetaPa a v).ptrs = s.ptrs := rfl
@[simp] theorem setMetaPa_shooting (s : State) (a v : Nat) : (s.setMetaPa a v).shooting = s.shooting := rfl
@[simp] theorem setMetaPa_shootSeq (s : State) (a v : Nat) : (s.setMetaPa a v).shootSeq = s.shootSeq := rfl
@[simp] theorem setMetaPa_shootLog (s : State) (a v : Nat) : (s.setMetaPa a v).shootLog = s.shootLog := rfl
@[simp] theorem setMetaPa_faults (s : State) (a v : Nat) : (s.setMetaPa a v).faults = s.faults := rfl
@[simp] theorem setMetaPa_hub (s : State) (a v : Nat) : (s.setMetaPa a v).hub = s.hub := rfl
@[simp] theorem setMetaPa_streams (s : State) (a v : Nat) : (s.setMetaPa a v).streams = s.streams := rfl
@[simp] theorem setMetaPa_appendRes (s : State) (a v : Nat) : (s.setMetaPa a v).appendRes = s.appendRes := rfl
@[simp] theorem setMetaPa_readySeq (s : State) (a v : Nat) : (s.setMetaPa a v).readySeq = s.readySeq := rfl
@[simp] theorem setMetaPa_instSeq (s : State) (a v : Nat) : (s.setMetaPa a v).instSeq = s.instSeq := rfl
@[simp] theorem setMetaPa_pops (s : State) (a v : Nat) : (s.setMetaPa a v).pops = s.pops := rfl
@[simp] theorem setMetaPa_rsv (s : State) (a v : Nat) : (s.setMetaPa a v).rsv = s.rsv := rfl
@[simp] theorem setMetaPa_lastStream (s : State) (a v : Nat) : (s.setMetaPa a v).lastStream = s.lastStream := rfl
@[simp] theorem setMetaPa_prod (s : State) (a v : Nat) : (s.setMetaPa a v).prod = s.prod := rfl
@[simp] theorem setMetaPa_compBuf (s : State) (a v : Nat) : (s.setMetaPa a v).compBuf = s.compBuf := rfl
@[simp] theorem setMetaPa_sent (s : State) (a v : Nat) : (s.setMetaPa a v).sent = s.sent := rfl
@[simp] theorem setMetaPa_irqs (s : State) (a v : Nat) : (s.setMetaPa a v).irqs = s.irqs := rfl
@[simp] theorem setMetaPa_tends (s : State) (a v : Nat) : (s.setMetaPa a v).tends = s.tends := rfl
@[simp] theorem setMetaPa_tendSeq (s : State) (a v : Nat) : (s.setMetaPa a v).tendSeq = s.tendSeq := rfl
@[simp] theorem setMetaPa_awards (s : State) (a v : Nat) : (s.setMetaPa a v).awards = s.awards := rfl
@[simp] theorem setMetaPa_wdraws (s : State) (a v : Nat) : (s.setMetaPa a v).wdraws = s.wdraws := rfl
@[simp] theorem setMetaPa_retends (s : State) (a v : Nat) : (s.setMetaPa a v).retends = s.retends := rfl
@[simp] theorem setMetaPa_falls (s : State) (a v : Nat) : (s.setMetaPa a v).falls = s.falls := rfl
@[simp] theorem setMetaPa_links (s : State) (a v : Nat) : (s.setMetaPa a v).links = s.links := rfl
@[simp] theorem setMetaPa_ready0 (s : State) (a v : Nat) : (s.setMetaPa a v).ready0 = s.ready0 := rfl
@[simp] theorem setMetaPa_ready1 (s : State) (a v : Nat) : (s.setMetaPa a v).ready1 = s.ready1 := rfl
@[simp] theorem setMetaPa_dead (s : State) (a v : Nat) : (s.setMetaPa a v).dead = s.dead := rfl
@[simp] theorem setMetaPa_stewTvec (s : State) (a v : Nat) : (s.setMetaPa a v).stewTvec = s.stewTvec := rfl
@[simp] theorem setMetaPa_stewBusy (s : State) (a v : Nat) : (s.setMetaPa a v).stewBusy = s.stewBusy := rfl
@[simp] theorem setMetaPa_stewRefused (s : State) (a v : Nat) : (s.setMetaPa a v).stewRefused = s.stewRefused := rfl
@[simp] theorem setMetaPa_dbgBusy (s : State) (a v : Nat) : (s.setMetaPa a v).dbgBusy = s.dbgBusy := rfl
@[simp] theorem setMetaPa_dbgData (s : State) (a v : Nat) : (s.setMetaPa a v).dbgData = s.dbgData := rfl
@[simp] theorem setMetaPa_dbgCause (s : State) (a v : Nat) : (s.setMetaPa a v).dbgCause = s.dbgCause := rfl
@[simp] theorem setMetaPa_dbgState (s : State) (a v : Nat) : (s.setMetaPa a v).dbgState = s.dbgState := rfl
@[simp] theorem setMetaPa_meas (s : State) (a v : Nat) : (s.setMetaPa a v).meas = s.meas := rfl
@[simp] theorem setMetaPa_repAddr (s : State) (a v : Nat) : (s.setMetaPa a v).repAddr = s.repAddr := rfl
@[simp] theorem setMetaPa_repNonce (s : State) (a v : Nat) : (s.setMetaPa a v).repNonce = s.repNonce := rfl
@[simp] theorem setMetaPa_repBusy (s : State) (a v : Nat) : (s.setMetaPa a v).repBusy = s.repBusy := rfl
@[simp] theorem setMetaPa_repCount (s : State) (a v : Nat) : (s.setMetaPa a v).repCount = s.repCount := rfl
@[simp] theorem setMetaPa_keys (s : State) (a v : Nat) : (s.setMetaPa a v).keys = s.keys := rfl
@[simp] theorem setMetaPa_nodeSet (s : State) (a v : Nat) : (s.setMetaPa a v).nodeSet = s.nodeSet := rfl
@[simp] theorem setMetaPa_errs (s : State) (a v : Nat) : (s.setMetaPa a v).errs = s.errs := rfl
@[simp] theorem setMetaPa_policy (s : State) (a v : Nat) : (s.setMetaPa a v).policy = s.policy := rfl
@[simp] theorem setMetaPa_errWin (s : State) (a v : Nat) : (s.setMetaPa a v).errWin = s.errWin := rfl
@[simp] theorem setMetaPa_islands (s : State) (a v : Nat) : (s.setMetaPa a v).islands = s.islands := rfl
@[simp] theorem setMetaPa_pausedAt (s : State) (a v : Nat) : (s.setMetaPa a v).pausedAt = s.pausedAt := rfl
@[simp] theorem setMetaPa_pausedSum (s : State) (a v : Nat) : (s.setMetaPa a v).pausedSum = s.pausedSum := rfl
@[simp] theorem setMetaPa_watts (s : State) (a v : Nat) : (s.setMetaPa a v).watts = s.watts := rfl
@[simp] theorem setMetaPa_wattsAt (s : State) (a v : Nat) : (s.setMetaPa a v).wattsAt = s.wattsAt := rfl
@[simp] theorem setMetaPa_intake (s : State) (a v : Nat) : (s.setMetaPa a v).intake = s.intake := rfl
@[simp] theorem setMetaPa_hartRead (s : State) (a v : Nat) : (s.setMetaPa a v).hartRead = s.hartRead := rfl
@[simp] theorem setMetaPa_ckpts (s : State) (a v : Nat) : (s.setMetaPa a v).ckpts = s.ckpts := rfl

/-! `writeAt`: `mem`, `stale`, `keyed` may change; every other field stays. -/

@[simp] theorem writeAt_agenda (s : State) (a n v : Nat) : (s.writeAt a n v).agenda = s.agenda := rfl
@[simp] theorem writeAt_tick (s : State) (a n v : Nat) : (s.writeAt a n v).tick = s.tick := rfl
@[simp] theorem writeAt_now (s : State) (a n v : Nat) : (s.writeAt a n v).now = s.now := rfl
@[simp] theorem writeAt_resetAt (s : State) (a n v : Nat) : (s.writeAt a n v).resetAt = s.resetAt := rfl
@[simp] theorem writeAt_free (s : State) (a n v : Nat) : (s.writeAt a n v).free = s.free := rfl
@[simp] theorem writeAt_site (s : State) (a n v : Nat) : (s.writeAt a n v).site = s.site := rfl
@[simp] theorem writeAt_ev (s : State) (a n v : Nat) : (s.writeAt a n v).ev = s.ev := rfl
@[simp] theorem writeAt_begun (s : State) (a n v : Nat) : (s.writeAt a n v).begun = s.begun := rfl
@[simp] theorem writeAt_nextId (s : State) (a n v : Nat) : (s.writeAt a n v).nextId = s.nextId := rfl
@[simp] theorem writeAt_reqs (s : State) (a n v : Nat) : (s.writeAt a n v).reqs = s.reqs := rfl
@[simp] theorem writeAt_orphans (s : State) (a n v : Nat) : (s.writeAt a n v).orphans = s.orphans := rfl
@[simp] theorem writeAt_tiles (s : State) (a n v : Nat) : (s.writeAt a n v).tiles = s.tiles := rfl
@[simp] theorem writeAt_regions (s : State) (a n v : Nat) : (s.writeAt a n v).regions = s.regions := rfl
@[simp] theorem writeAt_keyed (s : State) (a n v : Nat) : (s.writeAt a n v).keyed = unkeyed s.keyed a n := rfl
@[simp] theorem writeAt_blockWord (s : State) (a n v : Nat) : (s.writeAt a n v).blockWord = s.blockWord := rfl
@[simp] theorem writeAt_bad (s : State) (a n v : Nat) : (s.writeAt a n v).bad = s.bad := rfl
@[simp] theorem writeAt_vaults (s : State) (a n v : Nat) : (s.writeAt a n v).vaults = s.vaults := rfl
@[simp] theorem writeAt_migs (s : State) (a n v : Nat) : (s.writeAt a n v).migs = s.migs := rfl
@[simp] theorem writeAt_ptrs (s : State) (a n v : Nat) : (s.writeAt a n v).ptrs = s.ptrs := rfl
@[simp] theorem writeAt_shooting (s : State) (a n v : Nat) : (s.writeAt a n v).shooting = s.shooting := rfl
@[simp] theorem writeAt_shootSeq (s : State) (a n v : Nat) : (s.writeAt a n v).shootSeq = s.shootSeq := rfl
@[simp] theorem writeAt_shootLog (s : State) (a n v : Nat) : (s.writeAt a n v).shootLog = s.shootLog := rfl
@[simp] theorem writeAt_faults (s : State) (a n v : Nat) : (s.writeAt a n v).faults = s.faults := rfl
@[simp] theorem writeAt_hub (s : State) (a n v : Nat) : (s.writeAt a n v).hub = s.hub := rfl
@[simp] theorem writeAt_streams (s : State) (a n v : Nat) : (s.writeAt a n v).streams = s.streams := rfl
@[simp] theorem writeAt_appendRes (s : State) (a n v : Nat) : (s.writeAt a n v).appendRes = s.appendRes := rfl
@[simp] theorem writeAt_readySeq (s : State) (a n v : Nat) : (s.writeAt a n v).readySeq = s.readySeq := rfl
@[simp] theorem writeAt_instSeq (s : State) (a n v : Nat) : (s.writeAt a n v).instSeq = s.instSeq := rfl
@[simp] theorem writeAt_pops (s : State) (a n v : Nat) : (s.writeAt a n v).pops = s.pops := rfl
@[simp] theorem writeAt_rsv (s : State) (a n v : Nat) : (s.writeAt a n v).rsv = s.rsv := rfl
@[simp] theorem writeAt_lastStream (s : State) (a n v : Nat) : (s.writeAt a n v).lastStream = s.lastStream := rfl
@[simp] theorem writeAt_prod (s : State) (a n v : Nat) : (s.writeAt a n v).prod = s.prod := rfl
@[simp] theorem writeAt_compBuf (s : State) (a n v : Nat) : (s.writeAt a n v).compBuf = s.compBuf := rfl
@[simp] theorem writeAt_sent (s : State) (a n v : Nat) : (s.writeAt a n v).sent = s.sent := rfl
@[simp] theorem writeAt_irqs (s : State) (a n v : Nat) : (s.writeAt a n v).irqs = s.irqs := rfl
@[simp] theorem writeAt_tends (s : State) (a n v : Nat) : (s.writeAt a n v).tends = s.tends := rfl
@[simp] theorem writeAt_tendSeq (s : State) (a n v : Nat) : (s.writeAt a n v).tendSeq = s.tendSeq := rfl
@[simp] theorem writeAt_awards (s : State) (a n v : Nat) : (s.writeAt a n v).awards = s.awards := rfl
@[simp] theorem writeAt_wdraws (s : State) (a n v : Nat) : (s.writeAt a n v).wdraws = s.wdraws := rfl
@[simp] theorem writeAt_retends (s : State) (a n v : Nat) : (s.writeAt a n v).retends = s.retends := rfl
@[simp] theorem writeAt_falls (s : State) (a n v : Nat) : (s.writeAt a n v).falls = s.falls := rfl
@[simp] theorem writeAt_links (s : State) (a n v : Nat) : (s.writeAt a n v).links = s.links := rfl
@[simp] theorem writeAt_ready0 (s : State) (a n v : Nat) : (s.writeAt a n v).ready0 = s.ready0 := rfl
@[simp] theorem writeAt_ready1 (s : State) (a n v : Nat) : (s.writeAt a n v).ready1 = s.ready1 := rfl
@[simp] theorem writeAt_dead (s : State) (a n v : Nat) : (s.writeAt a n v).dead = s.dead := rfl
@[simp] theorem writeAt_stewTvec (s : State) (a n v : Nat) : (s.writeAt a n v).stewTvec = s.stewTvec := rfl
@[simp] theorem writeAt_stewBusy (s : State) (a n v : Nat) : (s.writeAt a n v).stewBusy = s.stewBusy := rfl
@[simp] theorem writeAt_stewRefused (s : State) (a n v : Nat) : (s.writeAt a n v).stewRefused = s.stewRefused := rfl
@[simp] theorem writeAt_dbgBusy (s : State) (a n v : Nat) : (s.writeAt a n v).dbgBusy = s.dbgBusy := rfl
@[simp] theorem writeAt_dbgData (s : State) (a n v : Nat) : (s.writeAt a n v).dbgData = s.dbgData := rfl
@[simp] theorem writeAt_dbgCause (s : State) (a n v : Nat) : (s.writeAt a n v).dbgCause = s.dbgCause := rfl
@[simp] theorem writeAt_dbgState (s : State) (a n v : Nat) : (s.writeAt a n v).dbgState = s.dbgState := rfl
@[simp] theorem writeAt_meas (s : State) (a n v : Nat) : (s.writeAt a n v).meas = s.meas := rfl
@[simp] theorem writeAt_repAddr (s : State) (a n v : Nat) : (s.writeAt a n v).repAddr = s.repAddr := rfl
@[simp] theorem writeAt_repNonce (s : State) (a n v : Nat) : (s.writeAt a n v).repNonce = s.repNonce := rfl
@[simp] theorem writeAt_repBusy (s : State) (a n v : Nat) : (s.writeAt a n v).repBusy = s.repBusy := rfl
@[simp] theorem writeAt_repCount (s : State) (a n v : Nat) : (s.writeAt a n v).repCount = s.repCount := rfl
@[simp] theorem writeAt_keys (s : State) (a n v : Nat) : (s.writeAt a n v).keys = s.keys := rfl
@[simp] theorem writeAt_nodeSet (s : State) (a n v : Nat) : (s.writeAt a n v).nodeSet = s.nodeSet := rfl
@[simp] theorem writeAt_errs (s : State) (a n v : Nat) : (s.writeAt a n v).errs = s.errs := rfl
@[simp] theorem writeAt_policy (s : State) (a n v : Nat) : (s.writeAt a n v).policy = s.policy := rfl
@[simp] theorem writeAt_errWin (s : State) (a n v : Nat) : (s.writeAt a n v).errWin = s.errWin := rfl
@[simp] theorem writeAt_islands (s : State) (a n v : Nat) : (s.writeAt a n v).islands = s.islands := rfl
@[simp] theorem writeAt_pausedAt (s : State) (a n v : Nat) : (s.writeAt a n v).pausedAt = s.pausedAt := rfl
@[simp] theorem writeAt_pausedSum (s : State) (a n v : Nat) : (s.writeAt a n v).pausedSum = s.pausedSum := rfl
@[simp] theorem writeAt_watts (s : State) (a n v : Nat) : (s.writeAt a n v).watts = s.watts := rfl
@[simp] theorem writeAt_wattsAt (s : State) (a n v : Nat) : (s.writeAt a n v).wattsAt = s.wattsAt := rfl
@[simp] theorem writeAt_intake (s : State) (a n v : Nat) : (s.writeAt a n v).intake = s.intake := rfl
@[simp] theorem writeAt_hartRead (s : State) (a n v : Nat) : (s.writeAt a n v).hartRead = s.hartRead := rfl
@[simp] theorem writeAt_ckpts (s : State) (a n v : Nat) : (s.writeAt a n v).ckpts = s.ckpts := rfl

/-! `writeRaw`: `mem`, `stale` may change; every other field stays. -/

@[simp] theorem writeRaw_agenda (s : State) (a n v : Nat) : (s.writeRaw a n v).agenda = s.agenda := rfl
@[simp] theorem writeRaw_tick (s : State) (a n v : Nat) : (s.writeRaw a n v).tick = s.tick := rfl
@[simp] theorem writeRaw_now (s : State) (a n v : Nat) : (s.writeRaw a n v).now = s.now := rfl
@[simp] theorem writeRaw_resetAt (s : State) (a n v : Nat) : (s.writeRaw a n v).resetAt = s.resetAt := rfl
@[simp] theorem writeRaw_free (s : State) (a n v : Nat) : (s.writeRaw a n v).free = s.free := rfl
@[simp] theorem writeRaw_site (s : State) (a n v : Nat) : (s.writeRaw a n v).site = s.site := rfl
@[simp] theorem writeRaw_ev (s : State) (a n v : Nat) : (s.writeRaw a n v).ev = s.ev := rfl
@[simp] theorem writeRaw_begun (s : State) (a n v : Nat) : (s.writeRaw a n v).begun = s.begun := rfl
@[simp] theorem writeRaw_nextId (s : State) (a n v : Nat) : (s.writeRaw a n v).nextId = s.nextId := rfl
@[simp] theorem writeRaw_reqs (s : State) (a n v : Nat) : (s.writeRaw a n v).reqs = s.reqs := rfl
@[simp] theorem writeRaw_orphans (s : State) (a n v : Nat) : (s.writeRaw a n v).orphans = s.orphans := rfl
@[simp] theorem writeRaw_tiles (s : State) (a n v : Nat) : (s.writeRaw a n v).tiles = s.tiles := rfl
@[simp] theorem writeRaw_regions (s : State) (a n v : Nat) : (s.writeRaw a n v).regions = s.regions := rfl
@[simp] theorem writeRaw_keyed (s : State) (a n v : Nat) : (s.writeRaw a n v).keyed = s.keyed := rfl
@[simp] theorem writeRaw_blockWord (s : State) (a n v : Nat) : (s.writeRaw a n v).blockWord = s.blockWord := rfl
@[simp] theorem writeRaw_bad (s : State) (a n v : Nat) : (s.writeRaw a n v).bad = s.bad := rfl
@[simp] theorem writeRaw_vaults (s : State) (a n v : Nat) : (s.writeRaw a n v).vaults = s.vaults := rfl
@[simp] theorem writeRaw_migs (s : State) (a n v : Nat) : (s.writeRaw a n v).migs = s.migs := rfl
@[simp] theorem writeRaw_ptrs (s : State) (a n v : Nat) : (s.writeRaw a n v).ptrs = s.ptrs := rfl
@[simp] theorem writeRaw_shooting (s : State) (a n v : Nat) : (s.writeRaw a n v).shooting = s.shooting := rfl
@[simp] theorem writeRaw_shootSeq (s : State) (a n v : Nat) : (s.writeRaw a n v).shootSeq = s.shootSeq := rfl
@[simp] theorem writeRaw_shootLog (s : State) (a n v : Nat) : (s.writeRaw a n v).shootLog = s.shootLog := rfl
@[simp] theorem writeRaw_faults (s : State) (a n v : Nat) : (s.writeRaw a n v).faults = s.faults := rfl
@[simp] theorem writeRaw_hub (s : State) (a n v : Nat) : (s.writeRaw a n v).hub = s.hub := rfl
@[simp] theorem writeRaw_streams (s : State) (a n v : Nat) : (s.writeRaw a n v).streams = s.streams := rfl
@[simp] theorem writeRaw_appendRes (s : State) (a n v : Nat) : (s.writeRaw a n v).appendRes = s.appendRes := rfl
@[simp] theorem writeRaw_readySeq (s : State) (a n v : Nat) : (s.writeRaw a n v).readySeq = s.readySeq := rfl
@[simp] theorem writeRaw_instSeq (s : State) (a n v : Nat) : (s.writeRaw a n v).instSeq = s.instSeq := rfl
@[simp] theorem writeRaw_pops (s : State) (a n v : Nat) : (s.writeRaw a n v).pops = s.pops := rfl
@[simp] theorem writeRaw_rsv (s : State) (a n v : Nat) : (s.writeRaw a n v).rsv = s.rsv := rfl
@[simp] theorem writeRaw_lastStream (s : State) (a n v : Nat) : (s.writeRaw a n v).lastStream = s.lastStream := rfl
@[simp] theorem writeRaw_prod (s : State) (a n v : Nat) : (s.writeRaw a n v).prod = s.prod := rfl
@[simp] theorem writeRaw_compBuf (s : State) (a n v : Nat) : (s.writeRaw a n v).compBuf = s.compBuf := rfl
@[simp] theorem writeRaw_sent (s : State) (a n v : Nat) : (s.writeRaw a n v).sent = s.sent := rfl
@[simp] theorem writeRaw_irqs (s : State) (a n v : Nat) : (s.writeRaw a n v).irqs = s.irqs := rfl
@[simp] theorem writeRaw_tends (s : State) (a n v : Nat) : (s.writeRaw a n v).tends = s.tends := rfl
@[simp] theorem writeRaw_tendSeq (s : State) (a n v : Nat) : (s.writeRaw a n v).tendSeq = s.tendSeq := rfl
@[simp] theorem writeRaw_awards (s : State) (a n v : Nat) : (s.writeRaw a n v).awards = s.awards := rfl
@[simp] theorem writeRaw_wdraws (s : State) (a n v : Nat) : (s.writeRaw a n v).wdraws = s.wdraws := rfl
@[simp] theorem writeRaw_retends (s : State) (a n v : Nat) : (s.writeRaw a n v).retends = s.retends := rfl
@[simp] theorem writeRaw_falls (s : State) (a n v : Nat) : (s.writeRaw a n v).falls = s.falls := rfl
@[simp] theorem writeRaw_links (s : State) (a n v : Nat) : (s.writeRaw a n v).links = s.links := rfl
@[simp] theorem writeRaw_ready0 (s : State) (a n v : Nat) : (s.writeRaw a n v).ready0 = s.ready0 := rfl
@[simp] theorem writeRaw_ready1 (s : State) (a n v : Nat) : (s.writeRaw a n v).ready1 = s.ready1 := rfl
@[simp] theorem writeRaw_dead (s : State) (a n v : Nat) : (s.writeRaw a n v).dead = s.dead := rfl
@[simp] theorem writeRaw_stewTvec (s : State) (a n v : Nat) : (s.writeRaw a n v).stewTvec = s.stewTvec := rfl
@[simp] theorem writeRaw_stewBusy (s : State) (a n v : Nat) : (s.writeRaw a n v).stewBusy = s.stewBusy := rfl
@[simp] theorem writeRaw_stewRefused (s : State) (a n v : Nat) : (s.writeRaw a n v).stewRefused = s.stewRefused := rfl
@[simp] theorem writeRaw_dbgBusy (s : State) (a n v : Nat) : (s.writeRaw a n v).dbgBusy = s.dbgBusy := rfl
@[simp] theorem writeRaw_dbgData (s : State) (a n v : Nat) : (s.writeRaw a n v).dbgData = s.dbgData := rfl
@[simp] theorem writeRaw_dbgCause (s : State) (a n v : Nat) : (s.writeRaw a n v).dbgCause = s.dbgCause := rfl
@[simp] theorem writeRaw_dbgState (s : State) (a n v : Nat) : (s.writeRaw a n v).dbgState = s.dbgState := rfl
@[simp] theorem writeRaw_meas (s : State) (a n v : Nat) : (s.writeRaw a n v).meas = s.meas := rfl
@[simp] theorem writeRaw_repAddr (s : State) (a n v : Nat) : (s.writeRaw a n v).repAddr = s.repAddr := rfl
@[simp] theorem writeRaw_repNonce (s : State) (a n v : Nat) : (s.writeRaw a n v).repNonce = s.repNonce := rfl
@[simp] theorem writeRaw_repBusy (s : State) (a n v : Nat) : (s.writeRaw a n v).repBusy = s.repBusy := rfl
@[simp] theorem writeRaw_repCount (s : State) (a n v : Nat) : (s.writeRaw a n v).repCount = s.repCount := rfl
@[simp] theorem writeRaw_keys (s : State) (a n v : Nat) : (s.writeRaw a n v).keys = s.keys := rfl
@[simp] theorem writeRaw_nodeSet (s : State) (a n v : Nat) : (s.writeRaw a n v).nodeSet = s.nodeSet := rfl
@[simp] theorem writeRaw_errs (s : State) (a n v : Nat) : (s.writeRaw a n v).errs = s.errs := rfl
@[simp] theorem writeRaw_policy (s : State) (a n v : Nat) : (s.writeRaw a n v).policy = s.policy := rfl
@[simp] theorem writeRaw_errWin (s : State) (a n v : Nat) : (s.writeRaw a n v).errWin = s.errWin := rfl
@[simp] theorem writeRaw_islands (s : State) (a n v : Nat) : (s.writeRaw a n v).islands = s.islands := rfl
@[simp] theorem writeRaw_pausedAt (s : State) (a n v : Nat) : (s.writeRaw a n v).pausedAt = s.pausedAt := rfl
@[simp] theorem writeRaw_pausedSum (s : State) (a n v : Nat) : (s.writeRaw a n v).pausedSum = s.pausedSum := rfl
@[simp] theorem writeRaw_watts (s : State) (a n v : Nat) : (s.writeRaw a n v).watts = s.watts := rfl
@[simp] theorem writeRaw_wattsAt (s : State) (a n v : Nat) : (s.writeRaw a n v).wattsAt = s.wattsAt := rfl
@[simp] theorem writeRaw_intake (s : State) (a n v : Nat) : (s.writeRaw a n v).intake = s.intake := rfl
@[simp] theorem writeRaw_hartRead (s : State) (a n v : Nat) : (s.writeRaw a n v).hartRead = s.hartRead := rfl
@[simp] theorem writeRaw_ckpts (s : State) (a n v : Nat) : (s.writeRaw a n v).ckpts = s.ckpts := rfl

/-! `setMetaAt`: `blockWord` may change; every other field stays. -/

@[simp] theorem setMetaAt_agenda (s : State) (a v : Nat) : (s.setMetaAt a v).agenda = s.agenda := rfl
@[simp] theorem setMetaAt_tick (s : State) (a v : Nat) : (s.setMetaAt a v).tick = s.tick := rfl
@[simp] theorem setMetaAt_now (s : State) (a v : Nat) : (s.setMetaAt a v).now = s.now := rfl
@[simp] theorem setMetaAt_resetAt (s : State) (a v : Nat) : (s.setMetaAt a v).resetAt = s.resetAt := rfl
@[simp] theorem setMetaAt_free (s : State) (a v : Nat) : (s.setMetaAt a v).free = s.free := rfl
@[simp] theorem setMetaAt_site (s : State) (a v : Nat) : (s.setMetaAt a v).site = s.site := rfl
@[simp] theorem setMetaAt_ev (s : State) (a v : Nat) : (s.setMetaAt a v).ev = s.ev := rfl
@[simp] theorem setMetaAt_begun (s : State) (a v : Nat) : (s.setMetaAt a v).begun = s.begun := rfl
@[simp] theorem setMetaAt_nextId (s : State) (a v : Nat) : (s.setMetaAt a v).nextId = s.nextId := rfl
@[simp] theorem setMetaAt_reqs (s : State) (a v : Nat) : (s.setMetaAt a v).reqs = s.reqs := rfl
@[simp] theorem setMetaAt_orphans (s : State) (a v : Nat) : (s.setMetaAt a v).orphans = s.orphans := rfl
@[simp] theorem setMetaAt_tiles (s : State) (a v : Nat) : (s.setMetaAt a v).tiles = s.tiles := rfl
@[simp] theorem setMetaAt_regions (s : State) (a v : Nat) : (s.setMetaAt a v).regions = s.regions := rfl
@[simp] theorem setMetaAt_mem (s : State) (a v : Nat) : (s.setMetaAt a v).mem = s.mem := rfl
@[simp] theorem setMetaAt_stale (s : State) (a v : Nat) : (s.setMetaAt a v).stale = s.stale := rfl
@[simp] theorem setMetaAt_keyed (s : State) (a v : Nat) : (s.setMetaAt a v).keyed = s.keyed := rfl
@[simp] theorem setMetaAt_bad (s : State) (a v : Nat) : (s.setMetaAt a v).bad = s.bad := rfl
@[simp] theorem setMetaAt_vaults (s : State) (a v : Nat) : (s.setMetaAt a v).vaults = s.vaults := rfl
@[simp] theorem setMetaAt_migs (s : State) (a v : Nat) : (s.setMetaAt a v).migs = s.migs := rfl
@[simp] theorem setMetaAt_ptrs (s : State) (a v : Nat) : (s.setMetaAt a v).ptrs = s.ptrs := rfl
@[simp] theorem setMetaAt_shooting (s : State) (a v : Nat) : (s.setMetaAt a v).shooting = s.shooting := rfl
@[simp] theorem setMetaAt_shootSeq (s : State) (a v : Nat) : (s.setMetaAt a v).shootSeq = s.shootSeq := rfl
@[simp] theorem setMetaAt_shootLog (s : State) (a v : Nat) : (s.setMetaAt a v).shootLog = s.shootLog := rfl
@[simp] theorem setMetaAt_faults (s : State) (a v : Nat) : (s.setMetaAt a v).faults = s.faults := rfl
@[simp] theorem setMetaAt_hub (s : State) (a v : Nat) : (s.setMetaAt a v).hub = s.hub := rfl
@[simp] theorem setMetaAt_streams (s : State) (a v : Nat) : (s.setMetaAt a v).streams = s.streams := rfl
@[simp] theorem setMetaAt_appendRes (s : State) (a v : Nat) : (s.setMetaAt a v).appendRes = s.appendRes := rfl
@[simp] theorem setMetaAt_readySeq (s : State) (a v : Nat) : (s.setMetaAt a v).readySeq = s.readySeq := rfl
@[simp] theorem setMetaAt_instSeq (s : State) (a v : Nat) : (s.setMetaAt a v).instSeq = s.instSeq := rfl
@[simp] theorem setMetaAt_pops (s : State) (a v : Nat) : (s.setMetaAt a v).pops = s.pops := rfl
@[simp] theorem setMetaAt_rsv (s : State) (a v : Nat) : (s.setMetaAt a v).rsv = s.rsv := rfl
@[simp] theorem setMetaAt_lastStream (s : State) (a v : Nat) : (s.setMetaAt a v).lastStream = s.lastStream := rfl
@[simp] theorem setMetaAt_prod (s : State) (a v : Nat) : (s.setMetaAt a v).prod = s.prod := rfl
@[simp] theorem setMetaAt_compBuf (s : State) (a v : Nat) : (s.setMetaAt a v).compBuf = s.compBuf := rfl
@[simp] theorem setMetaAt_sent (s : State) (a v : Nat) : (s.setMetaAt a v).sent = s.sent := rfl
@[simp] theorem setMetaAt_irqs (s : State) (a v : Nat) : (s.setMetaAt a v).irqs = s.irqs := rfl
@[simp] theorem setMetaAt_tends (s : State) (a v : Nat) : (s.setMetaAt a v).tends = s.tends := rfl
@[simp] theorem setMetaAt_tendSeq (s : State) (a v : Nat) : (s.setMetaAt a v).tendSeq = s.tendSeq := rfl
@[simp] theorem setMetaAt_awards (s : State) (a v : Nat) : (s.setMetaAt a v).awards = s.awards := rfl
@[simp] theorem setMetaAt_wdraws (s : State) (a v : Nat) : (s.setMetaAt a v).wdraws = s.wdraws := rfl
@[simp] theorem setMetaAt_retends (s : State) (a v : Nat) : (s.setMetaAt a v).retends = s.retends := rfl
@[simp] theorem setMetaAt_falls (s : State) (a v : Nat) : (s.setMetaAt a v).falls = s.falls := rfl
@[simp] theorem setMetaAt_links (s : State) (a v : Nat) : (s.setMetaAt a v).links = s.links := rfl
@[simp] theorem setMetaAt_ready0 (s : State) (a v : Nat) : (s.setMetaAt a v).ready0 = s.ready0 := rfl
@[simp] theorem setMetaAt_ready1 (s : State) (a v : Nat) : (s.setMetaAt a v).ready1 = s.ready1 := rfl
@[simp] theorem setMetaAt_dead (s : State) (a v : Nat) : (s.setMetaAt a v).dead = s.dead := rfl
@[simp] theorem setMetaAt_stewTvec (s : State) (a v : Nat) : (s.setMetaAt a v).stewTvec = s.stewTvec := rfl
@[simp] theorem setMetaAt_stewBusy (s : State) (a v : Nat) : (s.setMetaAt a v).stewBusy = s.stewBusy := rfl
@[simp] theorem setMetaAt_stewRefused (s : State) (a v : Nat) : (s.setMetaAt a v).stewRefused = s.stewRefused := rfl
@[simp] theorem setMetaAt_dbgBusy (s : State) (a v : Nat) : (s.setMetaAt a v).dbgBusy = s.dbgBusy := rfl
@[simp] theorem setMetaAt_dbgData (s : State) (a v : Nat) : (s.setMetaAt a v).dbgData = s.dbgData := rfl
@[simp] theorem setMetaAt_dbgCause (s : State) (a v : Nat) : (s.setMetaAt a v).dbgCause = s.dbgCause := rfl
@[simp] theorem setMetaAt_dbgState (s : State) (a v : Nat) : (s.setMetaAt a v).dbgState = s.dbgState := rfl
@[simp] theorem setMetaAt_meas (s : State) (a v : Nat) : (s.setMetaAt a v).meas = s.meas := rfl
@[simp] theorem setMetaAt_repAddr (s : State) (a v : Nat) : (s.setMetaAt a v).repAddr = s.repAddr := rfl
@[simp] theorem setMetaAt_repNonce (s : State) (a v : Nat) : (s.setMetaAt a v).repNonce = s.repNonce := rfl
@[simp] theorem setMetaAt_repBusy (s : State) (a v : Nat) : (s.setMetaAt a v).repBusy = s.repBusy := rfl
@[simp] theorem setMetaAt_repCount (s : State) (a v : Nat) : (s.setMetaAt a v).repCount = s.repCount := rfl
@[simp] theorem setMetaAt_keys (s : State) (a v : Nat) : (s.setMetaAt a v).keys = s.keys := rfl
@[simp] theorem setMetaAt_nodeSet (s : State) (a v : Nat) : (s.setMetaAt a v).nodeSet = s.nodeSet := rfl
@[simp] theorem setMetaAt_errs (s : State) (a v : Nat) : (s.setMetaAt a v).errs = s.errs := rfl
@[simp] theorem setMetaAt_policy (s : State) (a v : Nat) : (s.setMetaAt a v).policy = s.policy := rfl
@[simp] theorem setMetaAt_errWin (s : State) (a v : Nat) : (s.setMetaAt a v).errWin = s.errWin := rfl
@[simp] theorem setMetaAt_islands (s : State) (a v : Nat) : (s.setMetaAt a v).islands = s.islands := rfl
@[simp] theorem setMetaAt_pausedAt (s : State) (a v : Nat) : (s.setMetaAt a v).pausedAt = s.pausedAt := rfl
@[simp] theorem setMetaAt_pausedSum (s : State) (a v : Nat) : (s.setMetaAt a v).pausedSum = s.pausedSum := rfl
@[simp] theorem setMetaAt_watts (s : State) (a v : Nat) : (s.setMetaAt a v).watts = s.watts := rfl
@[simp] theorem setMetaAt_wattsAt (s : State) (a v : Nat) : (s.setMetaAt a v).wattsAt = s.wattsAt := rfl
@[simp] theorem setMetaAt_intake (s : State) (a v : Nat) : (s.setMetaAt a v).intake = s.intake := rfl
@[simp] theorem setMetaAt_hartRead (s : State) (a v : Nat) : (s.setMetaAt a v).hartRead = s.hartRead := rfl
@[simp] theorem setMetaAt_ckpts (s : State) (a v : Nat) : (s.setMetaAt a v).ckpts = s.ckpts := rfl

/-! `writeSp`: `tiles` may change; every other field stays. -/

@[simp] theorem writeSp_agenda (s : State) (g o n v : Nat) : (s.writeSp g o n v).agenda = s.agenda := rfl
@[simp] theorem writeSp_tick (s : State) (g o n v : Nat) : (s.writeSp g o n v).tick = s.tick := rfl
@[simp] theorem writeSp_now (s : State) (g o n v : Nat) : (s.writeSp g o n v).now = s.now := rfl
@[simp] theorem writeSp_resetAt (s : State) (g o n v : Nat) : (s.writeSp g o n v).resetAt = s.resetAt := rfl
@[simp] theorem writeSp_free (s : State) (g o n v : Nat) : (s.writeSp g o n v).free = s.free := rfl
@[simp] theorem writeSp_site (s : State) (g o n v : Nat) : (s.writeSp g o n v).site = s.site := rfl
@[simp] theorem writeSp_ev (s : State) (g o n v : Nat) : (s.writeSp g o n v).ev = s.ev := rfl
@[simp] theorem writeSp_begun (s : State) (g o n v : Nat) : (s.writeSp g o n v).begun = s.begun := rfl
@[simp] theorem writeSp_nextId (s : State) (g o n v : Nat) : (s.writeSp g o n v).nextId = s.nextId := rfl
@[simp] theorem writeSp_reqs (s : State) (g o n v : Nat) : (s.writeSp g o n v).reqs = s.reqs := rfl
@[simp] theorem writeSp_orphans (s : State) (g o n v : Nat) : (s.writeSp g o n v).orphans = s.orphans := rfl
@[simp] theorem writeSp_regions (s : State) (g o n v : Nat) : (s.writeSp g o n v).regions = s.regions := rfl
@[simp] theorem writeSp_mem (s : State) (g o n v : Nat) : (s.writeSp g o n v).mem = s.mem := rfl
@[simp] theorem writeSp_stale (s : State) (g o n v : Nat) : (s.writeSp g o n v).stale = s.stale := rfl
@[simp] theorem writeSp_keyed (s : State) (g o n v : Nat) : (s.writeSp g o n v).keyed = s.keyed := rfl
@[simp] theorem writeSp_blockWord (s : State) (g o n v : Nat) : (s.writeSp g o n v).blockWord = s.blockWord := rfl
@[simp] theorem writeSp_bad (s : State) (g o n v : Nat) : (s.writeSp g o n v).bad = s.bad := rfl
@[simp] theorem writeSp_vaults (s : State) (g o n v : Nat) : (s.writeSp g o n v).vaults = s.vaults := rfl
@[simp] theorem writeSp_migs (s : State) (g o n v : Nat) : (s.writeSp g o n v).migs = s.migs := rfl
@[simp] theorem writeSp_ptrs (s : State) (g o n v : Nat) : (s.writeSp g o n v).ptrs = s.ptrs := rfl
@[simp] theorem writeSp_shooting (s : State) (g o n v : Nat) : (s.writeSp g o n v).shooting = s.shooting := rfl
@[simp] theorem writeSp_shootSeq (s : State) (g o n v : Nat) : (s.writeSp g o n v).shootSeq = s.shootSeq := rfl
@[simp] theorem writeSp_shootLog (s : State) (g o n v : Nat) : (s.writeSp g o n v).shootLog = s.shootLog := rfl
@[simp] theorem writeSp_faults (s : State) (g o n v : Nat) : (s.writeSp g o n v).faults = s.faults := rfl
@[simp] theorem writeSp_hub (s : State) (g o n v : Nat) : (s.writeSp g o n v).hub = s.hub := rfl
@[simp] theorem writeSp_streams (s : State) (g o n v : Nat) : (s.writeSp g o n v).streams = s.streams := rfl
@[simp] theorem writeSp_appendRes (s : State) (g o n v : Nat) : (s.writeSp g o n v).appendRes = s.appendRes := rfl
@[simp] theorem writeSp_readySeq (s : State) (g o n v : Nat) : (s.writeSp g o n v).readySeq = s.readySeq := rfl
@[simp] theorem writeSp_instSeq (s : State) (g o n v : Nat) : (s.writeSp g o n v).instSeq = s.instSeq := rfl
@[simp] theorem writeSp_pops (s : State) (g o n v : Nat) : (s.writeSp g o n v).pops = s.pops := rfl
@[simp] theorem writeSp_rsv (s : State) (g o n v : Nat) : (s.writeSp g o n v).rsv = s.rsv := rfl
@[simp] theorem writeSp_lastStream (s : State) (g o n v : Nat) : (s.writeSp g o n v).lastStream = s.lastStream := rfl
@[simp] theorem writeSp_prod (s : State) (g o n v : Nat) : (s.writeSp g o n v).prod = s.prod := rfl
@[simp] theorem writeSp_compBuf (s : State) (g o n v : Nat) : (s.writeSp g o n v).compBuf = s.compBuf := rfl
@[simp] theorem writeSp_sent (s : State) (g o n v : Nat) : (s.writeSp g o n v).sent = s.sent := rfl
@[simp] theorem writeSp_irqs (s : State) (g o n v : Nat) : (s.writeSp g o n v).irqs = s.irqs := rfl
@[simp] theorem writeSp_tends (s : State) (g o n v : Nat) : (s.writeSp g o n v).tends = s.tends := rfl
@[simp] theorem writeSp_tendSeq (s : State) (g o n v : Nat) : (s.writeSp g o n v).tendSeq = s.tendSeq := rfl
@[simp] theorem writeSp_awards (s : State) (g o n v : Nat) : (s.writeSp g o n v).awards = s.awards := rfl
@[simp] theorem writeSp_wdraws (s : State) (g o n v : Nat) : (s.writeSp g o n v).wdraws = s.wdraws := rfl
@[simp] theorem writeSp_retends (s : State) (g o n v : Nat) : (s.writeSp g o n v).retends = s.retends := rfl
@[simp] theorem writeSp_falls (s : State) (g o n v : Nat) : (s.writeSp g o n v).falls = s.falls := rfl
@[simp] theorem writeSp_links (s : State) (g o n v : Nat) : (s.writeSp g o n v).links = s.links := rfl
@[simp] theorem writeSp_ready0 (s : State) (g o n v : Nat) : (s.writeSp g o n v).ready0 = s.ready0 := rfl
@[simp] theorem writeSp_ready1 (s : State) (g o n v : Nat) : (s.writeSp g o n v).ready1 = s.ready1 := rfl
@[simp] theorem writeSp_dead (s : State) (g o n v : Nat) : (s.writeSp g o n v).dead = s.dead := rfl
@[simp] theorem writeSp_stewTvec (s : State) (g o n v : Nat) : (s.writeSp g o n v).stewTvec = s.stewTvec := rfl
@[simp] theorem writeSp_stewBusy (s : State) (g o n v : Nat) : (s.writeSp g o n v).stewBusy = s.stewBusy := rfl
@[simp] theorem writeSp_stewRefused (s : State) (g o n v : Nat) : (s.writeSp g o n v).stewRefused = s.stewRefused := rfl
@[simp] theorem writeSp_dbgBusy (s : State) (g o n v : Nat) : (s.writeSp g o n v).dbgBusy = s.dbgBusy := rfl
@[simp] theorem writeSp_dbgData (s : State) (g o n v : Nat) : (s.writeSp g o n v).dbgData = s.dbgData := rfl
@[simp] theorem writeSp_dbgCause (s : State) (g o n v : Nat) : (s.writeSp g o n v).dbgCause = s.dbgCause := rfl
@[simp] theorem writeSp_dbgState (s : State) (g o n v : Nat) : (s.writeSp g o n v).dbgState = s.dbgState := rfl
@[simp] theorem writeSp_meas (s : State) (g o n v : Nat) : (s.writeSp g o n v).meas = s.meas := rfl
@[simp] theorem writeSp_repAddr (s : State) (g o n v : Nat) : (s.writeSp g o n v).repAddr = s.repAddr := rfl
@[simp] theorem writeSp_repNonce (s : State) (g o n v : Nat) : (s.writeSp g o n v).repNonce = s.repNonce := rfl
@[simp] theorem writeSp_repBusy (s : State) (g o n v : Nat) : (s.writeSp g o n v).repBusy = s.repBusy := rfl
@[simp] theorem writeSp_repCount (s : State) (g o n v : Nat) : (s.writeSp g o n v).repCount = s.repCount := rfl
@[simp] theorem writeSp_keys (s : State) (g o n v : Nat) : (s.writeSp g o n v).keys = s.keys := rfl
@[simp] theorem writeSp_nodeSet (s : State) (g o n v : Nat) : (s.writeSp g o n v).nodeSet = s.nodeSet := rfl
@[simp] theorem writeSp_errs (s : State) (g o n v : Nat) : (s.writeSp g o n v).errs = s.errs := rfl
@[simp] theorem writeSp_policy (s : State) (g o n v : Nat) : (s.writeSp g o n v).policy = s.policy := rfl
@[simp] theorem writeSp_errWin (s : State) (g o n v : Nat) : (s.writeSp g o n v).errWin = s.errWin := rfl
@[simp] theorem writeSp_islands (s : State) (g o n v : Nat) : (s.writeSp g o n v).islands = s.islands := rfl
@[simp] theorem writeSp_pausedAt (s : State) (g o n v : Nat) : (s.writeSp g o n v).pausedAt = s.pausedAt := rfl
@[simp] theorem writeSp_pausedSum (s : State) (g o n v : Nat) : (s.writeSp g o n v).pausedSum = s.pausedSum := rfl
@[simp] theorem writeSp_watts (s : State) (g o n v : Nat) : (s.writeSp g o n v).watts = s.watts := rfl
@[simp] theorem writeSp_wattsAt (s : State) (g o n v : Nat) : (s.writeSp g o n v).wattsAt = s.wattsAt := rfl
@[simp] theorem writeSp_intake (s : State) (g o n v : Nat) : (s.writeSp g o n v).intake = s.intake := rfl
@[simp] theorem writeSp_hartRead (s : State) (g o n v : Nat) : (s.writeSp g o n v).hartRead = s.hartRead := rfl
@[simp] theorem writeSp_ckpts (s : State) (g o n v : Nat) : (s.writeSp g o n v).ckpts = s.ckpts := rfl

/-! `setMetaSp`: `tiles` may change; every other field stays. -/

@[simp] theorem setMetaSp_agenda (s : State) (g o v : Nat) : (s.setMetaSp g o v).agenda = s.agenda := rfl
@[simp] theorem setMetaSp_tick (s : State) (g o v : Nat) : (s.setMetaSp g o v).tick = s.tick := rfl
@[simp] theorem setMetaSp_now (s : State) (g o v : Nat) : (s.setMetaSp g o v).now = s.now := rfl
@[simp] theorem setMetaSp_resetAt (s : State) (g o v : Nat) : (s.setMetaSp g o v).resetAt = s.resetAt := rfl
@[simp] theorem setMetaSp_free (s : State) (g o v : Nat) : (s.setMetaSp g o v).free = s.free := rfl
@[simp] theorem setMetaSp_site (s : State) (g o v : Nat) : (s.setMetaSp g o v).site = s.site := rfl
@[simp] theorem setMetaSp_ev (s : State) (g o v : Nat) : (s.setMetaSp g o v).ev = s.ev := rfl
@[simp] theorem setMetaSp_begun (s : State) (g o v : Nat) : (s.setMetaSp g o v).begun = s.begun := rfl
@[simp] theorem setMetaSp_nextId (s : State) (g o v : Nat) : (s.setMetaSp g o v).nextId = s.nextId := rfl
@[simp] theorem setMetaSp_reqs (s : State) (g o v : Nat) : (s.setMetaSp g o v).reqs = s.reqs := rfl
@[simp] theorem setMetaSp_orphans (s : State) (g o v : Nat) : (s.setMetaSp g o v).orphans = s.orphans := rfl
@[simp] theorem setMetaSp_regions (s : State) (g o v : Nat) : (s.setMetaSp g o v).regions = s.regions := rfl
@[simp] theorem setMetaSp_mem (s : State) (g o v : Nat) : (s.setMetaSp g o v).mem = s.mem := rfl
@[simp] theorem setMetaSp_stale (s : State) (g o v : Nat) : (s.setMetaSp g o v).stale = s.stale := rfl
@[simp] theorem setMetaSp_keyed (s : State) (g o v : Nat) : (s.setMetaSp g o v).keyed = s.keyed := rfl
@[simp] theorem setMetaSp_blockWord (s : State) (g o v : Nat) : (s.setMetaSp g o v).blockWord = s.blockWord := rfl
@[simp] theorem setMetaSp_bad (s : State) (g o v : Nat) : (s.setMetaSp g o v).bad = s.bad := rfl
@[simp] theorem setMetaSp_vaults (s : State) (g o v : Nat) : (s.setMetaSp g o v).vaults = s.vaults := rfl
@[simp] theorem setMetaSp_migs (s : State) (g o v : Nat) : (s.setMetaSp g o v).migs = s.migs := rfl
@[simp] theorem setMetaSp_ptrs (s : State) (g o v : Nat) : (s.setMetaSp g o v).ptrs = s.ptrs := rfl
@[simp] theorem setMetaSp_shooting (s : State) (g o v : Nat) : (s.setMetaSp g o v).shooting = s.shooting := rfl
@[simp] theorem setMetaSp_shootSeq (s : State) (g o v : Nat) : (s.setMetaSp g o v).shootSeq = s.shootSeq := rfl
@[simp] theorem setMetaSp_shootLog (s : State) (g o v : Nat) : (s.setMetaSp g o v).shootLog = s.shootLog := rfl
@[simp] theorem setMetaSp_faults (s : State) (g o v : Nat) : (s.setMetaSp g o v).faults = s.faults := rfl
@[simp] theorem setMetaSp_hub (s : State) (g o v : Nat) : (s.setMetaSp g o v).hub = s.hub := rfl
@[simp] theorem setMetaSp_streams (s : State) (g o v : Nat) : (s.setMetaSp g o v).streams = s.streams := rfl
@[simp] theorem setMetaSp_appendRes (s : State) (g o v : Nat) : (s.setMetaSp g o v).appendRes = s.appendRes := rfl
@[simp] theorem setMetaSp_readySeq (s : State) (g o v : Nat) : (s.setMetaSp g o v).readySeq = s.readySeq := rfl
@[simp] theorem setMetaSp_instSeq (s : State) (g o v : Nat) : (s.setMetaSp g o v).instSeq = s.instSeq := rfl
@[simp] theorem setMetaSp_pops (s : State) (g o v : Nat) : (s.setMetaSp g o v).pops = s.pops := rfl
@[simp] theorem setMetaSp_rsv (s : State) (g o v : Nat) : (s.setMetaSp g o v).rsv = s.rsv := rfl
@[simp] theorem setMetaSp_lastStream (s : State) (g o v : Nat) : (s.setMetaSp g o v).lastStream = s.lastStream := rfl
@[simp] theorem setMetaSp_prod (s : State) (g o v : Nat) : (s.setMetaSp g o v).prod = s.prod := rfl
@[simp] theorem setMetaSp_compBuf (s : State) (g o v : Nat) : (s.setMetaSp g o v).compBuf = s.compBuf := rfl
@[simp] theorem setMetaSp_sent (s : State) (g o v : Nat) : (s.setMetaSp g o v).sent = s.sent := rfl
@[simp] theorem setMetaSp_irqs (s : State) (g o v : Nat) : (s.setMetaSp g o v).irqs = s.irqs := rfl
@[simp] theorem setMetaSp_tends (s : State) (g o v : Nat) : (s.setMetaSp g o v).tends = s.tends := rfl
@[simp] theorem setMetaSp_tendSeq (s : State) (g o v : Nat) : (s.setMetaSp g o v).tendSeq = s.tendSeq := rfl
@[simp] theorem setMetaSp_awards (s : State) (g o v : Nat) : (s.setMetaSp g o v).awards = s.awards := rfl
@[simp] theorem setMetaSp_wdraws (s : State) (g o v : Nat) : (s.setMetaSp g o v).wdraws = s.wdraws := rfl
@[simp] theorem setMetaSp_retends (s : State) (g o v : Nat) : (s.setMetaSp g o v).retends = s.retends := rfl
@[simp] theorem setMetaSp_falls (s : State) (g o v : Nat) : (s.setMetaSp g o v).falls = s.falls := rfl
@[simp] theorem setMetaSp_links (s : State) (g o v : Nat) : (s.setMetaSp g o v).links = s.links := rfl
@[simp] theorem setMetaSp_ready0 (s : State) (g o v : Nat) : (s.setMetaSp g o v).ready0 = s.ready0 := rfl
@[simp] theorem setMetaSp_ready1 (s : State) (g o v : Nat) : (s.setMetaSp g o v).ready1 = s.ready1 := rfl
@[simp] theorem setMetaSp_dead (s : State) (g o v : Nat) : (s.setMetaSp g o v).dead = s.dead := rfl
@[simp] theorem setMetaSp_stewTvec (s : State) (g o v : Nat) : (s.setMetaSp g o v).stewTvec = s.stewTvec := rfl
@[simp] theorem setMetaSp_stewBusy (s : State) (g o v : Nat) : (s.setMetaSp g o v).stewBusy = s.stewBusy := rfl
@[simp] theorem setMetaSp_stewRefused (s : State) (g o v : Nat) : (s.setMetaSp g o v).stewRefused = s.stewRefused := rfl
@[simp] theorem setMetaSp_dbgBusy (s : State) (g o v : Nat) : (s.setMetaSp g o v).dbgBusy = s.dbgBusy := rfl
@[simp] theorem setMetaSp_dbgData (s : State) (g o v : Nat) : (s.setMetaSp g o v).dbgData = s.dbgData := rfl
@[simp] theorem setMetaSp_dbgCause (s : State) (g o v : Nat) : (s.setMetaSp g o v).dbgCause = s.dbgCause := rfl
@[simp] theorem setMetaSp_dbgState (s : State) (g o v : Nat) : (s.setMetaSp g o v).dbgState = s.dbgState := rfl
@[simp] theorem setMetaSp_meas (s : State) (g o v : Nat) : (s.setMetaSp g o v).meas = s.meas := rfl
@[simp] theorem setMetaSp_repAddr (s : State) (g o v : Nat) : (s.setMetaSp g o v).repAddr = s.repAddr := rfl
@[simp] theorem setMetaSp_repNonce (s : State) (g o v : Nat) : (s.setMetaSp g o v).repNonce = s.repNonce := rfl
@[simp] theorem setMetaSp_repBusy (s : State) (g o v : Nat) : (s.setMetaSp g o v).repBusy = s.repBusy := rfl
@[simp] theorem setMetaSp_repCount (s : State) (g o v : Nat) : (s.setMetaSp g o v).repCount = s.repCount := rfl
@[simp] theorem setMetaSp_keys (s : State) (g o v : Nat) : (s.setMetaSp g o v).keys = s.keys := rfl
@[simp] theorem setMetaSp_nodeSet (s : State) (g o v : Nat) : (s.setMetaSp g o v).nodeSet = s.nodeSet := rfl
@[simp] theorem setMetaSp_errs (s : State) (g o v : Nat) : (s.setMetaSp g o v).errs = s.errs := rfl
@[simp] theorem setMetaSp_policy (s : State) (g o v : Nat) : (s.setMetaSp g o v).policy = s.policy := rfl
@[simp] theorem setMetaSp_errWin (s : State) (g o v : Nat) : (s.setMetaSp g o v).errWin = s.errWin := rfl
@[simp] theorem setMetaSp_islands (s : State) (g o v : Nat) : (s.setMetaSp g o v).islands = s.islands := rfl
@[simp] theorem setMetaSp_pausedAt (s : State) (g o v : Nat) : (s.setMetaSp g o v).pausedAt = s.pausedAt := rfl
@[simp] theorem setMetaSp_pausedSum (s : State) (g o v : Nat) : (s.setMetaSp g o v).pausedSum = s.pausedSum := rfl
@[simp] theorem setMetaSp_watts (s : State) (g o v : Nat) : (s.setMetaSp g o v).watts = s.watts := rfl
@[simp] theorem setMetaSp_wattsAt (s : State) (g o v : Nat) : (s.setMetaSp g o v).wattsAt = s.wattsAt := rfl
@[simp] theorem setMetaSp_intake (s : State) (g o v : Nat) : (s.setMetaSp g o v).intake = s.intake := rfl
@[simp] theorem setMetaSp_hartRead (s : State) (g o v : Nat) : (s.setMetaSp g o v).hartRead = s.hartRead := rfl
@[simp] theorem setMetaSp_ckpts (s : State) (g o v : Nat) : (s.setMetaSp g o v).ckpts = s.ckpts := rfl

/-! `addReq`: `reqs`, `nextId` may change; every other field stays. -/

@[simp] theorem addReq_agenda (s : State) (r : Req) : (s.addReq r).agenda = s.agenda := rfl
@[simp] theorem addReq_tick (s : State) (r : Req) : (s.addReq r).tick = s.tick := rfl
@[simp] theorem addReq_now (s : State) (r : Req) : (s.addReq r).now = s.now := rfl
@[simp] theorem addReq_resetAt (s : State) (r : Req) : (s.addReq r).resetAt = s.resetAt := rfl
@[simp] theorem addReq_free (s : State) (r : Req) : (s.addReq r).free = s.free := rfl
@[simp] theorem addReq_site (s : State) (r : Req) : (s.addReq r).site = s.site := rfl
@[simp] theorem addReq_ev (s : State) (r : Req) : (s.addReq r).ev = s.ev := rfl
@[simp] theorem addReq_begun (s : State) (r : Req) : (s.addReq r).begun = s.begun := rfl
@[simp] theorem addReq_orphans (s : State) (r : Req) : (s.addReq r).orphans = s.orphans := rfl
@[simp] theorem addReq_tiles (s : State) (r : Req) : (s.addReq r).tiles = s.tiles := rfl
@[simp] theorem addReq_regions (s : State) (r : Req) : (s.addReq r).regions = s.regions := rfl
@[simp] theorem addReq_mem (s : State) (r : Req) : (s.addReq r).mem = s.mem := rfl
@[simp] theorem addReq_stale (s : State) (r : Req) : (s.addReq r).stale = s.stale := rfl
@[simp] theorem addReq_keyed (s : State) (r : Req) : (s.addReq r).keyed = s.keyed := rfl
@[simp] theorem addReq_blockWord (s : State) (r : Req) : (s.addReq r).blockWord = s.blockWord := rfl
@[simp] theorem addReq_bad (s : State) (r : Req) : (s.addReq r).bad = s.bad := rfl
@[simp] theorem addReq_vaults (s : State) (r : Req) : (s.addReq r).vaults = s.vaults := rfl
@[simp] theorem addReq_migs (s : State) (r : Req) : (s.addReq r).migs = s.migs := rfl
@[simp] theorem addReq_ptrs (s : State) (r : Req) : (s.addReq r).ptrs = s.ptrs := rfl
@[simp] theorem addReq_shooting (s : State) (r : Req) : (s.addReq r).shooting = s.shooting := rfl
@[simp] theorem addReq_shootSeq (s : State) (r : Req) : (s.addReq r).shootSeq = s.shootSeq := rfl
@[simp] theorem addReq_shootLog (s : State) (r : Req) : (s.addReq r).shootLog = s.shootLog := rfl
@[simp] theorem addReq_faults (s : State) (r : Req) : (s.addReq r).faults = s.faults := rfl
@[simp] theorem addReq_hub (s : State) (r : Req) : (s.addReq r).hub = s.hub := rfl
@[simp] theorem addReq_streams (s : State) (r : Req) : (s.addReq r).streams = s.streams := rfl
@[simp] theorem addReq_appendRes (s : State) (r : Req) : (s.addReq r).appendRes = s.appendRes := rfl
@[simp] theorem addReq_readySeq (s : State) (r : Req) : (s.addReq r).readySeq = s.readySeq := rfl
@[simp] theorem addReq_instSeq (s : State) (r : Req) : (s.addReq r).instSeq = s.instSeq := rfl
@[simp] theorem addReq_pops (s : State) (r : Req) : (s.addReq r).pops = s.pops := rfl
@[simp] theorem addReq_rsv (s : State) (r : Req) : (s.addReq r).rsv = s.rsv := rfl
@[simp] theorem addReq_lastStream (s : State) (r : Req) : (s.addReq r).lastStream = s.lastStream := rfl
@[simp] theorem addReq_prod (s : State) (r : Req) : (s.addReq r).prod = s.prod := rfl
@[simp] theorem addReq_compBuf (s : State) (r : Req) : (s.addReq r).compBuf = s.compBuf := rfl
@[simp] theorem addReq_sent (s : State) (r : Req) : (s.addReq r).sent = s.sent := rfl
@[simp] theorem addReq_irqs (s : State) (r : Req) : (s.addReq r).irqs = s.irqs := rfl
@[simp] theorem addReq_tends (s : State) (r : Req) : (s.addReq r).tends = s.tends := rfl
@[simp] theorem addReq_tendSeq (s : State) (r : Req) : (s.addReq r).tendSeq = s.tendSeq := rfl
@[simp] theorem addReq_awards (s : State) (r : Req) : (s.addReq r).awards = s.awards := rfl
@[simp] theorem addReq_wdraws (s : State) (r : Req) : (s.addReq r).wdraws = s.wdraws := rfl
@[simp] theorem addReq_retends (s : State) (r : Req) : (s.addReq r).retends = s.retends := rfl
@[simp] theorem addReq_falls (s : State) (r : Req) : (s.addReq r).falls = s.falls := rfl
@[simp] theorem addReq_links (s : State) (r : Req) : (s.addReq r).links = s.links := rfl
@[simp] theorem addReq_ready0 (s : State) (r : Req) : (s.addReq r).ready0 = s.ready0 := rfl
@[simp] theorem addReq_ready1 (s : State) (r : Req) : (s.addReq r).ready1 = s.ready1 := rfl
@[simp] theorem addReq_dead (s : State) (r : Req) : (s.addReq r).dead = s.dead := rfl
@[simp] theorem addReq_stewTvec (s : State) (r : Req) : (s.addReq r).stewTvec = s.stewTvec := rfl
@[simp] theorem addReq_stewBusy (s : State) (r : Req) : (s.addReq r).stewBusy = s.stewBusy := rfl
@[simp] theorem addReq_stewRefused (s : State) (r : Req) : (s.addReq r).stewRefused = s.stewRefused := rfl
@[simp] theorem addReq_dbgBusy (s : State) (r : Req) : (s.addReq r).dbgBusy = s.dbgBusy := rfl
@[simp] theorem addReq_dbgData (s : State) (r : Req) : (s.addReq r).dbgData = s.dbgData := rfl
@[simp] theorem addReq_dbgCause (s : State) (r : Req) : (s.addReq r).dbgCause = s.dbgCause := rfl
@[simp] theorem addReq_dbgState (s : State) (r : Req) : (s.addReq r).dbgState = s.dbgState := rfl
@[simp] theorem addReq_meas (s : State) (r : Req) : (s.addReq r).meas = s.meas := rfl
@[simp] theorem addReq_repAddr (s : State) (r : Req) : (s.addReq r).repAddr = s.repAddr := rfl
@[simp] theorem addReq_repNonce (s : State) (r : Req) : (s.addReq r).repNonce = s.repNonce := rfl
@[simp] theorem addReq_repBusy (s : State) (r : Req) : (s.addReq r).repBusy = s.repBusy := rfl
@[simp] theorem addReq_repCount (s : State) (r : Req) : (s.addReq r).repCount = s.repCount := rfl
@[simp] theorem addReq_keys (s : State) (r : Req) : (s.addReq r).keys = s.keys := rfl
@[simp] theorem addReq_nodeSet (s : State) (r : Req) : (s.addReq r).nodeSet = s.nodeSet := rfl
@[simp] theorem addReq_errs (s : State) (r : Req) : (s.addReq r).errs = s.errs := rfl
@[simp] theorem addReq_policy (s : State) (r : Req) : (s.addReq r).policy = s.policy := rfl
@[simp] theorem addReq_errWin (s : State) (r : Req) : (s.addReq r).errWin = s.errWin := rfl
@[simp] theorem addReq_islands (s : State) (r : Req) : (s.addReq r).islands = s.islands := rfl
@[simp] theorem addReq_pausedAt (s : State) (r : Req) : (s.addReq r).pausedAt = s.pausedAt := rfl
@[simp] theorem addReq_pausedSum (s : State) (r : Req) : (s.addReq r).pausedSum = s.pausedSum := rfl
@[simp] theorem addReq_watts (s : State) (r : Req) : (s.addReq r).watts = s.watts := rfl
@[simp] theorem addReq_wattsAt (s : State) (r : Req) : (s.addReq r).wattsAt = s.wattsAt := rfl
@[simp] theorem addReq_intake (s : State) (r : Req) : (s.addReq r).intake = s.intake := rfl
@[simp] theorem addReq_hartRead (s : State) (r : Req) : (s.addReq r).hartRead = s.hartRead := rfl
@[simp] theorem addReq_ckpts (s : State) (r : Req) : (s.addReq r).ckpts = s.ckpts := rfl

/-! `updReq`: `reqs` may change; every other field stays. -/

@[simp] theorem updReq_agenda (s : State) (i : Nat) (f : Req → Req) : (s.updReq i f).agenda = s.agenda := rfl
@[simp] theorem updReq_tick (s : State) (i : Nat) (f : Req → Req) : (s.updReq i f).tick = s.tick := rfl
@[simp] theorem updReq_now (s : State) (i : Nat) (f : Req → Req) : (s.updReq i f).now = s.now := rfl
@[simp] theorem updReq_resetAt (s : State) (i : Nat) (f : Req → Req) : (s.updReq i f).resetAt = s.resetAt := rfl
@[simp] theorem updReq_free (s : State) (i : Nat) (f : Req → Req) : (s.updReq i f).free = s.free := rfl
@[simp] theorem updReq_site (s : State) (i : Nat) (f : Req → Req) : (s.updReq i f).site = s.site := rfl
@[simp] theorem updReq_ev (s : State) (i : Nat) (f : Req → Req) : (s.updReq i f).ev = s.ev := rfl
@[simp] theorem updReq_begun (s : State) (i : Nat) (f : Req → Req) : (s.updReq i f).begun = s.begun := rfl
@[simp] theorem updReq_nextId (s : State) (i : Nat) (f : Req → Req) : (s.updReq i f).nextId = s.nextId := rfl
@[simp] theorem updReq_orphans (s : State) (i : Nat) (f : Req → Req) : (s.updReq i f).orphans = s.orphans := rfl
@[simp] theorem updReq_tiles (s : State) (i : Nat) (f : Req → Req) : (s.updReq i f).tiles = s.tiles := rfl
@[simp] theorem updReq_regions (s : State) (i : Nat) (f : Req → Req) : (s.updReq i f).regions = s.regions := rfl
@[simp] theorem updReq_mem (s : State) (i : Nat) (f : Req → Req) : (s.updReq i f).mem = s.mem := rfl
@[simp] theorem updReq_stale (s : State) (i : Nat) (f : Req → Req) : (s.updReq i f).stale = s.stale := rfl
@[simp] theorem updReq_keyed (s : State) (i : Nat) (f : Req → Req) : (s.updReq i f).keyed = s.keyed := rfl
@[simp] theorem updReq_blockWord (s : State) (i : Nat) (f : Req → Req) : (s.updReq i f).blockWord = s.blockWord := rfl
@[simp] theorem updReq_bad (s : State) (i : Nat) (f : Req → Req) : (s.updReq i f).bad = s.bad := rfl
@[simp] theorem updReq_vaults (s : State) (i : Nat) (f : Req → Req) : (s.updReq i f).vaults = s.vaults := rfl
@[simp] theorem updReq_migs (s : State) (i : Nat) (f : Req → Req) : (s.updReq i f).migs = s.migs := rfl
@[simp] theorem updReq_ptrs (s : State) (i : Nat) (f : Req → Req) : (s.updReq i f).ptrs = s.ptrs := rfl
@[simp] theorem updReq_shooting (s : State) (i : Nat) (f : Req → Req) : (s.updReq i f).shooting = s.shooting := rfl
@[simp] theorem updReq_shootSeq (s : State) (i : Nat) (f : Req → Req) : (s.updReq i f).shootSeq = s.shootSeq := rfl
@[simp] theorem updReq_shootLog (s : State) (i : Nat) (f : Req → Req) : (s.updReq i f).shootLog = s.shootLog := rfl
@[simp] theorem updReq_faults (s : State) (i : Nat) (f : Req → Req) : (s.updReq i f).faults = s.faults := rfl
@[simp] theorem updReq_hub (s : State) (i : Nat) (f : Req → Req) : (s.updReq i f).hub = s.hub := rfl
@[simp] theorem updReq_streams (s : State) (i : Nat) (f : Req → Req) : (s.updReq i f).streams = s.streams := rfl
@[simp] theorem updReq_appendRes (s : State) (i : Nat) (f : Req → Req) : (s.updReq i f).appendRes = s.appendRes := rfl
@[simp] theorem updReq_readySeq (s : State) (i : Nat) (f : Req → Req) : (s.updReq i f).readySeq = s.readySeq := rfl
@[simp] theorem updReq_instSeq (s : State) (i : Nat) (f : Req → Req) : (s.updReq i f).instSeq = s.instSeq := rfl
@[simp] theorem updReq_pops (s : State) (i : Nat) (f : Req → Req) : (s.updReq i f).pops = s.pops := rfl
@[simp] theorem updReq_rsv (s : State) (i : Nat) (f : Req → Req) : (s.updReq i f).rsv = s.rsv := rfl
@[simp] theorem updReq_lastStream (s : State) (i : Nat) (f : Req → Req) : (s.updReq i f).lastStream = s.lastStream := rfl
@[simp] theorem updReq_prod (s : State) (i : Nat) (f : Req → Req) : (s.updReq i f).prod = s.prod := rfl
@[simp] theorem updReq_compBuf (s : State) (i : Nat) (f : Req → Req) : (s.updReq i f).compBuf = s.compBuf := rfl
@[simp] theorem updReq_sent (s : State) (i : Nat) (f : Req → Req) : (s.updReq i f).sent = s.sent := rfl
@[simp] theorem updReq_irqs (s : State) (i : Nat) (f : Req → Req) : (s.updReq i f).irqs = s.irqs := rfl
@[simp] theorem updReq_tends (s : State) (i : Nat) (f : Req → Req) : (s.updReq i f).tends = s.tends := rfl
@[simp] theorem updReq_tendSeq (s : State) (i : Nat) (f : Req → Req) : (s.updReq i f).tendSeq = s.tendSeq := rfl
@[simp] theorem updReq_awards (s : State) (i : Nat) (f : Req → Req) : (s.updReq i f).awards = s.awards := rfl
@[simp] theorem updReq_wdraws (s : State) (i : Nat) (f : Req → Req) : (s.updReq i f).wdraws = s.wdraws := rfl
@[simp] theorem updReq_retends (s : State) (i : Nat) (f : Req → Req) : (s.updReq i f).retends = s.retends := rfl
@[simp] theorem updReq_falls (s : State) (i : Nat) (f : Req → Req) : (s.updReq i f).falls = s.falls := rfl
@[simp] theorem updReq_links (s : State) (i : Nat) (f : Req → Req) : (s.updReq i f).links = s.links := rfl
@[simp] theorem updReq_ready0 (s : State) (i : Nat) (f : Req → Req) : (s.updReq i f).ready0 = s.ready0 := rfl
@[simp] theorem updReq_ready1 (s : State) (i : Nat) (f : Req → Req) : (s.updReq i f).ready1 = s.ready1 := rfl
@[simp] theorem updReq_dead (s : State) (i : Nat) (f : Req → Req) : (s.updReq i f).dead = s.dead := rfl
@[simp] theorem updReq_stewTvec (s : State) (i : Nat) (f : Req → Req) : (s.updReq i f).stewTvec = s.stewTvec := rfl
@[simp] theorem updReq_stewBusy (s : State) (i : Nat) (f : Req → Req) : (s.updReq i f).stewBusy = s.stewBusy := rfl
@[simp] theorem updReq_stewRefused (s : State) (i : Nat) (f : Req → Req) : (s.updReq i f).stewRefused = s.stewRefused := rfl
@[simp] theorem updReq_dbgBusy (s : State) (i : Nat) (f : Req → Req) : (s.updReq i f).dbgBusy = s.dbgBusy := rfl
@[simp] theorem updReq_dbgData (s : State) (i : Nat) (f : Req → Req) : (s.updReq i f).dbgData = s.dbgData := rfl
@[simp] theorem updReq_dbgCause (s : State) (i : Nat) (f : Req → Req) : (s.updReq i f).dbgCause = s.dbgCause := rfl
@[simp] theorem updReq_dbgState (s : State) (i : Nat) (f : Req → Req) : (s.updReq i f).dbgState = s.dbgState := rfl
@[simp] theorem updReq_meas (s : State) (i : Nat) (f : Req → Req) : (s.updReq i f).meas = s.meas := rfl
@[simp] theorem updReq_repAddr (s : State) (i : Nat) (f : Req → Req) : (s.updReq i f).repAddr = s.repAddr := rfl
@[simp] theorem updReq_repNonce (s : State) (i : Nat) (f : Req → Req) : (s.updReq i f).repNonce = s.repNonce := rfl
@[simp] theorem updReq_repBusy (s : State) (i : Nat) (f : Req → Req) : (s.updReq i f).repBusy = s.repBusy := rfl
@[simp] theorem updReq_repCount (s : State) (i : Nat) (f : Req → Req) : (s.updReq i f).repCount = s.repCount := rfl
@[simp] theorem updReq_keys (s : State) (i : Nat) (f : Req → Req) : (s.updReq i f).keys = s.keys := rfl
@[simp] theorem updReq_nodeSet (s : State) (i : Nat) (f : Req → Req) : (s.updReq i f).nodeSet = s.nodeSet := rfl
@[simp] theorem updReq_errs (s : State) (i : Nat) (f : Req → Req) : (s.updReq i f).errs = s.errs := rfl
@[simp] theorem updReq_policy (s : State) (i : Nat) (f : Req → Req) : (s.updReq i f).policy = s.policy := rfl
@[simp] theorem updReq_errWin (s : State) (i : Nat) (f : Req → Req) : (s.updReq i f).errWin = s.errWin := rfl
@[simp] theorem updReq_islands (s : State) (i : Nat) (f : Req → Req) : (s.updReq i f).islands = s.islands := rfl
@[simp] theorem updReq_pausedAt (s : State) (i : Nat) (f : Req → Req) : (s.updReq i f).pausedAt = s.pausedAt := rfl
@[simp] theorem updReq_pausedSum (s : State) (i : Nat) (f : Req → Req) : (s.updReq i f).pausedSum = s.pausedSum := rfl
@[simp] theorem updReq_watts (s : State) (i : Nat) (f : Req → Req) : (s.updReq i f).watts = s.watts := rfl
@[simp] theorem updReq_wattsAt (s : State) (i : Nat) (f : Req → Req) : (s.updReq i f).wattsAt = s.wattsAt := rfl
@[simp] theorem updReq_intake (s : State) (i : Nat) (f : Req → Req) : (s.updReq i f).intake = s.intake := rfl
@[simp] theorem updReq_hartRead (s : State) (i : Nat) (f : Req → Req) : (s.updReq i f).hartRead = s.hartRead := rfl
@[simp] theorem updReq_ckpts (s : State) (i : Nat) (f : Req → Req) : (s.updReq i f).ckpts = s.ckpts := rfl

/-! `dropReq`: `reqs` may change; every other field stays. -/

@[simp] theorem dropReq_agenda (s : State) (i : Nat) : (s.dropReq i).agenda = s.agenda := rfl
@[simp] theorem dropReq_tick (s : State) (i : Nat) : (s.dropReq i).tick = s.tick := rfl
@[simp] theorem dropReq_now (s : State) (i : Nat) : (s.dropReq i).now = s.now := rfl
@[simp] theorem dropReq_resetAt (s : State) (i : Nat) : (s.dropReq i).resetAt = s.resetAt := rfl
@[simp] theorem dropReq_free (s : State) (i : Nat) : (s.dropReq i).free = s.free := rfl
@[simp] theorem dropReq_site (s : State) (i : Nat) : (s.dropReq i).site = s.site := rfl
@[simp] theorem dropReq_ev (s : State) (i : Nat) : (s.dropReq i).ev = s.ev := rfl
@[simp] theorem dropReq_begun (s : State) (i : Nat) : (s.dropReq i).begun = s.begun := rfl
@[simp] theorem dropReq_nextId (s : State) (i : Nat) : (s.dropReq i).nextId = s.nextId := rfl
@[simp] theorem dropReq_orphans (s : State) (i : Nat) : (s.dropReq i).orphans = s.orphans := rfl
@[simp] theorem dropReq_tiles (s : State) (i : Nat) : (s.dropReq i).tiles = s.tiles := rfl
@[simp] theorem dropReq_regions (s : State) (i : Nat) : (s.dropReq i).regions = s.regions := rfl
@[simp] theorem dropReq_mem (s : State) (i : Nat) : (s.dropReq i).mem = s.mem := rfl
@[simp] theorem dropReq_stale (s : State) (i : Nat) : (s.dropReq i).stale = s.stale := rfl
@[simp] theorem dropReq_keyed (s : State) (i : Nat) : (s.dropReq i).keyed = s.keyed := rfl
@[simp] theorem dropReq_blockWord (s : State) (i : Nat) : (s.dropReq i).blockWord = s.blockWord := rfl
@[simp] theorem dropReq_bad (s : State) (i : Nat) : (s.dropReq i).bad = s.bad := rfl
@[simp] theorem dropReq_vaults (s : State) (i : Nat) : (s.dropReq i).vaults = s.vaults := rfl
@[simp] theorem dropReq_migs (s : State) (i : Nat) : (s.dropReq i).migs = s.migs := rfl
@[simp] theorem dropReq_ptrs (s : State) (i : Nat) : (s.dropReq i).ptrs = s.ptrs := rfl
@[simp] theorem dropReq_shooting (s : State) (i : Nat) : (s.dropReq i).shooting = s.shooting := rfl
@[simp] theorem dropReq_shootSeq (s : State) (i : Nat) : (s.dropReq i).shootSeq = s.shootSeq := rfl
@[simp] theorem dropReq_shootLog (s : State) (i : Nat) : (s.dropReq i).shootLog = s.shootLog := rfl
@[simp] theorem dropReq_faults (s : State) (i : Nat) : (s.dropReq i).faults = s.faults := rfl
@[simp] theorem dropReq_hub (s : State) (i : Nat) : (s.dropReq i).hub = s.hub := rfl
@[simp] theorem dropReq_streams (s : State) (i : Nat) : (s.dropReq i).streams = s.streams := rfl
@[simp] theorem dropReq_appendRes (s : State) (i : Nat) : (s.dropReq i).appendRes = s.appendRes := rfl
@[simp] theorem dropReq_readySeq (s : State) (i : Nat) : (s.dropReq i).readySeq = s.readySeq := rfl
@[simp] theorem dropReq_instSeq (s : State) (i : Nat) : (s.dropReq i).instSeq = s.instSeq := rfl
@[simp] theorem dropReq_pops (s : State) (i : Nat) : (s.dropReq i).pops = s.pops := rfl
@[simp] theorem dropReq_rsv (s : State) (i : Nat) : (s.dropReq i).rsv = s.rsv := rfl
@[simp] theorem dropReq_lastStream (s : State) (i : Nat) : (s.dropReq i).lastStream = s.lastStream := rfl
@[simp] theorem dropReq_prod (s : State) (i : Nat) : (s.dropReq i).prod = s.prod := rfl
@[simp] theorem dropReq_compBuf (s : State) (i : Nat) : (s.dropReq i).compBuf = s.compBuf := rfl
@[simp] theorem dropReq_sent (s : State) (i : Nat) : (s.dropReq i).sent = s.sent := rfl
@[simp] theorem dropReq_irqs (s : State) (i : Nat) : (s.dropReq i).irqs = s.irqs := rfl
@[simp] theorem dropReq_tends (s : State) (i : Nat) : (s.dropReq i).tends = s.tends := rfl
@[simp] theorem dropReq_tendSeq (s : State) (i : Nat) : (s.dropReq i).tendSeq = s.tendSeq := rfl
@[simp] theorem dropReq_awards (s : State) (i : Nat) : (s.dropReq i).awards = s.awards := rfl
@[simp] theorem dropReq_wdraws (s : State) (i : Nat) : (s.dropReq i).wdraws = s.wdraws := rfl
@[simp] theorem dropReq_retends (s : State) (i : Nat) : (s.dropReq i).retends = s.retends := rfl
@[simp] theorem dropReq_falls (s : State) (i : Nat) : (s.dropReq i).falls = s.falls := rfl
@[simp] theorem dropReq_links (s : State) (i : Nat) : (s.dropReq i).links = s.links := rfl
@[simp] theorem dropReq_ready0 (s : State) (i : Nat) : (s.dropReq i).ready0 = s.ready0 := rfl
@[simp] theorem dropReq_ready1 (s : State) (i : Nat) : (s.dropReq i).ready1 = s.ready1 := rfl
@[simp] theorem dropReq_dead (s : State) (i : Nat) : (s.dropReq i).dead = s.dead := rfl
@[simp] theorem dropReq_stewTvec (s : State) (i : Nat) : (s.dropReq i).stewTvec = s.stewTvec := rfl
@[simp] theorem dropReq_stewBusy (s : State) (i : Nat) : (s.dropReq i).stewBusy = s.stewBusy := rfl
@[simp] theorem dropReq_stewRefused (s : State) (i : Nat) : (s.dropReq i).stewRefused = s.stewRefused := rfl
@[simp] theorem dropReq_dbgBusy (s : State) (i : Nat) : (s.dropReq i).dbgBusy = s.dbgBusy := rfl
@[simp] theorem dropReq_dbgData (s : State) (i : Nat) : (s.dropReq i).dbgData = s.dbgData := rfl
@[simp] theorem dropReq_dbgCause (s : State) (i : Nat) : (s.dropReq i).dbgCause = s.dbgCause := rfl
@[simp] theorem dropReq_dbgState (s : State) (i : Nat) : (s.dropReq i).dbgState = s.dbgState := rfl
@[simp] theorem dropReq_meas (s : State) (i : Nat) : (s.dropReq i).meas = s.meas := rfl
@[simp] theorem dropReq_repAddr (s : State) (i : Nat) : (s.dropReq i).repAddr = s.repAddr := rfl
@[simp] theorem dropReq_repNonce (s : State) (i : Nat) : (s.dropReq i).repNonce = s.repNonce := rfl
@[simp] theorem dropReq_repBusy (s : State) (i : Nat) : (s.dropReq i).repBusy = s.repBusy := rfl
@[simp] theorem dropReq_repCount (s : State) (i : Nat) : (s.dropReq i).repCount = s.repCount := rfl
@[simp] theorem dropReq_keys (s : State) (i : Nat) : (s.dropReq i).keys = s.keys := rfl
@[simp] theorem dropReq_nodeSet (s : State) (i : Nat) : (s.dropReq i).nodeSet = s.nodeSet := rfl
@[simp] theorem dropReq_errs (s : State) (i : Nat) : (s.dropReq i).errs = s.errs := rfl
@[simp] theorem dropReq_policy (s : State) (i : Nat) : (s.dropReq i).policy = s.policy := rfl
@[simp] theorem dropReq_errWin (s : State) (i : Nat) : (s.dropReq i).errWin = s.errWin := rfl
@[simp] theorem dropReq_islands (s : State) (i : Nat) : (s.dropReq i).islands = s.islands := rfl
@[simp] theorem dropReq_pausedAt (s : State) (i : Nat) : (s.dropReq i).pausedAt = s.pausedAt := rfl
@[simp] theorem dropReq_pausedSum (s : State) (i : Nat) : (s.dropReq i).pausedSum = s.pausedSum := rfl
@[simp] theorem dropReq_watts (s : State) (i : Nat) : (s.dropReq i).watts = s.watts := rfl
@[simp] theorem dropReq_wattsAt (s : State) (i : Nat) : (s.dropReq i).wattsAt = s.wattsAt := rfl
@[simp] theorem dropReq_intake (s : State) (i : Nat) : (s.dropReq i).intake = s.intake := rfl
@[simp] theorem dropReq_hartRead (s : State) (i : Nat) : (s.dropReq i).hartRead = s.hartRead := rfl
@[simp] theorem dropReq_ckpts (s : State) (i : Nat) : (s.dropReq i).ckpts = s.ckpts := rfl

/-! `post`: `compBuf` may change; every other field stays. -/

@[simp] theorem post_agenda (s : State) (q : Nat) (w : List Word) : (s.post q w).agenda = s.agenda := rfl
@[simp] theorem post_tick (s : State) (q : Nat) (w : List Word) : (s.post q w).tick = s.tick := rfl
@[simp] theorem post_now (s : State) (q : Nat) (w : List Word) : (s.post q w).now = s.now := rfl
@[simp] theorem post_resetAt (s : State) (q : Nat) (w : List Word) : (s.post q w).resetAt = s.resetAt := rfl
@[simp] theorem post_free (s : State) (q : Nat) (w : List Word) : (s.post q w).free = s.free := rfl
@[simp] theorem post_site (s : State) (q : Nat) (w : List Word) : (s.post q w).site = s.site := rfl
@[simp] theorem post_ev (s : State) (q : Nat) (w : List Word) : (s.post q w).ev = s.ev := rfl
@[simp] theorem post_begun (s : State) (q : Nat) (w : List Word) : (s.post q w).begun = s.begun := rfl
@[simp] theorem post_nextId (s : State) (q : Nat) (w : List Word) : (s.post q w).nextId = s.nextId := rfl
@[simp] theorem post_reqs (s : State) (q : Nat) (w : List Word) : (s.post q w).reqs = s.reqs := rfl
@[simp] theorem post_orphans (s : State) (q : Nat) (w : List Word) : (s.post q w).orphans = s.orphans := rfl
@[simp] theorem post_tiles (s : State) (q : Nat) (w : List Word) : (s.post q w).tiles = s.tiles := rfl
@[simp] theorem post_regions (s : State) (q : Nat) (w : List Word) : (s.post q w).regions = s.regions := rfl
@[simp] theorem post_mem (s : State) (q : Nat) (w : List Word) : (s.post q w).mem = s.mem := rfl
@[simp] theorem post_stale (s : State) (q : Nat) (w : List Word) : (s.post q w).stale = s.stale := rfl
@[simp] theorem post_keyed (s : State) (q : Nat) (w : List Word) : (s.post q w).keyed = s.keyed := rfl
@[simp] theorem post_blockWord (s : State) (q : Nat) (w : List Word) : (s.post q w).blockWord = s.blockWord := rfl
@[simp] theorem post_bad (s : State) (q : Nat) (w : List Word) : (s.post q w).bad = s.bad := rfl
@[simp] theorem post_vaults (s : State) (q : Nat) (w : List Word) : (s.post q w).vaults = s.vaults := rfl
@[simp] theorem post_migs (s : State) (q : Nat) (w : List Word) : (s.post q w).migs = s.migs := rfl
@[simp] theorem post_ptrs (s : State) (q : Nat) (w : List Word) : (s.post q w).ptrs = s.ptrs := rfl
@[simp] theorem post_shooting (s : State) (q : Nat) (w : List Word) : (s.post q w).shooting = s.shooting := rfl
@[simp] theorem post_shootSeq (s : State) (q : Nat) (w : List Word) : (s.post q w).shootSeq = s.shootSeq := rfl
@[simp] theorem post_shootLog (s : State) (q : Nat) (w : List Word) : (s.post q w).shootLog = s.shootLog := rfl
@[simp] theorem post_faults (s : State) (q : Nat) (w : List Word) : (s.post q w).faults = s.faults := rfl
@[simp] theorem post_hub (s : State) (q : Nat) (w : List Word) : (s.post q w).hub = s.hub := rfl
@[simp] theorem post_streams (s : State) (q : Nat) (w : List Word) : (s.post q w).streams = s.streams := rfl
@[simp] theorem post_appendRes (s : State) (q : Nat) (w : List Word) : (s.post q w).appendRes = s.appendRes := rfl
@[simp] theorem post_readySeq (s : State) (q : Nat) (w : List Word) : (s.post q w).readySeq = s.readySeq := rfl
@[simp] theorem post_instSeq (s : State) (q : Nat) (w : List Word) : (s.post q w).instSeq = s.instSeq := rfl
@[simp] theorem post_pops (s : State) (q : Nat) (w : List Word) : (s.post q w).pops = s.pops := rfl
@[simp] theorem post_rsv (s : State) (q : Nat) (w : List Word) : (s.post q w).rsv = s.rsv := rfl
@[simp] theorem post_lastStream (s : State) (q : Nat) (w : List Word) : (s.post q w).lastStream = s.lastStream := rfl
@[simp] theorem post_prod (s : State) (q : Nat) (w : List Word) : (s.post q w).prod = s.prod := rfl
@[simp] theorem post_sent (s : State) (q : Nat) (w : List Word) : (s.post q w).sent = s.sent := rfl
@[simp] theorem post_irqs (s : State) (q : Nat) (w : List Word) : (s.post q w).irqs = s.irqs := rfl
@[simp] theorem post_tends (s : State) (q : Nat) (w : List Word) : (s.post q w).tends = s.tends := rfl
@[simp] theorem post_tendSeq (s : State) (q : Nat) (w : List Word) : (s.post q w).tendSeq = s.tendSeq := rfl
@[simp] theorem post_awards (s : State) (q : Nat) (w : List Word) : (s.post q w).awards = s.awards := rfl
@[simp] theorem post_wdraws (s : State) (q : Nat) (w : List Word) : (s.post q w).wdraws = s.wdraws := rfl
@[simp] theorem post_retends (s : State) (q : Nat) (w : List Word) : (s.post q w).retends = s.retends := rfl
@[simp] theorem post_falls (s : State) (q : Nat) (w : List Word) : (s.post q w).falls = s.falls := rfl
@[simp] theorem post_links (s : State) (q : Nat) (w : List Word) : (s.post q w).links = s.links := rfl
@[simp] theorem post_ready0 (s : State) (q : Nat) (w : List Word) : (s.post q w).ready0 = s.ready0 := rfl
@[simp] theorem post_ready1 (s : State) (q : Nat) (w : List Word) : (s.post q w).ready1 = s.ready1 := rfl
@[simp] theorem post_dead (s : State) (q : Nat) (w : List Word) : (s.post q w).dead = s.dead := rfl
@[simp] theorem post_stewTvec (s : State) (q : Nat) (w : List Word) : (s.post q w).stewTvec = s.stewTvec := rfl
@[simp] theorem post_stewBusy (s : State) (q : Nat) (w : List Word) : (s.post q w).stewBusy = s.stewBusy := rfl
@[simp] theorem post_stewRefused (s : State) (q : Nat) (w : List Word) : (s.post q w).stewRefused = s.stewRefused := rfl
@[simp] theorem post_dbgBusy (s : State) (q : Nat) (w : List Word) : (s.post q w).dbgBusy = s.dbgBusy := rfl
@[simp] theorem post_dbgData (s : State) (q : Nat) (w : List Word) : (s.post q w).dbgData = s.dbgData := rfl
@[simp] theorem post_dbgCause (s : State) (q : Nat) (w : List Word) : (s.post q w).dbgCause = s.dbgCause := rfl
@[simp] theorem post_dbgState (s : State) (q : Nat) (w : List Word) : (s.post q w).dbgState = s.dbgState := rfl
@[simp] theorem post_meas (s : State) (q : Nat) (w : List Word) : (s.post q w).meas = s.meas := rfl
@[simp] theorem post_repAddr (s : State) (q : Nat) (w : List Word) : (s.post q w).repAddr = s.repAddr := rfl
@[simp] theorem post_repNonce (s : State) (q : Nat) (w : List Word) : (s.post q w).repNonce = s.repNonce := rfl
@[simp] theorem post_repBusy (s : State) (q : Nat) (w : List Word) : (s.post q w).repBusy = s.repBusy := rfl
@[simp] theorem post_repCount (s : State) (q : Nat) (w : List Word) : (s.post q w).repCount = s.repCount := rfl
@[simp] theorem post_keys (s : State) (q : Nat) (w : List Word) : (s.post q w).keys = s.keys := rfl
@[simp] theorem post_nodeSet (s : State) (q : Nat) (w : List Word) : (s.post q w).nodeSet = s.nodeSet := rfl
@[simp] theorem post_errs (s : State) (q : Nat) (w : List Word) : (s.post q w).errs = s.errs := rfl
@[simp] theorem post_policy (s : State) (q : Nat) (w : List Word) : (s.post q w).policy = s.policy := rfl
@[simp] theorem post_errWin (s : State) (q : Nat) (w : List Word) : (s.post q w).errWin = s.errWin := rfl
@[simp] theorem post_islands (s : State) (q : Nat) (w : List Word) : (s.post q w).islands = s.islands := rfl
@[simp] theorem post_pausedAt (s : State) (q : Nat) (w : List Word) : (s.post q w).pausedAt = s.pausedAt := rfl
@[simp] theorem post_pausedSum (s : State) (q : Nat) (w : List Word) : (s.post q w).pausedSum = s.pausedSum := rfl
@[simp] theorem post_watts (s : State) (q : Nat) (w : List Word) : (s.post q w).watts = s.watts := rfl
@[simp] theorem post_wattsAt (s : State) (q : Nat) (w : List Word) : (s.post q w).wattsAt = s.wattsAt := rfl
@[simp] theorem post_intake (s : State) (q : Nat) (w : List Word) : (s.post q w).intake = s.intake := rfl
@[simp] theorem post_hartRead (s : State) (q : Nat) (w : List Word) : (s.post q w).hartRead = s.hartRead := rfl
@[simp] theorem post_ckpts (s : State) (q : Nat) (w : List Word) : (s.post q w).ckpts = s.ckpts := rfl

/-! The readers of the state do not see what runs, its argument or the agenda. -/

@[simp] theorem tile_setSite (s : State) (x : Site) (g : Nat) : (s.setSite x).tile g = s.tile g := rfl
@[simp] theorem tp_setSite (s : State) (x : Site) (g p : Nat) : (s.setSite x).tp g p = s.tp g p := rfl
@[simp] theorem ctx_setSite (s : State) (x : Site) (g p c : Nat) : (s.setSite x).ctx g p c = s.ctx g p c := rfl
@[simp] theorem elem_setSite (s : State) (x : Site) (g e : Nat) : (s.setSite x).elem g e = s.elem g e := rfl
@[simp] theorem vault_setSite (s : State) (x : Site) (v : Nat) : (s.setSite x).vault v = s.vault v := rfl
@[simp] theorem hubWord_setSite (s : State) (x : Site) (o : Nat) : (s.setSite x).hubWord o = s.hubWord o := rfl
@[simp] theorem liveAt_setSite (s : State) (x : Site) (g : Nat) : (s.setSite x).liveAt g = s.liveAt g := rfl
@[simp] theorem regOf_setSite (s : State) (x : Site) (g : Nat) : (s.setSite x).regOf g = s.regOf g := rfl
@[simp] theorem litAt_setSite (s : State) (x : Site) (g p : Nat) (y : Ctx) : (s.setSite x).litAt g p y = s.litAt g p y := rfl
@[simp] theorem wordAt_setSite (s : State) (x : Site) (g p : Nat) (y : Ctx) : (s.setSite x).wordAt g p y = s.wordAt g p y := rfl
@[simp] theorem tile_setEv (s : State) (x : EvArg) (g : Nat) : (s.setEv x).tile g = s.tile g := rfl
@[simp] theorem tp_setEv (s : State) (x : EvArg) (g p : Nat) : (s.setEv x).tp g p = s.tp g p := rfl
@[simp] theorem ctx_setEv (s : State) (x : EvArg) (g p c : Nat) : (s.setEv x).ctx g p c = s.ctx g p c := rfl
@[simp] theorem elem_setEv (s : State) (x : EvArg) (g e : Nat) : (s.setEv x).elem g e = s.elem g e := rfl
@[simp] theorem vault_setEv (s : State) (x : EvArg) (v : Nat) : (s.setEv x).vault v = s.vault v := rfl
@[simp] theorem hubWord_setEv (s : State) (x : EvArg) (o : Nat) : (s.setEv x).hubWord o = s.hubWord o := rfl
@[simp] theorem liveAt_setEv (s : State) (x : EvArg) (g : Nat) : (s.setEv x).liveAt g = s.liveAt g := rfl
@[simp] theorem regOf_setEv (s : State) (x : EvArg) (g : Nat) : (s.setEv x).regOf g = s.regOf g := rfl
@[simp] theorem litAt_setEv (s : State) (x : EvArg) (g p : Nat) (y : Ctx) : (s.setEv x).litAt g p y = s.litAt g p y := rfl
@[simp] theorem wordAt_setEv (s : State) (x : EvArg) (g p : Nat) (y : Ctx) : (s.setEv x).wordAt g p y = s.wordAt g p y := rfl
@[simp] theorem tile_setAgenda (s : State) (x : List Act) (g : Nat) : (s.setAgenda x).tile g = s.tile g := rfl
@[simp] theorem tp_setAgenda (s : State) (x : List Act) (g p : Nat) : (s.setAgenda x).tp g p = s.tp g p := rfl
@[simp] theorem ctx_setAgenda (s : State) (x : List Act) (g p c : Nat) : (s.setAgenda x).ctx g p c = s.ctx g p c := rfl
@[simp] theorem elem_setAgenda (s : State) (x : List Act) (g e : Nat) : (s.setAgenda x).elem g e = s.elem g e := rfl
@[simp] theorem vault_setAgenda (s : State) (x : List Act) (v : Nat) : (s.setAgenda x).vault v = s.vault v := rfl
@[simp] theorem hubWord_setAgenda (s : State) (x : List Act) (o : Nat) : (s.setAgenda x).hubWord o = s.hubWord o := rfl
@[simp] theorem liveAt_setAgenda (s : State) (x : List Act) (g : Nat) : (s.setAgenda x).liveAt g = s.liveAt g := rfl
@[simp] theorem regOf_setAgenda (s : State) (x : List Act) (g : Nat) : (s.setAgenda x).regOf g = s.regOf g := rfl
@[simp] theorem litAt_setAgenda (s : State) (x : List Act) (g p : Nat) (y : Ctx) : (s.setAgenda x).litAt g p y = s.litAt g p y := rfl
@[simp] theorem wordAt_setAgenda (s : State) (x : List Act) (g p : Nat) (y : Ctx) : (s.setAgenda x).wordAt g p y = s.wordAt g p y := rfl
@[simp] theorem site_setSite (s : State) (x : Site) : (s.setSite x).site = x := rfl
@[simp] theorem ev_setEv (s : State) (x : EvArg) : (s.setEv x).ev = x := rfl
@[simp] theorem agenda_setAgenda (s : State) (x : List Act) : (s.setAgenda x).agenda = x := rfl

/-! What the updates change. -/

@[simp] theorem tile_updTile_same (s : State) (g : Nat) (f : Tile → Tile) : (s.updTile g f).tile g = f (s.tile g) := by
  simp [State.tile, State.updTile]

theorem tile_updTile_other (s : State) {g h : Nat} (f : Tile → Tile) (hg : g ≠ h) : (s.updTile g f).tile h = s.tile h := by
  simp [State.tile, State.updTile, NMap.get_set_other _ _ _ hg]

theorem tile_updTile (s : State) (g h : Nat) (f : Tile → Tile) :
    (s.updTile g f).tile h = if g = h then f (s.tile g) else s.tile h := by
  by_cases hg : g = h
  · subst hg; simp
  · simp [hg, tile_updTile_other s f hg]

/-- A component of a tile that the update keeps is kept in every tile. -/
theorem tile_updTile_keep {β : Type} (p : Tile → β) (s : State) (g h : Nat) (f : Tile → Tile) (hf : ∀ t, p (f t) = p t) :
    p ((s.updTile g f).tile h) = p (s.tile h) := by
  rw [tile_updTile]
  by_cases hg : g = h
  · subst hg; simp [hf]
  · simp [hg]

@[simp] theorem tp_updTp_same (s : State) (g p : Nat) (f : Tp → Tp) : (s.updTp g p f).tp g p = f (s.tp g p) := by
  simp [State.tp, State.updTp, Tile.tp]

theorem tp_updTp_other (s : State) {g p g' p' : Nat} (f : Tp → Tp) (h : g ≠ g' ∨ p ≠ p') : (s.updTp g p f).tp g' p' = s.tp g' p' := by
  simp only [State.tp, State.updTp, tile_updTile]
  by_cases hg : g = g'
  · subst hg
    have hp : p ≠ p' := h.resolve_left (fun c => c rfl)
    simp [Tile.tp, NMap.get_set_other _ _ _ hp]
  · simp [hg]

@[simp] theorem ctx_updCtx_same (s : State) (g p c : Nat) (f : Ctx → Ctx) : (s.updCtx g p c f).ctx g p c = f (s.ctx g p c) := by
  simp [State.ctx, State.updCtx, Tp.ctx]

theorem ctx_updCtx_other (s : State) {g p c g' p' c' : Nat} (f : Ctx → Ctx) (h : g ≠ g' ∨ p ≠ p' ∨ c ≠ c') :
    (s.updCtx g p c f).ctx g' p' c' = s.ctx g' p' c' := by
  simp only [State.ctx, State.updCtx]
  by_cases hg : g = g' ∧ p = p'
  · obtain ⟨rfl, rfl⟩ := hg
    have hc : c ≠ c' := by rcases h with h | h | h <;> simp_all
    simp [Tp.ctx, NMap.get_set_other _ _ _ hc]
  · rw [tp_updTp_other _ _ (by omega)]

theorem ctx_updCtx (s : State) (g p c g' p' c' : Nat) (f : Ctx → Ctx) :
    (s.updCtx g p c f).ctx g' p' c' = if g = g' ∧ p = p' ∧ c = c' then f (s.ctx g p c) else s.ctx g' p' c' := by
  by_cases h : g = g' ∧ p = p' ∧ c = c'
  · obtain ⟨rfl, rfl, rfl⟩ := h; simp
  · rw [ctx_updCtx_other _ _ (by omega), if_neg h]

@[simp] theorem elem_updElem_same (s : State) (g e : Nat) (f : Elem → Elem) : (s.updElem g e f).elem g e = f (s.elem g e) := by
  simp [State.elem, State.updElem, Tile.elem]

theorem elem_updElem_other (s : State) {g e g' e' : Nat} (f : Elem → Elem) (h : g ≠ g' ∨ e ≠ e') :
    (s.updElem g e f).elem g' e' = s.elem g' e' := by
  simp only [State.elem, State.updElem, tile_updTile]
  by_cases hg : g = g'
  · subst hg
    have he : e ≠ e' := h.resolve_left (fun c => c rfl)
    simp [Tile.elem, NMap.get_set_other _ _ _ he]
  · simp [hg]

@[simp] theorem vault_updVault_same (s : State) (v : Nat) (f : Vault → Vault) : (s.updVault v f).vault v = f (s.vault v) := by
  simp [State.vault, State.updVault]

theorem vault_updVault_other (s : State) {v w : Nat} (f : Vault → Vault) (h : v ≠ w) : (s.updVault v f).vault w = s.vault w := by
  simp [State.vault, State.updVault, NMap.get_set_other _ _ _ h]

@[simp] theorem hubWord_setHub_same (s : State) (o : Nat) (v : Word) : (s.setHub o v).hubWord o = v := by
  simp [State.hubWord, State.setHub]

theorem hubWord_setHub_other (s : State) {o q : Nat} (v : Word) (h : o ≠ q) : (s.setHub o v).hubWord q = s.hubWord q := by
  simp [State.hubWord, State.setHub, NMap.get_set_other _ _ _ h]

/-- What `updReg` can do: the region listed at the key changes as `f` says, and nothing else does. -/
theorem find_updReg (s : State) (i j : Nat) (f : Region → Region) :
    NMap.find (s.updReg i f).regions j = if i = j then (NMap.find s.regions i).map f else NMap.find s.regions j := by
  unfold State.updReg
  cases h : NMap.find s.regions i with
  | none =>
    by_cases hj : i = j
    · subst hj; simp [h]
    · simp [hj]
  | some r => simp [NMap.find_set]

/-- `updReg` leaves every field but the regions. -/
theorem updReg_regions (s : State) (i : Nat) (f : Region → Region) : s.updReg i f = { s with regions := (s.updReg i f).regions } := by
  unfold State.updReg; split <;> rfl

@[simp] theorem updReg_tiles (s : State) (i : Nat) (f : Region → Region) : (s.updReg i f).tiles = s.tiles := by
  rw [updReg_regions]
@[simp] theorem updReg_mem (s : State) (i : Nat) (f : Region → Region) : (s.updReg i f).mem = s.mem := by
  rw [updReg_regions]
@[simp] theorem updReg_reqs (s : State) (i : Nat) (f : Region → Region) : (s.updReg i f).reqs = s.reqs := by
  rw [updReg_regions]
@[simp] theorem updReg_hub (s : State) (i : Nat) (f : Region → Region) : (s.updReg i f).hub = s.hub := by
  rw [updReg_regions]
@[simp] theorem updReg_blockWord (s : State) (i : Nat) (f : Region → Region) : (s.updReg i f).blockWord = s.blockWord := by
  rw [updReg_regions]
@[simp] theorem updReg_vaults (s : State) (i : Nat) (f : Region → Region) : (s.updReg i f).vaults = s.vaults := by
  rw [updReg_regions]
@[simp] theorem tile_updReg (s : State) (i : Nat) (f : Region → Region) (g : Nat) : (s.updReg i f).tile g = s.tile g := by
  simp [State.tile]
@[simp] theorem ctx_updReg (s : State) (i : Nat) (f : Region → Region) (g p c : Nat) : (s.updReg i f).ctx g p c = s.ctx g p c := by
  simp [State.ctx, State.tp]
@[simp] theorem elem_updReg (s : State) (i : Nat) (f : Region → Region) (g e : Nat) : (s.updReg i f).elem g e = s.elem g e := by
  simp [State.elem]

/-- `progressAt` touches the regions alone. -/
theorem progressAt_regions (s : State) (g : Nat) : s.progressAt g = { s with regions := (s.progressAt g).regions } := by
  unfold State.progressAt State.progress; split
  · exact updReg_regions ..
  · rfl
@[simp] theorem progressAt_tiles (s : State) (g : Nat) : (s.progressAt g).tiles = s.tiles := by rw [progressAt_regions]
@[simp] theorem progressAt_mem (s : State) (g : Nat) : (s.progressAt g).mem = s.mem := by rw [progressAt_regions]
@[simp] theorem progressAt_reqs (s : State) (g : Nat) : (s.progressAt g).reqs = s.reqs := by rw [progressAt_regions]
@[simp] theorem progressAt_hub (s : State) (g : Nat) : (s.progressAt g).hub = s.hub := by rw [progressAt_regions]
@[simp] theorem progressAt_blockWord (s : State) (g : Nat) : (s.progressAt g).blockWord = s.blockWord := by rw [progressAt_regions]
@[simp] theorem progressAt_vaults (s : State) (g : Nat) : (s.progressAt g).vaults = s.vaults := by rw [progressAt_regions]
@[simp] theorem tile_progressAt (s : State) (g h : Nat) : (s.progressAt g).tile h = s.tile h := by simp [State.tile]
@[simp] theorem ctx_progressAt (s : State) (g h p c : Nat) : (s.progressAt g).ctx h p c = s.ctx h p c := by simp [State.ctx, State.tp]
@[simp] theorem elem_progressAt (s : State) (g h e : Nat) : (s.progressAt g).elem h e = s.elem h e := by simp [State.elem]

/-! Components of a tile that an update of one of its parts keeps. -/

@[simp] theorem spad_updTp (s : State) (g p h : Nat) (f : Tp → Tp) : ((s.updTp g p f).tile h).spad = (s.tile h).spad :=
  tile_updTile_keep (·.spad) s g h _ (fun _ => rfl)
@[simp] theorem spad_updCtx (s : State) (g p c h : Nat) (f : Ctx → Ctx) : ((s.updCtx g p c f).tile h).spad = (s.tile h).spad :=
  spad_updTp ..
@[simp] theorem elems_updTp (s : State) (g p h : Nat) (f : Tp → Tp) : ((s.updTp g p f).tile h).elems = (s.tile h).elems :=
  tile_updTile_keep (·.elems) s g h _ (fun _ => rfl)
@[simp] theorem elem_updTp (s : State) (g p h e : Nat) (f : Tp → Tp) : (s.updTp g p f).elem h e = s.elem h e := by
  simp [State.elem, Tile.elem]
@[simp] theorem elem_updCtx (s : State) (g p c h e : Nat) (f : Ctx → Ctx) : (s.updCtx g p c f).elem h e = s.elem h e :=
  elem_updTp ..
@[simp] theorem triad_updTp (s : State) (g p h : Nat) (f : Tp → Tp) : ((s.updTp g p f).tile h).triad = (s.tile h).triad :=
  tile_updTile_keep (·.triad) s g h _ (fun _ => rfl)
@[simp] theorem triad_updCtx (s : State) (g p c h : Nat) (f : Ctx → Ctx) : ((s.updCtx g p c f).tile h).triad = (s.tile h).triad :=
  triad_updTp ..
@[simp] theorem inst_updTp (s : State) (g p h : Nat) (f : Tp → Tp) : ((s.updTp g p f).tile h).inst = (s.tile h).inst :=
  tile_updTile_keep (·.inst) s g h _ (fun _ => rfl)
@[simp] theorem inst_updCtx (s : State) (g p c h : Nat) (f : Ctx → Ctx) : ((s.updCtx g p c f).tile h).inst = (s.tile h).inst :=
  inst_updTp ..
@[simp] theorem spad_updElem (s : State) (g e h : Nat) (f : Elem → Elem) : ((s.updElem g e f).tile h).spad = (s.tile h).spad :=
  tile_updTile_keep (·.spad) s g h _ (fun _ => rfl)
@[simp] theorem tp_updElem (s : State) (g e h p : Nat) (f : Elem → Elem) : (s.updElem g e f).tp h p = s.tp h p := by
  have h1 : ((s.updElem g e f).tile h).tps = (s.tile h).tps := tile_updTile_keep (·.tps) s g h _ (fun _ => rfl)
  simp [State.tp, Tile.tp, h1]
@[simp] theorem ctx_updElem (s : State) (g e h p c : Nat) (f : Elem → Elem) : (s.updElem g e f).ctx h p c = s.ctx h p c := by
  simp [State.ctx]

end Sys2Proof.Machine.State
end

