-- ==== Sys2Proof/Laws/Operands.lean ====
section
/-! SUPPORT. What beginning an issue and running a firing can do, said once; the statements of the instructions rest on it. -/

namespace Sys2Proof.Machine

/-- The channel of a source field stands among the channels read (R177). -/
theorem mem_srcChans {h : Shape} {f : Fields} {k : Nat} :
    k ∈ srcChans h f ↔ ∃ c, 24 ≤ c ∧ c < 28 ∧ c - 24 = k ∧ ((h.a.isSrc = true ∧ c = f.a.toNat) ∨ (h.b.isSrc = true ∧ c = f.b.toNat) ∨
      (h.d.isSrc = true ∧ c = f.d.toNat) ∨ (h.e.isSrc = true ∧ c = f.e.toNat)) := by
  unfold srcChans
  simp only [List.mem_eraseDups, List.mem_map, List.mem_filter, List.mem_append, Bool.and_eq_true, decide_eq_true_eq]
  constructor
  · rintro ⟨c, ⟨hm, h1, h2⟩, rfl⟩
    refine ⟨c, h1, h2, rfl, ?_⟩
    rcases hm with ((hm | hm) | hm) | hm <;> (split at hm <;> simp_all)
  · rintro ⟨c, h1, h2, rfl, hm⟩
    refine ⟨c, ⟨?_, h1, h2⟩, rfl⟩
    rcases hm with hm | hm | hm | hm <;> simp [hm.1, hm.2]

/-- Where every channel read is bound and holds a word, no operand is missing. -/
theorem missing_eq_false {x : Ctx} {h : Shape} {f : Fields} {u : FUse} {code : BitVec 5} (hb : x.bound h f = true)
    (he : x.emptyChan h f = none) (hm : u.isSrc = true → 24 ≤ code.toNat → code.toNat < 28 → code.toNat - 24 ∈ srcChans h f) :
    x.missing u code = false := by
  by_cases hs : u.isSrc = true ∧ 24 ≤ code.toNat ∧ code.toNat < 28
  · have h1 := hm hs.1 hs.2.1 hs.2.2
    simp only [Ctx.bound, Bool.and_eq_true, List.all_eq_true] at hb
    have h2 := hb.1 _ h1
    simp only [Ctx.emptyChan, List.find?_eq_none] at he
    have h3 := he _ h1
    simp_all [Ctx.missing]
  · simp only [Ctx.missing]
    by_cases h1 : u.isSrc = true <;> by_cases h2 : 24 ≤ code.toNat <;> simp_all

/-- With every operand there, an instruction refuses what its operand values say. -/
theorem refusal_eq {s : State} {h : Shape} {f : Fields} {g p c : Nat} {x : Ctx} (bad : Ctx → Word → Word → Nat)
    (hb : x.bound h f = true) (he : x.emptyChan h f = none) :
    (s.taskIn h f g p c).refusal h x bad = bad x (s.taskIn h f g p c).a (s.taskIn h f g p c).b := by
  have ha : x.missing h.a f.a = false := missing_eq_false hb he (fun h1 h2 h3 => mem_srcChans.2 ⟨_, h2, h3, rfl, .inl ⟨h1, rfl⟩⟩)
  have hc : x.missing h.b f.b = false := missing_eq_false hb he (fun h1 h2 h3 => mem_srcChans.2 ⟨_, h2, h3, rfl, .inr (.inl ⟨h1, rfl⟩)⟩)
  show (let at' (m : Word) : Nat := bad x (if x.missing h.a f.a then m else _) (if x.missing h.b f.b then m else _)
    if at' 0 = at' (BitVec.allOnes 64) then at' 0 else 0) = _
  simp [ha, hc]

/-- An instruction that refuses no operand values refuses none that are missing. -/
@[simp] theorem refusal_noBad (t : TIn) (h : Shape) (x : Ctx) : t.refusal h x noBad = 0 := by simp [TIn.refusal, noBad]

/-- An instruction that nothing turns away, with operand values it takes, has its effect. -/
theorem beginTask_go {s : State} {i : Instr} {h : Shape} {g p c : Nat} {f : Fields} {bad : Ctx → Word → Word → Nat}
    (hI : Issues s i h g p c) (hf : f = fieldsOfInstr i)
    (hb : bad (s.ctx g p c) (issueIn s i h g p c).a (issueIn s i h g p c).b = 0) :
    beginTask i f s bad = .go (issueIn s i h g p c) := by
  obtain ⟨h1, h2, h3, h4, h5, h6, h7, h8⟩ := hI
  subst hf
  have hr := refusal_eq (s := s) (g := g) (p := p) (c := c) bad h5 h6
  unfold beginTask
  rw [h1]
  simp only [h3, h2, h8, h7, h6, h5, issueIn] at hb ⊢
  have h4' : (stewardOnly i && !(s.ctx g p c).steward) = false := by
    cases hs : stewardOnly i <;> simp_all
  simp [h4', hb, hr]

/-- The same for an instruction that refuses no operand values. -/
theorem beginTask_go_noBad {s : State} {i : Instr} {h : Shape} {g p c : Nat} {f : Fields}
    (hI : Issues s i h g p c) (hf : f = fieldsOfInstr i) : beginTask i f s noBad = .go (issueIn s i h g p c) :=
  beginTask_go hI hf rfl

/-- A word that is not legal where it stands takes the illegal-instruction trap (R191). -/
theorem beginTask_illegal {s : State} {i : Instr} {f : Fields} {g p c : Nat} {bad : Ctx → Word → Word → Nat}
    (h1 : s.site = .task g p c)
    (h2 : wordCause .task false ((encodeWord i).getD 0xFFFFFFFF) (s.litAt g p (s.ctx g p c)) [] ≠ 0) :
    beginTask i f s bad = .stop (s.trapAt g p c
      (wordCause .task false ((encodeWord i).getD 0xFFFFFFFF) (s.litAt g p (s.ctx g p c)) [])
      (((encodeWord i).getD 0xFFFFFFFF).setWidth 64)) := by
  unfold beginTask; rw [h1]; exact if_pos h2

/-! What an issue works on. -/

/-- Taking channel words changes the channels alone (R177). -/
theorem foldl_pop (l : List Nat) (x : Ctx) : l.foldl Ctx.pop x = { x with vc := (l.foldl Ctx.pop x).vc } := by
  induction l generalizing x with
  | nil => rfl
  | cons k r ih => rw [List.foldl_cons, ih]; rfl

@[simp] theorem taskIn_x_s (s : State) (h : Shape) (f : Fields) (g p c : Nat) : (s.taskIn h f g p c).x.s = (s.ctx g p c).s := by
  show ((srcChans h f).foldl Ctx.pop (s.ctx g p c)).s = _; rw [foldl_pop]
@[simp] theorem taskIn_x_pc (s : State) (h : Shape) (f : Fields) (g p c : Nat) : (s.taskIn h f g p c).x.pc = (s.ctx g p c).pc := by
  show ((srcChans h f).foldl Ctx.pop (s.ctx g p c)).pc = _; rw [foldl_pop]
@[simp] theorem taskIn_x_fp (s : State) (h : Shape) (f : Fields) (g p c : Nat) : (s.taskIn h f g p c).x.fp = (s.ctx g p c).fp := by
  show ((srcChans h f).foldl Ctx.pop (s.ctx g p c)).fp = _; rw [foldl_pop]
@[simp] theorem taskIn_x_tag (s : State) (h : Shape) (f : Fields) (g p c : Nat) : (s.taskIn h f g p c).x.tag = (s.ctx g p c).tag := by
  show ((srcChans h f).foldl Ctx.pop (s.ctx g p c)).tag = _; rw [foldl_pop]
@[simp] theorem taskIn_x_ld (s : State) (h : Shape) (f : Fields) (g p c : Nat) : (s.taskIn h f g p c).x.ld = (s.ctx g p c).ld := by
  show ((srcChans h f).foldl Ctx.pop (s.ctx g p c)).ld = _; rw [foldl_pop]
@[simp] theorem taskIn_x_st (s : State) (h : Shape) (f : Fields) (g p c : Nat) : (s.taskIn h f g p c).x.st = (s.ctx g p c).st := by
  show ((srcChans h f).foldl Ctx.pop (s.ctx g p c)).st = _; rw [foldl_pop]
@[simp] theorem taskIn_x_cp (s : State) (h : Shape) (f : Fields) (g p c : Nat) : (s.taskIn h f g p c).x.cp = (s.ctx g p c).cp := by
  show ((srcChans h f).foldl Ctx.pop (s.ctx g p c)).cp = _; rw [foldl_pop]
@[simp] theorem taskIn_x_tl (s : State) (h : Shape) (f : Fields) (g p c : Nat) : (s.taskIn h f g p c).x.tl = (s.ctx g p c).tl := by
  show ((srcChans h f).foldl Ctx.pop (s.ctx g p c)).tl = _; rw [foldl_pop]
@[simp] theorem taskIn_x_status (s : State) (h : Shape) (f : Fields) (g p c : Nat) : (s.taskIn h f g p c).x.status = (s.ctx g p c).status := by
  show ((srcChans h f).foldl Ctx.pop (s.ctx g p c)).status = _; rw [foldl_pop]
@[simp] theorem taskIn_x_steward (s : State) (h : Shape) (f : Fields) (g p c : Nat) : (s.taskIn h f g p c).x.steward = (s.ctx g p c).steward := by
  show ((srcChans h f).foldl Ctx.pop (s.ctx g p c)).steward = _; rw [foldl_pop]
@[simp] theorem taskIn_x_tcause (s : State) (h : Shape) (f : Fields) (g p c : Nat) : (s.taskIn h f g p c).x.tcause = (s.ctx g p c).tcause := by
  show ((srcChans h f).foldl Ctx.pop (s.ctx g p c)).tcause = _; rw [foldl_pop]
@[simp] theorem taskIn_x_tslot (s : State) (h : Shape) (f : Fields) (g p c : Nat) : (s.taskIn h f g p c).x.tslot = (s.ctx g p c).tslot := by
  show ((srcChans h f).foldl Ctx.pop (s.ctx g p c)).tslot = _; rw [foldl_pop]
@[simp] theorem taskIn_x_tval (s : State) (h : Shape) (f : Fields) (g p c : Nat) : (s.taskIn h f g p c).x.tval = (s.ctx g p c).tval := by
  show ((srcChans h f).foldl Ctx.pop (s.ctx g p c)).tval = _; rw [foldl_pop]
@[simp] theorem taskIn_x_uslot (s : State) (h : Shape) (f : Fields) (g p c : Nat) : (s.taskIn h f g p c).x.uslot = (s.ctx g p c).uslot := by
  show ((srcChans h f).foldl Ctx.pop (s.ctx g p c)).uslot = _; rw [foldl_pop]
@[simp] theorem taskIn_x_utvec (s : State) (h : Shape) (f : Fields) (g p c : Nat) : (s.taskIn h f g p c).x.utvec = (s.ctx g p c).utvec := by
  show ((srcChans h f).foldl Ctx.pop (s.ctx g p c)).utvec = _; rw [foldl_pop]
@[simp] theorem taskIn_x_tvec (s : State) (h : Shape) (f : Fields) (g p c : Nat) : (s.taskIn h f g p c).x.tvec = (s.ctx g p c).tvec := by
  show ((srcChans h f).foldl Ctx.pop (s.ctx g p c)).tvec = _; rw [foldl_pop]
@[simp] theorem taskIn_x_sscr (s : State) (h : Shape) (f : Fields) (g p c : Nat) : (s.taskIn h f g p c).x.sscr = (s.ctx g p c).sscr := by
  show ((srcChans h f).foldl Ctx.pop (s.ctx g p c)).sscr = _; rw [foldl_pop]
@[simp] theorem taskIn_x_rsave (s : State) (h : Shape) (f : Fields) (g p c : Nat) : (s.taskIn h f g p c).x.rsave = (s.ctx g p c).rsave := by
  show ((srcChans h f).foldl Ctx.pop (s.ctx g p c)).rsave = _; rw [foldl_pop]
@[simp] theorem taskIn_x_rpt (s : State) (h : Shape) (f : Fields) (g p c : Nat) : (s.taskIn h f g p c).x.rpt = (s.ctx g p c).rpt := by
  show ((srcChans h f).foldl Ctx.pop (s.ctx g p c)).rpt = _; rw [foldl_pop]
@[simp] theorem taskIn_x_lnan (s : State) (h : Shape) (f : Fields) (g p c : Nat) : (s.taskIn h f g p c).x.lnan = (s.ctx g p c).lnan := by
  show ((srcChans h f).foldl Ctx.pop (s.ctx g p c)).lnan = _; rw [foldl_pop]
@[simp] theorem taskIn_x_tsl0 (s : State) (h : Shape) (f : Fields) (g p c : Nat) : (s.taskIn h f g p c).x.tsl0 = (s.ctx g p c).tsl0 := by
  show ((srcChans h f).foldl Ctx.pop (s.ctx g p c)).tsl0 = _; rw [foldl_pop]
@[simp] theorem taskIn_x_held (s : State) (h : Shape) (f : Fields) (g p c : Nat) : (s.taskIn h f g p c).x.held = (s.ctx g p c).held := by
  show ((srcChans h f).foldl Ctx.pop (s.ctx g p c)).held = _; rw [foldl_pop]
@[simp] theorem taskIn_x_wins (s : State) (h : Shape) (f : Fields) (g p c : Nat) : (s.taskIn h f g p c).x.wins = (s.ctx g p c).wins := by
  show ((srcChans h f).foldl Ctx.pop (s.ctx g p c)).wins = _; rw [foldl_pop]
@[simp] theorem taskIn_x_acq (s : State) (h : Shape) (f : Fields) (g p c : Nat) : (s.taskIn h f g p c).x.acq = (s.ctx g p c).acq := by
  show ((srcChans h f).foldl Ctx.pop (s.ctx g p c)).acq = _; rw [foldl_pop]
@[simp] theorem taskIn_x_fenceAt (s : State) (h : Shape) (f : Fields) (g p c : Nat) : (s.taskIn h f g p c).x.fenceAt = (s.ctx g p c).fenceAt := by
  show ((srcChans h f).foldl Ctx.pop (s.ctx g p c)).fenceAt = _; rw [foldl_pop]
@[simp] theorem taskIn_x_work (s : State) (h : Shape) (f : Fields) (g p c : Nat) : (s.taskIn h f g p c).x.work = (s.ctx g p c).work := by
  show ((srcChans h f).foldl Ctx.pop (s.ctx g p c)).work = _; rw [foldl_pop]
@[simp] theorem taskIn_x_blk (s : State) (h : Shape) (f : Fields) (g p c : Nat) : (s.taskIn h f g p c).x.blk = (s.ctx g p c).blk := by
  show ((srcChans h f).foldl Ctx.pop (s.ctx g p c)).blk = _; rw [foldl_pop]
@[simp] theorem taskIn_x_blkAt (s : State) (h : Shape) (f : Fields) (g p c : Nat) : (s.taskIn h f g p c).x.blkAt = (s.ctx g p c).blkAt := by
  show ((srcChans h f).foldl Ctx.pop (s.ctx g p c)).blkAt = _; rw [foldl_pop]
@[simp] theorem taskIn_x_donest (s : State) (h : Shape) (f : Fields) (g p c : Nat) : (s.taskIn h f g p c).x.donest = (s.ctx g p c).donest := by
  show ((srcChans h f).foldl Ctx.pop (s.ctx g p c)).donest = _; rw [foldl_pop]
@[simp] theorem taskIn_x_shoots (s : State) (h : Shape) (f : Fields) (g p c : Nat) : (s.taskIn h f g p c).x.shoots = (s.ctx g p c).shoots := by
  show ((srcChans h f).foldl Ctx.pop (s.ctx g p c)).shoots = _; rw [foldl_pop]
@[simp] theorem taskIn_x_skip (s : State) (h : Shape) (f : Fields) (g p c : Nat) : (s.taskIn h f g p c).x.skip = (s.ctx g p c).skip := by
  show ((srcChans h f).foldl Ctx.pop (s.ctx g p c)).skip = _; rw [foldl_pop]

@[simp] theorem taskIn_g (s : State) (h : Shape) (f : Fields) (g p c : Nat) : (s.taskIn h f g p c).g = g := rfl
@[simp] theorem taskIn_p (s : State) (h : Shape) (f : Fields) (g p c : Nat) : (s.taskIn h f g p c).p = p := rfl
@[simp] theorem taskIn_c (s : State) (h : Shape) (f : Fields) (g p c : Nat) : (s.taskIn h f g p c).c = c := rfl
@[simp] theorem taskIn_f (s : State) (h : Shape) (f : Fields) (g p c : Nat) : (s.taskIn h f g p c).f = f := rfl
@[simp] theorem taskIn_lit (s : State) (h : Shape) (f : Fields) (g p c : Nat) : (s.taskIn h f g p c).lit = s.litAt g p (s.ctx g p c) := rfl
@[simp] theorem taskIn_a (s : State) (h : Shape) (f : Fields) (g p c : Nat) :
    (s.taskIn h f g p c).a = (s.ctx g p c).opnd (s.litAt g p (s.ctx g p c)) h.a f.a := rfl
@[simp] theorem taskIn_b (s : State) (h : Shape) (f : Fields) (g p c : Nat) :
    (s.taskIn h f g p c).b = (s.ctx g p c).opnd (s.litAt g p (s.ctx g p c)) h.b f.b := rfl
@[simp] theorem taskIn_d (s : State) (h : Shape) (f : Fields) (g p c : Nat) :
    (s.taskIn h f g p c).d = (s.ctx g p c).opnd (s.litAt g p (s.ctx g p c)) h.d f.d := rfl
@[simp] theorem taskIn_e (s : State) (h : Shape) (f : Fields) (g p c : Nat) :
    (s.taskIn h f g p c).e = (s.ctx g p c).opnd (s.litAt g p (s.ctx g p c)) h.e f.e := rfl
@[simp] theorem issueIn_eq (s : State) (i : Instr) (h : Shape) (g p c : Nat) : issueIn s i h g p c = s.taskIn h (fieldsOfInstr i) g p c := rfl

/-! The other ways an issue can end. -/

/-- A register that an earlier instruction has still to write is waited for before anything else (R357). -/
theorem beginTask_pending {s : State} {i : Instr} {h : Shape} {f : Fields} {g p c k : Nat} {bad : Ctx → Word → Word → Nat}
    (h1 : s.site = .task g p c)
    (h2 : wordCause .task false ((encodeWord i).getD 0xFFFFFFFF) (s.litAt g p (s.ctx g p c)) [] = 0)
    (h3 : taskShape i = some h) (h4 : s.pendingSrc i h f g p c = some k) : beginTask i f s bad = .stop (s.block g p c (.blkReg k)) := by
  unfold beginTask
  rw [h1]
  simp only [h2, h3, h4]
  simp

/-- A steward-only instruction in tenant mode takes cause 0x10 (R183), where no encoding cause, 0x09 or 0x0A, is lower. -/
theorem beginTask_steward {s : State} {i : Instr} {h : Shape} {f : Fields} {g p c : Nat} {bad : Ctx → Word → Word → Nat}
    (h1 : s.site = .task g p c)
    (h2 : wordCause .task false ((encodeWord i).getD 0xFFFFFFFF) (s.litAt g p (s.ctx g p c)) [] = 0)
    (h3 : taskShape i = some h) (h4 : stewardOnly i = true) (h5 : (s.ctx g p c).steward = false)
    (h6 : (s.ctx g p c).bound h f = true) (h7 : s.pendingSrc i h f g p c = none)
    (h8 : (s.taskIn h f g p c).refusal h (s.ctx g p c) bad = 0 ∨ 0x0B ≤ (s.taskIn h f g p c).refusal h (s.ctx g p c) bad) :
    beginTask i f s bad = .stop (s.trapAt g p c 0x10 (((encodeWord i).getD 0xFFFFFFFF).setWidth 64)) := by
  have h9 : ¬ ((s.taskIn h f g p c).refusal h (s.ctx g p c) bad ≠ 0 ∧ (s.taskIn h f g p c).refusal h (s.ctx g p c) bad < 0x0B) := by omega
  unfold beginTask
  rw [h1]
  simp only [h2, h3, h7, if_neg h9, h4, h5, h6]
  simp

/-- A channel with nothing in it blocks the context (R21, R22). -/
theorem beginTask_empty {s : State} {i : Instr} {h : Shape} {f : Fields} {g p c k : Nat} {bad : Ctx → Word → Word → Nat}
    (h1 : s.site = .task g p c)
    (h2 : wordCause .task false ((encodeWord i).getD 0xFFFFFFFF) (s.litAt g p (s.ctx g p c)) [] = 0)
    (h3 : taskShape i = some h) (h4 : stewardOnly i = true → (s.ctx g p c).steward = true)
    (h5 : (s.ctx g p c).bound h f = true) (h6 : (s.ctx g p c).emptyChan h f = some k) (h7 : s.pendingSrc i h f g p c = none)
    (h8 : (s.taskIn h f g p c).refusal h (s.ctx g p c) bad = 0) : beginTask i f s bad = .stop (s.block g p c (.blkChan k)) := by
  have h4' : (stewardOnly i && !(s.ctx g p c).steward) = false := by cases hs : stewardOnly i <;> simp_all
  unfold beginTask
  rw [h1]
  simp only [h2, h3, h7, h8]
  simp [h4', h5, h6]

/-- An arc that holds its sender back blocks the context (R22). -/
theorem beginTask_held {s : State} {i : Instr} {h : Shape} {f : Fields} {g p c k : Nat} {bad : Ctx → Word → Word → Nat}
    (h1 : s.site = .task g p c)
    (h2 : wordCause .task false ((encodeWord i).getD 0xFFFFFFFF) (s.litAt g p (s.ctx g p c)) [] = 0)
    (h3 : taskShape i = some h) (h4 : stewardOnly i = true → (s.ctx g p c).steward = true)
    (h5 : (s.ctx g p c).bound h f = true) (h6 : (s.ctx g p c).emptyChan h f = none) (h7 : s.pendingSrc i h f g p c = none)
    (h8 : (s.taskIn h f g p c).refusal h (s.ctx g p c) bad = 0) (h9 : s.heldChan g (s.ctx g p c) h f = some k) :
    beginTask i f s bad = .stop (s.block g p c (.blkSend k)) := by
  have h4' : (stewardOnly i && !(s.ctx g p c).steward) = false := by cases hs : stewardOnly i <;> simp_all
  unfold beginTask
  rw [h1]
  simp only [h2, h3, h7, h8, h9]
  simp [h4', h5, h6]

/-- A refused operand value traps (R191). -/
theorem beginTask_bad {s : State} {i : Instr} {h : Shape} {g p c : Nat} {f : Fields} {bad : Ctx → Word → Word → Nat}
    (hI : Issues s i h g p c) (hf : f = fieldsOfInstr i)
    (hb : bad (s.ctx g p c) (issueIn s i h g p c).a (issueIn s i h g p c).b ≠ 0) :
    beginTask i f s bad = .stop (s.trapAt g p c (bad (s.ctx g p c) (issueIn s i h g p c).a (issueIn s i h g p c).b)
      (((encodeWord i).getD 0xFFFFFFFF).setWidth 64)) := by
  obtain ⟨h1, h2, h3, h4, h5, h6, h7, h8⟩ := hI
  subst hf
  have hr := refusal_eq (s := s) (g := g) (p := p) (c := c) bad h5 h6
  unfold beginTask
  rw [h1]
  simp only [h3, h2, h8, h7, h6, h5, issueIn] at hb ⊢
  have h4' : (stewardOnly i && !(s.ctx g p c).steward) = false := by
    cases hs : stewardOnly i <;> simp_all
  rw [h4', hr]
  simp
  exact fun _ => if_pos hb

/-- A firing whose function gives results: they leave in order, and the firing ends. -/
theorem runElem_ok {s s' : State} {i : Instr} {h : Shape} {r : Fire} {g e : Nat} {accept : Tok → Bool} {os : List Out}
    {fn : State → Nat → Nat → Elem → Fire → Val → Val → Val → Except (Nat × Word) (State × List Out)}
    (h1 : s.site = .elem g e) (h2 : (s.elem g e).cur = some r) (h3 : elemShape i = some h) (h4 : r.bad h accept = none)
    (hfn : fn s g e (s.elem g e) r (r.val (s.elem g e) r.f.a.toNat) (r.val (s.elem g e) r.f.b.toNat)
      (r.val (s.elem g e) r.f.e.toNat) = .ok (s', os)) :
    runElem i s accept fn = fired s' h r g e os := by
  unfold runElem fired
  simp only [h1, h2, h3, h4, hfn]

/-- A firing whose function refuses an operand value: an error token in the place of the result. -/
theorem runElem_error {s : State} {i : Instr} {h : Shape} {r : Fire} {g e cause : Nat} {v : Word} {accept : Tok → Bool}
    {fn : State → Nat → Nat → Elem → Fire → Val → Val → Val → Except (Nat × Word) (State × List Out)}
    (h1 : s.site = .elem g e) (h2 : (s.elem g e).cur = some r) (h3 : elemShape i = some h) (h4 : r.bad h accept = none)
    (hfn : fn s g e (s.elem g e) r (r.val (s.elem g e) r.f.a.toNat) (r.val (s.elem g e) r.f.b.toNat)
      (r.val (s.elem g e) r.f.e.toNat) = .error (cause, v)) :
    runElem i s accept fn = firedError s h r g e cause v := by
  unfold runElem firedError
  simp only [h1, h2, h3, h4, hfn]

end Sys2Proof.Machine
end

