-- ==== Sys2Proof/Laws/Sha256.lean ====
section
/-! SUPPORT. The lengths of a SHA-256 hash and of an SLH-DSA signature: what a measurement and a report take up in memory (R412). -/

namespace Sys2Proof.Machine

theorem length_flatMap_const {α β : Type} (f : α → List β) (c : Nat) (l : List α) (h : ∀ x ∈ l, (f x).length = c) :
    (l.flatMap f).length = l.length * c := by
  induction l with
  | nil => simp
  | cons x l ih =>
    rw [List.flatMap_cons, List.length_append, h x (.head _), ih (fun y hy => h y (.tail _ hy)), List.length_cons, Nat.add_mul, Nat.one_mul, Nat.add_comm]

theorem shaRound_length (h : List Lane) (k w : Lane) : (shaRound h k w).length = h.length := by
  unfold shaRound; split <;> simp

theorem shaBlock_length (h : List Lane) (bs : List Byte) : (shaBlock h bs).length = h.length := by
  have step : ∀ (l : List (Lane × Lane)) (v : List Lane), (l.foldl (fun v x => shaRound v x.1 x.2) v).length = v.length := by
    intro l
    induction l with
    | nil => intro v; rfl
    | cons x l ih => intro v; rw [List.foldl_cons, ih, shaRound_length]
  simp [shaBlock, step]

theorem shaBlocks_length (n : Nat) (bs : List Byte) (h : List Lane) : (shaBlocks n bs h).length = h.length := by
  induction n generalizing bs h with
  | zero => rfl
  | succ n ih => rw [shaBlocks, ih, shaBlock_length]

/-- A hash is 32 bytes. -/
@[simp] theorem sha256_length (m : List Byte) : (sha256 m).length = 32 := by
  unfold sha256
  rw [length_flatMap_const _ 4 _ (fun x _ => by simp), shaBlocks_length]
  rfl

namespace Slh

@[simp] theorem digits_length (b n : Nat) (l : List Byte) : (digits b n l).length = n := by simp [digits]
@[simp] theorem hash_length (ps : List Byte) (a : Adrs) (m : List Byte) : (hash ps a m).length = 16 := by simp [hash]
@[simp] theorem hmac_length (k m : List Byte) : (hmac k m).length = 32 := by simp [hmac]
@[simp] theorem wotsSecret_length (ss ps : List Byte) (a : Adrs) (i : Nat) : (wotsSecret ss ps a i).length = 16 := by simp [wotsSecret]
@[simp] theorem wotsPk_length (ps : List Byte) (a : Adrs) (f : Nat → List Byte) : (wotsPk ps a f).length = 16 := by simp [wotsPk]
@[simp] theorem wotsDigits_length (m : List Byte) : (wotsDigits m).length = 35 := by simp [wotsDigits]
@[simp] theorem forsSecret_length (ss ps : List Byte) (a : Adrs) (i : Nat) : (forsSecret ss ps a i).length = 16 := by simp [forsSecret]

theorem chain_length (ps : List Byte) (a : Adrs) (i n : Nat) (x : List Byte) (h : x.length = 16) : (chain ps a i n x).length = 16 := by
  induction n generalizing i x with
  | zero => exact h
  | succ n ih => exact ih _ _ (hash_length _ _ _)

@[simp] theorem wotsSign_length (ss ps : List Byte) (a : Adrs) (m : List Byte) : (wotsSign ss ps a m).length = 560 := by
  unfold wotsSign
  rw [length_flatMap_const _ 16 _ (fun x _ => chain_length _ _ _ _ _ (by simp))]
  simp

@[simp] theorem xmssNode_length (ss ps : List Byte) (a : Adrs) (z i : Nat) : (xmssNode ss ps a z i).length = 16 := by cases z <;> simp [xmssNode]
@[simp] theorem forsNode_length (ss ps : List Byte) (a : Adrs) (z i : Nat) : (forsNode ss ps a z i).length = 16 := by cases z <;> simp [forsNode]

@[simp] theorem xmssSign_length (ss ps : List Byte) (a : Adrs) (i : Nat) (m : List Byte) : (xmssSign ss ps a i m).length = 704 := by
  rw [xmssSign, List.length_append, length_flatMap_const _ 16 _ (fun x _ => by simp)]
  simp

theorem htSign_length (ss ps : List Byte) (n j tree leaf : Nat) (m : List Byte) : (htSign ss ps n j tree leaf m).length = 704 * n := by
  induction n generalizing j tree leaf m with
  | zero => rfl
  | succ n ih => simp only [htSign, List.length_append, xmssSign_length, ih]; omega

@[simp] theorem forsSign_length (ss ps : List Byte) (a : Adrs) (md : List Byte) : (forsSign ss ps a md).length = 2912 := by
  unfold forsSign
  rw [length_flatMap_const _ 208 _ (fun x _ => by
    rw [List.length_append, forsSecret_length, length_flatMap_const _ 16 _ (fun y _ => by simp)]; simp)]
  simp

/-- A signature is 7,856 bytes. -/
@[simp] theorem sign_length (seed m rnd : List Byte) : (sign seed m rnd).length = 7856 := by
  simp [sign, htSign_length]

end Slh

end Sys2Proof.Machine
end

