-- ==== Sys2Proof/Tests/Slice0.lean ====
section
/-! SUPPORT. Tests: words written out from the spec's encodings, ill-formed terms refused, and for the hypotheses of every
statement a concrete state that meets them. -/

namespace Sys2Proof.Tests

open Machine

/-! Ill-formed terms, one for each check of WellFormed. -/

theorem test_wf_nop : (Instr.iNop ⟨28, 28, 28, 28, 0⟩).wf = true := by decide
theorem test_wf_nop_dst : (Instr.iNop ⟨28, 28, 3, 28, 0⟩).wf = false := by decide
theorem test_wf_branch_srcB : (Instr.iBr ⟨28, 30, 28, 28, 0⟩).wf = false := by decide
theorem test_wf_tile : Act.wf (.turn 384 0) = false := by decide
theorem test_wf_processor : Act.wf (.turn 0 4) = false := by decide
theorem test_wf_event_tile : Act.wf (.event .eFiring { EvArg.none with g := 384 }) = false := by decide
theorem test_elemOk : elemOk 3 = false ∧ elemOk 4 = true ∧ elemOk 31 = true ∧ elemOk 32 = false := by decide

/-! Words of each family, written out from the encodings of the spec's chapters. -/

theorem test_word_nop : decodeWord 0x00E739C0 = .ok (.iNop ⟨28, 28, 28, 28, 0⟩) := by decide
theorem test_word_mad : decodeWord 0x0E088640 = .ok (.iMad ⟨1, 2, 3, 4, 0⟩) := by decide
theorem test_word_sel : decodeWord 0x27088A30 = .ok (.iSel ⟨1, 2, 5, 3, 0⟩) := by decide
theorem test_word_fma : decodeWord 0x33004120 = .ok (.iFma ⟨0, 1, 0, 18, 0⟩) := by decide
theorem test_word_cvt_sr : decodeWord 0x5107C010 = .ok (.iCvtSr ⟨0, 31, 0, 1, 0⟩) := by decide
theorem test_word_split : decodeWord 0x6B07C010 = .ok (.iSplit ⟨0, 31, 0, 1, 0⟩) := by decide
theorem test_word_blt : decodeWord 0x830FC5C0 = .ok (.iBlt ⟨1, 31, 2, 28, 0⟩) := by decide
theorem test_word_ret : decodeWord 0x88E739C0 = .ok (.iRet ⟨28, 28, 28, 28, 0⟩) := by decide
theorem test_word_wtag_all : decodeWord 0x8CFF39C0 = .ok (.iWtagAll ⟨31, 28, 28, 28, 0⟩) := by decide
theorem test_word_xlt : decodeWord 0xB507C1C0 = .ok (.iXlt ⟨0, 31, 0, 28, 0⟩) := by decide
theorem test_word_tdrain : decodeWord 0xC21FF9C0 = .ok (.iTdrain ⟨3, 31, 28, 28, 0⟩) := by decide
theorem test_word_tacc : decodeWord 0xC41F0BC0 = .ok (.iTacc ⟨3, 28, 5, 28, 0⟩) := by decide
theorem test_word_rsort : decodeWord 0xDA10F9C0 = .ok (.iRsort ⟨2, 3, 28, 28, 0⟩) := by decide
theorem test_word_rng : decodeWord 0xE507C1C0 = .ok (.iRng ⟨0, 31, 0, 28, 0⟩) := by decide
theorem test_word_job_spawn : decodeWord 0xE017C9C0 = .ok (.iJobSpawn ⟨2, 31, 4, 28, 0⟩) := by decide
theorem test_word_hold_ins : decodeWord 0xE817C9C0 = .ok (.iHoldIns ⟨2, 31, 4, 28, 0⟩) := by decide
theorem test_word_shf_go : decodeWord 0xE617F9C0 = .ok (.iShfGo ⟨2, 31, 28, 28, 0⟩) := by decide
theorem test_word_trap : decodeWord 0xF0FF39C0 = .ok (.iTrap ⟨31, 28, 28, 28, 0⟩) := by decide
theorem test_word_eret : decodeWord 0xF1E739C0 = .ok (.iEret ⟨28, 28, 28, 28, 0⟩) := by decide
theorem test_word_done : decodeWord 0xE2E739C0 = .ok (.iDone ⟨28, 28, 28, 28, 0⟩) := by decide
theorem test_word_reserved : decodeWord 0xEF000000 = .error .reservedOpcode := by decide
theorem test_bytes : decode [0xC0, 0x39, 0xE7, 0x00, 0x55] = .ok (.iNop ⟨28, 28, 28, 28, 0⟩, [0x55]) := by decide

/-! A small state: one region of one team on tile 0. -/

/-- A context about to issue `i` in the mode asked, its literal beside it, changed by `f`. -/
def task (md : Bool) (i : Instr) (lit : Word) (f : Ctx → Ctx) : State :=
  let w := (encodeWord i).getD 0xFFFFFFFF
  let s := State.reset.withRegion
  let s := s.updTp 0 0 (fun q => { q with store := [(0, w)], lits := [(0, lit)], sstore := [(0, w)], slits := [(0, lit)] })
  let s := s.updCtx 0 0 0 (fun x => f { x with status := .runnable, steward := md })
  s.setSite (.task 0 0 0)

/-- The instruction issues with nothing in its way, and `P` holds of the state, the shape and the operands. -/
def issues (md : Bool) (i : Instr) (lit : Word) (f : Ctx → Ctx) (u : State → State) (P : State → TIn → Bool) : Bool :=
  let s := u (task md i lit f)
  match taskShape i with
  | some h => decide (s.site = .task 0 0 0) && wordCause .task false ((encodeWord i).getD 0xFFFFFFFF) (s.litAt 0 0 (s.ctx 0 0 0)) [] == 0 &&
      (!stewardOnly i || (s.ctx 0 0 0).steward) && (s.ctx 0 0 0).bound h (fieldsOfInstr i) && (s.ctx 0 0 0).emptyChan h (fieldsOfInstr i) == none &&
      (s.heldChan 0 (s.ctx 0 0 0) h (fieldsOfInstr i) == none && s.pendingSrc i h (fieldsOfInstr i) 0 0 0 == none) &&
      P s (issueIn s i h 0 0 0)
  | none => false

theorem issues_sound {md : Bool} {i : Instr} {lit : Word} {f : Ctx → Ctx} {u : State → State} {P : State → TIn → Bool}
    (w : issues md i lit f u P = true) :
    ∃ h, Issues (u (task md i lit f)) i h 0 0 0 ∧ P (u (task md i lit f)) (issueIn (u (task md i lit f)) i h 0 0 0) = true := by
  unfold issues at w
  split at w
  · rename_i h hs
    simp only [Bool.and_eq_true, decide_eq_true_eq, beq_iff_eq, Bool.or_eq_true, Bool.not_eq_true'] at w
    obtain ⟨⟨⟨⟨⟨⟨a, b⟩, c⟩, d⟩, e⟩, k⟩, g⟩ := w
    exact ⟨h, ⟨a, hs, b, fun q => c.resolve_left (by simp [q]), d, e, k⟩, g⟩
  · cases w

/-- Registers 1 and 2. -/
def regs (a b : Word) (x : Ctx) : Ctx := { x with s := (x.s.set 1 a).set 2 b }

/-- No change. -/
def same (s : State) : State := s
/-- No condition. -/
def yes (_ : State) (_ : TIn) : Bool := true

/-! Witnesses: issues on a task processor. Each line of a theorem is one clause of the statement it is named for. -/

theorem wit_RepeatAdvance (x : Ctx := Ctx.reset) : x = x ∧
    { Ctx.reset with rpt := ⟨3, 0, 0, true, 3⟩ }.rpt.active = true ∧ Ctx.reset.pc = (⟨1, 0, 0, true, 3⟩ : Rpt).start + (0 : BitVec 6).setWidth 11 ∧
    (⟨3, 0, 0, true, 3⟩ : Rpt).left ≠ 1 ∧ (⟨1, 0, 0, true, 3⟩ : Rpt).left = 1 ∧ Ctx.reset.pc ≠ (⟨1, 1, 0, true, 3⟩ : Rpt).start := by
  refine ⟨rfl, ?_⟩; decide
theorem wit_TrapEntry : ((task false (.iNop ⟨28, 28, 28, 28, 0⟩) 0 id).ctx 0 0 0).steward = false ∧
    ((task true (.iNop ⟨28, 28, 28, 28, 0⟩) 0 id).ctx 0 0 0).steward = true := by decide
/-- A float literal code 6 of a rounding mode, which R58 reserves, and a legal word that nothing refuses. -/
theorem wit_IllegalWordTraps : wordCause .task false ((encodeWord (.iCvt ⟨1, 31, 5, 28, 0⟩)).getD 0)
    ((task false (.iCvt ⟨1, 31, 5, 28, 0⟩) 0x680 id).litAt 0 0 ((task false (.iCvt ⟨1, 31, 5, 28, 0⟩) 0x680 id).ctx 0 0 0)) [] ≠ 0 := by decide
theorem wit_StewardOnlyTraps : stewardOnly (.iHalt ⟨28, 28, 28, 28, 0⟩) = true ∧
    wordCause .task false ((encodeWord (.iHalt ⟨28, 28, 28, 28, 0⟩)).getD 0) 0 [] = 0 ∧
    ((task false (.iHalt ⟨28, 28, 28, 28, 0⟩) 0 id).ctx 0 0 0).steward = false := by decide
/-- A legal word with its channels bound and no register of its sources awaited. -/
def legal (i : Instr) (lit : Word) (f : Ctx → Ctx) (u : State → State) (P : State → Shape → TIn → Bool) : Bool :=
  let s := u (task false i lit f)
  (taskShape i).any (fun h => wordCause .task false ((encodeWord i).getD 0xFFFFFFFF) (s.litAt 0 0 (s.ctx 0 0 0)) [] == 0 &&
    (s.ctx 0 0 0).bound h (fieldsOfInstr i) && P s h (issueIn s i h 0 0 0))
theorem wit_StewardOnlyTraps_operands : ([0xA5, 0xA6].all (fun n => legal (.iDbgX ⟨31, 2, 5, 28, 0⟩) n id same (fun s h t =>
    (s.ctx 0 0 0).emptyChan h ⟨31, 2, 5, 28, 0⟩ == none && s.pendingSrc (.iDbgX ⟨31, 2, 5, 28, 0⟩) h ⟨31, 2, 5, 28, 0⟩ 0 0 0 == none &&
    !(s.ctx 0 0 0).steward && (decide (t.a.toNat % 1024 ≤ 0xA5) == (n == 0xA5))))) = true := by decide
theorem wit_IssueWaits :
    legal (.iAdd ⟨1, 2, 5, 28, 0⟩) 0 id (fun s => s.addReq { Req.blank 0 0 0 (.ctx 0 0 0) (.tacc 0 0 0) with cls := .ld, counted := true, d := 2 })
      (fun s h _ => s.pendingSrc (.iAdd ⟨1, 2, 5, 28, 0⟩) h ⟨1, 2, 5, 28, 0⟩ 0 0 0 == some 2 && !stewardOnly (.iAdd ⟨1, 2, 5, 28, 0⟩)) = true ∧
    legal (.iMov ⟨24, 28, 5, 28, 0⟩) 0 (fun x => { x with vc := [(0, ⟨some 1, false, false, []⟩)] }) same (fun s h _ =>
      s.pendingSrc (.iMov ⟨24, 28, 5, 28, 0⟩) h ⟨24, 28, 5, 28, 0⟩ 0 0 0 == none && (s.ctx 0 0 0).emptyChan h ⟨24, 28, 5, 28, 0⟩ == some 0 &&
      !Claims.mayRefuse (.iMov ⟨24, 28, 5, 28, 0⟩)) = true ∧
    legal (.iMov ⟨1, 28, 25, 28, 0⟩) 0 (fun x => { x with vc := [(1, ⟨some 0, true, false, []⟩)] })
      (fun s => s.updReg 0 (fun r => { r with wires := [(0, [⟨2, Tok.scalar 0 0 5, 0, 0⟩])] })) (fun s h _ =>
        s.pendingSrc (.iMov ⟨1, 28, 25, 28, 0⟩) h ⟨1, 28, 25, 28, 0⟩ 0 0 0 == none && (s.ctx 0 0 0).emptyChan h ⟨1, 28, 25, 28, 0⟩ == none &&
        s.heldChan 0 (s.ctx 0 0 0) h ⟨1, 28, 25, 28, 0⟩ == some 1 && !Claims.mayRefuse (.iMov ⟨1, 28, 25, 28, 0⟩)) = true := by decide
/-- Channel 0 bound as a source with nothing waiting. -/
def chan0 (x : Ctx) : Ctx := { x with vc := [(0, ⟨some 1, false, false, []⟩)] }
theorem wit_EmptyChannelBlocks :
    let s := task false (.iMov ⟨24, 28, 5, 28, 0⟩) 0 chan0
    (taskShape (.iMov ⟨24, 28, 5, 28, 0⟩)).any (fun h => (s.ctx 0 0 0).bound h ⟨24, 28, 5, 28, 0⟩ &&
      (s.ctx 0 0 0).emptyChan h ⟨24, 28, 5, 28, 0⟩ == some 0) = true := by decide
theorem wit_TrapInstructions :
    issues false (.iTrap ⟨31, 28, 28, 28, 0⟩) 7 id same (fun _ t => t.a == 7) = true ∧
    issues false (.iBrk ⟨28, 28, 28, 28, 0⟩) 0 id same yes = true ∧ issues true (.iBrk ⟨28, 28, 28, 28, 0⟩) 0 id same yes = true ∧
    issues true (.iEret ⟨28, 28, 28, 28, 0⟩) 0 id same (fun _ t => t.x.tslot == t.x.tsl0) = true ∧
    issues true (.iEret ⟨28, 28, 28, 28, 0⟩) 0 (fun x => { x with tslot := 5 }) same (fun _ t => t.x.tslot != t.x.tsl0) = true := by decide
/-- Every instruction that a table gives an operation to issues: here one of each table, with a duplicate destination and a channel. -/
theorem wit_TaskComputeResults :
    issues false (.iAdd ⟨1, 2, 5, 28, 0⟩) 0 id same yes = true ∧ issues false (.iMad ⟨1, 2, 5, 3, 0⟩) 0 id same yes = true ∧
    issues false (.iDiv ⟨1, 28, 5, 6, 0⟩) 0 id same (fun _ t => t.b == 0) = true ∧
    issues false (.iNop ⟨1, 2, 28, 28, 0⟩) 0 id same yes = true ∧
    issues false (.iShl ⟨1, 31, 5, 28, 0⟩) 64 id same (fun _ t => t.b == 64) = true ∧ issues false (.iBins ⟨1, 2, 5, 31, 0⟩) 0xFFF id same yes = true ∧
    issues false (.iSel ⟨1, 2, 5, 3, 0⟩) 0 id same yes = true ∧ issues false (.iMov ⟨1, 28, 29, 30, 0⟩) 0 id same yes = true ∧
    issues false (.iMov ⟨24, 28, 5, 28, 0⟩) 0 (fun x => { x with vc := [(0, ⟨some 1, false, false, [Tok.scalar 0 0 9]⟩)] }) same
      (fun _ t => t.a == 9) = true := by decide
theorem wit_TaskFloatResults :
    issues false (.iFadd ⟨1, 2, 5, 28, 0⟩) 0 (regs 0x3F800000 0x7FC00000) same yes = true ∧
    issues false (.iFma ⟨1, 2, 5, 3, 0⟩) 0 id same yes = true ∧ issues false (.iFsqrt ⟨1, 28, 5, 28, 0⟩) 0 id same yes = true ∧
    issues false (.iCvt ⟨1, 31, 5, 28, 0⟩) 0x80 id same yes = true ∧ issues false (.iCvt ⟨1, 31, 5, 28, 0⟩) 0x50 id same yes = true := by decide
theorem wit_TaskTransfers :
    issues false (.iBr ⟨28, 31, 28, 28, 0⟩) 2047 id same (fun s t => t.lit.toNat % 2048 < Claims.slots (s.ctx 0 0 0)) = true ∧
    issues true (.iBlt ⟨1, 31, 2, 28, 0⟩) 255 (regs (-1) 0) same (fun s t => t.lit.toNat % 2048 < Claims.slots (s.ctx 0 0 0) && t.a.slt t.d) = true ∧
    issues true (.iBz ⟨1, 31, 28, 28, 0⟩) 256 id same (fun s t => Claims.slots (s.ctx 0 0 0) ≤ t.lit.toNat % 2048) = true ∧
    issues false (.iCall ⟨28, 31, 28, 28, 0⟩) 5 id same yes = true ∧ issues false (.iRet ⟨28, 28, 28, 28, 0⟩) 0 id same
      (fun s _ => (s.ctx 0 0 0).s[23]? == some 0) = true ∧
    issues false (.iJr ⟨1, 28, 1, 28, 0⟩) 0 (regs 2047 0) same (fun s t => t.a.toNat < Claims.slots (s.ctx 0 0 0)) = true ∧
    issues false (.iJr ⟨1, 28, 28, 28, 0⟩) 0 (regs 2048 0) same (fun s t => Claims.slots (s.ctx 0 0 0) ≤ t.a.toNat) = true ∧
    issues true (.iCall ⟨28, 31, 28, 28, 0⟩) 256 id same (fun s t => Claims.slots (s.ctx 0 0 0) ≤ t.lit.toNat % 2048) = true ∧
    issues true (.iRet ⟨28, 28, 28, 28, 0⟩) 0 (fun x => { x with s := x.s.set 23 256 }) same
      (fun s _ => Claims.slots (s.ctx 0 0 0) ≤ ((s.ctx 0 0 0).s[23]?.getD 0).toNat) = true := by decide
theorem wit_TaskRepeats :
    issues false (.iRep ⟨1, 31, 28, 28, 0⟩) 63 (regs 2 0) same (fun _ t => !t.x.rpt.active && t.x.pc.toNat + 64 < 2048 && t.a.toNat % 2 ^ 32 != 0) = true ∧
    issues false (.iRep ⟨1, 31, 28, 28, 0⟩) 0 (regs 0x100000000 0) same (fun _ t => t.a.toNat % 2 ^ 32 == 0) = true ∧
    issues false (.iRep ⟨1, 31, 28, 28, 0⟩) 0 (fun x => { x with rpt := ⟨1, 0, 0, true, 1⟩ }) same (fun _ t => t.x.rpt.active) = true ∧
    issues false (.iRep ⟨1, 31, 28, 28, 0⟩) 0 (fun x => { x with pc := 2047 }) same
      (fun _ t => 2048 ≤ t.x.pc.toNat + 0 + 1) = true := by decide
theorem wit_WaitsAndTags :
    issues false (.iWait ⟨0, 31, 31, 31, 0⟩) 0 id same yes = true ∧ issues false (.iWtagAny ⟨31, 28, 5, 28, 0⟩) 1 id same yes = true ∧
    issues false (.iWtagAll ⟨31, 28, 28, 28, 0⟩) 16 id same yes = true ∧ issues false (.iFtag ⟨31, 28, 5, 28, 0⟩) 255 id same yes = true ∧
    issues false (.iCtag ⟨31, 28, 28, 28, 0⟩) 1 id same yes = true := by decide
/-- A release of the context is not yet performed. -/
def relReq (s : State) : State := s.addReq { Req.blank 0 0 0 (.ctx 0 0 0) .store with cls := .st, rel := true, pieces := [Piece.mk1 (.phys 0x1000) 1 8 0 0 0 0] }
/-- Whether the context has such a release. -/
def relOf (s : State) : Bool := s.reqs.any (fun r => decide (r.who = .ctx 0 0 0) && r.rel && !r.performed)
theorem wit_WaitsAndTags_acquire :
    ([false, true].all (fun q => let u := if q then relReq else same
      issues false (.iWait ⟨0, 31, 0, 31, 0⟩) 0 id u (fun s t => t.x.ld == 0 && t.x.cp == 0 && relOf s == q) &&
      issues false (.iWtagAny ⟨31, 28, 5, 28, 0⟩) 1 id (fun s => u (s.updTp 0 0 (fun p => { p with cpdone := 1 })))
        (fun s t => (s.tp 0 0).cpdone &&& t.a != 0 && relOf s == q) &&
      issues false (.iWtagAll ⟨31, 28, 28, 28, 0⟩) 1 id (fun s => u (s.updTp 0 0 (fun p => { p with cpdone := 1 })))
        (fun s t => (s.tp 0 0).cpdone &&& t.a == t.a && relOf s == q))) = true ∧
    issues false (.iWait ⟨0, 31, 0, 31, 0⟩) 0 (fun x => { x with cp := 1 }) same (fun _ t => t.x.cp == 1) = true ∧
    issues false (.iWtagAny ⟨31, 28, 5, 28, 0⟩) 1 id same (fun s t => (s.tp 0 0).cpdone &&& t.a == 0 && t.a != 0) = true ∧
    issues false (.iWtagAll ⟨31, 28, 28, 28, 0⟩) 1 id same (fun s t => (s.tp 0 0).cpdone &&& t.a != t.a) = true := by decide
theorem wit_ControlReads :
    issues false (.iCtlRd ⟨31, 28, 5, 28, 0⟩) 0 id same (fun _ t => t.a == 0) = true ∧ issues true (.iCtlRd ⟨31, 28, 5, 28, 0⟩) 5 id same yes = true ∧
    issues false (.iCtlRd ⟨31, 28, 5, 28, 0⟩) 0x3F id same yes = true ∧ issues false (.iCtlRd ⟨31, 28, 5, 28, 0⟩) 0xC id same yes = true ∧
    issues false (.iCtlRd ⟨31, 28, 5, 28, 0⟩) 6 id same (fun _ t => !t.x.steward) = true := by decide
theorem wit_ControlWrites :
    issues true (.iCtlWr ⟨31, 2, 28, 28, 0⟩) 0 id same (fun _ t => t.x.steward) = true ∧ issues false (.iCtlWr ⟨31, 2, 28, 28, 0⟩) 3 id same yes = true ∧
    issues false (.iCtlWr ⟨31, 2, 28, 28, 0⟩) 9 id same yes = true ∧ issues false (.iCtlWr ⟨31, 2, 28, 28, 0⟩) 0xA id same yes = true ∧
    issues false (.iCtlWr ⟨31, 2, 28, 28, 0⟩) 0x20 id same yes = true ∧ issues false (.iCtlWr ⟨31, 2, 28, 28, 0⟩) 0x3F id same yes = true ∧
    issues false (.iCtlWr ⟨31, 2, 28, 28, 0⟩) 2 id same (fun _ t => !t.x.steward) = true ∧ issues true (.iCtlWr ⟨31, 2, 28, 28, 0⟩) 0x40 id same yes = true ∧
    issues false (.iCtlWr ⟨31, 2, 28, 28, 0⟩) 5 id same (fun _ t => !t.x.steward) = true := by decide
theorem wit_CountersAndIdentity :
    issues false (.iCntRd ⟨31, 28, 5, 28, 0⟩) 4 id same (fun s t => t.a == 4 && (s.tile 0).inst == some 0 && (NMap.find s.regions 0).isSome) = true ∧
    issues true (.iCntRd ⟨31, 28, 5, 28, 0⟩) 15 id same (fun _ t => t.x.steward) = true ∧ issues false (.iIdRd ⟨31, 28, 5, 28, 0⟩) 5 id same yes = true ∧
    issues false (.iIdRd ⟨31, 28, 5, 28, 0⟩) 6 id same (fun _ t => 5 < t.a.toNat) = true ∧ issues false (.iCntRd ⟨31, 28, 5, 28, 0⟩) 16 id same yes = true ∧
    issues false (.iCntRd ⟨31, 28, 5, 28, 0⟩) 8 id same (fun _ t => !t.x.steward) = true := by decide
theorem wit_HaltsAndDebug :
    issues true (.iHalt ⟨28, 28, 28, 28, 0⟩) 0 id same yes = true ∧ issues false (.iIdle ⟨28, 28, 28, 28, 0⟩) 0 id same yes = true ∧
    issues false (.iSwpPl ⟨31, 28, 28, 28, 0⟩) 4 id same yes = true ∧ issues true (.iQsc ⟨31, 28, 28, 28, 0⟩) 0 id same yes = true ∧
    issues true (.iQsc ⟨31, 28, 28, 28, 0⟩) 1 id same (fun _ t => t.a.getLsbD 0) = true ∧
    issues true (.iPmt ⟨31, 28, 28, 28, 0⟩) 9 id same (fun s _ => (s.tile 0).inst == some 0) = true ∧
    issues true (.iDbgX ⟨31, 2, 5, 28, 0⟩) 0x10A4 id same (fun _ t => t.a.toNat % 1024 ≤ 0xA5 && t.a.getLsbD 12) = true ∧
    issues true (.iDbgX ⟨31, 2, 5, 28, 0⟩) 0xA6 id same (fun _ t => 0xA5 < t.a.toNat % 1024) = true ∧
    issues false (.iSwpPl ⟨31, 28, 28, 28, 0⟩) 3 id same (fun _ t => t.a.toNat % 32 < 4) = true := by decide

/-! Witnesses: firings. -/

/-- Element `e` of tile 0 has begun a firing of `i` on the tokens given, changed by `u`. -/
def fire (e : Nat) (i : Instr) (lit : Word) (toks : List (Nat × Tok)) (n : Nat) (u : Fire → Fire) (v : Elem → Elem) : State :=
  let r : Fire := u ⟨0, (encodeWord i).getD 0xFFFFFFFF, lit, toks, 1, 3, n, toks.any (fun k => k.2.lanes != []), false, 0⟩
  let s := State.reset.withRegion
  { (s.updElem 0 e (fun x => v { x with cur := some r })) with site := .elem 0 e, begun := some (0, e) }

/-- The firing has begun and no token of it propagates; `P` holds of the state and the firing. -/
def fires (e : Nat) (i : Instr) (lit : Word) (toks : List (Nat × Tok)) (n : Nat) (u : Fire → Fire) (v : Elem → Elem) (P : State → Fire → Bool) : Bool :=
  let s := fire e i lit toks n u v
  match elemShape i, (s.elem 0 e).cur with
  | some h, some r => decide (s.site = .elem 0 e) && decide (decodeWord r.word = .ok i) && r.bad h (fun _ => false) == none && P s r
  | _, _ => false

theorem fires_sound {e : Nat} {i : Instr} {lit : Word} {toks : List (Nat × Tok)} {n : Nat} {u : Fire → Fire} {v : Elem → Elem}
    {P : State → Fire → Bool} (w : fires e i lit toks n u v P = true) :
    ∃ h r, Fires (fire e i lit toks n u v) i h r 0 e ∧ P (fire e i lit toks n u v) r = true := by
  unfold fires at w
  cases hs : elemShape i <;> cases hr : ((fire e i lit toks n u v).elem 0 e).cur <;> simp only [hs, hr] at w <;> try cases w
  · rename_i h r
    simp only [Bool.and_eq_true, decide_eq_true_eq, beq_iff_eq] at w
    obtain ⟨⟨⟨a, b⟩, c⟩, d⟩ := w
    exact ⟨h, r, ⟨a, hr, hs, b, c⟩, d⟩

/-- A scalar token of the firing's tag. -/
def sT (v : Word) : Tok := Tok.scalar 1 3 v
/-- A run of the firing's tag. -/
def vT (ls : List Lane) : Tok := ⟨.vector, 1, 3, ls.length - 1, 0, ls, []⟩
/-- An indexed token of the firing's tag. -/
def xT (ls : List Lane) (ix : List Nat) : Tok := ⟨.vector, 1, 3, ls.length - 1, 0, ls, ix⟩
/-- A firing as it is. -/
def plainFire (r : Fire) : Fire := r
/-- An element as it is. -/
def plainElem (x : Elem) : Elem := x
/-- No condition. -/
def any (_ : State) (_ : Fire) : Bool := true

theorem wit_FiringFrame : fires 4 (.iAdd ⟨0, 1, 0, 28, 0⟩) 0 [(0, sT 1), (1, sT 2)] 1 plainFire plainElem
    (fun s r => !r.eor && !(s.elem 0 4).swapReq) = true := by decide
theorem wit_ResultDestination : (State.reset.withRegion.tile 0).inst = some 0 ∧ (NMap.find State.reset.withRegion.regions 0).isSome = true ∧
    (sT 5).isBad = false ∧ (sT 5).lanes = [] ∧ (Tok.error 1 3 0 7).isBad = true ∧ (sT 5).kind ≠ .err := by decide
theorem wit_BadTokensPropagate :
    let s := fire 4 (.iAdd ⟨0, 1, 0, 28, 0⟩) 0 [(0, Tok.error 1 3 0 7), (1, sT 2)] 1 plainFire plainElem
    (elemShape (.iAdd ⟨0, 1, 0, 28, 0⟩)).any (fun h => (s.elem 0 4).cur.any (fun r => r.bad h (fun _ => false) == some (Tok.error 1 3 0 7))) = true ∧
    (Tok.error 1 3 0 7).kind ≠ .window := by decide
theorem wit_FiringCompute :
    fires 4 (.iAdd ⟨0, 1, 0, 28, 0⟩) 0 [(0, sT 1), (1, sT 2)] 1 plainFire plainElem (fun _ r => !r.vec) = true ∧
    fires 24 (.iFma ⟨0, 1, 0, 18, 0⟩) 0 [(0, vT (List.replicate 32 1)), (1, sT 2)] 32 plainFire plainElem (fun _ r => r.vec) = true ∧
    fires 28 (.iNop ⟨0, 28, 28, 28, 0⟩) 0 [(0, sT 1)] 1 plainFire plainElem any = true ∧
    fires 4 (.iCvt ⟨0, 31, 0, 28, 0⟩) 0x80 [(0, sT 1)] 1 plainFire plainElem (fun _ r => !r.vec) = true ∧
    fires 4 (.iCvt ⟨0, 31, 0, 28, 0⟩) 0x50 [(0, vT [1, 2])] 2 plainFire plainElem (fun _ r => r.vec) = true ∧
    fires 4 (.iCvtSr ⟨0, 31, 0, 1, 0⟩) 0x550 [(0, sT 1), (1, sT 2)] 1 plainFire plainElem (fun _ r => !r.vec) = true ∧
    fires 4 (.iCvtSr ⟨0, 31, 0, 1, 0⟩) 0x550 [(0, vT [1]), (1, vT [2])] 1 plainFire plainElem (fun _ r => r.vec) = true := by decide
theorem wit_FiringLut :
    fires 24 (.iRredExp ⟨0, 31, 0, 28, 0⟩) 10 [(0, sT 1)] 1 plainFire plainElem (fun _ r => !r.vec) = true ∧
    fires 24 (.iRredExp ⟨0, 1, 0, 28, 0⟩) 0 [(0, sT 1), (1, sT 11)] 1 plainFire plainElem (fun _ r => !r.vec) = true ∧
    fires 24 (.iRredLog ⟨0, 31, 0, 28, 0⟩) 0 [(0, vT [1, 2])] 2 plainFire plainElem (fun _ r => r.vec) = true ∧
    fires 24 (.iRredTrig ⟨0, 1, 0, 28, 0⟩) 0 [(0, vT [1, 2]), (1, vT [0, 32])] 2 plainFire plainElem (fun _ r => r.vec && 1 < r.n) = true ∧
    fires 24 (.iLutIx ⟨0, 31, 0, 28, 0⟩) 0 [(0, sT 1)] 1 plainFire plainElem any = true ∧
    fires 24 (.iLutEv ⟨0, 31, 0, 28, 0⟩) 0 [(0, sT 1)] 1 plainFire plainElem any = true := by decide
theorem wit_FiringReductions :
    fires 4 (.iVsum ⟨0, 28, 0, 28, 0⟩) 0 [(0, vT [1, 2, 3])] 3 plainFire plainElem (fun s r => (Claims.vb s r 0 4).scal == 0) = true ∧
    fires 4 (.iVmax ⟨0, 31, 0, 28, 0⟩) 2 [(0, sT 1)] 1 plainFire plainElem (fun s r => (Claims.vb s r 0 4).scal == 2) = true ∧
    fires 4 (.iVscan ⟨0, 31, 0, 28, 0⟩) 1 [(0, vT [1, 2])] 2 plainFire plainElem (fun s r => (Claims.va s r 0 4).lanes == [1, 2]) = true ∧
    fires 4 (.iVcnt ⟨0, 28, 0, 28, 0⟩) 0 [(0, vT [1, 0])] 2 plainFire plainElem any = true ∧
    fires 4 (.iArgmx ⟨0, 31, 0, 1, 0⟩) 1 [(0, vT [1, 5, 5])] 3 plainFire plainElem (fun s r => (Claims.va s r 0 4).lanes == [1, 5, 5]) = true ∧
    fires 4 (.iArgmx ⟨0, 28, 0, 1, 0⟩) 0 [(0, vT [1, 5])] 2 plainFire plainElem any = true ∧
    fires 4 (.iVsum ⟨0, 1, 0, 28, 0⟩) 0 [(0, vT [1, 5]), (1, sT 3)] 2 plainFire plainElem (fun s r => 2 < (Claims.vb s r 0 4).scal.toNat) = true ∧
    fires 4 (.iAmax ⟨0, 28, 0, 28, 0⟩) 0 [(0, vT [1, 5])] 2 plainFire plainElem any = true := by decide
theorem wit_FiringLaneMoves :
    fires 4 (.iLane ⟨0, 1, 0, 28, 0⟩) 0 [(0, vT [1, 5]), (1, sT 3)] 2 plainFire plainElem any = true ∧
    fires 4 (.iVperm ⟨0, 1, 0, 28, 0⟩) 0 [(0, vT [1, 5]), (1, vT [1, 31])] 2 plainFire plainElem (fun _ r => r.vec && r.iter < 2 ^ 20) = true ∧
    fires 4 (.iVslide ⟨0, 1, 0, 28, 0⟩) 0 [(0, vT [1, 5]), (1, sT (-1))] 2 plainFire plainElem (fun s r => (Claims.va s r 0 4).idx == []) = true ∧
    fires 4 (.iVins ⟨0, 1, 0, 2, 0⟩) 0 [(0, vT [1, 5]), (1, sT 9), (2, sT 1)] 2 plainFire plainElem (fun s r => (Claims.vc s r 0 4).scal.toNat % 32 < r.n) = true ∧
    fires 4 (.iVins ⟨0, 1, 0, 2, 0⟩) 0 [(0, vT [1, 5]), (1, sT 9), (2, sT 2)] 2 plainFire plainElem (fun s r => r.n ≤ (Claims.vc s r 0 4).scal.toNat % 32) = true ∧
    fires 4 (.iVsplat ⟨0, 1, 0, 28, 0⟩) 0 [(0, sT 1), (1, sT 32)] 1 plainFire plainElem any = true ∧
    fires 4 (.iVsplat ⟨0, 1, 0, 28, 0⟩) 0 [(0, sT 1), (1, sT 33)] 1 plainFire plainElem any = true ∧
    fires 4 (.iVext ⟨0, 1, 0, 28, 0⟩) 0 [(0, vT [1, 5]), (1, sT 0x3E1)] 2 plainFire plainElem (fun s r => (Claims.vb s r 0 4).scal.toNat % 32 < r.n) = true ∧
    fires 4 (.iVext ⟨0, 1, 0, 28, 0⟩) 0 [(0, vT [1, 5]), (1, sT 2)] 2 plainFire plainElem (fun s r => r.n ≤ (Claims.vb s r 0 4).scal.toNat % 32) = true ∧
    fires 4 (.iSplit ⟨0, 1, 0, 1, 0⟩) 0 [(0, vT [1, 5]), (1, sT 1)] 2 plainFire plainElem any = true ∧
    fires 4 (.iSplit ⟨0, 1, 0, 1, 0⟩) 0 [(0, vT [1, 5]), (1, sT 2)] 2 plainFire plainElem any = true ∧
    fires 4 (.iSplit ⟨0, 1, 0, 1, 0⟩) 0 [(0, vT [1, 5]), (1, sT 0)] 2 plainFire plainElem any = true ∧
    fires 4 (.iCat ⟨0, 1, 0, 28, 0⟩) 0 [(0, vT (List.replicate 16 1)), (1, vT (List.replicate 16 2))] 16 plainFire plainElem (fun _ r => r.n ≤ 16) = true ∧
    fires 4 (.iCat ⟨0, 1, 0, 28, 0⟩) 0 [(0, vT (List.replicate 17 1)), (1, vT (List.replicate 17 2))] 17 plainFire plainElem (fun _ r => 16 < r.n) = true ∧
    fires 4 (.iCat ⟨0, 1, 0, 28, 0⟩) 0 [(0, xT [1, 5] [4, 9]), (1, vT [1, 2])] 2 plainFire plainElem (fun s r => (Claims.va s r 0 4).idx != []) = true := by decide
theorem wit_FiringPacking :
    fires 4 (.iPack ⟨0, 31, 0, 28, 0⟩) 0x90 [(0, vT [1, 5])] 2 plainFire plainElem (fun s r => fmtBits (bitsOf r.lit 7 0) == 8 && (Claims.va s r 0 4).lanes != []) = true ∧
    fires 4 (.iPack ⟨0, 31, 0, 28, 0⟩) 0x90 [(0, sT 1)] 1 plainFire plainElem (fun s r => (Claims.va s r 0 4).lanes != [] && !r.vec) = true ∧
    ([0x90, 0x80].all (fun l => fires 4 (.iPack ⟨0, 31, 0, 28, 0⟩) l [(0, xT [1, 5] [4, 9])] 2 plainFire plainElem (fun s r =>
      (Claims.va s r 0 4).idx != [] && fmtBits (bitsOf r.lit 7 0) == (if l == 0x80 then 32 else 8)))) = true ∧
    fires 4 (.iUnpack ⟨0, 31, 0, 28, 0⟩) 0xB0 [(0, vT [1, 2, 3, 4])] 4 plainFire plainElem (fun s r => (Claims.va s r 0 4).lanes.length * 8 ≤ 32) = true ∧
    fires 4 (.iUnpack ⟨0, 31, 0, 28, 0⟩) 0xB0 [(0, vT [1, 2, 3, 4, 5])] 5 plainFire plainElem (fun s r => 32 < (Claims.va s r 0 4).lanes.length * 8) = true := by decide
theorem wit_FiringRouting :
    fires 4 (.iSteer ⟨0, 1, 0, 1, 0⟩) 0 [(0, sT 1), (1, sT 0)] 1 plainFire plainElem (fun s r => Claims.vb s r 0 4 == .sc 0) = true ∧
    fires 4 (.iSteer ⟨0, 1, 0, 1, 0⟩) 0 [(0, vT [1, 2]), (1, vT [1, 0])] 2 plainFire plainElem (fun s r => Claims.vb s r 0 4 == .vec [1, 0] []) = true ∧
    fires 4 (.iGate ⟨0, 24, 0, 28, 0⟩) 0 [(0, sT 1)] 1 plainFire plainElem (fun _ r => 24 ≤ r.f.b.toNat && r.f.b.toNat < 28) = true ∧
    fires 4 (.iGate ⟨0, 1, 0, 28, 0⟩) 0 [(0, sT 1), (1, sT 0)] 1 plainFire plainElem any = true ∧
    fires 4 (.iGate ⟨0, 1, 0, 28, 0⟩) 0 [(0, vT [1, 2]), (1, vT [1, 0])] 2 plainFire plainElem any = true ∧
    fires 4 (.iFilt ⟨0, 1, 0, 28, 0⟩) 0 [(0, vT [1, 2]), (1, vT [1, 0])] 2 plainFire plainElem any = true ∧
    fires 4 (.iJoin ⟨0, 1, 0, 28, 0⟩) 0 [(0, sT 1), (1, sT 0)] 1 plainFire plainElem any = true ∧
    fires 4 (.iMerge ⟨0, 1, 0, 28, 0⟩) 0 [(1, sT 4)] 1 plainFire plainElem any = true ∧
    fires 4 (.iTagset ⟨0, 1, 0, 28, 0⟩) 0 [(0, sT 1), (1, sT 0x300007)] 1 plainFire plainElem any = true ∧
    fires 4 (.iCtlOut ⟨0, 28, 24, 28, 0⟩) 0 [(0, sT 1)] 1 plainFire plainElem any = true ∧
    fires 4 (.iCtlWt ⟨24, 31, 0, 28, 0⟩) 255 [] 1 plainFire plainElem (fun s r => (Claims.vb s r 0 4).scal.toNat % 256 == 255) = true ∧
    fires 4 (.iCtlWt ⟨24, 16, 0, 28, 0⟩) 0 [] 1 plainFire plainElem (fun s r => (Claims.vb s r 0 4).scal.toNat % 256 == 0) = true ∧
    fires 4 (.iErrMk ⟨0, 31, 0, 28, 0⟩) 0x80 [(0, sT 1)] 1 plainFire plainElem any = true ∧
    fires 4 (.iErrMk ⟨0, 1, 0, 28, 0⟩) 0 [(0, sT 1), (1, sT 0x7F)] 1 plainFire plainElem any = true ∧
    fires 4 (.iFin ⟨0, 28, 0, 1, 0⟩) 0 [(0, sT 1)] 1 plainFire plainElem any = true ∧
    fires 4 (.iSink ⟨0, 28, 28, 28, 0⟩) 0 [(0, sT 1)] 1 plainFire plainElem any = true ∧
    fires 4 (.iRtCnt ⟨0, 28, 0, 28, 0⟩) 0 [(0, vT [1, 2])] 2 plainFire plainElem (fun _ r => (r.tok r.f.a.toNat).isSome) = true ∧
    fires 4 (.iRnorm ⟨0, 28, 0, 1, 0⟩) 0 [(0, vT (List.replicate 9 1))] 9 plainFire plainElem (fun s r => 8 < (Claims.va s r 0 4).lanes.length) = true ∧
    fires 4 (.iRnorm ⟨0, 28, 0, 1, 0⟩) 0 [(0, vT (List.replicate 8 0x3F800000))] 8 plainFire plainElem any = true ∧
    fires 4 (.iRnorm ⟨0, 28, 0, 1, 0⟩) 0 [(0, vT [0, 0])] 2 plainFire plainElem any = true := by decide
theorem wit_SinkCountsErrors :
    let s := fire 4 (.iSink ⟨0, 28, 28, 28, 0⟩) 0 [(0, Tok.error 1 3 0 7)] 1 plainFire plainElem
    (s.elem 0 4).cur.any (fun r => (r.tok r.f.a.toNat).any (fun k => decide (k.kind = .err)) && r.f.a == 0) = true ∧
    (elemShape (.iSink ⟨0, 28, 28, 28, 0⟩)).isSome = true ∧ (NMap.find s.regions 0).isSome = true := by decide
/-- The firing ends a round. -/
def eorFire (r : Fire) : Fire := { r with eor := true }
theorem wit_FiringRounds :
    fires 4 (.iReord ⟨0, 31, 0, 28, 0⟩) 4 [(0, sT 1)] 1 plainFire plainElem (fun s r => r.iter < (Claims.vb s r 0 4).scal.toNat % 2 ^ 20) = true ∧
    fires 4 (.iReord ⟨0, 31, 0, 28, 0⟩) 3 [(0, sT 1)] 1 eorFire plainElem (fun _ r => r.eor) = true ∧
    fires 4 (.iReord ⟨0, 1, 0, 28, 0⟩) 0 [(0, sT 1), (1, sT 3)] 1 plainFire plainElem (fun _ r => r.f.b.toNat < 16) = true ∧
    fires 4 (.iReord ⟨0, 31, 0, 28, 0⟩) 3 [(0, sT 1)] 1 plainFire plainElem (fun s r => 16 ≤ r.f.b.toNat && (s.elem 0 4).store == []) = true ∧
    fires 4 (.iEor ⟨0, 1, 0, 28, 0⟩) 0 [(0, sT 1), (1, sT 0)] 1 plainFire plainElem any = true ∧
    fires 4 (.iEor ⟨0, 31, 0, 28, 0⟩) 2 [(0, sT 1)] 1 plainFire plainElem (fun _ r => (r.fwd r.f.a.toNat).kind == .scalar) = true ∧
    fires 4 (.iEor ⟨0, 31, 0, 28, 0⟩) 1 [(0, sT 1)] 1 plainFire plainElem any = true ∧
    fires 4 (.iEor ⟨0, 31, 0, 28, 0⟩) 0x100000 [(0, vT [1, 2])] 2 plainFire plainElem (fun _ r => (r.fwd r.f.a.toNat).kind == .vector) = true ∧
    fires 4 (.iItgen ⟨0, 31, 0, 28, 0⟩) 32 [(0, sT 0x100000)] 1 plainFire plainElem any = true ∧
    fires 4 (.iItgen ⟨0, 31, 0, 28, 0⟩) 1 [(0, sT 0)] 1 plainFire plainElem any = true ∧
    fires 4 (.iItgen ⟨0, 31, 0, 28, 0⟩) 1 [(0, sT 0x100001)] 1 plainFire plainElem any = true ∧
    fires 4 (.iItgen ⟨0, 1, 0, 28, 0⟩) 0 [(0, sT 5), (1, sT 33)] 1 plainFire plainElem any = true ∧
    fires 4 (.iCntRd ⟨31, 0, 0, 28, 0⟩) 0 [(0, sT 5)] 1 plainFire plainElem any = true ∧
    fires 4 (.iCntRd ⟨31, 0, 0, 28, 0⟩) 1 [(0, sT 5)] 1 plainFire plainElem any = true ∧
    fires 4 (.iCntRd ⟨31, 0, 0, 28, 0⟩) 2 [(0, sT 5)] 1 plainFire plainElem any = true ∧
    fires 4 (.iCntRd ⟨31, 0, 0, 28, 0⟩) 3 [(0, sT 5)] 1 plainFire plainElem (fun s _ => (NMap.find s.regions 0).isSome) = true ∧
    fires 4 (.iCntRd ⟨0, 28, 0, 28, 0⟩) 0 [(0, sT 4)] 1 plainFire plainElem (fun s r => 4 ≤ (Claims.va s r 0 4).scal.toNat) = true := by decide
/-- The other side of the pair holds a candidate. -/
def side (c0 c1 : Option Tok) (x : Elem) : Elem := { x with pairs := [⟨0, 1, 3, c0, c1⟩] }
theorem wit_FiringTournament :
    fires 4 (.iCmpfw ⟨0, 1, 0, 28, 0⟩) 0 [(0, vT [1])] 1 plainFire plainElem any = true ∧
    fires 4 (.iCmpfw ⟨0, 1, 0, 28, 0⟩) 0 [(0, sT 5)] 1 plainFire plainElem any = true ∧
    fires 4 (.iCmpfw ⟨0, 1, 0, 28, 0⟩) 0 [(0, sT 5)] 1 plainFire (side none (some (sT 6))) any = true ∧
    fires 4 (.iCmpfw ⟨0, 1, 0, 28, 0⟩) 0 [(1, sT 5)] 1 plainFire (side (some (sT 6)) none) any = true ∧
    fires 4 (.iCmpfw ⟨0, 1, 0, 28, 0⟩) 0 [(1, sT 5)] 1 plainFire plainElem any = true ∧
    fires 4 (.iCmpfw ⟨0, 1, 0, 28, 0⟩) 0 [(0, sT 0x8000000000000005)] 1 plainFire plainElem any = true ∧
    fires 4 (.iCmpfw ⟨0, 1, 0, 28, 0⟩) 0 [(0, sT 0x8000000000000005)] 1 plainFire (side (some (sT 6)) (some (sT 7))) any = true ∧
    fires 4 (.iCmpfw ⟨0, 1, 0, 28, 0⟩) 0 [(0, sT 0x9000000000000005)] 1 plainFire (side (some (sT 6)) (some (sT 7))) any = true ∧
    fires 4 (.iTopkRp ⟨0, 31, 0, 28, 0⟩) 0x18 [(0, sT 5)] 1 plainFire plainElem
      (fun s r => (Claims.vb s r 0 4).scal.toNat < 256 && !(Claims.va s r 0 4).scal.getLsbD 61) = true ∧
    fires 4 (.iTopkRp ⟨0, 1, 0, 28, 0⟩) 0 [(0, sT 5), (1, sT 9)] 1 plainFire plainElem any = true ∧
    ([sT 0x2000000000000005, vT [5], xT [5] [4]].all (fun k => fires 4 (.iTopkRp ⟨0, 31, 0, 28, 0⟩) 0x18 [(0, k)] 1 plainFire plainElem
      (fun s r => (Claims.va s r 0 4).idx != [] || r.vec || (Claims.va s r 0 4).scal.getLsbD 61))) = true ∧
    (val32 0x3F800000 ≠ .nan ∧ val32 0x7FC00000 = .nan ∧ (val32 0x3F800000).lt (val32 0x40000000) = true) := by decide
theorem wit_FiringCompact :
    fires 4 (.iCmpct ⟨0, 28, 0, 28, 0⟩) 0 [(0, vT (List.replicate 32 7))] 32 plainFire
      (fun x => { x with cmpct := [(0, [⟨1, List.replicate 31 5, List.replicate 31 0, 0, 0⟩])] }) (fun _ r => r.vec && !r.eor) = true ∧
    fires 4 (.iCmpct ⟨0, 28, 0, 28, 0⟩) 0 [(0, sT 7)] 1 plainFire
      (fun x => { x with cmpct := [(0, [2, 3, 4, 5].map (fun k => ⟨k, [5], [0], 0, k⟩))] }) (fun _ r => !r.vec && r.n == 1) = true ∧
    fires 4 (.iCmpct ⟨0, 28, 0, 28, 0⟩) 0 [(0, xT [7, 8] [3, 9])] 2 eorFire plainElem
      (fun s r => (Claims.va s r 0 4).idx.length == r.n && r.eor) = true := by decide

/-! Witnesses: memory instructions and engines. -/

/-- The check passes. -/
def okE {α : Type} (x : Except Nat α) : Bool := match x with | .ok _ => true | .error _ => false
/-- The check gives the cause. -/
def errE {α : Type} (x : Except Nat α) (c : Nat) : Bool := match x with | .ok _ => false | .error k => k == c
/-- All memory is ready and key slot 0 valid. -/
def up (s : State) : State := { s with ready0 := BitVec.allOnes 64, ready1 := BitVec.allOnes 64, keys := [(0, [])] }
/-- Memory is ready, and the region of tile 0 has the first 64 KiB of its vault. -/
def grant (s : State) : State := (up s).updReg 0 (fun r => { r with vsize := 0x10000 })
/-- A literal of a memory instruction: space, width, count less one, offset. -/
def ml (sp w n off : Nat) : Word := BitVec.ofNat 64 (off + sp * 2 ^ 52 + w * 2 ^ 56 + n * 2 ^ 58)
/-- A window on page 1. -/
def win (rd wr rev : Bool) (ext kind : Nat) : Win := ⟨0x1000, ext, kind, rd, wr, false, 0, 0, 0, 0x1000, 0, rev⟩
/-- Window 0 of a context. -/
def win0 (rd wr rev : Bool) (ext kind : Nat) (x : Ctx) : Ctx := { x with wins := [(0, win rd wr rev ext kind)] }

theorem wit_AddressChecks :
    let s := grant State.reset.withRegion
    let a : Nat → Int → Nat → Nat → Acc := fun sp ea n sk => ⟨sp, ea, n, true, true, sk⟩
    let w : Bool → Bool → Nat → NMap Win := fun wr rev kind => [(0, win true wr rev 64 kind)]
    okE (s.place 0 [] (a 2 0x3FFC0 64 0)) && errE (s.place 0 [] (a 2 0x3FFC1 64 0)) 0x21 && errE (s.place 0 [] (a 0 0 64 1)) 0x27 &&
    errE (s.place 0 [] (a 3 0x3FFFFC1 64 0)) 0x21 && errE (s.place 0 [] (a 3 0xFFC1 64 0)) 0x26 && okE (s.place 0 [] (a 3 0xFFC0 64 0)) &&
    s.paOk (0x10000000000 + vaultOfTile 0 * 0x4000000 + 0xFFC0) 0 &&
    okE (s.place 0 [] (a 4 (2 ^ 56 - 64) 64 0)) && errE (s.place 0 [] (a 4 (2 ^ 56 - 63) 64 0)) 0x21 && errE (s.place 0 [] (a 5 0 8 0)) 0x24 &&
    errE (s.place 0 (w true true 1) (a 5 0 8 0)) 0x23 && errE (s.place 0 (w true false 1) (a 5 57 8 0)) 0x21 &&
    errE (s.place 0 (w false false 1) (a 5 56 8 0)) 0x25 && errE (s.place 0 (w true false 3) (a 5 56 8 0)) 0x27 &&
    okE (s.place 0 (w true false 1) (a 5 56 8 0)) && s.paOk (0x1000 + 56) 0 = true := by decide

/-- The operation of a memory instruction, its place and the hold of its class. -/
def memOk (s : State) (t : TIn) (i : Instr) (pass : Bool) (cause : Nat) : Bool :=
  (Claims.memOp t i).any (fun o => s.holds t o.cls (bitsOf t.lit 55 52 == 4) == none &&
    (if pass then okE (s.place 0 t.x.wins (Claims.range t o)) else errE (s.place 0 t.x.wins (Claims.range t o)) cause))
theorem wit_TaskMemoryIssues :
    issues false (.iLdW ⟨1, 31, 5, 28, 0⟩) (ml 0 2 3 0) (regs 0x3FFF0 0) same (fun s t => memOk s t (.iLdW ⟨1, 31, 5, 28, 0⟩) true 0) = true ∧
    issues false (.iStD ⟨1, 31, 5, 28, 0⟩) (ml 2 3 0 0) (regs 0x3FFF9 0) same (fun s t => memOk s t (.iStD ⟨1, 31, 5, 28, 0⟩) false 0x21) = true ∧
    issues false (.iLdAcq ⟨1, 31, 5, 28, 0⟩) (ml 5 3 0 0) (win0 true true false 64 1) up (fun s t => memOk s t (.iLdAcq ⟨1, 31, 5, 28, 0⟩) true 0) = true ∧
    issues false (.iAmoAdd ⟨1, 31, 5, 6, 0⟩) (ml 3 3 0 0) id grant (fun s t => memOk s t (.iAmoAdd ⟨1, 31, 5, 6, 0⟩) true 0) = true ∧
    issues false (.iSrd ⟨1, 31, 5, 28, 0⟩) (ml 5 3 0 0) (win0 true true false 64 3) up (fun s t => memOk s t (.iSrd ⟨1, 31, 5, 28, 0⟩) true 0) = true ∧
    issues false (.iBar ⟨1, 31, 5, 28, 0⟩) (ml 5 3 0 0) (win0 true true false 64 1) up (fun s t => memOk s t (.iBar ⟨1, 31, 5, 28, 0⟩) true 0) = true ∧
    issues false (.iLdD ⟨1, 31, 5, 28, 0⟩) (ml 4 3 0 0) (fun x => { x with acq := some 7 }) same (fun _ t => t.x.acq.isSome) = true ∧
    issues false (.iLdD ⟨1, 31, 5, 28, 0⟩) (ml 4 3 0 0) (fun x => { x with ld := 31 }) same (fun _ t => t.x.acq == none && 31 ≤ t.x.count .ld) = true := by decide
theorem wit_TaskCombinesAndFences :
    issues false (.iCmb ⟨1, 31, 2, 28, 0⟩) (ml 5 2 0 0) (fun x => win0 true true false 64 1 { x with s := x.s.set 3 0x1000100 }) up (fun s t =>
      ccOk true false ((s.ctx 0 0 0).src 0 3) && bitsOf t.lit 57 56 == 2 && s.holds t .st false == none) = true ∧
    issues false (.iCmb ⟨1, 31, 2, 28, 0⟩) (ml 5 3 0 0) (win0 true true false 64 1) up (fun _ t => bitsOf t.lit 57 56 != 2) = true ∧
    issues false (.iFence ⟨28, 31, 28, 28, 0⟩) 0 id same (fun s t => t.x.acq == none && s.reqs == []) = true ∧
    issues false (.iFence ⟨28, 31, 28, 28, 0⟩) 0 id
      (fun s => s.addReq { Req.blank 0 0 0 (.ctx 0 0 0) .load with cls := .ld, pieces := [Piece.mk1 (.spad 0 0) 4 8 0 0 0 0] })
      (fun s _ => s.reqs.any (fun r => decide (r.who = .ctx 0 0 0) && decide (r.cls = .ld) && !r.performed)) = true ∧
    issues false (.iFence ⟨28, 31, 28, 28, 0⟩) 0 (fun x => { x with acq := some 7 }) same (fun _ t => t.x.acq.isSome) = true := by decide

/-- Generator 1 of a port, in a space, with a step and a control word. -/
def gen (sp w : Nat) (base step : Int) (limit : Nat) (cc : Word) (x : Elem) : Elem :=
  { x with gens := [(1, ⟨sp, w, base, step, limit, cc, false, 1, false⟩), (2, ⟨sp, w, base, step, limit, cc, false, 1, false⟩)] }
/-- A port's literal of generator 1. -/
def portOk (s : State) (r : Fire) (e : Nat) (i : Instr) (pass : Bool) (cause : Nat) : Bool :=
  (NMap.find (s.elem 0 e).gens (bitsOf r.lit 3 0)).any (fun q => (Claims.portOp r (Claims.va s r 0 e) q i).any (fun o =>
    match s.lanePieces 0 (s.elem 0 e) o o.lanes 0 with | .ok _ => pass | .error (k, _) => !pass && k == cause))
theorem wit_PortMemoryIssues :
    fires 28 (.iLdW ⟨0, 31, 0, 28, 0⟩) 1 [(0, sT 0)] 1 plainFire (gen 0 2 0 4 1024 0) (fun s r => portOk s r 28 (.iLdW ⟨0, 31, 0, 28, 0⟩) true 0) = true ∧
    fires 28 (.iLdW ⟨0, 31, 0, 28, 0⟩) 1 [(0, sT 0)] 1 plainFire (gen 0 2 0 4 3 0) (fun s r => portOk s r 28 (.iLdW ⟨0, 31, 0, 28, 0⟩) false 0x20) = true ∧
    fires 28 (.iVst ⟨0, 31, 0, 28, 0⟩) 1 [(0, vT [1, 2])] 2 plainFire (gen 0 2 0 4 1024 0) (fun s r => portOk s r 28 (.iVst ⟨0, 31, 0, 28, 0⟩) true 0) = true ∧
    fires 28 (.iGld ⟨0, 31, 0, 28, 0⟩) 1 [(0, vT [1, 0x10000])] 2 plainFire (gen 0 2 0 4 0x20000 0)
      (fun s r => portOk s r 28 (.iGld ⟨0, 31, 0, 28, 0⟩) false 0x21) = true ∧
    fires 28 (.iLdD ⟨0, 31, 0, 28, 0⟩) 1 [(0, vT [1, 2])] 2 plainFire (gen 0 3 0 8 1024 0) (fun _ r => 1 < r.n) = true ∧
    fires 28 (.iSts ⟨0, 31, 0, 28, 0⟩) 1 [(0, vT [1, 2])] 2 plainFire (gen 0 2 0 4 0x10000 0) (fun s _ => ((s.elem 0 28).gens.length == 2)) = true ∧
    fires 28 (.iSst ⟨0, 31, 0, 28, 0⟩) 1 [(0, vT [1, 2])] 2 plainFire (gen 0 2 0 4 0x10000 0) (fun _ r => r.vec) = true ∧
    fires 28 (.iAmoCas ⟨0, 31, 0, 28, 0⟩) 1 [(0, vT [1, 2])] 2 plainFire (gen 0 2 0 4 0x10000 0) any = true ∧
    fires 28 (.iFence ⟨0, 31, 0, 28, 0⟩) 1 [(0, sT 1)] 1 plainFire (gen 0 2 0 4 0x10000 0) any = true := by decide
/-- The parts of a port's access are placed. -/
def okL (x : Except (Nat × Word) (List Piece)) : Bool := match x with | .ok _ => true | .error _ => false
theorem wit_PortOperands :
    fires 28 (.iLdW ⟨0, 31, 0, 28, 0⟩) 5 [(0, sT 0)] 1 plainFire (gen 0 2 0 4 1024 0) (fun s r => NMap.find (s.elem 0 28).gens (bitsOf r.lit 3 0) == none) = true ∧
    fires 28 (.iCmb ⟨0, 31, 0, 28, 0⟩) 1 [(0, vT [1, 2])] 2 plainFire (fun x => { gen 5 2 0 4 1024 0x300 x with wins := [(0, win true true false 4096 1)] }) (fun s r =>
      (NMap.find (s.elem 0 28).gens 1).any (fun q => (r.its (Claims.va s r 0 28)).headD r.iter < q.limit && !q.disabled &&
        okE ((up s).place 0 (s.elem 0 28).wins ⟨q.space, Claims.unit (s.elem 0 28).wins q.space (q.base + ((r.its (Claims.va s r 0 28)).headD r.iter : Nat) * q.step) 128,
          8, false, true, 0⟩))) = true ∧
    fires 28 (.iCmb ⟨0, 31, 0, 28, 0⟩) 1 [(0, vT [1, 2])] 2 plainFire (gen 0 3 0 8 1024 0x320) (fun s _ =>
      (NMap.find (s.elem 0 28).gens 1).any (fun q => bitsOf q.cc 6 4 == 2)) = true ∧
    fires 28 (.iAmoCas ⟨0, 31, 0, 28, 0⟩) 1 [(0, vT [1, 2, 3, 4])] 4 plainFire (gen 3 3 0 8 0x10000 0) (fun s r =>
      (NMap.find (s.elem 0 28).gens 1).any (fun q => okL ((grant s).lanePieces 0 (s.elem 0 28)
        ⟨.ld, .amo .cas, 8, 8, [(q, (r.its (Claims.va s r 0 28)).headD r.iter, 3 + 2 ^ 32 * 4, 1 + 2 ^ 32 * 2)], true, true, 0, false, false⟩
        [(q, (r.its (Claims.va s r 0 28)).headD r.iter, 3 + 2 ^ 32 * 4, 1 + 2 ^ 32 * 2)] 0))) = true ∧
    ([sT 1, vT [1, 2, 3]].all (fun k => fires 28 (.iAmoCas ⟨0, 31, 0, 28, 0⟩) 1 [(0, k)] (k.lanes.length - 1 + 1) plainFire (gen 0 2 0 4 0x10000 0) any)) = true ∧
    ([sT 1, vT [1, 2, 3]].all (fun k => fires 28 (.iSst ⟨0, 31, 0, 28, 0⟩) 1 [(0, k)] (k.lanes.length - 1 + 1) plainFire (gen 0 2 0 4 0x10000 0) any)) = true ∧
    fires 28 (.iLdt ⟨0, 31, 0, 28, 0⟩) 1 [(0, xT [1, 2] [4, 9])] 2 plainFire (gen 0 2 0 4 0x10000 0) (fun s r => (Claims.va s r 0 28).idx != []) = true := by decide

/-- A unit's object passes, or gives the cause. -/
def unitOk (s : State) (t : TIn) (i : Instr) (pass : Bool) (cause : Nat) : Bool :=
  (Claims.unitOp s t i).any (fun (cls, n, al, sk, rd, wr, _, _) => s.holds t cls false == none &&
    (let q := s.unitPlace 0 t.x.wins (bitsOf t.lit 55 52) (Claims.ea t 0) n al sk rd wr; if pass then okE q else errE q cause))
theorem wit_UnitIssues :
    issues false (.iSkInit ⟨1, 31, 2, 28, 0⟩) (ml 5 3 0 0) (win0 true true false 128 1) up
      (fun s t => unitOk s t (.iSkInit ⟨1, 31, 2, 28, 0⟩) true 0 && !s.storing 0 0 0 (t.d.toNat % 2 ^ 20) 64) = true ∧
    issues false (.iSkAdd ⟨1, 31, 2, 3, 0⟩) (ml 3 3 0 0) id grant (fun s t => unitOk s t (.iSkAdd ⟨1, 31, 2, 3, 0⟩) true 0) = true ∧
    issues false (.iHoldIns ⟨1, 31, 2, 28, 0⟩) (ml 3 3 0 0) id grant (fun s t => unitOk s t (.iHoldIns ⟨1, 31, 2, 28, 0⟩) true 0) = true ∧
    issues false (.iSkQry ⟨1, 31, 5, 28, 0⟩) (ml 5 3 0 0) id same (fun s t => unitOk s t (.iSkQry ⟨1, 31, 5, 28, 0⟩) false 0x24) = true ∧
    issues false (.iSkClr ⟨1, 31, 28, 28, 0⟩) (ml 2 3 0 0) id same (fun s t => unitOk s t (.iSkClr ⟨1, 31, 28, 28, 0⟩) false 0x33) = true := by decide
theorem wit_EngineIssues :
    issues false (.iCp ⟨1, 31, 28, 28, 0⟩) (ml 0 3 0 0) (regs 0x3FFC0 0) same (fun s t => s.holds t .cp false == none &&
      okE (s.place 0 t.x.wins ⟨0, Claims.ea t 0, 64, true, false, 0⟩)) = true ∧
    issues false (.iCps ⟨1, 31, 28, 28, 0⟩) (ml 0 3 0 0) (regs 32 0) same (fun _ t => Claims.ea t 0 % 64 != 0) = true ∧
    issues false (.iBmcInv ⟨1, 31, 2, 28, 0⟩) (ml 3 2 0 0) id grant (fun s t => okE (s.place 0 t.x.wins ⟨3, Claims.ea t 4, 4, true, false, 0⟩)) = true ∧
    issues false (.iSkMerge ⟨1, 31, 2, 28, 0⟩) (ml 3 3 0 0) (regs 0 64) grant (fun s t => okE (s.unitPlace 0 t.x.wins 3 (Claims.ea t 0) 64 64 0 true true)
      && okE (s.unitPlace 0 t.x.wins 3 t.d.toNat 64 64 0 true false)) = true ∧
    issues false (.iRtSnap ⟨1, 31, 28, 28, 0⟩) (ml 3 3 0 0) id grant (fun s t => okE (s.place 0 t.x.wins ⟨3, Claims.ea t 0, 2048, false, true, 0⟩)) = true ∧
    issues false (.iRsort ⟨1, 2, 28, 28, 0⟩) 0 (regs 0x3FFFC 0) same (fun s t => s.holds t .st false == none && t.a.toNat % 2 ^ 20 % 0x40000 + 4 ≤ 0x40000) = true ∧
    issues false (.iRsort ⟨1, 2, 28, 28, 0⟩) 0 (regs 2 0) same (fun _ t => t.a.toNat % 2 ^ 20 % 4 != 0) = true ∧
    issues false (.iRngSeed ⟨1, 28, 28, 28, 0⟩) 0 id same (fun s t => s.holds t .st false == none) = true ∧
    issues false (.iRng ⟨28, 28, 5, 28, 0⟩) 0 id same (fun s t => s.holds t .ld false == none) = true ∧
    issues false (.iPlf ⟨1, 2, 28, 28, 0⟩) 0 (regs 0x1000 (4 + 32 * 3)) (fun s => s.updElem 0 4 (fun x => { x with planes := [(0, Plane.empty)] }))
      (fun s t => (s.elem 0 4).planes != [] && (s.elem 0 4).apl != 3 && !(s.elem 0 4).npnd && s.holds t .cp false == none) = true ∧
    issues false (.iPlf ⟨1, 2, 28, 28, 0⟩) 0 (regs 0x1000 3) same (fun _ t => t.b.toNat % 32 < 4) = true := by decide
/-- Element 28 of the small state with its generators. -/
def unitFire (i : Instr) (sp : Nat) (toks : List (Nat × Tok)) (P : State → Fire → Gen → Bool) : Bool :=
  let s := grant (fire 28 i 1 toks 1 plainFire (gen sp 2 0 64 1024 0))
  match elemShape i, (s.elem 0 28).cur, NMap.find (s.elem 0 28).gens 1 with
  | some h, some r, some q => decide (s.site = .elem 0 28) && decide (decodeWord r.word = .ok i) && r.bad h (fun _ => false) == none && P s r q
  | _, _, _ => false
theorem wit_UnitPortIssues :
    unitFire (.iSkAdd ⟨0, 31, 0, 1, 0⟩) 3 [(0, sT 5), (1, sT 1)] (fun s r q => q.refuses r.iter == none &&
      okE (s.unitPlace 0 (s.elem 0 28).wins q.space (q.addr r.iter) 64 64 0 true true)) = true ∧
    unitFire (.iSkQry ⟨0, 31, 0, 28, 0⟩) 5 [(0, sT 5)] (fun s r q => errE (s.unitPlace 0 (s.elem 0 28).wins q.space (q.addr r.iter) 64 64 0 true false) 0x24) = true ∧
    fires 28 (.iSkStat ⟨0, 31, 0, 28, 0⟩) 1 [(0, sT 0)] 1 plainFire (gen 3 2 0 64 3 0) (fun s r =>
      (NMap.find (s.elem 0 28).gens 1).any (fun q => q.refuses r.iter == some 0x20)) = true ∧
    unitFire (.iSkMerge ⟨0, 31, 0, 28, 0⟩) 3 [(0, sT 64)] (fun s r q => okE (s.unitPlace 0 (s.elem 0 28).wins q.space (q.addr r.iter) 64 64 0 true true)
      && okE (s.unitPlace 0 (s.elem 0 28).wins q.space (Claims.va s r 0 28).scal.toNat 64 64 0 true false)) = true ∧
    unitFire (.iRtSnap ⟨0, 31, 0, 28, 0⟩) 3 [(0, sT 0)] (fun s r q => okE (s.place 0 (s.elem 0 28).wins ⟨q.space, q.addr r.iter, 2048, false, true, 0⟩)) = true ∧
    fires 4 (.iRng ⟨0, 31, 0, 28, 0⟩) 32 [(0, sT 0)] 1 plainFire plainElem any = true ∧
    fires 4 (.iRng ⟨0, 1, 0, 28, 0⟩) 0 [(0, sT 0), (1, sT 33)] 1 plainFire plainElem any = true ∧
    fires 4 (.iRtMap ⟨0, 1, 0, 28, 0⟩) 0 [(0, vT [1, 2]), (1, sT 0x4000000000000)] 2 plainFire plainElem
      (fun s r => bitsOf (Claims.vb s r 0 4).scal 51 48 == 4) = true ∧
    fires 4 (.iRtMap ⟨0, 1, 0, 28, 0⟩) 0 [(0, vT [1, 2]), (1, sT 0x3000000000000)] 2 plainFire plainElem (fun s r =>
      bitsOf (Claims.vb s r 0 4).scal 51 48 == 3 && s.bad == [] && (grant s).paOk (0x10000000000 + vaultOfTile 0 * 0x4000000 + 8 * (r.thread % 256)) 0) = true := by decide
theorem wit_TranslationIssues :
    issues false (.iXlt ⟨1, 31, 5, 28, 0⟩) 10 (regs 0xFFFFFFFFFFFFFF 0) same (fun s t => s.holds t .ld true == none && t.b.toNat % 16 ≤ 10) = true ∧
    issues false (.iXlt ⟨1, 2, 5, 28, 0⟩) 0 (regs 0x100000000000000 0) same (fun s t => s.holds t .ld true == none) = true ∧
    issues false (.iXlt ⟨1, 2, 5, 28, 0⟩) 0 (regs 0 11) same (fun _ t => 10 < t.b.toNat % 16) = true ∧
    issues false (.iWinChk ⟨28, 2, 5, 28, 0⟩) 0 (win0 true true false 64 1) up (fun _ t => Claims.winCause t.x.wins t.b == 0) = true ∧
    issues false (.iWinChk ⟨28, 2, 5, 28, 0⟩) 0 id same (fun _ t => Claims.winCause t.x.wins t.b == 0x24) = true ∧
    issues true (.iXinv ⟨1, 2, 28, 28, 0⟩) 0 id same (fun s t => s.holds t .st false == none) = true ∧
    issues true (.iMig ⟨1, 28, 5, 28, 0⟩) 0 id up (fun s t => s.holds t .st false == none && s.reachable (redirect s.migs t.a.toNat)
      && s.reachable (redirect s.migs (t.a.toNat + 31))) = true ∧
    fires 28 (.iXlt ⟨0, 31, 0, 28, 0⟩) 0x13 [(0, sT 0)] 1 plainFire plainElem any = true ∧
    fires 28 (.iXlt ⟨0, 31, 0, 28, 0⟩) 0x13 [(0, sT 0x100000000000000)] 1 plainFire plainElem any = true ∧
    fires 28 (.iXlt ⟨0, 1, 0, 28, 0⟩) 0 [(0, sT 0), (1, sT 11)] 1 plainFire plainElem any = true ∧
    fires 28 (.iWinChk ⟨0, 31, 0, 28, 0⟩) 0 [(0, sT 0)] 1 plainFire (fun x => { x with wins := [(0, win true true false 64 1)] })
      (fun s r => Claims.winCause (s.elem 0 28).wins (Claims.vb s r 0 28).scal == 0) = true := by decide

/-- The words of a legal descriptor of class 0: T absent or of a role, the space of W, families E2M1. -/
def dwords (tone : Bool) (role wsp : Nat) : List Word :=
  [BitVec.ofNat 64 ((if tone then 0x20 else 0) + role * 8 + 28 * 2 ^ 13 + 28 * 2 ^ 18), 0, BitVec.ofNat 64 (32 * 2 ^ 32 + wsp * 2 ^ 26), 0, 0, 0,
   BitVec.ofNat 64 (32 * 2 ^ 32), 0, 0, 0, BitVec.ofNat 64 (32 * 2 ^ 32), 0, 0, 0, 0x80, 0]
/-- The descriptor at offset 0 of the scratchpad, beside an engine changed by `f`. -/
def descAt (l : List Word) (f : Triad → Triad) (s : State) : State :=
  (s.updTile 0 (fun t => { t with spad := Memory.writeBytes t.spad 0 (bytesOfWords l) })).updTriad 0 f
/-- The descriptor of an issue passes. -/
def descFine (u : DUse) (s : State) (t : TIn) : Bool :=
  let d := parseDesc (s.spadWords 0 (t.a.toNat % 2 ^ 20) 16)
  let q := (s.tile 0).triad
  t.a.toNat % 2 ^ 20 % 128 == 0 && !s.storing t.g t.p t.c (t.a.toNat % 2 ^ 20) 128 && (match s.regOf 0 with | some (_, r) => d.check u r == 0 | none => false) &&
    (q.mixOk d && (q.bank d.bank).state != 2 || decide (u = .hold)) && s.holds t .tl false == none && q.entries false < 8
/-- Bank 0 filled, with an epilogue, or poisoned. -/
def bank0 (state : Nat) (epi : Bool) (q : Triad) : Triad :=
  q.setBank 0 (fun k => { k with state := state, epi := if epi then some (parseDesc (dwords true 0 0), 0, 0) else none })
/-- A binding of bank 0 to ragged rows, its product open or not. -/
def bound0 (op : Bool) (q : Triad) : Triad := { q with rags := [(0, ⟨parseDesc (dwords true 0 2), 0, 0, 1, 0, 0, 0, false, [], 0, 0, false, 0, op⟩)] }
/-- The low queue is full. -/
def fullQ (q : Triad) : Triad := { q with loQ := List.replicate 8 ⟨0, .abort, 0, 0, 0⟩ }
theorem wit_TriadQueues_1 :
    issues false (.iTriad ⟨1, 2, 28, 28, 0⟩) 0 id (descAt (dwords true 0 0) id) (fun s t => descFine .triad s t && !(s.tile 0).triad.heldBy 0) = true := by
  decide +kernel
theorem wit_TriadQueues_2 :
    issues false (.iThold ⟨1, 2, 28, 28, 0⟩) 0 id (descAt (dwords false 3 0) id) (fun s t => descFine .hold s t) = true := by decide +kernel
theorem wit_TriadQueues_3 :
    issues false (.iTrag ⟨1, 2, 28, 28, 0⟩) 0 (fun x => { regs 0 0x1000 x with vc := [(1, ⟨some 1, false, false, []⟩)] }) (descAt (dwords true 0 2) id)
      (fun s t => descFine .rag s t && (t.x.chan (t.b.toNat / 2 ^ 12 % 4)).readable && !(s.tile 0).triad.bound 0) = true := by decide +kernel
theorem wit_TriadQueues_4 :
    issues false (.iTrag ⟨1, 2, 28, 28, 0⟩) 0 (fun x => { regs 0 0x1000 x with vc := [(1, ⟨some 1, false, false, []⟩)] }) (descAt (dwords true 0 2) (bound0 false))
      (fun s t => descFine .rag s t && (s.tile 0).triad.bound 0) = true := by decide +kernel
theorem wit_TriadQueues :
    issues false (.iTriad ⟨1, 2, 28, 28, 0⟩) 0 (regs 0xC0000 0) same (fun s t => s.holds t .tl false == none && 0xC0000 ≤ t.a.toNat % 2 ^ 20) = true ∧
    issues false (.iTdrain ⟨1, 2, 28, 28, 0⟩) 0 id (fun s => s.updTriad 0 (bank0 1 true)) (fun s t => ((s.tile 0).triad.bank 0).state != 2 && (s.tile 0).triad.hasEpi 0
      && (s.tile 0).triad.entries false < 8 && s.holds t .tl false == none) = true ∧
    issues false (.iTdrain ⟨1, 2, 28, 28, 0⟩) 0 id (fun s => s.updTriad 0 (bank0 2 false)) (fun s _ => ((s.tile 0).triad.bank 0).state == 2) = true ∧
    issues false (.iTdrain ⟨1, 2, 28, 28, 0⟩) 0 id same (fun s _ => ((s.tile 0).triad.bank 0).state != 2 && !(s.tile 0).triad.hasEpi 0) = true ∧
    issues false (.iTzero ⟨1, 2, 28, 28, 0⟩) 0 id same (fun s _ => !(s.tile 0).triad.heldBy 0) = true ∧
    issues false (.iTzero ⟨1, 2, 28, 28, 0⟩) 0 id (fun s => s.updTriad 0 (bound0 true)) (fun s _ => (s.tile 0).triad.heldBy 0) = true ∧
    issues false (.iTscl ⟨1, 2, 28, 28, 0⟩) 0 (regs 0xBFF80 2) same (fun _ t => t.b.toNat % 4 != 3) = true ∧
    issues false (.iTabort ⟨1, 28, 28, 28, 0⟩) 0 id same (fun s _ => (s.tile 0).triad.entries false < 8) = true ∧
    issues false (.iTabort ⟨1, 28, 28, 28, 0⟩) 0 id (fun s => s.updTriad 0 fullQ) (fun s _ => 8 ≤ (s.tile 0).triad.entries false) = true := by decide +kernel
theorem wit_TriadReads :
    issues false (.iTacc ⟨1, 28, 5, 28, 0⟩) 0 id same (fun s t => s.holds t .ld false == none) = true ∧
    issues false (.iTcomb ⟨1, 28, 5, 28, 0⟩) 0 (regs 0x3FF80 0) same (fun s t => s.holds t .ld false == none && t.a.toNat % 2 ^ 20 % 0x40000 + 128 ≤ 0x40000) = true ∧
    issues false (.iTstat ⟨1, 28, 5, 28, 0⟩) 0 (regs 1 0) same (fun _ t => t.a.toNat % 4 < 2) = true ∧
    issues false (.iTstat ⟨1, 28, 5, 28, 0⟩) 0 (regs 2 0) same (fun _ t => t.a.toNat % 4 == 2) = true ∧
    issues false (.iTpri ⟨1, 28, 28, 28, 0⟩) 0 (regs 2 0) same (fun _ t => t.a.toNat % 4 != 3) = true ∧
    issues false (.iTpri ⟨1, 28, 28, 28, 0⟩) 0 (regs 3 0) same (fun _ t => t.a.toNat % 4 == 3) = true ∧
    issues false (.iTstat ⟨1, 28, 5, 28, 0⟩) 0 (regs 3 0) same (fun _ t => t.a.toNat % 4 == 3) = true := by decide +kernel
theorem wit_JobAndTenderIssues :
    issues false (.iJobSpawn ⟨1, 2, 5, 28, 0⟩) 0 (regs 0xFFFFFFFFFFFFC0 0) same (fun s t => s.holds t .ld true == none && t.a.toNat < 2 ^ 56) = true ∧
    issues false (.iTndCall ⟨1, 28, 5, 28, 0⟩) 0 (regs 32 0) same (fun s t => s.holds t .ld true == none && t.a.toNat % 64 != 0) = true ∧
    issues false (.iTndCost ⟨1, 28, 5, 28, 0⟩) 0 id same (fun s t => s.holds t .ld true == none) = true ∧
    issues false (.iJobJoin ⟨1, 28, 28, 28, 0⟩) 0 id same (fun s t => s.holds t .st false == none) = true ∧
    issues false (.iSig ⟨1, 2, 28, 28, 0⟩) 0 id same (fun s t => s.holds t .st false == none) = true ∧
    issues false (.iTndWd ⟨1, 28, 5, 28, 0⟩) 0 id same (fun s t => s.holds t .ld false == none) = true ∧
    issues false (.iTndSt ⟨1, 28, 5, 28, 0⟩) 0 id same (fun s t => s.holds t .ld false == none) = true := by decide +kernel
theorem wit_DoneEnds :
    issues false (.iDone ⟨1, 28, 28, 28, 0⟩) 0 (regs 0xFEFF 0) same (fun s t => (NMap.find s.regions 0).isSome && t.a.toNat % 2 ^ 16 < 0xFF00) = true ∧
    issues false (.iDone ⟨1, 28, 28, 28, 0⟩) 0 (fun x => { x with tl := 1 }) same (fun _ t => t.x.tl != 0) = true ∧
    issues false (.iDone ⟨1, 28, 28, 28, 0⟩) 0 (regs 0xFF00 0) same (fun _ t => 0xFF00 ≤ t.a.toNat % 2 ^ 16) = true := by decide +kernel
theorem wit_ShuffleAndCheckpointIssues :
    issues false (.iShfGo ⟨1, 2, 28, 28, 0⟩) 0 (regs 0x3000000000000 0) grant (fun s t => s.holds t .cp false == none && okE (s.unitPlace 0 t.x.wins 3 0 64 64 0 true false)) = true ∧
    issues false (.iShfFb ⟨1, 2, 28, 28, 0⟩) 0 (regs 0x4000000000000 0) same (fun _ t => t.a.toNat / 2 ^ 48 % 16 == 4) = true ∧
    issues false (.iShfFb ⟨1, 2, 28, 28, 0⟩) 0 (regs 0x2000000000000 0) same (fun s t => s.holds t .cp false == none) = true ∧
    issues true (.iCkpt ⟨1, 28, 28, 28, 0⟩) 0 id (fun s => (up s).updTile 0 (fun q => { q with intake := false })) (fun s t => !(s.tile 0).intake &&
      s.reachable (redirect s.migs t.a.toNat) && s.holds t .st false == none) = true ∧
    issues true (.iRstor ⟨1, 28, 28, 28, 0⟩) 0 id up (fun s t => s.reachable (redirect s.migs t.a.toNat) && s.holds t .ld false == none) = true ∧
    issues true (.iCkpt ⟨1, 28, 28, 28, 0⟩) 0 id same (fun s _ => (s.tile 0).intake) = true ∧
    issues true (.iRstor ⟨1, 28, 28, 28, 0⟩) 0 (regs 1 0) same (fun _ t => t.a.toNat % 64 != 0) = true ∧
    issues true (.iRstor ⟨1, 28, 28, 28, 0⟩) 0 (regs 0xC000000000 0) up (fun s t => !s.reachable (redirect s.migs t.a.toNat)) = true := by decide +kernel

/-! Witnesses: events. -/

/-- The small state, changed, with an event's argument. -/
def evS (a : EvArg) (u : State → State) : State := { u (grant State.reset.withRegion) with ev := a }
/-- Region 0. -/
def reg0 (s : State) (P : Region → Bool) : Bool := (NMap.find s.regions 0).any P
/-- Arc 0 (and circuit 0) into port 1 of slot 2 of element 4, or into channel 0 of context 0; `l` on it. -/
def arcS (chan : Bool) (l : List Wire) (u : State → State) : State :=
  let x : Arc := ⟨false, 0, 5, 0, chan, 0, if chan then 0 else 4, if chan then 0 else 1, 2⟩
  evS EvArg.none (fun s => u (s.updReg 0 (fun r => { r with
      arcs := [(0, x)], circs := [(0, x)], wires := [(0, l)], pulses := [(0, 1)], sinks := [(0, 4, 2)], sinkQ := [(0, sT 1)] })))
/-- Slot 2 of element 4 occupied, `n` tokens waiting in its store. -/
def slot2 (n : Nat) (s : State) : State :=
  s.updElem 0 4 (fun x => { x with planes := [(0, ⟨[], [], 4⟩)], store := List.replicate n ⟨2, 1, sT 0, 0⟩ })
/-- Intake is open and the arc's region runs; what the destination holds. -/
def arcPre (s : State) (P : Region → Elem → Bool) : Bool := reg0 s (fun r => r.live && (s.tile 0).intake && P r (s.elem 0 4))
/-- The slot of the arc is occupied. -/
def here2 (e : Elem) : Bool := (NMap.get e.planes e.apl Plane.empty).mask.getLsbD 2
theorem wit_ArcSteps :
    arcPre (arcS false [⟨2, sT 1, 1, 0⟩, ⟨2, sT 2, 0, 0⟩] (slot2 127)) (fun r e => (NMap.get r.wires 0 []).any (fun w => w.stage == 0) && e.store.length < 128) = true ∧
    arcPre (arcS true [⟨2, sT 1, 1, 0⟩] (fun s => s.updCtx 0 0 0 (fun x => { x with vc := [(0, ⟨some 1, false, false, List.replicate 8 (sT 0)⟩)] }))) (fun _ _ => true) = true ∧
    arcPre (arcS false [] (slot2 128)) (fun _ e => 128 ≤ e.store.length) = true ∧
    arcPre (arcS false [⟨2, sT 1, 2, 0⟩, ⟨2, sT 2, 1, 0⟩] same) (fun r _ => (NMap.get r.wires 0 []).any (fun w => w.stage == 1 && (pathOf 0 0)[w.hop]? == some 0 &&
      !flitsOk (struckFlits { EvArg.none with flag := true, w0 := 1 } (w.tok.flits 0 w.slot)))) = true ∧
    arcPre (arcS false [⟨2, sT 1, 2, 0⟩] (slot2 127)) (fun _ e => here2 e && e.store.length < 128) = true ∧
    arcPre (arcS false [⟨2, sT 1, 2, 0⟩] same) (fun _ e => !here2 e) = true ∧
    arcPre (arcS true [⟨2, sT 1, 2, 0⟩] (fun s => s.updCtx 0 0 0 (fun x => { x with vc := [(0, ⟨some 1, false, false, List.replicate 7 (sT 0)⟩)] }))) (fun _ _ => true) = true ∧
    arcPre (arcS false [] (slot2 0)) (fun r e => here2 e && NMap.get r.pulses 0 0 == 1 && (NMap.get e.ctl (4 * 2 + 1) []).length < 255) = true ∧
    arcPre (arcS false [] (slot2 127)) (fun r e => here2 e && r.sinkQ != [] && e.store.length < 128) = true := by decide +kernel

/-- Context 0 of task processor 0 has its turn. -/
def turnS (f : Ctx → Ctx) (u : State → State) : State := { u (task false (.iNop ⟨28, 28, 28, 28, 0⟩) 0 f) with ev := EvArg.none }
/-- Element 4 with `iItgen` in slot 2 and its operands waiting. -/
def matchS (u : State → State) : State :=
  evS { EvArg.none with e := 4, c := 2 } (fun s => u (s.updElem 0 4 (fun x => { x with
    planes := [(0, ⟨[(2, (encodeWord (.iItgen ⟨0, 31, 0, 28, 0⟩)).getD 0)], [(2, 32)], 4⟩)], store := [⟨2, 0, sT 5, 0⟩] })))
theorem wit_EmissionAndTrapSteps :
    (let s := matchS same; s.mayFire 0 4 && (nextMatch (s.elem 0 4).allocReord).any (fun m => !elemBreak (s.tile 0) 4 (s.elem 0 4).allocReord m)) = true ∧
    (let s := matchS (fun s => s.updTile 0 (fun t => { t with shadow := [(16, 4)] }))
     s.mayFire 0 4 && (nextMatch (s.elem 0 4).allocReord).any (fun m => elemBreak (s.tile 0) 4 (s.elem 0 4).allocReord m)) = true ∧
    (let s := matchS (fun s => s.updElem 0 4 (fun x => { x with itgen := [⟨2, 1, 5, 2, 4, 0, 28, 0, 0, none, 0⟩], fins := [⟨sT 1, 0, 28, 0⟩] }))
     ((s.elem 0 4).itgen.find? (fun q => q.slot == 2)).isSome && s.liveAt 0 && !s.heldBack 0 4 && (s.elem 0 4).fins.any (fun q => s.earlierGone 0 4 q.fire)) = true ∧
    (let s := turnS (fun x => { x with held := [(0x21, 5)] }) same; s.isTurn 0 0 0 && !(s.ctx 0 0 0).steward) = true ∧
    (let s := turnS id (fun s => s.updTile 0 (fun t => { t with amatch := [(0, 0x800)] }))
     s.isTurn 0 0 0 && (s.ctx 0 0 0).held == [] && brkHits (NMap.get (s.tile 0).amatch 0 0) (s.ctx 0 0 0)) = true ∧
    (let s := turnS id (fun s => s.updTp 0 0 (fun q => { q with store := [(0, 0xEF000000)] }))
     s.isTurn 0 0 0 && decide (s.site = .task 0 0 0) && (match decodeWord (s.wordAt 0 0 (s.ctx 0 0 0)) with | .ok _ => false | .error _ => true)) = true ∧
    (let s := turnS (fun x => { x with status := .blkDone }) (fun s => (s.updTp 0 0 (fun q => { q with store := [(0, 0xE2E739C0)] })).updCtx 0 0 0
       (fun x => { x with status := .blkDone }))
     s.liveAt 0 && decide ((s.ctx 0 0 0).status = .blkDone) && (match decodeWord (s.wordAt 0 0 (s.ctx 0 0 0)) with | .ok i => decide (i = .iDone ⟨28, 28, 28, 28, 0⟩) | .error _ => false) && (s.ctx 0 0 0).ld == 0) = true ∧
    ([0, 4096].all (fun n => let s := evS EvArg.none (fun s => { s.updReg 0 (fun r => { r with wdg := 2 ^ 24, recd := [0, 0, 0, 0, 0x100] }) with
        compBuf := List.replicate n (0, [], none) })
      reg0 s (fun r => r.live && 2 ^ 24 ≤ r.wdg && (r.recd.getD 4 0).getLsbD 8 && (decide (4096 ≤ s.compBuf.length) == (n == 4096))))) = true ∧
    reg0 (evS EvArg.none same) (fun r => r.live && r.wdg < 2 ^ 24) = true := by decide +kernel
/-- A window token that names register `n`. -/
def winTok (n : Nat) : Tok := ⟨.window, 0, 0, 5, 0, [0, BitVec.ofNat 32 (n * 2 ^ 20), 0, 0, 0, 0], [0, 0]⟩
/-- The window token of register `n` at the head of an arc into port 28. -/
def winArc (n : Nat) : State :=
  evS EvArg.none (fun s => s.updReg 0 (fun r => { r with
      arcs := [(0, ⟨false, 0, 5, 0, false, 0, 28, 0, 2⟩)], wires := [(0, [⟨2, winTok n, 2, 1⟩])] }))
theorem wit_ArcSteps_window : arcPre (winArc 10) (fun _ _ => winNum (winTok 10) == 10 && isPort ((State.reset.tile 0).phys 28)) = true ∧
    arcPre (winArc 11) (fun _ _ => winNum (winTok 11) == 11) = true := by decide +kernel

/-- Tables at 0x1000 that give the first page, and an image of one team at 0x4000: its header's magic, its placement. -/
def imgMem (leaf magic place : Nat) : List (Nat × List Nat) :=
  [(0x1000, [0x2001]), (0x2000, [0x3001]), (0x3000, [leaf]),
   (0x4000, [magic + 2 ^ 32, 1, 0, 184 + 2 * 2 ^ 32, 0, 64, 0, 0, 1 + 96 * 2 ^ 32, 64, 12 + 160 * 2 ^ 32, 24, 0, 1, 0, 0, 0x8000, 0, 0, 0, 1, 0, place])]
/-- A region record popped for that image, with a queue record. -/
def loadS (leaf magic : Nat) : State :=
  evS EvArg.none (fun s =>
    let s := s.updReg 0 (fun r => { r with
      st := .popped, root := 0x1000, recd := [0x4000, 0, 0, 0, 0x100], qrec := some (0, ⟨0, 0, 1, [0x4000, 0, 0, 0, 0x100], 0, true, 0, 0, 0, 0, true, none, none⟩) })
    { s with
      mem := (imgMem leaf magic 0x40).foldl (fun m x => Memory.writeBytes m x.1 (bytesOfWords (x.2.map (BitVec.ofNat 64)))) s.mem
      ready1 := BitVec.allOnes _, hub := [(0x50000, BitVec.ofNat 64 (2 ^ 16 + 2 * 2 ^ 19)), (0x50008, 0x1000)] })
/-- How the image of region 0 is read. -/
def loaded (s : State) (P : Region → Loaded → State → Bool) : Bool :=
  reg0 s (fun r => let q := s.loadImage 0 r.tenant (s.tenantRoot r.tenant) ((r.recd.getD 0 0).toNat % 2 ^ 56); P r q.1 q.2)
theorem wit_RegionSteps :
    loaded (loadS 0 0x464E4931) (fun r q s1 => decide (r.st = .popped) && (match q with
      | .fault va l y e => (s1.pageFault 0 r.tenant ((loadS 0 0x464E4931).loadTile r) 0 2 va l y e).isSome | _ => false)) = true ∧
    loaded (loadS 0x199 0) (fun r q _ => r.tender == none && (match q with | .refused _ => true | _ => false)) = true ∧
    loaded (loadS 0x199 0x464E4931) (fun r q s1 => r.qrec.any (fun k => match q with
      | .ok m => (s1.choose r.tenant m (s1.reserved k.2 m)).any (fun l => s1.placeFails m l == none) && NMap.find s1.regions 0 == some r &&
        ((loadS 0x199 0x464E4931).entryOf r.tenant).isSome && !(loadS 0x199 0x464E4931).behind k.2
      | _ => false)) = true ∧
    (let s := { loadS 0x199 0x464E4931 with hub := [], mem := Memory.writeBytes (loadS 0x199 0x464E4931).mem 0 [1, 0x20] }
     loaded s (fun r q _ => (s.entryOf r.tenant).isNone && r.qrec.isSome && (match q with | .ok _ => true | _ => false))) = true ∧
    (let s := loadS 0x199 0x464E4931
     let s := { s with regions := s.regions ++ s.regions.map (fun x => (1, { x.2 with st := .preempted 3, prio := 4, qrec := none })) }
     loaded s (fun r q _ => r.qrec.any (fun k => s.behind k.2) && (match q with | .ok _ => true | _ => false))) = true ∧
    (let s := (loadS 0x199 0x464E4931).updReg 0 (fun r => { r with st := .writing, image := List.replicate 184 0 })
     reg0 s (fun r => decide (r.st = .writing) && (match s.readImg r.tenant (s.tenantRoot r.tenant) (184 / 4096 + 3) 0x4000 184 with
       | (.ok _, s1) => NMap.find s1.regions 0 == some r | _ => false))) = true ∧
    (let s := evS EvArg.none (fun s => s.updReg 0 (fun r => { r with st := .loaded })); reg0 s (fun r => r.tender == none && s.awake r)) = true ∧
    (let s := evS EvArg.none (fun s => { s.updReg 0 (fun r => { r with st := .loaded }) with islands := [(0, 1)] }); reg0 s (fun r => !s.awake r)) = true := by
  decide +kernel

/-- A request of context 0 or element 28, alone. -/
def reqS (who : Agent) (op : ReqOp) (f : Req → Req) (u : State → State) : State :=
  evS EvArg.none (fun s => u { s with reqs := [f { Req.blank 0 0 0 who op with counted := true, cls := .ld }] })
/-- Request 0 and its region's run. -/
def reqIs (s : State) (P : Req → Bool) : Bool := (s.req s.ev.id).any (fun r => reg0 s (fun q => q.live) && r.counted && P r)
/-- One part of `n` bytes. -/
def one (pl : Place) (k n : Nat) (r : Req) : Req := { r with pieces := [Piece.mk1 pl k n 5 7 0 0] }
/-- The part of a plain access may be performed. -/
def partOk (s : State) : Bool :=
  reqIs s (fun r => decide (r.phase = .wait) && r.op.plain && (r.nextPiece s.ev.e).any (fun x => 1 ≤ x.2.n && x.2.n ≤ 16 && s.mayPerform r x.2 &&
    !s.partBad x.2 && (match x.2.place with | .phys a => (s.vault (homeOf (a / 16 * 16))).parties == [] && !s.barObject (redirect s.migs a) && s.stale == [] | _ => true)))
theorem wit_AccessPerformed :
    partOk (reqS (.ctx 0 0 0) .store (one (.spad 0 0x3FFF0) 0 16) same) = true ∧ partOk (reqS (.elem 0 28) .load (one (.phys 0x1000) 1 1) same) = true ∧
    partOk (reqS (.ctx 0 0 0) (.amo .cas) (one (.phys 0x1000) 1 8) same) = true := by decide +kernel
theorem wit_Visibility : let s := evS EvArg.none same
    s.stale = [] ∧ redirect s.migs 0x1000 % 8 + 8 ≤ 8 ∧ redirect s.migs 0x1000 < 2 ^ 44 ∧ s.barObject (redirect s.migs 0x1000) = false ∧
    Agent.ctx 48 0 0 ≠ .ctx 0 0 0 ∧ ([1, 2, 3].all (fun sc => inScopeOf sc ((Agent.ctx 0 0 0).tile.getD 0) (.ctx (if sc == 1 then 1 else 48) 0 0))) = true ∧
    ((evS EvArg.none (fun s => { s with hub := s.hub })).barObject 0x1000 = false) ∧
    (partOk (reqS (.ctx 0 0 0) .store (one (.phys 0x10000000000) 1 8) (fun s => { s with ready1 := BitVec.allOnes _ })) = true) := by decide +kernel
/-- The request may complete. -/
def endOk (s : State) (P : Req → Bool) : Bool := reqIs s (fun r => s.mayComplete r && P r)
theorem wit_AccessCompletes :
    endOk (reqS (.ctx 0 0 0) .load (fun r => { one (.spad 0 0) 0 8 r with phase := .done, d := 22, n := 2, dup := false }) same)
      (fun r => r.d + r.words.length ≤ 24 && !r.dup) = true ∧
    endOk (reqS (.ctx 0 0 0) .store (fun r => { one (.spad 0 0) 0 8 r with phase := .done, dup := false }) same) (fun r => r.d == 28) = true ∧
    endOk (reqS (.elem 0 28) .load (fun r => { one (.spad 0 0) 0 8 r with phase := .done }) same) (fun r => r.performed && !r.vec && r.width == 0) = true ∧
    endOk (reqS (.elem 0 28) .load (fun r => { one (.spad 0 0) 0 8 r with phase := .done, vec := true }) same) (fun r => r.performed && r.vec) = true ∧
    endOk (reqS (.elem 0 28) (.amo .add) (fun r => { one (.phys 0x1000) 1 8 r with phase := .done }) same) (fun r => r.performed) = true ∧
    endOk (reqS (.elem 0 28) .store (fun r => { one (.phys 0x1000) 1 8 r with phase := .refused 0x20 0 }) same) (fun r => r.performed) = true := by
  decide +kernel
/-- The state of the word at 0x1000. -/
def presS (p : Nat) (s : State) : State := { s with blockWord := [(0x40, p)] }
/-- A structure operation reaches its word. -/
def structOk (s : State) (p : Nat) : Bool :=
  reqIs s (fun r => match r.pieces with
    | [q] => (match q.place with
      | .phys a => s.mayPerform r q && !s.badBlock (.phys a) && s.presence a == p && redirect s.migs a == a && (p != 2 || s.deferredOk (homeOf a) a q.key)
      | _ => false)
    | _ => false)
/-- The word at 0x1000 deferred, reader 3 waiting. -/
def defS (s : State) : State :=
  presS 2 { s.updVault (homeOf 0x1000) (fun v => { v with pool := [⟨3, 0, 0x1000, 9⟩] }) with mem := Memory.writeBytes s.mem 0x1000 [3, 0, 3] }
theorem wit_StructureAtHome :
    ([ReqOp.srd, .swr, .sclr, .sprb].all (fun op => [ (presS 0, 0), (presS 1, 1)].all (fun u =>
      structOk (reqS (.elem 0 28) op (one (.phys 0x1000) 1 8) u.1) u.2))) = true ∧
    ([ReqOp.srd, .swr, .sclr, .sprb].all (fun op => structOk (reqS (.ctx 0 0 0) op (one (.phys 0x1000) 1 8) defS) 2 )) = true ∧
    ((reqS (.elem 0 28) .srd (one (.phys 0x1000) 1 8) same).vault (homeOf 0x1000)).freeRec.isSome = true := by decide +kernel
/-- A combine or a barrier reaches its home. -/
def cmbOk (s : State) (P : Req → Vault → Option Cmb → Bool) : Bool :=
  reqIs s (fun r => match r.pieces with
    | q :: _ => (match q.place with
      | .phys a => s.mayPerform r q && !s.badBlock (.phys a) && redirect s.migs a == a &&
        (let v := s.vault (homeOf a); P r v (v.cmbs.find? (fun k => k.inst == 0 && k.place == a)))
      | _ => false)
    | [] => false)
/-- The vault of 0x1000, changed. -/
def atV (f : Vault → Vault) (s : State) : State := { s.updVault (homeOf 0x1000) f with ev := { EvArg.none with e := homeOf 0x1000 } }
/-- A combine of count 3. -/
def cmbS (u : State → State) : State :=
  let s := reqS (.elem 0 28) (.cmb false 0x300) (one (.phys 0x1000) 1 8) same
  { u s with ev := { EvArg.none with e := homeOf 0x1000 } }
/-- A barrier at the first vault, its words. -/
def barS (w0 w1 : Nat) : State :=
  reqS (.elem 0 28) (.bar 64) (one (.phys 0x10000000000) 1 16) (fun s => { s with
    ready1 := BitVec.allOnes _, mem := Memory.writeBytes s.mem 0x10000000000 (bytesOfWords [BitVec.ofNat 64 w0, BitVec.ofNat 64 w1]) })
/-- The barrier's words. -/
def barOk (s : State) (P : Nat → Nat → Int → Bool) : Bool :=
  cmbOk s (fun _ _ _ => let w := s.readPa 0x10000000000 8; P (w % 65536) (w / 65536 % 65536) (sgn 40 (s.readPa 0x10000000008 8)))
theorem wit_CombinesAndBarriersAtHome :
    cmbOk (cmbS same) (fun _ v k => v.cmbQ == [] && k == none && v.cmbs.length < 4096 && bitsOf 0x300 23 8 == 3 && !bitOf 0x300 26) = true ∧
    cmbOk (cmbS (atV (fun v => { v with cmbs := [⟨0, 0x1000, [0x1000], none, false, 0x300, 0, 1, [9], [], none⟩] }))) (fun _ v k => v.cmbQ == [] &&
      k.any (fun k => !k.fixed && ccKey k.cc == ccKey 0x300 && k.lanes == 0 && k.seen + 1 != bitsOf 0x300 23 8)) = true ∧
    cmbOk (cmbS (atV (fun v => { v with cmbQ := [0] }))) (fun r v k => v.cmbQ == [r.id] && k == none) = true ∧
    barOk (barS 3 0) (fun e a p => e != 0 && a + 1 < e && p + 64 < 2 ^ 39) = true ∧ barOk (barS (2 + 2 * 65536) 0) (fun e a _ => a == e && e != 0) = true ∧
    barOk (barS 0 5) (fun e _ p => e == 0 && p == 5) = true := by decide +kernel
theorem wit_CombinesAndBarriersAtHome_full : (List.replicate 4096 (⟨1, 0, [0], none, false, 0, 0, 1, [], [], none⟩ : Cmb)).find? (fun k => k.inst == 0 && k.place == 0x1000) = none ∧
    (List.replicate 4096 (⟨1, 0, [0], none, false, 0, 0, 1, [], [], none⟩ : Cmb)).length = 4096 := by decide +kernel

/-- A copy of 16 bytes from the scratchpad to the grant. -/
def copyS (f : Copy → Copy) (u : State → State) : State :=
  reqS (.ctx 0 0 0) (.copy (f ⟨0, ⟨0, 0, 0x100⟩, ⟨3, 0, 0⟩, 7, 1, 16, 0, 0, false, 0, 0, 0, ⟨0, 0, 0⟩, ⟨0, 0, 0⟩, 0, 0, false, [], 0, none, [], false, []⟩)) id
    (fun s => u { s with ready1 := BitVec.allOnes _ })
/-- The request's copy. -/
def copyIs (s : State) (P : Req → Copy → Bool) : Bool := reqIs s (fun r => match r.op with | .copy c => P r c | _ => false)
/-- One shuffle entry: one contribution, one receiver in vault 1 of this chip. -/
def entryBytes : List Byte :=
  bytesOfWords ([BitVec.ofNat 64 1, 0, 0] ++ [BitVec.ofNat 64 (vaultAddr 0), BitVec.ofNat 64 (vaultAddr 0)] ++ List.replicate 9 0 ++
    [BitVec.ofNat 64 (vaultAddr 1), 0x100] ++ List.replicate 16 0)
/-- A shuffle at a plan at 0x1000 that holds the entry. -/
def shfS (k n : Nat) (u : State → State) : State :=
  reqS (.ctx 0 0 0) (.shf 7 k n) (fun r => { one (.phys 0x1000) 1 64 r with room := 320 })
    (fun s => u { s with mem := Memory.writeBytes s.mem 0x1040 entryBytes, ready1 := BitVec.allOnes _ })
/-- A packet of one byte, its receivers. -/
def pkt (l : List Rcv) : Packet := ⟨0, 0, 1, [1], [0], [0], [9], [], l, false⟩
/-- A plane image of nothing at virtual page 0, which the tables of `imgMem` map to the first gigabyte. -/
def plfS : State :=
  reqS (.ctx 0 0 0) (.plf 4 1) (fun r => { r with ea := 0x8000 }) (fun s => { s.updReg 0 (fun r => { r with root := 0x1000 }) with
    mem := (imgMem 0x199 0 0 ++ [(0x8308, [36])]).foldl (fun m (x : Nat × List Nat) =>
      Memory.writeBytes m x.1 (bytesOfWords (x.2.map (BitVec.ofNat 64)))) s.mem })
theorem wit_CopyAndShuffleSteps :
    copyIs { copyS id same with ev := { EvArg.none with e := 1 } } (fun r c => !c.bad && r.withheld.isNone && c.fetch == c.pos + c.got.length && c.fetch < c.total &&
      (match (copyS id same).reachEnd r 0 c c.src 0 8 false with | (.at pl _ _, s1) => !s1.badBlock pl | _ => false)) = true ∧
    copyIs (copyS (fun c => { c with got := List.replicate 8 (3, .spad 0 0x100, 0), fetch := 8 }) same) (fun r c => c.pos < c.total && 8 ≤ c.got.length &&
      (match (copyS id same).reachEnd r 0 c c.dst 0 8 true with
       | (.at (.phys a) _ _, s1) => (s1.vault (homeOf (a / 16 * 16))).parties == [] && !s1.barObject (redirect s1.migs a) | _ => false)) = true ∧
    copyIs (copyS (fun c => { c with pos := 16, fetch := 16 }) same) (fun _ c => c.total ≤ c.pos) = true ∧
    copyIs (copyS id same) (fun _ c => !c.bad && c.pos < c.total) = true ∧
    reqIs (shfS 1 1 same) (fun r => !(shfS 1 1 same).inFlight r.id) = true ∧
    reqIs (shfS 0 1 same) (fun r => r.room == 320 && (shfS 0 1 same).unitBad 0 0x1040 4 == none && ((shfS 0 1 same).parseEntry ((shfS 0 1 same).keyBytes 0x1040 256 none)).isSome) = true ∧
    ((shfS 1 1 (fun s => s.updVault 0 (fun z => { z with heldPk := [pkt []] }))).vault 0).heldPk.any (fun pk => pk.data.length ≤ 0x40000) = true ∧
    ((shfS 1 1 (fun s => s.updVault 0 (fun z => { z with packets := [pkt [⟨vaultAddr 1, 0, 0, 0, 1, false⟩]] }))).vault 0).packets.any
      (fun pk => pk.rcvs != [] && pk.req == 0) = true ∧
    reqIs plfS (fun r => plfS.nodeFree 0 r && match plfS.readVirt 0 r.tenant (plfS.rootOf r.inst) 4 3 (r.ea % 2 ^ 56) 1024 with
      | (.ok bs, s1) => planeFails (kindOf 4) 4 1 (s1.elem 0 4).gens bs == none && !(s1.elem 0 4).swapWait | _ => false) = true := by decide +kernel

/-- A sketch of one row of 16 counters at 0x1000. -/
def skS (op : ReqOp) (w : Nat) : State :=
  reqS (.ctx 0 0 0) op (fun r => { one (.phys 0x1000) 1 64 r with room := 4096 })
    (fun s => { s with mem := Memory.writeBytes s.mem 0x1000 (bytesOfWords [BitVec.ofNat 64 w, 1]) })
/-- A sketch operation may be performed. -/
def skOk (s : State) (P : Req → Bool) : Bool :=
  reqIs s (fun r => match r.pieces with
    | p :: _ => r.op.isSk && s.mayPerform r p && s.slotFirst r && !s.merging r p.place.pa && s.skBad r p.place.pa == none && P r
    | [] => false)
/-- The operation ends with its results, or with a cause. -/
def skEnds (s : State) (r : Req) (c : Option Nat) : Bool := match s.skOp r 0x1000, c with | .ok _, none => true | .error k, some j => k == j | _, _ => false
/-- The unit's operation is first in its order. -/
def unitIs (s : State) (P : Req → Bool) : Bool := reqIs s (fun r => r.pieces.all (fun p => s.mayPerform r p) && s.slotFirst r && P r)
theorem wit_UnitSteps :
    skOk (skS (.skAdd [(0, 5, 1)]) 33) (fun r => skEnds (skS (.skAdd [(0, 5, 1)]) 33) r none) = true ∧
    skOk (skS .skStat 33) (fun r => (parseSk ((skS .skStat 33).paBytes 0x1000 64)).any (fun k => k.bytes ≤ r.room)) = true ∧
    skOk (skS .skClr 0) (fun r => skEnds (skS .skClr 0) r (some 0x30)) = true ∧
    (let s := skS (.skMerge (.phys 0x1000) 4096 0x21 none []) 33; skOk s (fun r => match s.skMergeAt r 0x1000 1 with | .ok fin _ => !fin | _ => false)) = true ∧
    ([ReqOp.holdIns 5 9, .holdDrop 5, .holdQ 5].all (fun op => unitIs (reqS (.ctx 0 0 0) op (one (.phys 0x1000) 1 64) same) (fun r => r.pieces != []))) = true ∧
    (let s := reqS (.ctx 0 0 0) .rtSnap (one (.phys 0x1000) 1 2048) same
     unitIs s (fun r => decide (r.phase = .wait) && !s.unitBusy r (fun o => o == .rtSnap) && r.who.tile == some 0)) = true ∧
    (let s := reqS (.ctx 0 0 0) .rtSnap (fun r => { one (.phys 0x1000) 1 2048 r with phase := .accepted }) same
     reqIs s (fun r => decide (r.phase = .accepted) && s.migs == [])) = true ∧
    (let s := reqS (.ctx 0 0 0) (.rsort 0 64 2) (one (.spad 0 0) 0 8) same; unitIs s (fun r => !s.unitBusy r ReqOp.isSort && r.who.tile == some 0)) = true ∧
    ([ReqOp.rngSeed 7, .rng 0, .rng 3].all (fun op => let s := reqS (.ctx 0 0 0) op id same
      reqIs s (fun r => decide (r.phase = .wait) && r.who.tile == some 0 && !(s.earlier r).any (fun x => x.op.isRng && !x.performed)))) = true := by decide +kernel

/-- A descriptor of class 0 over one row and one column of `n` steps. -/
def dsc (n : Nat) : Desc := { parseDesc (dwords true 0 0) with inner := n, outer := 1, ncols := 1, mrows := 1, tone := true, mode := 0 }
/-- A queued operation. -/
def qe (num : Nat) (op : SeqOp) : QEnt := ⟨num, op, 0, 0, 0⟩
/-- The engine of the small state, changed. -/
def engS (hi : Bool) (f : Triad → Triad) : State := evS { EvArg.none with flag := hi } (fun s => s.updTriad 0 f)
/-- What the engine holds. -/
def eng (s : State) (P : Triad → Bool) : Bool := s.liveAt 0 && P (s.tile 0).triad
/-- A contraction under way. -/
def runT (n j : Nat) : Run := { Run.new (qe 1 (.triad (dsc n) 0 0)) false with j := j, fw := j, fn := j, ft := j }
theorem wit_SequencerSteps :
    eng (engS true (fun t => { t with hiQ := [qe 1 (.triad (dsc 4) 0 0)] })) (fun t => t.runs == [] && t.broke == [] && t.turn true &&
      t.hiQ.all (fun e => e.op != .abort && e.op.bank.all (fun b => (t.bank b).state != 2 && !t.heldBy b))) = true ∧
    eng (engS false (fun t => { t with loQ := [qe 1 (.zero 3)] })) (fun t => t.runs == [] && t.turn false) = true ∧
    eng (engS false (fun t => { t with broke := [runT 64 32] })) (fun t => t.runs == [] && t.hiQ == [] && t.broke != []) = true ∧
    eng (engS true (fun t => { t with broke := [runT 64 32], hiQ := [qe 2 (.zero 0)] })) (fun t => !t.clearOf (.zero 0)) = true ∧
    eng (engS true (fun t => { t with broke := [runT 64 32], hiQ := [qe 2 (.zero 1)] })) (fun t => t.clearOf (.zero 1) && t.turn true) = true ∧
    eng (engS false (fun t => { t with runs := [Run.new (qe 1 (.drain 2)) false, runT 64 31], hiQ := [qe 2 (.zero 1)] })) (fun t =>
      t.runs.head?.any (fun r => r.interruptible) && breakable (.zero 1) (.triad (dsc 64) 0 0) && breakable (.zero 1) (.drain 2)) = true ∧
    eng (engS false (fun t => { t with runs := [runT 4 3], out := [(0, 0, 1, { sT 0 with kind := .vector })] })) (fun t => t.waiting) = true ∧
    eng (engS false (fun t => { t with runs := [runT 64 32], hiQ := [qe 2 (.zero 1)] })) (fun t => t.pol == 0 && t.broke == [] &&
      t.runs.all (fun r => r.interruptible && !r.high) && breakable (.zero 1) (.triad (dsc 64) 0 0)) = true ∧
    eng (engS false (fun t => { t with runs := [runT 64 31], hiQ := [qe 2 (.zero 1)] })) (fun t => t.runs.all (fun r => !r.interruptible)) = true ∧
    eng (engS false (fun t => { t with runs := [{ runT 64 32 with fw := 39 }] })) (fun t => t.runs.all (fun r => !r.fin && r.fw < r.j + 8 && r.fw < (dsc 64).total)
      && (dsc 64).w.lim == 0 && (dsc 64).w.space == 0) = true ∧
    eng (engS false (fun t => { t with runs := [{ runT 64 32 with fw := 40 }] })) (fun t => t.runs.all (fun r => !r.fin && r.j + 8 ≤ r.fw)) = true ∧
    eng (engS false (fun t => { t with runs := [{ runT 4 3 with fw := 4, fn := 4, sw := [[[⟨1, 0x5080⟩]]], sn := [[[⟨1, 0x5080⟩]]] }] })) (fun t => !t.halted && !t.waiting &&
      !(dsc 4).stream && !(dsc 4).tFed && El.ok (dsc 4).w.fam (dsc 4).intOnly ⟨1, 0x5080⟩ && El.ok (dsc 4).n.fam (dsc 4).intOnly ⟨1, 0x5080⟩ && (dsc 4).n.lim == 0 &&
      (State.reset.withRegion.tile 0).lvl < 8) = true ∧
    eng (engS false (fun t => { t with runs := [{ Run.new (qe 1 (.triad { dsc 4 with w := { (dsc 4).w with lim := 1 } } 0 0)) false with j := 1 }] }))
      (fun t => !t.halted && !t.waiting && t.runs != []) = true ∧
    eng (engS false (fun t => { t with loQ := [qe 1 (.zero 3), qe 2 .abort, qe 3 (.zero 2)] })) (fun t => t.runs == [] && t.rags == [] && t.broke == []) = true := by
  decide +kernel

/-- A binding of bank 0 for thread 1, its state, and a token in its channel. -/
def ragS (rows : List (Nat × Nat)) (applied out : Nat) (ended : Bool) (k : Tok) : State :=
  engS false (fun t => { t with rags := [(0, ⟨{ dsc 1 with mrows := 2 }, 0, 0, 1, 1, 0, 0, false, rows, applied, out, ended, 0, false⟩)] })
    |>.updCtx 0 0 0 (fun x => { x with vc := [(1, ⟨some 1, false, true, [k]⟩)] })
/-- The head of the binding's channel. -/
def ragOk (s : State) (P : Rag → Tok → Bool) : Bool := s.liveAt 0 && ((s.tile 0).triad.bank 0).state != 2 && (s.ragHead 0 0).any (fun x => P x.1 x.2)
theorem wit_ContractionAndRaggedSteps :
    eng (engS false (fun t => { t with runs := [runT 4 4] })) (fun t => t.runs.all (fun r => r.rag == none && !(dsc 4).stream && (dsc 4).total ≤ r.j)) = true ∧
    ([0, 1].all (fun j => eng (engS false (fun t => { t with runs := [{ Run.new (qe 1 (.drain 0)) false with j := j }] } |>.setBank 0 (fun k =>
        { k with state := 1, epi := some (dsc 4, 0, 0) })))
      (fun t => (t.bank 0).epi.any (fun x => x.1.e 17 17 != 1 && x.1.e 28 28 == 0 && (x.1.group j == []) == (j == 1) && (j == 1 || (x.1.group j)[0]? == some (0, 0)))))) = true ∧
    ([SeqOp.zero 0, .scl 0 2].all (fun op => eng (engS false (fun t => { t with runs := [Run.new (qe 1 op) false] })) (fun t => t.runs.all (fun r => r.rag == none)))) = true ∧
    (let s := arcS false [⟨2, sT 0, 1, 0⟩] (fun s => (s.updTriad 0 (fun t => { t with out := [(0, 0, 1, sT 5)] })).updCtx 0 0 0 (fun x =>
        { x with vc := [(1, ⟨some 0, true, false, []⟩)] }))
     reg0 s (fun q => q.live && (s.tile 0).intake && (NMap.find q.arcs 0).any (fun x => s.room q x && !s.shut 0 x) && ((s.ctx 0 0 0).chan 1).arc == some 0)) = true ∧
    (let s := reqS (.ctx 0 0 0) (.tacc 0 31 31) id same; reqIs s (fun r => s.reqLive r && decide (r.phase = .wait))) = true ∧
    ragOk (ragS [(0, 0)] 0 0 false (sT 5)) (fun r k => decide (k.kind = .scalar) && k.thread == r.thread && !r.ended && r.rows.length < r.d.mrows) = true ∧
    ragOk (ragS [] 0 0 false (Tok.scalar 2 0 5)) (fun r k => k.thread != r.thread) = true ∧
    ragOk (ragS [(0, 0)] 0 0 false { sT 0 with kind := .ctl }) (fun r k => decide (k.kind = .ctl) && k.thread == r.thread && !r.ended && r.rows != []) = true ∧
    ragOk (ragS [] 0 0 false { sT 0 with kind := .ctl }) (fun r k => decide (k.kind = .ctl) && k.thread == r.thread && !r.ended) = true ∧
    ragOk (ragS [(0, 0), (8, 1)] 1 0 false (sT 5)) (fun r _ => r.d.bank == 0 && r.applied < r.rows.length) = true ∧
    (let s := ragS [(0, 0)] 1 0 true (sT 5)
     ragOk s (fun r _ => r.ended && r.rows.length ≤ r.applied && r.d.e 17 17 != 1 && r.out < r.rows.length * r.d.ncols && r.d.e 28 28 == 0 && (s.tile 0).intake &&
      (s.regOf 0).any (fun x => (r.d.rowAt x.2 0).2))) = true ∧
    ragOk (ragS [(0, 0)] 1 1 true (sT 5)) (fun r _ => r.ended && r.rows.length ≤ r.applied && r.out == r.rows.length * r.d.ncols) = true := by decide +kernel

/-- A load or an `xlt` of context 0 at a virtual address, under the tables of `imgMem` with a leaf. -/
def walkS (leaf : Nat) (op : ReqOp) : State :=
  reqS (.ctx 0 0 0) op (fun r => { one (.virt 0x8000) 1 8 r with ea := 0x8000 }) (fun s => { s.updReg 0 (fun r => { r with root := 0x1000 }) with
    mem := (imgMem leaf 0 0).foldl (fun m (x : Nat × List Nat) => Memory.writeBytes m x.1 (bytesOfWords (x.2.map (BitVec.ofNat 64)))) s.mem })
/-- The node of tile 0 serves the request, and its walk ends so. -/
def walks (s : State) (P : Req → Tr → State → Bool) : Bool :=
  reqIs s (fun r => r.who.tile == some 0 && r.nextVa == some 0x8000 && r.unwalked && s.nodeFree 0 r && !r.op.isFill &&
    (let q := s.translate 0 r.tenant (s.rootOf r.inst) 0x8000 r.op.needs.1 s.ev.flag; P r q.1 q.2))
theorem wit_TranslationSteps :
    walks (walkS 0x193 .load) (fun r q s1 => match q with
      | .ok l => !r.acq && l.kind != 3 && r.op.needs.2 == 0 && s1.paOk (l.pa 0x8000) l.key | _ => false) = true ∧
    walks (walkS 0x193 (.xlt 3 1)) (fun _ q _ => match q with | .ok _ => true | _ => false) = true ∧
    walks (walkS 0x195 .load) (fun _ q _ => match q with | .denied => true | _ => false) = true ∧
    walks (walkS 0x195 (.xlt 3 1)) (fun _ q _ => match q with | .denied => true | _ => false) = true ∧
    walks (walkS 0 .store) (fun r q s1 => match q with | .fault l w e => (s1.pageFault r.inst r.tenant 0 (s1.roleOf r.who) 1 0x8000 l w e).isSome | _ => false) = true ∧
    (let s := evS EvArg.none (fun s => { s.updReg 0 (fun r => { r with held := [(0, 5, 0)], flim := 20 }) with now := 2 ^ 20 })
     reg0 s (fun p => decide (p.st = .running) && p.held.any (fun h => 2 ^ p.flim ≤ s.now - h.2.2))) = true ∧
    (let s := evS { EvArg.none with id := 5 } (fun s => { s with faults := [⟨5, 0, 8, 0⟩] })
     s.hallUp && s.faults.any (fun f => f.tenant == s.entTenant s.ev.arc && f.id == s.ev.id % 65536)) = true ∧
    (let s := evS EvArg.none (fun s => { s with shooting := [⟨⟨1, 0, 0, 0⟩, false, [], []⟩] }); s.hallUp && s.shooting.all (fun k => !k.byHub)) = true ∧
    (let s := evS { EvArg.none with id := 1 } (fun s => { s with shooting := [⟨⟨1, 0, 0, 0⟩, false, [0], []⟩] })
     (s.shooting.find? (fun x => x.sd.num == s.ev.id && x.wait.contains 0)).isSome) = true ∧
    (let s := reqS (.ctx 0 0 0) (.xinv 1) id (fun s => { s with shooting := [⟨⟨1, 0, 0, 0⟩, false, [], []⟩] })
     s.shooting.all (fun k => k.wait == [] && k.reqs == []) && (s.reqs.find? (fun y => y.op == .xinv 1)).isSome) = true ∧
    (let s := evS EvArg.none (fun s => { s with migs := [(0, [(0, ⟨0x8000, 0x10000, 128, 64, false⟩)])] })
     (NMap.find (NMap.get s.migs s.ev.e []) s.ev.c).any (fun m => !m.done && s.vaults.all (fun v => v.2.cmbs == []) &&
       (s.vault (homeOf (m.old + m.pos))).pool == [] && m.len ≤ m.pos + 64)) = true := by decide +kernel

/-- A record of a level. -/
def qrc (h level : Nat) (w2 : Nat) : QRec := ⟨h, h, h, [0x4000, 0, BitVec.ofNat 64 w2, 0, 0, 0, 0, 0], 0, true, h, level, 0, 0, false, none, none⟩
/-- A region in a state, beside four checkpoint slots. -/
def preS (st : RegSt) (x : Nat) (u : State → State) : State :=
  evS { EvArg.none with x := x } (fun s => u { s.updReg 0 (fun r => { r with st := st }) with
    hub := [(0x20020, 0x100000), (0x20028, 4)], ready0 := BitVec.allOnes _, ready1 := BitVec.allOnes _ })
/-- A record at the head of stream 2, the distributor on, tenant 0 entered. -/
def popS (w2 : Nat) : State :=
  evS EvArg.none (fun s => { s with
    hub := [(0x88, 1), (0x20000, 1), (0x30000, 1), (0x50000, BitVec.ofNat 64 (2 ^ 16 + 2 * 2 ^ 19))], streams := [(2, ⟨[qrc 3 4 w2], 4⟩)], ready0 := BitVec.allOnes _ })
/-- The record that the distributor takes, and where it goes. -/
def pops (s : State) (w : PopTo) : Bool :=
  s.hubWord 0x20000 &&& 1 == 1 && !s.placing && (([7, 6, 5, 4, 3, 2, 1, 0].flatMap s.heads).find? (fun x => decide (s.popTo x.2 ≠ .waits))).any
    (fun x => decide (s.popTo x.2 = w))
theorem wit_PreemptionAndDistributionSteps :
    (let s := preS .running 3 (fun s => { s with streams := [(2, ⟨[qrc 3 4 0], 4⟩)] })
     reg0 s (fun r => s.streams.any (fun x => x.2.recs.any (fun y => y.ready && r.prio < y.level)))) = true ∧
    (let s := preS (.stopping 3) 0 same; reg0 s (fun r => !s.regHalted r && r.tiles.length ≤ s.slotsFree.length)) = true ∧
    (let s := preS (.settling 3) 0 same; reg0 s (fun r => !s.regHalted r && r.tiles.length ≤ s.slotsFree.length && s.settled 0 r)) = true ∧
    (let s := preS (.preempted 3) 0 (fun s => { s.updReg 0 (fun r => { r with prio := 4, qrec := some (2, qrc 3 4 0) }) with
        hub := [(0x50000, BitVec.ofNat 64 (2 ^ 16))] })
     (s.entryOf (recTenant (qrc 9 4 0).words)).isSome && s.behind (qrc 9 4 0) && !s.behind (qrc 2 4 0)) = true ∧
    (let s := preS (.settling 3) 0 (fun s => s.updReg 0 (fun r => { r with wires := [(0, [⟨0, sT 0, 1, 0⟩])] })); reg0 s (fun r => !s.settled 0 r)) = true ∧
    (let s := preS (.preempted 3) 0 (fun s => (s.updReg 0 (fun r => { r with slots := [⟨0, 0, 0⟩] })).updTile 0 (fun t => { t with inst := none }))
     reg0 s (fun r => r.resumable && r.tiles == [0] && s.tileFree 0 && s.awake r && s.bad == [] && s.vaults.all (fun v => v.2.answers == []))) = true ∧
    pops (popS 0) .loader = true ∧
    pops (popS 0x80000) .crier = true ∧
    ((evS EvArg.none same).hubWord 0x20000 &&& 1 == 0) = true ∧
    (let s := evS { EvArg.none with e := 5, x := 1 } same; NMap.get s.islands s.ev.e 0 == 0 && s.mayGate s.ev.e) = true ∧
    (let s := evS { EvArg.none with e := 5 } (fun s => { s with islands := [(5, 3)] }); NMap.get s.islands s.ev.e 0 == 3) = true := by decide +kernel

/-- A memory whose words from `a` on are the free ones and whose bytes below are zero. -/
theorem exists_slotMem (a n : Nat) : ∃ m : Memory, (∀ k, k < n → Memory.readN m (a + 8 * k) 8 = (Config.freeWord k).toNat) ∧ ∀ b, b < a → Memory.get m b = 0 := by
  induction n with
  | zero => exact ⟨[], fun k h => absurd h (Nat.not_lt_zero k), fun _ _ => rfl⟩
  | succ n ih =>
    obtain ⟨m, h1, h2⟩ := ih
    refine ⟨Memory.writeN m (a + 8 * n) 8 (Config.freeWord n).toNat, fun k hk => ?_, fun b hb => ?_⟩
    · by_cases e : k = n
      · subst e; rw [Memory.readN_writeN]; exact Nat.mod_eq_of_lt (Config.freeWord k).isLt
      · rw [Memory.readN_congr _ _ (fun j h1 h2 => Memory.get_writeN_other _ _ _ _ _ (.inl (by omega)))]
        exact h1 k (by omega)
    · rw [Memory.get_writeN_other _ _ _ _ _ (.inl (by omega)), h2 b hb]
/-- A region pre-empted into slot 0, and what is kept for it beside the memory. -/
def resS (m : Memory) : State :=
  { preS (.preempted 3) 0 (fun s => (s.updReg 0 (fun r => { r with slots := [⟨0, 0, 0⟩] })).updTile 0 (fun t => { t with inst := none })) with
    mem := m, ckpts := [(0, Tile.reset)] }
theorem resS_internal {m : Memory} (w : ∀ k, k < internalWords → Memory.readN m (0x20B000 + 8 * k) 8 = (Config.freeWord k).toNat) :
    (resS m).internal 0x100000 = Tile.reset := by
  have hc : (resS m).ckpts = [(0, Tile.reset)] := rfl
  have h : (List.range internalWords).all (fun k => (resS m).readPa (0x100000 + 0x10B000 + 8 * k) 8 == (Config.freeWord (0 + k)).toNat) = true := by
    rw [List.all_eq_true]
    intro k hk
    rw [beq_iff_eq, Nat.zero_add]
    exact w k (List.mem_range.mp hk)
  unfold State.internal
  rw [hc]
  simp only [List.find?, h]
theorem resS_zero {m : Memory} (z : ∀ b, b < 0x20B000 → Memory.get m b = 0) (pa n : Nat) (h : pa + n ≤ 0x20B000) : ∀ b ∈ (resS m).paBytes pa n, b = 0 := by
  intro b hb
  obtain ⟨k, hk, rfl⟩ := List.mem_map.mp hb
  have := List.mem_range.mp hk
  exact z _ (show pa + k < 0x20B000 by omega)
theorem word64_zero (l : List Byte) (h : ∀ b ∈ l, b = 0) (off : Nat) : word64 l off = 0 := by
  have z : ∀ l : List Byte, (∀ b ∈ l, b = 0) → natOfBytes l = 0 := by
    intro l; induction l with
    | nil => intro _; rfl
    | cons b r ih => intro h; rw [natOfBytes, ih (fun b hb => h b (.tail _ hb)), h b (.head _)]; rfl
  rw [word64, fieldN, z _ (fun b hb => h b (List.mem_of_mem_drop (List.mem_of_mem_take hb)))]; rfl
theorem restored_zero (x : Elem) (h : x.planes = []) (role apl : Nat) (b l : List Byte) (hb : ∀ y ∈ b, y = 0) : (x.restored role apl b l).planes = [] := by
  show List.filterMap _ _ = []
  rw [List.filterMap_eq_nil_iff]
  intro k _
  have e : word64 ((b.drop (1024 * k)).take 1024) 0x300 = 0 := word64_zero _ (fun y hy => hb y (List.mem_of_mem_drop (List.mem_of_mem_take hy))) _
  simp only [h, e, NMap.find_nil, Option.isNone_none, and_self, if_true]
theorem resS_planes {m : Memory} (w : ∀ k, k < internalWords → Memory.readN m (0x20B000 + 8 * k) 8 = (Config.freeWord k).toNat)
    (z : ∀ b, b < 0x20B000 → Memory.get m b = 0) (e : Nat) : (((resS m).ckptTile 0x100000).elem e).planes = [] := by
  have step : ∀ (l : List Nat) (f : Nat → Nat) (x : Nat → Elem), (∀ k ∈ l, (x k).planes = []) → ∀ m : NMap Elem,
      (∀ j, (NMap.get m j Elem.reset).planes = []) →
      (NMap.get (l.foldl (fun m k => if x k = Elem.reset then m else NMap.set m (f k) (x k)) m) e Elem.reset).planes = [] := by
    intro l f x
    induction l with
    | nil => intro _ m h; exact h e
    | cons k l ih =>
      intro hx m h
      refine ih (fun k hk => hx k (.tail _ hk)) _ (fun j => ?_)
      dsimp only
      split
      · exact h j
      · rw [NMap.get_set]; split
        · exact hx k (.head _)
        · exact h j
  unfold State.ckptTile Tile.elem
  rw [resS_internal w]
  dsimp only
  refine step (List.range 28) _ _ (fun k hk => ?_) _ (fun j => rfl)
  have hk := List.mem_range.mp hk
  refine restored_zero _ ?_ _ _ _ _ (resS_zero z _ _ (by omega))
  exact NMap.get_nil _ _ ▸ (rfl : Elem.reset.planes = [])
/-- Such a memory for slot 0. -/
noncomputable def slotMem : Memory := Classical.choose (exists_slotMem 0x20B000 internalWords)
theorem wit_Resume : let m := slotMem
    reg0 (resS m) (fun r => r.resumable && r.tiles == [0] && (resS m).tileFree 0 && (resS m).awake r && r.slots == [⟨0, 0, 0⟩] &&
      (resS m).vaults.all (fun v => v.2.answers == [])) = true ∧ (∀ r, (resS m).slotBad r = none) ∧ (resS m).ckptFails ((resS m).slotAt 0) ((resS m).ckptTile ((resS m).slotAt 0)) = none := by
  intro m
  have h := Classical.choose_spec (exists_slotMem 0x20B000 internalWords)
  have w : ∀ k, k < internalWords → Memory.readN m (0x20B000 + 8 * k) 8 = (Config.freeWord k).toNat := h.1
  have z : ∀ b, b < 0x20B000 → Memory.get m b = 0 := h.2
  refine ⟨by decide +kernel, fun r => ?_, ?_⟩
  · unfold State.slotBad
    rw [List.findSome?_eq_none_iff]
    intro k _
    have : (resS m).rangeBad ((resS m).slotAt k.slot) 0x240000 = false := by
      unfold State.rangeBad
      rw [List.any_eq_false]
      intro j _
      have : (resS m).badBlock (.phys ((resS m).slotAt k.slot / 64 * 64 + 64 * j)) = false := rfl
      simp [this]
    simp only [this, Bool.false_eq_true, if_false]
  · rw [show (resS slotMem).slotAt 0 = 0x100000 by decide +kernel]
    unfold State.ckptFails
    rw [List.findSome?_eq_none_iff]
    intro n _
    simp only [resS_planes w z, NMap.find_nil, Option.isNone_none, if_true]

/-- A tender, its bids kept and awarded as given. -/
def tnd (st tried : Nat) (ann closed : Bool) (bids : List (Nat × Nat)) : Tend :=
  ⟨0, 0, 2, qrc 3 4 0x80000, 0, st, ann, bids.map (fun b => ⟨b.1, b.2, 0, 0, 0, 0, 0⟩), closed, tried, 0, 0, 0⟩
/-- The tender, beside its region in a state. -/
def tndS (t : Tend) (st : RegSt) : State := evS EvArg.none (fun s => { s.updReg 0 (fun r => { r with st := st, tender := some 0, recd := [0x4000] }) with tends := [t] })
theorem wit_TenderSteps :
    ((tndS (tnd 1 0 false false []) .running).tends.any (fun x => x.pending && !x.announced)) = true ∧
    (let s := tndS (tnd 1 0 true false [(5, 1), (6, 2)]) .running
     (s.tendOf 0).any (fun t => t.announced && !t.closed && t.tried == 0 && t.st == 1 && (t.bids.filter (fun b => s.ev.body.getD b.tile 0 == 0)).take 4 != [])) = true ∧
    (let s := tndS (tnd 2 1 true true [(5, 1), (6, 2)]) .loaded
     (s.tendOf 0).any (fun t => t.st == 2) && (s.awarded 0).any (fun x => decide (x.2.st = .loaded) && s.awake x.2 && NMap.find s.regions x.1 == some x.2)) = true ∧
    (let s := let s := tndS (tnd 2 1 true true [(5, 1), (6, 2)]) .popped
              { s.updReg 0 (fun r => { r with root := 0x1000 }) with mem := (imgMem 0x199 0 0).foldl (fun m (x : Nat × List Nat) =>
                  Memory.writeBytes m x.1 (bytesOfWords (x.2.map (BitVec.ofNat 64)))) s.mem }
     (s.tendOf 0).any (fun t => t.st == 2 && t.bids[t.tried]? == some ⟨6, 2, 0, 0, 0, 0, 0⟩ && (s.awarded 0).any (fun x => decide (x.2.st = .popped) && (s.awardFails t x.2).1))) = true := by
  decide +kernel

/-- The hub with the registers given. -/
def hubS (a : EvArg) (l : NMap Word) (u : State → State) : State := evS a (fun s => u { s with hub := l })
/-- A record of tenant 0. -/
def rcd0 : List Word := [0x4000, 0, 0, 0, 0, 0, 0, 0]
theorem wit_HubSteps :
    ((hubS EvArg.none [] same).readRecord 0x1000).1.isSome = true ∧ ((hubS EvArg.none [] same).readRecord 0x1001).1.isNone = true ∧
    recReserved [0x100000000000000, 0, 0, 0, 0, 0, 0, 0] = true ∧
    (let s := hubS EvArg.none [(0x50000, 0x10000)] same
     !recReserved rcd0 && recTenant rcd0 == s.entTenant 0 && s.entValid 0 && (s.stream 2).recs.length < s.ringSize 2 && s.hartUp 0 && (s.stream 2).recs.all (fun y => y.entry != (s.stream 2).next % 2 ^ 24 % s.ringSize 2)) = true ∧
    (let s := hubS EvArg.none [(0x50000, 0x10000)] (fun s => { s with streams := [(2, ⟨List.replicate 64 (qrc 3 4 0), 64⟩)] })
     !recReserved rcd0 && s.ringSize 2 ≤ (s.stream 2).recs.length) = true ∧
    ([0, 64].all (fun used => let s := hubS EvArg.none [(0x40000, 0x100000000001000)] (fun s => { s with compBuf := [(0, rcd0, none)], prod := [(0, used)] })
      bitsOf (s.hubWord 0x40000) 57 56 == 1 && s.migs == [] && NMap.get s.prod 0 0 == used && s.compBuf.any (fun x => x.2.1.length == 8) &&
        s.regions.all (fun x => match x.2.st with | .ending _ => false | _ => true))) = true ∧
    State.reset.hartUp 0 = false ∧ State.reset.hallUp = false ∧ (hubS EvArg.none [] same).hallUp = true ∧
    ((hubS { EvArg.none with flag := true, body := List.replicate 64 0 } [] same).ruleFor 0 0).isNone = true ∧
    (let s := { hubS EvArg.none [] same with regions := [] }; s.hallUp && s.hubWord 0x20000 &&& 1 == 0 && s.migs == []) = true ∧
    (hubS EvArg.none [(0x20000, 1)] same).hubWord 0x20000 &&& 1 = 1 ∧
    (let s := hubS { EvArg.none with w0 := 0x8000000000000000 } [] same; s.hallUp && !s.ev.flag && !s.dbgBusy && s.ev.w0.getLsbD 63) = true := by decide +kernel

/-- Port 0, changed. -/
def portS (a : EvArg) (f : Link → Link) (l : NMap Word) : State := hubS a l (fun s => { s with links := [(0, f Link.reset)] })
theorem wit_PackageSteps :
    (portS EvArg.none id []).hubWord 0x70000 &&& 0xFF = 0 ∧ (portS EvArg.none id [(0x70000, 3)]).hubWord 0x70000 &&& 0xFF ≠ 0 ∧
    (let s := portS { EvArg.none with x := 4, flag := true } (fun l => { l with rdy := true }) [(0x70000, 3)]
     (NMap.get s.links 0 Link.reset).rdy && s.hubWord 0x70000 &&& 0xFF != 0 && s.ev.x % 256 != 0) = true ∧
    (let s := portS EvArg.none (fun l => { l with rdy := true, win := 15 }) []
     (NMap.get s.links 0 Link.reset).rdy && NMap.get s.errWin (linkUnit 0) 0 == s.ownCycles (linkUnit 0) / 2 ^ 30 &&
       (NMap.get s.links 0 Link.reset).win + 1 ≤ NMap.get s.policy (linkUnit 0) 16) = true ∧
    (let s := portS { EvArg.none with c := 12, w0 := 0x1000, flag := true } (fun l => { l with rdy := true, up := true, peer := 4 }) [(0x70000, 3)]
     (NMap.get s.links 0 Link.reset).carries && decide (s.ev.w0.toNat < 2 ^ 44) && s.ev.w0.toNat % 8 == 0 && s.reachable (redirect s.migs s.ev.w0.toNat)) = true ∧
    (let s := portS { EvArg.none with flag := true } (fun l => { l with rdy := true }) []
     (NMap.get s.links 0 Link.reset).rdy && (peerOp s.ev.c s.ev.w1 s.ev.w2).isNone && !(NMap.get s.links 0 Link.reset).carries) = true ∧
    (let s := portS EvArg.none (fun l => { l with rdy := true, win := 16 }) []
     NMap.get s.policy (linkUnit 0) 16 < (NMap.get s.links 0 Link.reset).win + 1 && NMap.get s.errWin (linkUnit 0) 0 == s.ownCycles (linkUnit 0) / 2 ^ 30 && s.regions.all (fun q => q.2.links == [])) = true ∧
    (let s := portS { EvArg.none with flag := true } (fun l => { l with down := true }) []; (NMap.get s.links 0 Link.reset).down && s.ev.flag && s.hallUp) = true ∧
    ([0, linkUnit 0 - 1, linkUnit 0, linkUnit 15].all (fun k => ([0, 1].all (fun n => let s := { portS { EvArg.none with id := k } id [] with errWin := [(k, n)] }
      decide (NMap.get s.errWin s.ev.id 0 = s.ownCycles s.ev.id / 2 ^ 30) == (n == 0) && (k == linkUnit 15 || k < linkUnit 0 || (NMap.find s.links 0).isSome))))) = true ∧
    ([0, 1].all (fun n => let s := portS { EvArg.none with temp := 100 } id [(0x82100, 0x16450)] |>.updTile 0 (fun t => { t with tempAt := n })
      (s.hubWord 0x82100).getLsbD 16 && (s.hubWord 0x82100).toNat / 256 % 256 == 100 && (decide ((s.tile 0).tempAt = s.acCycles 0 / 65536) == (n == 0)))) = true ∧
    ([0, 1].all (fun n => let s := { portS EvArg.none id [] with wattsAt := n }; decide (s.wattsAt = s.cycles 1006 / 2 ^ 20) == (n == 0))) = true ∧
    ([0, 1, 2, 17, 18, 37, 38, 53, 54, 56, 64, 127].all (fun e => let s := portS { EvArg.none with e := e } id []
      !s.dead.contains s.ev.e && s.ready0.getLsbD 1 && !State.reset.ready0.getLsbD 1 && !(NMap.get s.links 0 Link.reset).down)) = true ∧
    (let s := hubS EvArg.none [] (fun s => { s with repBusy := true, repAddr := 0x1000 })
     s.repBusy && s.migs == [] && s.reachable (bitsOf s.repAddr 51 6 * 64) && s.reachable (bitsOf s.repAddr 51 6 * 64 + 8207)) = true ∧
    (hubS EvArg.none [] same).repBusy = false ∧ ((0x8000000000000001 : Word).getLsbD 63 = true ∧ (1 : Word).getLsbD 63 = false) ∧
    ([[], [(1, List.replicate 8 (0 : Word))], [(1, List.replicate 8 (5 : Word))]].all (fun l =>
      let s := hubS { EvArg.none with w0 := 0x8000000000000001 } [] (fun s => { s with keys := l, keyed := [(0x100, List.replicate 8 5)] })
      let key := [s.hubWord 0x80500, s.hubWord 0x80508, s.hubWord 0x80510, s.hubWord 0x80518, s.hubWord 0x80520, s.hubWord 0x80528, s.hubWord 0x80530, s.hubWord 0x80538]
      s.hallUp && s.ev.w0.toNat % 1024 == 1 && !s.midAccess 1 && key.length == 8)) = true := by
  decide +kernel

/-! Witnesses: the parts of the statements about events. -/

theorem wit_MachineCheck :
    (let s := evS EvArg.none same
     (s.tile 0).inst == some 0 && reg0 s (fun r => r.live && !s.lastDone r && s.compBuf.length < 4096) &&
      reg0 (s.updReg 0 (fun r => { r with recd := [0, 0, 0, 0, 0x100] })) (fun r => r.recorded) && (2 : Nat) != 3) = true ∧
    (let s := evS EvArg.none (fun s => s.updTile 0 (fun t => { t with inst := none, lastInst := some 0 }))
     (s.tile 0).inst == none && (s.tile 0).lastInst == some 0) = true ∧
    (let s := evS EvArg.none (fun s => (List.range 4).foldl (fun s p => (List.range 4).foldl (fun s c => s.updCtx 0 p c (fun x => { x with status := .ended })) s) s)
     reg0 s (fun r => s.lastDone r)) = true := by decide +kernel
theorem wit_SwapStep :
    ([0, 1, 2].all (fun k => let s := evS EvArg.none (fun s => s.updElem 0 4 (fun x => { x with nrdy := k == 0, npnd := k == 1 }))
      (s.elem 0 4).nrdy == (k == 0) && (s.elem 0 4).npnd == (k == 1))) = true ∧
    (let s := evS EvArg.none (fun s => s.updElem 0 4 (fun x => { x with halt := true }))
     (s.elem 0 4).halt && (List.range 32).any (fun k => 4 ≤ k && (s.tile 0).phys k == 4 && (0x10 : Word).getLsbD k)) = true := by decide +kernel
theorem wit_AccessCompletes_held :
    (let s := reqS (.ctx 0 0 0) .srd (fun r => { one (.phys 0x1000) 3 8 r with phase := .refused 0x2A 0x1000 })
        (fun s => (s.updVault 0 (fun v => { v with answers := [(0, 0)] })).updCtx 0 0 0 (fun x => { x with steward := false }))
     reqIs s (fun r => s.heldAnswer r.id && s.inTurn r && !(s.ctx 0 0 0).steward)) = true := by decide +kernel
/-- A combine of control word `cc`, rank-ordered or not, that finds an entry of control word `ec` at its address. -/
def cmbAt (fixed : Bool) (cc ec : Word) (seen : Nat) (vals : List Nat) (ranks : NMap (List Nat)) (d : Option Dest) : State :=
  let s := reqS (.elem 0 28) (.cmb fixed cc) (one (.phys 0x1000) 1 8) same
  { (s.updVault (homeOf 0x1000) (fun v => { v with cmbs := [⟨0, 0x1000, [0x1000], none, fixed, ec, 0, seen, vals, ranks, d⟩] })) with
    ev := { EvArg.none with e := homeOf 0x1000 } }
theorem wit_CombinesAndBarriersAtHome_last :
    (let cc : Word := 0x1000300; cmbOk (cmbAt false cc cc 2 [9] [] none) (fun _ v k => v.cmbQ == [] && k.any (fun k => k.seen + 1 == bitsOf cc 23 8 && !k.fixed &&
      ccKey k.cc == ccKey cc && k.lanes == 0 && k.lanesAt == [0x1000]) && bitOf cc 24)) = true ∧
    (let cc : Word := 0x20000340; cmbOk (cmbAt true cc cc 2 [] [(0, [1]), (1, [2])] (some ⟨.elem 0 28, 0, 28, 28, 0, 0, 0, 0, 1, none, true⟩)) (fun _ v k => v.cmbQ == [] &&
      k.any (fun k => k.seen + 1 == bitsOf cc 23 8 && k.dest.isSome && NMap.find k.ranks (bitsOf cc 31 28) == none && bitsOf cc 31 28 < bitsOf cc 23 8 &&
        NMap.set k.ranks (bitsOf cc 31 28) [5] == (List.range 3).map (fun i => (i, [[1], [2], [5]].getD i [])))) ) = true ∧
    cmbOk (cmbAt false 0x300 0x400 1 [9] [] none) (fun _ v k => v.cmbQ == [] && k.any (fun k => ccKey k.cc != ccKey 0x300)) = true ∧
    cmbOk (cmbAt true 0x30000340 0x340 1 [] [(0, [1])] none) (fun _ v k => v.cmbQ == [] && k.any (fun k => ccKey k.cc == ccKey 0x30000340 && k.lanes == 0 && k.fixed) &&
      bitsOf (0x30000340 : Word) 23 8 ≤ bitsOf (0x30000340 : Word) 31 28) = true ∧
    cmbOk (cmbAt true 0x340 0x340 1 [] [(0, [1])] none) (fun _ v k => v.cmbQ == [] && k.any (fun k => ccKey k.cc == ccKey 0x340 && (NMap.find k.ranks 0).isSome)) = true ∧
    barOk (barS (2 + 65536) (2 ^ 40 - 64)) (fun e a p => a + 1 == e && p + 64 == 0) = true := by decide +kernel
/-- A shuffle entry of one contributor and one receiver. -/
def pent (src : Nat) : PEnt := ⟨0, false, 1, [(1, src, 0)], [⟨vaultAddr 1, 0, 0, 0, 1, false⟩]⟩
theorem wit_Coding :
    (let s := shfS 1 1 same; s.bad == [] && s.ev.arc != 6 && (pent (vaultAddr 0)).cons.all (fun c => s.reachable (redirect s.migs c.2.1)) &&
      !s.reachable (redirect s.migs 0xC000000000)) = true ∧
    (let s := shfS 1 1 (fun s => s.updVault 1 (fun z => { z with holds := [⟨7, vaultAddr 1, 1⟩] }))
     let v : Rcv := ⟨vaultAddr 1, 0, 1, 0, 1, false⟩
     s.migs == [] && s.bad == [] && v.chip == 0 && v.dst % 64 == 0 && s.reachable v.pa && s.reachable (vaultAddr 0) && !s.barObject v.pa &&
      (s.vault (homeOf v.pa)).parties == [] && (s.vault v.at).holds.any (fun x => x.id == 7 && x.len == 1) && v.cancel.testBit 0) = true := by decide +kernel
theorem wit_CopySteps :
    copyIs { copyS (fun c => { c with mode := 2, map := some (2, 0, 5) }) same with ev := { EvArg.none with e := 1 } } (fun _ c => c.mode == 2 && c.map.isSome &&
      c.fetch == c.pos + c.got.length && c.fetch < c.total && !c.stuck) = true ∧
    (let s := { copyS (fun c => { c with mode := 2, table := ⟨0, 0, 0x200⟩, rows := 16 }) same with ev := { EvArg.none with e := 1 } }
     copyIs s (fun _ c => c.map == none && c.got == [] && c.fetch == c.pos && c.fetch % (16 * c.len) == 0 && (s.tile 0).bmc == [] &&
      (match s.endPlace c c.table 0 4 false with | .ok (pl, _) => !s.badBlock pl && (match pl with | .virt _ => false | _ => true) | .error _ => false))) = true ∧
    copyIs (copyS (fun c => { c with mode := 3, aux := 5 }) same) (fun _ c => c.mode == 3 && c.pos < c.total && !c.bv) = true ∧
    (let s := copyS (fun c => { c with dst := ⟨0, 0, 0x300⟩, got := List.replicate 8 (3, .spad 0 0x100, 0), fetch := 8 }) same
     copyIs s (fun r c => match s.reachEnd r 0 c c.dst 0 8 true with | (.at (.spad _ _) _ _, _) => true | _ => false)) = true := by decide +kernel
theorem wit_Sketch :
    (let s := skS .skClr 33
     reqIs s (fun r => (s.skAt r 0x1000).any (fun k => k.bytes ≤ r.room && k.d == 1) && s.migs == [] && s.bad == [] && s.keyed == [] && !s.barObject 0x1000)) = true ∧
    (let s := skS .skClr 0; reqIs s (fun r => s.skAt r 0x1000 == none)) = true ∧
    (parseSk (bytesOfWords [33, 1, 0, 0, 0, 0, 0, 0])).any (fun k => k.bytes ≤ 4096) = true ∧
    (let s := skS (.skMerge (.phys 0x1000) 4096 0x21 none []) 33; reqIs s (fun _ => (parseSk (s.keyBytes 0x1000 64 none)).any (fun j => j.bytes ≤ 4096))) = true ∧
    (val32 0x3F800000 ≠ .nan ∧ val32 0x7FC00000 = .nan ∧ val32 0xFF800000 = .inf true) := by decide +kernel
theorem wit_Arithmetic :
    ((⟨1, 0x5080⟩ : El).val = .fin false 1 2 ∧ (⟨1, 0x5080⟩ : El).scale = .fin false 8 8) ∧
    ([0, 1, 2].all (fun m => !({ dsc 4 with mode := m } : Desc).stream && ({ dsc 4 with mode := m } : Desc).ncols == 1)) = true ∧
    ([3, 4, 5].all (fun m => ({ dsc 4 with mode := m } : Desc).stream)) = true ∧ (dsc 4).cls ≠ 4 ∧ (dsc 4).intOnly = false := by decide +kernel
theorem wit_Epilogue :
    ((dsc 4).e 13 13 = 0 ∧ (dsc 4).e 14 14 = 0 ∧ (dsc 4).e 15 15 = 0 ∧ (dsc 4).e 10 8 ≠ 5 ∧ (dsc 4).e 28 28 = 0 ∧ 0 < fmtBits ((dsc 4).e 7 0)) ∧
    (match val32 0 with | .fin neg num den => !neg && num == 0 && den != 0 | _ => false) = true ∧ val32 0x3F800000 ≠ .nan ∧
    ((let d : Desc := { dsc 1 with tone := false, mrows := 1, ncols := 1, inner := 1 }
      let s := (engS false (fun t => { t with runs := [Run.new (qe 1 (.hold d)) false] })).updTile 0 (fun t => { t with spadBw := [(0, 0x5080), (1, 0x5080)] })
      eng s (fun t => t.runs.all (fun r => r.rag == none)) && s.stale == [] && s.bad == [] && d.t.space == 0 &&
        (s.slice 0 d.t (d.t.off : Int) d.tb (classOf d.cls).2.2).all (fun x => El.ok d.t.fam false x)) = true) := by decide +kernel
/-- Tables of five levels at 0x1000 to 0x5000, their last entry given, and a page entry at the third. -/
def tabS (l : List (Nat × Nat)) : State :=
  evS { EvArg.none with arc := 6 } (fun s => { s with mem := l.foldl (fun m x => Memory.writeBytes m x.1 (bytesOfWords [BitVec.ofNat 64 x.2])) s.mem })
/-- The entries down to level `n` are sound pointers to the next table, and the node at level `n` is reached. -/
def downTo (s : State) (n : Nat) : Bool :=
  s.bad == [] && (List.range (n - 1)).all (fun k => let e : Word := BitVec.ofNat 64 (s.readPa (0x1000 * (k + 1)) 8)
    s.reachable (redirect s.migs (0x1000 * (k + 1))) && e.getLsbD 0 && bitsOf e 3 1 == 0 && bitsOf e 63 52 == 0 && bitsOf e 11 4 == 0 && bitsOf e 51 12 == k + 2 &&
      s.mapped (0x1000 * (k + 2))) && s.reachable (redirect s.migs (0x1000 * n))
theorem wit_Walk :
    ([0, 0x3011, 0x199, 0x193, 0x8000000000000199, 0x119, 0x1199, 0x899, 0xC3].all (fun x => downTo (tabS [(0x1000, 0x2001), (0x2000, 0x3001), (0x3000, x)]) 3)) = true ∧
    ([0x6001, 0x6003].all (fun x => downTo (tabS [(0x1000, 0x2001), (0x2000, 0x3001), (0x3000, 0x4001), (0x4000, 0x5001), (0x5000, x)]) 5)) = true := by decide +kernel
theorem wit_ShootdownWindows : let s := evS { EvArg.none with id := 1 } (fun s => { (s.updElem 0 28 (fun x => { x with wins := [(0, win true true false 64 1)] })) with
      shooting := [⟨⟨1, 0, 0, 0⟩, false, [0], []⟩] })
    ((s.shooting.find? (fun x => x.sd.num == s.ev.id && x.wait.contains 0)).isSome && (NMap.find (s.elem 0 28).wins 0).isSome) = true := by decide +kernel
theorem wit_Checkpoint :
    (let s := preS (.settling 3) 0 (fun s => s.updReg 0 (fun r => { r with slots := [⟨0, 0, 0⟩] }))
     reg0 s (fun r => !s.regHalted r && s.settled 0 r && s.migs == [] && r.slots.all (fun k => s.nodeQueue k.tile ≤ 64))) = true := by decide +kernel
theorem wit_Withdrawal : (let s := tndS (tnd 2 1 true true [(5, 1), (6, 2)]) .running
    (s.tendOf 0).isSome && (s.awarded 0).any (fun x => decide (x.2.st ≠ .popped) && decide (x.2.st ≠ .writing))) = true := by decide +kernel
/-- A hub whose rule 0 sends the messages of port 0 to stream 2, of tenant entry 0. -/
def inS (l : NMap Word) (u : State → State) : State :=
  hubS { EvArg.none with flag := true, body := List.replicate 64 0 } ([(0x88, 2), (0x50000, 0x10000)] ++ l ++ [(0x60000, BitVec.ofNat 64 (2 ^ 48)), (0x60008, 0x2)]) u
/-- The record of such a message. -/
def inRec : List Word := [0, 0, 0, 0, 0x100, 0, 0, 0]
theorem wit_Intake :
    (let s := inS [] same
     s.ready0.getLsbD 54 && s.island 1004 == 0 && s.ruleFor 0 s.ev.x == some 0 && bitsOf (s.hubWord 0x60008) 7 0 == 2 && s.entTenant 0 == 0 && s.entValid 0 &&
      putBits (putBits (wordsOfBytes s.ev.body 8) 2 39 24 (s.entTenant 0)) 4 8 0 0x100 == inRec && !recReserved inRec && recTenant inRec == s.entTenant (bitsOf (s.streamWord 2 1) 23 16) &&
      bitOf (s.streamWord 2 1) 1 && (s.stream 2).recs.length < s.ringSize 2 &&
      s.reachable (redirect s.migs (bitsOf (s.streamWord 2 0) 51 6 * 64 + 64 * s.freeEntry 2 ((s.stream 2).next % 2 ^ 24)))) = true ∧
    ((inS [] (fun s => { s with ready0 := 0 })).ready0.getLsbD 54 = false ∧ (inS [] (fun s => { s with islands := [(1004, 1)] })).island 1004 = 1) ∧
    (let s := inS [] same; !bitOf (s.streamWord 2 1) 2 && !recReserved inRec && !(s.entValid 1)) = true ∧
    (let s := hubS { EvArg.none with w0 := 0xC000000000 } [] (fun s => { s with regions := [] })
     s.hallUp && !s.reachable (redirect s.migs (bitsOf s.ev.w0 51 6 * 64)) && s.reachable 0 && s.reachable 3071 && s.bad == [] && s.ev.arc != 6) = true ∧
    (let s := hubS { EvArg.none with x := 0x81000 } [] (fun s => { s with nodeSet := [(0x81000, 0, 1)] }); (NMap.find s.nodeSet s.ev.x).isSome && s.hallUp) = true := by decide +kernel
/-- A debug access in progress, of the words given, on a region that has dbg or not. -/
def dbgS (w off : Word) (dbg : Bool) (u : State → State) : State :=
  u (hubS { EvArg.none with flag := true } [(0x80200, w), (0x80208, off)] (fun s =>
    ({ s with dbgBusy := true }.updReg 0 (fun r => { r with dbg := dbg, root := 0x1000, vsize := 0x10000 })).updTile 0 (fun t => { t with lastInst := some 0 })))
/-- The fields of the debug access. -/
def dbgOk (s : State) (P : Word → Nat → Region → Bool) : Bool :=
  s.ev.flag && s.dbgBusy && ((s.tile 0).lastInst.bind (NMap.find s.regions)).any (fun r => P (s.hubWord 0x80200) (bitsOf (s.hubWord 0x80208) 55 0) r)
theorem wit_DebugAccess :
    dbgOk (dbgS 0x180 0 true same) (fun w _ _ => 48 ≤ bitsOf w 8 3) = true ∧
    ((dbgS 0 0 true (fun s => s.updTile 0 (fun t => { t with lastInst := none }))).tile 0).lastInst = none ∧
    dbgOk (dbgS 0 0 false same) (fun _ _ r => !r.dbg) = true ∧
    ([0, 0x40000].all (fun wr => dbgOk (dbgS (BitVec.ofNat 64 (0x32000 + wr)) 0x3FFF8 true same) (fun w off r => r.dbg && !w.getLsbD 19 && w.getLsbD 18 == (wr != 0) &&
      bitsOf w 15 12 == 2 && off + 2 ^ bitsOf w 17 16 == 0x40000))) = true ∧
    dbgOk (dbgS 0x32000 0x3FFF9 true same) (fun w off _ => bitsOf w 15 12 == 2 && 0x40000 < off + 2 ^ bitsOf w 17 16) = true ∧
    dbgOk (dbgS 0x3000 0x10000 true same) (fun w off r => bitsOf w 15 12 == 3 && r.vbase + r.vsize < off + 1) = true ∧
    (let s := dbgS 0x3000 0xFFFF true same; dbgOk s (fun w off r => bitsOf w 15 12 == 3 && off + 1 ≤ r.vbase + r.vsize && r.vkind != 3 &&
      s.paOk (vaultAddr (vaultOfTile 0) + off) 0 && s.bad == [] && s.ev.arc != 6)) = true ∧
    ([0x193, 0x793, 0x195, 0].all (fun leaf => let s := dbgS 0x4000 0x8000 true (fun s => { s with
        mem := (imgMem leaf 0 0).foldl (fun m (x : Nat × List Nat) => Memory.writeBytes m x.1 (bytesOfWords (x.2.map (BitVec.ofNat 64)))) s.mem })
      dbgOk s (fun w off r => bitsOf w 15 12 == 4 && (match s.translate 0 r.tenant r.root (off % 2 ^ 56) 1 false with
        | (.ok l, t) => (leaf == 0x193 && l.kind != 3 && t.paOk (l.pa off) l.key && t.bad == [] && t.ev.arc != 6) || (leaf == 0x793 && l.kind == 3)
        | (.denied, _) => leaf == 0x195 | (.fault _ _ _, _) => leaf == 0 | _ => false)))) = true ∧
    dbgOk (dbgS 0x5000 0 true same) (fun w _ _ => 4 < bitsOf w 15 12) = true ∧
    (let s := dbgS 0xB3000 0xFFF8 true (fun s => s.updReg 0 (fun r => { r with vkind := 3 }))
     dbgOk s (fun w off r => w.getLsbD 19 && !w.getLsbD 18 && bitsOf w 17 16 == 3 && bitsOf w 15 12 == 3 && off / 8 * 8 + 8 ≤ r.vbase + r.vsize && r.vkind == 3 &&
       s.paOk (vaultAddr (vaultOfTile 0) + off / 8 * 8) 0 && s.presence (redirect s.migs (vaultAddr (vaultOfTile 0) + off / 8 * 8)) != 3)) = true ∧
    (let s := { dbgS 0 0 true same with ev := EvArg.none }; !s.ev.flag && s.dbgBusy) = true := by decide +kernel
theorem wit_PortsAndKeys :
    (let s := { portS { EvArg.none with flag := true } (fun l => { l with rdy := true }) [] with islands := [(976, 1)] }
     (NMap.get s.links 0 Link.reset).rdy && s.island 976 == 1) = true ∧
    (let s := portS { EvArg.none with flag := true } (fun l => { l with rdy := true }) []; s.island 976 == 0 && s.ev.c != 22 && s.ev.g / 4 == 0) = true ∧
    (let s := reqS (.ctx 0 0 0) .load (fun r => { r with pieces := [{ Piece.mk1 (.phys 0x1000) 1 8 0 0 0 0 with key := some 1, done := true },
        { Piece.mk1 (.phys 0x1008) 1 8 0 0 1 0 with key := some 1 }] }) same
     s.midAccess 1) = true ∧
    (let s := hubS EvArg.none [] (fun s => { s with keys := [(1, List.replicate 8 0)], keyed := [(0x100, List.replicate 8 5), (0x101, List.replicate 8 0)] })
     (NMap.find s.keys 1).isSome && NMap.find s.keyed (0x1000 / 16) != NMap.find s.keys 1 && NMap.find s.keyed (0x1010 / 16) == NMap.find s.keys 1 &&
      NMap.find s.keyed (0x1020 / 16) == none && (0x1000 : Nat) < vaultBase) = true := by decide +kernel

/-- One turn of task processor 0 comes next. -/
def turnFirst : State := { task false (.iAdd ⟨1, 2, 5, 28, 0⟩) 0 id with agenda := [.turn 0 0] }
/-- An event comes next. -/
def eventFirst : State := { State.reset with stewBusy := true, agenda := [.event .eStewardLoadDone EvArg.none] }
theorem wit_StepRunsDecoded :
    (let s := (fire 4 (.iAdd ⟨0, 1, 0, 28, 0⟩) 0 [(0, sT 1), (1, sT 2)] 1 id id).passTime
     s.begun == some (0, 4) && (s.elem 0 4).cur.any (fun r => match decodeWord r.word with | .ok _ => true | .error _ => false)) = true ∧
    (let s := turnFirst.passTime
     let t := s.setAgenda []
     s.begun == none && s.agenda == [.turn 0 0] && (Act.turn 0 0).wf && t.liveAt 0 && nextCtx (t.tp 0 0) == some 0 && (t.ctx 0 0 0).held == [] &&
       !brkHits (NMap.get (t.tile 0).amatch 0 0) (t.ctx 0 0 0) && (match decodeWord (t.wordAt 0 0 (t.ctx 0 0 0)) with | .ok _ => true | .error _ => false)) = true ∧
    (let s := eventFirst.passTime
     s.begun == none && s.agenda != [] && s.agenda.all (fun a => a.wf) && Instr.eStewardLoadDone.enc == none) = true := by decide +kernel
theorem wit_DecodeOfEncode : (Instr.iAdd ⟨1, 31, 29, 30, 7⟩).enc.isSome = true ∧ (Instr.iAdd ⟨1, 31, 29, 30, 7⟩).wf = true := by decide
theorem wit_EncodeOfDecode : decodeWord 0x00E739C0 = .ok (.iNop ⟨28, 28, 28, 28, 0⟩) ∧ decodeWord 0xEF000000 = .error .reservedOpcode := by decide
theorem wit_ResultFrame :
    let s := task false (.iMov ⟨1, 28, 25, 28, 0⟩) 0 (fun x => { x with vc := [(1, ⟨some 0, true, false, []⟩)] })
    ((s.tile 0).inst == some 0 && (NMap.find s.regions 0).isSome && ((s.ctx 0 0 0).chan 1).arc == some 0 && (25 : Nat) == 24 + 1) = true := by decide +kernel
theorem wit_MemoryCanonicalKept : Memory.wf eventFirst.mem = true ∧ (match step eventFirst with | .next s => !s.stewBusy | _ => false) = true := by decide +kernel

end Sys2Proof.Tests
end

section
namespace Sys2Proof.Machine
open State

/-! The region records after progress, and the frame of a step on one context. -/

/-- Progress on a tile starts the watchdog of its region again, and changes no other region record (R41). -/
theorem find_progressAt (s : State) (g j : Nat) :
    NMap.find (s.progressAt g).regions j =
      if (s.tile g).inst = some j then (NMap.find s.regions j).map (fun r => { r with wdg := 0 }) else NMap.find s.regions j := by
  unfold State.progressAt State.progress
  cases hi : (s.tile g).inst with
  | none => simp
  | some i =>
    simp only [find_updReg, Option.some.injEq]
    split
    · next h => subst h; rfl
    · rfl

@[simp] theorem tp_progressAt (s : State) (g h p : Nat) : (s.progressAt g).tp h p = s.tp h p := by simp [State.tp]

/-- An update of one processor changes no other component of its tile. -/
theorem tile_updTp_same (s : State) (g p : Nat) (f : Tp → Tp) :
    (s.updTp g p f).tile g = { s.tile g with tps := ((s.updTp g p f).tile g).tps } := by
  unfold State.updTp; rw [tile_updTile_same]

@[simp] theorem last_updCtx (s : State) (g p c : Nat) (f : Ctx → Ctx) (h q : Nat) : ((s.updCtx g p c f).tp h q).last = (s.tp h q).last := by
  unfold State.updCtx
  by_cases hq : g = h ∧ p = q
  · obtain ⟨rfl, rfl⟩ := hq; simp
  · rw [tp_updTp_other _ _ (by omega)]

theorem onlyCtx_trans {s s' s'' : State} {g p c : Nat} (h : Claims.onlyCtx s s' g p c) (h' : Claims.onlyCtx s' s'' g p c) :
    Claims.onlyCtx s s'' g p c := by
  obtain ⟨a1, a2, a3, a4, a5, a6⟩ := h
  obtain ⟨b1, b2, b3, b4, b5, b6⟩ := h'
  refine ⟨?_, fun k hk => (b2 k hk).trans (a2 k hk), ?_, fun k hk => (b4 k hk).trans (a4 k hk), ?_, fun k hk => (b6 k hk).trans (a6 k hk)⟩
  · rw [← b1] at a1; exact a1
  · rw [← b3] at a3; exact a3
  · rw [← b5] at a5; exact a5

/-- An update of a processor that keeps its stores, tags and other contexts meets the frame of a context. -/
theorem onlyCtx_updTp (s : State) {g p c : Nat} {f : Tp → Tp}
    (hf : { f (s.tp g p) with ctxs := (s.tp g p).ctxs, last := (s.tp g p).last } = s.tp g p)
    (hc : ∀ k, k ≠ c → (f (s.tp g p)).ctx k = (s.tp g p).ctx k) : Claims.onlyCtx s (s.updTp g p f) g p c := by
  refine ⟨rfl, fun k hk => tile_updTile_other _ _ (Ne.symm hk), ?_, fun k hk => tp_updTp_other _ _ (.inr (Ne.symm hk)), ?_, ?_⟩
  · rw [tile_updTp_same]
  · rw [tp_updTp_same]; exact hf
  · intro k hk; simp only [State.ctx, tp_updTp_same]; exact hc k hk

theorem onlyCtx_updCtx (s : State) (g p c : Nat) (f : Ctx → Ctx) : Claims.onlyCtx s (s.updCtx g p c f) g p c :=
  onlyCtx_updTp s rfl (fun _ hk => NMap.get_set_other _ _ _ (Ne.symm hk))

theorem onlyCtx_last (s : State) (g p c n : Nat) : Claims.onlyCtx s (s.updTp g p (fun q => { q with last := n })) g p c :=
  onlyCtx_updTp s rfl (fun _ _ => rfl)

/-- A change of the region records alone meets the frame of a context. -/
theorem onlyCtx_setRegions (s : State) (l : NMap Region) (g p c : Nat) : Claims.onlyCtx s { s with regions := l } g p c :=
  ⟨rfl, fun _ _ => rfl, rfl, fun _ _ => rfl, rfl, fun _ _ => rfl⟩

theorem onlyCtx_progressAt (s : State) (g p c : Nat) : Claims.onlyCtx s (s.progressAt g) g p c := by
  rw [progressAt_regions]; exact onlyCtx_setRegions ..

/-- Settles O10: retiring is three updates, each within the frame of the context. -/
theorem retireFrame : Obligations.RetireFrame := by
  intro s t x
  refine ⟨?_, ?_, ?_, ?_⟩
  · exact onlyCtx_trans (onlyCtx_trans (onlyCtx_last ..) (onlyCtx_updCtx ..)) (onlyCtx_progressAt ..)
  · intro j
    simp only [State.retire, find_progressAt, inst_updCtx, inst_updTp, updCtx_regions, updTp_regions]
  · simp [State.retire, Ctx.issued]
  · simp [State.retire]

/-! What a step runs (R21, R31, R193). -/

/-- A word that decodes runs the instruction it is. -/
theorem fetched_ok {s : State} {w : Lane} {i : Instr} (h : decodeWord w = .ok i) : fetched s w = (i, s) := by
  simp only [fetched, h]

/-- A ready context with no trap to take and no breakpoint there issues the word at its pc. -/
theorem issueOf_word {t : State} {g p c : Nat} {i : Instr} (hh : (t.ctx g p c).held = [] ∨ (t.ctx g p c).steward = true)
    (hb : brkHits (NMap.get (t.tile g).amatch (4 * p + c) 0) (t.ctx g p c) = false) (hd : decodeWord (t.wordAt g p (t.ctx g p c)) = .ok i) :
    issueOf t g p c = (i, t.setSite (.task g p c)) := by
  have hh' : ¬ ((t.ctx g p c).held ≠ [] ∧ (t.ctx g p c).steward = false) := fun ⟨h1, h2⟩ => hh.elim h1 (by simp [h2])
  simp only [issueOf, ctx_setSite, tile_setSite, wordAt_setSite, if_neg hh', hb, fetched_ok hd, Bool.false_eq_true, if_false]

/-- On the turn of a processor of a live region its next ready context issues. -/
theorem actOf_turn {t : State} {g p c : Nat} (hw : (Act.turn g p).wf = true) (hl : t.liveAt g = true) (hn : nextCtx (t.tp g p) = some c) :
    actOf t (.turn g p) = some (issueOf t g p c) := by
  simp only [actOf, hw, turnOf, hl, hn, if_true]

/-- An event row without an encoding runs with its argument. -/
theorem actOf_event {t : State} {i : Instr} {a : EvArg} (hi : i.enc = none) (hw : (Act.event i a).wf = true) :
    actOf t (.event i a) = some (i, t.setEv a) := by
  simp only [actOf, hw, hi, Option.isNone_none, if_true]

/-- With no firing begun, the head of the agenda moves. -/
theorem select_agenda {s : State} {a : Act} {rest : List Act} (hb : s.begun = none) (ha : s.agenda = a :: rest) :
    select s = actOf (s.setAgenda rest) a := by
  simp only [select, hb, nextAct, ha]

theorem step_of_select {s t : State} {i : Instr} (h : select s.passTime = some (i, t)) : step s = exec i t := by
  simp only [step, h]

/-- Settles O4, one case for each thing that can move. -/
theorem stepRunsDecoded : Obligations.StepRunsDecoded := by
  refine ⟨fun s g e r i hb hc hd => step_of_select ?_, fun s t g p c rest i ht hb ha hw hl hn hh hk hd => step_of_select ?_,
    fun s i a rest hb ha hi hw => step_of_select ?_⟩
  · simp only [select, hb, hc, fetched_ok hd]
  · rw [select_agenda hb ha, ← ht, actOf_turn hw hl hn, issueOf_word hh hk hd]
  · rw [select_agenda hb ha, actOf_event hi hw]

end Sys2Proof.Machine
end

section
namespace Sys2Proof.Machine
open State

/-! How an issue of a task instruction begins: every one of them asks `beginTask` first. -/

/-- The state in which an issue ends: as it stopped, or as `k` goes on with what it works on. -/
def Began.run (b : Began) (k : TIn → State) : State :=
  match b with
  | .stop s => s
  | .go t => k t

@[simp] theorem Began.run_stop (s : State) (k : TIn → State) : (Began.stop s).run k = s := rfl
@[simp] theorem Began.run_go (t : TIn) (k : TIn → State) : (Began.go t).run k = k t := rfl

/-- The step of `i` on a task processor is what `beginTask` says where it stops, with a refusal of operand values `bad` of the
instruction's own. -/
def IssueBegins (i : Instr) (s : State) (bad : Ctx → Word → Word → Nat) : Prop :=
  ∃ k, exec i s = .next ((beginTask i (fieldsOfInstr i) s bad).run k)

/-- What is known of the refusals of an instruction: each is a cause of 16 bits, and only some instructions have any. -/
def OwnRefusal (i : Instr) (bad : Ctx → Word → Word → Nat) : Prop :=
  (∀ x a b, bad x a b < 2 ^ 16) ∧ (Claims.mayRefuse i = false → bad = noBad)

theorem ownRefusal_noBad (i : Instr) : OwnRefusal i noBad := ⟨fun _ _ _ => Nat.two_pow_pos 16, fun _ => rfl⟩

theorem ownRefusal_of_lt {i : Instr} {bad : Ctx → Word → Word → Nat} (h : ∀ x a b, bad x a b < 2 ^ 16) (hm : Claims.mayRefuse i = true) :
    OwnRefusal i bad := ⟨h, fun h' => by rw [hm] at h'; exact absurd h' (by decide)⟩

theorem nine_lt (b : Bool) : nine b < 2 ^ 16 := by cases b <;> decide

theorem nine_of {b : Bool} (h : b = true) : nine b = 9 := by rw [h]; rfl
theorem nine_of_not {b : Bool} (h : b = false) : nine b = 0 := by rw [h]; rfl

theorem badTarget_lt (x : Ctx) (n : Nat) : badTarget x n < 2 ^ 16 := by
  unfold badTarget; split_ifs <;> omega

theorem badCc_lt (fixed : Bool) (f : Fields) (lit : Word) (x : Ctx) : badCc fixed f lit x < 2 ^ 16 := by
  simp only [badCc]; split_ifs <;> decide

theorem exec_of_stop {i : Instr} {s s' : State} {bad : Ctx → Word → Word → Nat} (h : IssueBegins i s bad)
    (hb : beginTask i (fieldsOfInstr i) s bad = .stop s') : exec i s = .next s' := by
  obtain ⟨k, hk⟩ := h
  rw [hk, hb, Began.run_stop]

/-- An instruction with a task form and an element form, on a task processor. -/
theorem issueBegins_of_site {i : Instr} {s : State} {g p c : Nat} {bad : Ctx → Word → Word → Nat} (hs : s.site = .task g p c)
    (k : TIn → State) (el : State) (h : exec i s = .next (match s.site with
      | .task _ _ _ => (beginTask i (fieldsOfInstr i) s bad).run k
      | .elem _ _ => el)) : IssueBegins i s bad :=
  ⟨k, by rw [h, hs]⟩

/-- `sk.init` first looks whether its template is still being stored, where nothing turns it away. -/
theorem issueBegins_skInit {s : State} {g p c : Nat} (f : Fields) (hs : s.site = .task g p c) : IssueBegins (.iSkInit f) s noBad := by
  refine ⟨fun t => if s.storing t.g t.p t.c (bitsOf t.d 19 0) 64 then s.block g p c (.blkEngine (.stores (bitsOf t.d 19 0) 64))
    else runUnitTask (.iSkInit f) f s .st 64 64 0 false true false (fun s t => s.template t.g (bitsOf t.d 19 0)), ?_⟩
  show execSkInit f s = .next ((beginTask (.iSkInit f) f s noBad).run _)
  cases hb : beginTask (.iSkInit f) f s noBad with
  | stop s' => simp only [execSkInit, runUnit, runUnitTask, hs, hb, Began.run_stop]
  | go t =>
    simp only [execSkInit, runUnit, hs, hb, Began.run_go]
    by_cases hw : s.storing t.g t.p t.c (bitsOf t.d 19 0) 64 = true
    · simp only [hw, if_true]
    · simp only [if_neg hw]

/-- Every instruction with a task form begins its issue so. -/
theorem exists_issueBegins {i : Instr} {h : Shape} {s : State} {g p c : Nat} (ht : taskShape i = some h) (hs : s.site = .task g p c) :
    ∃ bad, IssueBegins i s bad ∧ OwnRefusal i bad := by
  cases i
  case iWait f | iWtagAny f | iWtagAll f | iFtag f | iCtag f | iXinv f | iBmcInv f | iMig f | iTriad f | iThold f | iTdrain f | iTzero f | iTacc f |
    iTcomb f | iTabort f | iTndCall f | iTndWd f | iTndCost f | iTndSt f | iJobSpawn f | iJobJoin f | iSig f | iRngSeed f | iTrap f | iEret f |
    iBrk f | iHalt f | iIdle f | iQsc f | iPmt f => exact ⟨noBad, ⟨_, rfl⟩, ownRefusal_noBad _⟩
  case iSkInit f => exact ⟨noBad, issueBegins_skInit f hs, ownRefusal_noBad _⟩
  case iNop f | iAdd f | iSub f | iMul f | iMulh f | iMulhu f | iDiv f | iDivu f | iRem f | iRemu f | iNeg f | iAbs f | iAdds f | iSubs f | iMad f |
    iLea f | iAnd f | iOr f | iXor f | iAndn f | iNot f | iShl f | iShr f | iSra f | iRol f | iPopc f | iClz f | iCtz f | iBext f | iBins f |
    iBrev f | iBswap f | iMov f | iSeq f | iSne f | iSlt f | iSle f | iSltu f | iSleu f | iSel f | iMin f | iMax f | iMinu f | iMaxu f | iClamp f |
    iSext f | iZext f | iFadd f | iFsub f | iFmul f | iFma f | iFms f | iFnma f | iFmin f | iFmax f | iFabs f | iFneg f | iFeq f | iFlt f | iFle f |
    iFclass f | iFdiv f | iFsqrt f | iScalb f | iCvt f | iCvtfI f | iCvtiF f | iBscale f | iMkdesc f | iLdB f | iLdH f | iLdW f | iLdD f | iStB f |
    iStH f | iStW f | iStD f | iLdAcq f | iStRel f | iAmoAdd f | iAmoAnd f | iAmoOr f | iAmoXor f | iAmoMin f | iAmoMax f | iAmoSwp f | iAmoCas f |
    iSrd f | iSwr f | iSclr f | iSprb f | iFence f | iBar f | iXlt f | iWinChk f | iSkAdd f | iSkQry f | iSkMerge f | iSkScale f | iSkClr f |
    iSkRd f | iSkStat f | iRtSnap f | iRng f | iHoldIns f | iHoldDrop f | iHoldQ f =>
    exact ⟨noBad, issueBegins_of_site hs _ _ rfl, ownRefusal_noBad _⟩
  case iBr f | iBz f | iBnz f | iBlt f | iBge f | iBltu f | iBgeu f | iCall f | iRet f | iJr f =>
    exact ⟨_, ⟨_, rfl⟩, ownRefusal_of_lt (fun _ _ _ => badTarget_lt _ _) rfl⟩
  case iRep f | iCp f | iCp2 f | iCpg f | iCps f | iTstat f | iTrag f | iTscl f | iTpri f | iRsort f | iDone f | iShfGo f | iShfFb f | iSwpPl f |
    iCkpt f | iRstor f | iIdRd f | iDbgX f => exact ⟨_, ⟨_, rfl⟩, ownRefusal_of_lt (fun _ _ _ => nine_lt _) rfl⟩
  case iCmb f | iCmbF f => exact ⟨_, issueBegins_of_site hs _ _ rfl, ownRefusal_of_lt (fun _ _ _ => badCc_lt _ _ _ _) rfl⟩
  case iCtlRd f | iCtlWr f => exact ⟨_, ⟨_, rfl⟩, ownRefusal_of_lt (fun _ _ _ => by dsimp only; split_ifs <;> decide) rfl⟩
  case iCntRd f => exact ⟨_, issueBegins_of_site hs _ _ rfl, ownRefusal_of_lt (fun _ _ _ => by dsimp only; split_ifs <;> decide) rfl⟩
  case iPlf f =>
    exact ⟨_, ⟨_, rfl⟩, ownRefusal_of_lt (fun _ _ b => by dsimp only; rw [hs]; exact nine_lt _) rfl⟩
  all_goals cases ht

/-! What turns a legal word away (R21, R22, R183, R191, R357). -/

/-- The value of a source that is missing, on a context whose channels are bound, is 0: its channel is empty. -/
theorem opnd_of_missing {x : Ctx} {h : Shape} {f : Fields} {u : FUse} {code : BitVec 5} (lit : Word) (hb : x.bound h f = true)
    (hm : u.isSrc = true → 24 ≤ code.toNat → code.toNat < 28 → code.toNat - 24 ∈ srcChans h f) (hx : x.missing u code = true) :
    x.opnd lit u code = 0 := by
  simp only [Ctx.missing, Bool.and_eq_true, decide_eq_true_eq] at hx
  obtain ⟨⟨⟨hu, h1⟩, h2⟩, h3⟩ := hx
  have hr : (x.chan (code.toNat - 24)).readable = true := by
    simp only [Ctx.bound, Bool.and_eq_true, List.all_eq_true] at hb
    exact hb.1 _ (hm hu h1 h2)
  have he : (x.chan (code.toNat - 24)).buf = [] := by simpa [hr] using h3
  have h4 : ¬ code.toNat < 24 := by omega
  simp only [Ctx.opnd, hu, Ctx.src, h4, h2, he, if_true, if_false]

/-- Where every channel is bound, an instruction refuses what it would with its operands there, or nothing. -/
theorem refusal_eq_or_zero {s : State} {h : Shape} {f : Fields} {g p c : Nat} (bad : Ctx → Word → Word → Nat)
    (hb : (s.ctx g p c).bound h f = true) :
    (s.taskIn h f g p c).refusal h (s.ctx g p c) bad = bad (s.ctx g p c) (s.taskIn h f g p c).a (s.taskIn h f g p c).b ∨
      (s.taskIn h f g p c).refusal h (s.ctx g p c) bad = 0 := by
  have ha : (if (s.ctx g p c).missing h.a (s.taskIn h f g p c).f.a then (0 : Word) else (s.taskIn h f g p c).a) = (s.taskIn h f g p c).a := by
    split
    · next hm => exact (opnd_of_missing _ hb (fun h1 h2 h3 => mem_srcChans.2 ⟨_, h2, h3, rfl, .inl ⟨h1, rfl⟩⟩) hm).symm
    · rfl
  have hc : (if (s.ctx g p c).missing h.b (s.taskIn h f g p c).f.b then (0 : Word) else (s.taskIn h f g p c).b) = (s.taskIn h f g p c).b := by
    split
    · next hm => exact (opnd_of_missing _ hb (fun h1 h2 h3 => mem_srcChans.2 ⟨_, h2, h3, rfl, .inr (.inl ⟨h1, rfl⟩)⟩) hm).symm
    · rfl
  simp only [TIn.refusal, ha, hc]
  exact ite_eq_or_eq ..

/-- A refused operand value traps, whatever else the word waits for (R191), where the mode allows the instruction or the cause is
lower than the privilege's. -/
theorem beginTask_refused {s : State} {i : Instr} {h : Shape} {f : Fields} {g p c : Nat} {bad : Ctx → Word → Word → Nat}
    (h1 : s.site = .task g p c)
    (h2 : wordCause .task false ((encodeWord i).getD 0xFFFFFFFF) (s.litAt g p (s.ctx g p c)) [] = 0)
    (h3 : taskShape i = some h) (h4 : s.pendingSrc i h f g p c = none) (h5 : (s.ctx g p c).bound h f = true)
    (h6 : (s.taskIn h f g p c).refusal h (s.ctx g p c) bad ≠ 0)
    (h7 : (stewardOnly i = true → (s.ctx g p c).steward = true) ∨ (s.taskIn h f g p c).refusal h (s.ctx g p c) bad < 0x0B) :
    beginTask i f s bad = .stop (s.trapAt g p c ((s.taskIn h f g p c).refusal h (s.ctx g p c) bad)
      (((encodeWord i).getD 0xFFFFFFFF).setWidth 64)) := by
  unfold beginTask
  rw [h1]
  simp only [h2, h3, h4, h5]
  by_cases hl : (s.taskIn h f g p c).refusal h (s.ctx g p c) bad < 0x0B
  · simp [hl, h6]
  · have hst : (stewardOnly i && !(s.ctx g p c).steward) = false := by
      have := h7.resolve_right hl
      cases hs : stewardOnly i <;> simp_all
    simp [hl, hst, h6]

/-- What turns away a word whose channels are bound and whose mode allows it: a refusal of its operand values of the instruction's own, or
the wait that `beginTask` would block it for. -/
theorem issue_refused_or_waits {s s' : State} {i : Instr} {h : Shape} {w : Lane} {g p c : Nat} (hw : encodeWord i = some w)
    (hs : s.site = .task g p c) (ht : taskShape i = some h)
    (hc : wordCause .task false w (s.litAt g p (s.ctx g p c)) [] = 0) (hp : s.pendingSrc i h (fieldsOfInstr i) g p c = none)
    (hm : stewardOnly i = true → (s.ctx g p c).steward = true) (hb : (s.ctx g p c).bound h (fieldsOfInstr i) = true)
    (hwait : ∀ bad, (s.taskIn h (fieldsOfInstr i) g p c).refusal h (s.ctx g p c) bad = 0 → beginTask i (fieldsOfInstr i) s bad = .stop s') :
    (Claims.mayRefuse i = false → exec i s = .next s') ∧
    (exec i s = .next s' ∨ ∃ cause : BitVec 16, cause ≠ 0 ∧
      exec i s = .next (s.takeTrap g p c cause (s.ctx g p c).pc (w.setWidth 64) (s.ctx g p c).rpt)) := by
  obtain ⟨bad, hi, hlt, hno⟩ := exists_issueBegins ht hs
  refine ⟨fun hr => exec_of_stop hi (hwait bad (by rw [hno hr]; exact refusal_noBad ..)), ?_⟩
  by_cases hz : (s.taskIn h (fieldsOfInstr i) g p c).refusal h (s.ctx g p c) bad = 0
  · exact .inl (exec_of_stop hi (hwait bad hz))
  · refine .inr ⟨BitVec.ofNat 16 ((s.taskIn h (fieldsOfInstr i) g p c).refusal h (s.ctx g p c) bad), ?_, ?_⟩
    · have hl := hlt (s.ctx g p c) (s.taskIn h (fieldsOfInstr i) g p c).a (s.taskIn h (fieldsOfInstr i) g p c).b
      rw [← (refusal_eq_or_zero bad hb).resolve_right hz] at hl
      intro h0
      have := congrArg BitVec.toNat h0
      rw [BitVec.toNat_ofNat, Nat.mod_eq_of_lt hl] at this
      exact hz this
    · have := exec_of_stop hi (beginTask_refused hs (by rw [hw]; exact hc) ht hp hb hz (.inl hm))
      rwa [hw] at this

theorem issueWaits : Claims.PartIssueWaits := by
  intro s i h w g p c k hw hs ht hc _
  have hc' : wordCause .task false ((encodeWord i).getD 0xFFFFFFFF) (s.litAt g p (s.ctx g p c)) [] = 0 := by rw [hw]; exact hc
  obtain ⟨bad, hi, -⟩ := exists_issueBegins ht hs
  refine ⟨fun hp => exec_of_stop hi (beginTask_pending hs hc' ht hp), fun hp hm hb he => ?_, fun hp hm hb he hh => ?_⟩
  · exact issue_refused_or_waits hw hs ht hc hp hm hb (fun bad hz => beginTask_empty hs hc' ht hm hb he hp hz)
  · exact issue_refused_or_waits hw hs ht hc hp hm hb (fun bad hz => beginTask_held hs hc' ht hm hb he hp hz hh)

/-- How each steward-only instruction begins, and that it refuses exactly the operands it does not take, with cause 9. -/
theorem exists_stewardBegins {i : Instr} {s : State} {h : Shape} {g p c : Nat} (hi : stewardOnly i = true) (hs : s.site = .task g p c) :
    ∃ bad, IssueBegins i s bad ∧ (Claims.stewardOperands s (issueIn s i h g p c) i →
        bad (s.ctx g p c) (issueIn s i h g p c).a (issueIn s i h g p c).b = 0) ∧
      (¬ Claims.stewardOperands s (issueIn s i h g p c) i → bad (s.ctx g p c) (issueIn s i h g p c).a (issueIn s i h g p c).b = 9) := by
  cases i
  case iEret f | iHalt f | iQsc f | iPmt f | iXinv f | iMig f =>
    exact ⟨noBad, ⟨_, rfl⟩, fun _ => rfl, fun h => absurd trivial h⟩
  case iDbgX f =>
    refine ⟨_, ⟨_, rfl⟩, fun h => ?_, fun h => ?_⟩ <;> simp only [Claims.stewardOperands] at h
    · exact nine_of_not (by simpa [bitsOf] using h)
    · exact nine_of (by simpa [bitsOf] using h)
  case iRstor f =>
    refine ⟨_, ⟨_, rfl⟩, fun h => ?_, fun h => ?_⟩ <;> simp only [Claims.stewardOperands] at h
    · exact nine_of_not (by simpa using h)
    · exact nine_of (by simpa using h)
  case iCkpt f =>
    refine ⟨_, ⟨_, rfl⟩, fun h => ?_, fun h => ?_⟩ <;> simp only [Claims.stewardOperands] at h
    · exact nine_of_not (by rw [hs]; simpa using h)
    · exact nine_of (by rw [hs]; simpa [imp_iff_not_or] using h)
  all_goals cases hi

/-- A steward-only instruction in tenant mode (R183), and one that refuses its operands too (R189, R191). -/
theorem stewardOnlyTraps : Claims.PartStewardOnlyTraps := by
  intro s i h w g p c hi hw hs ht hc hb hp htm
  have hc' : wordCause .task false ((encodeWord i).getD 0xFFFFFFFF) (s.litAt g p (s.ctx g p c)) [] = 0 := by rw [hw]; exact hc
  have hwd : (encodeWord i).getD 0xFFFFFFFF = w := by rw [hw]; rfl
  obtain ⟨bad, hbeg, hok, hno⟩ := exists_stewardBegins (h := h) hi hs
  refine ⟨fun ho => ?_, fun ho he => ?_⟩
  · have hz : (s.taskIn h (fieldsOfInstr i) g p c).refusal h (s.ctx g p c) bad = 0 := (refusal_eq_or_zero bad hb).elim (·.trans (hok ho)) id
    have := exec_of_stop hbeg (beginTask_steward hs hc' ht hi htm hb hp (.inl hz))
    rwa [hwd] at this
  · have hr : (s.taskIn h (fieldsOfInstr i) g p c).refusal h (s.ctx g p c) bad = 9 := (refusal_eq bad hb he).trans (hno ho)
    have := exec_of_stop hbeg (beginTask_refused (f := fieldsOfInstr i) (bad := bad) hs hc' ht hp hb (by omega) (.inr (by omega)))
    rwa [hwd, hr] at this

/-- Settles O13. -/
theorem issueTurnedAway : Obligations.IssueTurnedAway := ⟨stewardOnlyTraps, issueWaits⟩

end Sys2Proof.Machine
end

section
namespace Sys2Proof.Machine
open State

/-! What emitting a token changes (R30, R32, R38, R177). -/

/-- A token put on the arcs of a list is put at the end of each arc, once for each entry (R32). -/
theorem get_wires_pushAll (k : Tok) (l : List (Nat × Arc)) (r : Region) (a : Nat) :
    NMap.get (r.pushAll k l).wires a [] =
      NMap.get r.wires a [] ++ l.filterMap (fun x => if x.1 = a then some ⟨x.2.slot, k, 0, 0⟩ else none) := by
  induction l generalizing r with
  | nil => simp [Region.pushAll]
  | cons x l ih =>
    obtain ⟨b, y⟩ := x
    rw [Region.pushAll, ih, Region.push, NMap.get_set, List.filterMap_cons]
    by_cases h : b = a
    · subst h; simp
    · simp [h]

theorem pushAll_eq (k : Tok) (l : List (Nat × Arc)) (r : Region) : r.pushAll k l = { r with wires := (r.pushAll k l).wires } := by
  induction l generalizing r with
  | nil => rfl
  | cons x l ih => obtain ⟨b, y⟩ := x; rw [Region.pushAll, ih]; rfl

/-- Pulses reach the circuits of a list alone (R38). -/
theorem get_pulses_pulseAll_other (l : List (Nat × Arc)) (r : Region) {a : Nat} (h : ∀ x, (a, x) ∉ l) :
    NMap.get (r.pulseAll l).pulses a 0 = NMap.get r.pulses a 0 := by
  induction l generalizing r with
  | nil => rfl
  | cons x l ih =>
    obtain ⟨b, y⟩ := x
    have hb : b ≠ a := fun hb => h y (by simp [hb])
    rw [Region.pulseAll, ih _ (fun z hz => h z (List.mem_cons_of_mem _ hz))]
    exact NMap.get_set_other _ _ _ hb

theorem pulseAll_eq (l : List (Nat × Arc)) (r : Region) : r.pulseAll l = { r with pulses := (r.pulseAll l).pulses } := by
  induction l generalizing r with
  | nil => rfl
  | cons x l ih => obtain ⟨b, y⟩ := x; rw [Region.pulseAll, ih]

/-- What a firing may change in the record of the region on its tile: the arcs and circuits that start at the role, the sink queue, the
stray count and the watchdog. -/
structure RegionEmits (team role : Nat) (q q' : Region) : Prop where
  rest : { q' with wires := q.wires, pulses := q.pulses, sinkQ := q.sinkQ, stray := q.stray, wdg := q.wdg } = q
  wires : ∀ a, (∀ port x, (a, x) ∉ q.arcsAt team role port) → NMap.get q'.wires a [] = NMap.get q.wires a []
  pulses : ∀ a, (∀ port x, (a, x) ∉ q.circsAt team role port) → NMap.get q'.pulses a 0 = NMap.get q.pulses a 0

theorem RegionEmits.refl (team role : Nat) (q : Region) : RegionEmits team role q q := ⟨rfl, fun _ _ => rfl, fun _ _ => rfl⟩

theorem RegionEmits.arcsAt {team role : Nat} {q q' : Region} (h : RegionEmits team role q q') (t r p : Nat) : q'.arcsAt t r p = q.arcsAt t r p := by
  have := congrArg Region.arcs h.rest
  simp only [Region.arcsAt]; rw [← this]

theorem RegionEmits.circsAt {team role : Nat} {q q' : Region} (h : RegionEmits team role q q') (t r p : Nat) : q'.circsAt t r p = q.circsAt t r p := by
  have := congrArg Region.circs h.rest
  simp only [Region.circsAt]; rw [← this]

theorem RegionEmits.trans {team role : Nat} {q q' q'' : Region} (h : RegionEmits team role q q') (h' : RegionEmits team role q' q'') :
    RegionEmits team role q q'' where
  rest := by
    have h1 := h'.rest
    have h2 := h.rest
    rw [← h1] at h2
    exact h2
  wires a ha := (h'.wires a (fun port x => by rw [h.arcsAt]; exact ha port x)).trans (h.wires a ha)
  pulses a ha := (h'.pulses a (fun port x => by rw [h.circsAt]; exact ha port x)).trans (h.pulses a ha)

theorem regionEmits_pushAll (team role port : Nat) (k : Tok) (q : Region) : RegionEmits team role q (q.pushAll k (q.arcsAt team role port)) where
  rest := by rw [pushAll_eq]
  wires a ha := by
    rw [get_wires_pushAll, List.filterMap_eq_nil_iff.2, List.append_nil]
    rintro ⟨b, x⟩ hx
    exact if_neg (fun hb : b = a => ha port x (hb ▸ hx))
  pulses a _ := by rw [pushAll_eq]

theorem regionEmits_pulseAll (team role port : Nat) (q : Region) : RegionEmits team role q (q.pulseAll (q.circsAt team role port)) where
  rest := by rw [pulseAll_eq]
  wires a _ := by rw [pulseAll_eq]
  pulses a ha := get_pulses_pulseAll_other _ _ (ha port)

/-- What emitting the results of a firing may change. `regs k`: a result is sent to element register `k`. -/
structure Emits (s s' : State) (g e : Nat) (regs : Nat → Prop) : Prop where
  rest : { s' with tiles := s.tiles, regions := s.regions, free := s.free } = s
  tiles : ∀ k, k ≠ g → s'.tile k = s.tile k
  tile : { s'.tile g with elems := (s.tile g).elems } = s.tile g
  elems : ∀ k, k ≠ e → s'.elem g k = s.elem g k
  elem : { s'.elem g e with e := (s.elem g e).e, recCnt := (s.elem g e).recCnt } = s.elem g e
  reg : ∀ k, ¬ regs k → (s'.elem g e).e[k]? = (s.elem g e).e[k]?
  others : ∀ j, (s.tile g).inst ≠ some j → NMap.find s'.regions j = NMap.find s.regions j
  region : ∀ j, match NMap.find s.regions j, NMap.find s'.regions j with
    | some q, some q' => RegionEmits (s.tile g).team ((s.tile g).role e) q q'
    | none, none => True
    | _, _ => False

theorem Emits.inst {s s' : State} {g e : Nat} {regs : Nat → Prop} (h : Emits s s' g e regs) : (s'.tile g).inst = (s.tile g).inst :=
  (congrArg Tile.inst h.tile :)
theorem Emits.team {s s' : State} {g e : Nat} {regs : Nat → Prop} (h : Emits s s' g e regs) : (s'.tile g).team = (s.tile g).team :=
  (congrArg Tile.team h.tile :)
theorem Emits.role {s s' : State} {g e : Nat} {regs : Nat → Prop} (h : Emits s s' g e regs) (r : Nat) : (s'.tile g).role r = (s.tile g).role r := by
  have : (s'.tile g).roleMap = (s.tile g).roleMap := (congrArg Tile.roleMap h.tile :)
  simp only [Tile.role, this]

theorem region_refl (s : State) (team role j : Nat) : match NMap.find s.regions j, NMap.find s.regions j with
    | some q, some q' => RegionEmits team role q q'
    | none, none => True
    | _, _ => False := by
  cases NMap.find s.regions j with
  | none => trivial
  | some q => exact RegionEmits.refl ..

theorem Emits.refl (s : State) (g e : Nat) (regs : Nat → Prop) : Emits s s g e regs :=
  ⟨rfl, fun _ _ => rfl, rfl, fun _ _ => rfl, rfl, fun _ _ => rfl, fun _ _ => rfl, region_refl s _ _⟩

theorem Emits.mono {s s' : State} {g e : Nat} {regs regs' : Nat → Prop} (h : Emits s s' g e regs) (hr : ∀ k, regs k → regs' k) :
    Emits s s' g e regs' := { h with reg := fun k hk => h.reg k (fun hk' => hk (hr k hk')) }

theorem Emits.trans {s s' s'' : State} {g e : Nat} {regs : Nat → Prop} (h : Emits s s' g e regs) (h' : Emits s' s'' g e regs) :
    Emits s s'' g e regs where
  rest := by
    have h1 := h.rest
    rw [← h'.rest] at h1
    exact h1
  tiles k hk := (h'.tiles k hk).trans (h.tiles k hk)
  tile := by
    have h1 := h.tile
    rw [← h'.tile] at h1
    exact h1
  elems k hk := (h'.elems k hk).trans (h.elems k hk)
  elem := by
    have h1 := h.elem
    rw [← h'.elem] at h1
    exact h1
  reg k hk := (h'.reg k hk).trans (h.reg k hk)
  others j hj := (h'.others j (by rw [h.inst]; exact hj)).trans (h.others j hj)
  region j := by
    have h1 := h.region j
    have h2 := h'.region j
    rw [h.team, h.role] at h2
    revert h1 h2
    cases NMap.find s.regions j <;> cases NMap.find s'.regions j <;> cases NMap.find s''.regions j <;> simp_all
    exact fun a b => a.trans b

/-- A change of the region on the tile that stays within what a firing may change of it. -/
theorem emits_updReg {s : State} {g e i : Nat} {regs : Nat → Prop} {f : Region → Region} (hi : (s.tile g).inst = some i)
    (hf : ∀ q, RegionEmits (s.tile g).team ((s.tile g).role e) q (f q)) : Emits s (s.updReg i f) g e regs where
  rest := by rw [updReg_regions]
  tiles k _ := tile_updReg ..
  tile := by rw [tile_updReg]
  elems k _ := elem_updReg ..
  elem := by rw [elem_updReg]
  reg k _ := by rw [elem_updReg]
  others j hj := by rw [find_updReg, if_neg (fun h : i = j => hj (h ▸ hi))]
  region j := by
    rw [find_updReg]
    by_cases h : i = j
    · subst h
      rw [if_pos rfl]
      cases NMap.find s.regions i with
      | none => trivial
      | some q => exact hf q
    · rw [if_neg h]; exact region_refl ..

theorem tile_updElem_same (s : State) (g e : Nat) (f : Elem → Elem) :
    (s.updElem g e f).tile g = { s.tile g with elems := ((s.updElem g e f).tile g).elems } := by
  unfold State.updElem; rw [tile_updTile_same]

/-- A change of the element's registers and its count of recorded errors. -/
theorem emits_updElem {s : State} {g e : Nat} {regs : Nat → Prop} {f : Elem → Elem}
    (hf : { f (s.elem g e) with e := (s.elem g e).e, recCnt := (s.elem g e).recCnt } = s.elem g e)
    (hr : ∀ k, ¬ regs k → (f (s.elem g e)).e[k]? = (s.elem g e).e[k]?) : Emits s (s.updElem g e f) g e regs where
  rest := rfl
  tiles k hk := tile_updTile_other _ _ (Ne.symm hk)
  tile := by rw [tile_updElem_same]
  elems k hk := elem_updElem_other _ _ (.inr (Ne.symm hk))
  elem := by rw [elem_updElem_same]; exact hf
  reg k hk := by rw [elem_updElem_same]; exact hr k hk
  others j _ := rfl
  region j := region_refl ..

theorem emits_takeFree (s : State) (g e : Nat) (regs : Nat → Prop) : Emits s s.takeFree.2 g e regs :=
  ⟨rfl, fun _ _ => rfl, rfl, fun _ _ => rfl, rfl, fun _ _ => rfl, fun _ _ => rfl, region_refl s _ _⟩

theorem inst_of_regOf {s : State} {g i : Nat} {r : Region} (h : s.regOf g = some (i, r)) :
    (s.tile g).inst = some i ∧ NMap.find s.regions i = some r := by
  unfold State.regOf at h
  split at h
  · next j hj =>
    split at h
    · next q hq => cases h; exact ⟨hj, hq⟩
    · cases h
  · cases h

/-- An error token goes to the sink queue or to the stray count of the region on the tile (R222). -/
theorem emits_toSink (s : State) (g e : Nat) (regs : Nat → Prop) (k : Tok) : Emits s (s.toSink g k) g e regs := by
  unfold State.toSink
  split
  · exact .refl ..
  · next i r h =>
    obtain ⟨hi, -⟩ := inst_of_regOf h
    dsimp only
    split
    · exact emits_updReg hi (fun q => ⟨rfl, fun _ _ => rfl, fun _ _ => rfl⟩)
    · exact emits_updReg hi (fun q => ⟨rfl, fun _ _ => rfl, fun _ _ => rfl⟩)

theorem getElem?_setIfInBounds_other {n k j : Nat} (v : Vector Word n) (w : Word) (h : k ≠ j) : (v.setIfInBounds k w)[j]? = v[j]? := by
  rw [Vector.getElem?_setIfInBounds, if_neg h]

/-- What emitting a token to a destination select can do (R32, R30, R177). -/
theorem emits_emitTo (s : State) (g e dst : Nat) (k : Tok) : Emits s (s.emitTo g e dst k) g e (fun j => dst = 16 + j) := by
  unfold State.emitTo
  dsimp only
  split_ifs with h16 h24 hbad hl h28 hk
  · split
    · next i hi => exact emits_updReg hi (fun q => regionEmits_pushAll ..)
    · exact .refl ..
  · exact emits_updElem rfl (fun _ _ => rfl)
  · exact emits_updElem rfl (fun j hj => getElem?_setIfInBounds_other _ _ (by omega))
  · exact (emits_takeFree ..).trans (emits_updElem rfl (fun j hj => getElem?_setIfInBounds_other _ _ (by omega)))
  · split
    · next i hi => exact (emits_updReg hi (fun q => regionEmits_pulseAll ..)).trans (emits_toSink ..)
    · exact .refl ..
  · split
    · next i hi => exact emits_updReg hi (fun q => regionEmits_pulseAll ..)
    · exact .refl ..
  · exact .refl ..

/-- The element registers that a list of results may reach. -/
def sentTo (f : Fields) (os : List Out) (k : Nat) : Prop := f.d.toNat = 16 + k ∨ f.e.toNat = 16 + k ∨ ∃ t, .port (16 + k) t ∈ os

theorem emits_emitOut (s : State) (g e : Nat) (f : Fields) (dup : Bool) (lit : Word) (tb : Option (Nat × Nat)) (o : Out) {os : List Out}
    (ho : o ∈ os) : Emits s (s.emitOut g e f dup lit tb o) g e (sentTo f os) := by
  cases o with
  | a t =>
    have hd := (emits_emitTo s g e f.d.toNat (tagAct f.t.toNat lit tb t)).mono (regs' := sentTo f os) (fun k h => .inl h)
    simp only [State.emitOut]
    split_ifs
    · exact hd.trans ((emits_emitTo ..).mono (fun k h => .inr (.inl h)))
    · exact hd
  | b t => exact (emits_emitTo ..).mono (fun k h => .inr (.inl h))
  | port q t => exact (emits_emitTo ..).mono (fun k h => .inr (.inr ⟨t, h ▸ ho⟩))

theorem emits_emitOuts (s : State) (g e : Nat) (f : Fields) (dup : Bool) (lit : Word) (tb : Option (Nat × Nat)) (os : List Out) :
    Emits s (s.emitOuts g e f dup lit tb os) g e (sentTo f os) := by
  suffices h : ∀ l, l ⊆ os → ∀ s : State, Emits s (l.foldl (fun s o => s.emitOut g e f dup lit tb o) s) g e (sentTo f os) from
    h os (List.Subset.refl _) s
  intro l hl
  induction l with
  | nil => exact fun s => .refl ..
  | cons o l ih =>
    intro s
    exact (emits_emitOut s g e f dup lit tb o (hl List.mem_cons_self)).trans (ih (fun x hx => hl (List.mem_cons_of_mem _ hx)) _)

/-- The element after a firing without a swap step: it has no firing, and its work counts (R243). -/
def State.firingDone (s : State) (g e : Nat) : State :=
  ({ s with begun := none } : State).updElem g e (fun x => { x with cur := none, work := x.work + 1, swapReq := false })

@[simp] theorem inst_firingDone (s : State) (g e h : Nat) : ((s.firingDone g e).tile h).inst = (s.tile h).inst :=
  tile_updTile_keep (·.inst) ({ s with begun := none } : State) g h _ (fun _ => rfl)

theorem endFire_noSwap {s : State} {g e : Nat} (hr : (s.elem g e).swapReq = false) : s.endFire g e false = (s.firingDone g e).progressAt g := by
  simp only [State.endFire, hr, Bool.or_self, Bool.false_eq_true, if_false, State.firingDone]

theorem tile_updElem_other (s : State) {g h e : Nat} (f : Elem → Elem) (hg : g ≠ h) : (s.updElem g e f).tile h = s.tile h :=
  tile_updTile_other _ _ hg

/-- Settles O24. -/
theorem firingFrame : Obligations.FiringFrame := by
  intro s h r g e os hr hq s'
  have hE := emits_emitOuts s g e r.f (h.e.isDst && !h.role2) r.lit r.tagB os
  generalize hu : s.emitOuts g e r.f (h.e.isDst && !h.role2) r.lit r.tagB os = u at hE
  have hs' : s' = (u.firingDone g e).progressAt g := by
    have huq : (u.elem g e).swapReq = false := (congrArg Elem.swapReq hE.elem :).trans hq
    show fired s h r g e os = _
    rw [fired, hr, hu, endFire_noSwap huq]
  have htile (k : Nat) : s'.tile k = (u.firingDone g e).tile k := by rw [hs', tile_progressAt]
  have helem (k : Nat) : s'.elem g k = (u.firingDone g e).elem g k := by rw [hs', elem_progressAt]
  have hself : s'.elem g e = { u.elem g e with cur := none, work := (u.elem g e).work + 1, swapReq := false } := by
    rw [helem]; exact elem_updElem_same ..
  have hreg (j : Nat) : NMap.find s'.regions j =
      if (s.tile g).inst = some j then (NMap.find u.regions j).map (fun r => { r with wdg := 0 }) else NMap.find u.regions j := by
    rw [hs', find_progressAt, inst_firingDone, hE.inst]; rfl
  refine ⟨?_, ?_, fun k hk => ?_, ?_, fun k hk => ?_, ?_, ?_, ?_, fun k hd he hp => ?_, fun j hj => ?_, fun j q q' hq hq' => ?_⟩
  · have h1 := hE.rest
    rw [hs', progressAt_regions]
    exact (congrArg (fun v : State => { v with begun := s.begun }) h1 :)
  · rw [hs', progressAt_regions]; rfl
  · rw [htile, firingDone, tile_updElem_other _ _ (Ne.symm hk)]; exact hE.tiles k hk
  · rw [htile, firingDone, tile_updElem_same]; exact hE.tile
  · rw [helem, firingDone, elem_updElem_other _ _ (.inr (Ne.symm hk))]; exact hE.elems k hk
  · rw [hself]
    exact (congrArg (fun x : Elem => { x with cur := (s.elem g e).cur, work := (s.elem g e).work, swapReq := false }) hE.elem :)
  · rw [hself]
  · rw [hself]
    show (u.elem g e).work + 1 = _
    rw [(congrArg Elem.work hE.elem :)]
  · rw [hself]
    exact hE.reg k (by rintro (h | h | ⟨t, h⟩); exacts [hd h, he h, hp t h])
  · rw [hreg, if_neg hj]; exact hE.others j hj
  · have h1 := hE.region j
    rw [hq] at h1
    rw [hreg] at hq'
    cases hv : NMap.find u.regions j with
    | none => rw [hv] at h1; exact h1.elim
    | some v =>
      rw [hv] at h1 hq'
      have h2 : RegionEmits (s.tile g).team ((s.tile g).role e) v q' := by
        split at hq'
        · cases hq'; exact ⟨rfl, fun _ _ => rfl, fun _ _ => rfl⟩
        · cases hq'; exact .refl ..
      obtain ⟨r1, r2, r3⟩ := RegionEmits.trans h1 h2
      exact ⟨r1, r2, r3⟩

end Sys2Proof.Machine
end

section
namespace Sys2Proof.Machine
open State

/-! A counterexample to O25: `win.chk` takes a fault token as its operand (R272), like `sink`. -/

/-- A firing that consumed a fault token on srcA. -/
def faultFiring : Fire :=
  { slot := 0, word := 0, lit := 0, toks := [(0, ⟨.fault, 0, 0, 0, 0, [], []⟩)], thread := 0, iter := 0, n := 1, vec := false, eor := false, fire := 0 }

/-- A graph element that has begun that firing. -/
def faultFired : State := (State.reset.setSite (.elem 0 4)).updElem 0 4 (fun x => { x with cur := some faultFiring })

/-- The requests outstanding after a step. -/
def reqCount : Host.Outcome State Fault Refusal → Nat
  | .next s => s.reqs.length
  | _ => 0

/-- `win.chk` answers a fault token by a request that gives its payload, where a token that propagates leaves no request. -/
theorem winChk_answers_fault : reqCount (exec (.iWinChk ⟨0, 0, 0, 0, 0⟩) faultFired) = 1 := rfl

/-- Refutes O25: the propagation it states excepts `sink` alone, but `win.chk` takes fault tokens too. On element 4 with a fault
token on srcA it asks for a scalar result with the token's payload, in place of passing the token on. -/
theorem not_resultsAndBadTokens : ¬ Obligations.ResultsAndBadTokens := by
  rintro ⟨-, h⟩
  have h1 := h faultFired (.iWinChk ⟨0, 0, 0, 0, 0⟩) ⟨false, false, false, true, .data, .port, .src, .dst, .dst⟩ faultFiring 0 4
    ⟨.fault, 0, 0, 0, 0, [], []⟩ (fun _ => by simp) (by decide) rfl rfl rfl rfl rfl (by decide) (fun _ => by simp)
  have h2 := winChk_answers_fault
  rw [h1] at h2
  exact absurd h2 (by decide)

end Sys2Proof.Machine
end

section
namespace Sys2Proof.Machine
open State

/-! A counterexample to O45 and O46: a region whose last `done` is over completes, and no error undoes that (R409, `State.lastDone`). The
discard that both statements promise leaves such a region as it is. -/

/-- Region 0 runs on tile 0 and its one started context has ended; the region record as `u` leaves it. -/
def overRegion (u : Region → Region) : State :=
  (State.reset.withRegion.updCtx 0 0 0 (fun x => { x with status := .ended })).updReg 0 u

/-- The region of a state with no progress for 2^24 counted cycles. -/
def stalledOver : State := overRegion (fun r => { r with wdg := 2 ^ 24 })

/-- A token stands before the router of tile 0, and a soft error strikes the kind in its header. -/
def struckOver : State :=
  { overRegion (fun r => { r with arcs := [(0, ⟨false, 0, 5, 0, false, 0, 28, 0, 2⟩)], wires := [(0, [⟨2, Tok.scalar 0 0 0, 1, 0⟩])] }) with
    ev := { EvArg.none with flag := true, w0 := 1 } }

/-- The status of region 0 after a step. -/
def status0 : Host.Outcome State Fault Refusal → Option RegSt
  | .next s => (NMap.find s.regions 0).map (·.st)
  | _ => none

theorem routerHop_keeps_over : status0 (exec .eRouterHop struckOver) = some .running := by decide +kernel

theorem watchdog_keeps_over : status0 (exec .eWatchdogExpiry stalledOver) = some .running := by decide +kernel

/-- A step that leaves region 0 running leaves no region 0 that is gone or ending. -/
theorem running_of_status0 {o : Host.Outcome State Fault Refusal} {s' : State} {q : Region} (h : status0 o = some .running)
    (ho : o = .next s') (hq : NMap.find s'.regions 0 = some q) : q.st = .running := by
  subst ho
  simpa [status0, hq] using h

/-- Refutes O45: a token whose parity fails at a router discards its region, but not one whose last `done` is over (R409): that region
is neither gone nor ending. -/
theorem not_arcSteps : ¬ Obligations.ArcSteps := by
  rintro ⟨-, h⟩
  obtain ⟨-, -, -, hop, -⟩ := h struckOver 0 0 0 _ ⟨false, 0, 5, 0, false, 0, 28, 0, 2⟩ rfl rfl rfl rfl rfl rfl
  obtain ⟨s', q, ho, hq, hst⟩ := hop [] ⟨2, Tok.scalar 0 0 0, 1, 0⟩ [] rfl rfl (by simp) ⟨rfl, by decide⟩ rfl (by decide +kernel)
  have hrun := running_of_status0 routerHop_keeps_over ho hq
  simp [hrun] at hst

/-- Refutes O46: the watchdog of a region whose last `done` is over expires without a discard (R409), though its record has room. -/
theorem not_emissionAndTrapSteps : ¬ Obligations.EmissionAndTrapSteps := by
  intro h
  obtain ⟨-, -, -, -, -, -, -, -, expires, -⟩ := h stalledOver 0 0 0 rfl rfl rfl
  obtain ⟨s', q, ho, hq, -, hgone, -, -⟩ := expires _ rfl rfl (le_refl _)
  have hrun := running_of_status0 watchdog_keeps_over ho hq
  exact absurd (hrun.symm.trans (hgone (by simp)).1) (by decide)

end Sys2Proof.Machine
end

section
namespace Sys2Proof.Machine
open State

/-! A counterexample to O47: a load that reads its whole image and then goes back to its queue leaves no mark in the page tables
(`execRegionLoad` puts the record back in the state before the load), where O47 has the memory that the reads of the image left. -/

/-- The little-endian bytes of words. -/
def wordBytes (l : List Nat) : List Byte := bytesOfWords (l.map (BitVec.ofNat 64))

/-- Page tables from address 0 whose leaf for the first page has its accessed bit clear, and an image of one team at 0x4000. -/
def unmarkedMem (m : Memory) : Memory :=
  (((m.writeBytes 0 (wordBytes [0x2001])).writeBytes 0x2000 (wordBytes [0x3001])).writeBytes 0x3000 (wordBytes [0x189])).writeBytes 0x4000
    (wordBytes [0x464E4931 + 2 ^ 32, 1, 0, 184 + 2 * 2 ^ 32, 0, 64, 0, 0, 1 + 96 * 2 ^ 32, 64, 12 + 160 * 2 ^ 32, 24, 0, 1, 0, 0, 0x8000, 0, 0, 0, 1, 0, 0x40])

/-- A region popped for that image, whose tenant has no entry. -/
def orphanLoad : State :=
  { State.reset.withRegion.updReg 0 (fun r => { r with
      st := .popped, recd := [0x4000], qrec := some (0, ⟨0, 0, 1, [0x4000], 0, true, 0, 0, 0, 0, true, none, none⟩) }) with
    mem := unmarkedMem State.reset.mem, ready0 := BitVec.allOnes 64, ready1 := BitVec.allOnes 64, keys := [(0, [])], ev := EvArg.none, hub := [] }

/-- That region. -/
def orphanRegion : Region := (NMap.find orphanLoad.regions 0).get (by decide +kernel)

/-- What the load reads, and the state after its reads. -/
def orphanRead : Loaded × State :=
  orphanLoad.loadImage orphanLoad.ev.inst orphanRegion.tenant (orphanLoad.tenantRoot orphanRegion.tenant) ((orphanRegion.recd.getD 0 0).toNat % 2 ^ 56)

/-- An image was read and accepted. -/
def Loaded.isOk : Loaded → Bool
  | .ok _ => true
  | _ => false

/-- The leaf entry of the first page after a step. -/
def leafAfter : Host.Outcome State Fault Refusal → Nat
  | .next s => Memory.readN s.mem 0x3000 8
  | _ => 0

theorem orphanRead_isOk : orphanRead.1.isOk = true := by decide +kernel

/-- The reads of the image mark the leaf as accessed. -/
theorem orphanRead_marks : Memory.readN orphanRead.2.mem 0x3000 8 = 0x199 := by decide +kernel

/-- The load that goes back leaves the leaf as it was. -/
theorem orphanLoad_unmarked : leafAfter (exec .eRegionLoad orphanLoad) = 0x189 := by decide +kernel

theorem Loaded.isOk_iff {l : Loaded} : l.isOk = true ↔ ∃ m, l = .ok m := by
  cases l <;> simp [Loaded.isOk]

/-- Refutes O47: of a record whose tenant's entry is gone it says that memory keeps the accessed bits that the reads of the image
set, but the event sets the record back in the state before these reads, with the leaf unmarked. -/
theorem not_regionSteps : ¬ Obligations.RegionSteps := by
  intro h
  obtain ⟨m, hm⟩ := Loaded.isOk_iff.mp orphanRead_isOk
  have hroot : orphanRead = (.ok m, orphanRead.2) := by rw [← hm]
  obtain ⟨-, -, -, -, -, goesBack, -, -⟩ := h orphanLoad orphanRead.2 orphanRegion (Option.some_get _).symm
  obtain ⟨s', ho, -, hmem, -⟩ := goesBack m 0 _ rfl rfl rfl hroot (.inl (by decide +kernel))
  have hleaf := orphanLoad_unmarked
  rw [ho, leafAfter, hmem, orphanRead_marks] at hleaf
  exact absurd hleaf (by decide)

end Sys2Proof.Machine
end

section
namespace Sys2Proof.Machine
open State

/-! How an access completes (O49): the requests table, what a context that looks again keeps, and where result words go. -/

theorem id_of_req {s : State} {id : Nat} {r : Req} (h : s.req id = some r) : r.id = id := by
  simpa using List.find?_some h

theorem liveReq_of {s : State} {id : Nat} {r : Req} {q : Region} (h : s.req id = some r) (hq : NMap.find s.regions r.inst = some q)
    (hl : q.live = true) : s.liveReq id = some r := by
  have hr : s.liveReg r.inst = some q := by simp [State.liveReg, hq, hl]
  have hl : s.reqLive r = true := by
    unfold State.reqLive
    split <;> simp [hr]
  simp [State.liveReq, h, hl]

/-- What a context that looks again, or that a held acquire no longer holds, keeps: everything but its status and its block. -/
structure LooksAgain (s s' : State) (g p c : Nat) : Prop where
  mem : s'.mem = s.mem
  reqs : s'.reqs = s.reqs
  vaults : s'.vaults = s.vaults
  regions : s'.regions = s.regions
  inst : (s'.tile g).inst = (s.tile g).inst
  words : (s'.ctx g p c).s = (s.ctx g p c).s
  pc : (s'.ctx g p c).pc = (s.ctx g p c).pc
  vc : (s'.ctx g p c).vc = (s.ctx g p c).vc
  count : ∀ k, (s'.ctx g p c).count k = (s.ctx g p c).count k

theorem LooksAgain.refl (s : State) (g p c : Nat) : LooksAgain s s g p c := ⟨rfl, rfl, rfl, rfl, rfl, rfl, rfl, rfl, fun _ => rfl⟩

theorem LooksAgain.trans {s s' s'' : State} {g p c : Nat} (h : LooksAgain s s' g p c) (h' : LooksAgain s' s'' g p c) : LooksAgain s s'' g p c where
  mem := h'.mem.trans h.mem
  reqs := h'.reqs.trans h.reqs
  vaults := h'.vaults.trans h.vaults
  regions := h'.regions.trans h.regions
  inst := h'.inst.trans h.inst
  words := h'.words.trans h.words
  pc := h'.pc.trans h.pc
  vc := h'.vc.trans h.vc
  count k := (h'.count k).trans (h.count k)

theorem looksAgain_updCtx (s : State) (g p c : Nat) {f : Ctx → Ctx} (hs : ∀ x, (f x).s = x.s) (hpc : ∀ x, (f x).pc = x.pc)
    (hvc : ∀ x, (f x).vc = x.vc) (hk : ∀ x k, (f x).count k = x.count k) : LooksAgain s (s.updCtx g p c f) g p c where
  mem := rfl
  reqs := rfl
  vaults := rfl
  regions := rfl
  inst := inst_updCtx ..
  words := by rw [ctx_updCtx_same, hs]
  pc := by rw [ctx_updCtx_same, hpc]
  vc := by rw [ctx_updCtx_same, hvc]
  count k := by rw [ctx_updCtx_same, hk]

theorem looksAgain_wakeCtx (s : State) (g p c : Nat) : LooksAgain s (s.wakeCtx g p c) g p c := by
  unfold State.wakeCtx
  dsimp only
  split_ifs
  · exact looksAgain_updCtx s g p c (fun _ => rfl) (fun _ => rfl) (fun _ => rfl) (fun _ k => by cases k <;> rfl)
  · exact .refl ..

/-- A held acquire whose request has been performed ends. -/
def State.endAcquire (s : State) (id g p c : Nat) : State := s.updCtx g p c (fun x => { x with acq := if x.acq = some id then none else x.acq })

theorem looksAgain_endAcquire (s : State) (id g p c : Nat) : LooksAgain s (s.endAcquire id g p c) g p c :=
  looksAgain_updCtx s g p c (fun _ => rfl) (fun _ => rfl) (fun _ => rfl) (fun _ k => by cases k <;> rfl)

theorem settle_ctx {s : State} {r : Req} {g p c : Nat} (h : s.req r.id = some r) (hc : r.counted = true) (hw : r.who = .ctx g p c) :
    s.settle r.id = (if r.performed then s.endAcquire r.id g p c else s).wakeCtx g p c := by
  simp only [State.settle, State.endAcquire, h, hw, hc, Bool.not_true, Bool.and_false, Bool.false_eq_true, if_false]

theorem looksAgain_settle {s : State} {r : Req} {g p c : Nat} (h : s.req r.id = some r) (hc : r.counted = true) (hw : r.who = .ctx g p c) :
    LooksAgain s (s.settle r.id) g p c := by
  rw [settle_ctx h hc hw]
  refine LooksAgain.trans ?_ (looksAgain_wakeCtx ..)
  split_ifs
  · exact looksAgain_endAcquire ..
  · exact .refl ..

/-- A counted request that is no context's is not settled by its answer. -/
theorem settle_of_not_ctx {s : State} {r : Req} (h : s.req r.id = some r) (hc : r.counted = true) (hw : ∀ g p c, r.who ≠ .ctx g p c) :
    s.settle r.id = s := by
  simp only [State.settle, h, hc, Bool.not_true, Bool.and_false, Bool.false_eq_true, if_false]

theorem LooksAgain.regOf {s s' : State} {g p c : Nat} (h : LooksAgain s s' g p c) : s'.regOf g = s.regOf g := by
  simp only [State.regOf, h.inst, h.regions]

theorem LooksAgain.chan {s s' : State} {g p c : Nat} (h : LooksAgain s s' g p c) (k : Nat) : (s'.ctx g p c).chan k = (s.ctx g p c).chan k := by
  simp only [Ctx.chan, h.vc]

theorem LooksAgain.chanHeld {s s' : State} {g p c : Nat} (h : LooksAgain s s' g p c) (d : Nat) : s'.chanHeld g p c d = s.chanHeld g p c d := by
  unfold State.chanHeld State.sendHeld
  rw [h.chan, h.regOf]

theorem LooksAgain.inTurn {s s' : State} {g p c : Nat} (h : LooksAgain s s' g p c) (r : Req) : s'.inTurn r = s.inTurn r := by
  unfold State.inTurn State.req
  rw [h.vaults, h.reqs]

/-- Whether a context's request has been performed is seen at the request alone. -/
theorem reached_ctx (s s' : State) {r : Req} {g p c : Nat} (hw : r.who = .ctx g p c) : s'.reached r = s.reached r := by
  unfold State.reached
  rw [hw]

/-- Whether a context's request may complete does not turn on what `LooksAgain` lets change. -/
theorem LooksAgain.mayComplete {s s' : State} {g p c : Nat} (h : LooksAgain s s' g p c) {r : Req} (hw : r.who = .ctx g p c) :
    s'.mayComplete r = s.mayComplete r := by
  simp only [State.mayComplete, reached_ctx s s' hw, h.inTurn, hw, h.chan, h.chanHeld]

/-- An access that may complete and is no refusal of a context completes, in the state that its held answer may have settled. -/
theorem exec_accessCompletion {s : State} {r : Req} {q : Region} (h : s.req s.ev.id = some r) (hq : NMap.find s.regions r.inst = some q)
    (hl : q.live = true) (hm : s.mayComplete r = true) (hn : ∀ g p c cause off, r.who = .ctx g p c → r.phase ≠ .refused cause off) :
    ∃ t, exec .eAccessCompletion s = .next (t.complete r) ∧ t.mem = s.mem ∧ (∀ g p c, r.who = .ctx g p c → LooksAgain s t g p c) ∧
      ((∀ g p c, r.who ≠ .ctx g p c) → t = s) := by
  have hid : s.req r.id = some r := by rw [id_of_req h, h]
  obtain ⟨⟨⟨⟨hc, ho⟩, -⟩, hturn⟩, -⟩ : (((r.counted = true ∧ (!r.op.own) = true) ∧ s.reached r = true) ∧ s.inTurn r = true) ∧ _ := by
    simpa only [State.mayComplete, Bool.and_eq_true] using hm
  have hexec : exec .eAccessCompletion s = .next (if s.heldAnswer r.id then s.deliver r else s.complete r) := by
    show execAccessCompletion s = _
    simp [execAccessCompletion, liveReq_of h hq hl, hm]
  by_cases ha : s.heldAnswer r.id = true
  · have hd : s.deliver r = if (s.settle r.id).mayComplete r then (s.settle r.id).complete r else s := by
      unfold State.deliver
      rw [if_neg (by simp [hturn])]
      split
      · next hp hw => exact absurd hp (hn _ _ _ _ _ hw)
      · rw [if_pos (by simp [hc, ho])]
    by_cases hw : ∃ g p c, r.who = .ctx g p c
    · obtain ⟨g, p, c, hw⟩ := hw
      have hs := looksAgain_settle hid hc hw
      refine ⟨s.settle r.id, ?_, hs.mem, fun g' p' c' hw' => ?_, fun hne => absurd hw (hne g p c)⟩
      · rw [hexec, if_pos ha, hd, if_pos (by rw [hs.mayComplete hw, hm])]
      · cases hw.symm.trans hw'
        exact hs
    · have hw : ∀ g p c, r.who ≠ .ctx g p c := fun g p c h => hw ⟨g, p, c, h⟩
      refine ⟨s, ?_, rfl, fun g p c h => absurd h (hw g p c), fun _ => rfl⟩
      rw [hexec, if_pos ha, hd, settle_of_not_ctx hid hc hw, if_pos hm]
  · exact ⟨s, by rw [hexec, if_neg ha], rfl, fun _ _ _ _ => .refl .., fun _ => rfl⟩

theorem ctx_dropReq (s : State) (id g p c : Nat) : (s.dropReq id).ctx g p c = s.ctx g p c := rfl

/-- A delivered answer leaves its home's records, and nothing else changes. -/
theorem unanswer_vaults (s : State) (id : Nat) : s.unanswer id = { s with vaults := (s.unanswer id).vaults } := by
  unfold State.unanswer
  split_ifs <;> rfl

@[simp] theorem unanswer_mem (s : State) (id : Nat) : (s.unanswer id).mem = s.mem := by rw [unanswer_vaults]
@[simp] theorem tile_unanswer (s : State) (id g : Nat) : (s.unanswer id).tile g = s.tile g := by rw [unanswer_vaults]; rfl
@[simp] theorem ctx_unanswer (s : State) (id g p c : Nat) : (s.unanswer id).ctx g p c = s.ctx g p c := by rw [unanswer_vaults]; rfl

@[simp] theorem wakeCtx_mem (s : State) (g p c : Nat) : (s.wakeCtx g p c).mem = s.mem := (looksAgain_wakeCtx ..).mem
@[simp] theorem wakeIdle_mem (s : State) (g p c : Nat) : (s.wakeIdle g p c).mem = s.mem := by
  unfold State.wakeIdle
  split_ifs <;> rfl
@[simp] theorem countDown_mem (s : State) (who : Agent) (k : Cls) : (s.countDown who k).mem = s.mem := by
  cases who with
  | ctx g p c => exact wakeCtx_mem ..
  | _ => rfl
@[simp] theorem putWord_mem (s : State) (g p c d : Nat) (r : Req) (v : Word) : (s.putWord g p c d r v).mem = s.mem := by
  unfold State.putWord
  dsimp only
  split
  · split
    · exact updReg_mem ..
    · rfl
  · rfl
@[simp] theorem putWords_mem (s : State) (g p c d : Nat) (r : Req) (l : List Word) : (s.putWords g p c d r l).mem = s.mem := by
  induction l generalizing s d with
  | nil => rfl
  | cons v l ih => exact (ih ..).trans (putWord_mem ..)
@[simp] theorem emitOuts_mem (s : State) (g e : Nat) (f : Fields) (dup : Bool) (lit : Word) (tb : Option (Nat × Nat)) (os : List Out) :
    (s.emitOuts g e f dup lit tb os).mem = s.mem := (congrArg State.mem (emits_emitOuts s g e f dup lit tb os).rest :)
@[simp] theorem fenceDone_mem (s : State) (r : Req) (g e : Nat) : (s.fenceDone r g e).mem = s.mem := by
  unfold State.fenceDone State.releaseAt
  dsimp only
  split_ifs <;> rfl

/-- The request leaves the table, or stays as an uncounted one whose access is still to be performed. -/
def State.uncount (s : State) (r : Req) : State :=
  if r.performed || r.op == .fence then (s.unanswer r.id).dropReq r.id else (s.unanswer r.id).updReq r.id (fun q => { q with counted := false })

@[simp] theorem uncount_mem (s : State) (r : Req) : (s.uncount r).mem = s.mem := by
  unfold State.uncount
  split_ifs <;> exact unanswer_mem ..
@[simp] theorem ctx_uncount (s : State) (r : Req) (g p c : Nat) : (s.uncount r).ctx g p c = s.ctx g p c := by
  unfold State.uncount
  split_ifs <;> exact ctx_unanswer ..

/-- The completion of a context's access other than a channel word. -/
theorem complete_ctx (s : State) {r : Req} {g p c : Nat} (hw : r.who = .ctx g p c) (ho : ∀ k, r.op ≠ .emit k) :
    s.complete r = (if r.dup then ((s.uncount r).putWords g p c r.d r r.words).putWords g p c r.e r r.words
      else (s.uncount r).putWords g p c r.d r r.words).countDown r.who r.cls := by
  unfold State.complete State.uncount
  cases hop : r.op with
  | emit k => exact absurd hop (ho k)
  | _ => simp only [hw]

/-- The completion of an element's access. -/
theorem complete_elem (s : State) {r : Req} {g e : Nat} (hw : r.who = .elem g e) :
    s.complete r = (if r.op == .fence then (s.uncount r).fenceDone r g e else s.uncount r).emitOuts g e
      ⟨0, 0, BitVec.ofNat 5 r.d, BitVec.ofNat 5 r.e, BitVec.ofNat 4 r.t⟩ r.dup r.lit r.tb
      (((s.uncount r).reqToks r).map Out.a) := by
  obtain ⟨ha, hb⟩ : (fieldsOf 0).a = 0 ∧ (fieldsOf 0).b = 0 := by decide
  simp only [State.complete, State.uncount, hw, ha, hb]

theorem complete_mem (s : State) (r : Req) : (s.complete r).mem = s.mem := by
  cases hw : r.who with
  | ctx g p c =>
    by_cases ho : ∃ k, r.op = .emit k
    · obtain ⟨k, ho⟩ := ho
      simp only [State.complete, hw, ho, wakeCtx_mem, wakeIdle_mem, updCtx_mem]
      split_ifs <;> exact unanswer_mem ..
    · rw [complete_ctx s hw (fun k h => ho ⟨k, h⟩)]
      split_ifs <;> simp
  | elem g e =>
    rw [complete_elem s hw]
    split_ifs <;> simp
  | _ => simp only [State.complete, hw]; exact uncount_mem s r

@[simp] theorem ctx_putWord_z (s : State) (g p c : Nat) (r : Req) (v : Word) : (s.putWord g p c 28 r v).ctx g p c = s.ctx g p c := by
  simp [State.putWord, Ctx.write]

theorem ctx_putWord_reg (s : State) (g p c : Nat) (r : Req) (v : Word) {d : Nat} (hd : d < 24) :
    (s.putWord g p c d r v).ctx g p c = { s.ctx g p c with s := (s.ctx g p c).s.setIfInBounds d v } := by
  have h : ¬ (24 < d ∧ d < 28) := by omega
  simp [State.putWord, Ctx.write, h, hd]

@[simp] theorem ctx_putWords_z (s : State) (g p c : Nat) (r : Req) (l : List Word) : (s.putWords g p c 28 r l).ctx g p c = s.ctx g p c := by
  induction l generalizing s with
  | nil => rfl
  | cons v l ih => exact (ih _).trans (ctx_putWord_z ..)

/-- Result words that fit before register 24 go to consecutive registers, and the context keeps everything else. -/
theorem ctx_putWords_reg (s : State) (g p c : Nat) (r : Req) (l : List Word) {d : Nat} (hl : d + l.length ≤ 24) :
    ∃ rs : Vector Word 24, (s.putWords g p c d r l).ctx g p c = { s.ctx g p c with s := rs } ∧
      ∀ j, j < 24 → rs[j]? = if d ≤ j ∧ j < d + l.length then l[j - d]? else (s.ctx g p c).s[j]? := by
  induction l generalizing s d with
  | nil => exact ⟨(s.ctx g p c).s, rfl, fun j _ => by rw [if_neg (by simp)]⟩
  | cons v l ih =>
    rw [List.length_cons] at hl
    have hd : d < 24 := by omega
    obtain ⟨rs, hx, hrs⟩ := ih (s.putWord g p c d r v) (d := d + 1) (by omega)
    rw [ctx_putWord_reg _ _ _ _ _ _ hd] at hx hrs
    refine ⟨rs, by simpa [State.putWords, hd] using hx, fun j hj => ?_⟩
    rw [hrs j hj, Vector.getElem?_setIfInBounds, List.length_cons]
    rcases lt_trichotomy j d with hlt | rfl | hgt
    · rw [if_neg (by omega), if_neg (by omega), if_neg (by omega)]
    · rw [if_neg (by omega), if_pos rfl, if_pos hd, if_pos (by omega), Nat.sub_self, List.getElem?_cons_zero]
    · have hk : j - d = (j - (d + 1)) + 1 := by omega
      rw [if_neg (by omega : ¬ d = j), hk, List.getElem?_cons_succ]
      exact if_congr (by omega) rfl rfl

/-- The one result token of a plain access of an element (R254): `k` is what each case gives. -/
theorem reqToks_elem {t : State} {r : Req} {g e : Nat} {k : Tok} (hw : r.who = .elem g e) (hp : r.performed = true)
    (hload : r.phase = .done → r.op = .load → r.vec = false → r.width = 0 → k = Tok.scalar r.thread r.iter (BitVec.ofNat 64 (laneGot r.pieces 0)))
    (hvec : r.phase = .done → r.op = .load → r.vec = true → r.width = 0 → k = Tok.vec r.thread r.iter
      ((List.range r.n).map (fun j => BitVec.ofNat 32 (laneGot r.pieces j))) r.idx)
    (hamo : r.phase = .done → (∃ o, r.op = .amo o) → k = Tok.scalar r.thread r.iter (BitVec.ofNat 64 (laneGot r.pieces 0)))
    (hstore : r.phase = .done → r.op = .store → k = Tok.scalar r.thread r.iter 0)
    (hbad : ∀ cause off, r.phase = .refused cause off → k = Tok.error r.thread r.iter (r.n - 1) (errPayload cause g ((t.tile g).role e) off))
    (hop : r.op = .load ∧ r.width = 0 ∨ r.op = .store ∨ (∃ o, r.op = .amo o) ∨ (∃ cause off, r.phase = .refused cause off)) :
    t.reqToks r = [k] := by
  unfold State.reqToks
  cases hph : r.phase with
  | refused cause off => simp only [State.reqPay, hw, hbad cause off hph]
  | done =>
    obtain ⟨hop, hwd⟩ | hop | ⟨o, hop⟩ | ⟨cause, off, h⟩ := hop
    · cases hv : r.vec with
      | false => simp [hop, hwd, hload hph hop hv hwd]
      | true => simp [hop, hwd, hvec hph hop hv hwd]
    · simp only [hop, hstore hph hop]
    · simp only [hop, hamo hph ⟨o, hop⟩]
    · cases hph.symm.trans h
  | _ => simp [Req.performed, hph] at hp

theorem count_setCount (x : Ctx) (k : Cls) (n : Nat) (hk : k = .none → n = 0) : (x.setCount k n).count k = n := by
  cases k with
  | none => exact (hk rfl).symm
  | _ => rfl

/-- A count falls by one, and the context's registers and pc are as they were (R120). -/
theorem ctx_countDown (s : State) (g p c : Nat) (k : Cls) :
    (((s.countDown (.ctx g p c) k).ctx g p c).s = (s.ctx g p c).s ∧ ((s.countDown (.ctx g p c) k).ctx g p c).pc = (s.ctx g p c).pc) ∧
      ((s.countDown (.ctx g p c) k).ctx g p c).count k = (s.ctx g p c).count k - 1 := by
  have h := looksAgain_wakeCtx (s.updCtx g p c (fun x => x.setCount k (x.count k - 1))) g p c
  refine ⟨⟨h.words.trans ?_, h.pc.trans ?_⟩, (h.count k).trans ?_⟩
  · rw [ctx_updCtx_same]; cases k <;> rfl
  · rw [ctx_updCtx_same]; cases k <;> rfl
  · rw [ctx_updCtx_same, count_setCount _ _ _ (by rintro rfl; rfl)]

/-- Channel words that go back touch the channels alone (R239). -/
theorem restore_vc (x : Ctx) (l : List (Nat × Tok)) : x.restore l = { x with vc := (x.restore l).vc } := by
  induction l generalizing x with
  | nil => rfl
  | cons a l ih => rw [Ctx.restore, ih]

/-- An instruction taken back leaves its context's mode and trap vector. -/
theorem ctx_unissue {s : State} {r : Req} {g p c : Nat} (hw : r.who = .ctx g p c) :
    ((s.unissue r).ctx g p c).steward = (s.ctx g p c).steward ∧ ((s.unissue r).ctx g p c).tvec = (s.ctx g p c).tvec := by
  simp only [State.unissue, hw, ctx_updCtx_same, ctx_dropReq, Ctx.unblock]
  rw [restore_vc]
  cases r.cls <;> exact ⟨rfl, rfl⟩

theorem unissue_mem (s : State) (r : Req) : (s.unissue r).mem = s.mem := by
  unfold State.unissue
  split <;> rfl

theorem takeTrap_tenant {s : State} {g p c : Nat} (cause : BitVec 16) (slot : BitVec 11) (val : Word) (rpt : Rpt)
    (h : (s.ctx g p c).steward = false) : (s.takeTrap g p c cause slot val rpt).mem = s.mem ∧
      (s.takeTrap g p c cause slot val rpt).ctx g p c = (s.ctx g p c).enter cause slot val rpt := by
  have hx : (s.updTp g p (fun t => { t with last := c })).ctx g p c = s.ctx g p c := by simp [State.ctx, Tp.ctx]
  simp [State.takeTrap, hx, h]

/-- The trap of a refusal held at its home is taken in the answer's turn (R407). -/
theorem exec_heldRefusal {s : State} {r : Req} {q : Region} {g p c cause off : Nat} (h : s.req s.ev.id = some r)
    (hq : NMap.find s.regions r.inst = some q) (hl : q.live = true) (ha : s.heldAnswer r.id = true) (ht : s.inTurn r = true)
    (hw : r.who = .ctx g p c) (hp : r.phase = .refused cause off) :
    exec .eAccessCompletion s = .next (((s.unanswer r.id).unissue r).takeTrap g p c (BitVec.ofNat 16 cause) (BitVec.ofNat 11 r.slot)
      (((s.unanswer r.id).unissue r).reqPay r cause r.ea) r.rpt) := by
  show execAccessCompletion s = _
  simp [execAccessCompletion, liveReq_of h hq hl, ha, State.deliver, ht, hp, hw, State.refuseNow]

/-- Settles O49: the completion that `exec_accessCompletion` finds, taken apart by who made the access. -/
theorem accessCompletes : Obligations.AccessCompletes := by
  refine ⟨fun s r q g p c cause off h hq hl ha ht hw hp hst => ?_, fun s r q h hq hl hm hn => ?_⟩
  · obtain ⟨hsteward, htvec⟩ := ctx_unissue (s := s.unanswer r.id) hw
    rw [ctx_unanswer] at hsteward htvec
    obtain ⟨hmem, hx⟩ := takeTrap_tenant (BitVec.ofNat 16 cause) (BitVec.ofNat 11 r.slot) (((s.unanswer r.id).unissue r).reqPay r cause r.ea) r.rpt
      (hsteward.trans hst)
    refine ⟨_, exec_heldRefusal h hq hl ha ht hw hp, ?_, ?_⟩
    · rw [hmem, unissue_mem, unanswer_mem]
    · rw [hx]
      exact ⟨rfl, rfl, rfl, congrArg (BitVec.setWidth 11) htvec⟩
  · obtain ⟨t, hexec, hmem, hctx, helem⟩ := exec_accessCompletion h hq hl hm hn
    refine ⟨_, hexec, (complete_mem t r).trans hmem, fun g p c hw ho hdup hd => ?_, fun g e k hw hp hload hvec hamo hstore hbad hf hop => ?_⟩
    · have hk := hctx g p c hw
      obtain ⟨⟨hs, hpc⟩, hcount⟩ := ctx_countDown ((t.uncount r).putWords g p c r.d r r.words) g p c r.cls
      rw [complete_ctx t hw ho, hdup, if_neg Bool.false_ne_true, hw, hs, hpc, hcount]
      rcases hd with ⟨hd, hlen⟩ | hd
      · obtain ⟨rs, hx, hrs⟩ := ctx_putWords_reg (t.uncount r) g p c r r.words hlen
        rw [hx]
        rw [ctx_uncount] at hrs ⊢
        refine ⟨fun j hj => ?_, ?_, hk.pc⟩
        · rw [hrs j hj, hk.words]
          exact if_congr (by simp [hd]) rfl rfl
        · rw [← hk.count]; cases r.cls <;> rfl
      · rw [hd, ctx_putWords_z, ctx_uncount, hk.words, hk.count]
        exact ⟨fun j hj => (if_neg (by omega)).symm, rfl, hk.pc⟩
    · cases helem (fun g' p' c' hw' => by cases hw.symm.trans hw')
      have hfence : (r.op == .fence) = false := by simpa using hf
      have hu : s.uncount r = (s.unanswer r.id).dropReq r.id := by simp [State.uncount, hp]
      have htoks := reqToks_elem (t := s.uncount r) hw hp hload hvec hamo hstore (by
        intro cause off hph
        rw [hbad cause off hph, show (s.uncount r).tile g = s.tile g by rw [hu]; exact tile_unanswer ..]) hop
      rw [complete_elem s hw, htoks, hfence, hu]
      rfl

end Sys2Proof.Machine
end

section
namespace Sys2Proof.Machine
open State

/-! Jobs and tenders of a context (O43): the requests that the instructions issue. -/

/-- A request that nothing holds is issued. -/
theorem issueOr_of_free {s : State} {t : TIn} {r : Req} {mem : Bool} (h : s.holds t r.cls mem = none) : s.issueOr t r mem = s.issue t r := by
  simp [State.issueOr, h]

theorem bitsOf_low (w : Word) (n : Nat) : bitsOf w n 0 = w.toNat % 2 ^ (n + 1) := by simp [bitsOf]

/-- Bits above a virtual address are set exactly where it does not fit 56 bits. -/
theorem bitsOf_above_va {w : Word} : bitsOf w 63 56 ≠ 0 ↔ 2 ^ 56 ≤ w.toNat := by
  have hw := w.isLt
  unfold bitsOf
  omega

/-- What reading a record of 64 bytes issues (R235): its read, or at once the verdict that the address is refused. -/
def State.issueRecord (s : State) (t : TIn) (r : Req) : State :=
  if t.a.toNat % 64 ≠ 0 ∨ bitsOf t.a 63 56 ≠ 0 then s.issueOr t { r with phase := .done, res := 2 ^ 32 } true
  else s.issueOr t { r with pieces := [Piece.mk1 (.virt t.a.toNat) 9 64 0 0 0 0] } true

theorem recordRead_of_exec {s : State} {i : Instr} {t : TIn} {r : Req} (hx : exec i s = .next (s.issueRecord t r))
    (hh : s.holds t r.cls true = none) : Claims.recordRead s i t r := by
  refine ⟨fun ha hv => ?_, fun h => ?_⟩
  · rw [hx, State.issueRecord, if_neg (by rw [bitsOf_above_va]; omega)]; exact congrArg _ (issueOr_of_free hh)
  · rw [hx, State.issueRecord, if_pos (h.imp id bitsOf_above_va.mpr)]; exact congrArg _ (issueOr_of_free hh)

theorem runTender_go {s : State} {i : Instr} {f : Fields} {h : Shape} {g p c : Nat} (mk : Nat → ReqOp) (hI : Issues s i h g p c)
    (hf : f = fieldsOfInstr i) : runTender i f s mk = s.issueRecord (issueIn s i h g p c)
      { s.taskReq (issueIn s i h g p c) .ld (mk g) with d := (issueIn s i h g p c).f.d.toNat, ea := (issueIn s i h g p c).a.toNat } := by
  rw [runTender, beginTask_go_noBad hI hf]
  rfl

/-- An instruction that does no more than issue a request, where nothing holds it. -/
theorem exec_of_issueOr {s : State} {i : Instr} {f : Fields} {h : Shape} {g p c : Nat} {mem : Bool} (mk : TIn → Req) (hI : Issues s i h g p c)
    (hf : f = fieldsOfInstr i) (hx : exec i s = .next ((beginTask i f s noBad).run (fun t => s.issueOr t (mk t) mem)))
    (hh : s.holds (issueIn s i h g p c) (mk (issueIn s i h g p c)).cls mem = none) :
    exec i s = .next (s.issue (issueIn s i h g p c) (mk (issueIn s i h g p c))) := by
  rw [hx, beginTask_go_noBad hI hf, Began.run_go, issueOr_of_free hh]

theorem jobAndTenderIssues_requests : Claims.PartJobAndTenderIssues := by
  rintro s i f h g p c t hI rfl
  refine ⟨?_, ?_, ?_, ?_, ?_, ?_, ?_⟩
  · rintro rfl hh
    refine recordRead_of_exec ?_ hh
    have hb := beginTask_go_noBad (f := f) hI rfl
    show execJobSpawn f s = _
    simp only [execJobSpawn, hb, bitsOf_low]
    rfl
  · rintro rfl hh
    refine recordRead_of_exec ?_ hh
    exact congrArg _ (runTender_go (f := f) _ hI rfl)
  · rintro f2 f4 f5 rfl hh hf
    refine recordRead_of_exec ?_ hh
    have hx := runTender_go (f := f) (fun g => let (f2, f4, f5) := s.f245 g; .tndCost f2 f4 f5) hI rfl
    rw [hf] at hx
    exact congrArg _ hx
  · rintro rfl hh
    rw [exec_of_issueOr (fun t => s.taskReq t .st (.jobJoin (bitsOf t.a 31 0))) hI rfl rfl hh, bitsOf_low]
  · rintro rfl hh
    rw [exec_of_issueOr (fun t => s.taskReq t .st (.sig t.a (bitsOf t.b 15 0))) hI rfl rfl hh, bitsOf_low]
  · rintro rfl hh
    rw [exec_of_issueOr (fun t => { s.taskReq t .ld (.tndWd (bitsOf t.a 15 0)) with d := t.f.d.toNat }) hI rfl rfl hh, bitsOf_low]
  · rintro rfl hh
    rw [exec_of_issueOr (fun t => { s.taskReq t .ld (.tndSt (bitsOf t.a 15 0)) with d := t.f.d.toNat }) hI rfl rfl hh, bitsOf_low]

end Sys2Proof.Machine
end

section
namespace Sys2Proof.Machine
open State

/-! What a region that completes leaves on its tiles (O43): every task processor is as it was. -/

/-- Every task processor of every tile is as it was. -/
structure SameTps (s s' : State) : Prop where
  tps : ∀ g, (s'.tile g).tps = (s.tile g).tps

theorem SameTps.refl (s : State) : SameTps s s := ⟨fun _ => rfl⟩

theorem SameTps.trans {s s' s'' : State} (h : SameTps s s') (h' : SameTps s' s'') : SameTps s s'' := ⟨fun g => (h'.tps g).trans (h.tps g)⟩

theorem sameTps_of_tiles {s s' : State} (h : s'.tiles = s.tiles) : SameTps s s' := ⟨fun g => by simp only [State.tile, h]⟩

theorem SameTps.ite {s a b : State} {c : Prop} [Decidable c] (ha : SameTps s a) (hb : SameTps s b) : SameTps s (if c then a else b) := by
  split_ifs
  · exact ha
  · exact hb

theorem SameTps.ctx {s s' : State} (h : SameTps s s') (g p c : Nat) : s'.ctx g p c = s.ctx g p c := by
  simp only [State.ctx, State.tp, Tile.tp, h.tps g]

theorem SameTps.allEnded {s s' : State} (h : SameTps s s') (r : Region) : s'.allEnded r = s.allEnded r := by
  simp only [State.allEnded, h.tps]

theorem sameTps_updTile (s : State) (g : Nat) {f : Tile → Tile} (hf : ∀ t, (f t).tps = t.tps) : SameTps s (s.updTile g f) :=
  ⟨fun h => tile_updTile_keep (·.tps) s g h f hf⟩

theorem sameTps_updReg (s : State) (i : Nat) (f : Region → Region) : SameTps s (s.updReg i f) := sameTps_of_tiles (by simp)

/-- A fold of steps that keep the task processors keeps them. -/
theorem sameTps_foldl {α : Type} {f : State → α → State} (hf : ∀ s a, SameTps s (f s a)) (l : List α) (s : State) : SameTps s (l.foldl f s) := by
  induction l generalizing s with
  | nil => exact .refl _
  | cons a l ih => exact (hf s a).trans (ih _)

theorem sameTps_rollWindow (s : State) (u : Nat) : SameTps s (s.rollWindow u) := by
  unfold State.rollWindow
  dsimp only
  split_ifs <;> exact sameTps_of_tiles rfl

theorem sameTps_lasting (s : State) (u : Nat) : SameTps s (s.lasting u) := by
  unfold State.lasting
  dsimp only
  split_ifs <;> exact sameTps_of_tiles rfl

theorem sameTps_bumpFleet (s : State) (g k n : Nat) : SameTps s (s.bumpFleet g k n) := sameTps_updTile s g (fun _ => rfl)

theorem sameTps_unitError (s : State) (u : Nat) : SameTps s (s.unitError u) := by
  unfold State.unitError
  lift_lets
  extract_lets t n ethr t' t''
  have h' : SameTps s t' := (sameTps_rollWindow s u).trans (sameTps_of_tiles rfl)
  have h'' : SameTps s t'' := (h'.trans (sameTps_bumpFleet ..)).ite h'
  exact (h''.trans (sameTps_lasting ..)).ite h''

theorem sameTps_blockError (s : State) (pa : Nat) : SameTps s (s.blockError pa)  := by
  unfold State.blockError
  extract_lets a t
  have ht : SameTps s t := sameTps_of_tiles rfl
  exact (ht.trans (sameTps_unitError ..)).trans (sameTps_of_tiles rfl)

theorem sameTps_checkRecord (s : State) (g i cls detail addr unit phys : Nat) : SameTps s (s.checkRecord g i cls detail addr unit phys) := by
  unfold State.checkRecord State.sendCheck State.foundAt
  split_ifs <;> exact sameTps_of_tiles rfl

theorem sameTps_markLeaf (s : State) (l : Leaf) (wr : Bool) : SameTps s (s.markLeaf l wr).2 := by
  unfold State.markLeaf
  dsimp only
  split_ifs <;> exact sameTps_of_tiles rfl

theorem sameTps_translate (s : State) (g tenant root va need : Nat) (evict : Bool) : SameTps s (s.translate g tenant root va need evict).2 := by
  unfold State.translate
  lift_lets
  extract_lets t hit wr ps walked
  have hw : SameTps s walked.2 := by
    unfold walked
    dsimp only
    split
    · dsimp only
      refine SameTps.trans ?_ (sameTps_updTile _ g (fun _ => rfl))
      refine SameTps.trans ?_ (sameTps_markLeaf ..)
      exact sameTps_of_tiles rfl
    · exact sameTps_of_tiles rfl
  clear_value walked hit
  split
  · split_ifs
    · exact .refl _
    · exact hw
    · exact .refl _
  · exact hw

theorem sameTps_readVirt (s : State) (g tenant root need fuel va n : Nat) : SameTps s (s.readVirt g tenant root need fuel va n).2 := by
  induction fuel generalizing s va n with
  | zero => exact .refl _
  | succ fuel ih =>
    have ht := sameTps_translate s g tenant root va need false
    generalize hq : s.translate g tenant root va need false = q at ht
    obtain ⟨tr, t⟩ := q
    simp only [State.readVirt, hq]
    split_ifs
    · exact .refl _
    · cases tr with
      | ok l =>
        dsimp only
        split_ifs
        · exact ht
        · split
          · exact ht
          · have hi := ih t (va + min n (l.vbase + l.size - va)) (n - min n (l.vbase + l.size - va))
            split
            · next h => rw [h] at hi; exact ht.trans hi
            · exact ht.trans hi
      | _ => exact ht

theorem sameTps_readSucc (s : State) (r : Region) (g n va : Nat) : SameTps s (s.readSucc r g n va).2 := by
  induction n generalizing s va with
  | zero => exact .refl _
  | succ n ih =>
    have hv := sameTps_readVirt s g r.tenant r.root 1 2 (va % 2 ^ 56) 8
    generalize hq : s.readVirt g r.tenant r.root 1 2 (va % 2 ^ 56) 8 = q at hv
    obtain ⟨v, t⟩ := q
    have hn := hv.trans (ih t (va + 8))
    generalize hq' : t.readSucc r g n (va + 8) = q' at hn
    obtain ⟨l, t'⟩ := q'
    simp only [State.readSucc, hq]
    cases v with
    | fault a l w e => exact hv
    | _ =>
      simp only [hq']
      cases l <;> exact hn

theorem sameTps_decJoin (s : State) (recd : List Word) (handle target : Nat) : SameTps s (s.decJoin recd handle target) := by
  unfold State.decJoin
  dsimp only
  split <;> exact sameTps_of_tiles rfl

theorem sameTps_post (s : State) (q : Nat) (ws : List Word) : SameTps s (s.post q ws) := sameTps_of_tiles rfl

theorem sameTps_takeFree (s : State) : SameTps s s.takeFree.2 := sameTps_of_tiles rfl

theorem sameTps_decAll (s : State) (i g : Nat) (r : Region) (l : List Succ) : SameTps s (s.decAll i g r l) := by
  induction l generalizing s with
  | nil => exact .refl _
  | cons x l ih =>
    refine SameTps.trans ?_ (ih _)
    dsimp only
    cases x with
    | handle h => exact sameTps_decJoin ..
    | lost => exact (sameTps_takeFree s).trans (sameTps_post ..)
    | bad pa => exact (((sameTps_blockError ..).trans (sameTps_checkRecord ..)).trans (sameTps_takeFree _)).trans (sameTps_post ..)

theorem sameTps_pageFault {s s' : State} {inst tenant g role acc va level reason id : Nat} {pte : Word}
    (h : s.pageFault inst tenant g role acc va level reason pte = some (id, s')) : SameTps s s' := by
  unfold State.pageFault at h
  split at h
  · cases h
  · cases h; exact .refl _
  · cases h; exact sameTps_of_tiles rfl

theorem sameTps_relinkWord (s : State) (v pa : Nat) : SameTps s (relinkWord s v pa) := by
  unfold relinkWord
  dsimp only
  split <;> exact sameTps_of_tiles rfl

theorem sameTps_freeReaders (s : State) (v i : Nat) : SameTps s (freeReaders s v i) := by
  unfold freeReaders
  refine SameTps.trans ?_ (sameTps_foldl (fun s pa => sameTps_relinkWord s v pa) ..)
  exact sameTps_of_tiles rfl

theorem sameTps_endRegion (s : State) (i cause status : Nat) : SameTps s (s.endRegion i cause status) := by
  unfold State.endRegion
  split
  · exact .refl _
  · next r _ =>
    extract_lets left openCmbs r' s1 mine s2 late s3 s4 s5 s6 s7 s8 s9
    have h1 : SameTps s s1 := sameTps_foldl (fun s v => sameTps_freeReaders s v i) ..
    have h5 : SameTps s s5 := h1.trans (sameTps_of_tiles rfl)
    have h6 : SameTps s s6 := h5.trans (sameTps_foldl (fun s g => sameTps_updTile s g (fun t => by split_ifs <;> rfl)) ..)
    have h8 : s8.tiles = s6.tiles := by
      unfold s8
      split
      · split_ifs <;> rfl
      · rfl
    have h9 : s9.tiles = s8.tiles := by
      unfold s9
      split
      · split_ifs <;> rfl
      · rfl
    have h : SameTps s s9 := h6.trans (sameTps_of_tiles (h9.trans h8))
    exact (h.trans (sameTps_post ..)).ite h

theorem sameTps_completeRegion (s : State) (i cause status : Nat) : SameTps s (s.completeRegion i cause status) := by
  unfold State.completeRegion
  split
  · exact .refl _
  · next r _ =>
    extract_lets g
    have hr := sameTps_readSucc s r g (bitsOf (r.recd.getD 3 0) 63 56) (bitsOf (r.recd.getD 3 0) 55 0)
    split
    · next l t ht =>
      rw [ht] at hr
      exact (hr.trans (sameTps_endRegion ..)).trans (sameTps_decAll ..)
    · next va level why pte t ht =>
      rw [ht] at hr
      split
      · next id t' hf => exact (hr.trans (sameTps_pageFault hf)).trans (sameTps_updReg ..)
      · exact hr

/-- A region that completes leaves every task processor as it was, and one that does not is untouched: it completes only with every
context ended. -/
theorem tryComplete_cases (s : State) (i : Nat) : SameTps s (s.tryComplete i) ∧
    (s.tryComplete i = s ∨ ∃ r, NMap.find s.regions i = some r ∧ s.allEnded r = true) := by
  unfold State.tryComplete
  split
  · exact ⟨.refl _, .inl rfl⟩
  · next r hr =>
    split_ifs with h
    · exact ⟨sameTps_completeRegion .., .inr ⟨r, hr, h.2.1⟩⟩
    · exact ⟨.refl _, .inl rfl⟩

end Sys2Proof.Machine
end

section
namespace Sys2Proof.Machine
open State

/-! `done` (O43, R237). -/

theorem foldl_pop_vc (l : List Nat) (x : Ctx) : l.foldl Ctx.pop x = { x with vc := (l.foldl Ctx.pop x).vc } := by
  induction l generalizing x with
  | nil => rfl
  | cons k l ih =>
    rw [List.foldl_cons, ih]
    rfl

/-- The context that an issue works on is the one that issues, less the words of its channels. -/
theorem x_issueIn (s : State) (i : Instr) (h : Shape) (g p c : Nat) :
    (issueIn s i h g p c).x = { s.ctx g p c with vc := (issueIn s i h g p c).x.vc } :=
  foldl_pop_vc ..

theorem clear_iff (x : Ctx) : x.clear = true ↔ x.ld = 0 ∧ x.st = 0 ∧ x.cp = 0 ∧ x.tl = 0 := by
  simp [Ctx.clear, and_assoc]

/-- The context that has done its last instruction. -/
def State.endCtx (s : State) (t : TIn) : State :=
  (s.retire t t.x).updCtx t.g t.p t.c (fun x => { x with status := .ended, donest := t.a.setWidth 16 })

/-- The region keeps its first status that is not 0. -/
def Region.keepStatus (r : Region) (st : Nat) : Region := { r with status := if r.status = 0 then st else r.status }

/-- The refusal of `done` (R237): a status that belongs to the machine. -/
def doneBad : Ctx → Word → Word → Nat := fun _ a _ => nine (decide (0xFF00 ≤ bitsOf a 15 0))

theorem doneBad_of_lt {x : Ctx} {a b : Word} (h : a.toNat % 2 ^ 16 < 0xFF00) : doneBad x a b = 0 :=
  nine_of_not (decide_eq_false (by rw [bitsOf_low]; omega))

theorem doneBad_of_le {x : Ctx} {a b : Word} (h : 0xFF00 ≤ a.toNat % 2 ^ 16) : doneBad x a b = 9 :=
  nine_of (decide_eq_true (by rw [bitsOf_low]; exact h))

theorem exec_done (f : Fields) (s : State) : exec (.iDone f) s = .next (match beginTask (.iDone f) f s doneBad with
    | .stop s => s
    | .go t =>
      if !t.x.clear then (s.block t.g t.p t.c .blkDone).updCtx t.g t.p t.c (fun x => { x with donest := t.a.setWidth 16 })
      else match ((s.endCtx t).tile t.g).inst with
        | some i => ((s.endCtx t).updReg i (fun r => r.keepStatus (t.a.setWidth 16).toNat)).tryComplete i
        | none => s.endCtx t) := rfl

@[simp] theorem inst_endCtx (s : State) (t : TIn) (g : Nat) : ((s.endCtx t).tile g).inst = (s.tile g).inst := by
  simp [State.endCtx, State.retire]

theorem ctx_endCtx (s : State) (t : TIn) : (s.endCtx t).ctx t.g t.p t.c =
    { t.x.issued (t.x.skip && t.x.steward) with status := .ended, donest := t.a.setWidth 16 } := by
  rw [State.endCtx, ctx_updCtx_same, (retireFrame s t t.x).2.2.1]
  rfl

/-- The region of a context that ends: its watchdog starts again. -/
theorem find_endCtx {s : State} {t : TIn} {j : Nat} (h : (s.tile t.g).inst = some j) :
    NMap.find (s.endCtx t).regions j = (NMap.find s.regions j).map (fun r => { r with wdg := 0 }) := by
  rw [State.endCtx, updCtx_regions, (retireFrame s t t.x).2.1 j, if_pos h]

/-- The context ends, and its region takes the status. -/
def State.endWith (s : State) (t : TIn) (j : Nat) : State := (s.endCtx t).updReg j (fun r => r.keepStatus (t.a.setWidth 16).toNat)

theorem find_endWith {s : State} {t : TIn} {j : Nat} {q : Region} (h : (s.tile t.g).inst = some j) (hq : NMap.find s.regions j = some q) :
    NMap.find (s.endWith t j).regions j = some ({ q with wdg := 0 }.keepStatus (t.a.setWidth 16).toNat) := by
  rw [State.endWith, find_updReg, if_pos rfl, find_endCtx h, hq]
  rfl

theorem exec_done_ends {s : State} {f : Fields} {h : Shape} {g p c j : Nat} (hI : Issues s (.iDone f) h g p c)
    (ha : (issueIn s (.iDone f) h g p c).a.toNat % 2 ^ 16 < 0xFF00) (hc : (issueIn s (.iDone f) h g p c).x.clear = true)
    (hj : (s.tile g).inst = some j) : exec (.iDone f) s = .next ((s.endWith (issueIn s (.iDone f) h g p c) j).tryComplete j) := by
  have hj' : (s.tile (issueIn s (.iDone f) h g p c).g).inst = some j := hj
  rw [exec_done, beginTask_go (f := f) (bad := doneBad) hI rfl (doneBad_of_lt ha)]
  simp only [hc, inst_endCtx, hj']
  rfl

theorem exec_done_waits {s : State} {f : Fields} {h : Shape} {g p c : Nat} (hI : Issues s (.iDone f) h g p c)
    (ha : (issueIn s (.iDone f) h g p c).a.toNat % 2 ^ 16 < 0xFF00) (hc : (issueIn s (.iDone f) h g p c).x.clear = false) :
    exec (.iDone f) s = .next ((s.block g p c .blkDone).updCtx g p c
      (fun x => { x with donest := (issueIn s (.iDone f) h g p c).a.setWidth 16 })) := by
  rw [exec_done, beginTask_go (f := f) (bad := doneBad) hI rfl (doneBad_of_lt ha)]
  simp only [hc]
  rfl

/-- A region that its last context leaves short of completing keeps its record, unless all its contexts have ended. -/
theorem find_tryComplete {s : State} {j : Nat} {q r : Region} (hq : NMap.find s.regions j = some q) (hr : q.tiles = r.tiles)
    (h : (s.tryComplete j).allEnded r = false) : NMap.find (s.tryComplete j).regions j = some q := by
  obtain ⟨hs, hno | ⟨q', hq', he⟩⟩ := tryComplete_cases s j
  · rw [hno, hq]
  · cases hq.symm.trans hq'
    rw [hs.allEnded, State.allEnded, ← hr] at h
    exact absurd (he.symm.trans h) (by decide)

/-- `done` (R237), by its three outcomes. -/
theorem doneEnds : Claims.PartDoneEnds := by
  rintro s f h g p c j q t w hI ht hj hq hw
  subst ht
  refine ⟨fun ha hc => ?_, fun ha hc => ?_, fun ha => ?_⟩
  · refine ⟨_, exec_done_ends hI ha ((clear_iff _).mpr hc) hj, ?_⟩
    have hctx : ((s.endWith (issueIn s (.iDone f) h g p c) j).tryComplete j).ctx g p c = (s.endCtx (issueIn s (.iDone f) h g p c)).ctx g p c :=
      ((sameTps_updReg ..).trans (tryComplete_cases ..).1).ctx ..
    rw [hctx.trans (ctx_endCtx s (issueIn s (.iDone f) h g p c))]
    refine ⟨rfl, rfl, (congrArg Ctx.s (x_issueIn s (.iDone f) h g p c) :), fun hn => ⟨_, find_tryComplete (find_endWith hj hq) rfl hn, rfl, ?_⟩⟩
    rw [Region.keepStatus, BitVec.toNat_setWidth]
  · refine ⟨_, exec_done_waits hI ha (Bool.eq_false_iff.mpr (mt (clear_iff _).mp hc)), ?_⟩
    rw [ctx_updCtx_same, State.block, ctx_updCtx_same]
    exact ⟨rfl, rfl, rfl⟩
  · have hb := beginTask_bad (f := f) (bad := doneBad) hI rfl (by rw [doneBad_of_le ha]; decide)
    rw [exec_done, hb, doneBad_of_le ha, hw]
    rfl

/-- Settles O43. -/
theorem jobAndTenderIssues : Obligations.JobAndTenderIssues := ⟨jobAndTenderIssues_requests, doneEnds⟩

end Sys2Proof.Machine
end

section
namespace Sys2Proof.Machine
open State

/-! What the codes of binary8 and E2M1 mean (O15, R45, R47, R49). -/

theorem pow2_den_pos (k : Int) : 0 < (pow2 k).2 := by
  unfold pow2
  split_ifs
  · exact Nat.one_pos
  · exact Nat.two_pow_pos _

/-- The fraction of a power of two, against an exponent written as a difference. -/
theorem pow2_of_sub {k : Int} {i j : Nat} (h : k = i - j) : (pow2 k).1 * 2 ^ j = 2 ^ i * (pow2 k).2 := by
  unfold pow2
  split_ifs
  · have hi : i = k.toNat + j := by omega
    rw [hi, pow_add, Nat.mul_one]
  · have hj : j = i + (-k).toNat := by omega
    rw [hj, pow_add, Nat.one_mul]

theorem isNum_pow2 {k : Int} {i j : Nat} (neg : Bool) (m : Nat) (h : k = i - j) :
    Claims.isNum (.fin neg (m * (pow2 k).1) (pow2 k).2) neg (m * 2 ^ i) j :=
  ⟨_, _, rfl, pow2_den_pos k, by rw [Nat.mul_assoc, pow2_of_sub h, Nat.mul_assoc]⟩

/-- A magnitude code with exponent field 0 is subnormal: its trailing field, scaled. -/
theorem isNum_magOf_subnormal {f : Fmt} {c : Nat} (neg : Bool) (hb : 0 < f.bias) (hx : c / 2 ^ (f.p - 1) = 0) :
    Claims.isNum (.fin neg (f.magOf c).1 (f.magOf c).2) neg (c % 2 ^ (f.p - 1)) (f.bias - 1 + (f.p - 1)) := by
  have hk : (1 : Int) - f.bias - (f.p - 1 : Nat) = (0 : Nat) - (f.bias - 1 + (f.p - 1) : Nat) := by omega
  have h := isNum_pow2 neg (c % 2 ^ (f.p - 1)) hk
  simpa only [Fmt.magOf, hx, if_true, pow_zero, Nat.mul_one] using h

/-- Any other magnitude code has a leading bit before its trailing field. -/
theorem isNum_magOf_normal {f : Fmt} {c : Nat} (neg : Bool) (hx : c / 2 ^ (f.p - 1) ≠ 0) :
    Claims.isNum (.fin neg (f.magOf c).1 (f.magOf c).2) neg
      ((2 ^ (f.p - 1) + c % 2 ^ (f.p - 1)) * 2 ^ (c / 2 ^ (f.p - 1))) (f.bias + (f.p - 1)) := by
  have hk : ((c / 2 ^ (f.p - 1) : Nat) : Int) - f.bias - (f.p - 1 : Nat) = (c / 2 ^ (f.p - 1) : Nat) - (f.bias + (f.p - 1) : Nat) := by omega
  have h := isNum_pow2 neg (2 ^ (f.p - 1) + c % 2 ^ (f.p - 1)) hk
  simpa only [Fmt.magOf, if_neg hx] using h

theorem familyOf_s8 {p : Nat} (ext : Bool) (h1 : 1 ≤ p) (h7 : p ≤ 7) : familyOf ((if ext then 0x20 else 0x10) + p) = .flt (fmtS8 p ext) := by
  have h : ∀ p < 8, 1 ≤ p → ∀ ext, familyOf ((if ext then 0x20 else 0x10) + p) = .flt (fmtS8 p ext) := by decide
  exact h p (by omega) h1 ext

theorem familyOf_u8 {p : Nat} (ext : Bool) (h1 : 1 ≤ p) (h7 : p ≤ 7) : familyOf ((if ext then 0x40 else 0x30) + p) = .flt (fmtU8 p ext) := by
  have h : ∀ p < 8, 1 ≤ p → ∀ ext, familyOf ((if ext then 0x40 else 0x30) + p) = .flt (fmtU8 p ext) := by decide
  exact h p (by omega) h1 ext

/-- A code of signed binary8: NaN, an infinity of the extended form, or the magnitude of its low 7 bits with a sign. -/
theorem decodeFmt_s8 {p c : Nat} (ext : Bool) (h1 : 1 ≤ p) (h7 : p ≤ 7) (hc : c < 256) : decodeFmt ((if ext then 0x20 else 0x10) + p) c =
    if c = 0x80 then .nan
    else if ext = true ∧ c % 128 = 0x7F then .inf (decide (128 ≤ c))
    else .fin (decide (128 ≤ c)) ((fmtS8 p ext).magOf (c % 128)).1 ((fmtS8 p ext).magOf (c % 128)).2 := by
  have hc' : c % 256 = c := Nat.mod_eq_of_lt hc
  rw [decodeFmt, familyOf_s8 ext h1 h7]
  cases ext <;> simp [Fmt.decode, fmtS8, hc']

/-- A code of unsigned binary8: NaN, the infinity of the extended form, or its magnitude. -/
theorem decodeFmt_u8 {p c : Nat} (ext : Bool) (h1 : 1 ≤ p) (h7 : p ≤ 7) (hc : c < 256) : decodeFmt ((if ext then 0x40 else 0x30) + p) c =
    if c = 0xFF then .nan
    else if ext = true ∧ c = 0xFE then .inf false
    else .fin false ((fmtU8 p ext).magOf c).1 ((fmtU8 p ext).magOf c).2 := by
  have hc' : c % 256 = c := Nat.mod_eq_of_lt hc
  rw [decodeFmt, familyOf_u8 ext h1 h7]
  cases ext <;> simp [Fmt.decode, fmtU8, hc']

/-- The trailing field of signed binary8 lies below the sign bit. -/
theorem mod_128_mod_trailing {p : Nat} (c : Nat) (h7 : p ≤ 7) : c % 128 % 2 ^ (p - 1) = c % 2 ^ (p - 1) :=
  Nat.mod_mod_of_dvd c (Nat.pow_dvd_pow 2 (show p - 1 ≤ 7 by omega))

/-- Twice the magnitude of each E2M1 code, as the table of R49 has it. -/
theorem e2m1_magnitudes : ∀ x < 8, ∀ m, [0, 1, 2, 3, 4, 6, 8, 12][x]? = some m →
    0 < (fmtE2m1.magOf x).2 ∧ (fmtE2m1.magOf x).1 * 2 = m * (fmtE2m1.magOf x).2 := by
  have h : ∀ x < 8, 0 < (fmtE2m1.magOf x).2 ∧
      [0, 1, 2, 3, 4, 6, 8, 12][x]? = some ((fmtE2m1.magOf x).1 * 2 / (fmtE2m1.magOf x).2) ∧
      (fmtE2m1.magOf x).2 ∣ (fmtE2m1.magOf x).1 * 2 := by decide
  intro x hx m hm
  obtain ⟨hpos, hq, hd⟩ := h x hx
  obtain rfl := Option.some.inj (hm.symm.trans hq)
  exact ⟨hpos, (Nat.div_mul_cancel hd).symm⟩

theorem decodeFmt_e2m1 {c : Nat} (hc : c < 16) : decodeFmt 0x50 c = .fin (decide (8 ≤ c)) (fmtE2m1.magOf (c % 8)).1 (fmtE2m1.magOf (c % 8)).2 := by
  have hc' : c % 2 ^ 4 = c := Nat.mod_eq_of_lt hc
  show fmtE2m1.decode c = _
  simp only [Fmt.decode, fmtE2m1, hc']
  rfl

/-- Settles O15. -/
theorem numberFormats : Obligations.NumberFormats := by
  refine ⟨fun p c ext h1 h7 hc => ?_, fun p c ext h1 h7 hc => ?_, fun c m hc hm => ?_⟩
  · intro v neg x t bias
    rw [show v = _ from decodeFmt_s8 ext h1 h7 hc, show t = _ from (mod_128_mod_trailing c h7).symm]
    split_ifs with hnan hinf hx
    · rfl
    · rfl
    · exact isNum_magOf_subnormal (f := fmtS8 p ext) neg (Nat.two_pow_pos _) hx
    · exact isNum_magOf_normal (f := fmtS8 p ext) neg hx
  · intro v x t bias
    rw [show v = _ from decodeFmt_u8 ext h1 h7 hc]
    split_ifs with hnan hinf hx
    · rfl
    · rfl
    · exact isNum_magOf_subnormal (f := fmtU8 p ext) false (Nat.two_pow_pos _) hx
    · exact isNum_magOf_normal (f := fmtU8 p ext) false hx
  · obtain ⟨hpos, hmag⟩ := e2m1_magnitudes (c % 8) (Nat.mod_lt _ (by decide)) m hm
    exact ⟨_, _, decodeFmt_e2m1 hc, hpos, hmag⟩

end Sys2Proof.Machine
end

section
namespace Sys2Proof.Machine
open State

/-! Firings whose function gives results or refuses an operand value, from what `runElem` does with either. -/

section
variable {s : State} {i : Instr} {h : Shape} {r : Fire} {g e : Nat}
variable {fn : State → Nat → Nat → Elem → Fire → Val → Val → Val → Except (Nat × Word) (State × List Out)}

theorem gives_of_ok {os : List Out} (hF : Fires s i h r g e) (hx : exec i s = .next (runElem i s (fun _ => false) fn))
    (hfn : fn s g e (s.elem g e) r (Claims.va s r g e) (Claims.vb s r g e) (Claims.vc s r g e) = .ok (s, os)) :
    Claims.gives s i h r g e os := by
  obtain ⟨hsite, hcur, hshape, -, hbad⟩ := hF
  exact hx.trans (congrArg _ (runElem_ok hsite hcur hshape hbad hfn))

theorem refuses_of_error {cause : Nat} {v : Word} (hF : Fires s i h r g e) (hx : exec i s = .next (runElem i s (fun _ => false) fn))
    (hfn : fn s g e (s.elem g e) r (Claims.va s r g e) (Claims.vb s r g e) (Claims.vc s r g e) = .error (cause, v)) :
    Claims.refuses s i h r g e cause v := by
  obtain ⟨hsite, hcur, hshape, -, hbad⟩ := hF
  exact hx.trans (congrArg _ (runElem_error hsite hcur hshape hbad hfn))

end

/-- An operand at the firing's width, as a number (R194). -/
theorem toNat_opnd (r : Fire) (v : Val) : (r.opnd v).toNat = Claims.num r v := by
  unfold Fire.opnd Claims.num
  split_ifs
  · rw [BitVec.toNat_setWidth_of_le (by decide), BitVec.toNat_setWidth]
  · rfl

/-! The tree of R66. -/

theorem length_pairUp {α : Type} (op : α → α → α) (l : List α) : (pairUp op l).length = (l.length + 1) / 2 := by
  induction l using pairUp.induct with
  | case1 a b l ih => simp only [pairUp, List.length_cons, ih]; omega
  | case2 l h =>
    match l, h with
    | [], _ => simp [pairUp]
    | [a], _ => simp [pairUp]
    | a :: b :: l, h => exact absurd rfl (h a b l)

/-- `w` is the first of the greatest elements of a list by the measure `v`. -/
def Leads {α : Type} (v : α → Int) (w : α) : List α → Prop
  | [] => False
  | x :: l => (x = w ∧ ∀ y ∈ l, v y ≤ v w) ∨ (v x < v w ∧ Leads v w l)

/-- The later of two elements wins only by more (R213). -/
def later {α : Type} (v : α → Int) (x y : α) : α := if v x < v y then y else x

theorem later_eq_left {α : Type} {v : α → Int} {x y : α} (h : v y ≤ v x) : later v x y = x := if_neg (by omega)
theorem later_eq_right {α : Type} {v : α → Int} {x y : α} (h : v x < v y) : later v x y = y := if_pos h

theorem later_cases {α : Type} (v : α → Int) (x y : α) : later v x y = x ∨ later v x y = y := by
  unfold later
  split_ifs
  · exact .inr rfl
  · exact .inl rfl

theorem mem_pairUp_later {α : Type} {v : α → Int} {y : α} {l : List α} (h : y ∈ pairUp (later v) l) : y ∈ l := by
  induction l using pairUp.induct with
  | case1 a b l ih =>
    rcases List.mem_cons.mp h with rfl | h
    · rcases later_cases v a b with hab | hab <;> simp [hab]
    · simp [ih h]
  | case2 l hl => rwa [pairUp.eq_2 _ _ hl] at h

/-- One level of the tree keeps the leader. -/
theorem Leads.pairUp {α : Type} {v : α → Int} {w : α} {l : List α} (h : Leads v w l) : Leads v w (pairUp (later v) l) := by
  induction l using pairUp.induct with
  | case1 a b l ih =>
    rw [Machine.pairUp]
    rcases h with ⟨rfl, hle⟩ | ⟨ha, ⟨rfl, hle⟩ | ⟨hb, hl⟩⟩
    · exact .inl ⟨later_eq_left (hle b (by simp)), fun y hy => hle y (by simp [mem_pairUp_later hy])⟩
    · exact .inl ⟨later_eq_right ha, fun y hy => hle y (mem_pairUp_later hy)⟩
    · exact .inr ⟨by rcases later_cases v a b with hab | hab <;> rwa [hab], ih hl⟩
  | case2 l hl => rwa [pairUp.eq_2 _ _ hl]

theorem Leads.eq_singleton {α : Type} {v : α → Int} {w : α} {l : List α} (h : Leads v w l) (hn : l.length ≤ 1) : l = [w] := by
  cases l with
  | nil => exact h.elim
  | cons x l =>
    obtain rfl : l = [] := List.eq_nil_of_length_eq_zero (by simpa using hn)
    rcases h with ⟨rfl, -⟩ | ⟨-, h⟩
    · rfl
    · exact h.elim

/-- Over up to 32 lanes the five levels of the tree end with the leader. -/
theorem treeReduce_of_leads {α : Type} {v : α → Int} {w : α} {l : List α} (d : α) (hn : l.length ≤ 32) (h : Leads v w l) :
    treeReduce (later v) d l = w := by
  rw [treeReduce, h.pairUp.pairUp.pairUp.pairUp.pairUp.eq_singleton (by simp only [length_pairUp]; omega)]
  rfl

theorem numbered_eq_zipIdx (l : List Lane) (n : Nat) : numbered l n = l.zipIdx n := by
  induction l generalizing n with
  | nil => rfl
  | cons x l ih => rw [numbered, ih, List.zipIdx_cons]

/-- The first of the greatest lanes leads the numbered lanes. -/
theorem leads_zipIdx {v : Lane → Int} {x : Lane} {l : List Lane} {k : Nat} (n : Nat) (hx : l[k]? = some x)
    (hle : ∀ (j : Nat) (y : Lane), l[j]? = some y → v y ≤ v x) (hlt : ∀ (j : Nat) (y : Lane), j < k → l[j]? = some y → v y < v x) :
    Leads (fun p => v p.1) (x, n + k) (l.zipIdx n) := by
  induction l generalizing k n with
  | nil => cases hx
  | cons a l ih =>
    rw [List.zipIdx_cons]
    cases k with
    | zero =>
      cases hx
      refine .inl ⟨rfl, fun p hp => ?_⟩
      obtain ⟨j, hj⟩ := List.mem_iff_getElem?.mp (List.fst_mem_of_mem_zipIdx hp)
      exact hle (j + 1) _ hj
    | succ k =>
      refine .inr ⟨hlt 0 a (by omega) rfl, ?_⟩
      rw [show n + (k + 1) = n + 1 + k by omega]
      exact ih (n + 1) hx (fun j y hj => hle (j + 1) y hj) (fun j y hk hj => hlt (j + 1) y (by omega) hj)

theorem beats_int {t : Nat} (ht : t ≠ 0) (y x : Lane) : beats t y x = decide (laneInt t x < laneInt t y) := if_neg ht

/-- `argmx` over integers answers the first of the greatest lanes and its number (R213). -/
theorem treeReduce_beats {t k : Nat} {x : Lane} {l : List Lane} (ht : t ≠ 0) (hn : l.length ≤ 32) (hx : l[k]? = some x)
    (hle : ∀ (j : Nat) (y : Lane), l[j]? = some y → laneInt t y ≤ laneInt t x)
    (hlt : ∀ (j : Nat) (y : Lane), j < k → l[j]? = some y → laneInt t y < laneInt t x) :
    treeReduce (fun x y => if beats t y.1 x.1 then y else x) (0, 0) (numbered l 0) = (x, k) := by
  have hop : (fun x y : Lane × Nat => if beats t y.1 x.1 then y else x) = later (fun p => laneInt t p.1) := by
    funext x y
    simp only [beats_int ht, decide_eq_true_eq, later]
  have hl := leads_zipIdx 0 hx hle hlt
  rw [Nat.zero_add] at hl
  rw [hop, numbered_eq_zipIdx]
  exact treeReduce_of_leads _ (by rwa [List.length_zipIdx]) hl

/-! Scans (R67). -/

theorem length_scanFrom (op : Lane → Lane → Lane) (x : Lane) (l : List Lane) : (scanFrom op x l).length = l.length + 1 := by
  induction l generalizing x with
  | nil => rfl
  | cons y l ih => rw [scanFrom, List.length_cons, ih, List.length_cons]

theorem getElem?_scanFrom_zero (op : Lane → Lane → Lane) (x : Lane) (l : List Lane) : (scanFrom op x l)[0]? = some x := by
  cases l <;> rfl

/-- Each running value is the one before it, joined with its lane. -/
theorem getElem?_scanFrom_succ {op : Lane → Lane → Lane} {x y z : Lane} {l : List Lane} {k : Nat} (hy : (scanFrom op x l)[k]? = some y)
    (hz : l[k]? = some z) : (scanFrom op x l)[k + 1]? = some (op y z) := by
  induction l generalizing x k with
  | nil => cases hz
  | cons a l ih =>
    rw [scanFrom, List.getElem?_cons_succ]
    cases k with
    | zero =>
      cases hy
      cases hz
      exact getElem?_scanFrom_zero ..
    | succ k => exact ih hy hz

/-! The instructions of R213 and `amax`, fired (O28). -/

section
variable {s : State} {i : Instr} {h : Shape} {r : Fire} {g e : Nat}

/-- The integer fold of a reduction over at least one lane. -/
def foldInt (t : Nat) (int : Int → Int → Int) (x : Lane) (l : List Lane) : Int := (l.map (laneInt t)).foldl int (laneInt t x)

theorem exec_reduce {fp : Lane → Lane → Lane} {int : Int → Int → Int} (hop : Claims.reduceOp i = some (fp, int)) :
    exec i s = .next (runReduce i s fp int) := by
  unfold Claims.reduceOp at hop
  split at hop <;> cases hop <;> rfl

theorem reduce_gives_float {fp : Lane → Lane → Lane} {int : Int → Int → Int} (hF : Fires s i h r g e)
    (hop : Claims.reduceOp i = some (fp, int)) (ht : Claims.num r (Claims.vb s r g e) = 0) :
    Claims.gives s i h r g e [.a (Claims.sc r ((canon32 (treeReduce fp 0 (Claims.va s r g e).lanes)).setWidth 64))] := by
  refine gives_of_ok hF (exec_reduce hop) ?_
  simp only [toNat_opnd, ht]
  rfl

theorem reduce_gives_int {fp : Lane → Lane → Lane} {int : Int → Int → Int} {x : Lane} {l : List Lane} (hF : Fires s i h r g e)
    (hop : Claims.reduceOp i = some (fp, int)) (ht : Claims.num r (Claims.vb s r g e) ≠ 0) (ht' : Claims.num r (Claims.vb s r g e) ≤ 2)
    (hl : (Claims.va s r g e).lanes = x :: l) :
    Claims.gives s i h r g e [.a (Claims.sc r (BitVec.ofInt 64 (foldInt (Claims.num r (Claims.vb s r g e)) int x l)))] := by
  refine gives_of_ok hF (exec_reduce hop) ?_
  simp only [toNat_opnd, hl, if_neg (not_lt.mpr ht'), if_neg ht]
  rfl

theorem reduce_refuses (hF : Fires s i h r g e) (hop : (Claims.reduceOp i).isSome) (ht : 2 < Claims.num r (Claims.vb s r g e)) :
    Claims.refuses s i h r g e 0x40 (Claims.vb s r g e).scal := by
  obtain ⟨⟨fp, int⟩, hop⟩ := Option.isSome_iff_exists.mp hop
  refine refuses_of_error hF (exec_reduce hop) ?_
  simp only [toNat_opnd, if_pos ht]

/-- The lanes of a scan by its type (R67, R213). -/
def scanned (t : Nat) (x : Lane) (l : List Lane) : List Lane :=
  if t = 0 then scanFrom f32add (canon32 x) l else scanFrom (· + ·) x l

theorem length_scanned (t : Nat) (x : Lane) (l : List Lane) : (scanned t x l).length = l.length + 1 := by
  unfold scanned
  split_ifs <;> exact length_scanFrom ..

theorem getElem?_scanned_zero (t : Nat) (x : Lane) (l : List Lane) : (scanned t x l)[0]? = some (if t = 0 then canon32 x else x) := by
  unfold scanned
  split_ifs <;> exact getElem?_scanFrom_zero ..

theorem getElem?_scanned_succ {t k : Nat} {x y z : Lane} {l : List Lane} (hy : (scanned t x l)[k]? = some y) (hz : l[k]? = some z) :
    (scanned t x l)[k + 1]? = some (if t = 0 then f32add y z else y + z) := by
  unfold scanned at hy ⊢
  split_ifs at hy ⊢ <;> exact getElem?_scanFrom_succ hy hz

theorem vscan_gives {f : Fields} {x : Lane} {l : List Lane} (hF : Fires s (.iVscan f) h r g e)
    (ht : Claims.num r (Claims.vb s r g e) ≤ 2) (hl : (Claims.va s r g e).lanes = x :: l) :
    Claims.gives s (.iVscan f) h r g e [.a (Tok.vec r.thread r.iter (scanned (Claims.num r (Claims.vb s r g e)) x l)
      (firstIdx (Claims.va s r g e) (Claims.vb s r g e) (.sc 0)))] := by
  refine gives_of_ok hF rfl ?_
  simp only [toNat_opnd, hl, if_neg (not_lt.mpr ht)]
  rfl

theorem vscan_refuses {f : Fields} (hF : Fires s (.iVscan f) h r g e) (ht : 2 < Claims.num r (Claims.vb s r g e)) :
    Claims.refuses s (.iVscan f) h r g e 0x40 (Claims.vb s r g e).scal := by
  refine refuses_of_error hF rfl ?_
  simp only [toNat_opnd, if_pos ht]

theorem firstIdx_scalar_right (a b : Val) (w : Word) : firstIdx a b (.sc w) = if a.idx ≠ [] then a.idx else b.idx := by
  unfold firstIdx
  split_ifs with ha hb
  · rfl
  · rfl
  · exact (not_ne_iff.mp hb).symm

/-- A lane is not 0 exactly where its number is not. -/
theorem length_filter_ne_zero (l : List Lane) : (l.filter (· != 0)).length = l.countP (fun x => decide (x.toNat ≠ 0)) := by
  rw [← List.countP_eq_length_filter]
  refine List.countP_congr fun x _ => ?_
  rw [bne_iff_ne, decide_eq_true_eq]
  exact not_congr BitVec.toNat_inj.symm

theorem vcnt_gives {f : Fields} (hF : Fires s (.iVcnt f) h r g e) :
    Claims.gives s (.iVcnt f) h r g e
      [.a (Claims.sc r (BitVec.ofNat 64 ((Claims.va s r g e).lanes.countP (fun x => decide (x.toNat ≠ 0)))))] := by
  refine gives_of_ok hF rfl ?_
  rw [← length_filter_ne_zero]
  rfl

/-- The winner of `argmx` with its lane. -/
def argmxWin (t : Nat) (l : List Lane) : Lane × Nat := treeReduce (fun x y => if beats t y.1 x.1 then y else x) (0, 0) (numbered l 0)

theorem argmx_gives {f : Fields} {w : Lane × Nat} (hF : Fires s (.iArgmx f) h r g e) (ht : Claims.num r (Claims.vb s r g e) ≤ 2)
    (hw : argmxWin (Claims.num r (Claims.vb s r g e)) (Claims.va s r g e).lanes = w) :
    Claims.gives s (.iArgmx f) h r g e
      [.a (Claims.sc r (if Claims.num r (Claims.vb s r g e) = 0 then (canon32 w.1).setWidth 64
        else BitVec.ofInt 64 (laneInt (Claims.num r (Claims.vb s r g e)) w.1))),
       .b (Claims.sc r (BitVec.ofNat 64 w.2))] := by
  subst hw
  refine gives_of_ok hF rfl ?_
  simp only [toNat_opnd, if_neg (not_lt.mpr ht)]
  rfl

theorem argmx_refuses {f : Fields} (hF : Fires s (.iArgmx f) h r g e) (ht : 2 < Claims.num r (Claims.vb s r g e)) :
    Claims.refuses s (.iArgmx f) h r g e 0x40 (Claims.vb s r g e).scal := by
  refine refuses_of_error hF rfl ?_
  simp only [toNat_opnd, if_pos ht]

theorem amax_gives {f : Fields} (hF : Fires s (.iAmax f) h r g e) :
    Claims.gives s (.iAmax f) h r g e [.a (Claims.sc r ((amaxOf (Claims.va s r g e).lanes).setWidth 64))] :=
  gives_of_ok hF rfl rfl

end

/-- Settles O28. -/
theorem firingReductions : Obligations.FiringReductions := by
  intro s i h r g e hF a b ls canon ty num
  refine ⟨fun fp int hop => ⟨reduce_gives_float hF hop, fun x l ht hl => ?_⟩, ?_, ?_, ?_, ?_, ?_, ?_⟩
  · exact reduce_gives_int hF hop (show ty ≠ 0 by omega) (show ty ≤ 2 by omega) hl
  · rintro f x l rfl hl ht
    have hlen : (scanned ty x l).length = ls.length := by rw [length_scanned, hl, List.length_cons]
    refine ⟨scanned ty x l, hlen, ?_, getElem?_scanned_zero .., fun k y z hk hy hz => ?_⟩
    · have hg := vscan_gives hF ht hl
      rw [firstIdx_scalar_right, Tok.vec, show (scanned _ x l).length = ls.length from hlen] at hg
      exact hg
    · rw [hl, List.getElem?_cons_succ] at hz
      exact getElem?_scanned_succ hy hz
  · rintro f rfl
    exact vcnt_gives hF
  · rintro f rfl ht k x hx hn hle hlt
    have h0 : ty ≠ 0 := by omega
    have hg := argmx_gives hF (show ty ≤ 2 by omega) (treeReduce_beats h0 hn hx hle hlt)
    rw [if_neg h0] at hg
    exact hg
  · rintro f rfl ht w
    have hw : argmxWin ty ls = w := by
      rw [ht, argmxWin, numbered_eq_zipIdx]
      rfl
    have hg := argmx_gives hF (show ty ≤ 2 by omega) hw
    rw [if_pos ht] at hg
    exact hg
  · rintro (hop | ⟨f, rfl⟩ | ⟨f, rfl⟩) ht
    · exact reduce_refuses hF hop ht
    · exact vscan_refuses hF ht
    · exact argmx_refuses hF ht
  · rintro f rfl
    exact amax_gives hF

end Sys2Proof.Machine
end

section
namespace Sys2Proof.Machine
open State

/-! The triad instructions of a context (O42): how they begin, how one enters its queue, and what its descriptor passes. -/

/-- A triad instruction that nothing turns away or holds goes on with what it works on. -/
theorem exec_of_runSeq {s : State} {i : Instr} {f : Fields} {h : Shape} {g p c : Nat} {bad : Ctx → Word → Word → Nat} {k : Cls}
    {fn : TIn → State} (hx : exec i s = .next (runSeq i f s bad k fn)) (hI : Issues s i h g p c) (hf : f = fieldsOfInstr i)
    (hb : bad (s.ctx g p c) (issueIn s i h g p c).a (issueIn s i h g p c).b = 0) (hh : s.holds (issueIn s i h g p c) k false = none) :
    exec i s = .next (fn (issueIn s i h g p c)) := by
  simp only [hx, runSeq, beginTask_go hI hf hb, hh]

/-- A queue with room takes the operation (R90). -/
theorem enqueue_of_room {s : State} {t : TIn} {hi : Bool} (op : SeqOp) (oth : Nat) (h : (s.tile t.g).triad.entries hi < 8) :
    s.enqueue t hi op oth = Claims.queued s t hi op oth := by
  rw [State.enqueue, if_neg (by omega)]
  cases hi <;> rfl

/-- A full queue blocks the context (R90). -/
theorem enqueue_of_full {s : State} {t : TIn} {hi : Bool} (op : SeqOp) (oth : Nat) (h : 8 ≤ (s.tile t.g).triad.entries hi) :
    s.enqueue t hi op oth = s.block t.g t.p t.c (.blkEngine (.queue hi)) := if_pos h

/-- A register that holds a per-tensor scale of the descriptor is still to be written (R73, R357). -/
def State.lateScale (s : State) (t : TIn) (d : Desc) (k : Nat) : Prop :=
  (k = d.wsc ∨ k = d.nsc) ∧ k < 24 ∧ s.pendingReg t.g t.p t.c k = true

theorem scaled_of_written {s : State} {t : TIn} {d : Desc} (go : State) (h : ∀ k, ¬ s.lateScale t d k) : s.scaled t d go = go := by
  have hn : [d.wsc, d.nsc].find? (fun k => decide (k < 24) && s.pendingReg t.g t.p t.c k) = none := by
    simpa [State.lateScale] using h
  simp only [State.scaled, hn]

theorem scaled_of_late {s : State} {t : TIn} {d : Desc} {k : Nat} (go : State) (h : s.lateScale t d k) (hu : ∀ j, s.lateScale t d j → j = k) :
    s.scaled t d go = s.block t.g t.p t.c (.blkReg k) := by
  obtain ⟨hk, hlt, hp⟩ := h
  obtain ⟨j, hj⟩ : ∃ j, [d.wsc, d.nsc].find? (fun k => decide (k < 24) && s.pendingReg t.g t.p t.c k) = some j :=
    Option.isSome_iff_exists.mp (List.find?_isSome.mpr ⟨k, by simpa using hk, by simp [hlt, hp]⟩)
  have hm := List.mem_of_find?_eq_some hj
  have hj' := List.find?_some hj
  obtain rfl : j = k := hu j ⟨by simpa using hm, by simpa using hj'⟩
  simp only [State.scaled, hj]

/-! What `withDesc` does with the descriptor at its offset, which is a[19:0]. -/

section
variable {s : State} {t : TIn} {u : DUse} {d : Desc} {off : Nat} (fn : Desc → State) (hoff : bitsOf t.a 19 0 = off)
include hoff

theorem withDesc_misplaced (h : off % 128 ≠ 0 ∨ 0xC0000 ≤ off) :
    s.withDesc t u fn = s.trapAt t.g t.p t.c 0x54 (BitVec.ofNat 64 off) := by
  simp only [State.withDesc, hoff, if_pos h]

/-- Of a descriptor that can be read and passes the checks of R78 but for its bank, what is left are the checks of R279. -/
theorem withDesc_read {j : Nat} {r : Region} (ha : off % 128 = 0) (ho : off < 0xC0000) (hs : s.storing t.g t.p t.c off 128 = false)
    (hd : d = parseDesc (s.spadWords t.g off 16)) (hr : s.regOf t.g = some (j, r)) (hc : d.check u r = 0) :
    s.withDesc t u fn =
      if d.stream = false ∧ ((s.tile t.g).triad.bank d.bank).state = 2 then s.trapAt t.g t.p t.c 0x55 (BitVec.ofNat 64 d.bank)
      else if u ≠ .hold ∧ (s.tile t.g).triad.mixOk d = false then s.trapAt t.g t.p t.c 0x53 (BitVec.ofNat 64 off)
      else fn d := by
  subst hd
  simp [State.withDesc, hoff, ha, ho, hs, hr, hc]

end

theorem withDesc_ok {s : State} {t : TIn} {u : DUse} {d : Desc} (fn : Desc → State) (h : Claims.descOk s t u d) : s.withDesc t u fn = fn d := by
  obtain ⟨ha, ho, hs, hd, ⟨j, r, hr, hc⟩, hbank, hmix⟩ := h
  rw [withDesc_read fn (bitsOf_low t.a 19) ha ho hs hd hr hc, if_neg, if_neg]
  · rintro ⟨hu, hm⟩
    simp [hu, hm] at hmix
  · rintro ⟨hst, hb⟩
    simp [hst, hb] at hbank

section
variable {s : State} {f : Fields} {h : Shape} {g p c : Nat}

/-- The triad instructions that read a descriptor go on as `withDesc` says (R278, R281, R288). -/
theorem exec_usesDesc {i : Instr} {u : DUse} (hI : Issues s i h g p c) (hh : s.holds (issueIn s i h g p c) .tl false = none)
    (hu : i = .iTriad f ∧ u = .triad ∨ i = .iThold f ∧ u = .hold ∨
      i = .iTrag f ∧ u = .rag ∧ (issueIn s i h g p c).b.toNat / 2 ^ 12 % 4 ≠ 0) :
    ∃ fn, exec i s = .next (s.withDesc (issueIn s i h g p c) u fn) := by
  rcases hu with ⟨rfl, rfl⟩ | ⟨rfl, rfl⟩ | ⟨rfl, rfl, hch⟩
  · exact ⟨_, exec_of_runSeq (f := f) rfl hI rfl rfl hh⟩
  · exact ⟨_, exec_of_runSeq (f := f) rfl hI rfl rfl hh⟩
  · exact ⟨_, exec_of_runSeq (f := f) rfl hI rfl (nine_of_not (by simpa [bitsOf] using hch)) hh⟩

/-- `triad` with a descriptor that passes, its channel or its bank free to it (R278, R71, R91): it waits for its scales alone. -/
theorem exec_triad_ok {d : Desc} (hI : Issues s (.iTriad f) h g p c) (hh : s.holds (issueIn s (.iTriad f) h g p c) .tl false = none)
    (hd : Claims.descOk s (issueIn s (.iTriad f) h g p c) .triad d)
    (hfree : if d.stream = true then ((issueIn s (.iTriad f) h g p c).x.chan d.och).writable = true else (s.tile g).triad.heldBy d.bank = false) :
    let t := issueIn s (.iTriad f) h g p c
    exec (.iTriad f) s = .next (s.scaled t d (s.enqueue t (t.b.getLsbD 0) (.triad d (t.scale d.wsc) (t.scale d.nsc)) d.oth)) := by
  refine (exec_of_runSeq (f := f) rfl hI rfl rfl hh).trans
    (congrArg _ ((withDesc_ok _ hd).trans ((if_neg ?_).trans (if_neg ?_))))
  · rintro ⟨hst, hw⟩
    rw [if_pos hst] at hfree
    exact absurd hfree (by simpa using hw)
  · rintro ⟨hst, hb⟩
    rw [if_neg (by simpa using hst)] at hfree
    exact absurd (hfree.symm.trans hb) (by decide)

/-- `thold` with a descriptor that passes, no open ragged product holding its bank (R281, R91). -/
theorem exec_thold_ok {d : Desc} (hI : Issues s (.iThold f) h g p c) (hh : s.holds (issueIn s (.iThold f) h g p c) .tl false = none)
    (hd : Claims.descOk s (issueIn s (.iThold f) h g p c) .hold d) (hfree : d.stream = true ∨ (s.tile g).triad.heldBy d.bank = false) :
    let t := issueIn s (.iThold f) h g p c
    exec (.iThold f) s = .next (s.enqueue t (t.b.getLsbD 0) (.hold d) d.oth) := by
  refine (exec_of_runSeq (f := f) rfl hI rfl rfl hh).trans (congrArg _ ((withDesc_ok _ hd).trans (if_neg ?_)))
  rintro ⟨hst, hb⟩
  rcases hfree with hs | hf
  · simp [hs] at hst
  · exact absurd (hf.symm.trans hb) (by decide)

/-- `trag` with a descriptor that passes: what is left are the bank's binding and the channel (R288). -/
theorem exec_trag_ok {d : Desc} (hI : Issues s (.iTrag f) h g p c) (hh : s.holds (issueIn s (.iTrag f) h g p c) .tl false = none)
    (hd : Claims.descOk s (issueIn s (.iTrag f) h g p c) .rag d) (hch : (issueIn s (.iTrag f) h g p c).b.toNat / 2 ^ 12 % 4 ≠ 0) :
    let t := issueIn s (.iTrag f) h g p c
    let ch := t.b.toNat / 2 ^ 12 % 4
    exec (.iTrag f) s = .next (
      if (s.tile g).triad.bound d.bank = true then s.trapAt g p c 0x55 (BitVec.ofNat 64 d.bank)
      else if (t.x.chan ch).readable = false then s.illegalAt t 0x0B
      else s.scaled t d (s.enqueue t (t.b.getLsbD 14) (.rag d (t.b.toNat % 2 ^ 12) ch (t.scale d.wsc) (t.scale d.nsc)) d.oth)) := by
  refine (exec_of_runSeq (f := f) rfl hI rfl (nine_of_not (by simpa [bitsOf] using hch)) hh).trans (congrArg _ ((withDesc_ok _ hd).trans ?_))
  simp only [bitsOf_low, Bool.not_eq_true']
  rfl

/-- `tdrain` (R282): a poisoned bank and a bank that has kept no epilogue trap. -/
theorem exec_tdrain (hI : Issues s (.iTdrain f) h g p c) (hh : s.holds (issueIn s (.iTdrain f) h g p c) .tl false = none) :
    let t := issueIn s (.iTdrain f) h g p c
    let b := t.a.toNat % 2
    exec (.iTdrain f) s = .next (
      if ((s.tile g).triad.bank b).state = 2 then s.trapAt g p c 0x55 (BitVec.ofNat 64 b)
      else if (s.tile g).triad.hasEpi b = false then s.trapAt g p c 0x54 (BitVec.ofNat 64 b)
      else s.enqueue t (t.b.getLsbD 0) (.drain b) 0) := by
  refine (exec_of_runSeq (f := f) rfl hI rfl rfl hh).trans ?_
  simp only [bitsOf_low, Bool.not_eq_true']
  rfl

/-- `tzero` (R283): a bank held by an open ragged product is waited for. -/
theorem exec_tzero (hI : Issues s (.iTzero f) h g p c) (hh : s.holds (issueIn s (.iTzero f) h g p c) .tl false = none) :
    let t := issueIn s (.iTzero f) h g p c
    let b := t.a.toNat % 2
    exec (.iTzero f) s = .next (
      if (s.tile g).triad.heldBy b = true then s.block g p c (.blkEngine (.bank b)) else s.enqueue t (t.b.getLsbD 0) (.zero b) 0) := by
  refine (exec_of_runSeq (f := f) rfl hI rfl rfl hh).trans ?_
  simp only [bitsOf_low]
  rfl

/-- `tscl` of a vector at an aligned offset inside a side (R283). -/
theorem exec_tscl (hI : Issues s (.iTscl f) h g p c) (hh : s.holds (issueIn s (.iTscl f) h g p c) .tl false = none) {off : Nat}
    (hoff : bitsOf (issueIn s (.iTscl f) h g p c).a 19 0 = off) (ha : off % 128 = 0) (ho : off < 0xC0000)
    (hv : (issueIn s (.iTscl f) h g p c).b.toNat % 4 ≠ 3) :
    let t := issueIn s (.iTscl f) h g p c
    exec (.iTscl f) s = .next (s.enqueue t (t.b.getLsbD 2) (.scl off (t.b.toNat % 4)) 0) := by
  refine (exec_of_runSeq (f := f) rfl hI rfl (nine_of_not ?_) hh).trans (congrArg _ ((if_neg ?_).trans ?_))
  · rw [hoff, bitsOf_low]
    simpa [ha] using hv
  · rw [hoff]
    omega
  · rw [hoff, bitsOf_low]
    rfl

theorem exec_tabort (hI : Issues s (.iTabort f) h g p c) (hh : s.holds (issueIn s (.iTabort f) h g p c) .tl false = none) :
    let t := issueIn s (.iTabort f) h g p c
    exec (.iTabort f) s = .next (s.enqueue t (t.a.getLsbD 0) .abort 0) :=
  exec_of_runSeq (f := f) rfl hI rfl rfl hh

end

theorem triadQueues : Claims.PartTriadQueues := by
  rintro s i f h g p c t hI rfl hh q bank off sc free trap engine late
  have hoff : bitsOf (issueIn s i h g p c).a 19 0 = off := bitsOf_low ..
  refine ⟨?_, ?_, ?_, ?_, ?_, ?_, ?_, ?_, ?_, ?_, ?_, ?_, ?_, ?_, ?_, ?_⟩
  · rintro d rfl hd hlate hfree hroom
    exact (exec_triad_ok hI hh hd hfree).trans (congrArg _ ((scaled_of_written (s := s) (t := issueIn s _ h g p c) _ hlate).trans (enqueue_of_room _ _ hroom)))
  · rintro d k rfl hd hfree hk hu
    exact (exec_triad_ok hI hh hd hfree).trans (congrArg _ (scaled_of_late (s := s) (t := issueIn s _ h g p c) _ hk hu))
  · rintro d rfl hd hfree hroom
    exact (exec_thold_ok hI hh hd hfree).trans (congrArg _ (enqueue_of_room _ _ hroom))
  · rintro d rfl hd hch hbound hlate hread hroom
    exact (exec_trag_ok hI hh hd hch).trans (congrArg _ ((if_neg (Bool.eq_false_iff.mp hbound)).trans
      ((if_neg ((Bool.not_eq_false _).mpr hread)).trans ((scaled_of_written (s := s) (t := issueIn s _ h g p c) _ hlate).trans (enqueue_of_room _ _ hroom)))))
  · rintro d j r u hu ha ho hs hd hr hc hst hb
    obtain ⟨fn, hx⟩ := exec_usesDesc hI hh hu
    exact hx.trans (congrArg _ ((withDesc_read fn hoff ha ho hs hd hr hc).trans (if_pos ⟨hst, hb⟩)))
  · rintro d j r u hu ha ho hs hd hr hc hb hm
    obtain ⟨fn, hx⟩ := exec_usesDesc hI hh (hu.imp_right .inr)
    have hne : u ≠ .hold := by rcases hu with ⟨-, rfl⟩ | ⟨-, rfl, -⟩ <;> decide
    have hsound : ¬ (d.stream = false ∧ (q.bank d.bank).state = 2) := fun ⟨hst, h2⟩ => hb.elim (by simp [hst]) (· h2)
    exact hx.trans (congrArg _ ((withDesc_read fn hoff ha ho hs hd hr hc).trans ((if_neg hsound).trans (if_pos ⟨hne, hm⟩))))
  · rintro d rfl hd hch hbound
    exact (exec_trag_ok hI hh hd hch).trans (congrArg _ (if_pos hbound))
  · intro hi hbad
    have hu : ∃ u : DUse, i = .iTriad f ∧ u = .triad ∨ i = .iThold f ∧ u = .hold ∨
        i = .iTrag f ∧ u = .rag ∧ (issueIn s i h g p c).b.toNat / 2 ^ 12 % 4 ≠ 0 :=
      hi.elim (fun h => ⟨_, .inl ⟨h, rfl⟩⟩) (fun h => ⟨_, .inr (.inl ⟨h, rfl⟩)⟩)
    obtain ⟨u, hu⟩ := hu
    obtain ⟨fn, hx⟩ := exec_usesDesc hI hh hu
    exact hx.trans (congrArg _ (withDesc_misplaced fn hoff hbad))
  · rintro rfl hb he hroom
    exact (exec_tdrain hI hh).trans (congrArg _ ((if_neg hb).trans ((if_neg ((Bool.not_eq_false _).mpr he)).trans (enqueue_of_room _ _ hroom))))
  · rintro rfl hb
    exact (exec_tdrain hI hh).trans (congrArg _ (if_pos hb))
  · rintro rfl hb he
    exact (exec_tdrain hI hh).trans (congrArg _ ((if_neg hb).trans (if_pos he)))
  · rintro rfl hb hroom
    exact (exec_tzero hI hh).trans (congrArg _ ((if_neg (Bool.eq_false_iff.mp hb)).trans (enqueue_of_room _ _ hroom)))
  · rintro rfl hb
    exact (exec_tzero hI hh).trans (congrArg _ (if_pos hb))
  · rintro rfl ha ho hv hroom
    exact (exec_tscl hI hh hoff ha ho hv).trans (congrArg _ (enqueue_of_room _ _ hroom))
  · rintro rfl hroom
    exact (exec_tabort hI hh).trans (congrArg _ (enqueue_of_room _ _ hroom))
  · rintro rfl hfull
    exact (exec_tabort hI hh).trans (congrArg _ (enqueue_of_full _ _ hfull))

/-! The reads of the engine, and its policy (R284, R285, R286, R289). -/

section
variable {s : State} {f : Fields} {h : Shape} {g p c : Nat}

theorem exec_tacc (hI : Issues s (.iTacc f) h g p c) (hh : s.holds (issueIn s (.iTacc f) h g p c) .ld false = none) :
    let t := issueIn s (.iTacc f) h g p c
    exec (.iTacc f) s = .next (s.issue t { s.taskReq t .ld
      (.tacc (t.a.toNat % 2) (t.a.toNat / 2 % 32) (t.a.toNat / 2 ^ 6 % 32)) with d := t.f.d.toNat }) := by
  refine (exec_of_runSeq (f := f) rfl hI rfl rfl hh).trans ?_
  simp only [bitsOf_low]
  rfl

/-- `tcomb` of 128 bytes that lie in one side (R285). -/
theorem exec_tcomb (hI : Issues s (.iTcomb f) h g p c) (hh : s.holds (issueIn s (.iTcomb f) h g p c) .ld false = none) {off : Nat}
    (hoff : bitsOf (issueIn s (.iTcomb f) h g p c).a 19 0 = off) (ho : off < 0xC0000) (hs : off % 0x40000 + 128 ≤ 0x40000) :
    let t := issueIn s (.iTcomb f) h g p c
    exec (.iTcomb f) s = .next (s.issue t { s.taskReq t .ld (.desc 0xC5000000) with
      d := t.f.d.toNat, ea := off, pieces := [Piece.mk1 (.spad g off) 4 128 0 0 0 0] }) := by
  refine (exec_of_runSeq (f := f) rfl hI rfl rfl hh).trans ?_
  rw [hoff, if_neg (by omega)]
  rfl

/-- The refusal of `tstat` and `tpri` (R286, R289): a selector of 3. -/
def selectorBad : Ctx → Word → Word → Nat := fun _ a _ => nine (bitsOf a 1 0 == 3)

theorem selectorBad_of_ne {x : Ctx} {a b : Word} (h : a.toNat % 4 ≠ 3) : selectorBad x a b = 0 := nine_of_not (by simpa [bitsOf_low] using h)
theorem selectorBad_of_eq {x : Ctx} {a b : Word} (h : a.toNat % 4 = 3) : selectorBad x a b = 9 := nine_of (by simpa [bitsOf_low] using h)

theorem exec_tstat (hI : Issues s (.iTstat f) h g p c) {n : Nat} (hn : bitsOf (issueIn s (.iTstat f) h g p c).a 1 0 = n) (h3 : n ≠ 3) :
    exec (.iTstat f) s = .next (s.putResult (issueIn s (.iTstat f) h g p c) false
      (if n = 2 then (s.tile g).triad.seqWord else (s.tile g).triad.bankWord n)) := by
  subst hn
  have hb := beginTask_go (f := f) (bad := selectorBad) hI rfl (selectorBad_of_ne (by rwa [bitsOf_low] at h3))
  show Host.Outcome.next ((beginTask (.iTstat f) f s selectorBad).run _) = _
  rw [hb]
  rfl

theorem exec_tpri (hI : Issues s (.iTpri f) h g p c) {n : Nat} (hn : bitsOf (issueIn s (.iTpri f) h g p c).a 1 0 = n) (h3 : n ≠ 3) :
    exec (.iTpri f) s = .next ((s.retire (issueIn s (.iTpri f) h g p c) (issueIn s (.iTpri f) h g p c).x.advance).updTriad g
      (fun q => ({ q with pend := some n } : Triad).boundary)) := by
  subst hn
  have hb := beginTask_go (f := f) (bad := selectorBad) hI rfl (selectorBad_of_ne (by rwa [bitsOf_low] at h3))
  show Host.Outcome.next ((beginTask (.iTpri f) f s selectorBad).run _) = _
  rw [hb]
  rfl

/-- A selector of 3 traps (R286, R289). -/
theorem exec_selector_refused {i : Instr} {w : Lane} (hI : Issues s i h g p c) (hi : i = .iTstat f ∨ i = .iTpri f) (hw : encodeWord i = some w)
    (h3 : (issueIn s i h g p c).a.toNat % 4 = 3) : exec i s = .next (s.trapAt g p c 9 (w.setWidth 64)) := by
  have h9 := selectorBad_of_eq (x := s.ctx g p c) (b := (issueIn s i h g p c).b) h3
  have hb := beginTask_bad (f := fieldsOfInstr i) (bad := selectorBad) hI rfl (by rw [h9]; decide)
  rw [h9, hw] at hb
  rcases hi with rfl | rfl <;> exact exec_of_stop ⟨_, rfl⟩ hb

end

theorem b2n_mul (b : Bool) (n : Nat) : b2n b * n = if b = true then n else 0 := by cases b <;> simp [b2n]

theorem triadReads : Claims.PartTriadReads := by
  rintro s i f h g p c t w hI rfl hw q off n k
  have hoff : bitsOf (issueIn s i h g p c).a 19 0 = off := bitsOf_low ..
  have hsel : bitsOf (issueIn s i h g p c).a 1 0 = n := bitsOf_low ..
  refine ⟨?_, ?_, ?_, ?_, ?_, ?_⟩
  · rintro rfl hh
    exact exec_tacc hI hh
  · rintro rfl hh ho hs
    exact exec_tcomb hI hh hoff ho hs
  · rintro rfl hn
    rw [exec_tstat hI hsel (by omega), if_neg (by omega), Triad.bankWord]
    simp only [b2n_mul]
    rfl
  · rintro rfl hn
    rw [exec_tstat hI hsel (by omega), if_pos hn, Triad.seqWord]
    simp only [b2n_mul]
    rfl
  · rintro rfl hn
    exact exec_tpri hI hsel hn
  · intro hi hn
    exact exec_selector_refused hI hi hw hn

/-- Settles O42. -/
theorem triadIssues : Obligations.TriadIssues := ⟨triadQueues, triadReads⟩

end Sys2Proof.Machine
end

section
namespace Sys2Proof.Machine
open State

/-! Counterexamples to O54 and O55: a ragged product that is being drained counts as a running drain (R88, R91, `Triad.active`), though no
run stands for it. Both statements ask only that the list of runs is empty. -/

/-- A product of bank `b`: its end token has come, its one row of two FP32 columns is applied, and `out` of its elements are drained (R91). -/
def endedProduct (b out : Nat) : Rag :=
  { d := { parseDesc [] with bank := b, ncols := 2, ectl := 0x80 }, p := 0, c := 0, ch := 1, thread := 1, sw := 0, sn := 0, high := false,
    rows := [(0, 0)], applied := 1, out := out, ended := true, prod := 0, isOpen := true }

/-- A region on tile 0, whose engine has such products by bank, the operations of a low queue, and nothing running. -/
def drainingState (rags : NMap Rag) (loQ : List QEnt) : State :=
  State.reset.withRegion.updTriad 0 (fun t => { t with rags := rags, loQ := loQ })

/-- A `tscl` of context 0. -/
def queuedScl : QEnt := ⟨1, .scl 0 0, 0, 0, 0⟩

/-- Bank 0 is being drained, and a `tscl` stands at the head of the low queue. -/
def drainBesideScl : State := drainingState [(0, endedProduct 0 1)] [queuedScl]

/-- Bank 1 is being drained, and the product of bank 0 has still to begin its drain. -/
def drainBesideDrain : State := drainingState [(0, endedProduct 0 0), (1, endedProduct 1 1)] []

/-- The engine of tile 0 after a step. -/
def engine0 : Host.Outcome State Fault Refusal → Triad
  | .next s => (s.tile 0).triad
  | _ => Triad.reset

/-- Nothing but a contraction starts beside a drain (R88, R280). -/
theorem scl_waits_for_drain : (engine0 (exec .eSequencerOpStart drainBesideScl)).runs = [] := by decide +kernel

/-- One drain waits for the other (R88, R280). -/
theorem close_waits_for_drain : (engine0 (exec .eRaggedClose drainBesideDrain)).rags = [(0, endedProduct 0 0), (1, endedProduct 1 1)] := by
  decide +kernel

/-- Refutes O54: bank 0's ragged product is being drained, so the `tscl` at the head of the low queue does not start, though nothing is in the
list of runs, the queue has its turn, and the operation names no bank. -/
theorem not_sequencerSteps : ¬ Obligations.SequencerSteps := by
  rintro ⟨-, h⟩
  obtain ⟨starts, -⟩ := h drainBesideScl 0 rfl rfl
  obtain ⟨s', ho, hruns, -⟩ := starts queuedScl [] rfl (.inl rfl) (by decide +kernel) rfl (by decide) (by simp [queuedScl])
    (by simp [queuedScl, SeqOp.bank])
  have hnone := scl_waits_for_drain
  rw [ho] at hnone
  exact absurd (hruns.symm.trans hnone) (by simp)

theorem regOf_drainBesideDrain : ∃ reg, drainBesideDrain.regOf 0 = some (0, reg) ∧ (endedProduct 0 0).d.rowAt reg 0 = (0, true) := ⟨_, rfl, rfl⟩

/-- Refutes O55: the products of both banks have ended, and bank 1's is being drained, so bank 0's close drains no element yet, though nothing is
in the list of runs and its row lies in its side. -/
theorem not_contractionAndRaggedSteps : ¬ Obligations.ContractionAndRaggedSteps := by
  rintro ⟨-, h⟩
  obtain ⟨-, -, -, -, -, -, -, -, -, -, -, -, closes, -⟩ := h drainBesideDrain 0 rfl rfl
  obtain ⟨reg, hreg, hrow⟩ := regOf_drainBesideDrain
  have hout := closes 0 (endedProduct 0 0) 0 reg 0 rfl rfl hreg rfl rfl rfl (by decide) (by decide) (by decide) (by decide) rfl hrow
  have hwaits := close_waits_for_drain
  rw [hout] at hwaits
  exact absurd hwaits (by decide +kernel)

end Sys2Proof.Machine
end

section
namespace Sys2Proof.Machine
open Sys2Proof

/-! Memory stays in canonical form (R93, R99). Every function of the model either leaves main memory and the vaults as they are (`…_mem`), or
writes them through `Memory.set` and keeps the form (`memOk_…`): one lemma for each, in the order of the model's text; a step is then one of
its instructions. -/

theorem memOk_of_mem {s s' : State} (h : MemOk s) (e : s'.mem = s.mem) : MemOk s' := by
  unfold MemOk at *
  rwa [e]

theorem memOk_foldl {α : Type} {f : State → α → State} (hf : ∀ s a, MemOk s → MemOk (f s a)) (l : List α) {s : State} (h : MemOk s) :
    MemOk (l.foldl f s) :=
  List.foldlRecOn l f h fun s hs a _ => hf s a hs

theorem foldl_mem {α : Type} {f : State → α → State} (hf : ∀ s a, (f s a).mem = s.mem) (l : List α) (s : State) : (l.foldl f s).mem = s.mem :=
  List.foldlRecOn (motive := fun t : State => t.mem = s.mem) l f rfl fun t ht a _ => (hf t a).trans ht

theorem memOk_ite {p : Prop} [Decidable p] {s t : State} (hs : MemOk s) (ht : MemOk t) : MemOk (if p then s else t) := by
  split
  exacts [hs, ht]

/-- The next state, where there is one, has memory in canonical form. -/
def OutOk (o : Host.Outcome State Fault Refusal) : Prop := ∀ s', o = .next s' → MemOk s'

theorem outOk_next {s : State} (h : MemOk s) : OutOk (.next s) := fun _ e => Host.Outcome.next.inj e ▸ h

/-! ### Memory under the functions of `Machine/Ops.lean` -/

@[simp] theorem reveal_mem (s : State) (p : Stale → Bool) : (s.reveal p).mem = s.mem := rfl

@[simp] theorem readAs_mem (s : State) (who : Agent) (a n k : Nat) (acq : Bool) : (s.readAs who a n k acq).2.mem = s.mem := by
  unfold State.readAs
  grind [reveal_mem]

@[simp] theorem releaseAt_mem (s : State) (who : Agent) (own : Stale → Bool) (sc : Nat) (mks : List Mark) :
    (s.releaseAt who own sc mks).mem = s.mem := by
  unfold State.releaseAt
  grind [reveal_mem]

@[simp] theorem acquireAt_mem (s : State) (who : Agent) (sc : Nat) (f : Mark → Bool) : (s.acquireAt who sc f).mem = s.mem := rfl

theorem memOk_writePa {s : State} (h : MemOk s) (pa n v : Nat) : MemOk (s.writePa pa n v) := Memory.wf_writeN _ _ _ h

theorem memOk_writeRaw {s : State} (h : MemOk s) (a n v : Nat) : MemOk (s.writeRaw a n v) := Memory.wf_writeN _ _ _ h

theorem memOk_keyTag {s : State} (h : MemOk s) (a n : Nat) (slot : Option Nat) : MemOk (s.keyTag a n slot) := (s.keyTag_spec a n slot).2 h

theorem memOk_writeUnder {s : State} (h : MemOk s) (a n v : Nat) (slot : Option Nat) : MemOk (s.writeUnder a n v slot) := by
  unfold State.writeUnder
  grind [MemOk, memOk_writeRaw, memOk_keyTag]

@[simp] theorem progress_mem (s : State) (i : Nat) : (s.progress i).mem = s.mem := by simp [State.progress]

@[simp] theorem strayAt_mem (s : State) (g n : Nat) : (s.strayAt g n).mem = s.mem := by
  unfold State.strayAt
  grind [State.updReg_mem]

@[simp] theorem toSink_mem (s : State) (g : Nat) (k : Tok) : (s.toSink g k).mem = s.mem := by
  unfold State.toSink
  grind [State.updReg_mem]

@[simp] theorem emitTo_mem (s : State) (g e : Nat) (dst : Nat) (k : Tok) : (s.emitTo g e dst k).mem = s.mem := by
  unfold State.emitTo
  grind [State.updReg_mem, toSink_mem, State.updElem_mem, State.takeFree]

@[simp] theorem wakeTp_mem (s : State) (g p : Nat) : (s.wakeTp g p).mem = s.mem := by simp [State.wakeTp]

@[simp] theorem wakeTile_mem (s : State) (g : Nat) : (s.wakeTile g).mem = s.mem := by simp [State.wakeTile]

@[simp] theorem stir_mem (s : State) (g : Nat) : (s.stir g).mem = s.mem := by
  unfold State.stir
  grind [wakeTile_mem]

@[simp] theorem bumpFleet_mem (s : State) (g k n : Nat) : (s.bumpFleet g k n).mem = s.mem := rfl

@[simp] theorem bumpVault_mem (s : State) (v k : Nat) : (s.bumpVault v k).mem = s.mem := rfl

@[simp] theorem setDone_mem (s : State) (g p tag : Nat) : (s.setDone g p tag).mem = s.mem := by simp [State.setDone]

@[simp] theorem setCpErr_mem (s : State) (g p tag : Nat) : (s.setCpErr g p tag).mem = s.mem := rfl

@[simp] theorem landTag_mem (s : State) (g p tag : Nat) : (s.landTag g p tag).mem = s.mem := by
  unfold State.landTag
  grind [wakeTp_mem, setDone_mem, State.updTp_mem]

theorem memOk_relinkWord {s : State} (h : MemOk s) (v pa : Nat) : MemOk (relinkWord s v pa) := by
  unfold relinkWord
  grind [MemOk, State.setMetaAt_mem, memOk_writeRaw]

theorem memOk_freeReaders {s : State} (h : MemOk s) (v i : Nat) : MemOk (freeReaders s v i) :=
  memOk_foldl (fun _ _ hs => memOk_relinkWord hs _ _) _ (memOk_of_mem h (State.updVault_mem ..))

theorem memOk_endRegion {s : State} (h : MemOk s) (i : Nat) (cause status : Nat) : MemOk (s.endRegion i cause status) := by
  unfold State.endRegion
  split
  · exact h
  · have hf : MemOk ((s.vaults.map (·.1)).foldl (fun s v => freeReaders s v i) s) := memOk_foldl (fun _ _ hs => memOk_freeReaders hs _ _) _ h
    have ht := fun (l : List Nat) (t : State) => foldl_mem (f := fun s g => s.updTile g (fun t => if t.inst = some i then { t with inst := none }
      else t))
      (fun _ _ => State.updTile_mem ..) l t
    grind [MemOk, State.post_mem, reveal_mem]

theorem memOk_discard {s : State} (h : MemOk s) (i cause : Nat) : MemOk (s.discard i cause) := by
  unfold State.discard
  grind [MemOk, State.updReg_mem, memOk_endRegion]

@[simp] theorem foundAt_mem (s : State) (g unit addr : Nat) : (s.foundAt g unit addr).2.mem = s.mem := by
  unfold State.foundAt
  grind [State.takeFree]

@[simp] theorem sendCheck_mem (s : State) (g tenant i cls detail addr unit phys : Nat) : (s.sendCheck g tenant i cls detail addr unit phys).mem =
    s.mem := by simp [State.sendCheck]

@[simp] theorem checkRecord_mem (s : State) (g i cls detail addr unit phys : Nat) : (s.checkRecord g i cls detail addr unit phys).mem = s.mem := by
    simp [State.checkRecord]

theorem memOk_machineCheck {s : State} (h : MemOk s) (g cls detail addr unit phys cause : Nat) :
    MemOk (s.machineCheck g cls detail addr unit phys cause) := by
  unfold State.machineCheck
  grind [MemOk, checkRecord_mem, memOk_discard]

theorem memOk_takeTrap {s : State} (h : MemOk s) (g p c : Nat) (cause : BitVec 16) (slot : BitVec 11) (val : Word) (rpt : Rpt) :
    MemOk (s.takeTrap g p c cause slot val rpt) := by
  unfold State.takeTrap
  grind [MemOk, memOk_machineCheck, State.updCtx_mem, State.updTp_mem]

@[simp] theorem deferTrap_mem (s : State) (g p c : Nat) (cause : Nat) (val : Word) : (s.deferTrap g p c cause val).mem = s.mem := by
  unfold State.deferTrap
  grind [wakeIdle_mem, State.updCtx_mem]

/-! ### Memory under the functions of `Machine/Flags.lean` -/

@[simp] theorem lostNaN_mem (s : State) (g e : Nat) (l : Bool) : (s.lostNaN g e l).mem = s.mem := rfl

/-! ### Memory under the functions of `Machine/Operands.lean` -/

@[simp] theorem block_mem (s : State) (g p c : Nat) (st : CtxSt) : (s.block g p c st).mem = s.mem := rfl

theorem memOk_trapAt {s : State} (h : MemOk s) (g p c : Nat) (cause : Nat) (val : Word) : MemOk (s.trapAt g p c cause val) := by
  unfold State.trapAt
  grind [MemOk, memOk_takeTrap]

/-- How an issue that is turned away ends: in a trap, a block or nothing. -/
theorem beginTask_stop {i : Instr} {f : Fields} {s s' : State} {bad : Ctx → Word → Word → Nat} (hb : beginTask i f s bad = .stop s') :
    s' = s ∨ (∃ g p c cause v, s' = s.trapAt g p c cause v) ∨ ∃ g p c st, s' = s.block g p c st := by
  unfold beginTask at hb
  repeat' split at hb
  all_goals grind

theorem memOk_beginTask {i : Instr} {f : Fields} {s s' : State} {bad : Ctx → Word → Word → Nat} (h : MemOk s) (hb : beginTask i f s bad = .stop s') :
    MemOk s' := by
  obtain rfl | ⟨g, p, c, cause, v, rfl⟩ | ⟨g, p, c, st, rfl⟩ := beginTask_stop hb
  · exact h
  · exact memOk_trapAt h ..
  · exact memOk_of_mem h (block_mem ..)

@[simp] theorem sendWord_mem (s : State) (t : TIn) (k : Nat) (v : Word) : (s.sendWord t k v).mem = s.mem := by
  unfold State.sendWord
  grind [State.updReg_mem]

@[simp] theorem retire_mem (s : State) (t : TIn) (x : Ctx) : (s.retire t x).mem = s.mem := by simp [State.retire]

@[simp] theorem putThen_mem (s : State) (t : TIn) (dup : Bool) (v : Word) (next : Ctx → Ctx) : (s.putThen t dup v next).mem = s.mem := by
  unfold State.putThen
  grind [retire_mem, sendWord_mem]

@[simp] theorem putResult_mem (s : State) (t : TIn) (dup : Bool) (v : Word) : (s.putResult t dup v).mem = s.mem := by simp [State.putResult]

@[simp] theorem emitOut_mem (s : State) (g e : Nat) (f : Fields) (dup : Bool) (lit : Word) (tb : Option (Nat × Nat)) (o : Out) :
    (s.emitOut g e f dup lit tb o).mem = s.mem := by
  unfold State.emitOut
  grind [emitTo_mem]

@[simp] theorem swapStep_mem (s : State) (g e : Nat) : (s.swapStep g e).mem = s.mem := by
  unfold State.swapStep
  grind [strayAt_mem, State.updElem_mem]

@[simp] theorem endFire_mem (s : State) (g e : Nat) (eor : Bool) : (s.endFire g e eor).mem = s.mem := by
  unfold State.endFire
  grind [swapStep_mem, State.progressAt_mem, State.updElem_mem]

@[simp] theorem queueTok_mem (s : State) (g e : Nat) (r : Fire) (dup : Bool) (k : Tok) : (s.queueTok g e r dup k).mem = s.mem := rfl

@[simp] theorem failOut_mem (s : State) (g e : Nat) (r : Fire) (h : Shape) (k : Tok) : (s.failOut g e r h k).mem = s.mem := by
  unfold State.failOut
  grind [queueTok_mem, emitOuts_mem]

theorem memOk_wrongKind {s : State} (h : MemOk s) (i : Instr) (g p c : Nat) : MemOk (s.wrongKind i g p c) := by
  unfold State.wrongKind
  grind [MemOk, memOk_trapAt]

theorem memOk_runElem {s : State} (h : MemOk s) (i : Instr) (accept : Tok → Bool)
    {fn : State → Nat → Nat → Elem → Fire → Val → Val → Val → Except (Nat × Word) (State × List Out)}
    (hfn : ∀ g e el r a b c s' os, fn s g e el r a b c = .ok (s', os) → MemOk s') : MemOk (runElem i s accept fn) := by
  unfold runElem
  grind [MemOk, endFire_mem, failOut_mem, emitOuts_mem, State.takeFree, memOk_wrongKind]

theorem memOk_runTask (i : Instr) (f : Fields) {s : State} (h : MemOk s) (op : OpF) : MemOk (runTask i f s op) := by
  unfold runTask
  grind [MemOk, putResult_mem, memOk_beginTask]

theorem memOk_runCompute (i : Instr) (f : Fields) {s : State} (h : MemOk s) (op : OpF) : MemOk (runCompute i f s op) := by
  unfold runCompute
  grind [MemOk, lostNaN_mem, memOk_runElem, memOk_runTask]

/-! ### Memory under the functions of `Machine/Arcs.lean` -/

@[simp] theorem setIsland_mem (s : State) (i v : Nat) : (s.setIsland i v).mem = s.mem := rfl

@[simp] theorem rollWindow_mem (s : State) (u : Nat) : (s.rollWindow u).mem = s.mem := by
  unfold State.rollWindow
  grind

@[simp] theorem rollAll_mem (s : State) : s.rollAll.mem = s.mem := foldl_mem (fun _ _ => rollWindow_mem ..) _ s

@[simp] theorem faultBit_mem (s : State) (c : Nat) : (s.faultBit c).2.mem = s.mem := rfl

@[simp] theorem lasting_mem (s : State) (u : Nat) : (s.lasting u).mem = s.mem := by
  unfold State.lasting
  split
  · simp
  · split <;> simp [State.takeFree]

@[simp] theorem unitError_mem (s : State) (u : Nat) : (s.unitError u).mem = s.mem := by
  unfold State.unitError
  grind [bumpFleet_mem, lasting_mem, rollWindow_mem]

@[simp] theorem wakeSender_mem (s : State) (r : Region) (x : Arc) : (s.wakeSender r x).mem = s.mem := by
  unfold State.wakeSender
  grind [wakeCtx_mem]

theorem outOk_execArcTokenDeparture {s : State} (h : MemOk s) : OutOk (execArcTokenDeparture s) := by
  refine outOk_next ?_
  grind [MemOk, wakeSender_mem, State.updReg_mem]

theorem outOk_execRouterHop {s : State} (h : MemOk s) : OutOk (execRouterHop s) := by
  refine outOk_next ?_
  repeat' split
  all_goals grind [MemOk, State.post_mem, State.updReg_mem, memOk_discard, unitError_mem]

@[simp] theorem emptySlot_mem (s : State) (g e : Nat) : (s.emptySlot g e).mem = s.mem := by simp [State.emptySlot]

@[simp] theorem accept_mem (s : State) (g e slot port : Nat) (k : Tok) : (s.accept g e slot port k).mem = s.mem := rfl

theorem memOk_elemParity {s : State} (h : MemOk s) (g e : Nat) : MemOk (s.elemParity g e) := by
  unfold State.elemParity
  grind [MemOk, memOk_machineCheck, unitError_mem]

theorem outOk_execTokenArrival {s : State} (h : MemOk s) : OutOk (execTokenArrival s) := by
  refine outOk_next ?_
  grind [MemOk, emptySlot_mem, State.updReg_mem, memOk_elemParity, stir_mem, accept_mem]

theorem outOk_execWindowTokenArrival {s : State} (h : MemOk s) : OutOk (execWindowTokenArrival s) := by
  refine outOk_next ?_
  grind [MemOk, State.updReg_mem, memOk_elemParity, stir_mem, State.updElem_mem]

theorem outOk_execControlPulseArrival {s : State} (h : MemOk s) : OutOk (execControlPulseArrival s) := by
  refine outOk_next ?_
  grind [MemOk, emptySlot_mem, State.updReg_mem, State.updElem_mem]

theorem outOk_execChannelWordArrival {s : State} (h : MemOk s) : OutOk (execChannelWordArrival s) := by
  refine outOk_next ?_
  grind [MemOk, wakeIdle_mem, State.updReg_mem, memOk_elemParity, wakeCtx_mem, stir_mem, State.updCtx_mem]

theorem outOk_execSinkTokenEntry {s : State} (h : MemOk s) : OutOk (execSinkTokenEntry s) := by
  refine outOk_next ?_
  grind [MemOk, emptySlot_mem, State.updReg_mem, accept_mem]

theorem outOk_execItgenRunEmit {s : State} (h : MemOk s) : OutOk (execItgenRunEmit s) := by
  refine outOk_next ?_
  grind [MemOk, emitTo_mem, State.updElem_mem]

theorem outOk_execFinEmit {s : State} (h : MemOk s) : OutOk (execFinEmit s) := by
  refine outOk_next ?_
  grind [MemOk, emitTo_mem, State.updElem_mem]

/-! ### Memory under the functions of `Machine/Convert.lean` -/

theorem outOk_execCvt (f : Fields) {s : State} (h : MemOk s) : OutOk (execCvt f s) := by
  refine outOk_next ?_
  grind [MemOk, lostNaN_mem, putResult_mem, memOk_runElem, memOk_beginTask]

@[simp] theorem takeIdx_mem (s : State) (n : Nat) : (s.takeIdx n).2.mem = s.mem := by
  induction n generalizing s with
  | zero => rfl
  | succ n ih => simp [State.takeIdx, State.takeFree, ih]

/-! ### Memory under the functions of `Machine/Vector.lean` -/

theorem memOk_runReduce (i : Instr) {s : State} (h : MemOk s) (fp : Lane → Lane → Lane) (int : Int → Int → Int) : MemOk (runReduce i s fp int) := by
  unfold runReduce
  grind [MemOk, memOk_runElem]

/-! ### Memory under the functions of `Machine/Access.lean` -/

@[simp] theorem releaseBy_mem (s : State) (r : Req) (mk : Mark) : (s.releaseBy r mk).mem = s.mem := by
  unfold State.releaseBy
  grind [releaseAt_mem]

theorem memOk_putPa {s : State} (h : MemOk s) (pa n v : Nat) (slot : Option Nat) : MemOk (s.putPa pa n v slot) := by
  unfold State.putPa
  grind [MemOk, memOk_writeUnder]

theorem memOk_postWrite {s : State} (h : MemOk s) (inst slot : Nat) (who : Agent) (un : Bool) (flag : Option Nat) (pa n v : Nat) :
    MemOk (s.postWrite inst slot who un flag pa n v) := Memory.wf_writeN _ _ _ h

@[simp] theorem settle_mem (s : State) (id : Nat) : (s.settle id).mem = s.mem := by
  unfold State.settle
  grind [State.dropReq_mem, wakeCtx_mem, State.updCtx_mem]

@[simp] theorem due_mem (s : State) (r : Req) : (s.due r).mem = s.mem := by
  unfold State.due
  grind [State.updVault_mem, settle_mem]

@[simp] theorem finish_mem (s : State) (id : Nat) (res : Word) : (s.finish id res).mem = s.mem := by
  unfold State.finish
  grind [due_mem, State.updReq_mem]

@[simp] theorem performedNow_mem (s : State) (id : Nat) (res : Word) : (s.performedNow id res).mem = s.mem := by
  unfold State.performedNow
  grind [finish_mem, progress_mem]

@[simp] theorem answer_mem (s : State) (id : Nat) (pa : Nat) (val : Word) : (s.answer id pa val).mem = s.mem := by
  unfold State.answer
  grind [performedNow_mem, acquireAt_mem]

theorem memOk_tryRelease {s : State} (h : MemOk s) (pa : Nat) : MemOk (s.tryRelease pa) := by
  unfold State.tryRelease
  dsimp only
  split
  · refine memOk_foldl (fun t q ht => memOk_of_mem ht ?_) _ (memOk_writePa (memOk_of_mem h (State.updVault_mem ..)) _ _ _)
    grind [finish_mem, acquireAt_mem]
  · exact h

theorem memOk_afterWrite {s : State} (h : MemOk s) (pa : Nat) : MemOk (s.afterWrite pa) := by
  unfold State.afterWrite
  grind [MemOk, memOk_tryRelease]

theorem memOk_storePiece {s : State} (h : MemOk s) (r : Req) (p : Piece) (v : Nat) : MemOk (s.storePiece r p v) := by
  unfold State.storePiece
  grind [MemOk, memOk_keyTag, memOk_afterWrite, memOk_putPa, State.writeSp_mem, memOk_postWrite]

theorem memOk_writePiece {s : State} (h : MemOk s) (p : Piece) (v : Nat) : MemOk (s.writePiece p v) := by
  unfold State.writePiece
  grind [MemOk, memOk_afterWrite, memOk_putPa, State.writeSp_mem]

@[simp] theorem loadPiece_mem (s : State) (r : Req) (p : Piece) (k : Nat) : (s.loadPiece r p k).2.mem = s.mem := by
  unfold State.loadPiece
  grind [readAs_mem]

@[simp] theorem acquireBy_mem (s : State) (r : Req) (mk : Mark) : (s.acquireBy r mk).mem = s.mem := by
  unfold State.acquireBy
  grind [acquireAt_mem]

theorem memOk_doPiece {s : State} (h : MemOk s) (r : Req) (p : Piece) (k : Nat) : MemOk (s.doPiece r p k).2 := by
  unfold State.doPiece
  grind [MemOk, memOk_storePiece, loadPiece_mem, acquireBy_mem, releaseBy_mem, memOk_writePiece]

@[simp] theorem blockError_mem (s : State) (pa : Nat) : (s.blockError pa).mem = s.mem := by simp [State.blockError]

@[simp] theorem memCheck_mem (s : State) (tenant inst pa : Nat) : (s.memCheck tenant inst pa).mem = s.mem := by simp [State.memCheck]

theorem memOk_dataError {s : State} (h : MemOk s) (r : Req) (pa : Nat) : MemOk (s.dataError r pa) := by
  unfold State.dataError
  grind [MemOk, State.dropReq_mem, memCheck_mem, memOk_machineCheck, blockError_mem]

@[simp] theorem mended_mem (s : State) (r : Req) : (s.mended r).mem = s.mem := by
  unfold State.mended
  grind

theorem memOk_refuseNow {s : State} (h : MemOk s) (r : Req) (cause : Nat) : MemOk (s.refuseNow r cause) := by
  unfold State.refuseNow
  grind [MemOk, unissue_mem, memOk_takeTrap]

theorem memOk_refuse {s : State} (h : MemOk s) (r : Req) (cause : Nat) : MemOk (s.refuse r cause) := by
  unfold State.refuse
  grind [MemOk, State.dropReq_mem, due_mem, memOk_refuseNow, State.updReq_mem]

theorem memOk_deliver {s : State} (h : MemOk s) (r : Req) : MemOk (s.deliver r) := by
  unfold State.deliver
  grind [MemOk, complete_mem, settle_mem, memOk_refuseNow, unanswer_mem]

theorem outOk_execAccessCompletion {s : State} (h : MemOk s) : OutOk (execAccessCompletion s) := by
  refine outOk_next ?_
  grind [MemOk, complete_mem, memOk_deliver]

/-! ### Memory under the functions of `Machine/Memory.lean` -/

@[simp] theorem issue_mem (s : State) (t : TIn) (r : Req) : (s.issue t r).mem = s.mem := by
  unfold State.issue
  grind [retire_mem, State.addReq_mem, block_mem]

theorem memOk_memTrap {s : State} (h : MemOk s) (t : TIn) (cause ea : Nat) : MemOk (s.memTrap t cause ea) := by
  unfold State.memTrap
  grind [MemOk, memOk_trapAt]

@[simp] theorem storeBelow_mem (s : State) (r : Req) (op : ReqOp) (g : Nat) (wins : NMap Win) (k : Acc) (parts : Place → Nat → List Piece) :
    (s.storeBelow r op g wins k parts).mem = s.mem := by
  unfold State.storeBelow
  grind [State.addReq_mem]

theorem memOk_runTaskMem (i : Instr) (f : Fields) {s : State} (h : MemOk s) (bad : Ctx → Word → Word → Nat) (mk : TIn → TOp) :
    MemOk (runTaskMem i f s bad mk) := by
  unfold runTaskMem
  grind [MemOk, issue_mem, memOk_beginTask, memOk_memTrap, storeBelow_mem, block_mem]

@[simp] theorem lanesBelow_mem (s : State) (g e : Nat) (el : Elem) (r : Fire) (o : EOp) : (s.lanesBelow g e el r o).mem = s.mem := by
  unfold State.lanesBelow
  grind [storeBelow_mem]

theorem memOk_runPortMem (i : Instr) {s : State} (h : MemOk s)
  (mk : Elem → Fire → Val → Gen → Nat → Except (Nat × Word) (EOp × (Req → Req))) : MemOk (runPortMem i s mk) := by
  unfold runPortMem
  grind [MemOk, lanesBelow_mem, queueTok_mem, memOk_runElem, State.addReq_mem]

theorem memOk_runMem (i : Instr) (f : Fields) {s : State} (h : MemOk s) (bad : Ctx → Word → Word → Nat) (t : TIn → TOp)
  (e : Fire → Val → Gen → Except (Nat × Word) (EOp × (Req → Req))) : MemOk (runMem i f s bad t e) := by
  unfold runMem
  grind [MemOk, memOk_runTaskMem, memOk_runPortMem]

theorem outOk_execFence (f : Fields) {s : State} (h : MemOk s) : OutOk (execFence f s) := by
  refine outOk_next ?_
  grind [MemOk, retire_mem, releaseAt_mem, memOk_runElem, memOk_beginTask, State.addReq_mem, block_mem]

/-! ### Memory under the functions of `Machine/Triad.lean` -/

theorem memOk_illegalAt {s : State} (h : MemOk s) (t : TIn) (cause : Nat) : MemOk (s.illegalAt t cause) := by
  unfold State.illegalAt
  grind [MemOk, memOk_trapAt]

theorem memOk_runSeq (i : Instr) (f : Fields) {s : State} (h : MemOk s) (bad : Ctx → Word → Word → Nat) (k : Cls) {fn : TIn → State} (hfn : ∀ t,
    MemOk (fn t)) :
    MemOk (runSeq i f s bad k fn) := by
  unfold runSeq
  grind [MemOk, memOk_beginTask, block_mem]

@[simp] theorem enqueue_mem (s : State) (t : TIn) (high : Bool) (op : SeqOp) (oth : Nat) : (s.enqueue t high op oth).mem = s.mem := by
  unfold State.enqueue
  grind [retire_mem, State.updTriad_mem, block_mem]

theorem memOk_withDesc {s : State} (h : MemOk s) (t : TIn) (u : DUse) {fn : Desc → State} (hfn : ∀ d, MemOk (fn d)) : MemOk (s.withDesc t u fn) := by
  unfold State.withDesc
  grind [MemOk, memOk_trapAt, block_mem]

theorem memOk_scaled {s go : State} (h : MemOk s) (hg : MemOk go) (t : TIn) (d : Desc) : MemOk (s.scaled t d go) := by
  unfold State.scaled
  grind [MemOk, block_mem]

theorem outOk_execTriad (f : Fields) {s : State} (h : MemOk s) : OutOk (execTriad f s) := by
  refine outOk_next ?_
  grind [MemOk, memOk_runSeq, enqueue_mem, memOk_illegalAt, memOk_scaled, memOk_withDesc, block_mem]

theorem outOk_execThold (f : Fields) {s : State} (h : MemOk s) : OutOk (execThold f s) := by
  refine outOk_next ?_
  grind [MemOk, memOk_runSeq, enqueue_mem, memOk_withDesc, block_mem]

theorem outOk_execTdrain (f : Fields) {s : State} (h : MemOk s) : OutOk (execTdrain f s) := by
  refine outOk_next ?_
  grind [MemOk, memOk_runSeq, enqueue_mem, memOk_trapAt]

theorem outOk_execTzero (f : Fields) {s : State} (h : MemOk s) : OutOk (execTzero f s) := by
  refine outOk_next ?_
  grind [MemOk, memOk_runSeq, enqueue_mem, block_mem]

theorem outOk_execTscl (f : Fields) {s : State} (h : MemOk s) : OutOk (execTscl f s) := by
  refine outOk_next ?_
  grind [MemOk, memOk_runSeq, enqueue_mem, memOk_memTrap]

theorem outOk_execTabort (f : Fields) {s : State} (h : MemOk s) : OutOk (execTabort f s) := by
  refine outOk_next ?_
  grind [MemOk, memOk_runSeq, enqueue_mem]

theorem outOk_execTrag (f : Fields) {s : State} (h : MemOk s) : OutOk (execTrag f s) := by
  refine outOk_next ?_
  grind [MemOk, memOk_runSeq, enqueue_mem, memOk_illegalAt, memOk_scaled, memOk_trapAt, memOk_withDesc]

theorem outOk_execTacc (f : Fields) {s : State} (h : MemOk s) : OutOk (execTacc f s) := by
  refine outOk_next ?_
  grind [MemOk, memOk_runSeq, issue_mem]

theorem outOk_execTcomb (f : Fields) {s : State} (h : MemOk s) : OutOk (execTcomb f s) := by
  refine outOk_next ?_
  grind [MemOk, memOk_runSeq, issue_mem, memOk_memTrap]

theorem outOk_execTstat (f : Fields) {s : State} (h : MemOk s) : OutOk (execTstat f s) := by
  refine outOk_next ?_
  grind [MemOk, putResult_mem, memOk_beginTask]

theorem outOk_execTpri (f : Fields) {s : State} (h : MemOk s) : OutOk (execTpri f s) := by
  refine outOk_next ?_
  grind [MemOk, retire_mem, memOk_beginTask, State.updTriad_mem]

/-! ### Memory under the functions of `Machine/Array.lean` -/

@[simp] theorem seqError_mem (s : State) (g : Nat) (e : QEnt) (cause off th it : Nat) : (s.seqError g e cause off th it).mem = s.mem := by simp
    [State.seqError]

@[simp] theorem seqDone_mem (s : State) (g : Nat) (e : QEnt) : (s.seqDone g e).mem = s.mem := by simp [State.seqDone]

@[simp] theorem startHead_mem (s : State) (g : Nat) (high : Bool) : (s.startHead g high).mem = s.mem := by
  unfold State.startHead
  grind [seqError_mem, seqDone_mem, State.updTriad_mem, State.updCtx_mem]

theorem outOk_execSequencerOpStart {s : State} (h : MemOk s) : OutOk (execSequencerOpStart s) := by
  refine outOk_next ?_
  grind [MemOk, State.updTriad_mem, startHead_mem]

theorem outOk_execBreakIn {s : State} (h : MemOk s) : OutOk (execBreakIn s) := by
  refine outOk_next ?_
  grind [MemOk, State.updTriad_mem]

@[simp] theorem feederRead_mem (s : State) (g n : Nat) (as : List Nat) : (s.feederRead g n as).mem = s.mem := rfl

theorem memOk_arrayError {s : State} (h : MemOk s) (g pa : Nat) : MemOk (s.arrayError g pa) := by
  unfold State.arrayError
  grind [MemOk, memOk_dataError]

@[simp] theorem seqFault_mem (s : State) (g : Nat) (r : Run) (d : Desc) (cause : Nat) : (s.seqFault g r d cause).mem = s.mem := by
  unfold State.seqFault
  grind [bumpFleet_mem, seqError_mem, deferTrap_mem, seqDone_mem, State.updTriad_mem, wakeTile_mem]

theorem outOk_execFeederSliceFetch {s : State} (h : MemOk s) : OutOk (execFeederSliceFetch s) := by
  refine outOk_next ?_
  grind [MemOk, feederRead_mem, seqFault_mem, memOk_arrayError, State.updTriad_mem]

theorem outOk_execTriadStep {s : State} (h : MemOk s) : OutOk (execTriadStep s) := by
  refine outOk_next (memOk_of_mem h ?_)
  dsimp only
  split
  · rfl
  split
  · rfl
  split
  · rfl
  split
  · rfl
  split
  · exact State.updTriad_mem ..
  split
  · exact seqFault_mem ..
  split
  · split
    · rfl
    split
    · exact seqFault_mem ..
    · rw [stir_mem, State.progressAt_mem]
      split
      · rw [bumpFleet_mem, State.updTile_mem]
      · exact State.updTile_mem ..
  · rfl

theorem outOk_execStreamResultToken {s : State} (h : MemOk s) : OutOk (execStreamResultToken s) := by
  refine outOk_next ?_
  grind [MemOk, State.updReg_mem, stir_mem, State.updTriad_mem]

theorem outOk_execContractionComplete {s : State} (h : MemOk s) : OutOk (execContractionComplete s) := by
  refine outOk_next ?_
  grind [MemOk, bumpFleet_mem, seqDone_mem, State.updTriad_mem]

theorem memOk_drainWrite {s : State} (h : MemOk s) (g pa n v : Nat) : MemOk (s.drainWrite g pa n v) := by
  unfold State.drainWrite
  refine memOk_foldl (fun t q ht => memOk_afterWrite ?_ _) _ h
  grind [memOk_writePa, memOk_postWrite]

theorem memOk_writeBits {s : State} (h : MemOk s) (g : Nat) (vault : Bool) (pos bits v : Nat) : MemOk (s.writeBits g vault pos bits v) := by
  unfold State.writeBits
  grind [MemOk, memOk_drainWrite, State.writeSp_mem]

@[simp] theorem markBlock_mem (s : State) (g : Nat) (vault : Bool) (pos bits bw : Nat) : (s.markBlock g vault pos bits bw).mem = s.mem :=
  foldl_mem (fun _ _ => by split <;> simp) _ s

@[simp] theorem randLane_mem (s : State) (g : Nat) : (s.randLane g).2.mem = s.mem := rfl

@[simp] theorem drainVal_mem (s : State) (g b : Nat) (d : Desc) (sw sn : Lane) (m n : Nat) : (s.drainVal g b d sw sn m n).2.mem = s.mem := by
  unfold State.drainVal
  grind [randLane_mem]

theorem memOk_drainPut {s : State} (h : MemOk s) (g : Nat) (d : Desc) (pos v : Nat) : MemOk (s.drainPut g d pos v) := by
  unfold State.drainPut
  grind [MemOk, markBlock_mem, memOk_writeBits]

@[simp] theorem drainRelease_mem (s : State) (g : Nat) (e : QEnt) : (s.drainRelease g e).mem = s.mem := rfl

theorem memOk_drainNext {s : State} (h : MemOk s) (g b : Nat) (d : Desc) (sw sn : Lane) (r : Run) : MemOk (s.drainNext g b d sw sn r) := by
  unfold State.drainNext
  grind [MemOk, drainVal_mem, memOk_drainPut, stir_mem, State.updTriad_mem]

theorem outOk_execDrainComplete {s : State} (h : MemOk s) : OutOk (execDrainComplete s) := by
  refine outOk_next ?_
  grind [MemOk, memOk_drainNext, drainRelease_mem, seqError_mem, seqDone_mem, State.updTriad_mem]

@[simp] theorem holdAll_mem (s : State) (g : Nat) (d : Desc) (k : Nat) (l : List Nat) : (s.holdAll g d k l).1.mem = s.mem := by
  induction l generalizing s k with
  | nil => rfl
  | cons h l ih =>
    unfold State.holdAll
    grind [feederRead_mem, State.updTriad_mem]

theorem outOk_execSequencerOperationComplete {s : State} (h : MemOk s) : OutOk (execSequencerOperationComplete s) := by
  refine outOk_next ?_
  grind [MemOk, bumpFleet_mem, memOk_arrayError, seqError_mem, holdAll_mem, deferTrap_mem, seqDone_mem, State.updTriad_mem]

theorem outOk_execTaccReadServe {s : State} (h : MemOk s) : OutOk (execTaccReadServe s) := by
  refine outOk_next ?_
  grind [MemOk, finish_mem, toSink_mem]

theorem outOk_execRaggedRowToken {s : State} (h : MemOk s) : OutOk (execRaggedRowToken s) := by
  refine outOk_next ?_
  grind [MemOk, strayAt_mem, seqFault_mem, State.updTriad_mem, State.updCtx_mem]

theorem outOk_execRaggedPass {s : State} (h : MemOk s) : OutOk (execRaggedPass s) := by
  refine outOk_next ?_
  grind [MemOk, State.updTriad_mem]

theorem outOk_execRaggedEndToken {s : State} (h : MemOk s) : OutOk (execRaggedEndToken s) := by
  refine outOk_next ?_
  grind [MemOk, seqFault_mem, State.updTriad_mem, State.updCtx_mem]

theorem memOk_closeNext {s : State} (h : MemOk s) (g b : Nat) (reg : Region) (r : Rag) : MemOk (s.closeNext g b reg r) := by
  unfold State.closeNext
  grind [MemOk, drainVal_mem, seqError_mem, memOk_drainPut, stir_mem, State.updTriad_mem]

theorem outOk_execRaggedClose {s : State} (h : MemOk s) : OutOk (execRaggedClose s) := by
  refine outOk_next ?_
  grind [MemOk, memOk_closeNext, seqError_mem, releaseAt_mem, State.updTriad_mem, wakeTile_mem]

theorem outOk_execTabortRun {s : State} (h : MemOk s) : OutOk (execTabortRun s) := by
  refine outOk_next ?_
  dsimp only
  split
  · exact h
  · split
    · exact h
    · refine memOk_of_mem h ((foldl_mem (fun _ _ => seqDone_mem ..) _ _).trans ?_)
      exact (foldl_mem (fun _ _ => State.updCtx_mem ..) _ _).trans (State.updTriad_mem ..)

/-! ### Memory under the functions of `Machine/Home.lean` -/

@[simp] theorem setPresence_mem (s : State) (pa v : Nat) : (s.setPresence pa v).mem = s.mem := rfl

@[simp] theorem answerReaders_mem (s : State) (v pa : Nat) (val : Word) : (s.answerReaders v pa val).mem = s.mem :=
  (foldl_mem (fun _ _ => answer_mem ..) _ _).trans (State.updVault_mem ..)

theorem memOk_structOp {s : State} (h : MemOk s) (r : Req) (v pa : Nat) (p : Piece) : MemOk (s.structOp r v pa p) := by
  unfold State.structOp
  grind [MemOk, memOk_relinkWord, memOk_keyTag, memOk_refuse, setPresence_mem, State.updVault_mem, settle_mem, acquireBy_mem, memOk_afterWrite,
    performedNow_mem, answerReaders_mem, releaseBy_mem, memOk_writeUnder, State.updReq_mem]

theorem outOk_execStructOpAtHome {s : State} (h : MemOk s) : OutOk (execStructOpAtHome s) := by
  refine outOk_next ?_
  grind [MemOk, memOk_structOp, memOk_dataError]

theorem memOk_cmbWrite {s : State} (h : MemOk s) (k : Cmb) (l places : List Nat) : MemOk (s.cmbWrite k l places) := by
  induction l generalizing s places with
  | nil => exact h
  | cons x l ih =>
    cases places with
    | nil => exact h
    | cons a places => exact ih (memOk_afterWrite (memOk_writeUnder h _ _ _ _) _) _

@[simp] theorem cmbSend_mem (s : State) (v : Nat) (k : Cmb) (d : Dest) : (s.cmbSend v k d).mem = s.mem := by
  unfold State.cmbSend
  grind [State.updVault_mem, State.addReq_mem]

theorem memOk_cmbRelease {s : State} (h : MemOk s) (v : Nat) (k : Cmb) : MemOk (s.cmbRelease v k) := by
  unfold State.cmbRelease
  grind [MemOk, State.updVault_mem, cmbSend_mem, memOk_cmbWrite]

theorem memOk_contribute {s : State} (h : MemOk s) (r : Req) (fixed : Bool) (cc : Word) (v pa : Nat) (fromQ : Bool) :
    MemOk (s.contribute r fixed cc v pa fromQ) := by
  unfold State.contribute
  grind [MemOk, State.dropReq_mem, memOk_refuse, State.updVault_mem, performedNow_mem, memOk_cmbRelease, State.updReq_mem]

theorem outOk_execCombineContribution {s : State} (h : MemOk s) : OutOk (execCombineContribution s) := by
  refine outOk_next ?_
  grind [MemOk, memOk_dataError, memOk_contribute]

theorem outOk_execCombineQueueAdmit {s : State} (h : MemOk s) : OutOk (execCombineQueueAdmit s) := by
  refine outOk_next ?_
  dsimp only
  repeat' split
  all_goals grind [MemOk, State.updVault_mem, memOk_contribute]

theorem memOk_setPend {s : State} (h : MemOk s) (pa : Nat) (w1 : Nat) (x : Int) : MemOk (s.setPend pa w1 x) := by
  unfold State.setPend
  grind [MemOk, memOk_writePa]

theorem memOk_barErr {s : State} (h : MemOk s) (pa w0 : Nat) : MemOk (s.barErr pa w0) := by
  unfold State.barErr
  grind [MemOk, memOk_writePa]

theorem outOk_execBarrierArrival {s : State} (h : MemOk s) : OutOk (execBarrierArrival s) := by
  refine outOk_next ?_
  grind [MemOk, memOk_writePa, memOk_refuse, memOk_tryRelease, State.updVault_mem, settle_mem, memOk_setPend, memOk_dataError, releaseBy_mem,
    progress_mem, State.updReq_mem, memOk_barErr]

/-! ### Memory under the functions of `Machine/Translate.lean` -/

theorem memOk_markLeaf {s : State} (h : MemOk s) (l : Leaf) (wr : Bool) : MemOk (s.markLeaf l wr).2 := by
  unfold State.markLeaf
  grind [MemOk, memOk_writePa]

theorem memOk_translate {s : State} (h : MemOk s) (g tenant root va need : Nat) (evict : Bool) :
    MemOk (s.translate g tenant root va need evict).2 := by
  unfold State.translate
  grind [MemOk, State.updTile_mem, memOk_markLeaf]

theorem pageFault_mem {s s' : State} {inst tenant g role acc va level reason id : Nat} {pte : Word}
    (h : s.pageFault inst tenant g role acc va level reason pte = some (id, s')) : s'.mem = s.mem := by
  unfold State.pageFault at h
  grind [State.post_mem]

theorem memOk_deny {s : State} (h : MemOk s) (r : Req) (va cause : Nat) : MemOk (s.deny r va cause) := by
  unfold State.deny
  grind [MemOk, memOk_refuse, finish_mem, deferTrap_mem, State.updReq_mem]

@[simp] theorem xltEnd_mem (s : State) (r : Req) (k : Nat) (res : Except Nat Win) : (s.xltEnd r k res).mem = s.mem := by
  unfold State.xltEnd
  grind [finish_mem, State.updCtx_mem, State.updReq_mem]

@[simp] theorem withhold_mem (s : State) (r : Req) (id : Nat) : (s.withhold r id).mem = s.mem := by simp [State.withhold]

theorem faulted_mem (s : State) (r : Req) {o : Option (Nat × State)} (h : ∀ id t, o = some (id, t) → t.mem = s.mem) :
    (s.faulted r o).mem = s.mem := by
  unfold State.faulted
  grind [withhold_mem, State.updReg_mem]

@[simp] theorem unheld_mem (s : State) (r : Req) : (s.unheld r).mem = s.mem := by simp [State.unheld]

theorem outOk_execTranslationWalk {s : State} (h : MemOk s) : OutOk (execTranslationWalk s) := by
  refine outOk_next ?_
  repeat' split
  all_goals grind [MemOk, memOk_translate, unheld_mem, wakeCtx_mem, faulted_mem, xltEnd_mem, memOk_dataError, memOk_deny, State.updCtx_mem,
    wakeTile_mem, pageFault_mem, State.updReq_mem]

theorem outOk_execFaultResolve {s : State} (h : MemOk s) : OutOk (execFaultResolve s) := by
  refine outOk_next ?_
  dsimp only
  split
  · exact memOk_foldl (fun _ _ ht => memOk_of_mem ht (wakeTile_mem ..)) _ (memOk_of_mem h rfl)
  · exact h

@[simp] theorem startShoot_mem (s : State) (tenant vpn npg : Nat) (byHub : Bool) : (s.startShoot tenant vpn npg byHub).mem = s.mem := rfl

theorem outOk_execShootdownRequest {s : State} (h : MemOk s) : OutOk (execShootdownRequest s) := by
  refine outOk_next ?_
  grind [MemOk, State.setHub_mem, startShoot_mem]

theorem outOk_execShootdownReceive {s : State} (h : MemOk s) : OutOk (execShootdownReceive s) := by
  refine outOk_next ?_
  grind [MemOk, State.updTile_mem]

theorem outOk_execShootdownComplete {s : State} (h : MemOk s) : OutOk (execShootdownComplete s) := by
  refine outOk_next ?_
  grind [MemOk, finish_mem]

@[simp] theorem issueOr_mem (s : State) (t : TIn) (r : Req) (mem : Bool) : (s.issueOr t r mem).mem = s.mem := by
  unfold State.issueOr
  grind [issue_mem, block_mem]

theorem outOk_execXlt (f : Fields) {s : State} (h : MemOk s) : OutOk (execXlt f s) := by
  refine outOk_next ?_
  grind [MemOk, queueTok_mem, memOk_runElem, memOk_beginTask, State.addReq_mem, issueOr_mem]

@[simp] theorem winResult_mem (s : State) (wins : NMap Win) (b : Word) (g role : Nat) : (s.winResult wins b g role).2.mem = s.mem := by
  unfold State.winResult
  grind [State.takeFree]

theorem outOk_execWinChk (f : Fields) {s : State} (h : MemOk s) : OutOk (execWinChk f s) := by
  refine outOk_next ?_
  grind [MemOk, queueTok_mem, winResult_mem, putResult_mem, memOk_runElem, memOk_beginTask]

theorem outOk_execXinv (f : Fields) {s : State} (h : MemOk s) : OutOk (execXinv f s) := by
  refine outOk_next ?_
  grind [MemOk, issue_mem, memOk_beginTask, startShoot_mem, block_mem]

theorem outOk_execMig (f : Fields) {s : State} (h : MemOk s) : OutOk (execMig f s) := by
  refine outOk_next ?_
  grind [MemOk, memOk_beginTask, memOk_memTrap, issueOr_mem]

@[simp] theorem install_mem (s : State) (old new len : Nat) : (s.install old new len).2.mem = s.mem := by
  unfold State.install
  grind

@[simp] theorem doMig_mem (s : State) (r : Req) (pa : Nat) : (s.doMig r pa).mem = s.mem := by simp [State.doMig]

@[simp] theorem lineRead_mem (s : State) (a : Nat) : (s.lineRead a).mem = s.mem := by
  unfold State.lineRead
  grind [blockError_mem]

theorem memOk_copyLine {s : State} (h : MemOk s) (a b : Nat) : MemOk (s.copyLine a b) := Memory.wf_writeBytes _ _ h

theorem memOk_flushLine {s : State} (h : MemOk s) (a : Nat) : MemOk (s.flushLine a) := by
  have hw : ∀ l : List Cmb, MemOk (l.foldl (fun s k => if bitOf k.cc 24 then s.cmbWrite k k.result k.lanesAt else s) s) :=
    fun l => memOk_foldl (fun _ _ ht => by split; exacts [memOk_cmbWrite ht _ _ _, ht]) l h
  unfold State.flushLine
  grind [MemOk]

theorem memOk_moveReaders {s : State} (h : MemOk s) (a b : Nat) : MemOk (s.moveReaders a b) := by
  refine memOk_foldl (fun _ _ hs => memOk_relinkWord hs _ _) _ (memOk_foldl (fun t q ht => ?_) _ (memOk_of_mem h (State.updVault_mem ..)))
  grind [MemOk, State.updVault_mem]

theorem outOk_execMigrationLineCopy {s : State} (h : MemOk s) : OutOk (execMigrationLineCopy s) := by
  refine outOk_next ?_
  grind [MemOk, State.post_mem, memOk_flushLine, memOk_moveReaders, lineRead_mem, memOk_copyLine]

/-! ### Memory under the functions of `Machine/Planes.lean` -/

theorem memOk_writeBlocks {s : State} (h : MemOk s) (pa : Nat) (bs : List Byte) : MemOk (s.writeBlocks pa bs) := Memory.wf_foldl _ _ _ h

theorem memOk_putBytes {s : State} (h : MemOk s) (pa : Nat) (bs : List Byte) (slot : Option Nat) : MemOk (s.putBytes pa bs slot) :=
  memOk_of_mem (memOk_foldl (fun _ _ hs => memOk_putPa hs _ _ _ _) bs.zipIdx h) rfl

theorem memOk_readVirt {s : State} (h : MemOk s) (g tenant root need fuel va n : Nat) : MemOk (s.readVirt g tenant root need fuel va n).2 := by
  induction fuel generalizing s va n with
  | zero => exact h
  | succ fuel ih =>
    unfold State.readVirt
    grind [memOk_translate]

theorem outOk_execPlf (f : Fields) {s : State} (h : MemOk s) : OutOk (execPlf f s) := by
  refine outOk_next ?_
  grind [MemOk, issue_mem, State.updElem_mem, memOk_beginTask, memOk_memTrap, block_mem]

@[simp] theorem fillReady_mem (s : State) (g e : Nat) : (s.fillReady g e).mem = s.mem := by
  unfold State.fillReady
  grind [swapStep_mem, State.updElem_mem]

theorem memOk_fillFails {s : State} (h : MemOk s) (r : Req) (g role plane cause slot off : Nat) :
    MemOk (s.fillFails r g role plane cause slot off) := by
  unfold State.fillFails
  grind [MemOk, State.updReg_mem, memOk_discard]

theorem outOk_execPlaneFillComplete {s : State} (h : MemOk s) : OutOk (execPlaneFillComplete s) := by
  refine outOk_next ?_
  split
  · exact h
  next r _ =>
    split
    next role k g _ _ _ _ =>
      split
      · exact h
      · have hv := memOk_readVirt h g r.tenant (s.rootOf r.inst) 4 3 (r.ea % 2 ^ 56) 1024
        split
        next bs t ht =>
          rw [ht] at hv
          dsimp only
          split
          · exact memOk_fillFails hv ..
          · exact memOk_of_mem hv (by simp)
        next va t ht => rw [ht] at hv; exact memOk_fillFails hv ..
        next va pa t ht => rw [ht] at hv; exact memOk_fillFails (memOk_of_mem hv (memCheck_mem ..)) ..
        next va t ht => rw [ht] at hv; exact memOk_fillFails hv ..
        next va l why e t ht =>
          rw [ht] at hv
          exact memOk_of_mem hv (faulted_mem _ _ fun _ _ hf => pageFault_mem hf)
    · exact h

/-! ### Memory under the functions of `Machine/Porter.lean` -/

@[simp] theorem porterCode_mem (s : State) : (s.porterCode).2.mem = s.mem := rfl

@[simp] theorem copyError_mem (s : State) (r : Req) (tag cause off : Nat) : (s.copyError r tag cause off).mem = s.mem := by
  unfold State.copyError
  grind [porterCode_mem, setCpErr_mem, toSink_mem]

@[simp] theorem setCopy_mem (s : State) (r : Req) (c : Copy) : (s.setCopy r c).mem = s.mem := rfl

@[simp] theorem failCopy_mem (s : State) (r : Req) (c : Copy) (cause off : Nat) : (s.failCopy r c cause off).mem = s.mem := by simp [State.failCopy]

theorem memOk_runCopy (i : Instr) (f : Fields) {s : State} (h : MemOk s) (op : Nat) : MemOk (runCopy i f s op) := by
  unfold runCopy
  grind [MemOk, memOk_runTaskMem]

theorem memOk_refuseWord {s : State} (h : MemOk s) (r : Req) : MemOk (s.refuseWord r) := by
  unfold State.refuseWord
  grind [MemOk, unissue_mem, memOk_takeTrap]

theorem memOk_copyDesc {s : State} (h : MemOk s) (r : Req) (mode : Nat) (ws : List Word) : MemOk (s.copyDesc r mode ws) := by
  unfold State.copyDesc
  grind [MemOk, failCopy_mem, memOk_refuseWord, settle_mem, unissue_mem, State.updTp_mem, State.updReq_mem, block_mem]

theorem memOk_reachEnd {s : State} (h : MemOk s) (r : Req) (g : Nat) (c : Copy) (e : End) (off : Int) (n : Nat) (wr : Bool) :
    MemOk (s.reachEnd r g c e off n wr).2 := by
  unfold State.reachEnd
  grind [MemOk, memOk_translate]

@[simp] theorem withholdCopy_mem (s : State) (r : Req) (g va : Nat) (c : Copy) (wr : Bool) (level reason : Nat) (pte : Word) :
    (s.withholdCopy r g va c wr level reason pte).mem = s.mem := by
  unfold State.withholdCopy
  grind [porterCode_mem, faulted_mem, setCopy_mem, pageFault_mem]

@[simp] theorem agentRead_mem (s : State) (who : Agent) (pl : Place) (key : Option Nat) (n k : Nat) : (s.agentRead who pl key n k).2.mem = s.mem := by
  unfold State.agentRead
  grind [readAs_mem]

@[simp] theorem lookup_mem (s : State) (g : Nat) (c : Copy) (b : Nat) : (s.lookup g c b).2.mem = s.mem := by
  unfold State.lookup
  grind [State.updTile_mem, agentRead_mem]

theorem memOk_dstWaits {s : State} (h : MemOk s) (r : Req) (g : Nat) (c : Copy) (n : Nat) : MemOk (s.dstWaits r g c n).2 := by
  unfold State.dstWaits
  grind [memOk_reachEnd]

theorem memOk_fetchBeat {s : State} (h : MemOk s) (r : Req) (g : Nat) (c : Copy) : MemOk (s.fetchBeat r g c) := by
  unfold State.fetchBeat
  grind [MemOk, failCopy_mem, memOk_reachEnd, unheld_mem, copyError_mem, memOk_dstWaits, memOk_dataError, setCopy_mem, withholdCopy_mem,
    agentRead_mem, lookup_mem]

@[simp] theorem carryBlock_mem (s : State) (c : Copy) (dst : Place) (m : Nat) : (s.carryBlock c dst m).mem = s.mem := by
  unfold State.carryBlock
  grind [State.setMetaSp_mem, State.setMetaPa_mem]

theorem memOk_beatWrite {s : State} (h : MemOk s) (r : Req) (g : Nat) (pl : Place) (kind n v : Nat) (key : Option Nat) :
    MemOk (s.beatWrite r g pl kind n v key) := by
  unfold State.beatWrite
  grind [MemOk, memOk_keyTag, memOk_afterWrite, memOk_putPa, State.writeSp_mem, memOk_postWrite]

@[simp] theorem copyRelease_mem (s : State) (r : Req) (g : Nat) (mks : List Mark) : (s.copyRelease r g mks).mem = s.mem := by simp [State.copyRelease]

theorem memOk_landBar {s : State} (h : MemOk s) (r : Req) (g : Nat) (c : Copy) (n : Nat) : MemOk (s.landBar r g c n).2 := by
  unfold State.landBar
  grind [MemOk, memOk_tryRelease, memOk_setPend, copyRelease_mem, memOk_barErr]

theorem memOk_landBeat {s : State} (h : MemOk s) (r : Req) (g : Nat) (c : Copy) : MemOk (s.landBeat r g c) := by
  unfold State.landBeat
  grind [MemOk, failCopy_mem, memOk_reachEnd, unheld_mem, carryBlock_mem, memOk_landBar, memOk_dataError, progress_mem, setCopy_mem,
    memOk_beatWrite, withholdCopy_mem]

theorem outOk_execPorterBeatLanding {s : State} (h : MemOk s) : OutOk (execPorterBeatLanding s) := by
  refine outOk_next ?_
  grind [MemOk, memOk_landBeat, memOk_fetchBeat]

theorem outOk_execCopyLanded {s : State} (h : MemOk s) : OutOk (execCopyLanded s) := by
  refine outOk_next ?_
  grind [MemOk, State.dropReq_mem, unheld_mem, landTag_mem, countDown_mem, copyRelease_mem, wakeTile_mem]

@[simp] theorem bmcReveal_mem (s : State) (who : Agent) (g sc lo n : Nat) : (s.bmcReveal who g sc lo n).mem = s.mem := rfl

@[simp] theorem doBmcInv_mem (s : State) (r : Req) (first count addr : Nat) : (s.doBmcInv r first count addr).mem = s.mem := by
  unfold State.doBmcInv
  grind [finish_mem, bmcReveal_mem]

/-! ### Memory under the functions of `Machine/Firing.lean` -/

theorem outOk_execFiring {s : State} (h : MemOk s) : OutOk (execFiring s) := by
  refine outOk_next ?_
  grind [MemOk, State.updElem_mem]

/-! ### Memory under the functions of `Machine/Sketch.lean` -/

theorem memOk_setCtr {s : State} (h : MemOk s) (pa : Nat) (k : Sk) (n : Nat) (t : Int) : MemOk (s.setCtr pa k n t).2 := by
  unfold State.setCtr
  grind [MemOk, memOk_putPa]

theorem memOk_setSk0 {s : State} (h : MemOk s) (pa : Nat) (k : Sk) (w : Word) : MemOk (s.setSk0 pa k w) := by
  unfold State.setSk0
  grind [MemOk, memOk_putPa]

theorem memOk_foldlPair {α β : Type} {f : β × State → α → β × State} (hf : ∀ x a, MemOk x.2 → MemOk (f x a).2) (l : List α) {x : β × State}
    (h : MemOk x.2) : MemOk (l.foldl f x).2 :=
  List.foldlRecOn (motive := fun x : β × State => MemOk x.2) l f h fun x hx a _ => hf x a hx

theorem memOk_addLane {s : State} (h : MemOk s) (pa : Nat) (k : Sk) (w : Word) (x : Nat × Lane × Int) : MemOk (s.addLane pa k w x).2 := by
  unfold State.addLane
  split
  · exact h
  · refine memOk_foldlPair (fun x row hs => ?_) _ h
    exact memOk_setCtr hs ..

theorem memOk_skAdd {s : State} (h : MemOk s) (pa : Nat) (k : Sk) (l : List (Nat × Lane × Int)) : MemOk (s.skAdd pa k l) :=
  memOk_setSk0 (memOk_foldlPair (x := (k.w0, s)) (fun _ _ hs => memOk_addLane hs _ _ _ _) l h) _ _ _

theorem memOk_mapCtrs {s : State} (h : MemOk s) (pa : Nat) (k : Sk) (w : Word) (f : State → Nat → Int) : MemOk (s.mapCtrs pa k w f).2 := by
  refine memOk_foldlPair (fun x n hs => ?_) _ h
  exact memOk_setCtr hs ..

theorem memOk_initBytes {s : State} (h : MemOk s) (pa : Nat) (t : List (Byte × Nat)) (slot : Option Nat) :
    MemOk (t.foldl (fun (s : State) x => s.putPa (pa + x.2) 1 x.1.toNat slot) s) :=
  memOk_foldl (fun _ _ hs => memOk_putPa hs _ _ _ _) t h

/-- Where a sketch operation goes on, memory is in canonical form. -/
def MemOkEnd (o : SkEnd) : Prop := ∀ l s', o = .ok (l, s') → MemOk s'
theorem memOkEnd_ok {l s} (h : MemOk s) : MemOkEnd (.ok (l, s)) := by
  intro l' s' e
  simp only [Except.ok.injEq, Prod.mk.injEq] at e
  exact e.2 ▸ h
theorem memOkEnd_error {c} : MemOkEnd (.error c) := fun _ _ e => nomatch e

theorem memOkEnd_skOp {s : State} {r : Req} {pa : Nat} (h : MemOk s) : MemOkEnd (s.skOp r pa) := by
  unfold State.skOp
  extract_lets hdr
  rcases hdr with _ | k
  · exact memOkEnd_error
  · dsimp only
    by_cases hr : r.room < k.bytes
    · rw [if_pos hr]; exact memOkEnd_error
    · rw [if_neg hr]
      cases r.op with
      | skInit t => exact memOkEnd_ok (memOk_mapCtrs (memOk_initBytes h ..) ..)
      | skClr => exact memOkEnd_ok (memOk_setSk0 (memOk_mapCtrs h ..) ..) 
      | skAdd l => exact memOkEnd_ok (memOk_skAdd h ..)
      | skScale f => 
        dsimp only
        cases val32 f with
        | fin => exact memOkEnd_ok (memOk_setSk0 (memOk_mapCtrs h ..) ..) 
        | _ => exact memOkEnd_error
      | skQry l => exact memOkEnd_ok h
      | skRd row first n =>
        dsimp only
        split
        · exact memOkEnd_error
        · exact memOkEnd_ok h
      | skStat => exact memOkEnd_ok h
      | _ => exact memOkEnd_error

theorem memOk_skMergeAt {s s' : State} {r : Req} {pa m : Nat} {fin : Bool} (h : MemOk s) (ho : s.skMergeAt r pa m = .ok fin s') : MemOk s' := by
  unfold State.skMergeAt at ho
  grind [MemOk, memOk_mapCtrs, memOk_setSk0, State.updReq_mem]

@[simp] theorem unitDone_mem (s : State) (r : Req) (l : List Word) (tok : Tok) : (s.unitDone r l tok).mem = s.mem := by
  unfold State.unitDone
  grind [performedNow_mem, State.updReq_mem]

theorem outOk_execSketchOpAtUnit {s : State} (h : MemOk s) : OutOk (execSketchOpAtUnit s) := by
  refine outOk_next ?_
  split
  · exact h
  next r _ =>
    split
    · split
      next pa _ =>
        split
        · exact h
        split
        · exact memOk_dataError h ..
        split
        · exact memOk_dataError h ..
        · split
          · exact memOk_refuse h ..
          · exact memOk_dataError h ..
          next fin t ht =>
            have := memOk_skMergeAt h ht
            split
            · exact memOk_of_mem this (unitDone_mem ..)
            · exact this
        · split
          · exact memOk_refuse h ..
          next l t ht => exact memOk_of_mem (memOkEnd_skOp h _ _ ht) (unitDone_mem ..)
      · exact h
    · exact h

theorem memOk_runUnitTask (i : Instr) (f : Fields) {s : State} (h : MemOk s) (cls : Cls) (n al sk : Nat) (rd wr : Bool) (d : Bool)
  (mk : State → TIn → Except (Nat × Nat) ReqOp) : MemOk (runUnitTask i f s cls n al sk rd wr d mk) := by
  unfold runUnitTask
  grind [MemOk, issue_mem, memOk_beginTask, memOk_memTrap, block_mem]

theorem memOk_runUnitPort (i : Instr) {s : State} (h : MemOk s) (cls : Cls) (n al sk : Nat) (rd wr : Bool)
    (mk : State → Nat → Elem → Fire → Gen → Val → Val → Except (Nat × Nat) ReqOp) : MemOk (runUnitPort i s cls n al sk rd wr mk) :=
  memOk_runElem h i _ fun g e el r a b c s' os ho => by grind [MemOk, State.addReq_mem]

theorem memOk_runUnit (i : Instr) (f : Fields) {s : State} (h : MemOk s) (cls : Cls) (n al sk : Nat) (rd wr d : Bool)
  (tm : State → TIn → Except (Nat × Nat) ReqOp) (em : State → Nat → Elem → Fire → Gen → Val → Val → Except (Nat × Nat) ReqOp) :
    MemOk (runUnit i f s cls n al sk rd wr d tm em) := by
  unfold runUnit
  grind [MemOk, memOk_runUnitPort, memOk_runUnitTask]

theorem outOk_execSkInit (f : Fields) {s : State} (h : MemOk s) : OutOk (execSkInit f s) := by
  refine outOk_next ?_
  grind [MemOk, memOk_runUnit, memOk_beginTask, block_mem]

/-! ### Memory under the functions of `Machine/Routing.lean` -/

theorem outOk_execRtSnap (f : Fields) {s : State} (h : MemOk s) : OutOk (execRtSnap f s) := by
  refine outOk_next ?_
  split
  · grind [MemOk, issue_mem, memOk_beginTask, memOk_memTrap, block_mem]
  · exact memOk_runElem h _ _ fun g e el r a b c s' os ho => by grind [MemOk, State.addReq_mem]

theorem outOk_execRouteSnapshotWrite {s : State} (h : MemOk s) : OutOk (execRouteSnapshotWrite s) := by
  refine outOk_next ?_
  grind [MemOk, settle_mem, State.updTile_mem, performedNow_mem, State.writeSp_mem, memOk_putBytes, State.updReq_mem]

theorem outOk_execRsort (f : Fields) {s : State} (h : MemOk s) : OutOk (execRsort f s) := by
  refine outOk_next ?_
  grind [MemOk, issue_mem, memOk_beginTask, memOk_memTrap, block_mem]

theorem outOk_execSorterRun {s : State} (h : MemOk s) : OutOk (execSorterRun s) := by
  refine outOk_next ?_
  grind [MemOk, performedNow_mem, State.writeSp_mem]

@[simp] theorem mapWins_mem (s : State) (g sp : Nat) : (s.mapWins g sp).2.mem = s.mem := by
  unfold State.mapWins
  grind [State.takeFree]

theorem outOk_execRtMap (f : Fields) {s : State} (h : MemOk s) : OutOk (execRtMap f s) := by
  refine outOk_next ?_
  grind [MemOk, memOk_dataError, memOk_runElem, State.takeFree, mapWins_mem, agentRead_mem]

theorem outOk_execRngSeed (f : Fields) {s : State} (h : MemOk s) : OutOk (execRngSeed f s) := by
  refine outOk_next ?_
  grind [MemOk, memOk_beginTask, issueOr_mem]

theorem outOk_execRng (f : Fields) {s : State} (h : MemOk s) : OutOk (execRng f s) := by
  refine outOk_next ?_
  grind [MemOk, memOk_runElem, memOk_beginTask, State.addReq_mem, issueOr_mem]

@[simp] theorem draw_mem (s : State) (g : Nat) (r : Req) (n : Nat) : (s.draw g r n).mem = s.mem := by
  unfold State.draw
  grind [finish_mem, State.updTile_mem, State.updReq_mem]

theorem outOk_execGeneratorRequestServe {s : State} (h : MemOk s) : OutOk (execGeneratorRequestServe s) := by
  refine outOk_next ?_
  grind [MemOk, draw_mem, finish_mem, State.updTile_mem]

/-! ### Memory under the functions of `Machine/Fetch.lean` -/

@[simp] theorem fetched_mem (s : State) (w : Lane) : (fetched s w).2.mem = s.mem := by
  unfold fetched
  grind [State.setEv_mem]

@[simp] theorem issueOf_mem (s : State) (g p c : Nat) : (issueOf s g p c).2.mem = s.mem := by
  unfold issueOf
  grind [State.setSite_mem, fetched_mem, State.setEv_mem]

theorem turnOf_mem {s s' : State} {g p : Nat} {i : Instr} (h : turnOf s g p = some (i, s')) : s'.mem = s.mem := by
  unfold turnOf at h
  grind [issueOf_mem]

theorem actOf_mem {s s' : State} {a : Act} {i : Instr} (h : actOf s a = some (i, s')) : s'.mem = s.mem := by
  unfold actOf at h
  grind [turnOf_mem, State.setEv_mem]

@[simp] theorem nextAct_mem (s : State) : (nextAct s).2.mem = s.mem := by
  unfold nextAct
  grind [State.setAgenda_mem]

@[simp] theorem passTime_mem (s : State) : (s.passTime).mem = s.mem := rfl

theorem select_mem {s s' : State} {i : Instr} (h : select s = some (i, s')) : s'.mem = s.mem := by
  unfold select at h
  grind [State.setSite_mem, nextAct_mem, fetched_mem, actOf_mem]

@[simp] theorem idleStep_mem (s : State) : (idleStep s).mem = s.mem := by
  unfold idleStep
  grind [nextAct_mem]

/-! ### Memory under the functions of `Machine/Hub.lean` -/

theorem outOk_execHubRegisterWrite {s : State} (h : MemOk s) : OutOk (execHubRegisterWrite s) := by
  refine outOk_next ?_
  grind [MemOk, rollAll_mem, State.setHub_mem]

@[simp] theorem updStream_mem (s : State) (k : Nat) (f : Stream → Stream) : (s.updStream k f).mem = s.mem := rfl

theorem memOk_append {s : State} (h : MemOk s) (k via : Nat) (ws : List Word) : MemOk (s.append k via ws).2 := by
  unfold State.append
  grind [MemOk, memOk_writeBlocks, updStream_mem]

@[simp] theorem readRecord_mem (s : State) (pa : Nat) : (s.readRecord pa).2.mem = s.mem := by
  unfold State.readRecord
  grind [memCheck_mem]

theorem outOk_execStreamAppend {s : State} (h : MemOk s) : OutOk (execStreamAppend s) := by
  refine outOk_next ?_
  grind [MemOk, memOk_append, readRecord_mem]

theorem outOk_execAppendResultRead {s : State} (h : MemOk s) : OutOk (execAppendResultRead s) := by
  refine outOk_next ?_
  grind [MemOk]

@[simp] theorem countIntake_mem (s : State) (port w : Nat) : (s.countIntake port w).mem = s.mem := rfl

@[simp] theorem wakePort_mem (s : State) (i : Nat) : (s.wakePort i).2.mem = s.mem := by
  unfold State.wakePort
  grind [setIsland_mem]

theorem outOk_execIntakeMessage {s : State} (h : MemOk s) : OutOk (execIntakeMessage s) := by
  refine outOk_next ?_
  grind [MemOk, wakePort_mem, memOk_append, countIntake_mem]

@[simp] theorem decJoin_mem (s : State) (recd : List Word) (handle target : Nat) : (s.decJoin recd handle target).mem = s.mem := by
  unfold State.decJoin
  grind [State.post_mem, updStream_mem]

theorem memOk_readSucc {s : State} (h : MemOk s) (r : Region) (g n va : Nat) : MemOk (s.readSucc r g n va).2 := by
  induction n generalizing s va with
  | zero => exact h
  | succ n ih =>
    have hv := memOk_readVirt h g r.tenant r.root 1 2 (va % 2 ^ 56) 8
    generalize hx : s.readVirt g r.tenant r.root 1 2 (va % 2 ^ 56) 8 = x at hv
    obtain ⟨v, t⟩ := x
    have hn := ih hv (va + 8)
    generalize hl : t.readSucc r g n (va + 8) = e at hn
    obtain ⟨e, u⟩ := e
    cases e <;> cases v <;> simp only [State.readSucc, hx, hl] <;> assumption

@[simp] theorem decAll_mem (s : State) (i g : Nat) (r : Region) (l : List Succ) : (s.decAll i g r l).mem = s.mem := by
  induction l generalizing s with
  | nil => rfl
  | cons x l ih => cases x <;> simp [State.decAll, ih, State.takeFree]

theorem memOk_completeRegion {s : State} (h : MemOk s) (i cause status : Nat) : MemOk (s.completeRegion i cause status) := by
  unfold State.completeRegion
  grind [MemOk, memOk_readSucc, State.updReg_mem, pageFault_mem, decAll_mem, memOk_endRegion]

theorem memOk_tryComplete {s : State} (h : MemOk s) (i : Nat) : MemOk (s.tryComplete i) := by
  unfold State.tryComplete
  grind [MemOk, memOk_completeRegion]

theorem memOk_freeEndings {s : State} (h : MemOk s) : MemOk s.freeEndings := by
  refine memOk_foldl (fun t x ht => ?_) _ h
  grind [memOk_endRegion]

@[simp] theorem sigDone_mem (s : State) (o : Option Nat) : (s.sigDone o).mem = s.mem := by
  unfold State.sigDone
  grind [finish_mem]

theorem outOk_execCompletionRecordWrite {s : State} (h : MemOk s) : OutOk (execCompletionRecordWrite s) := by
  refine outOk_next ?_
  grind [MemOk, memOk_writeBlocks, memOk_freeEndings, sigDone_mem]

theorem outOk_execCompletionConsWrite {s : State} (h : MemOk s) : OutOk (execCompletionConsWrite s) := by
  refine outOk_next ?_
  grind [MemOk, State.setHub_mem]

/-! ### Memory under the functions of `Machine/Jobs.lean` -/

theorem outOk_execJobSpawn (f : Fields) {s : State} (h : MemOk s) : OutOk (execJobSpawn f s) := by
  refine outOk_next ?_
  grind [MemOk, memOk_beginTask, issueOr_mem]

theorem memOk_doSpawn {s : State} (h : MemOk s) (r : Req) (k : Nat) (ws : List Word) : MemOk (s.doSpawn r k ws) := by
  unfold State.doSpawn
  grind [MemOk, memOk_append, finish_mem]

theorem outOk_execJobJoin (f : Fields) {s : State} (h : MemOk s) : OutOk (execJobJoin f s) := by
  refine outOk_next ?_
  grind [MemOk, memOk_beginTask, issueOr_mem]

@[simp] theorem doJoin_mem (s : State) (r : Req) (h : Nat) : (s.doJoin r h).mem = s.mem := by
  unfold State.doJoin
  grind [decJoin_mem, finish_mem]

theorem outOk_execSig (f : Fields) {s : State} (h : MemOk s) : OutOk (execSig f s) := by
  refine outOk_next ?_
  grind [MemOk, memOk_beginTask, issueOr_mem]

@[simp] theorem doSig_mem (s : State) (r : Req) (a : Word) (code : Nat) : (s.doSig r a code).mem = s.mem := by
  unfold State.doSig
  grind [State.updReq_mem]

theorem memOk_runDone (f : Fields) {s : State} (h : MemOk s) : MemOk (runDone f s) := by
  unfold runDone
  grind [MemOk, retire_mem, State.updReg_mem, memOk_beginTask, memOk_tryComplete, State.updCtx_mem, block_mem]

theorem outOk_execContextEnd {s : State} (h : MemOk s) : OutOk (execContextEnd s) := by
  refine outOk_next ?_
  grind [MemOk, State.setSite_mem, memOk_runDone, memOk_tryComplete, State.updCtx_mem]

/-! ### Memory under the functions of `Machine/System.lean` -/

theorem outOk_execTrap (f : Fields) {s : State} (h : MemOk s) : OutOk (execTrap f s) := by
  refine outOk_next ?_
  grind [MemOk, memOk_trapAt, memOk_beginTask]

theorem outOk_execBrk (f : Fields) {s : State} (h : MemOk s) : OutOk (execBrk f s) := by
  refine outOk_next ?_
  grind [MemOk, retire_mem, memOk_trapAt, memOk_beginTask, State.updCtx_mem]

theorem outOk_execEret (f : Fields) {s : State} (h : MemOk s) : OutOk (execEret f s) := by
  refine outOk_next ?_
  grind [MemOk, retire_mem, memOk_beginTask]

theorem outOk_execIll (f : Fields) {s : State} (h : MemOk s) : OutOk (execIll f s) := by
  refine outOk_next ?_
  grind [MemOk, endFire_mem, memOk_trapAt]

theorem outOk_execIllegalInstructionWord {s : State} (h : MemOk s) : OutOk (execIllegalInstructionWord s) := by
  refine outOk_next ?_
  grind [MemOk, endFire_mem, memOk_trapAt]

theorem outOk_execDeferredTrapTaken {s : State} (h : MemOk s) : OutOk (execDeferredTrapTaken s) := by
  refine outOk_next ?_
  grind [MemOk, State.updCtx_mem, memOk_takeTrap]

theorem outOk_execContextBreakpointTrap {s : State} (h : MemOk s) : OutOk (execContextBreakpointTrap s) := by
  refine outOk_next ?_
  grind [MemOk, memOk_trapAt, State.updCtx_mem]

theorem outOk_execWatchdogExpiry {s : State} (h : MemOk s) : OutOk (execWatchdogExpiry s) := by
  refine outOk_next ?_
  grind [MemOk, State.updReg_mem, memOk_discard]

theorem outOk_execCtlRd (f : Fields) {s : State} (h : MemOk s) : OutOk (execCtlRd f s) := by
  refine outOk_next ?_
  grind [MemOk, putResult_mem, memOk_beginTask]

theorem outOk_execCtlWr (f : Fields) {s : State} (h : MemOk s) : OutOk (execCtlWr f s) := by
  refine outOk_next ?_
  grind [MemOk, retire_mem, State.updElem_mem, memOk_beginTask, State.updTp_mem]

theorem outOk_execCntRd (f : Fields) {s : State} (h : MemOk s) : OutOk (execCntRd f s) := by
  refine outOk_next ?_
  grind [MemOk, putResult_mem, memOk_runElem, memOk_beginTask]

theorem outOk_execIdRd (f : Fields) {s : State} (h : MemOk s) : OutOk (execIdRd f s) := by
  refine outOk_next ?_
  grind [MemOk, putResult_mem, memOk_beginTask]

theorem outOk_execHalt (f : Fields) {s : State} (h : MemOk s) : OutOk (execHalt f s) := by
  refine outOk_next ?_
  grind [MemOk, retire_mem, memOk_beginTask, State.updCtx_mem]

theorem outOk_execIdle (f : Fields) {s : State} (h : MemOk s) : OutOk (execIdle f s) := by
  refine outOk_next ?_
  grind [MemOk, retire_mem, memOk_beginTask, block_mem]

@[simp] theorem dbgGet_mem (s : State) (g p n : Nat) : (s.dbgGet g p n).2.mem = s.mem := by
  unfold State.dbgGet
  grind [State.takeFree]

@[simp] theorem dbgResume_mem (s : State) (g p : Nat) (b : Word) : (s.dbgResume g p b).mem = s.mem := by
  have he : ∀ (l : List Nat) (t : State), (l.foldl (fun s k =>
      if 4 ≤ k ∧ bitOf b k then (let e := (s.tile g).phys k; if (s.elem g e).halt then s.updElem g e (·.resume) else s) else s) t).mem = t.mem :=
    fun l t => foldl_mem (fun _ _ => by grind [State.updElem_mem]) l t
  have hc : ∀ (l : List Nat) (t : State), (l.foldl (fun s c => if bitOf b (32 + c) then s.updCtx g p c (·.resume) else s) t).mem = t.mem :=
    fun l t => foldl_mem (fun _ _ => by grind [State.updCtx_mem]) l t
  unfold State.dbgResume
  grind [State.updTriad_mem]

@[simp] theorem dbgSet_mem (s : State) (g p n : Nat) (b : Word) : (s.dbgSet g p n b).mem = s.mem := by
  unfold State.dbgSet
  grind [dbgResume_mem, State.updTile_mem]

theorem outOk_execDbgX (f : Fields) {s : State} (h : MemOk s) : OutOk (execDbgX f s) := by
  refine outOk_next ?_
  grind [MemOk, putResult_mem, memOk_beginTask, dbgGet_mem, dbgSet_mem]

theorem outOk_execSwpPl (f : Fields) {s : State} (h : MemOk s) : OutOk (execSwpPl f s) := by
  refine outOk_next ?_
  grind [MemOk, retire_mem, swapStep_mem, State.updElem_mem, memOk_beginTask]

theorem outOk_execQsc (f : Fields) {s : State} (h : MemOk s) : OutOk (execQsc f s) := by
  refine outOk_next ?_
  grind [MemOk, retire_mem, State.updTile_mem, memOk_beginTask, block_mem]

@[simp] theorem askStop_mem (s : State) (i cause : Nat) : (s.askStop i cause).mem = s.mem := by simp [State.askStop]

theorem outOk_execPmt (f : Fields) {s : State} (h : MemOk s) : OutOk (execPmt f s) := by
  refine outOk_next ?_
  grind [MemOk, retire_mem, askStop_mem, memOk_beginTask]

theorem outOk_execCkpt (f : Fields) {s : State} (h : MemOk s) : OutOk (execCkpt f s) := by
  refine outOk_next ?_
  grind [MemOk, memOk_beginTask, memOk_memTrap, issueOr_mem]

theorem outOk_execRstor (f : Fields) {s : State} (h : MemOk s) : OutOk (execRstor f s) := by
  refine outOk_next ?_
  grind [MemOk, memOk_beginTask, memOk_memTrap, issueOr_mem]

/-! ### Memory under the functions of `Machine/Shuffle.lean` -/

@[simp] theorem holdOp_mem (s : State) (r : Req) (pa : Nat) : (s.holdOp r pa).mem = s.mem := by
  unfold State.holdOp
  grind [State.updVault_mem, unitDone_mem, bumpVault_mem]

theorem outOk_execHoldingsOpAtVault {s : State} (h : MemOk s) : OutOk (execHoldingsOpAtVault s) := by
  refine outOk_next ?_
  grind [MemOk, holdOp_mem]

theorem memOk_runHold (i : Instr) (f : Fields) {s : State} (h : MemOk s) (cls : Cls) (al : Nat) (d : Bool) (len : Word → Nat) (mk : Word → ReqOp) :
    MemOk (runHold i f s cls al d len mk) := by
  unfold runHold
  grind [MemOk, memOk_runUnit]

@[simp] theorem shfError_mem (s : State) (r : Req) (tag cause off : Nat) (bit : Bool) : (s.shfError r tag cause off bit).mem = s.mem := by
  unfold State.shfError
  grind [setCpErr_mem, toSink_mem]

theorem memOk_runShf (i : Instr) (f : Fields) {s : State} (h : MemOk s) (op : Nat) : MemOk (runShf i f s op) := by
  unfold runShf
  grind [MemOk, issue_mem, memOk_beginTask, memOk_memTrap, block_mem]

@[simp] theorem addTag_mem (s : State) (g p tag : Nat) : (s.addTag g p tag).mem = s.mem := rfl

theorem memOk_shfDesc {s : State} (h : MemOk s) (r : Req) (fb : Bool) (pa : Nat) (ws : List Word) : MemOk (s.shfDesc r fb pa ws) := by
  unfold State.shfDesc
  dsimp only
  repeat' split
  all_goals grind [MemOk, memOk_refuse, State.updVault_mem, settle_mem, memOk_dataError, unissue_mem, addTag_mem, State.updReq_mem, block_mem]

theorem memOk_sendEntry {s : State} (h : MemOk s) (r : Req) (e : PEnt) : MemOk (s.sendEntry r e) := by
  have hv : ∀ (f : Nat → Vault → Vault) (l : List Nat) (t : State), (l.foldl (fun s v => s.updVault v (f v)) t).mem = t.mem :=
    fun f l t => foldl_mem (fun _ _ => State.updVault_mem ..) l t
  unfold State.sendEntry
  dsimp only
  split
  · exact memOk_of_mem h (by rw [hv]; grind [shfError_mem, State.updReq_mem])
  · split
    · grind [memOk_dataError, MemOk, State.updReq_mem]
    · exact memOk_of_mem h (by rw [hv]; grind [State.updReq_mem])

theorem outOk_execShuffleEntryCode {s : State} (h : MemOk s) : OutOk (execShuffleEntryCode s) := by
  refine outOk_next ?_
  repeat' split
  all_goals grind [MemOk, memOk_dataError, memOk_sendEntry, shfError_mem, State.updReq_mem]

theorem outOk_execShufflePacketAdmit {s : State} (h : MemOk s) : OutOk (execShufflePacketAdmit s) := by
  refine outOk_next ?_
  grind [MemOk, State.updVault_mem]

theorem memOk_putBlock {s : State} (h : MemOk s) (r : Req) (pa : Nat) (bs : List Byte) (bws : List Nat) : MemOk (s.putBlock r pa bs bws) := by
  unfold State.putBlock
  refine memOk_of_mem (memOk_foldl (fun t x ht => memOk_of_mem ht (State.setMetaPa_mem ..)) _ ?_) (progress_mem ..)
  exact memOk_of_mem (memOk_foldl (fun _ _ ht => memOk_afterWrite (memOk_postWrite ht ..) _) _ h) rfl

theorem memOk_fallback {s : State} (h : MemOk s) (r : Req) (q : Packet) (v : Rcv) : MemOk (s.fallback r q v) := by
  unfold State.fallback
  grind [MemOk, memOk_putBlock, memOk_dataError, bumpVault_mem, shfError_mem]

theorem memOk_serveRcv {s : State} (h : MemOk s) (r : Req) (q : Packet) (v : Rcv) : MemOk (s.serveRcv r q v) := by
  unfold State.serveRcv
  grind [MemOk, memOk_fallback, memOk_putBlock, memOk_dataError, bumpVault_mem, shfError_mem]

theorem outOk_execPacketDecode {s : State} (h : MemOk s) : OutOk (execPacketDecode s) := by
  refine outOk_next ?_
  grind [MemOk, State.updVault_mem, memOk_serveRcv]

theorem outOk_execShuffleLanded {s : State} (h : MemOk s) : OutOk (execShuffleLanded s) := by
  refine outOk_next ?_
  grind [MemOk, State.dropReq_mem, landTag_mem, countDown_mem, releaseAt_mem, reveal_mem]

@[simp] theorem peerShuffle_mem (s : State) (chip : Nat) (bs : List Byte) : (s.peerShuffle chip bs).mem = s.mem := by
  unfold State.peerShuffle
  split
  · rfl
  · exact (foldl_mem (fun _ _ => State.updVault_mem ..) _ _).trans (State.addReq_mem ..)

/-! ### Memory under the functions of `Machine/Image.lean` -/

theorem memOk_readImg {s : State} (h : MemOk s) (tenant root fuel va n : Nat) : MemOk (s.readImg tenant root fuel va n).2 := by
  induction fuel generalizing s va n with
  | zero => exact h
  | succ fuel ih =>
    unfold State.readImg
    grind [memOk_markLeaf]

theorem memOk_loadImage {s : State} (h : MemOk s) (inst tenant root code : Nat) : MemOk (s.loadImage inst tenant root code).2 := by
  unfold State.loadImage
  dsimp only
  repeat' split
  all_goals grind [MemOk, memCheck_mem, memOk_readImg]

/-! ### Memory under the functions of `Machine/Loader.lean` -/

@[simp] theorem makeRegion_mem (s : State) (k : Nat) (q : QRec) (tender : Option Nat) : (s.makeRegion k q tender).mem = s.mem := rfl

@[simp] theorem endJob_mem (s : State) (r : Region) (cause status : Nat) : (s.endJob r cause status).mem = s.mem := by
  unfold State.endJob
  grind [State.post_mem]

@[simp] theorem takeRec_mem (s : State) (k : Nat) (q : QRec) : (s.takeRec k q).mem = s.mem := rfl

@[simp] theorem putRec_mem (s : State) (k : Nat) (q : QRec) : (s.putRec k q).mem = s.mem := rfl

@[simp] theorem aged_mem (s : State) (level : Nat) : (s.aged level).mem = s.mem := rfl

theorem memOk_reserve {s : State} (h : MemOk s) : MemOk (s.reserve) := by
  unfold State.reserve
  grind [MemOk]

theorem memOk_popped {s : State} (h : MemOk s) (k : Nat) (q : QRec) : MemOk (s.popped k q) := by
  unfold State.popped
  grind [MemOk, aged_mem, memOk_reserve, takeRec_mem]

@[simp] theorem addTend_mem (s : State) (home : Nat) (q : QRec) (round : Nat) : (s.addTend home q round).2.mem = s.mem := rfl

@[simp] theorem setRegion_mem (s : State) (i : Nat) (r : Region) : (s.setRegion i r).mem = s.mem := rfl

theorem outOk_execDistributorPop {s : State} (h : MemOk s) : OutOk (execDistributorPop s) := by
  refine outOk_next ?_
  dsimp only
  split
  · exact h
  · split
    · exact h
    · split <;> grind [MemOk, addTend_mem, makeRegion_mem, memOk_popped, endJob_mem]

theorem memOk_grantPages {s : State} (h : MemOk s) (v tenant base size : Nat) : MemOk (s.grantPages v tenant base size) := by
  refine memOk_foldl (fun t k ht => memOk_of_mem ?_ (State.updVault_mem ..)) _ h
  split
  · exact ht
  · exact memOk_foldl (fun _ _ hs => memOk_of_mem hs (State.setMetaPa_mem ..)) _ (memOk_writeBlocks ht _ _)

theorem memOk_vaultData {s : State} (h : MemOk s) (m : Img) (tiles : List Nat) (q : Sec) : MemOk (s.vaultData m tiles q) :=
  memOk_foldl (fun _ _ hs => memOk_of_mem hs (State.setMetaPa_mem ..)) _ (memOk_writeBlocks h _ _)

theorem memOk_place_ {s : State} (h : MemOk s) (i : Nat) (r : Region) (m : Img) (tiles : List Nat) (bads : List Word) :
    MemOk (s.place_ i r m tiles bads) := by
  refine memOk_of_mem ?_ (State.updReg_mem ..)
  refine memOk_foldl (fun _ _ hs => memOk_of_mem hs (setIsland_mem ..)) _ ?_
  refine memOk_foldl (fun _ _ hs => memOk_of_mem hs (State.updTile_mem ..)) _ ?_
  refine memOk_foldl (fun _ _ hs => memOk_writePa (memOk_writePa hs ..) ..) _ ?_
  refine memOk_foldl (fun _ _ hs => memOk_vaultData hs ..) _ ?_
  exact memOk_foldl (fun _ _ hs => memOk_grantPages hs ..) _ h

@[simp] theorem dropLoad_mem (s : State) (i : Nat) (r : Region) : (s.dropLoad i r).mem = s.mem := by
  have ht := foldl_mem (f := fun (s : State) g => s.updTile g (fun (x : Tile) => if x.inst = some i then { x with inst := none } else x))
    (fun _ _ => State.updTile_mem ..) r.tiles s
  unfold State.dropLoad
  grind [State.updReg_mem]

@[simp] theorem refuseImage_mem (s : State) (i : Nat) (r : Region) (at_ : Option (Img × List Nat × List Word)) (e : ImgErr) :
    (s.refuseImage i r at_ e).mem = s.mem := by
  unfold State.refuseImage
  grind [dropLoad_mem, State.takeFree, endJob_mem]

theorem memOk_install_ {s : State} (h : MemOk s) (i : Nat) (r : Region) (m : Img) (tiles : List Nat) (later : Bool) :
    MemOk (s.install_ i r m tiles later) := by
  unfold State.install_
  split
  · exact memOk_of_mem (memOk_foldl (fun _ _ hs => memOk_of_mem hs (State.updTile_mem ..)) _ h) (State.updReg_mem ..)
  · exact memOk_place_ h ..

theorem memOk_loadAward {s : State} (h : MemOk s) (i : Nat) (r : Region) (t : Tend) (m : Img) (later : Bool) : MemOk (s.loadAward i r t m later) := by
  unfold State.loadAward
  grind [MemOk, memOk_install_]

theorem outOk_execRegionLoad {s : State} (h : MemOk s) : OutOk (execRegionLoad s) := by
  refine outOk_next ?_
  dsimp only
  split
  · exact h
  · split
    · have := memOk_readImg h
      split <;> grind [MemOk, refuseImage_mem, memCheck_mem, memOk_place_]
    · have := memOk_loadImage h
      split <;> grind [MemOk, refuseImage_mem, memCheck_mem, putRec_mem, dropLoad_mem, memOk_loadAward, memOk_install_]
    · exact h

theorem outOk_execLoaderReadWithheld {s : State} (h : MemOk s) : OutOk (execLoaderReadWithheld s) := by
  refine outOk_next ?_
  repeat' split
  all_goals grind [MemOk, State.updReg_mem, memOk_readImg, memOk_loadImage, pageFault_mem]

@[simp] theorem dropWithheld_mem (s : State) (i : Nat) (r : Region) (id : Nat) : (s.dropWithheld i r id).mem = s.mem := by
  unfold State.dropWithheld
  grind [putRec_mem, dropLoad_mem, setRegion_mem]

theorem outOk_execFaultLimitExpiry {s : State} (h : MemOk s) : OutOk (execFaultLimitExpiry s) := by
  refine outOk_next ?_
  grind [MemOk, dropWithheld_mem, State.updReg_mem]

@[simp] theorem go_mem (s : State) (i : Nat) (r : Region) : (s.go i r).mem = s.mem :=
  (State.updReg_mem ..).trans (foldl_mem (fun _ _ => State.updTile_mem ..) _ _)

theorem outOk_execGoToken {s : State} (h : MemOk s) : OutOk (execGoToken s) := by
  refine outOk_next ?_
  grind [MemOk, go_mem]

theorem outOk_execIslandWakeComplete {s : State} (h : MemOk s) : OutOk (execIslandWakeComplete s) := by
  refine outOk_next ?_
  grind [MemOk, setIsland_mem]

theorem memOk_with_free {s : State} (h : MemOk s) (k : Nat) : MemOk { s with free := k } := h

theorem memOk_scrambleVault {s : State} (h : MemOk s) (v : Nat) : MemOk (s.scrambleVault v) := by
  unfold State.scrambleVault
  generalize List.range 0x4000000 = bytes
  generalize List.range 0x100000 = words
  extract_lets pa s₁ s₂ s₃
  have h₁ : MemOk s₁ := memOk_writeBlocks h ..
  have h₂ : MemOk s₂ := memOk_with_free h₁ _
  have h₃ : MemOk s₃ := memOk_foldl (fun _ _ ht => memOk_of_mem ht (State.setMetaPa_mem ..)) _ h₂
  exact memOk_with_free (memOk_of_mem h₃ (State.updVault_mem ..)) _

theorem outOk_execIslandGating {s : State} (h : MemOk s) : OutOk (execIslandGating s) := by
  refine outOk_next ?_
  grind [MemOk, wakePort_mem, memOk_scrambleVault, setIsland_mem]

theorem setSteward_mem (st : NMap Lane) (sl : NMap Word) (l m : List Nat) (s : State) :
    (l.foldl (fun s g => m.foldl (fun s p => s.updTp g p (fun t => { t with sstore := st, slits := sl })) s) s).mem = s.mem :=
  foldl_mem (fun t _ => foldl_mem (fun _ _ => State.updTp_mem ..) m t) l s

theorem outOk_execStewardLoad {s : State} (h : MemOk s) : OutOk (execStewardLoad s) := by
  refine outOk_next (memOk_of_mem h ?_)
  dsimp only
  split
  · rfl
  split
  · rfl
  split
  · rfl
  split
  · simp
  · rw [State.setHub_mem, setSteward_mem]

theorem outOk_execStewardLoadDone {s : State} (h : MemOk s) : OutOk (execStewardLoadDone s) := by
  refine outOk_next ?_
  grind [MemOk]

/-! ### Memory under the functions of `Machine/Tender.lean` -/

@[simp] theorem readFrame_mem (s : State) (inst tenant root fuel va n : Nat) : (s.readFrame inst tenant root fuel va n).2.mem = s.mem := by
  induction fuel generalizing va n with
  | zero => rfl
  | succ fuel ih =>
    unfold State.readFrame
    grind [memCheck_mem]

@[simp] theorem rangesFor_mem (s : State) (inst tenant root : Nat) (ws : List Word) (m : Img) :
    (s.rangesFor inst tenant root ws m).2.mem = s.mem := by
  unfold State.rangesFor
  grind [readFrame_mem]

theorem memOk_bidsFor {s : State} (h : MemOk s) (t : Tend) : MemOk (s.bidsFor t).2 := by
  unfold State.bidsFor
  grind [MemOk, rangesFor_mem, memOk_loadImage]

@[simp] theorem updTend_mem (s : State) (seq : Nat) (f : Tend → Tend) : (s.updTend seq f).mem = s.mem := rfl

@[simp] theorem award_mem (s : State) (t : Tend) : (s.award t).mem = s.mem := by
  unfold State.award
  grind [bumpFleet_mem, addTend_mem, putRec_mem, makeRegion_mem, updTend_mem]

theorem outOk_execTenderAnnounce {s : State} (h : MemOk s) : OutOk (execTenderAnnounce s) := by
  refine outOk_next ?_
  split
  · exact h
  · exact memOk_foldl (fun _ _ ht => memOk_of_mem ht (bumpFleet_mem ..)) _ (memOk_of_mem (memOk_bidsFor h _) (updTend_mem ..))

theorem outOk_execBidWindowExpiry {s : State} (h : MemOk s) : OutOk (execBidWindowExpiry s) := by
  refine outOk_next ?_
  grind [MemOk, award_mem, updTend_mem]

theorem outOk_execAwardGo {s : State} (h : MemOk s) : OutOk (execAwardGo s) := by
  refine outOk_next ?_
  grind [MemOk, updTend_mem, go_mem]

@[simp] theorem withdraw_mem (s : State) (t : Tend) : (s.withdraw t).mem = s.mem := by
  unfold State.withdraw
  grind [bumpFleet_mem, award_mem, dropLoad_mem]

theorem memOk_awardFails {s : State} (h : MemOk s) (t : Tend) (r : Region) : MemOk (s.awardFails t r).2 := by
  unfold State.awardFails
  grind [MemOk, memOk_loadImage]

theorem outOk_execLoaderWithdrawal {s : State} (h : MemOk s) : OutOk (execLoaderWithdrawal s) := by
  refine outOk_next ?_
  grind [MemOk, memOk_awardFails, withdraw_mem]

theorem memOk_runTender (i : Instr) (f : Fields) {s : State} (h : MemOk s) (mk : Nat → ReqOp) : MemOk (runTender i f s mk) := by
  unfold runTender
  grind [MemOk, memOk_beginTask, issueOr_mem]

theorem outOk_execTndWd (f : Fields) {s : State} (h : MemOk s) : OutOk (execTndWd f s) := by
  refine outOk_next ?_
  grind [MemOk, memOk_beginTask, issueOr_mem]

theorem outOk_execTndSt (f : Fields) {s : State} (h : MemOk s) : OutOk (execTndSt f s) := by
  refine outOk_next ?_
  grind [MemOk, memOk_beginTask, issueOr_mem]

theorem memOk_doCall {s : State} (h : MemOk s) (r : Req) (ws : List Word) : MemOk (s.doCall r ws) := by
  unfold State.doCall
  grind [MemOk, addTend_mem, memCheck_mem, finish_mem, memOk_readImg, State.takeFree]

theorem memOk_doCost {s : State} (h : MemOk s) (r : Req) (g f2 f4 f5 : Nat) (ws : List Word) : MemOk (s.doCost r g f2 f4 f5 ws) := by
  unfold State.doCost
  grind [MemOk, rangesFor_mem, finish_mem, memOk_loadImage]

theorem memOk_doWithdraw {s : State} (h : MemOk s) (r : Req) (g seq : Nat) : MemOk (s.doWithdraw r g seq) := by
  unfold State.doWithdraw
  grind [MemOk, bumpFleet_mem, finish_mem, withdraw_mem, memOk_discard]

@[simp] theorem doTenderState_mem (s : State) (r : Req) (seq : Nat) : (s.doTenderState r seq).mem = s.mem := by
  unfold State.doTenderState
  grind [finish_mem]

/-! ### Memory under the functions of `Machine/AtHome.lean` -/

@[simp] theorem stopCause_mem (s : State) (r : Region) : (s.stopCause r).2.mem = s.mem := by
  unfold State.stopCause
  grind [State.takeFree]

theorem memOk_with_free_ckpts {s : State} (h : MemOk s) (k : Nat) (m : NMap Tile) : MemOk { s with free := k, ckpts := m } := h

theorem memOk_writeCkpt {s : State} (h : MemOk s) (g i : Nat) (r : Region) (pa : Nat) : MemOk (s.writeCkpt g i r pa) := by
  unfold State.writeCkpt
  generalize List.replicate 28 (0 : Word) = pad
  generalize internalWords = n
  extract_lets t
  split
  next c s₁ e =>
    have hm : s₁.mem = s.mem := by simpa only [e] using stopCause_mem s r
    extract_lets nre key fr hdr s₂
    have h₂ : MemOk s₂ := memOk_writeBlocks (memOk_of_mem h hm) ..
    exact memOk_with_free_ckpts h₂ _ _

theorem memOk_restoreFails {s : State} (h : MemOk s) (i g team : Nat) (t : Tile) (x : Nat × Nat × Nat × Nat × Nat) :
    MemOk (s.restoreFails i g team t x) := memOk_discard (memOk_of_mem h (State.updReg_mem ..)) _ _

theorem memOk_doCkpt {s : State} (h : MemOk s) (r : Req) (pa : Nat) : MemOk (s.doCkpt r pa) := by
  unfold State.doCkpt
  grind [MemOk, performedNow_mem, memOk_writeCkpt]

theorem memOk_doRstor {s : State} (h : MemOk s) (r : Req) (pa : Nat) : MemOk (s.doRstor r pa) := by
  unfold State.doRstor
  grind [MemOk, memOk_refuseWord, State.updTile_mem, performedNow_mem, memOk_restoreFails, State.updCtx_mem]

theorem memOk_doDesc {s : State} (h : MemOk s) (r : Req) (w : Lane) (pa : Nat) (ws : List Word) : MemOk (s.doDesc r w pa ws) := by
  unfold State.doDesc
  grind [MemOk, performedNow_mem, memOk_copyDesc, memOk_shfDesc]

@[simp] theorem readRange_mem (s : State) (who : Agent) (key : Option Nat) (k : Nat) (pl : Place) (l : List (Nat × Nat)) :
    (s.readRange who key k pl l).2.mem = s.mem := by
  induction l generalizing s with
  | nil => rfl
  | cons x l ih => simp [State.readRange, ih]

@[simp] theorem wordsAs_mem (s : State) (who : Agent) (key : Option Nat) (k n : Nat) (pl : Place) : (s.wordsAs who key k n pl).2.mem = s.mem := by
  induction n generalizing s pl with
  | zero => rfl
  | succ n ih => simp [State.wordsAs, ih]

theorem memOk_homePart {s : State} (h : MemOk s) (r : Req) : MemOk (s.homePart r) := by
  unfold State.homePart
  grind [MemOk, finish_mem, memOk_doPiece, memOk_dataError, progress_mem, mended_mem, State.updReq_mem]

theorem memOk_homeWhole {s : State} (h : MemOk s) (r : Req) {act : State → Nat → List Word → State} (ha : ∀ t pa ws, MemOk t → MemOk (act t pa ws)) :
    MemOk (s.homeWhole r act) := by
  unfold State.homeWhole
  grind [MemOk, wordsAs_mem, memOk_dataError, progress_mem]

@[simp] theorem orphanRead_mem (s : State) (id : Nat) : (s.orphanRead id).mem = s.mem := by
  unfold State.orphanRead
  grind [checkRecord_mem, blockError_mem]

theorem outOk_execAccessAtHome {s : State} (h : MemOk s) : OutOk (execAccessAtHome s) := by
  unfold execAccessAtHome
  generalize (0x240000 : Nat) = n
  refine outOk_next ?_
  generalize s.liveReq s.ev.id = o
  cases o with
  | none => exact memOk_of_mem h (orphanRead_mem ..)
  | some r =>
  refine memOk_ite h ?_
  generalize r.op = op
  cases op with
  | load | store | amo => exact memOk_homePart h r
  | desc => exact memOk_homeWhole h r fun _ _ _ ht => memOk_doDesc ht ..
  | jobSpawn => exact memOk_homeWhole h r fun _ _ _ ht => memOk_doSpawn ht ..
  | tndCall => exact memOk_homeWhole h r fun _ _ _ ht => memOk_doCall ht ..
  | tndCost => exact memOk_homeWhole h r fun _ _ _ ht => memOk_doCost ht ..
  | mig => exact memOk_homeWhole h r fun _ _ _ ht => memOk_of_mem ht (doMig_mem ..)
  | bmcInv first count =>
    generalize r.pieces = ps
    cases ps with
    | cons p _ => exact memOk_ite (memOk_of_mem h (doBmcInv_mem ..)) h
    | nil => exact h
  | jobJoin => exact memOk_of_mem h (doJoin_mem ..)
  | sig => exact memOk_of_mem h (doSig_mem ..)
  | tndWd => exact memOk_doWithdraw h ..
  | tndSt => exact memOk_of_mem h (doTenderState_mem ..)
  | ckpt => exact memOk_doCkpt h ..
  | rstor pa => exact memOk_ite (memOk_dataError h ..) (memOk_doRstor h ..)
  | _ => exact h

/-! ### Memory under the functions of `Machine/Preempt.lean` -/

@[simp] theorem regionEvent_mem (s : State) (event i : Nat) (r : Region) : (s.regionEvent event i r).mem = s.mem := rfl

theorem memOk_checkpoint {s : State} (h : MemOk s) (i : Nat) (r : Region) (cause : Nat) : MemOk (s.checkpoint i r cause) := by
  have hs : MemOk (r.tiles.foldl (fun s g => s.updTile g (fun t => { t with inst := none }))
      (r.slots.foldl (fun s (x : Slot) => s.writeCkpt x.tile i r (s.slotAt x.slot)) s)) :=
    memOk_foldl (fun _ _ ht => memOk_of_mem ht (State.updTile_mem ..)) _ (memOk_foldl (fun _ _ ht => memOk_writeCkpt ht ..) _ h)
  unfold State.checkpoint
  grind [MemOk, regionEvent_mem, State.updReg_mem]

theorem outOk_execPreemption {s : State} (h : MemOk s) : OutOk (execPreemption s) := by
  refine outOk_next ?_
  have ht := fun (l : List Nat) => foldl_mem (f := fun (s : State) g => s.updTile g (fun t => { t with intake := false }))
    (fun _ _ => State.updTile_mem ..) l s
  grind [MemOk, askStop_mem, memOk_checkpoint, State.updReg_mem]

@[simp] theorem reissue_mem (s : State) (i : Nat) : (s.reissue i).mem = s.mem := by simp [State.reissue]

@[simp] theorem restoreTeams_mem (s : State) (i : Nat) (r : Region) : (s.restoreTeams i r).mem = s.mem :=
  foldl_mem (fun _ _ => by grind [State.updReg_mem, State.updTile_mem]) _ s

theorem outOk_execRegionResume {s : State} (h : MemOk s) : OutOk (execRegionResume s) := by
  have hi := fun (l : List Nat) => foldl_mem (f := fun (s : State) k => s.setIsland k 3) (fun _ _ => setIsland_mem ..) l s
  have hw := fun (l : List Nat) (t : State) => foldl_mem (f := fun (s : State) g => s.wakeTile g) (fun _ _ => wakeTile_mem ..) l t
  refine outOk_next ?_
  grind [MemOk, regionEvent_mem, State.updReg_mem, reissue_mem, memOk_restoreFails, restoreTeams_mem, memOk_machineCheck, blockError_mem]

/-! ### Memory under the functions of `Machine/Fleet.lean` -/

@[simp] theorem updLink_mem (s : State) (p : Nat) (f : Link → Link) : (s.updLink p f).mem = s.mem := rfl

theorem outOk_execChipNumberWrite {s : State} (h : MemOk s) : OutOk (execChipNumberWrite s) := by
  refine outOk_next ?_
  grind [MemOk, State.setHub_mem]

theorem outOk_execChipNumberExchange {s : State} (h : MemOk s) : OutOk (execChipNumberExchange s) := by
  refine outOk_next ?_
  grind [MemOk, updLink_mem]

theorem memOk_linkDown {s : State} (h : MemOk s) (p : Nat) : MemOk (s.linkDown p) :=
  memOk_foldl (fun _ _ ht => memOk_discard ht ..) _ (memOk_of_mem h (by simp))

@[simp] theorem peerAccess_mem (s : State) (chip : Nat) : (s.peerAccess chip).mem = s.mem := by
  unfold State.peerAccess
  grind [State.setMetaPa_mem, State.addReq_mem]

@[simp] theorem peerFrame_mem (s : State) (chip : Nat) : (s.peerFrame chip).mem = s.mem := by
  unfold State.peerFrame
  grind [peerAccess_mem, peerShuffle_mem]

theorem outOk_execLinkFrameReceive {s : State} (h : MemOk s) : OutOk (execLinkFrameReceive s) := by
  refine outOk_next ?_
  grind [MemOk, memOk_linkDown, wakePort_mem, peerFrame_mem, rollWindow_mem, updLink_mem]

theorem outOk_execLinkReplay {s : State} (h : MemOk s) : OutOk (execLinkReplay s) := by
  refine outOk_next ?_
  grind [MemOk, updLink_mem]

theorem outOk_execLinkRetrain {s : State} (h : MemOk s) : OutOk (execLinkRetrain s) := by
  refine outOk_next ?_
  grind [MemOk, updLink_mem]

theorem outOk_execErrorWindowExpiry {s : State} (h : MemOk s) : OutOk (execErrorWindowExpiry s) := by
  refine outOk_next ?_
  grind [MemOk, rollWindow_mem]

theorem outOk_execTemperatureUpdate {s : State} (h : MemOk s) : OutOk (execTemperatureUpdate s) := by
  refine outOk_next ?_
  grind [MemOk, State.post_mem, State.updTile_mem]

theorem outOk_execPowerAverageUpdate {s : State} (h : MemOk s) : OutOk (execPowerAverageUpdate s) := by
  refine outOk_next ?_
  grind [MemOk]

theorem outOk_execDeviceReset {s : State} (h : MemOk s) : OutOk (execDeviceReset s) := by
  refine outOk_next (memOk_of_mem h ?_)
  rw [apply_ite State.mem, ite_self]

theorem outOk_execFunctionReady {s : State} (h : MemOk s) : OutOk (execFunctionReady s) := by
  refine outOk_next ?_
  grind [MemOk, updLink_mem]

theorem outOk_execMeasurementExtend {s : State} (h : MemOk s) : OutOk (execMeasurementExtend s) := by
  refine outOk_next ?_
  grind [MemOk]

theorem outOk_execReportRequest {s : State} (h : MemOk s) : OutOk (execReportRequest s) := by
  refine outOk_next ?_
  grind [MemOk]

theorem outOk_execReportWritten {s : State} (h : MemOk s) : OutOk (execReportWritten s) := by
  refine outOk_next ?_
  grind [MemOk, memOk_writeBlocks, State.takeFree]

theorem outOk_execKeyInstall {s : State} (h : MemOk s) : OutOk (execKeyInstall s) := by
  refine outOk_next ?_
  grind [MemOk]

theorem memOk_dbgMem {s : State} (h : MemOk s) (g : Nat) (r : Region) (need sk n va : Nat) : MemOk (s.dbgMem g r need sk n va).2 := by
  induction n generalizing s va with
  | zero => exact h
  | succ n ih =>
    unfold State.dbgMem
    grind [MemOk, memOk_translate, memCheck_mem]

theorem memOk_dbgPlace {s : State} (h : MemOk s) (g : Nat) (r : Region) (sp off n : Nat) (wr probe : Bool) :
    MemOk (s.dbgPlace g r sp off n wr probe).2 := by
  unfold State.dbgPlace
  grind [MemOk, memOk_dbgMem]

@[simp] theorem dbgEnd_mem (s : State) (cause : Nat) (data : Word) (st : Nat) : (s.dbgEnd cause data st).mem = s.mem := rfl

@[simp] theorem dbgFree_mem (s : State) : (s.dbgFree).mem = s.mem := rfl

theorem memOk_dbgEnd {s : State} (h : MemOk s) (cause : Nat) (data : Word) (st : Nat) : MemOk (s.dbgEnd cause data st) := h

theorem memOk_dbgRun {s : State} (h : MemOk s) : MemOk s.dbgRun := by
  unfold State.dbgRun
  extract_lets w off g n wr probe
  refine memOk_ite (memOk_dbgEnd h ..) ?_
  generalize (s.tile g).lastInst.bind _ = o
  cases o with
  | none => exact memOk_dbgEnd h ..
  | some r =>
  refine memOk_ite (memOk_dbgEnd h ..) (memOk_ite (memOk_of_mem h (dbgFree_mem _)) ?_)
  have hq := memOk_dbgPlace h g r (bitsOf w 15 12) off n wr probe
  split
  next c t e => exact memOk_dbgEnd (by simpa only [e] using hq) ..
  next o _ t e =>
    have ht : MemOk t := by simpa only [e] using hq
    exact memOk_ite (memOk_dbgEnd (memOk_of_mem ht (State.writeSp_mem ..)) ..) (memOk_dbgEnd ht ..)
  next ps t e =>
    have ht : MemOk t := by simpa only [e] using hq
    refine memOk_ite (memOk_of_mem (memOk_dataError ht ..) (dbgFree_mem _)) (memOk_ite ?_ (memOk_ite (memOk_dbgEnd
      (memOk_foldl (fun _ _ hs => memOk_afterWrite (memOk_putPa hs ..) _) _ ht) ..) (memOk_dbgEnd ht ..)))
    exact memOk_ite (memOk_of_mem (memOk_dataError ht ..) (dbgFree_mem _)) (memOk_dbgEnd ht ..)

theorem outOk_execDebugAccessGo {s : State} (h : MemOk s) : OutOk (execDebugAccessGo s) := by
  refine outOk_next ?_
  grind [MemOk, memOk_dbgRun, State.setHub_mem]

/-! ### Memory under the functions of `Machine/Integer.lean` -/

theorem outOk_execNop (f : Fields) {s : State} (h : MemOk s) : OutOk (execNop f s) := by
  refine outOk_next ?_
  grind [MemOk, retire_mem, memOk_runElem, memOk_beginTask]

/-! ### Memory under the functions of `Machine/Special.lean` -/

theorem memOk_runCtl (i : Instr) {s : State} (h : MemOk s) (ok : Word → Bool) (wide : Elem → Word → Word → Word) (fn : Elem → Lane → Word → Lane) :
    MemOk (runCtl i s ok wide fn) := by
  unfold runCtl
  grind [MemOk, memOk_runElem]

theorem memOk_runRred (i : Instr) {s : State} (h : MemOk s) (fn : Lane → Nat → Lane × Int) : MemOk (runRred i s fn) := by
  unfold runRred
  grind [MemOk, memOk_runCtl]

/-! ### Memory under the functions of `Machine/TaskCtl.lean` -/

theorem memOk_runBranch (i : Instr) (f : Fields) {s : State} (h : MemOk s) (cond : Word → Word → Bool) : MemOk (runBranch i f s cond) := by
  unfold runBranch
  grind [MemOk, retire_mem, memOk_beginTask]

theorem outOk_execCall (f : Fields) {s : State} (h : MemOk s) : OutOk (execCall f s) := by
  refine outOk_next ?_
  grind [MemOk, retire_mem, memOk_beginTask]

theorem outOk_execRet (f : Fields) {s : State} (h : MemOk s) : OutOk (execRet f s) := by
  refine outOk_next ?_
  grind [MemOk, retire_mem, memOk_beginTask]

theorem outOk_execJr (f : Fields) {s : State} (h : MemOk s) : OutOk (execJr f s) := by
  refine outOk_next ?_
  grind [MemOk, putThen_mem, memOk_beginTask]

theorem outOk_execRep (f : Fields) {s : State} (h : MemOk s) : OutOk (execRep f s) := by
  refine outOk_next ?_
  grind [MemOk, retire_mem, memOk_beginTask]

theorem memOk_waitFor {s : State} (h : MemOk s) (t : TIn) (u : Until) {k : State → State} (hk : MemOk (k s)) : MemOk (s.waitFor t u k) := by
  unfold State.waitFor
  grind [MemOk, block_mem]

@[simp] theorem acquireTags_mem (s : State) (t : TIn) (v : Word) : (s.acquireTags t v).mem = s.mem := rfl

theorem outOk_execWait (f : Fields) {s : State} (h : MemOk s) : OutOk (execWait f s) := by
  refine outOk_next ?_
  grind [MemOk, retire_mem, memOk_waitFor, memOk_beginTask, acquireAt_mem]

theorem outOk_execWtagAny (f : Fields) {s : State} (h : MemOk s) : OutOk (execWtagAny f s) := by
  refine outOk_next ?_
  grind [MemOk, putResult_mem, memOk_waitFor, memOk_beginTask, acquireTags_mem]

theorem outOk_execWtagAll (f : Fields) {s : State} (h : MemOk s) : OutOk (execWtagAll f s) := by
  refine outOk_next ?_
  grind [MemOk, retire_mem, memOk_waitFor, memOk_beginTask, acquireTags_mem]

theorem outOk_execFtag (f : Fields) {s : State} (h : MemOk s) : OutOk (execFtag f s) := by
  refine outOk_next ?_
  grind [MemOk, putResult_mem, memOk_beginTask]

theorem outOk_execCtag (f : Fields) {s : State} (h : MemOk s) : OutOk (execCtag f s) := by
  refine outOk_next ?_
  grind [MemOk, retire_mem, memOk_beginTask, State.updTp_mem]

/-! ### A step -/

/-- Every instruction and event keeps memory in canonical form: those of one kind through the function that runs the kind. -/
theorem outOk_exec (i : Instr) {s : State} (h : MemOk s) : OutOk (exec i s) := by
  cases i
  case iAdd | iSub | iMul | iMulh | iMulhu | iDiv | iDivu | iRem | iRemu | iNeg | iAbs | iAdds | iSubs | iMad | iLea | iAnd | iOr | iXor | iAndn |
      iNot | iShl | iShr | iSra | iRol | iPopc | iClz | iCtz | iBext | iBins | iBrev | iBswap | iMov | iSeq | iSne | iSlt | iSle | iSltu | iSleu |
      iSel | iMin | iMax | iMinu | iMaxu | iClamp | iSext | iZext | iFadd | iFsub | iFmul | iFma | iFms | iFnma | iFmin | iFmax | iFabs | iFneg |
      iFeq | iFlt | iFle | iFclass | iFdiv | iFsqrt | iScalb | iFrcpE | iFrsqE | iCvtfI | iCvtiF | iBscale | iMkdesc =>
    exact outOk_next (memOk_runCompute _ _ h _)
  case iLdB | iLdH | iLdW | iLdD | iStB | iStH | iStW | iStD | iLdAcq | iStRel | iAmoAdd | iAmoAnd | iAmoOr | iAmoXor | iAmoMin | iAmoMax |
      iAmoSwp | iAmoCas | iCmb | iCmbF | iSrd | iSwr | iSclr | iSprb | iBar =>
    exact outOk_next (memOk_runMem _ _ h _ _ _)
  case iVld | iVst | iLdt | iSts | iGld | iSst =>
    exact outOk_next (memOk_runPortMem _ h _)
  case iSkAdd | iSkQry | iSkMerge | iSkScale | iSkClr | iSkRd | iSkStat =>
    exact outOk_next (memOk_runUnit _ _ h ..)
  case iBr | iBz | iBnz | iBlt | iBge | iBltu | iBgeu =>
    exact outOk_next (memOk_runBranch _ _ h _)
  case iCp | iCp2 | iCpg | iCps =>
    exact outOk_next (memOk_runCopy _ _ h _)
  case iVsum | iVmax | iVmin =>
    exact outOk_next (memOk_runReduce _ h _ _)
  case iRredExp | iRredLog | iRredTrig =>
    exact outOk_next (memOk_runRred _ h _)
  case iHoldIns | iHoldDrop | iHoldQ =>
    exact outOk_next (memOk_runHold _ _ h ..)
  case iShfGo | iShfFb =>
    exact outOk_next (memOk_runShf _ _ h _)
  case iTndCall | iTndCost =>
    exact outOk_next (memOk_runTender _ _ h _)
  case iLutEv | iLutIx =>
    exact outOk_next (memOk_runCtl _ h ..)
  case iBmcInv =>
    exact outOk_next (memOk_runTaskMem _ _ h _ _)
  case iDone =>
    exact outOk_next (memOk_runDone _ h)
  case iLane | iCvtSr | iPack | iUnpack | iAmax | iVscan | iVperm | iVsplat | iVslide | iVext | iVins | iFilt | iCmpct | iSplit | iCat | iVcnt |
      iArgmx | iSteer | iMerge | iGate | iJoin | iReord | iSink | iEor | iItgen | iCmpfw | iTopkRp | iRnorm | iTagset | iCtlOut | iCtlWt | iErrMk |
      iFin | iRtCnt =>
    exact outOk_next (memOk_runElem h _ _ fun _ _ _ _ _ _ _ _ _ ho => by grind [MemOk, lostNaN_mem, takeIdx_mem, State.updElem_mem, State.takeFree,
      State.addReq_mem, State.updTile_mem, queueTok_mem, State.updReg_mem])
  case iNop => exact outOk_execNop _ h
  case iCvt => exact outOk_execCvt _ h
  case iCall => exact outOk_execCall _ h
  case iRet => exact outOk_execRet _ h
  case iJr => exact outOk_execJr _ h
  case iWait => exact outOk_execWait _ h
  case iWtagAny => exact outOk_execWtagAny _ h
  case iWtagAll => exact outOk_execWtagAll _ h
  case iFtag => exact outOk_execFtag _ h
  case iCtag => exact outOk_execCtag _ h
  case iRep => exact outOk_execRep _ h
  case iFence => exact outOk_execFence _ h
  case iPlf => exact outOk_execPlf _ h
  case iXlt => exact outOk_execXlt _ h
  case iXinv => exact outOk_execXinv _ h
  case iWinChk => exact outOk_execWinChk _ h
  case iMig => exact outOk_execMig _ h
  case iTriad => exact outOk_execTriad _ h
  case iThold => exact outOk_execThold _ h
  case iTdrain => exact outOk_execTdrain _ h
  case iTzero => exact outOk_execTzero _ h
  case iTacc => exact outOk_execTacc _ h
  case iTcomb => exact outOk_execTcomb _ h
  case iTstat => exact outOk_execTstat _ h
  case iTabort => exact outOk_execTabort _ h
  case iTrag => exact outOk_execTrag _ h
  case iTscl => exact outOk_execTscl _ h
  case iTpri => exact outOk_execTpri _ h
  case iSkInit => exact outOk_execSkInit _ h
  case iRtSnap => exact outOk_execRtSnap _ h
  case iRsort => exact outOk_execRsort _ h
  case iRtMap => exact outOk_execRtMap _ h
  case iTndWd => exact outOk_execTndWd _ h
  case iTndSt => exact outOk_execTndSt _ h
  case iJobSpawn => exact outOk_execJobSpawn _ h
  case iJobJoin => exact outOk_execJobJoin _ h
  case iSig => exact outOk_execSig _ h
  case iRngSeed => exact outOk_execRngSeed _ h
  case iRng => exact outOk_execRng _ h
  case iTrap => exact outOk_execTrap _ h
  case iEret => exact outOk_execEret _ h
  case iCtlRd => exact outOk_execCtlRd _ h
  case iCtlWr => exact outOk_execCtlWr _ h
  case iBrk => exact outOk_execBrk _ h
  case iHalt => exact outOk_execHalt _ h
  case iIdle => exact outOk_execIdle _ h
  case iCntRd => exact outOk_execCntRd _ h
  case iSwpPl => exact outOk_execSwpPl _ h
  case iQsc => exact outOk_execQsc _ h
  case iPmt => exact outOk_execPmt _ h
  case iCkpt => exact outOk_execCkpt _ h
  case iRstor => exact outOk_execRstor _ h
  case iIdRd => exact outOk_execIdRd _ h
  case iDbgX => exact outOk_execDbgX _ h
  case iIll => exact outOk_execIll _ h
  case eGoToken => exact outOk_execGoToken h
  case eRegionLoad => exact outOk_execRegionLoad h
  case eLoaderReadWithheld => exact outOk_execLoaderReadWithheld h
  case eTokenArrival => exact outOk_execTokenArrival h
  case eRouterHop => exact outOk_execRouterHop h
  case eArcTokenDeparture => exact outOk_execArcTokenDeparture h
  case eWindowTokenArrival => exact outOk_execWindowTokenArrival h
  case eControlPulseArrival => exact outOk_execControlPulseArrival h
  case eChannelWordArrival => exact outOk_execChannelWordArrival h
  case eFiring => exact outOk_execFiring h
  case eSinkTokenEntry => exact outOk_execSinkTokenEntry h
  case eItgenRunEmit => exact outOk_execItgenRunEmit h
  case eFinEmit => exact outOk_execFinEmit h
  case eContextBreakpointTrap => exact outOk_execContextBreakpointTrap h
  case eDeferredTrapTaken => exact outOk_execDeferredTrapTaken h
  case eContextEnd => exact outOk_execContextEnd h
  case eWatchdogExpiry => exact outOk_execWatchdogExpiry h
  case eAccessAtHome => exact outOk_execAccessAtHome h
  case eAccessCompletion => exact outOk_execAccessCompletion h
  case eStructOpAtHome => exact outOk_execStructOpAtHome h
  case eCombineContribution => exact outOk_execCombineContribution h
  case eCombineQueueAdmit => exact outOk_execCombineQueueAdmit h
  case eBarrierArrival => exact outOk_execBarrierArrival h
  case ePorterBeatLanding => exact outOk_execPorterBeatLanding h
  case eCopyLanded => exact outOk_execCopyLanded h
  case eSketchOpAtUnit => exact outOk_execSketchOpAtUnit h
  case eHoldingsOpAtVault => exact outOk_execHoldingsOpAtVault h
  case eShuffleEntryCode => exact outOk_execShuffleEntryCode h
  case eShufflePacketAdmit => exact outOk_execShufflePacketAdmit h
  case ePacketDecode => exact outOk_execPacketDecode h
  case eShuffleLanded => exact outOk_execShuffleLanded h
  case eRouteSnapshotWrite => exact outOk_execRouteSnapshotWrite h
  case eSorterRun => exact outOk_execSorterRun h
  case eGeneratorRequestServe => exact outOk_execGeneratorRequestServe h
  case eSequencerOpStart => exact outOk_execSequencerOpStart h
  case eBreakIn => exact outOk_execBreakIn h
  case eFeederSliceFetch => exact outOk_execFeederSliceFetch h
  case eTriadStep => exact outOk_execTriadStep h
  case eStreamResultToken => exact outOk_execStreamResultToken h
  case eContractionComplete => exact outOk_execContractionComplete h
  case eDrainComplete => exact outOk_execDrainComplete h
  case eTaccReadServe => exact outOk_execTaccReadServe h
  case eRaggedRowToken => exact outOk_execRaggedRowToken h
  case eRaggedPass => exact outOk_execRaggedPass h
  case eRaggedEndToken => exact outOk_execRaggedEndToken h
  case eRaggedClose => exact outOk_execRaggedClose h
  case eTabortRun => exact outOk_execTabortRun h
  case ePlaneFillComplete => exact outOk_execPlaneFillComplete h
  case eTranslationWalk => exact outOk_execTranslationWalk h
  case eFaultLimitExpiry => exact outOk_execFaultLimitExpiry h
  case eFaultResolve => exact outOk_execFaultResolve h
  case eShootdownRequest => exact outOk_execShootdownRequest h
  case eShootdownReceive => exact outOk_execShootdownReceive h
  case eShootdownComplete => exact outOk_execShootdownComplete h
  case eMigrationLineCopy => exact outOk_execMigrationLineCopy h
  case ePreemption => exact outOk_execPreemption h
  case eRegionResume => exact outOk_execRegionResume h
  case eDistributorPop => exact outOk_execDistributorPop h
  case eIslandWakeComplete => exact outOk_execIslandWakeComplete h
  case eTenderAnnounce => exact outOk_execTenderAnnounce h
  case eBidWindowExpiry => exact outOk_execBidWindowExpiry h
  case eAwardGo => exact outOk_execAwardGo h
  case eLoaderWithdrawal => exact outOk_execLoaderWithdrawal h
  case eStreamAppend => exact outOk_execStreamAppend h
  case eAppendResultRead => exact outOk_execAppendResultRead h
  case eCompletionRecordWrite => exact outOk_execCompletionRecordWrite h
  case eCompletionConsWrite => exact outOk_execCompletionConsWrite h
  case eIntakeMessage => exact outOk_execIntakeMessage h
  case eStewardLoad => exact outOk_execStewardLoad h
  case eStewardLoadDone => exact outOk_execStewardLoadDone h
  case eDebugAccessGo => exact outOk_execDebugAccessGo h
  case eChipNumberWrite => exact outOk_execChipNumberWrite h
  case eChipNumberExchange => exact outOk_execChipNumberExchange h
  case eLinkFrameReceive => exact outOk_execLinkFrameReceive h
  case eLinkReplay => exact outOk_execLinkReplay h
  case eLinkRetrain => exact outOk_execLinkRetrain h
  case eErrorWindowExpiry => exact outOk_execErrorWindowExpiry h
  case eTemperatureUpdate => exact outOk_execTemperatureUpdate h
  case ePowerAverageUpdate => exact outOk_execPowerAverageUpdate h
  case eDeviceReset => exact outOk_execDeviceReset h
  case eFunctionReady => exact outOk_execFunctionReady h
  case eMeasurementExtend => exact outOk_execMeasurementExtend h
  case eReportRequest => exact outOk_execReportRequest h
  case eKeyInstall => exact outOk_execKeyInstall h
  case eHubRegisterWrite => exact outOk_execHubRegisterWrite h
  case eIllegalInstructionWord => exact outOk_execIllegalInstructionWord h
  case eSequencerOperationComplete => exact outOk_execSequencerOperationComplete h
  case eIslandGating => exact outOk_execIslandGating h
  case eReportWritten => exact outOk_execReportWritten h

/-- Settles O7: the passing of time, the choice of the next work and every instruction keep memory in canonical form. -/
theorem memoryCanonicalKept : Obligations.MemoryCanonicalKept := by
  intro s s' h hs
  have hp : MemOk s.passTime := memOk_of_mem h (passTime_mem s)
  unfold step at hs
  dsimp only at hs
  split at hs
  next i t ht => exact outOk_exec i (memOk_of_mem hp (select_mem ht)) s' hs
  · exact outOk_next (memOk_of_mem hp (idleStep_mem _)) s' hs

/-- Settles O6: memory is empty at reset. -/
theorem memoryCanonicalAtReset : Obligations.MemoryCanonicalAtReset := rfl

end Sys2Proof.Machine
end

section
namespace Sys2Proof.Machine

/-! Where an address of a space lies (R93, R102, R104, R252): the checks of `placeRaw` for each kind of space, and what `placeOf` makes of them. -/

theorem kindBad_iff (sk kind : Nat) : kindBad sk kind = true ↔ sk = 0 ∧ kind = 3 ∨ sk = 1 ∧ kind ≠ 3 := by simp [kindBad]

section
variable {s : State} {g : Nat} {wins : NMap Win} {k : Acc}

/-- A scratchpad. -/
theorem placeRaw_spad (h : k.sp < 3) (h0 : 0 ≤ k.ea) : s.placeRaw g wins k =
    if 0x40000 < k.ea.toNat + k.n then .error 0x21
    else if k.sk = 1 then .error 0x27 else .ok (.spad g (k.sp * 0x40000 + k.ea.toNat), 4) := by
  have hl : k.ea < 0 ∨ 0x40000 < k.ea + (k.n : Nat) ↔ 0x40000 < k.ea.toNat + k.n := by omega
  simp only [State.placeRaw, if_pos (show k.sp ≤ 2 by omega), hl]

/-- The vault of a tile, past its end. -/
theorem placeRaw_vault_end (h : k.sp = 3) (hl : 0x4000000 < k.ea.toNat + k.n) : s.placeRaw g wins k = .error 0x21 := by
  have hl : k.ea < 0 ∨ 0x4000000 < k.ea + (k.n : Nat) := by omega
  simp [State.placeRaw, h, hl]

/-- The vault of a tile, within. -/
theorem placeRaw_vault {i : Nat} {r : Region} (h : k.sp = 3) (h0 : 0 ≤ k.ea) (hl : k.ea.toNat + k.n ≤ 0x4000000) (hr : s.regOf g = some (i, r)) :
    s.placeRaw g wins k =
      if k.ea.toNat < r.vbase ∨ r.vbase + r.vsize < k.ea.toNat + k.n then .error 0x26
      else if kindBad k.sk r.vkind then .error 0x27
      else .ok (.phys (vaultAddr (vaultOfTile g) + k.ea.toNat), r.vkind) := by
  have hl : ¬ (k.ea < 0 ∨ 0x4000000 < k.ea + (k.n : Nat)) := by omega
  have hv : k.ea < (r.vbase : Int) ∨ ((r.vbase + r.vsize : Nat) : Int) < k.ea + (k.n : Nat) ↔
      k.ea.toNat < r.vbase ∨ r.vbase + r.vsize < k.ea.toNat + k.n := by omega
  simp only [State.placeRaw, h, hl, hr, hv, if_false, if_true, show ¬ 3 ≤ 2 by decide]

/-- Main memory. -/
theorem placeRaw_virt (h : k.sp = 4) (h0 : 0 ≤ k.ea) : s.placeRaw g wins k =
    if 2 ^ 56 < k.ea.toNat + k.n then .error 0x21 else .ok (.virt k.ea.toNat, 9) := by
  have hl : k.ea < 0 ∨ ((2 ^ 56 : Nat) : Int) < k.ea + (k.n : Nat) ↔ 2 ^ 56 < k.ea.toNat + k.n := by omega
  simp only [State.placeRaw, h, hl, if_false, if_true, show ¬ 4 ≤ 2 by decide, show (4 : Nat) ≠ 3 by decide]

/-- A window that holds nothing. -/
theorem placeRaw_noWindow (h : 5 ≤ k.sp) (hw : NMap.find wins (k.sp - 5) = none) : s.placeRaw g wins k = .error 0x24 := by
  simp only [State.placeRaw, hw, if_neg (show ¬ k.sp ≤ 2 by omega), if_neg (show k.sp ≠ 3 by omega), if_neg (show k.sp ≠ 4 by omega)]

/-- A window. -/
theorem placeRaw_window {w : Win} (h : 5 ≤ k.sp) (h0 : 0 ≤ k.ea) (hw : NMap.find wins (k.sp - 5) = some w) : s.placeRaw g wins k =
    if w.revoked then .error 0x23
    else if w.extent < k.ea.toNat + k.n then .error 0x21
    else if k.rd = true ∧ w.rd = false ∨ k.wr = true ∧ w.wr = false then .error 0x25
    else if kindBad k.sk w.kind then .error 0x27
    else .ok (.phys (w.base + k.ea.toNat), w.kind) := by
  have hl : k.ea < 0 ∨ (w.extent : Int) < k.ea + (k.n : Nat) ↔ w.extent < k.ea.toNat + k.n := by omega
  simp only [State.placeRaw, hw, hl, if_neg (show ¬ k.sp ≤ 2 by omega), if_neg (show k.sp ≠ 3 by omega), if_neg (show k.sp ≠ 4 by omega),
    Bool.not_eq_true']

theorem placeOf_error {op : ReqOp} {cause : Nat} (h : s.placeRaw g wins k = .error cause) : s.placeOf g wins op k = .error cause := by
  simp only [State.placeOf, h]

theorem placeOf_ok {op : ReqOp} {pl : Place} {kind : Nat} (h : s.placeRaw g wins k = .ok (pl, kind)) : s.placeOf g wins op k =
    if s.answers wins k.sp (s.barPlace g k.sp op pl) then .ok (s.barPlace g k.sp op pl, kind) else .error 0x21 := by
  simp only [State.placeOf, h]

theorem barPlace_load (s : State) (g sp : Nat) (pl : Place) : s.barPlace g sp .load pl = pl := rfl

/-- An operation whose place no barrier table moves is performed where its address lies. -/
theorem placeOf_eq_place {op : ReqOp} (h : ∀ pl kind, s.placeRaw g wins k = .ok (pl, kind) → s.barPlace g k.sp op pl = pl) :
    s.placeOf g wins op k = s.place g wins k := by
  cases hr : s.placeRaw g wins k with
  | error cause => simp only [State.place, placeOf_error hr]
  | ok x => rw [State.place, placeOf_ok hr, placeOf_ok hr, h _ _ hr, barPlace_load]

theorem place_error {cause : Nat} (h : s.placeRaw g wins k = .error cause) : s.place g wins k = .error cause := placeOf_error h

theorem place_ok {pl : Place} {kind : Nat} (h : s.placeRaw g wins k = .ok (pl, kind)) (ha : s.answers wins k.sp pl = true) :
    s.place g wins k = .ok (pl, kind) := by
  simp only [State.place, placeOf_ok h, barPlace_load, ha, if_true]

/-- Outside the windows no key slot but 0 counts. -/
theorem answers_phys_vault (sp pa : Nat) (h : sp < 5) : s.answers wins sp (.phys pa) = s.paOk pa 0 := by
  simp only [State.answers, if_neg (show ¬ 5 ≤ sp by omega)]
  cases NMap.find wins (sp - 5) <;> rfl

theorem answers_phys_window {sp : Nat} {w : Win} (h : 5 ≤ sp) (hw : NMap.find wins (sp - 5) = some w) (pa : Nat) :
    s.answers wins sp (.phys pa) = s.paOk pa w.key := by
  simp only [State.answers, hw, if_pos h]

end

/-! The place of a listed barrier (R319). -/

theorem barPlace_other {op : ReqOp} (h : ∀ m, op ≠ .bar m) (s : State) (g sp : Nat) (pl : Place) : s.barPlace g sp op pl = pl := by
  unfold State.barPlace
  split
  · exact absurd rfl (h _)
  · rfl

theorem barPlace_other_space {sp : Nat} (h : sp ≠ 3) (s : State) (g : Nat) (op : ReqOp) (pl : Place) : s.barPlace g sp op pl = pl := by
  unfold State.barPlace
  split
  · rw [if_neg h]
  · rfl

/-- The offset in the vault of an aligned address of the vault. -/
theorem vault_offset (v : Nat) {a : Nat} (h : a % 16 = 0) : (vaultAddr v + a) / 16 * 16 - vaultAddr v = a := by
  unfold vaultAddr vaultBase; omega

theorem barPlace_listed {s : State} {g a v x : Nat} (n : Nat) (h : a % 16 = 0) (hf : (s.tile g).barriers.find? (fun b => b.2 == a) = some (v, x)) :
    s.barPlace g 3 (.bar n) (.phys (vaultAddr (vaultOfTile g) + a)) = .phys (vaultAddr v + x) := by
  simp only [State.barPlace, vault_offset _ h, hf, if_true]

theorem barPlace_unlisted {s : State} {g a : Nat} (n : Nat) (h : a % 16 = 0) (hf : ∀ b ∈ (s.tile g).barriers, b.2 ≠ a) :
    s.barPlace g 3 (.bar n) (.phys (vaultAddr (vaultOfTile g) + a)) = .phys (vaultAddr (vaultOfTile g) + a) := by
  have hf : (s.tile g).barriers.find? (fun b => b.2 == a) = none := by simpa using hf
  simp only [State.barPlace, vault_offset _ h, hf, if_true]

theorem barrierPlaces : Claims.PartBarrierPlaces := by
  intro s g n wins op k
  refine ⟨fun h => placeOf_eq_place fun _ _ _ => barPlace_other h .., fun h => placeOf_eq_place fun _ _ _ => barPlace_other_space h .., ?_⟩
  intro i r hsp hsk h0 h16 hlast hreg hlo hhi
  have ha : k.ea.toNat % 16 = 0 := by omega
  have hraw : s.placeRaw g wins k = .ok (.phys (vaultAddr (vaultOfTile g) + k.ea.toNat), r.vkind) := by
    rw [placeRaw_vault hsp h0 (by omega) hreg, if_neg (by omega), if_neg (by simp [kindBad_iff, hsk])]
  constructor
  · intro v x hf
    rw [placeOf_ok hraw, hsp, barPlace_listed n ha hf, answers_phys_vault 3 _ (by decide)]
    rfl
  · intro hf
    refine placeOf_eq_place fun pl kind hpl => ?_
    obtain ⟨rfl, rfl⟩ : .phys (vaultAddr (vaultOfTile g) + k.ea.toNat) = pl ∧ r.vkind = kind := by simpa [hraw] using hpl
    rw [hsp, barPlace_unlisted n ha hf]

/-- Settles O35, by the kinds of space. -/
theorem addressChecks : Obligations.AddressChecks := by
  refine ⟨barrierPlaces, fun s g wins k h0 => ?_⟩
  have hbad (kind : Nat) := kindBad_iff k.sk kind
  refine ⟨?_, ?_, ?_, ?_, ?_, ?_, ?_, ?_, ?_, ?_⟩
  · intro hsp hl hsk
    exact place_ok (by rw [placeRaw_spad hsp h0, if_neg (by omega), if_neg hsk]) rfl
  · intro hsp hl
    exact place_error (by rw [placeRaw_spad hsp h0, if_pos hl])
  · intro hsp hl hsk
    exact place_error (by rw [placeRaw_spad hsp h0, if_neg (by omega), if_pos hsk])
  · intro hsp hl
    exact place_error (placeRaw_vault_end hsp hl)
  · intro i r hsp hl hr hv
    exact place_error (by rw [placeRaw_vault hsp h0 hl hr, if_pos hv])
  · intro i r hsp hl hr hlo hhi hk ha
    refine place_ok (by rw [placeRaw_vault hsp h0 hl hr, if_neg (by omega), if_neg (by rwa [hbad])]; rfl) ?_
    rwa [answers_phys_vault _ _ (by omega)]
  · intro hsp hl
    exact place_ok (by rw [placeRaw_virt hsp h0, if_neg (by omega)]) rfl
  · intro hsp hl
    exact place_error (by rw [placeRaw_virt hsp h0, if_pos hl])
  · intro hsp hw
    exact place_error (placeRaw_noWindow hsp hw)
  · intro w hsp hw
    have hraw := placeRaw_window (s := s) (g := g) hsp h0 hw
    refine ⟨?_, ?_, ?_, ?_, ?_⟩
    · intro hv
      exact place_error (by rw [hraw, if_pos hv])
    · intro hv hl
      exact place_error (by rw [hraw, if_neg (by simp [hv]), if_pos hl])
    · intro hv hl hp
      exact place_error (by rw [hraw, if_neg (by simp [hv]), if_neg (by omega), if_pos hp])
    · intro hv hl hp hk
      exact place_error (by rw [hraw, if_neg (by simp [hv]), if_neg (by omega), if_neg hp, if_pos (by rwa [hbad])])
    · intro hv hl hp hk ha
      refine place_ok (by rw [hraw, if_neg (by simp [hv]), if_neg (by omega), if_neg hp, if_neg (by rwa [hbad])]) ?_
      rwa [answers_phys_window hsp hw]

end Sys2Proof.Machine
end

section
namespace Sys2Proof.Machine
open State

/-! A counterexample to O36: a `st.rel` whose aligned unit straddles the end of its window. `State.storeBelow` asks only for a store (R126), so
it adds a request for what lies below the end, though one with no parts; O36 has no effect but the trap for an operation on an aligned unit. -/

/-- `st.rel` of register 5 at the address in register 1. -/
def relInstr : Instr := .iStRel ⟨1, 31, 5, 28, 0⟩

/-- Its literal: 8 bytes at offset 0 of window 0. -/
def relLit : Word := BitVec.ofNat 64 (5 * 2 ^ 52 + 3 * 2 ^ 56)

/-- Window 0 holds the first four bytes of a page, for writing. -/
def shortWindow : Win := { base := 0x1000, extent := 4, kind := 1, rd := true, wr := true, img := false, key := 0, seq := 0, tenant := 0,
                           va := 0x1000, size := 0, revoked := false }

/-- Context 0 of tile 0 is about to issue the `st.rel`, and memory is ready. -/
def relState : State :=
  let s := { State.reset.withRegion with ready0 := BitVec.allOnes 64, ready1 := BitVec.allOnes 64, keys := [(0, [])], site := .task 0 0 0 }
  let s := s.updTp 0 0 (fun q => { q with store := [(0, (encodeWord relInstr).getD 0)], lits := [(0, relLit)] })
  s.updCtx 0 0 0 (fun x => { x with status := .runnable, wins := [(0, shortWindow)] })

/-- The shape of a `st.rel`. -/
def relShape : Shape := (taskShape relInstr).get (by decide)

theorem relState_issues : Issues relState relInstr relShape 0 0 0 :=
  ⟨rfl, by decide, by decide +kernel, by decide, by decide +kernel, by decide +kernel, by decide +kernel, by decide +kernel⟩

/-- The step adds a request. -/
theorem storeRel_adds_request : reqCount (exec relInstr relState) = 1 := by decide +kernel

/-- Refutes O36: the address of the `st.rel` is refused with cause 0x21, and the step does more than trap. -/
theorem not_taskMemoryIssues : ¬ Obligations.TaskMemoryIssues := by
  rintro ⟨h, -⟩
  obtain ⟨-, traps, -⟩ := h relState relInstr relShape 0 0 0 _ _ relState_issues rfl rfl
  have htrap := traps 0x21 (by decide +kernel) (by decide +kernel) (.inr (.inl (by decide +kernel)))
  have hadds := storeRel_adds_request
  rw [htrap] at hadds
  exact absurd hadds (by decide +kernel)

end Sys2Proof.Machine
end

section
namespace Sys2Proof.Machine
open State

/-! The table of requests: what a lookup by number gives after an update. -/

section
variable {s s' : State} {id j : Nat} {r : Req} {f : Req → Req}

theorem req_congr (h : s'.reqs = s.reqs) (id : Nat) : s'.req id = s.req id := by simp only [State.req, h]

/-- An update that keeps the numbers changes the request with its number, where there is one. -/
theorem req_updReq (hf : ∀ r, (f r).id = r.id) (s : State) (id j : Nat) :
    (s.updReq id f).req j = (s.req j).map (fun r => if r.id = id then f r else r) := by
  simp only [State.req, State.updReq, List.find?_map]
  congr 1
  refine congrArg (fun p => List.find? p s.reqs) (funext fun r => ?_)
  simp only [Function.comp]
  split <;> simp [hf]

theorem req_updReq_same (hf : ∀ r, (f r).id = r.id) (h : s.req id = some r) : (s.updReq id f).req id = some (f r) := by
  rw [req_updReq hf, h, Option.map_some, if_pos (id_of_req h)]

theorem req_updReq_other (hf : ∀ r, (f r).id = r.id) (h : j ≠ id) : (s.updReq id f).req j = s.req j := by
  rw [req_updReq hf]
  cases hr : s.req j with
  | none => rfl
  | some r => rw [Option.map_some, if_neg (by rw [id_of_req hr]; exact h)]

theorem req_dropReq_same (s : State) (id : Nat) : (s.dropReq id).req id = none := by
  simp [State.req, State.dropReq]

theorem req_dropReq_other (h : j ≠ id) : (s.dropReq id).req j = s.req j := by
  simp only [State.req, State.dropReq, List.find?_filter]
  refine congrArg (fun p => List.find? p s.reqs) (funext fun r => ?_)
  by_cases hr : r.id = j
  · simp [hr, h]
  · simp [hr]

/-- A new request does not hide an old one. -/
theorem req_addReq (h : s.req id = some r) (q : Req) : (s.addReq q).req id = some r := by
  simp only [State.req, State.addReq, List.find?_append]
  rw [show s.reqs.find? (fun r => r.id == id) = some r from h, Option.some_or]

end

/-! What answering a request leaves alone: everything but the requests, the contexts, the watchdogs, what agents have observed, and the answers
that homes hold. -/

/-- Only that has changed; a home's answers have at most grown. -/
structure Answers (s s' : State) : Prop where
  rest : { s' with reqs := s.reqs, tiles := s.tiles, regions := s.regions, vaults := s.vaults, stale := s.stale } = s
  live : ∀ i, (s'.liveReg i).isSome = (s.liveReg i).isSome
  vault : ∀ v, ∃ l, s'.vault v = { s.vault v with answers := (s.vault v).answers ++ l }
  tiles : ∀ x ∈ s'.tiles, x.2.inst.isSome = true → ∃ y ∈ s.tiles, y.2.inst = x.2.inst ∧ y.2.barriers = x.2.barriers

section
variable {s s' s'' : State}

/-- No answer comes to be held where the vaults stay. -/
theorem noAnswers (h : s'.vaults = s.vaults) (v : Nat) : ∃ l, s'.vault v = { s.vault v with answers := (s.vault v).answers ++ l } := by
  refine ⟨[], ?_⟩
  rw [List.append_nil]
  exact congrArg (fun m => NMap.get m v Vault.reset) h

theorem Answers.refl (s : State) : Answers s s := ⟨rfl, fun _ => rfl, noAnswers rfl, fun x hx _ => ⟨x, hx, rfl, rfl⟩⟩

theorem Answers.trans (h : Answers s s') (h' : Answers s' s'') : Answers s s'' where
  rest := by
    have e := congrArg (fun t : State => { t with reqs := s.reqs, tiles := s.tiles, regions := s.regions, vaults := s.vaults, stale := s.stale }) h'.rest
    exact e.trans h.rest
  live i := (h'.live i).trans (h.live i)
  vault v := by
    obtain ⟨l, hl⟩ := h.vault v
    obtain ⟨l', hl'⟩ := h'.vault v
    exact ⟨l ++ l', by rw [hl', hl]; simp⟩
  tiles x hx hi := by
    obtain ⟨y, hy, hyi, hyb⟩ := h'.tiles x hx hi
    obtain ⟨z, hz, hzi, hzb⟩ := h.tiles y hy (by rw [hyi, hi])
    exact ⟨z, hz, hzi.trans hyi, hzb.trans hyb⟩

theorem Answers.mem (h : Answers s s') : s'.mem = s.mem := (congrArg State.mem h.rest :)
theorem Answers.blockWord (h : Answers s s') : s'.blockWord = s.blockWord := (congrArg State.blockWord h.rest :)
theorem Answers.keyed (h : Answers s s') : s'.keyed = s.keyed := (congrArg State.keyed h.rest :)
theorem Answers.keys (h : Answers s s') : s'.keys = s.keys := (congrArg State.keys h.rest :)
theorem Answers.migs (h : Answers s s') : s'.migs = s.migs := (congrArg State.migs h.rest :)

theorem Answers.pool (h : Answers s s') (v : Nat) : (s'.vault v).pool = (s.vault v).pool := by
  obtain ⟨l, hl⟩ := h.vault v
  rw [hl]
theorem Answers.parties (h : Answers s s') (v : Nat) : (s'.vault v).parties = (s.vault v).parties := by
  obtain ⟨l, hl⟩ := h.vault v
  rw [hl]
theorem Answers.cmbs (h : Answers s s') (v : Nat) : (s'.vault v).cmbs = (s.vault v).cmbs := by
  obtain ⟨l, hl⟩ := h.vault v
  rw [hl]
theorem Answers.cmbQ (h : Answers s s') (v : Nat) : (s'.vault v).cmbQ = (s.vault v).cmbQ := by
  obtain ⟨l, hl⟩ := h.vault v
  rw [hl]

theorem Answers.reqLive (h : Answers s s') (r : Req) : s'.reqLive r = s.reqLive r := by
  unfold State.reqLive
  split
  · rfl
  · exact h.live _

/-- No barrier object comes about by it. -/
theorem Answers.barObject (h : Answers s s') {a : Nat} (hb : s.barObject a = false) : s'.barObject a = false := by
  by_contra hc
  rw [Bool.not_eq_false] at hc
  refine absurd ?_ (Bool.eq_false_iff.mp hb)
  simp only [State.barObject, Bool.and_eq_true, Bool.or_eq_true, h.parties] at hc ⊢
  refine ⟨hc.1, hc.2.imp (fun ht => ?_) id⟩
  obtain ⟨x, hx, hxb⟩ := List.any_eq_true.mp ht
  rw [Bool.and_eq_true] at hxb
  obtain ⟨y, hy, hyi, hyb⟩ := h.tiles x hx hxb.1
  exact List.any_eq_true.mpr ⟨y, hy, by rw [Bool.and_eq_true, hyi, hyb]; exact hxb⟩

theorem answers_updReq (s : State) (id : Nat) (f : Req → Req) : Answers s (s.updReq id f) :=
  ⟨rfl, fun _ => rfl, noAnswers rfl, fun x hx _ => ⟨x, hx, rfl, rfl⟩⟩

theorem answers_dropReq (s : State) (id : Nat) : Answers s (s.dropReq id) :=
  ⟨rfl, fun _ => rfl, noAnswers rfl, fun x hx _ => ⟨x, hx, rfl, rfl⟩⟩

theorem answers_addReq (s : State) (r : Req) : Answers { s with nextId := (s.addReq r).nextId } (s.addReq r) :=
  ⟨rfl, fun _ => rfl, noAnswers rfl, fun x hx _ => ⟨x, hx, rfl, rfl⟩⟩

theorem answers_acquireAt (s : State) (who : Agent) (sc : Nat) (f : Mark → Bool) : Answers s (s.acquireAt who sc f) :=
  ⟨rfl, fun _ => rfl, noAnswers rfl, fun x hx _ => ⟨x, hx, rfl, rfl⟩⟩

theorem mem_of_find {α : Type} {m : NMap α} {k : Nat} {v : α} (h : NMap.find m k = some v) : (k, v) ∈ m := by
  induction m with
  | nil => cases h
  | cons x m ih =>
    obtain ⟨j, w⟩ := x
    by_cases hj : j = k
    · rw [NMap.find, if_pos hj] at h
      cases h
      exact hj ▸ List.mem_cons_self
    · rw [NMap.find, if_neg hj] at h
      exact List.mem_cons_of_mem _ (ih h)

/-- A tile that a region holds stands in the table. -/
theorem tile_of_inst {g : Nat} (h : (s.tile g).inst.isSome = true) : ∃ y ∈ s.tiles, y.2.inst = (s.tile g).inst ∧ y.2.barriers = (s.tile g).barriers := by
  have hg : s.tile g = (NMap.find s.tiles g).getD Tile.reset := NMap.get_eq_find ..
  cases hf : NMap.find s.tiles g with
  | none =>
    rw [hg, hf] at h
    cases h
  | some t => exact ⟨(g, t), mem_of_find hf, by rw [hg, hf]; exact ⟨rfl, rfl⟩⟩

/-- An update of a processor of a tile. -/
theorem answers_updTp (s : State) (g p : Nat) (f : Tp → Tp) : Answers s (s.updTp g p f) := by
  refine ⟨rfl, fun _ => rfl, noAnswers rfl, fun x hx hi => ?_⟩
  obtain rfl | hx := NMap.mem_set hx
  · exact tile_of_inst hi
  · exact ⟨x, hx, rfl, rfl⟩

theorem answers_updCtx (s : State) (g p c : Nat) (f : Ctx → Ctx) : Answers s (s.updCtx g p c f) := answers_updTp ..

theorem answers_wakeCtx (s : State) (g p c : Nat) : Answers s (s.wakeCtx g p c) := by
  unfold State.wakeCtx
  dsimp only
  split_ifs
  · exact answers_updCtx ..
  · exact .refl s

theorem answers_settle (s : State) (id : Nat) : Answers s (s.settle id) := by
  unfold State.settle
  split
  · exact .refl s
  · next r _ =>
    dsimp only
    have hd : Answers s (if (r.performed && !r.counted) = true then s.dropReq id else s) := by
      split_ifs
      · exact answers_dropReq ..
      · exact .refl s
    split
    · refine hd.trans (Answers.trans ?_ (answers_wakeCtx ..))
      split_ifs <;> first | exact answers_updCtx .. | exact .refl _
    · exact hd

/-- A home holds one more answer. -/
theorem answers_hold (s : State) (v id : Nat) : Answers s (s.updVault v (fun x => { x with answers := x.answers ++ [(id, 0)] })) := by
  refine ⟨rfl, fun _ => rfl, fun w => ?_, fun x hx _ => ⟨x, hx, rfl, rfl⟩⟩
  by_cases h : v = w
  · subst h
    exact ⟨[(id, 0)], vault_updVault_same ..⟩
  · exact ⟨[], by rw [vault_updVault_other _ _ h, List.append_nil]⟩

theorem answers_due (s : State) (r : Req) : Answers s (s.due r) := by
  unfold State.due
  split_ifs
  · exact answers_settle ..
  · exact answers_hold ..

theorem answers_finish (s : State) (id : Nat) (res : Word) : Answers s (s.finish id res) := by
  unfold State.finish
  split
  · exact .refl s
  · exact (answers_updReq ..).trans (answers_due ..)

theorem liveReg_isSome (s : State) (i : Nat) : (s.liveReg i).isSome = (NMap.find s.regions i).any Region.live := by
  unfold State.liveReg
  cases NMap.find s.regions i with
  | none => rfl
  | some q => cases hq : q.live <;> simp [hq]

theorem answers_progress (s : State) (i : Nat) : Answers s (s.progress i) := by
  refine ⟨?_, fun j => ?_, noAnswers (updReg_vaults ..), fun x hx _ => ⟨x, by rwa [State.progress, updReg_tiles] at hx, rfl, rfl⟩⟩
  · rw [State.progress, updReg_regions]
  · rw [liveReg_isSome, liveReg_isSome, State.progress, find_updReg]
    split_ifs with hi
    · subst hi
      cases NMap.find s.regions i <;> rfl
    · rfl

theorem answers_performedNow (s : State) (id : Nat) (res : Word) : Answers s (s.performedNow id res) := by
  unfold State.performedNow
  split
  · exact .refl s
  · exact (answers_finish ..).trans (answers_progress ..)

theorem answers_answer (s : State) (id pa : Nat) (val : Word) : Answers s (s.answer id pa val) := by
  unfold State.answer
  split
  · exact .refl s
  · exact (answers_acquireAt ..).trans (answers_performedNow ..)

/-! The requests after an answer. -/

theorem settle_counted {id : Nat} {r : Req} (h : s.req id = some r) (hc : r.counted = true) : (s.settle id).reqs = s.reqs := by
  by_cases hw : ∃ g p c, r.who = .ctx g p c
  · obtain ⟨g, p, c, hw⟩ := hw
    obtain rfl := id_of_req h
    exact (looksAgain_settle h hc hw).reqs
  · obtain rfl := id_of_req h
    rw [settle_of_not_ctx h hc fun g p c hw' => hw ⟨g, p, c, hw'⟩]

theorem wakeCtx_reqs (s : State) (g p c : Nat) : (s.wakeCtx g p c).reqs = s.reqs := (looksAgain_wakeCtx ..).reqs

theorem req_settle_other {id j : Nat} (hj : j ≠ id) : (s.settle id).req j = s.req j := by
  unfold State.settle
  split
  · rfl
  · next r _ =>
    dsimp only
    have hd : (if (r.performed && !r.counted) = true then s.dropReq id else s).req j = s.req j := by
      split_ifs
      · exact req_dropReq_other hj
      · rfl
    split
    · rw [req_congr (wakeCtx_reqs ..), ← hd]
      split_ifs <;> rfl
    · exact hd

theorem req_due {r q : Req} (h : s.req r.id = some q) (hc : q.counted = true) : (s.due r).reqs = s.reqs := by
  unfold State.due
  split_ifs
  · exact settle_counted h hc
  · rfl

theorem req_due_other {r : Req} {j : Nat} (hj : j ≠ r.id) : (s.due r).req j = s.req j := by
  unfold State.due
  split_ifs
  · exact req_settle_other hj
  · rfl

/-- A request with its answer. -/
def Req.answered (r : Req) (res : Word) : Req := { r with phase := .done, res := res }

theorem req_finish {id : Nat} {r : Req} (h : s.req id = some r) (hc : r.counted = true) (res : Word) :
    (s.finish id res).req id = some (r.answered res) := by
  have hu : (s.updReq id (fun r => { r with phase := .done, res := res })).req id = some (r.answered res) := req_updReq_same (fun _ => rfl) h
  have hid := id_of_req h
  simp only [State.finish, h]
  rw [req_congr (req_due (q := r.answered res) (by rw [hid]; exact hu) hc)]
  exact hu

theorem req_finish_other {id j : Nat} (hj : j ≠ id) (res : Word) : (s.finish id res).req j = s.req j := by
  unfold State.finish
  split
  · rfl
  · next r h => exact (req_due_other (by rw [id_of_req h]; exact hj)).trans (req_updReq_other (fun _ => rfl) hj)

theorem progress_reqs (s : State) (i : Nat) : (s.progress i).reqs = s.reqs := updReg_reqs ..

theorem req_performedNow {id : Nat} {r : Req} (h : s.req id = some r) (hc : r.counted = true) (res : Word) :
    (s.performedNow id res).req id = some (r.answered res) := by
  simp only [State.performedNow, h]
  rw [req_congr (progress_reqs ..), req_finish h hc]

theorem req_performedNow_other {id j : Nat} (hj : j ≠ id) (res : Word) : (s.performedNow id res).req j = s.req j := by
  unfold State.performedNow
  split
  · rfl
  · rw [req_congr (progress_reqs ..), req_finish_other hj]

theorem req_answer {id : Nat} {r : Req} (h : s.req id = some r) (hc : r.counted = true) (pa : Nat) (val : Word) :
    (s.answer id pa val).req id = some (r.answered val) := by
  simp only [State.answer, h]
  exact req_performedNow (s := s.acquireAt _ _ _) h hc val

theorem req_answer_other {id j : Nat} (hj : j ≠ id) (pa : Nat) (val : Word) : (s.answer id pa val).req j = s.req j := by
  unfold State.answer
  split
  · rfl
  · rw [req_performedNow_other hj]; rfl

/-! A refusal at its home. -/

/-- Who takes the refusal: an element, or a context in tenant mode. -/
def State.plain (s : State) (r : Req) : Prop := (∃ g e, r.who = .elem g e) ∨ ∃ g n c, r.who = .ctx g n c ∧ (s.ctx g n c).steward = false

theorem answers_unissue (s : State) (r : Req) : Answers s (s.unissue r) := by
  unfold State.unissue
  split
  · exact (answers_dropReq ..).trans (answers_updCtx ..)
  · exact .refl s

theorem answers_takeTrap {g p c : Nat} (h : (s.ctx g p c).steward = false) (cause : BitVec 16) (slot : BitVec 11) (val : Word) (rpt : Rpt) :
    Answers s (s.takeTrap g p c cause slot val rpt) := by
  have hx : (s.updTp g p (fun t => { t with last := c })).ctx g p c = s.ctx g p c := by simp [State.ctx, Tp.ctx]
  simp only [State.takeTrap, hx, h, Bool.false_eq_true, if_false]
  exact (answers_updTp ..).trans (answers_updCtx ..)

theorem ctx_unissue_s {r : Req} {g p c : Nat} (hw : r.who = .ctx g p c) : ((s.unissue r).ctx g p c).s = (s.ctx g p c).s := by
  simp only [State.unissue, hw, ctx_updCtx_same, ctx_dropReq, Ctx.unblock]
  rw [restore_vc]
  cases r.cls <;> rfl

/-- A request with its refusal. -/
def Req.turnedAway (r : Req) (cause : Nat) : Req := { r with phase := .refused cause r.ea }

theorem answers_refuse {r : Req} (hp : s.plain r) (cause : Nat) : Answers s (s.refuse r cause) := by
  unfold State.refuse
  dsimp only
  split_ifs
  · obtain ⟨g, e, hw⟩ | ⟨g, p, c, hw, hst⟩ := hp
    · simp only [hw]
      exact answers_updReq ..
    · simp only [hw, State.refuseNow]
      exact (answers_unissue ..).trans (answers_takeTrap ((ctx_unissue hw).1.trans hst) ..)
  · exact (answers_updReq ..).trans (answers_due ..)

theorem refused_refuse {r : Req} (h : s.req r.id = some r) (hc : r.counted = true) (cause : Nat) :
    Claims.refused s (s.refuse r cause) r cause := by
  have hu : (s.updReq r.id (fun q => { q with phase := .refused cause r.ea })).req r.id = some (r.turnedAway cause) :=
    req_updReq_same (fun _ => rfl) h
  constructor
  · intro g e hw
    refine ⟨r.turnedAway cause, ?_, rfl⟩
    unfold State.refuse
    simp only [hw]
    split_ifs
    · exact hu
    · exact (req_congr (req_due hu hc) _).trans hu
  · intro g p c hw hpr hst
    obtain ⟨hsteward, htvec⟩ := ctx_unissue (s := s) hw
    obtain ⟨-, hx⟩ := takeTrap_tenant (BitVec.ofNat 16 cause) (BitVec.ofNat 11 r.slot) ((s.unissue r).reqPay r cause r.ea) r.rpt
      (hsteward.trans hst)
    have he : s.refuse r cause = (s.unissue r).takeTrap g p c (BitVec.ofNat 16 cause) (BitVec.ofNat 11 r.slot)
        ((s.unissue r).reqPay r cause r.ea) r.rpt := by
      simp only [State.refuse, hpr, if_true, hw, State.refuseNow]
    rw [he, hx]
    exact ⟨rfl, rfl, rfl, congrArg (BitVec.setWidth 11) htvec, ctx_unissue_s hw⟩

end
end Sys2Proof.Machine
end

section
namespace Sys2Proof.Machine
open State

/-! Numbers and their bytes. -/

theorem natOfBytes_bytesOfNat (n v : Nat) : natOfBytes (bytesOfNat n v) = v % 256 ^ n := by
  induction n generalizing v with
  | zero => simp [natOfBytes, bytesOfNat, Nat.mod_one]
  | succ n ih =>
    have hb : (BitVec.ofNat 8 v).toNat = v % 256 := by simp
    rw [bytesOfNat, natOfBytes, ih, hb, Nat.pow_succ, Nat.mul_comm (256 ^ n) 256, Nat.mod_mul]

theorem length_bytesOfNat (n v : Nat) : (bytesOfNat n v).length = n := by
  induction n generalizing v with
  | zero => rfl
  | succ n ih => rw [bytesOfNat, List.length_cons, ih]

theorem readN_lt (m : Memory) (a n : Nat) : Memory.readN m a n < 256 ^ n := by
  induction n generalizing a with
  | zero => exact Nat.one_pos
  | succ n ih =>
    have h1 := ih (a + 1)
    have h2 := (Memory.get m a).isLt
    rw [Memory.readN, Nat.pow_succ]
    omega

/-! The units of memory that keys belong to (R99). -/

theorem mem_unitsOf {a n u : Nat} : u ∈ unitsOf a n ↔ a / 16 ≤ u ∧ u * 16 < a + n := by
  simp only [unitsOf, List.mem_filter, List.mem_map, List.mem_range, decide_eq_true_eq]
  constructor
  · rintro ⟨⟨i, -, rfl⟩, h⟩
    exact ⟨by omega, h⟩
  · rintro ⟨h1, h2⟩
    exact ⟨⟨u - a / 16, by omega, by omega⟩, h2⟩

theorem unit_of_byte {a n b : Nat} (h : a ≤ b) (h' : b < a + n) : b / 16 ∈ unitsOf a n := mem_unitsOf.2 ⟨by omega, by omega⟩

/-- A unit that an access touches holds a byte of it. -/
theorem byte_of_unit {a n u : Nat} (h : u ∈ unitsOf a n) (hn : 0 < n) : ∃ b, a ≤ b ∧ b < a + n ∧ b / 16 = u := by
  obtain ⟨h1, h2⟩ := mem_unitsOf.1 h
  exact ⟨max a (16 * u), by omega, by omega, by omega⟩

/-- A unit takes a key. -/
def State.tagUnit (s : State) (key : List Word) (u : Nat) : State :=
  match NMap.find s.keyed u with
  | some k =>
    if k = key then s
    else { s with mem := Memory.writeBytes s.mem (16 * u) (s.unitAs u key), stale := overwrite s.stale (16 * u) 16, keyed := NMap.set s.keyed u key }
  | none => { s with keyed := NMap.set s.keyed u key }

section
variable {s : State} {a n : Nat} {slot : Option Nat} {key : List Word}

theorem keyTag_of_none (h : s.keyFor a slot = none) : s.keyTag a n slot = { s with keyed := unkeyed s.keyed a n } := by
  simp only [State.keyTag, h]

theorem keyTag_of_some (h : s.keyFor a slot = some key) : s.keyTag a n slot = (unitsOf a n).foldl (fun s u => s.tagUnit key u) s := by
  simp only [State.keyTag, h]
  rfl

theorem find_tagUnit (s : State) (key : List Word) (u j : Nat) :
    NMap.find (s.tagUnit key u).keyed j = if u = j then some key else NMap.find s.keyed j := by
  unfold State.tagUnit
  split
  · next k hk =>
    split_ifs with h hj hj
    · rw [← hj, hk, h]
    · rfl
    · rw [NMap.find_set, if_pos hj]
    · rw [NMap.find_set, if_neg hj]
  · rw [NMap.find_set]

theorem tagUnit_mem {u : Nat} (h : ∀ k, NMap.find s.keyed u = some k → k = key) : (s.tagUnit key u).mem = s.mem := by
  unfold State.tagUnit
  split
  · next k hk => rw [if_pos (h k hk)]
  · rfl

theorem find_tagUnits (l : List Nat) (s : State) (key : List Word) (j : Nat) :
    NMap.find (l.foldl (fun s u => s.tagUnit key u) s).keyed j = if j ∈ l then some key else NMap.find s.keyed j := by
  induction l generalizing s with
  | nil => rfl
  | cons u l ih =>
    rw [List.foldl_cons, ih, find_tagUnit]
    by_cases hj : j ∈ l
    · rw [if_pos hj, if_pos (List.mem_cons_of_mem _ hj)]
    · by_cases hu : u = j
      · rw [if_neg hj, if_pos hu, if_pos (by rw [hu]; exact List.mem_cons_self)]
      · rw [if_neg hj, if_neg hu, if_neg (by simp [hj, Ne.symm hu])]

theorem tagUnits_mem (l : List Nat) (h : ∀ u ∈ l, ∀ k, NMap.find s.keyed u = some k → k = key) :
    (l.foldl (fun s u => s.tagUnit key u) s).mem = s.mem := by
  induction l generalizing s with
  | nil => rfl
  | cons u l ih =>
    rw [List.foldl_cons, ih ?_, tagUnit_mem (h u List.mem_cons_self)]
    intro w hw k hk
    rw [find_tagUnit] at hk
    split_ifs at hk
    · exact (Option.some.inj hk).symm
    · exact h w (List.mem_cons_of_mem _ hw) k hk

theorem find_unkeyed (m : NMap (List Word)) (l : List Nat) (j : Nat) :
    NMap.find (l.foldl NMap.erase m) j = if j ∈ l then none else NMap.find m j := by
  induction l generalizing m with
  | nil => rfl
  | cons u l ih =>
    rw [List.foldl_cons, ih, NMap.find_erase]
    by_cases hj : j ∈ l
    · rw [if_pos hj, if_pos (List.mem_cons_of_mem _ hj)]
    · by_cases hu : u = j
      · rw [if_neg hj, if_pos hu, if_pos (by rw [hu]; exact List.mem_cons_self)]
      · rw [if_neg hj, if_neg hu, if_neg (by simp [hj, Ne.symm hu])]

/-- The key of a unit once the units of an access have taken its key. -/
theorem find_keyTag (j : Nat) : NMap.find (s.keyTag a n slot).keyed j = if j ∈ unitsOf a n then s.keyFor a slot else NMap.find s.keyed j := by
  cases h : s.keyFor a slot with
  | none =>
    rw [keyTag_of_none h]
    exact find_unkeyed ..
  | some key => rw [keyTag_of_some h, find_tagUnits]

theorem keyTag_mem (h : Claims.oneKey s a n slot) (hn : 0 < n) : (s.keyTag a n slot).mem = s.mem := by
  cases hk : s.keyFor a slot with
  | none => rw [keyTag_of_none hk]
  | some key =>
    rw [keyTag_of_some hk]
    refine tagUnits_mem _ fun u hu k hf => ?_
    obtain ⟨b, h1, h2, rfl⟩ := byte_of_unit hu hn
    exact h b k key h1 h2 hf hk

theorem keyFor_congr {s s' : State} (h : s'.keys = s.keys) (a : Nat) (slot : Option Nat) : s'.keyFor a slot = s.keyFor a slot := by
  simp only [State.keyFor, h]

theorem keyTag_keys (s : State) (a n : Nat) (slot : Option Nat) : (s.keyTag a n slot).keys = s.keys :=
  (congrArg State.keys (s.keyTag_spec a n slot).1 :)

/-- An access reads its units under one key once they have taken it. -/
theorem oneKey_keyTag : Claims.oneKey (s.keyTag a n slot) a n slot := by
  intro b k key h1 h2 hf hk
  rw [find_keyTag, if_pos (unit_of_byte h1 h2)] at hf
  rw [keyFor_congr (keyTag_keys ..), hf] at hk
  exact Option.some.inj hk

/-- Another access under the same slot finds no other key than it did. -/
theorem oneKey_keyTag_other {b m : Nat} (h : Claims.oneKey s b m slot) : Claims.oneKey (s.keyTag a n slot) b m slot := by
  intro c k key h1 h2 hf hk
  rw [keyFor_congr (keyTag_keys ..)] at hk
  rw [find_keyTag] at hf
  split_ifs at hf
  · unfold State.keyFor at hf hk
    split_ifs at hf hk
    exact Option.some.inj (hf.symm.trans hk)
  · exact h c k key h1 h2 hf hk

theorem oneKey_congr {s s' : State} (hk : s'.keyed = s.keyed) (hs : s'.keys = s.keys) (h : Claims.oneKey s a n slot) :
    Claims.oneKey s' a n slot := by
  intro b k key h1 h2 hf hkey
  rw [hk] at hf
  rw [keyFor_congr hs] at hkey
  exact h b k key h1 h2 hf hkey

theorem readUnder_of_oneKey (h : Claims.oneKey s a n slot) : s.readUnder a n slot = Memory.readN s.mem a n := by
  unfold State.readUnder State.underKey
  cases hk : s.keyFor a slot with
  | none => rfl
  | some key =>
    refine (congrArg natOfBytes (List.map_congr_left (g := Prod.fst) fun b hb => ?_)).trans ?_
    · have hlt : b.2 < n := by simpa only [length_bytesOfNat, Nat.add_zero] using List.snd_lt_of_mem_zipIdx hb
      cases hf : NMap.find s.keyed ((a + b.2) / 16) with
      | none => rfl
      | some k => exact if_pos (h (a + b.2) k key (by omega) (by omega) hf hk)
    · rw [List.zipIdx_map_fst, natOfBytes_bytesOfNat]
      exact Nat.mod_eq_of_lt (readN_lt ..)

/-! Writes under a key. -/

theorem writeUnder_sameBut (s : State) (a n v : Nat) (slot : Option Nat) : s.sameBut (s.writeUnder a n v slot) :=
  State.sameBut_trans (s.keyTag_spec a n slot).1 rfl

theorem readN_writeUnder (s : State) (a n v : Nat) (slot : Option Nat) : Memory.readN (s.writeUnder a n v slot).mem a n = v % 256 ^ n :=
  Memory.readN_writeN ..

theorem get_writeUnder_other {b : Nat} (h : Claims.oneKey s a n slot) (hn : 0 < n) (hb : b < a ∨ a + n ≤ b) (v : Nat) :
    Memory.get (s.writeUnder a n v slot).mem b = Memory.get s.mem b :=
  (Memory.get_writeN_other _ _ _ _ _ hb).trans (by rw [keyTag_mem h hn])

theorem oneKey_writeUnder (s : State) (a n v : Nat) (slot : Option Nat) : Claims.oneKey (s.writeUnder a n v slot) a n slot :=
  oneKey_congr (s := s.keyTag a n slot) rfl rfl oneKey_keyTag

theorem oneKey_writeUnder_other {b m : Nat} (h : Claims.oneKey s b m slot) (v : Nat) : Claims.oneKey (s.writeUnder a n v slot) b m slot :=
  oneKey_congr (s := s.keyTag a n slot) rfl rfl (oneKey_keyTag_other h)

end

/-! The presence of a structure word (R106). -/

theorem presence_congr {s s' : State} (h : s'.blockWord = s.blockWord) (pa : Nat) : s'.presence pa = s.presence pa := by
  simp only [State.presence, State.metaAt, h]

theorem presence_setPresence (s : State) (pa : Nat) {v : Nat} (hv : v < 4) : (s.setPresence pa v).presence pa = v := by
  have hm : (s.setPresence pa v).metaAt pa =
      s.metaAt pa - s.metaAt pa / 4 ^ (pa / 8 % 8) % 4 * 4 ^ (pa / 8 % 8) + v * 4 ^ (pa / 8 % 8) := by
    simp [State.setPresence, State.setMetaAt, State.metaAt]
  have hw : 0 < 4 ^ (pa / 8 % 8) := Nat.pow_pos (by decide)
  unfold State.presence
  rw [hm]
  generalize 4 ^ (pa / 8 % 8) = w at hw
  generalize s.metaAt pa = m
  have hd : m / w % 4 * w ≤ m := (Nat.mul_le_mul_right w (Nat.mod_le _ 4)).trans (Nat.div_mul_le_self m w)
  have hs : (m - m / w % 4 * w) / w + m / w % 4 = m / w := by rw [← Nat.add_mul_div_right _ _ hw, Nat.sub_add_cancel hd]
  rw [Nat.add_mul_div_right _ _ hw]
  omega

end Sys2Proof.Machine
end

section
namespace Sys2Proof.Machine
open State

/-! A structure operation at its home (O50): the steps of `structOp`, one by one. -/

theorem answers_acquireBy (s : State) (r : Req) (mk : Mark) : Answers s (s.acquireBy r mk) := by
  unfold State.acquireBy
  split_ifs
  · exact answers_acquireAt ..
  · exact .refl s

theorem acquireBy_reqs (s : State) (r : Req) (mk : Mark) : (s.acquireBy r mk).reqs = s.reqs := by
  unfold State.acquireBy
  split_ifs <;> rfl

theorem answers_releaseBy (s : State) (r : Req) (mk : Mark) : Answers s (s.releaseBy r mk) := by
  unfold State.releaseBy State.releaseAt
  dsimp only
  split_ifs
  · exact ⟨rfl, fun _ => rfl, noAnswers rfl, fun x hx _ => ⟨x, hx, rfl, rfl⟩⟩
  · exact ⟨rfl, fun _ => rfl, noAnswers rfl, fun x hx _ => ⟨x, hx, rfl, rfl⟩⟩
  · exact .refl s

theorem releaseBy_reqs (s : State) (r : Req) (mk : Mark) : (s.releaseBy r mk).reqs = s.reqs := by
  unfold State.releaseBy State.releaseAt
  dsimp only
  split_ifs <;> rfl

theorem settle_regions {s : State} {id : Nat} {r : Req} (h : s.req id = some r) (hc : r.counted = true) : (s.settle id).regions = s.regions := by
  obtain rfl := id_of_req h
  by_cases hw : ∃ g p c, r.who = .ctx g p c
  · obtain ⟨g, p, c, hw⟩ := hw
    exact (looksAgain_settle h hc hw).regions
  · rw [settle_of_not_ctx h hc fun g p c hw' => hw ⟨g, p, c, hw'⟩]

/-- Where no barrier object lies, a program's write writes its value. -/
theorem kept_of_noBar {s : State} {a : Nat} (h : s.barObject a = false) (n v : Nat) : s.kept a n v = v := by
  rw [State.kept, if_neg (by rw [h]; exact Bool.false_ne_true)]

/-- Where no party waits at a barrier, a write of its bytes answers nobody. -/
theorem afterWrite_of_noParty {s : State} {pa : Nat} (h : ∀ x ∈ (s.vault (homeOf (pa / 16 * 16))).parties, x.pa ≠ pa / 16 * 16) : s.afterWrite pa = s := by
  unfold State.afterWrite
  rw [if_neg]
  simpa using h

/-- The request of an operation that has its word. -/
def Req.withWord (r : Req) (p : Piece) (got : Nat) : Req := { r with pieces := [{ p with done := true, got := got }] }

/-- The operation is performed with its word and its result. -/
def State.wordDone (s : State) (r : Req) (p : Piece) (got res : Nat) : State :=
  (s.updReq r.id (fun q => q.withWord p got)).performedNow r.id (BitVec.ofNat 64 res)

section
variable {s : State} {r x : Req} {p : Piece} {v pa got res : Nat}

theorem answers_wordDone (s : State) (r : Req) (p : Piece) (got res : Nat) : Answers s (s.wordDone r p got res) :=
  (answers_updReq ..).trans (answers_performedNow ..)

theorem req_wordDone (h : s.req r.id = some x) (hc : x.counted = true) :
    (s.wordDone r p got res).req r.id = some ((x.withWord p got).answered (BitVec.ofNat 64 res)) :=
  req_performedNow (req_updReq_same (f := fun q => q.withWord p got) (fun _ => rfl) h) hc _

theorem req_wordDone_other {j : Nat} (hj : j ≠ r.id) : (s.wordDone r p got res).req j = s.req j :=
  (req_performedNow_other hj _).trans (req_updReq_other (f := fun q => q.withWord p got) (fun _ => rfl) hj)

/-! `srd`. -/

theorem structOp_srd_full (ho : r.op = .srd) (hst : s.presence pa = 1) :
    s.structOp r v pa p = (s.acquireBy r (.loc pa)).wordDone r p (s.readUnder pa 8 p.key) (s.readUnder pa 8 p.key) := by
  simp only [State.structOp, ho, hst, if_true]
  rfl

/-- A reader enters the pool of a vault. -/
def State.addReader (s : State) (v : Nat) (q : Reader) : State := s.updVault v (fun x => { x with pool := x.pool ++ [q] })

/-- A reader is put in a pool record, and its word is deferred. -/
def State.deferReader (s : State) (r : Req) (v pa : Nat) (slot : Option Nat) (k : Nat) : State :=
  relinkWord (((s.addReader v ⟨k, r.inst, pa, r.id⟩).setPresence pa 2).keyTag pa 8 slot) v pa

theorem structOp_srd_none (ho : r.op = .srd) (hst : s.presence pa ≠ 1) (hf : (s.vault v).freeRec = none) :
    s.structOp r v pa p = s.refuse r 0x2A := by
  simp only [State.structOp, ho, hst, hf, if_false]

theorem structOp_srd_some {k : Nat} (ho : r.op = .srd) (hst : s.presence pa ≠ 1) (hf : (s.vault v).freeRec = some k) :
    s.structOp r v pa p = ((s.deferReader r v pa p.key k).updReq r.id (fun q => { q with phase := .accepted, late := true })).settle r.id := by
  simp only [State.structOp, ho, hst, hf, if_false]
  rfl

/-- The word of a deferred reader names the first reader and the last (R108). -/
theorem relinkWord_of_readers {q : Reader} {l : List Reader} (h : (s.vault v).readers pa = l ++ [q]) :
    relinkWord s v pa = s.writeRaw pa 8 ((l.map (·.idx)).headD q.idx + q.idx * 2 ^ 16) := by
  unfold relinkWord
  rw [show (s.vault v).pool.filter (fun q => q.pa == pa) = l ++ [q] from h]
  cases l with
  | nil => rfl
  | cons w l =>
    rw [List.cons_append]
    dsimp only
    rw [← List.cons_append, List.getLastD_concat]
    rfl

theorem readers_addReader (s : State) (v : Nat) (q : Reader) : ((s.addReader v q).vault v).readers q.pa = (s.vault v).readers q.pa ++ [q] := by
  rw [State.addReader, vault_updVault_same, Vault.readers, Vault.readers, List.filter_append]
  simp

theorem sameBut_vault {s s' : State} (h : s.sameBut s') (v : Nat) : s'.vault v = s.vault v := by
  rw [h]
  rfl

theorem deferReader_eq (s : State) (r : Req) (v pa : Nat) (slot : Option Nat) (k : Nat) : s.deferReader r v pa slot k =
    (((s.addReader v ⟨k, r.inst, pa, r.id⟩).setPresence pa 2).keyTag pa 8 slot).writeRaw pa 8
      ((((s.vault v).readers pa).map (·.idx)).headD k + k * 2 ^ 16) := by
  refine relinkWord_of_readers (q := ⟨k, r.inst, pa, r.id⟩) ?_
  rw [sameBut_vault (State.keyTag_spec ..).1]
  exact readers_addReader s v ⟨k, r.inst, pa, r.id⟩

/-- What deferring a reader changes: its word's memory and keys, its word's presence, and the pool. -/
theorem deferReader_rest (s : State) (r : Req) (v pa : Nat) (slot : Option Nat) (k : Nat) :
    ((s.addReader v ⟨k, r.inst, pa, r.id⟩).setPresence pa 2).sameBut (s.deferReader r v pa slot k) := by
  rw [deferReader_eq]
  exact State.sameBut_trans (State.keyTag_spec ..).1 rfl

theorem deferReader_reqs (s : State) (r : Req) (v pa : Nat) (slot : Option Nat) (k : Nat) : (s.deferReader r v pa slot k).reqs = s.reqs :=
  (congrArg State.reqs (deferReader_rest s r v pa slot k) :)

theorem deferReader_regions (s : State) (r : Req) (v pa : Nat) (slot : Option Nat) (k : Nat) : (s.deferReader r v pa slot k).regions = s.regions :=
  (congrArg State.regions (deferReader_rest s r v pa slot k) :)

theorem pool_deferReader (s : State) (r : Req) (v pa : Nat) (slot : Option Nat) (k : Nat) :
    ((s.deferReader r v pa slot k).vault v).pool = (s.vault v).pool ++ [⟨k, r.inst, pa, r.id⟩] := by
  rw [sameBut_vault (deferReader_rest ..)]
  show ((s.addReader v _).vault v).pool = _
  rw [State.addReader, vault_updVault_same]

theorem presence_deferReader (s : State) (r : Req) (v pa : Nat) (slot : Option Nat) (k : Nat) : (s.deferReader r v pa slot k).presence pa = 2 :=
  (presence_congr (congrArg State.blockWord (deferReader_rest s r v pa slot k) :) pa).trans (presence_setPresence _ _ (by decide))

theorem oneKey_deferReader (s : State) (r : Req) (v pa : Nat) (slot : Option Nat) (k : Nat) :
    Claims.oneKey (s.deferReader r v pa slot k) pa 8 slot := by
  rw [deferReader_eq]
  exact oneKey_congr (s := State.keyTag _ pa 8 slot) rfl rfl oneKey_keyTag

theorem readN_deferReader (s : State) (r : Req) (v pa : Nat) (slot : Option Nat) (k : Nat) :
    Memory.readN (s.deferReader r v pa slot k).mem pa 8 = ((((s.vault v).readers pa).map (·.idx)).headD k + 2 ^ 16 * k) % 2 ^ 64 := by
  rw [deferReader_eq, Nat.mul_comm (2 ^ 16)]
  exact Memory.readN_writeN ..

theorem get_deferReader_other {slot : Option Nat} {k b : Nat} (h : Claims.oneKey s pa 8 slot) (hb : b < pa ∨ pa + 8 ≤ b) :
    Memory.get (s.deferReader r v pa slot k).mem b = Memory.get s.mem b := by
  rw [deferReader_eq]
  refine (Memory.get_writeN_other _ _ _ _ _ hb).trans ?_
  rw [keyTag_mem (s := (s.addReader v ⟨k, r.inst, pa, r.id⟩).setPresence pa 2) (oneKey_congr rfl rfl h) (by decide)]
  rfl

/-- The request of a reader that waits. -/
def Req.deferred (r : Req) : Req := { r with phase := .accepted, late := true }

/-- A reader that is deferred is accepted, and has no answer yet. -/
theorem structOp_srd_deferred {k : Nat} (ho : r.op = .srd) (hst : s.presence pa ≠ 1) (hf : (s.vault v).freeRec = some k)
    (h : s.req r.id = some r) (hc : r.counted = true) : Answers (s.deferReader r v pa p.key k) (s.structOp r v pa p) ∧
      (s.structOp r v pa p).regions = s.regions ∧ (s.structOp r v pa p).req r.id = some r.deferred := by
  have hr : ((s.deferReader r v pa p.key k).updReq r.id Req.deferred).req r.id = some r.deferred :=
    req_updReq_same (fun _ => rfl) ((req_congr (deferReader_reqs ..) _).trans h)
  have he : s.structOp r v pa p = ((s.deferReader r v pa p.key k).updReq r.id Req.deferred).settle r.id := structOp_srd_some ho hst hf
  rw [he]
  refine ⟨(answers_updReq ..).trans (answers_settle ..), ?_, ?_⟩
  · exact (settle_regions hr hc).trans (deferReader_regions ..)
  · exact (req_congr (settle_counted hr hc) _).trans hr

/-! `swr`. -/

/-- The word is written and full, and a release of its writer. -/
def State.fillWord (s : State) (r : Req) (pa : Nat) (p : Piece) : State :=
  ((s.writeUnder pa 8 p.val p.key).setPresence pa 1).releaseBy r (.loc pa)

theorem structOp_swr_full (ho : r.op = .swr) (hst : s.presence pa = 1) : s.structOp r v pa p = s.refuse r 0x28 := by
  simp only [State.structOp, ho, hst, if_true]

theorem answers_fillWord (s : State) (r : Req) (pa : Nat) (p : Piece) :
    Answers ((s.writeUnder pa 8 p.val p.key).setPresence pa 1) (s.fillWord r pa p) := answers_releaseBy ..

theorem fillWord_reqs (s : State) (r : Req) (pa : Nat) (p : Piece) : (s.fillWord r pa p).reqs = s.reqs :=
  (releaseBy_reqs ..).trans (congrArg State.reqs (writeUnder_sameBut s pa 8 p.val p.key) :)

theorem releaseBy_sameBut (s : State) (r : Req) (mk : Mark) : s.sameBut (s.releaseBy r mk) := by
  unfold State.releaseBy State.releaseAt
  dsimp only
  split_ifs <;> rfl

theorem vault_fillWord (s : State) (r : Req) (pa : Nat) (p : Piece) (w : Nat) : (s.fillWord r pa p).vault w = s.vault w :=
  (sameBut_vault (releaseBy_sameBut ..) w).trans (sameBut_vault (writeUnder_sameBut s pa 8 p.val p.key) w)

theorem presence_fillWord (s : State) (r : Req) (pa : Nat) (p : Piece) : (s.fillWord r pa p).presence pa = 1 :=
  (presence_congr (answers_fillWord ..).blockWord pa).trans (presence_setPresence _ _ (by decide))

theorem fillWord_mem (s : State) (r : Req) (pa : Nat) (p : Piece) : (s.fillWord r pa p).mem = (s.writeUnder pa 8 p.val p.key).mem :=
  (answers_fillWord ..).mem

theorem wrote_fillWord (h : Claims.oneKey s pa 8 p.key) : Claims.wrote s.mem (s.fillWord r pa p).mem pa 8 (some p.val) := by
  rw [fillWord_mem]
  exact ⟨readN_writeUnder .., fun b hb => get_writeUnder_other h (by decide) hb _⟩

theorem reqLive_fillWord (q : Req) : (s.fillWord r pa p).reqLive q = s.reqLive q := by
  have hr : (s.writeUnder pa 8 p.val p.key).regions = s.regions := (congrArg State.regions (writeUnder_sameBut s pa 8 p.val p.key) :)
  have hl (i : Nat) : (s.writeUnder pa 8 p.val p.key).liveReg i = s.liveReg i := by simp only [State.liveReg, hr]
  refine ((answers_fillWord s r pa p).reqLive q).trans ?_
  unfold State.reqLive
  split
  · rfl
  · exact congrArg Option.isSome (hl _)

theorem structOp_swr (ho : r.op = .swr) (hst : s.presence pa ≠ 1) (hb : s.barObject pa = false)
    (hn : ∀ x ∈ (s.vault (homeOf (pa / 16 * 16))).parties, x.pa ≠ pa / 16 * 16) : s.structOp r v pa p =
      (if s.presence pa = 2 then (s.fillWord r pa p).answerReaders v pa (BitVec.ofNat 64 p.val) else s.fillWord r pa p).wordDone r p 0 0 := by
  have ha : (s.fillWord r pa p).afterWrite pa = s.fillWord r pa p := afterWrite_of_noParty (by rwa [vault_fillWord])
  simp only [State.structOp, ho, hst, if_false, kept_of_noBar hb]
  rw [State.fillWord] at ha
  rw [ha]
  rfl

/-! The answers to the readers that wait. -/

/-- Every reader of a list is answered in turn. -/
def State.answerAll (s : State) (pa : Nat) (val : Word) (l : List Reader) : State := l.foldl (fun s q => s.answer q.req pa val) s

theorem answerReaders_eq (s : State) (v pa : Nat) (val : Word) : s.answerReaders v pa val =
    (s.updVault v (fun x => { x with pool := x.pool.filter (fun q => q.pa != pa) })).answerAll pa val ((s.vault v).readers pa) := rfl

theorem answers_answerAll (s : State) (pa : Nat) (val : Word) (l : List Reader) : Answers s (s.answerAll pa val l) := by
  induction l generalizing s with
  | nil => exact .refl s
  | cons q l ih => exact (answers_answer ..).trans (ih _)

theorem req_answerAll {val : Word} {l : List Reader} {id : Nat} (h : s.req id = some x) (hc : x.counted = true) :
    (s.answerAll pa val l).req id = some (if id ∈ l.map (·.req) then x.answered val else x) := by
  induction l generalizing s x with
  | nil => exact h
  | cons q l ih =>
    rw [State.answerAll, List.foldl_cons, List.map_cons]
    by_cases hq : id = q.req
    · subst hq
      refine (ih (x := x.answered val) (req_answer h hc pa val) hc).trans ?_
      rw [if_pos List.mem_cons_self]
      split_ifs <;> rfl
    · refine (ih ((req_answer_other hq pa val).trans h) hc).trans ?_
      simp only [List.mem_cons, hq, false_or]

/-- The answer to a request of a region that does not run is held at the request's home. -/
theorem answer_held {id : Nat} {val : Word} (h : s.req id = some x) (hl : s.reqLive x = false) : ∃ t : State,
    s.answer id pa val = t.progress x.inst ∧ t.reqs = (s.updReq id (fun r => r.answered val)).reqs ∧
      t.vaults = (s.updVault x.home (fun y => { y with answers := y.answers ++ [(x.id, 0)] })).vaults := by
  have hp (t : State) (ht : t.regions = s.regions) : t.prompt x = false := by
    have : t.reqLive x = s.reqLive x := by simp only [State.reqLive, State.liveReg, ht]
    rw [State.prompt, this, hl, Bool.false_and]
  have hr : (s.acquireAt x.who x.sc (fun m => m == Mark.loc pa)).req id = some x := h
  refine ⟨(s.acquireAt x.who x.sc (fun m => m == Mark.loc pa)).finish id val, ?_, ?_, ?_⟩
  · simp only [State.answer, h, State.performedNow, hr]
  · simp only [State.finish, hr, State.due]
    rw [if_neg (fun hc => absurd ((hp _ (by rfl)).symm.trans hc) Bool.false_ne_true)]
    rfl
  · simp only [State.finish, hr, State.due]
    rw [if_neg (fun hc => absurd ((hp _ (by rfl)).symm.trans hc) Bool.false_ne_true)]
    rfl

theorem answers_answerAll_held {val : Word} {l : List Reader}
    (h : ∀ q ∈ l, ∃ x, s.req q.req = some x ∧ s.reqLive x = false ∧ x.home = v) :
    ((s.answerAll pa val l).vault v).answers = (s.vault v).answers ++ l.map (fun q => (q.req, 0)) := by
  induction l generalizing s with
  | nil => exact (List.append_nil _).symm
  | cons q l ih =>
    obtain ⟨x, hx, hl, hv⟩ := h q List.mem_cons_self
    obtain ⟨t, ht, hreqs, hvaults⟩ := answer_held (pa := pa) (val := val) hx hl
    have hreq (j : Nat) : (s.answer q.req pa val).req j = (s.req j).map (fun r => if r.id = q.req then r.answered val else r) := by
      rw [ht, req_congr (progress_reqs ..), req_congr hreqs, req_updReq (f := fun r => r.answered val) (fun _ => rfl)]
    have hvault : (s.answer q.req pa val).vault v = { s.vault v with answers := (s.vault v).answers ++ [(q.req, 0)] } := by
      have h1 : (t.progress x.inst).vault v = t.vault v := congrArg (fun m => NMap.get m v Vault.reset) (updReg_vaults ..)
      have h2 : t.vault v = (s.updVault x.home _).vault v := congrArg (fun m => NMap.get m v Vault.reset) hvaults
      rw [ht, h1, h2, hv, vault_updVault_same, id_of_req hx]
    rw [State.answerAll, List.foldl_cons]
    refine (ih ?_).trans ?_
    · intro w hw
      obtain ⟨y, hy, hly, hvy⟩ := h w (List.mem_cons_of_mem _ hw)
      have hlive := (answers_answer s q.req pa val).reqLive
      refine ⟨if y.id = q.req then y.answered val else y, by rw [hreq, hy]; rfl, ?_, ?_⟩
      · rw [hlive]
        split_ifs
        · exact hly
        · exact hly
      · split_ifs
        · exact hvy
        · exact hvy
    · rw [hvault, List.append_assoc]
      rfl

end

end Sys2Proof.Machine
end

section
namespace Sys2Proof.Machine
open State

/-! Each structure operation, under what the obligation assumes. -/

section
variable {s : State} {r x : Req} {p : Piece} {v pa : Nat}

theorem structOp_sclr_deferred (ho : r.op = .sclr) (hst : s.presence pa = 2) : s.structOp r v pa p = s.refuse r 0x29 := by
  simp only [State.structOp, ho, hst, if_true]

/-- The word is empty, unless readers wait for it. -/
def State.clearWord (s : State) (pa : Nat) : State := if s.presence pa = 1 then s.setPresence pa 0 else s

theorem structOp_sclr (ho : r.op = .sclr) (hst : s.presence pa ≠ 2) : s.structOp r v pa p = (s.clearWord pa).wordDone r p 0 0 := by
  simp only [State.structOp, ho, hst, if_false]
  rfl

theorem presence_clearWord (h2 : s.presence pa ≠ 2) (h3 : s.presence pa ≠ 3) : (s.clearWord pa).presence pa = 0 := by
  unfold State.clearWord
  split_ifs with h
  · exact presence_setPresence _ _ (by decide)
  · have : s.presence pa < 4 := Nat.mod_lt _ (by decide)
    omega

theorem clearWord_mem (s : State) (pa : Nat) : (s.clearWord pa).mem = s.mem := by
  unfold State.clearWord
  split_ifs <;> rfl

theorem clearWord_reqs (s : State) (pa : Nat) : (s.clearWord pa).reqs = s.reqs := by
  unfold State.clearWord
  split_ifs <;> rfl

theorem structOp_sprb (ho : r.op = .sprb) : s.structOp r v pa p =
    s.wordDone r p (if s.presence pa = 1 then s.readUnder pa 8 p.key else 0) (s.presence pa) := by
  simp only [State.structOp, ho]
  rfl

theorem exec_structOpAtHome {q : Region} {a : Nat} (h : s.req s.ev.id = some r) (hq : NMap.find s.regions r.inst = some q) (hl : q.live = true)
    (hp : r.pieces = [p]) (ha : p.place = .phys a) (hm : s.mayPerform r p = true) (hf : s.ev.flag = false) (hb : s.badBlock (.phys a) = false)
    (h3 : s.presence (redirect s.migs a) ≠ 3)
    (h2 : s.presence (redirect s.migs a) = 2 → s.deferredOk (homeOf (redirect s.migs a)) (redirect s.migs a) p.key = true)
    (ho : r.op = .srd ∨ r.op = .swr ∨ r.op = .sclr ∨ r.op = .sprb) :
    exec .eStructOpAtHome s = .next (s.structOp r (homeOf (redirect s.migs a)) (redirect s.migs a) p) := by
  have hg : ¬(s.ev.flag = true ∨ s.badBlock p.place = true ∨ s.presence (redirect s.migs a) = 3 ∨
      (s.presence (redirect s.migs a) = 2 ∧ (!s.deferredOk (homeOf (redirect s.migs a)) (redirect s.migs a) p.key) = true)) := by
    rw [ha, hf, hb]
    simp only [Bool.false_eq_true, h3, false_or, not_and, Bool.not_eq_true', Bool.not_eq_false]
    exact h2
  rw [show exec .eStructOpAtHome s = execStructOpAtHome s from rfl]
  unfold execStructOpAtHome
  rw [liveReq_of h hq hl]
  obtain ho | ho | ho | ho := ho
  all_goals
    simp only [ho, hp, ha, hm, Bool.not_true, Bool.false_eq_true, if_false]
    rw [← ha, if_neg hg]

/-- What a request whose operation is done looks like. -/
theorem finished_wordDone (h : s.req r.id = some x) (hc : x.counted = true) (p : Piece) (got res : Nat) :
    ∃ y, (s.wordDone r p got res).req r.id = some y ∧ y.phase = .done ∧ y.res = BitVec.ofNat 64 res :=
  ⟨_, req_wordDone h hc, rfl, rfl⟩

theorem got_wordDone {y : Req} (h : s.req r.id = some x) (hc : x.counted = true) (p : Piece) (got res : Nat)
    (hy : (s.wordDone r p got res).req r.id = some y) : ∃ z, y.pieces = [z] ∧ z.got = got := by
  rw [req_wordDone h hc] at hy
  cases hy
  exact ⟨_, rfl, rfl⟩

/-- The readers of a word that `swr` fills are answered, and leave the pool. -/
def State.wakeReaders (s : State) (v pa : Nat) (val : Word) : State :=
  (s.updVault v (fun x => { x with pool := x.pool.filter (fun q => q.pa != pa) })).answerAll pa val ((s.vault v).readers pa)

theorem pool_wakeReaders (s : State) (v pa : Nat) (val : Word) :
    ((s.wakeReaders v pa val).vault v).pool = (s.vault v).pool.filter (fun q => q.pa != pa) := by
  rw [State.wakeReaders, (answers_answerAll ..).pool, vault_updVault_same]

theorem wakeReaders_mem (s : State) (v pa : Nat) (val : Word) : (s.wakeReaders v pa val).mem = s.mem := (answers_answerAll ..).mem

theorem wakeReaders_presence (s : State) (v pa : Nat) (val : Word) : (s.wakeReaders v pa val).presence pa = s.presence pa :=
  presence_congr (s := s.updVault v (fun x => { x with pool := x.pool.filter (fun q => q.pa != pa) })) (answers_answerAll ..).blockWord pa

theorem req_wakeReaders {id : Nat} {val : Word} (h : s.req id = some x) (hc : x.counted = true) :
    (s.wakeReaders v pa val).req id = some (if id ∈ ((s.vault v).readers pa).map (·.req) then x.answered val else x) :=
  req_answerAll (s := s.updVault v _) h hc

/-- The request that fills the word stays to be completed, even if it were listed as a reader. -/
theorem req_wakeReaders_counted {id : Nat} {val : Word} (h : s.req id = some x) (hc : x.counted = true) :
    ∃ y, (s.wakeReaders v pa val).req id = some y ∧ y.counted = true := by
  rw [req_wakeReaders h hc]
  refine ⟨_, rfl, ?_⟩
  split_ifs
  · exact hc
  · exact hc

theorem answers_wakeReaders {val : Word} (h : ∀ q ∈ (s.vault v).readers pa, ∃ x, s.req q.req = some x ∧ s.reqLive x = false ∧ x.home = v) :
    ((s.wakeReaders v pa val).vault v).answers = (s.vault v).answers ++ ((s.vault v).readers pa).map (fun q => (q.req, 0)) := by
  rw [State.wakeReaders, answers_answerAll_held, vault_updVault_same]
  exact h

/-- The word of a `swr` that is not refused. -/
def State.fillAndWake (s : State) (r : Req) (v pa : Nat) (p : Piece) : State :=
  if s.presence pa = 2 then (s.fillWord r pa p).wakeReaders v pa (BitVec.ofNat 64 p.val) else s.fillWord r pa p

theorem structOp_swr_eq (ho : r.op = .swr) (hst : s.presence pa ≠ 1) (hb : s.barObject pa = false)
    (hn : ∀ x ∈ (s.vault (homeOf (pa / 16 * 16))).parties, x.pa ≠ pa / 16 * 16) :
    s.structOp r v pa p = (s.fillAndWake r v pa p).wordDone r p 0 0 := structOp_swr ho hst hb hn

theorem fillAndWake_mem (s : State) (r : Req) (v pa : Nat) (p : Piece) : (s.fillAndWake r v pa p).mem = (s.fillWord r pa p).mem := by
  unfold State.fillAndWake
  split_ifs
  · exact wakeReaders_mem ..
  · rfl

theorem presence_fillAndWake (s : State) (r : Req) (v pa : Nat) (p : Piece) : (s.fillAndWake r v pa p).presence pa = 1 := by
  unfold State.fillAndWake
  split_ifs
  · exact (wakeReaders_presence ..).trans (presence_fillWord ..)
  · exact presence_fillWord ..

theorem req_fillAndWake_counted (h : s.req r.id = some r) (hc : r.counted = true) (v pa : Nat) (p : Piece) :
    ∃ y, (s.fillAndWake r v pa p).req r.id = some y ∧ y.counted = true := by
  have hr : (s.fillWord r pa p).req r.id = some r := (req_congr (fillWord_reqs ..) _).trans h
  unfold State.fillAndWake
  split_ifs
  · exact req_wakeReaders_counted hr hc
  · exact ⟨r, hr, hc⟩

theorem fillAndWake_of_deferred (h : s.presence pa = 2) :
    s.fillAndWake r v pa p = (s.fillWord r pa p).wakeReaders v pa (BitVec.ofNat 64 p.val) := if_pos h

/-- The readers of a deferred word that `swr` fills have their answer. -/
theorem reader_fillAndWake {rd : Reader} (h2 : s.presence pa = 2) (hrd : rd ∈ (s.vault v).readers pa) (h : s.req rd.req = some x)
    (hc : x.counted = true) : (s.fillAndWake r v pa p).req rd.req = some (x.answered (BitVec.ofNat 64 p.val)) := by
  have hx : (s.fillWord r pa p).req rd.req = some x := (req_congr (fillWord_reqs ..) _).trans h
  rw [fillAndWake_of_deferred h2, req_wakeReaders hx hc, if_pos]
  rw [vault_fillWord]
  exact List.mem_map_of_mem hrd

theorem pool_fillAndWake (h2 : s.presence pa = 2) : ((s.fillAndWake r v pa p).vault v).pool = (s.vault v).pool.filter (fun x => x.pa != pa) := by
  rw [fillAndWake_of_deferred h2, pool_wakeReaders, vault_fillWord]

theorem answers_fillAndWake (h2 : s.presence pa = 2)
    (h : ∀ rd ∈ (s.vault v).readers pa, ∃ x, s.req rd.req = some x ∧ s.reqLive x = false ∧ x.home = v) :
    ((s.fillAndWake r v pa p).vault v).answers = (s.vault v).answers ++ ((s.vault v).readers pa).map (fun rd => (rd.req, 0)) := by
  rw [fillAndWake_of_deferred h2, answers_wakeReaders, vault_fillWord]
  rw [vault_fillWord]
  intro rd hrd
  obtain ⟨x, hx, hl, hv⟩ := h rd hrd
  exact ⟨x, (req_congr (fillWord_reqs ..) _).trans hx, (reqLive_fillWord x).trans hl, hv⟩

end

/-- Settles O50: the step is one `structOp`, and each operation's equation says what the word, the pool and the requests are after it. -/
theorem structureAtHome : Obligations.StructureAtHome := by
  unfold Obligations.StructureAtHome
  intro s r q p a hreq hq hl hps ha hm hc hf hb pa v st val same waiting h3 h2 ho plain finished
  have hid : r.id = s.ev.id := id_of_req hreq
  have hr : s.req r.id = some r := by rw [hid]; exact hreq
  refine ⟨_, exec_structOpAtHome hreq hq hl hps ha hm hf hb h3 h2 ho, readUnder_of_oneKey, ?_, ?_, ?_, ?_, ?_, ?_, ?_, ?_⟩
  · intro hop hst
    have hx : (s.acquireBy r (.loc pa)).req r.id = some r := (req_congr (acquireBy_reqs ..) _).trans hr
    have hfr := (answers_acquireBy s r (.loc pa)).trans (answers_wordDone _ r p val val)
    rw [structOp_srd_full hop hst]
    exact ⟨finished_wordDone hx hc .., fun y hy => got_wordDone hx hc _ _ _ hy, hfr.mem, hfr.blockWord⟩
  · intro k hop hst hk
    obtain ⟨hfr, hregs, hx⟩ := structOp_srd_deferred (p := p) hop hst hk hr hc
    refine ⟨(presence_congr hfr.blockWord _).trans (presence_deferReader ..), (hfr.pool _).trans (pool_deferReader ..), ⟨_, hx, rfl⟩, hregs, ?_, ?_⟩
    · rw [readUnder_of_oneKey (oneKey_congr hfr.keyed hfr.keys (oneKey_deferReader s r v pa p.key k)), hfr.mem]
      exact readN_deferReader ..
    · intro hs b hbb
      rw [hfr.mem]
      exact get_deferReader_other hs hbb
  · intro hop hst hk hp
    rw [structOp_srd_none hop hst hk]
    exact ⟨(answers_refuse hp _).mem, (answers_refuse hp _).blockWord, refused_refuse hr hc _⟩
  · intro hop hst hbar hpar
    obtain ⟨y, hy, hyc⟩ := req_fillAndWake_counted hr hc v pa p
    have hfr := answers_wordDone (s.fillAndWake r v pa p) r p 0 0
    rw [structOp_swr_eq hop hst hbar hpar]
    refine ⟨(presence_congr hfr.blockWord _).trans (presence_fillAndWake ..), ?_, finished_wordDone hy hyc .., fun hst2 => ⟨?_, ?_, ?_⟩⟩
    · intro hs
      rw [hfr.mem, fillAndWake_mem]
      exact wrote_fillWord hs
    · exact (hfr.pool _).trans (pool_fillAndWake hst2)
    · intro rd hrd x hx hne hxc
      exact ⟨_, (req_wordDone_other hne).trans (reader_fillAndWake hst2 hrd hx hxc), rfl, rfl⟩
    · intro hall
      obtain ⟨l, hl'⟩ := hfr.vault v
      refine ⟨l, ?_⟩
      rw [hl', answers_fillAndWake hst2 (fun rd hrd => (hall rd hrd).2)]
      rfl
  · intro hop hst hp
    rw [structOp_swr_full hop hst]
    exact ⟨(answers_refuse hp _).mem, (answers_refuse hp _).blockWord, refused_refuse hr hc _⟩
  · intro hop hst
    have hx : (s.clearWord pa).req r.id = some r := (req_congr (clearWord_reqs ..) _).trans hr
    have hfr := answers_wordDone (s.clearWord pa) r p 0 0
    rw [structOp_sclr hop hst]
    exact ⟨(presence_congr hfr.blockWord _).trans (presence_clearWord hst h3), hfr.mem.trans (clearWord_mem ..), finished_wordDone hx hc ..⟩
  · intro hop hst hp
    rw [structOp_sclr_deferred hop hst]
    exact ⟨(answers_refuse hp _).mem, (answers_refuse hp _).blockWord, refused_refuse hr hc _⟩
  · intro hop
    have hfr := answers_wordDone s r p (if st = 1 then val else 0) st
    rw [structOp_sprb hop]
    exact ⟨finished_wordDone hr hc .., fun y hy => got_wordDone hr hc _ _ _ hy, hfr.mem, hfr.blockWord⟩

end Sys2Proof.Machine
end

section
namespace Sys2Proof.Machine
open State

/-! Contributions to a combine at their home (O51): what the store does, case by case. -/

/-- Contributions that share their control word share each of its fields. -/
theorem bitsOf_of_ccKey {cc cc' : Word} (h : ccKey cc = ccKey cc') {hi lo : Nat} (hh : hi ≤ 26) : bitsOf cc hi lo = bitsOf cc' hi lo := by
  have hk (w : Word) : bitsOf w hi lo = ccKey w / 2 ^ lo % 2 ^ (hi + 1 - lo) := by
    by_cases hl : lo ≤ hi
    · have hs : (2 : Nat) ^ (26 + 1) = 2 ^ lo * 2 ^ (26 + 1 - lo) := by rw [← Nat.pow_add]; congr 1; omega
      rw [ccKey, bitsOf_low, hs, Nat.mod_mul_right_div_self, Nat.mod_mod_of_dvd _ (Nat.pow_dvd_pow 2 (by omega)), bitsOf]
    · rw [bitsOf, show hi + 1 - lo = 0 by omega, Nat.pow_zero, Nat.mod_one, Nat.mod_one]
  rw [hk cc, hk cc', h]

theorem bitOf_eq_bitsOf (w : Word) (i : Nat) : bitOf w i = decide (bitsOf w i i = 1) := by
  rw [bitOf, BitVec.getLsbD, Nat.testBit_eq_decide_div_mod_eq, bitsOf, show i + 1 - i = 1 by omega, Nat.pow_one]

theorem bitOf_of_ccKey {cc cc' : Word} (h : ccKey cc = ccKey cc') {i : Nat} (hi : i ≤ 26) : bitOf cc i = bitOf cc' i := by
  rw [bitOf_eq_bitsOf, bitOf_eq_bitsOf, bitsOf_of_ccKey h hi]

/-- The values of a contribution (R109). -/
def Req.contribution (r : Req) (cc : Word) : List Nat := r.pieces.map (fun p => contribVal cc p.val)

/-- The lanes of a contribution. -/
def Req.cmbLanes (r : Req) : Nat := if r.vec then r.pieces.length else 0

/-- An entry that has taken one contribution more. -/
def Cmb.plus (k : Cmb) (cc : Word) (vals : List Nat) : Cmb :=
  { k with
    seen := k.seen + 1
    vals := if k.fixed then k.vals else k.vals.zipWith (combine (bitsOf cc 3 0) (bitsOf cc 6 4)) vals
    ranks := if k.fixed then NMap.set k.ranks (bitsOf cc 31 28) vals else k.ranks }

/-- The entry that a contribution of a `cmb` opens. -/
def Req.opens (r : Req) (s : State) (cc : Word) (pa : Nat) : Cmb :=
  { inst := r.inst, place := pa, fixed := false, cc := cc, lanes := r.cmbLanes, seen := 1,
    lanesAt := r.pieces.map (fun p => redirect s.migs p.place.addr), key := r.pieces.head?.bind (·.key),
    vals := r.contribution cc, ranks := [], dest := r.cmbDest cc }

/-- An entry takes the place of the one that it updates. -/
def State.putCmb (s : State) (v : Nat) (k : Cmb) : State :=
  s.updVault v (fun x => { x with cmbs := x.cmbs.map (fun q => if q.inst == k.inst && q.place == k.place then k else q) })

/-- An entry is opened. -/
def State.addCmb (s : State) (v : Nat) (k : Cmb) : State := s.updVault v (fun x => { x with cmbs := x.cmbs ++ [k] })

/-- The oldest contribution in a vault's queue leaves it, where it came from there. -/
def State.unqueue (s : State) (v : Nat) (fromQ : Bool) : State :=
  if fromQ then s.updVault v (fun x => { x with cmbQ := x.cmbQ.tail }) else s

/-- A request all of whose parts are done. -/
def Req.given (r : Req) : Req := { r with pieces := r.pieces.map (fun p => { p with done := true }) }

/-- A contribution is merged: it is done. -/
def State.cmbMerged (s : State) (r : Req) : State := (s.updReq r.id Req.given).performedNow r.id 0

/-- The entry of a region at an address. -/
def Vault.entry (x : Vault) (inst pa : Nat) : Option Cmb := x.cmbs.find? (fun k => k.inst == inst && k.place == pa)

section
variable {s : State} {r : Req} {fixed : Bool} {cc : Word} {v pa : Nat} {k : Cmb}

theorem length_contribution (r : Req) (cc : Word) : (r.contribution cc).length = r.pieces.length := List.length_map ..

theorem contribute_otherKind (hk : (s.vault v).entry r.inst pa = some k)
    (h : ccKey k.cc ≠ ccKey cc ∨ k.lanes ≠ r.cmbLanes ∨ k.fixed ≠ fixed) : s.contribute r fixed cc v pa false = s.refuse r 0x2B := by
  rw [Vault.entry] at hk
  simp only [State.contribute, hk]
  rw [if_pos (by simpa only [List.length_map, Req.cmbLanes] using h)]
  rfl

theorem contribute_rankPast (hc : bitsOf cc 23 8 ≤ bitsOf cc 31 28)
    (h : ∀ k, (s.vault v).entry r.inst pa = some k → ccKey k.cc = ccKey cc ∧ k.lanes = r.cmbLanes ∧ k.fixed = true) :
    s.contribute r true cc v pa false = s.refuse r 0x2D := by
  cases hk : (s.vault v).entry r.inst pa with
  | none =>
    rw [Vault.entry] at hk
    simp only [State.contribute, hk]
    exact if_pos ⟨trivial, hc⟩
  | some k =>
    obtain ⟨h1, h2, h3⟩ := h k hk
    rw [Vault.entry] at hk
    simp only [State.contribute, hk]
    rw [if_neg (by simpa only [List.length_map, Req.cmbLanes, not_or, not_not] using ⟨h1, h2, h3⟩), if_pos ⟨trivial, hc⟩]
    rfl

theorem contribute_rankTwice {l : List Nat} (hc : bitsOf cc 31 28 < bitsOf cc 23 8) (hk : (s.vault v).entry r.inst pa = some k)
    (h : ccKey k.cc = ccKey cc ∧ k.lanes = r.cmbLanes ∧ k.fixed = true) (hl : NMap.find k.ranks (bitsOf cc 31 28) = some l) :
    s.contribute r true cc v pa false = s.refuse r 0x2C := by
  rw [Vault.entry] at hk
  simp only [State.contribute, hk]
  rw [if_neg (by simpa only [List.length_map, Req.cmbLanes, not_or, not_not] using h), if_neg (by omega), if_pos ⟨trivial, by rw [hl]; rfl⟩]
  rfl

theorem entry_kind (hk : (s.vault v).entry r.inst pa = some k) : k.inst = r.inst ∧ k.place = pa := by
  have := List.find?_some hk
  rwa [Bool.and_eq_true, beq_iff_eq, beq_iff_eq] at this

/-- A contribution of the entry's kind is merged, and the last one releases the entry. -/
theorem contribute_merge (hk : (s.vault v).entry r.inst pa = some k) (h : ccKey k.cc = ccKey cc ∧ k.lanes = r.cmbLanes)
    (hf : k.fixed = true → bitsOf cc 31 28 < bitsOf cc 23 8 ∧ NMap.find k.ranks (bitsOf cc 31 28) = none) :
    s.contribute r k.fixed cc v pa false =
      if k.seen + 1 = bitsOf cc 23 8 then ((s.putCmb v (k.plus cc (r.contribution cc))).cmbMerged r).cmbRelease v (k.plus cc (r.contribution cc))
      else (s.putCmb v (k.plus cc (r.contribution cc))).cmbMerged r := by
  obtain ⟨hi, hp⟩ := entry_kind hk
  rw [Vault.entry] at hk
  simp only [State.contribute, hk]
  rw [if_neg (by simpa only [List.length_map, Req.cmbLanes, not_or, not_not, ne_eq, not_true, or_false, and_true] using h),
    if_neg (fun hc => absurd hc.2 (Nat.not_le.2 (hf hc.1).1)), if_neg (fun hc => by rw [(hf hc.1).2] at hc; cases hc.2)]
  subst hp
  cases r.who <;> simp only [Bool.false_and, Bool.false_eq_true, if_false] <;> rfl

/-- A contribution of a `cmb` with no entry at its address opens one. -/
theorem contribute_opens {fromQ : Bool} (hk : (s.vault v).entry r.inst pa = none) (hn : (s.vault v).cmbs.length < 4096)
    (hq : fromQ = true ∨ (s.vault v).cmbQ = []) (hc : bitsOf cc 23 8 ≠ 1) (hb : bitOf cc 26 = false) :
    s.contribute r false cc v pa fromQ = ((s.unqueue v fromQ).addCmb v (r.opens s cc pa)).cmbMerged r := by
  rw [Vault.entry] at hk
  simp only [State.contribute, hk, Bool.false_eq_true, false_and, if_false, hb, Bool.and_false]
  rw [if_neg ?_, if_neg hc]
  · cases r.who <;> simp only [List.length_map] <;> rfl
  · obtain rfl | hq := hq
    · simpa using hn
    · simpa [hq] using hn

/-- A contribution of a `cmb` waits in the queue while every entry is taken. -/
theorem contribute_waits (hk : (s.vault v).entry r.inst pa = none) (hn : 4096 ≤ (s.vault v).cmbs.length) :
    s.contribute r false cc v pa false = s.updVault v (fun x => { x with cmbQ := x.cmbQ ++ [r.id] }) := by
  rw [Vault.entry] at hk
  simp only [State.contribute, hk, Bool.false_eq_true, false_and, if_false]
  rw [if_pos (.inl hn)]

theorem exec_combineContribution {q : Region} {p : Piece} {ps : List Piece} {a : Nat} (h : s.req s.ev.id = some r)
    (hq : NMap.find s.regions r.inst = some q) (hl : q.live = true) (hp : r.pieces = p :: ps) (ha : p.place = .phys a)
    (hm : s.mayPerform r p = true) (hf : s.ev.flag = false) (hb : s.badBlock (.phys a) = false) (ho : r.op = .cmb fixed cc)
    (hQ : (s.vault (homeOf (redirect s.migs a))).cmbQ = []) :
    exec .eCombineContribution s = .next (s.contribute r fixed cc (homeOf (redirect s.migs a)) (redirect s.migs a) false) := by
  rw [show exec .eCombineContribution s = execCombineContribution s from rfl]
  simp only [execCombineContribution, liveReq_of h hq hl, ho, hp, ha, hm, hf, hb, hQ]
  simp

theorem exec_combineQueueAdmit {p : Piece} {ps : List Piece} {a : Nat} {rest : List Nat} (h : s.req r.id = some r)
    (hp : r.pieces = p :: ps) (ha : p.place = .phys a) (ho : r.op = .cmb fixed cc) (he : s.ev.e = homeOf (redirect s.migs a))
    (hQ : (s.vault (homeOf (redirect s.migs a))).cmbQ = r.id :: rest) :
    exec .eCombineQueueAdmit s = .next (s.contribute r fixed cc (homeOf (redirect s.migs a)) (redirect s.migs a) true) := by
  rw [show exec .eCombineQueueAdmit s = execCombineQueueAdmit s from rfl]
  simp only [execCombineQueueAdmit, he, hQ, h, ho, hp, ha]
  simp

/-! A contribution that is merged. -/

theorem answers_cmbMerged (s : State) (r : Req) : Answers s (s.cmbMerged r) := (answers_updReq ..).trans (answers_performedNow ..)

theorem req_cmbMerged (h : s.req r.id = some r) (hc : r.counted = true) : (s.cmbMerged r).req r.id = some (r.given.answered 0) :=
  req_performedNow (req_updReq_same (f := Req.given) (fun _ => rfl) h) hc _

theorem cmbs_putCmb (s : State) (v : Nat) (k : Cmb) : ((s.putCmb v k).vault v).cmbs =
    (s.vault v).cmbs.map (fun q => if q.inst == k.inst && q.place == k.place then k else q) := by rw [State.putCmb, vault_updVault_same]

theorem cmbs_addCmb (s : State) (v : Nat) (k : Cmb) : ((s.addCmb v k).vault v).cmbs = (s.vault v).cmbs ++ [k] := by
  rw [State.addCmb, vault_updVault_same]

/-- The entry of a region at an address after it is updated. -/
theorem entry_putCmb (hk : (s.vault v).entry r.inst pa = some k) {k' : Cmb} (hi : k'.inst = k.inst) (hp : k'.place = k.place) :
    ((s.putCmb v k').vault v).cmbs.find? (fun k => k.inst == r.inst && k.place == pa) = some k' := by
  obtain ⟨hki, hkp⟩ := entry_kind hk
  rw [cmbs_putCmb, hi, hki, hp, hkp, List.find?_map]
  rw [show ((fun k => k.inst == r.inst && k.place == pa) ∘ fun q => if q.inst == r.inst && q.place == pa then k' else q) =
    fun q => q.inst == r.inst && q.place == pa from ?_]
  · rw [show (s.vault v).cmbs.find? (fun q => q.inst == r.inst && q.place == pa) = some k from hk, Option.map_some]
    rw [if_pos (List.find?_some hk)]
  · funext q
    rw [Function.comp_apply]
    split
    · next h => rw [h, hi, hki, hp, hkp]; simp
    · rfl

/-- Once freed, an entry that was updated is gone like the one before it. -/
theorem filter_putCmb (s : State) (v : Nat) (k : Cmb) :
    ((s.putCmb v k).vault v).cmbs.filter (fun q => !(q.inst == k.inst && q.place == k.place)) =
      (s.vault v).cmbs.filter (fun q => !(q.inst == k.inst && q.place == k.place)) := by
  rw [cmbs_putCmb]
  induction (s.vault v).cmbs with
  | nil => rfl
  | cons q l ih =>
    rw [List.map_cons, List.filter_cons, List.filter_cons, ih]
    by_cases h : (q.inst == k.inst && q.place == k.place) = true
    · simp [h]
    · simp [h]

end

end Sys2Proof.Machine
end

section
namespace Sys2Proof.Machine
open State

/-! Releasing an entry: what its steps keep, whatever barrier they meet. -/

/-- The entries of the combine stores stay, and so do the answers that requests have. -/
structure KeepsDone (s s' : State) : Prop where
  cmbs : ∀ v, (s'.vault v).cmbs = (s.vault v).cmbs
  done : ∀ id x, s.req id = some x → x.counted = true → x.phase = .done →
    ∃ y, s'.req id = some y ∧ y.counted = true ∧ y.phase = .done

section
variable {s s' s'' : State}

theorem KeepsDone.refl (s : State) : KeepsDone s s := ⟨fun _ => rfl, fun _ x hx hc hp => ⟨x, hx, hc, hp⟩⟩

theorem KeepsDone.trans (h : KeepsDone s s') (h' : KeepsDone s' s'') : KeepsDone s s'' where
  cmbs v := (h'.cmbs v).trans (h.cmbs v)
  done id x hx hc hp := by
    obtain ⟨y, hy, hyc, hyp⟩ := h.done id x hx hc hp
    exact h'.done id y hy hyc hyp

theorem keepsDone_of_eq (hv : ∀ v, (s'.vault v).cmbs = (s.vault v).cmbs) (hr : s'.reqs = s.reqs) : KeepsDone s s' :=
  ⟨hv, fun id x hx hc hp => ⟨x, (req_congr hr id).trans hx, hc, hp⟩⟩

theorem keepsDone_of_sameBut (h : s.sameBut s') : KeepsDone s s' :=
  keepsDone_of_eq (fun v => congrArg Vault.cmbs (sameBut_vault h v)) (congrArg State.reqs h :)

theorem keepsDone_acquireAt (s : State) (who : Agent) (sc : Nat) (f : Mark → Bool) : KeepsDone s (s.acquireAt who sc f) :=
  keepsDone_of_eq (fun _ => rfl) rfl

theorem keepsDone_writePa (s : State) (pa n v : Nat) : KeepsDone s (s.writePa pa n v) := keepsDone_of_eq (fun _ => rfl) rfl

theorem keepsDone_updVault {v : Nat} {f : Vault → Vault} (hf : ∀ x, (f x).cmbs = x.cmbs) : KeepsDone s (s.updVault v f) := by
  refine keepsDone_of_eq (fun w => ?_) rfl
  by_cases h : v = w
  · subst h
    rw [vault_updVault_same, hf]
  · rw [vault_updVault_other _ _ h]

theorem keepsDone_finish (s : State) (id : Nat) (res : Word) : KeepsDone s (s.finish id res) := by
  refine ⟨(answers_finish ..).cmbs, fun j x hx hc hp => ?_⟩
  by_cases hj : j = id
  · subst hj
    exact ⟨_, req_finish hx hc res, hc, rfl⟩
  · exact ⟨x, (req_finish_other hj res).trans hx, hc, hp⟩

/-- A party of a barrier is answered with its generation. -/
def State.answerParty (s : State) (pa gen : Nat) (q : Party) : State :=
  (match s.req q.req with
   | some r => s.acquireAt r.who r.sc (fun m => m == Mark.bar pa gen)
   | none => s).finish q.req (BitVec.ofNat 64 gen)

/-- The parties of a list are answered in turn. -/
def State.answerParties (s : State) (pa gen : Nat) (l : List Party) : State := l.foldl (fun s q => s.answerParty pa gen q) s

theorem keepsDone_answerParty (s : State) (pa gen : Nat) (q : Party) : KeepsDone s (s.answerParty pa gen q) := by
  unfold State.answerParty
  split
  · exact (keepsDone_acquireAt ..).trans (keepsDone_finish ..)
  · exact keepsDone_finish ..

theorem keepsDone_answerParties (s : State) (pa gen : Nat) (l : List Party) : KeepsDone s (s.answerParties pa gen l) := by
  induction l generalizing s with
  | nil => exact .refl s
  | cons q l ih => exact (keepsDone_answerParty ..).trans (ih _)

/-- The parties of a generation leave the barrier, and its object holds the next generation (R114). -/
def State.endGen (s : State) (pa : Nat) : State :=
  (s.updVault (homeOf pa) (fun x => { x with parties := x.parties.filter (fun q => q.pa != pa || q.gen != s.readPa pa 8 / 2 ^ 32 % 256) })).writePa pa 8
    (s.readPa pa 8 / 2 ^ 40 * 2 ^ 40 + (s.readPa pa 8 / 2 ^ 32 % 256 + 1) % 256 * 2 ^ 32 + s.readPa pa 8 % 65536)

/-- All parties of a barrier have come, and it waits for no bytes. -/
def State.allIn (s : State) (pa : Nat) : Prop :=
  s.readPa pa 8 / 2 ^ 40 % 2 = 0 ∧ s.readPa pa 8 / 2 ^ 16 % 65536 = s.readPa pa 8 % 65536 ∧ s.readPa pa 8 % 65536 ≠ 0 ∧ s.readPa (pa + 8) 8 % 2 ^ 40 = 0

theorem tryRelease_of_allIn {pa : Nat} (h : s.allIn pa) : s.tryRelease pa = (s.endGen pa).answerParties pa (s.readPa pa 8 / 2 ^ 32 % 256)
    ((s.vault (homeOf pa)).parties.filter (fun q => q.pa == pa && q.gen == s.readPa pa 8 / 2 ^ 32 % 256)) := if_pos h

theorem tryRelease_of_not {pa : Nat} (h : ¬s.allIn pa) : s.tryRelease pa = s := if_neg h

theorem keepsDone_endGen (s : State) (pa : Nat) : KeepsDone s (s.endGen pa) :=
  
  (keepsDone_updVault (f := fun x => { x with parties := x.parties.filter (fun q => q.pa != pa || q.gen != s.readPa pa 8 / 2 ^ 32 % 256) })
    fun _ => rfl).trans (keepsDone_writePa ..)

theorem keepsDone_afterWrite (s : State) (pa : Nat) : KeepsDone s (s.afterWrite pa) := by
  unfold State.afterWrite
  dsimp only
  split_ifs
  · by_cases h : s.allIn (pa / 16 * 16)
    · rw [tryRelease_of_allIn h]
      exact (keepsDone_endGen ..).trans (keepsDone_answerParties ..)
    · rw [tryRelease_of_not h]
      exact .refl s
  · exact .refl s

theorem keepsDone_cmbWrite (s : State) (k : Cmb) (vals places : List Nat) : KeepsDone s (s.cmbWrite k vals places) := by
  induction vals generalizing s places with
  | nil => exact .refl s
  | cons x l ih =>
    cases places with
    | nil => exact .refl s
    | cons a places =>
      rw [State.cmbWrite]
      exact ((keepsDone_of_sameBut (writeUnder_sameBut ..)).trans (keepsDone_afterWrite ..)).trans (ih ..)

/-- The result on its way to where the first contribution asked (R110). -/
def Cmb.emits (k : Cmb) (d : Dest) (tenant : Nat) : Req :=
  { Req.blank 0 d.inst tenant d.who (.emit (if k.lanes = 0 then Tok.scalar d.thread d.iter (BitVec.ofNat 64 (k.result.headD 0))
      else Tok.vec d.thread d.iter (k.result.map (BitVec.ofNat 32)) [])) with
    phase := .done, counted := true, late := true, d := d.d, e := d.e, t := d.t, lit := d.lit, thread := d.thread, iter := d.iter,
    tb := d.tb, dup := d.dup }

theorem held_or (a b : State) (o : Option Region) : (match o with | some q => if q.live then a else b | none => a) = a ∨
    (match o with | some q => if q.live then a else b | none => a) = b := by
  cases o with
  | none => exact .inl rfl
  | some q =>
    dsimp only
    split_ifs
    · exact .inl rfl
    · exact .inr rfl

/-- Sending a result adds a request; the home may hold its answer. -/
theorem cmbSend_cases (s : State) (v : Nat) (k : Cmb) (d : Dest) : ∃ tenant, s.cmbSend v k d = s.addReq (k.emits d tenant) ∨
    s.cmbSend v k d = (s.addReq (k.emits d tenant)).updVault v (fun x => { x with answers := x.answers ++ [(s.nextId, 0)] }) := by
  refine ⟨match NMap.find s.regions d.inst with | some q => q.tenant | none => 0, ?_⟩
  exact held_or _ _ (NMap.find s.regions d.inst)

theorem keepsDone_addReq (s : State) (q : Req) : KeepsDone s (s.addReq q) :=
  ⟨fun _ => rfl, fun _ x hx hc hp => ⟨x, req_addReq hx q, hc, hp⟩⟩

theorem keepsDone_cmbSend (s : State) (v : Nat) (k : Cmb) (d : Dest) : KeepsDone s (s.cmbSend v k d) := by
  obtain ⟨t, h | h⟩ := cmbSend_cases s v k d
  · rw [h]
    exact keepsDone_addReq ..
  · rw [h]
    exact (keepsDone_addReq ..).trans (keepsDone_updVault fun _ => rfl)

theorem emits_of_cmbSend (s : State) (v : Nat) (k : Cmb) (d : Dest) :
    ∃ t, { k.emits d t with id := s.nextId } ∈ (s.cmbSend v k d).reqs := by
  obtain ⟨t, h | h⟩ := cmbSend_cases s v k d
  · exact ⟨t, by rw [h]; exact List.mem_append_right _ List.mem_cons_self⟩
  · exact ⟨t, by rw [h]; exact List.mem_append_right _ List.mem_cons_self⟩

/-! Releasing an entry, step by step. -/

/-- The result is written where the entry asks for it. -/
def State.cmbWritten (s : State) (k : Cmb) : State := if bitOf k.cc 24 then s.cmbWrite k k.result k.lanesAt else s

/-- The result is sent where the entry asks for it. -/
def State.cmbSent (s : State) (v : Nat) (k : Cmb) : State := match k.dest with | some d => s.cmbSend v k d | none => s

theorem cmbRelease_eq (s : State) (v : Nat) (k : Cmb) : s.cmbRelease v k = ((s.cmbWritten k).cmbSent v k).updVault v
    (fun x => { x with cmbs := x.cmbs.filter (fun q => !(q.inst == k.inst && q.place == k.place)) }) := rfl

theorem keepsDone_cmbWritten (s : State) (k : Cmb) : KeepsDone s (s.cmbWritten k) := by
  unfold State.cmbWritten
  split_ifs
  · exact keepsDone_cmbWrite ..
  · exact .refl s

theorem keepsDone_cmbSent (s : State) (v : Nat) (k : Cmb) : KeepsDone s (s.cmbSent v k) := by
  unfold State.cmbSent
  split
  · exact keepsDone_cmbSend ..
  · exact .refl s

theorem cmbSent_mem (s : State) (v : Nat) (k : Cmb) : (s.cmbSent v k).mem = s.mem := by
  unfold State.cmbSent
  split
  · exact cmbSend_mem ..
  · rfl

theorem cmbRelease_mem (s : State) (v : Nat) (k : Cmb) : (s.cmbRelease v k).mem = (s.cmbWritten k).mem := cmbSent_mem ..

theorem cmbs_cmbRelease (s : State) (v : Nat) (k : Cmb) :
    ((s.cmbRelease v k).vault v).cmbs = (s.vault v).cmbs.filter (fun q => !(q.inst == k.inst && q.place == k.place)) := by
  rw [cmbRelease_eq, vault_updVault_same]
  exact congrArg (List.filter _) (((keepsDone_cmbWritten s k).trans (keepsDone_cmbSent ..)).cmbs v)

theorem done_cmbRelease {id : Nat} {x : Req} (h : s.req id = some x) (hc : x.counted = true) (hp : x.phase = .done) (v : Nat) (k : Cmb) :
    ∃ y, (s.cmbRelease v k).req id = some y ∧ y.phase = .done := by
  obtain ⟨y, hy, -, hyp⟩ := ((keepsDone_cmbWritten s k).trans (keepsDone_cmbSent _ v k)).done id x h hc hp
  exact ⟨y, hy, hyp⟩

theorem emits_cmbRelease {k : Cmb} {d : Dest} (h : k.dest = some d) (s : State) (v : Nat) :
    ∃ t n, { k.emits d t with id := n } ∈ (s.cmbRelease v k).reqs := by
  obtain ⟨t, ht⟩ := emits_of_cmbSend (s.cmbWritten k) v k d
  refine ⟨t, (s.cmbWritten k).nextId, ?_⟩
  rw [cmbRelease_eq, State.cmbSent, h]
  exact ht

/-! Where the lanes of a result lie. -/

/-- Each place of a list is read under one key, and no barrier is there. -/
def State.clearAt (s : State) (n : Nat) (key : Option Nat) (places : List Nat) : Prop :=
  ∀ b ∈ places, Claims.oneKey s b n key ∧ s.barObject b = false ∧ ∀ x ∈ (s.vault (homeOf (b / 16 * 16))).parties, x.pa ≠ b / 16 * 16

theorem sameBut_barObject (h : s.sameBut s') (a : Nat) : s'.barObject a = s.barObject a := by
  simp only [State.barObject, sameBut_vault h, show s'.tiles = s.tiles from (congrArg State.tiles h :)]

theorem clearAt_writeUnder {n a m v : Nat} {key : Option Nat} {places : List Nat} (h : s.clearAt n key places) :
    (s.writeUnder a m v key).clearAt n key places := by
  intro b hb
  obtain ⟨h1, h2, h3⟩ := h b hb
  have hs := writeUnder_sameBut s a m v key
  exact ⟨oneKey_writeUnder_other h1 v, (sameBut_barObject hs b).trans h2, by rwa [sameBut_vault hs]⟩

/-- What a lane of memory holds once the value of an entry is written there (R110). -/
def Cmb.writes (k : Cmb) (old x : Nat) : Nat := if bitOf k.cc 25 then x else combine (bitsOf k.cc 3 0) (bitsOf k.cc 6 4) old x

theorem typeBytes_pos (ty : Nat) : 0 < typeBytes ty := by
  unfold typeBytes
  split_ifs <;> decide

/-- Where no barrier is, a lane is one write. -/
theorem cmbWrite_cons {k : Cmb} {a x : Nat} {l places : List Nat} (h : s.clearAt (typeBytes (bitsOf k.cc 6 4)) k.key (a :: places)) :
    s.cmbWrite k (x :: l) (a :: places) =
      (s.writeUnder a (typeBytes (bitsOf k.cc 6 4)) (k.writes (Memory.readN s.mem a (typeBytes (bitsOf k.cc 6 4))) x) k.key).cmbWrite k l places := by
  obtain ⟨h1, h2, h3⟩ := h a List.mem_cons_self
  rw [State.cmbWrite, kept_of_noBar h2, readUnder_of_oneKey h1, afterWrite_of_noParty]
  · rfl
  · rwa [sameBut_vault (writeUnder_sameBut ..)]

theorem get_cmbWrite_other {k : Cmb} {l places : List Nat} {b : Nat} (h : s.clearAt (typeBytes (bitsOf k.cc 6 4)) k.key places)
    (hb : ∀ a ∈ places, b < a ∨ a + typeBytes (bitsOf k.cc 6 4) ≤ b) : Memory.get (s.cmbWrite k l places).mem b = Memory.get s.mem b := by
  induction l generalizing s places with
  | nil => rfl
  | cons x l ih =>
    cases places with
    | nil => rfl
    | cons a places =>
      rw [cmbWrite_cons h, ih (clearAt_writeUnder fun b hb => h b (List.mem_cons_of_mem _ hb)) (fun c hc => hb c (List.mem_cons_of_mem _ hc))]
      exact get_writeUnder_other (h a List.mem_cons_self).1 (typeBytes_pos _) (hb a List.mem_cons_self) _

/-- Each lane of a result is where it belongs, if the lanes lie apart. -/
theorem readN_cmbWrite {k : Cmb} {l places : List Nat} {j b x : Nat} (h : s.clearAt (typeBytes (bitsOf k.cc 6 4)) k.key places)
    (hd : places.Pairwise (fun b c => b + typeBytes (bitsOf k.cc 6 4) ≤ c ∨ c + typeBytes (bitsOf k.cc 6 4) ≤ b))
    (hb : places[j]? = some b) (hx : l[j]? = some x) :
    Memory.readN (s.cmbWrite k l places).mem b (typeBytes (bitsOf k.cc 6 4)) =
      k.writes (Memory.readN s.mem b (typeBytes (bitsOf k.cc 6 4))) x % 256 ^ typeBytes (bitsOf k.cc 6 4) := by
  induction l generalizing s places j with
  | nil => cases hx
  | cons y l ih =>
    cases places with
    | nil => cases hb
    | cons a places =>
      obtain ⟨hda, hd⟩ := List.pairwise_cons.1 hd
      have hc := clearAt_writeUnder (a := a) (m := typeBytes (bitsOf k.cc 6 4))
        (v := k.writes (Memory.readN s.mem a (typeBytes (bitsOf k.cc 6 4))) y) fun b hb => h b (List.mem_cons_of_mem _ hb)
      rw [cmbWrite_cons h]
      cases j with
      | zero =>
        cases hb
        cases hx
        refine (Memory.readN_congr _ _ fun i h1 h2 => get_cmbWrite_other hc fun c hcm => ?_).trans (readN_writeUnder ..)
        have := hda c hcm
        omega
      | succ j =>
        refine (ih hc hd hb hx).trans ?_
        have := hda b (List.mem_of_getElem? hb)
        rw [Memory.readN_congr b _ fun i h1 h2 => get_writeUnder_other (h a List.mem_cons_self).1 (typeBytes_pos _) (by omega) _]

end

end Sys2Proof.Machine
end

section
namespace Sys2Proof.Machine
open State

/-! Arrivals at a barrier (O51, R114, R115). -/

section
variable {s s' : State} {r x : Req} {a n w0 w1 : Nat}

theorem answers_answerParty (s : State) (pa gen : Nat) (q : Party) : Answers s (s.answerParty pa gen q) := by
  unfold State.answerParty
  split
  · exact (answers_acquireAt ..).trans (answers_finish ..)
  · exact answers_finish ..

theorem answers_answerParties (s : State) (pa gen : Nat) (l : List Party) : Answers s (s.answerParties pa gen l) := by
  induction l generalizing s with
  | nil => exact .refl s
  | cons q l ih => exact (answers_answerParty ..).trans (ih _)

theorem req_answerParty {pa gen : Nat} {q : Party} (h : s.req q.req = some x) (hc : x.counted = true) :
    (s.answerParty pa gen q).req q.req = some (x.answered (BitVec.ofNat 64 gen)) := by
  simp only [State.answerParty, h]
  exact req_finish (s := s.acquireAt x.who x.sc (fun m => m == Mark.bar pa gen)) h hc _

theorem req_answerParty_other {pa gen id : Nat} {q : Party} (h : id ≠ q.req) : (s.answerParty pa gen q).req id = s.req id := by
  refine (req_finish_other h _).trans ?_
  split
  · rfl
  · rfl

/-- Each party that is answered has the generation as its answer. -/
theorem req_answerParties {pa gen id : Nat} {l : List Party} (h : s.req id = some x) (hc : x.counted = true) :
    (s.answerParties pa gen l).req id = some (if id ∈ l.map (·.req) then x.answered (BitVec.ofNat 64 gen) else x) := by
  induction l generalizing s x with
  | nil => exact h
  | cons q l ih =>
    rw [State.answerParties, List.foldl_cons, List.map_cons]
    by_cases hq : id = q.req
    · subst hq
      refine (ih (x := x.answered (BitVec.ofNat 64 gen)) (req_answerParty h hc) hc).trans ?_
      rw [if_pos List.mem_cons_self]
      split_ifs <;> rfl
    · refine (ih ((req_answerParty_other hq).trans h) hc).trans ?_
      simp only [List.mem_cons, hq, false_or]

/-! The pending bytes of a barrier. -/

theorem sgn_of_low {m : Nat} (b : BitVec 40) : sgn 40 (m * 2 ^ 40 + b.toNat) = b.toInt := by
  have hb := b.isLt
  have hm : (m * 2 ^ 40 + b.toNat) % 2 ^ 40 = b.toNat := by omega
  rw [sgn, hm, BitVec.toInt_eq_toNat_cond]
  split_ifs <;> omega

theorem sgn_setPend {x : Int} (m : Nat) (h : pendOk x = true) : sgn 40 (m * 2 ^ 40 + (BitVec.ofInt 40 x).toNat) = x := by
  simp only [pendOk, Bool.and_eq_true, decide_eq_true_eq] at h
  obtain ⟨h1, h2⟩ := h
  rw [sgn_of_low, BitVec.toInt_ofInt]
  exact Int.bmod_eq_of_le (by omega) (by omega)

/-- Arrivals and pending bytes of a barrier, counted in its object. -/
def State.countArrival (s : State) (a n : Nat) : State :=
  (s.writePa a 8 (s.readPa a 8 + 65536)).setPend a (s.readPa (a + 8) 8) (pendOf (s.readPa (a + 8) 8) + (n : Nat))

/-- A party waits at a barrier. -/
def State.joinParty (s : State) (r : Req) (a gen : Nat) : State :=
  (((s.updVault (homeOf a) (fun y => { y with parties := y.parties ++ [⟨a, gen, r.id⟩] })).updReq r.id Req.deferred).settle r.id).releaseBy r
    (.bar a gen)

/-- A party has arrived. -/
def State.arrived (s : State) (r : Req) (a n : Nat) : State := (s.countArrival a n).joinParty r a (s.readPa a 8 / 2 ^ 32 % 256)

theorem exec_barrierArrival {q : Region} {p : Piece} {ps : List Piece} (h : s.req s.ev.id = some r)
    (hq : NMap.find s.regions r.inst = some q) (hl : q.live = true) (hp : r.pieces = p :: ps) (ha : p.place = .phys a)
    (hm : s.mayPerform r p = true) (hf : s.ev.flag = false) (hb : s.badBlock (.phys a) = false) (ho : r.op = .bar n)
    (hv : vaultBase ≤ a % 2 ^ 44) : exec .eBarrierArrival s = .next
      (if s.readPa a 8 % 65536 = 0 ∨ s.readPa a 8 / 65536 % 65536 = s.readPa a 8 % 65536 ∨ !pendOk (pendOf (s.readPa (a + 8) 8) + (n : Nat))
        then (s.barErr a (s.readPa a 8)).refuse r 0x2E
        else ((s.arrived r a n).tryRelease a).progress r.inst) := by
  rw [show exec .eBarrierArrival s = execBarrierArrival s from rfl]
  simp only [execBarrierArrival, liveReq_of h hq hl, ho, hp, ha, hm, hf, hb]
  rw [if_neg (by simp), if_neg (Nat.not_lt.2 hv), if_neg (by simp)]
  rfl

theorem answers_joinParty (s : State) (r : Req) (a gen : Nat) :
    Answers (s.updVault (homeOf a) (fun y => { y with parties := y.parties ++ [⟨a, gen, r.id⟩] })) (s.joinParty r a gen) :=
  ((answers_updReq ..).trans (answers_settle ..)).trans (answers_releaseBy ..)

theorem joinParty_reqs (h : s.req r.id = some r) (hc : r.counted = true) (a gen : Nat) :
    (s.joinParty r a gen).reqs = (s.updReq r.id Req.deferred).reqs := by
  refine (releaseBy_reqs ..).trans (settle_counted (r := r.deferred) ?_ hc)
  exact req_updReq_same (f := Req.deferred) (fun _ => rfl) h

theorem parties_joinParty (s : State) (r : Req) (a gen : Nat) :
    ((s.joinParty r a gen).vault (homeOf a)).parties = (s.vault (homeOf a)).parties ++ [⟨a, gen, r.id⟩] := by
  rw [(answers_joinParty ..).parties, vault_updVault_same]

/-- The bytes of a barrier's object once an arrival is counted, and no others, have changed. -/
structure Counted (m m' : Memory) (a w0 w1 : Nat) : Prop where
  low : Memory.readN m' a 8 = w0
  high : Memory.readN m' (a + 8) 8 = w1
  other : ∀ b, b < a ∨ a + 16 ≤ b → Memory.get m' b = Memory.get m b

/-- Two words written side by side. -/
theorem counted_writes {m : Memory} (h0 : w0 < 2 ^ 64) (h1 : w1 < 2 ^ 64) : Counted m (Memory.writeN (Memory.writeN m a 8 w0) (a + 8) 8 w1) a w0 w1 where
  low := by
    refine (Memory.readN_congr a 8 fun j h1 h2 => Memory.get_writeN_other _ _ _ _ _ (by omega)).trans ?_
    rw [Memory.readN_writeN]
    exact Nat.mod_eq_of_lt h0
  high := (Memory.readN_writeN ..).trans (Nat.mod_eq_of_lt h1)
  other b hb := by
    rw [Memory.get_writeN_other _ _ _ _ _ (by omega), Memory.get_writeN_other _ _ _ _ _ (by omega)]

/-- The first word written again. -/
theorem Counted.again {m m' : Memory} {w : Nat} (h : Counted m m' a w0 w1) (hw : w < 2 ^ 64) : Counted m (Memory.writeN m' a 8 w) a w w1 where
  low := (Memory.readN_writeN ..).trans (Nat.mod_eq_of_lt hw)
  high := (Memory.readN_congr (a + 8) 8 fun j h1 h2 => Memory.get_writeN_other _ _ _ _ _ (by omega)).trans h.high
  other b hb := (Memory.get_writeN_other _ _ _ _ _ (by omega)).trans (h.other b hb)

theorem readPa_of_redirect (h : redirect s.migs a = a) (n : Nat) : s.readPa a n = Memory.readN s.mem a n := by rw [State.readPa, h]

theorem readPa_congr (hm : s'.mem = s.mem) (hg : s'.migs = s.migs) (a n : Nat) : s'.readPa a n = s.readPa a n := by
  rw [State.readPa, hm, hg, State.readPa]

/-- The pending bytes that an arrival leaves. -/
def pendAfter (w1 n : Nat) : Nat := w1 / 2 ^ 40 * 2 ^ 40 + (BitVec.ofInt 40 (pendOf w1 + (n : Nat))).toNat

theorem pendAfter_lt (h : w1 < 2 ^ 64) (n : Nat) : pendAfter w1 n < 2 ^ 64 := by
  have := (BitVec.ofInt 40 (pendOf w1 + (n : Nat))).isLt
  unfold pendAfter
  omega

theorem sameBut_migs (h : s.sameBut s') : s'.migs = s.migs := (congrArg State.migs h :)

theorem sameBut_reqs (h : s.sameBut s') : s'.reqs = s.reqs := (congrArg State.reqs h :)

theorem writePa_sameBut (s : State) (a n v : Nat) : s.sameBut (s.writePa a n v) := rfl

theorem countArrival_sameBut (s : State) (a n : Nat) : s.sameBut (s.countArrival a n) :=
  State.sameBut_trans (writePa_sameBut ..) (writePa_sameBut ..)

theorem arrived_migs (s : State) (r : Req) (a n : Nat) : (s.arrived r a n).migs = s.migs :=
  (answers_joinParty (s.countArrival a n) r a _).migs.trans ((updVault_migs ..).trans (sameBut_migs (countArrival_sameBut s a n)))

theorem writePa_mem (s : State) (a n v : Nat) : (s.writePa a n v).mem = Memory.writeN s.mem (redirect s.migs a) n v := rfl

theorem setPend_eq (s : State) (a w1 n : Nat) : s.setPend a w1 (pendOf w1 + (n : Nat)) = s.writePa (a + 8) 8 (pendAfter w1 n) := rfl

theorem countArrival_mem (ha : redirect s.migs a = a) (ha8 : redirect s.migs (a + 8) = a + 8) (n : Nat) : (s.countArrival a n).mem =
    Memory.writeN (Memory.writeN s.mem a 8 (s.readPa a 8 + 65536)) (a + 8) 8 (pendAfter (s.readPa (a + 8) 8) n) := by
  rw [State.countArrival, setPend_eq, writePa_mem, writePa_mem, writePa_migs, ha, ha8]

theorem readPa_lt (s : State) (a : Nat) : s.readPa a 8 < 2 ^ 64 := (readN_lt ..).trans_eq (by norm_num)

theorem counted_arrived (ha : redirect s.migs a = a) (ha8 : redirect s.migs (a + 8) = a + 8) (h : s.readPa a 8 + 65536 < 2 ^ 64) (r : Req) (n : Nat) :
    Counted s.mem (s.arrived r a n).mem a (s.readPa a 8 + 65536) (pendAfter (s.readPa (a + 8) 8) n) := by
  have hm : (s.arrived r a n).mem = (s.countArrival a n).mem := (answers_joinParty (s.countArrival a n) r a _).mem
  rw [hm, countArrival_mem ha ha8]
  exact counted_writes h (pendAfter_lt (readPa_lt ..) n)

theorem parties_arrived (s : State) (r : Req) (a n : Nat) : ((s.arrived r a n).vault (homeOf a)).parties =
    (s.vault (homeOf a)).parties ++ [⟨a, s.readPa a 8 / 2 ^ 32 % 256, r.id⟩] := by
  rw [State.arrived, parties_joinParty, sameBut_vault (countArrival_sameBut s a n)]

theorem req_arrived (h : s.req r.id = some r) (hc : r.counted = true) (a n id : Nat) :
    (s.arrived r a n).req id = (s.req id).map (fun q => if q.id = r.id then q.deferred else q) := by
  have hq (j : Nat) : (s.countArrival a n).req j = s.req j := req_congr (sameBut_reqs (countArrival_sameBut s a n)) j
  rw [State.arrived, req_congr (joinParty_reqs ((hq _).trans h) hc ..), req_updReq (f := Req.deferred) (fun _ => rfl), hq]

/-- The fields of a barrier's first word once an arrival is counted. -/
theorem arrival_fields {w : Nat} (h : w / 65536 % 65536 + 1 < 65536) : (w + 65536) % 65536 = w % 65536 ∧
    (w + 65536) / 2 ^ 16 % 65536 = w / 65536 % 65536 + 1 ∧ (w + 65536) / 2 ^ 32 = w / 2 ^ 32 ∧ (w + 65536) / 2 ^ 40 = w / 2 ^ 40 := by
  have h1 : (w + 65536) / 65536 = w / 65536 + 1 := Nat.add_div_right _ (by decide)
  have h2 (u : Nat) : u / 2 ^ 32 = u / 65536 / 65536 := by norm_num [Nat.div_div_eq_div_mul]
  have h3 : (w / 65536 + 1) / 65536 = w / 65536 / 65536 := by omega
  have h4 (u : Nat) : u / 2 ^ 40 = u / 2 ^ 32 / 256 := by norm_num [Nat.div_div_eq_div_mul]
  have h5 : (w + 65536) / 2 ^ 32 = w / 2 ^ 32 := by rw [h2, h1, h3, ← h2]
  refine ⟨Nat.add_mod_right .., ?_, h5, by rw [h4, h5, ← h4]⟩
  show (w + 65536) / 65536 % 65536 = _
  rw [h1]
  omega

/-- The word that names the next generation is a word. -/
theorem genWord_lt {w : Nat} (h : w < 2 ^ 64) : w / 2 ^ 40 * 2 ^ 40 + (w / 2 ^ 32 % 256 + 1) % 256 * 2 ^ 32 + w % 65536 < 2 ^ 64 := by
  have h1 : w / 2 ^ 40 < 2 ^ 24 := by omega
  have h2 : (w / 2 ^ 32 % 256 + 1) % 256 < 256 := Nat.mod_lt _ (by decide)
  have h3 : w % 65536 < 65536 := Nat.mod_lt _ (by decide)
  omega

theorem req_arrived_same (h : s.req r.id = some r) (hc : r.counted = true) (a n : Nat) : (s.arrived r a n).req r.id = some r.deferred := by
  rw [req_arrived h hc, h, Option.map_some, if_pos rfl]

theorem endGen_reqs (s : State) (a : Nat) : (s.endGen a).reqs = s.reqs := sameBut_reqs (s := s.updVault ..) (writePa_sameBut ..)

/-- An arrival that is not the last one waits. -/
theorem arrival_waits (hr : s.req r.id = some r) (hc : r.counted = true) (ha : redirect s.migs a = a) (ha8 : redirect s.migs (a + 8) = a + 8)
    (hw : s.readPa a 8 / 65536 % 65536 + 1 < s.readPa a 8 % 65536) : ∃ s', ((s.arrived r a n).tryRelease a).progress r.inst = s' ∧
      Counted s.mem s'.mem a (s.readPa a 8 + 65536) (pendAfter (s.readPa (a + 8) 8) n) ∧
      (s'.vault (homeOf a)).parties = (s.vault (homeOf a)).parties ++ [⟨a, s.readPa a 8 / 2 ^ 32 % 256, r.id⟩] ∧ s'.req r.id = some r.deferred := by
  have hlt := readPa_lt s a
  have hco := counted_arrived ha ha8 (by omega) r n
  have hg : (s.arrived r a n).readPa a 8 = s.readPa a 8 + 65536 :=
    (readPa_of_redirect (by rw [arrived_migs, ha]) 8).trans hco.low
  have hn : ¬(s.arrived r a n).allIn a := by
    rintro ⟨-, h, -⟩
    obtain ⟨h1, h2, -, -⟩ := arrival_fields (w := s.readPa a 8) (by omega)
    rw [hg, h1, h2] at h
    omega
  have hfr := answers_progress (s.arrived r a n) r.inst
  refine ⟨_, rfl, ?_, ?_, ?_⟩
  · rw [tryRelease_of_not hn, hfr.mem]
    exact hco
  · rw [tryRelease_of_not hn, hfr.parties]
    exact parties_arrived ..
  · rw [tryRelease_of_not hn, req_congr (progress_reqs ..)]
    exact req_arrived_same hr hc a n

/-- The last arrival ends the generation, if the barrier waits for no bytes. -/
theorem arrival_last (hr : s.req r.id = some r) (hc : r.counted = true) (ha : redirect s.migs a = a) (ha8 : redirect s.migs (a + 8) = a + 8)
    (he : s.readPa a 8 / 65536 % 65536 + 1 = s.readPa a 8 % 65536) (hx : s.readPa a 8 / 2 ^ 40 % 2 = 0)
    (hp : pendOf (s.readPa (a + 8) 8) + (n : Nat) = 0) : ∃ s', ((s.arrived r a n).tryRelease a).progress r.inst = s' ∧
      Counted s.mem s'.mem a (s.readPa a 8 / 2 ^ 40 * 2 ^ 40 + (s.readPa a 8 / 2 ^ 32 % 256 + 1) % 256 * 2 ^ 32 + s.readPa a 8 % 65536)
        (s.readPa (a + 8) 8 / 2 ^ 40 * 2 ^ 40) ∧
      (s'.vault (homeOf a)).parties = (s.vault (homeOf a)).parties.filter (fun y => y.pa != a || y.gen != s.readPa a 8 / 2 ^ 32 % 256) ∧
      (∀ y ∈ (s.vault (homeOf a)).parties ++ [⟨a, s.readPa a 8 / 2 ^ 32 % 256, r.id⟩], y.pa = a → y.gen = s.readPa a 8 / 2 ^ 32 % 256 →
        ∀ x, s.req y.req = some x → x.counted = true →
          ∃ z, s'.req y.req = some z ∧ z.phase = .done ∧ z.res = BitVec.ofNat 64 (s.readPa a 8 / 2 ^ 32 % 256)) := by
  have hlt := readPa_lt s a
  have hco := counted_arrived ha ha8 (by omega) r n
  have hpa : pendAfter (s.readPa (a + 8) 8) n = s.readPa (a + 8) 8 / 2 ^ 40 * 2 ^ 40 := by
    rw [pendAfter, hp, BitVec.ofInt_ofNat]
    simp
  rw [hpa] at hco
  have hpar := parties_arrived s r a n
  have hreq := req_arrived hr hc a n
  have hmig := arrived_migs s r a n
  generalize s.arrived r a n = t at *
  have h0 : t.readPa a 8 = s.readPa a 8 + 65536 := (readPa_of_redirect (by rw [hmig, ha]) 8).trans hco.low
  have h8 : t.readPa (a + 8) 8 = s.readPa (a + 8) 8 / 2 ^ 40 * 2 ^ 40 := (readPa_of_redirect (by rw [hmig, ha8]) 8).trans hco.high
  generalize s.readPa a 8 = w0 at *
  generalize s.readPa (a + 8) 8 = w1 at *
  obtain ⟨hf0, hf16, hf32, hf40⟩ := arrival_fields (w := w0) (by omega)
  have hgen : t.readPa a 8 / 2 ^ 32 % 256 = w0 / 2 ^ 32 % 256 := by rw [h0, hf32]
  have hall : t.allIn a := by
    refine ⟨?_, ?_, ?_, ?_⟩
    · rw [h0, hf40, hx]
    · rw [h0, hf16, hf0, he]
    · rw [h0, hf0]; omega
    · rw [h8]; exact Nat.mul_mod_left ..
  have hend : (t.endGen a).mem = Memory.writeN t.mem a 8 (w0 / 2 ^ 40 * 2 ^ 40 + (w0 / 2 ^ 32 % 256 + 1) % 256 * 2 ^ 32 + w0 % 65536) := by
    have hw : (t.endGen a).mem = Memory.writeN t.mem (redirect t.migs a) 8
        (t.readPa a 8 / 2 ^ 40 * 2 ^ 40 + (t.readPa a 8 / 2 ^ 32 % 256 + 1) % 256 * 2 ^ 32 + t.readPa a 8 % 65536) := writePa_mem ..
    rw [hw, hmig, ha, hgen, h0, hf40, hf0]
  have hfr := (answers_answerParties (t.endGen a) a (t.readPa a 8 / 2 ^ 32 % 256)
    ((t.vault (homeOf a)).parties.filter (fun q => q.pa == a && q.gen == t.readPa a 8 / 2 ^ 32 % 256))).trans (answers_progress _ r.inst)
  rw [tryRelease_of_allIn hall]
  refine ⟨_, rfl, ?_, ?_, ?_⟩
  · rw [hfr.mem, hend]
    exact hco.again (genWord_lt hlt)
  · have hv : ((t.endGen a).vault (homeOf a)).parties = (t.vault (homeOf a)).parties.filter (fun q => q.pa != a || q.gen != t.readPa a 8 / 2 ^ 32 % 256) :=
      congrArg Vault.parties ((sameBut_vault (writePa_sameBut ..) _).trans (vault_updVault_same ..))
    rw [hfr.parties, hv, hpar, hgen, List.filter_append]
    simp
  · intro y hy hya hyg x hx hxc
    have hx' : (t.endGen a).req y.req = some (if x.id = r.id then x.deferred else x) := by
      rw [req_congr (endGen_reqs t a), hreq, hx, Option.map_some]
    have hc' : (if x.id = r.id then x.deferred else x).counted = true := by split_ifs <;> exact hxc
    rw [req_congr (progress_reqs ..), req_answerParties hx' hc', if_pos]
    · exact ⟨_, rfl, rfl, by rw [hgen]; rfl⟩
    · refine List.mem_map_of_mem (List.mem_filter.2 ⟨by rw [hpar]; exact hy, ?_⟩)
      rw [hgen, hya, hyg]
      simp

end

end Sys2Proof.Machine
end

section
namespace Sys2Proof.Machine
open State

/-! The last contribution of an entry: what its result is, and what the step leaves. -/

section
variable {s : State} {r : Req} {cc : Word} {v pa : Nat} {k : Cmb} {vals nv : List Nat}

theorem result_plus (hf : k.fixed = false) :
    (k.plus cc vals).result = k.vals.zipWith (combine (bitsOf cc 3 0) (bitsOf cc 6 4)) vals := by
  simp [Cmb.result, Cmb.plus, hf]

/-- `cmb.f` sums in rank order (R111). -/
theorem result_plus_fixed {n : Nat} {L : Nat → List Nat} (hf : k.fixed = true) (hn : 0 < n)
    (h : NMap.set k.ranks (bitsOf cc 31 28) vals = (List.range n).map (fun i => (i, L i))) :
    (k.plus cc vals).result = (List.range (n - 1)).foldl (fun acc i => acc.zipWith (combine 0 4) (L (i + 1))) (L 0) := by
  obtain ⟨m, rfl⟩ : ∃ m, n = m + 1 := ⟨n - 1, by omega⟩
  simp only [Cmb.result, Cmb.plus, hf, if_true, h, List.range_succ_eq_map, List.map_cons, List.map_map, List.foldl_map, Nat.add_sub_cancel]
  rfl

theorem lastCombine (hr : s.req r.id = some r) (hc : r.counted = true) (hk : (s.vault v).entry r.inst pa = some k) :
    let k' := k.plus cc vals
    let s' := ((s.putCmb v k').cmbMerged r).cmbRelease v k'
    (s'.vault v).cmbs = (s.vault v).cmbs.filter (fun x => !(x.inst == r.inst && x.place == pa)) ∧ ∃ x, s'.req r.id = some x ∧ x.phase = .done := by
  intro k' s'
  obtain ⟨hi, hp⟩ := entry_kind hk
  refine ⟨?_, done_cmbRelease (req_cmbMerged (s := s.putCmb v k') hr hc) hc rfl v k'⟩
  have h := filter_putCmb s v k'
  rw [cmbs_cmbRelease, (answers_cmbMerged ..).cmbs, h, show k'.inst = r.inst from hi, show k'.place = pa from hp]

theorem lastCombine_mem (hb : bitOf k.cc 24 = false) : (((s.putCmb v k).cmbMerged r).cmbRelease v k).mem = s.mem := by
  rw [cmbRelease_mem, State.cmbWritten, hb, if_neg Bool.false_ne_true, (answers_cmbMerged ..).mem]
  rfl

theorem pendOk_of {x : Int} (h : -(2 ^ 39 : Int) ≤ x) (h' : x < (2 ^ 39 : Int)) : pendOk x = true := by
  rw [pendOk, Bool.and_eq_true, decide_eq_true_eq, decide_eq_true_eq]
  omega

theorem barErr_reqs (s : State) (a w : Nat) : (s.barErr a w).reqs = s.reqs := sameBut_reqs (writePa_sameBut ..)

theorem clearAt_putCmb {n : Nat} {key : Option Nat} {places : List Nat} (h : s.clearAt n key places) :
    ((s.putCmb v k).cmbMerged r).clearAt n key places := by
  intro b hb
  obtain ⟨h1, h2, h3⟩ := h b hb
  have hfr := answers_cmbMerged (s.putCmb v k) r
  have hpar (w : Nat) : ((s.putCmb v k).vault w).parties = (s.vault w).parties := by
    by_cases hw : v = w
    · subst hw
      rw [State.putCmb, vault_updVault_same]
    · rw [State.putCmb, vault_updVault_other _ _ hw]
  refine ⟨oneKey_congr hfr.keyed hfr.keys h1, hfr.barObject ?_, by rw [hfr.parties, hpar]; exact h3⟩
  simp only [State.barObject, hpar]
  exact h2

/-- Each lane of a released entry is written where it lies. -/
theorem lastCombine_lane {j b x : Nat} (hb : bitOf k.cc 24 = true) (h : s.clearAt (typeBytes (bitsOf k.cc 6 4)) k.key k.lanesAt)
    (hd : k.lanesAt.Pairwise (fun b c => b + typeBytes (bitsOf k.cc 6 4) ≤ c ∨ c + typeBytes (bitsOf k.cc 6 4) ≤ b))
    (hj : k.lanesAt[j]? = some b) (hx : k.result[j]? = some x) :
    Memory.readN (((s.putCmb v k).cmbMerged r).cmbRelease v k).mem b (typeBytes (bitsOf k.cc 6 4)) =
      k.writes (Memory.readN s.mem b (typeBytes (bitsOf k.cc 6 4))) x % 256 ^ typeBytes (bitsOf k.cc 6 4) := by
  rw [cmbRelease_mem, State.cmbWritten, hb, if_pos rfl, readN_cmbWrite (clearAt_putCmb h) hd hj hx, (answers_cmbMerged ..).mem]
  rfl

end

/-- Settles O51: each case of a contribution, of the queue and of an arrival has its equation, and its frame says what stays. -/
theorem combinesAndBarriersAtHome : Obligations.CombinesAndBarriersAtHome := by
  unfold Obligations.CombinesAndBarriersAtHome
  intro s r q p ps a hreq hq hl hps ha hm hf hb hc pa v V vals at' lanes ent plain
  have hr : s.req r.id = some r := by rw [id_of_req hreq]; exact hreq
  have hx {fixed : Bool} {cc : Word} (ho : r.op = .cmb fixed cc) (hQ : V.cmbQ = []) :
      exec .eCombineContribution s = .next (s.contribute r fixed cc v pa false) := exec_combineContribution hreq hq hl hps ha hm hf hb ho hQ
  have hstay {cause : Nat} (hp : plain) : (s.refuse r cause).mem = s.mem ∧ ((s.refuse r cause).vault v).cmbs = V.cmbs ∧
      Claims.refused s (s.refuse r cause) r cause := ⟨(answers_refuse hp _).mem, (answers_refuse hp _).cmbs _, refused_refuse hr hc _⟩
  have hkey : r.pieces.head?.bind (·.key) = p.key := by rw [hps]; rfl
  have hopen (cc : Word) : r.opens s cc pa =
      { inst := r.inst, place := pa, lanesAt := at', fixed := false, cc := cc, lanes := lanes, seen := 1,
        vals := vals cc, ranks := [], dest := r.cmbDest cc, key := p.key } := by
    rw [← hkey]
    rfl
  have hdest {cc : Word} (h26 : bitOf cc 26 = false) : r.cmbDest cc = none := by rw [Req.cmbDest, h26]; rfl
  refine ⟨?_, ?_, ?_, ?_, ?_, ?_, ?_, ?_, ?_⟩
  · intro fixed cc k ho hQ hk hp hne
    exact ⟨_, (hx ho hQ).trans (congrArg _ (contribute_otherKind hk hne)), hstay hp⟩
  · intro cc ho hQ hp hcnt hkind
    exact ⟨_, (hx ho hQ).trans (congrArg _ (contribute_rankPast hcnt hkind)), hstay hp⟩
  · intro cc k l ho hQ hp hcnt hk hcc hlanes hfix hrank
    exact ⟨_, (hx ho hQ).trans (congrArg _ (contribute_rankTwice hcnt hk ⟨hcc, hlanes, hfix⟩ hrank)), hstay hp⟩
  · intro fixed cc k nv ho hQ hk hfix hcc hlanes hseen hnv hranks n
    subst hfix
    have hres : (k.plus cc (vals cc)).result = nv := by
      cases hkf : k.fixed with
      | false => exact (result_plus hkf).trans (hnv hkf).symm
      | true =>
        obtain ⟨hcnt, -, L, hL, hnvL⟩ := hranks hkf
        exact (result_plus_fixed hkf (by omega) hL).trans hnvL.symm
    have hn : typeBytes (bitsOf k.cc 6 4) = n := by rw [bitsOf_of_ccKey hcc (by decide)]; rfl
    have hex := contribute_merge hk ⟨hcc, hlanes⟩ fun hkf => ⟨(hranks hkf).1, (hranks hkf).2.1⟩
    rw [if_pos hseen] at hex
    obtain ⟨hcmbs, hdone⟩ := lastCombine (cc := cc) (vals := vals cc) hr hc hk
    refine ⟨_, (hx ho hQ).trans (congrArg _ hex), hcmbs, hdone, ?_, ?_, ?_⟩
    · intro h24
      exact lastCombine_mem (k := k.plus cc (vals cc)) ((bitOf_of_ccKey hcc (by decide)).trans h24)
    · intro h24 hclear hdis j b x hj hxj
      rw [← hres] at hxj
      rw [← hn] at hclear hdis ⊢
      refine (lastCombine_lane (k := k.plus cc (vals cc)) ((bitOf_of_ccKey hcc (by decide)).trans h24) hclear hdis hj hxj).trans ?_
      rw [Cmb.writes, ← bitOf_of_ccKey hcc (i := 25) (by decide), ← bitsOf_of_ccKey hcc (hi := 3) (by decide),
        ← bitsOf_of_ccKey hcc (hi := 6) (by decide)]
      rfl
    · intro d hd
      obtain ⟨t, m, hmem⟩ := emits_cmbRelease (k := k.plus cc (vals cc)) hd ((s.putCmb v (k.plus cc (vals cc))).cmbMerged r) v
      refine ⟨_, hmem, ?_, rfl, rfl, rfl, rfl, rfl, rfl⟩
      rw [← hres, ← hlanes]
      rfl
  · intro cc ho hQ hlen hk hcnt h26
    refine ⟨_, (hx ho hQ).trans (congrArg _ (contribute_opens hk hlen (.inr hQ) hcnt h26)), (answers_cmbMerged ..).mem, ?_,
      _, req_cmbMerged (s := (s.unqueue v false).addCmb v (r.opens s cc pa)) hr hc, rfl⟩
    rw [(answers_cmbMerged ..).cmbs, cmbs_addCmb, hopen, hdest h26]
    rfl
  · intro cc k ho hQ hk hfix hcc hlanes hseen
    have hex := contribute_merge (cc := cc) hk ⟨hcc, hlanes⟩ fun hkf => absurd (hfix.symm.trans hkf) Bool.false_ne_true
    rw [if_neg hseen, hfix] at hex
    refine ⟨_, (hx ho hQ).trans (congrArg _ hex), (answers_cmbMerged ..).mem, ?_,
      _, req_cmbMerged (s := s.putCmb v (k.plus cc (vals cc))) hr hc, rfl⟩
    rw [(answers_cmbMerged ..).cmbs]
    refine (entry_putCmb (k' := k.plus cc (vals cc)) hk rfl rfl).trans ?_
    rw [Cmb.plus, hfix]
    rfl
  · intro cc ho hQ hlen hk
    refine ⟨_, (hx ho hQ).trans (congrArg _ (contribute_waits hk hlen)), rfl, ?_, ?_⟩
    · rw [vault_updVault_same]
    · rw [vault_updVault_same]
      show V.cmbQ ++ [r.id] = _
      rw [hQ]
      rfl
  · intro cc rest ho he hQ hlen hk hcnt h26
    have hex := contribute_opens (fromQ := true) hk hlen (.inl rfl) hcnt h26
    refine ⟨_, (exec_combineQueueAdmit hr hps ha ho he hQ).trans (congrArg _ hex), (answers_cmbMerged ..).mem, ?_, ?_⟩
    · rw [(answers_cmbMerged ..).cmbQ, State.addCmb, vault_updVault_same, State.unqueue, if_pos rfl, vault_updVault_same]
      exact congrArg List.tail hQ
    · rw [(answers_cmbMerged ..).cmbs, cmbs_addCmb, hopen, hdest h26, State.unqueue, if_pos rfl, vault_updVault_same]
  · intro n w0 w1 exp arr ho hva hpa h0 h1 ha8 hexp harr
    have hexec := exec_barrierArrival hreq hq hl hps ha hm hf hb ho hva
    have hva' : v = homeOf a := congrArg homeOf hpa
    have hV : (s.vault (homeOf a)).parties = V.parties := by rw [← hva']
    subst h0 h1 hexp harr
    refine ⟨?_, ?_, ?_⟩
    · intro hne hlt hlo hhi
      have hok : pendOk (pendOf (s.readPa (a + 8) 8) + (n : Nat)) = true := pendOk_of hlo hhi
      rw [if_neg (by rw [hok]; simp; omega)] at hexec
      obtain ⟨s', rfl, hco, hpar, hreq'⟩ := arrival_waits (n := n) hr hc hpa ha8 hlt
      refine ⟨_, hexec, hco.low, ?_, hco.other, ?_, _, hreq', rfl⟩
      · rw [hco.high]
        exact sgn_setPend _ hok
      · rw [hva', hpar, hV]
    · intro hlast hbit hzero
      have hok : pendOk (pendOf (s.readPa (a + 8) 8) + (n : Nat)) = true := by
        rw [show pendOf (s.readPa (a + 8) 8) + (n : Nat) = 0 from hzero]
        rfl
      rw [if_neg (by rw [hok]; simp; omega)] at hexec
      obtain ⟨s', rfl, hco, hpar, hans⟩ := arrival_last (n := n) hr hc hpa ha8 hlast hbit hzero
      refine ⟨_, hexec, hco.low, hco.high, hco.other, ?_, ?_, ?_⟩
      · rw [hva', hpar, hV]
      · exact hans _ (List.mem_append_right _ List.mem_cons_self) rfl rfl r hr hc
      · intro y hy
        exact hans y (List.mem_append_left _ (by rw [hV]; exact hy))
    · intro hfull hwho
      rw [if_pos (hfull.imp_right .inl)] at hexec
      have hfr := answers_refuse (s := s.barErr a (s.readPa a 8)) (.inl hwho) 0x2E
      obtain ⟨g, e, hw⟩ := hwho
      have hre := (refused_refuse ((req_congr (barErr_reqs s a (s.readPa a 8)) _).trans hr) hc 0x2E).1 g e hw
      have hlt := readPa_lt s a
      have hmem : (s.barErr a (s.readPa a 8)).mem =
          Memory.writeN s.mem a 8 (if s.readPa a 8 / 2 ^ 40 % 2 = 1 then s.readPa a 8 else s.readPa a 8 + 2 ^ 40) := by
        rw [State.barErr, writePa_mem, show redirect s.migs a = a from hpa]
      refine ⟨_, hexec, ?_, ?_, hre⟩
      · rw [hfr.mem, hmem, Memory.readN_writeN]
        refine Nat.mod_eq_of_lt ?_
        rw [show (256 : Nat) ^ 8 = 2 ^ 64 by norm_num]
        split_ifs <;> omega
      · rw [hfr.mem, hmem, readPa_of_redirect ha8]
        exact Memory.readN_congr _ _ fun j h1 h2 => Memory.get_writeN_other _ _ _ _ _ (by omega)

end Sys2Proof.Machine
end

section
namespace Sys2Proof.Machine
open State

/-! The walk of a page table (O56, R387 to R391). -/

/-- The index of an address in a level's table. -/
def walkIdx (va l : Nat) : Nat := if l = 1 then va / 2 ^ 48 % 256 else va / 2 ^ (57 - 9 * l) % 512

theorem levelIdx_eq (va : Nat) {l : Nat} (h1 : 1 ≤ l) (h5 : l ≤ 5) : levelIdx va l = walkIdx va l := by
  obtain rfl | rfl | rfl | rfl | rfl : l = 1 ∨ l = 2 ∨ l = 3 ∨ l = 4 ∨ l = 5 := by omega
  all_goals rfl

section
variable {s : State} {tenant va need root g l fuel tbl : Nat}

/-- Where the entry of a level lies, and what it is. -/
def entryAt (va l tbl : Nat) : Nat := tbl + 8 * walkIdx va l
def State.pte (s : State) (va l tbl : Nat) : Word := BitVec.ofNat 64 (s.readPa (entryAt va l tbl) 8)

/-- No entry of the walk is in a block in error. -/
def State.walksClean (s : State) : Prop := s.bad = [] ∧ 5 < s.ev.arc

/-- One level of a walk. -/
theorem walk_step (h1 : 1 ≤ l) (h5 : l ≤ 5) (hc : s.walksClean) : s.walk tenant va need (fuel + 1) l tbl =
    if s.reachable (redirect s.migs (entryAt va l tbl)) = false then (.dead, [])
    else if bitOf (s.pte va l tbl) 0 = false then (.fault l 0 (s.pte va l tbl), [])
    else if bitsOf (s.pte va l tbl) 3 1 ≠ 0 then (s.leafEnd tenant va need l (entryAt va l tbl) (s.pte va l tbl), [])
    else if bitsOf (s.pte va l tbl) 63 52 ≠ 0 ∨ bitsOf (s.pte va l tbl) 11 4 ≠ 0 then (.fault l 1 (s.pte va l tbl), [])
    else if 5 ≤ l then (.fault l 2 (s.pte va l tbl), [])
    else if s.mapped (ptePa (s.pte va l tbl)) = false then (.fault l 4 (s.pte va l tbl), [])
    else ((s.walk tenant va need fuel (l + 1) (ptePa (s.pte va l tbl))).1,
      (⟨tenant, l + 1, va / 2 ^ levelShift l, ptePa (s.pte va l tbl)⟩ : Ptr) :: (s.walk tenant va need fuel (l + 1) (ptePa (s.pte va l tbl))).2) := by
  have hb : ¬(s.bad.contains (redirect s.migs (tbl + 8 * levelIdx va l) / 64) = true ∨ s.ev.arc = l) := by
    rw [hc.1, not_or]
    exact ⟨Bool.false_ne_true, by have := hc.2; omega⟩
  rw [State.walk, levelIdx_eq va h1 h5]
  rw [levelIdx_eq va h1 h5] at hb
  simp only [hb, if_false, Bool.not_eq_true']
  rfl

/-- What a level must be for the walk to go on to the next one. -/
structure Points (s : State) (va l tbl next : Nat) : Prop where
  up : s.reachable (redirect s.migs (entryAt va l tbl)) = true
  valid : bitOf (s.pte va l tbl) 0 = true
  ptr : bitsOf (s.pte va l tbl) 3 1 = 0
  high : bitsOf (s.pte va l tbl) 63 52 = 0
  low : bitsOf (s.pte va l tbl) 11 4 = 0
  mapped : s.mapped (ptePa (s.pte va l tbl)) = true
  next_eq : next = ptePa (s.pte va l tbl)

theorem walk_points {next : Nat} (h1 : 1 ≤ l) (h5 : l < 5) (hc : s.walksClean) (h : Points s va l tbl next) :
    (s.walk tenant va need (fuel + 1) l tbl).1 = (s.walk tenant va need fuel (l + 1) next).1 := by
  rw [walk_step h1 (by omega) hc]
  simp [h.up, h.valid, h.ptr, h.high, h.low, h.mapped, h.next_eq, Nat.not_le.2 h5]

/-- The walk from the root reaches the first level that does not point further. -/
theorem walk_to {T : Nat → Nat} {L : Nat} (h5 : L ≤ 5) (hc : s.walksClean) (h : ∀ l, 1 ≤ l → l < L → Points s va l (T l) (T (l + 1))) :
    1 ≤ L → (s.walk tenant va need 5 1 (T 1)).1 = (s.walk tenant va need (5 - L + 1) L (T L)).1 := by
  induction L with
  | zero => intro h0; omega
  | succ L ih =>
    intro _
    obtain rfl | hL : L = 0 ∨ 1 ≤ L := by omega
    · rfl
    · rw [ih (by omega) (fun l hl hlt => h l hl (by omega)) hL, walk_points hL (by omega) hc (h L hL (by omega)),
        show 5 - L = 5 - (L + 1) + 1 by omega]

/-! Where it ends. -/

section
variable (h1 : 1 ≤ l) (h5 : l ≤ 5) (hc : s.walksClean)
include h1 h5 hc

theorem walk_dead (hu : ¬s.reachable (redirect s.migs (entryAt va l tbl)) = true) : (s.walk tenant va need (fuel + 1) l tbl).1 = .dead := by
  rw [walk_step h1 h5 hc, if_pos (by simpa using hu)]

variable (hu : s.reachable (redirect s.migs (entryAt va l tbl)) = true)
include hu

theorem walk_invalid (hv : ¬bitOf (s.pte va l tbl) 0 = true) : (s.walk tenant va need (fuel + 1) l tbl).1 = .fault l 0 (s.pte va l tbl) := by
  rw [walk_step h1 h5 hc, if_neg (by simpa using hu), if_pos (by simpa using hv)]

variable (hv : bitOf (s.pte va l tbl) 0 = true)
include hv

theorem walk_leaf (hp : ¬bitsOf (s.pte va l tbl) 3 1 = 0) :
    (s.walk tenant va need (fuel + 1) l tbl).1 = s.leafEnd tenant va need l (entryAt va l tbl) (s.pte va l tbl) := by
  rw [walk_step h1 h5 hc, if_neg (by simpa using hu), if_neg (by simpa using hv), if_pos hp]

variable (hp : bitsOf (s.pte va l tbl) 3 1 = 0)
include hp

theorem walk_unsound (hs : ¬(bitsOf (s.pte va l tbl) 63 52 = 0 ∧ bitsOf (s.pte va l tbl) 11 4 = 0)) :
    (s.walk tenant va need (fuel + 1) l tbl).1 = .fault l 1 (s.pte va l tbl) := by
  rw [walk_step h1 h5 hc, if_neg (by simpa using hu), if_neg (by simpa using hv), if_neg (not_not.2 hp), if_pos (by tauto)]

variable (hs : bitsOf (s.pte va l tbl) 63 52 = 0 ∧ bitsOf (s.pte va l tbl) 11 4 = 0)
include hs

theorem walk_tooDeep (hl : 5 ≤ l) : (s.walk tenant va need (fuel + 1) l tbl).1 = .fault l 2 (s.pte va l tbl) := by
  rw [walk_step h1 h5 hc, if_neg (by simpa using hu), if_neg (by simpa using hv), if_neg (not_not.2 hp), if_neg (by tauto), if_pos hl]

theorem walk_unmapped (hl : l < 5) (hm : s.mapped (ptePa (s.pte va l tbl)) = false) :
    (s.walk tenant va need (fuel + 1) l tbl).1 = .fault l 4 (s.pte va l tbl) := by
  rw [walk_step h1 h5 hc, if_neg (by simpa using hu), if_neg (by simpa using hv), if_neg (not_not.2 hp), if_neg (by tauto),
    if_neg (Nat.not_le.2 hl), if_pos hm]

end

/-- The bits that a walk sets in an entry (R391). -/
def markOf (wr : Bool) : Word := if wr then 0x30 else 0x10

theorem mark_eq (e : Word) (wr : Bool) : e ||| 0x10 ||| (if wr then 0x20 else 0) = e ||| markOf wr := by
  cases wr with
  | false => simp [markOf]
  | true => rw [BitVec.or_assoc]; rfl

theorem bitsOf_mark (e : Word) (wr : Bool) {hi lo : Nat} (h : 6 ≤ lo) : bitsOf (e ||| markOf wr) hi lo = bitsOf e hi lo := by
  have hlt : (markOf wr).toNat < 2 ^ lo := lt_of_lt_of_le (by cases wr <;> decide : (markOf wr).toNat < 2 ^ 6) (Nat.pow_le_pow_right (by decide) h)
  rw [bitsOf, BitVec.toNat_or, Nat.or_div_two_pow, Nat.div_eq_of_lt hlt, Nat.or_zero, bitsOf]

/-- A leaf with the bits that its walk has set. -/
def Leaf.marked (k : Leaf) (wr : Bool) : Leaf := { k with pte := k.pte ||| markOf wr }

theorem markLeaf_fst (s : State) (k : Leaf) (wr : Bool) : (s.markLeaf k wr).1 = k.marked wr := by
  rw [State.markLeaf, Leaf.marked, mark_eq]

theorem markLeaf_snd (s : State) (k : Leaf) (wr : Bool) :
    (s.markLeaf k wr).2 = if (k.marked wr).pte = k.pte then s else s.writePa k.pteAt 8 (k.marked wr).pte.toNat := by
  rw [State.markLeaf, mark_eq]
  rfl

theorem kind_marked (k : Leaf) (wr : Bool) : (k.marked wr).kind = k.kind := bitsOf_mark _ _ (by decide)
theorem key_marked (k : Leaf) (wr : Bool) : (k.marked wr).key = k.key := bitsOf_mark _ _ (by decide)
theorem pa_marked (k : Leaf) (wr : Bool) (va : Nat) : (k.marked wr).pa va = ptePa k.pte + (va - k.vbase) := by
  rw [Leaf.pa, ptePa, Leaf.marked, bitsOf_mark _ _ (by decide)]
  rfl

/-- A walk that ends in no page leaves its end. -/
theorem translate_fst {x : Tr} (hw : (s.walk tenant va need 5 1 root).1 = x) (hx : ∀ k, x ≠ .ok k) :
    (s.translate g tenant root va need true).1 = x := by
  have hst : startOf [] tenant va root = (1, root) := rfl
  simp only [State.translate, if_true, hst, hw]

/-- One that ends in a page marks the page's entry. -/
theorem translate_ok {k : Leaf} (hw : (s.walk tenant va need 5 1 root).1 = .ok k) :
    (s.translate g tenant root va need true).1 = .ok (k.marked (decide (need / 2 % 2 = 1))) ∧
      (s.translate g tenant root va need true).2.mem = (s.markLeaf k (decide (need / 2 % 2 = 1))).2.mem ∧
      (s.translate g tenant root va need true).2.migs = s.migs := by
  have hst : startOf [] tenant va root = (1, root) := rfl
  simp only [State.translate, if_true, hst, hw, markLeaf_fst, markLeaf_snd]
  refine ⟨trivial, ?_, ?_⟩
  · split_ifs
    · rfl
    · rfl
  · split_ifs
    · rfl
    · rfl

/-- The entry that a walk has marked. -/
theorem readPa_markLeaf (s : State) (a : Nat) (k : Leaf) (wr : Bool) (hk : k.pteAt = a) (hp : k.pte = BitVec.ofNat 64 (s.readPa a 8)) :
    Memory.readN (s.markLeaf k wr).2.mem (redirect s.migs a) 8 = (k.marked wr).pte.toNat ∧
      ∀ b, b < redirect s.migs a ∨ redirect s.migs a + 8 ≤ b → Memory.get (s.markLeaf k wr).2.mem b = Memory.get s.mem b := by
  rw [markLeaf_snd]
  split_ifs with h
  · refine ⟨?_, fun b _ => rfl⟩
    rw [h, hp, BitVec.toNat_ofNat]
    exact (Nat.mod_eq_of_lt (readPa_lt s a)).symm
  · subst hk
    refine ⟨?_, fun b hb => Memory.get_writeN_other _ _ _ _ _ hb⟩
    rw [writePa_mem, Memory.readN_writeN]
    exact Nat.mod_eq_of_lt ((BitVec.isLt _).trans_eq (by norm_num))

end

/-! The end of a walk at a page (R388 to R390). -/

/-- A page size that a level may hold. -/
theorem sizeLevel_fits {code : Nat} (hc : code < 8) (l : Nat) :
    ¬(l ≤ 2 ∨ sizeLevel code ≠ l) ↔ l = 5 ∧ code < 4 ∨ l = 4 ∧ 4 ≤ code ∧ code < 6 ∨ l = 3 ∧ 6 ≤ code := by
  unfold sizeLevel
  split_ifs <;> omega

theorem pageBytes_eq {code : Nat} (hc : code < 8) :
    pageBytes code = [0x1000, 0x4000, 0x10000, 0x40000, 0x200000, 0x2000000, 0x40000000, 0x400000000].getD code 0 := by
  rw [pageBytes, List.getD_eq_getElem _ _ hc, List.getD_eq_getElem _ _ hc]

theorem grants_iff (e : Word) (need : Nat) : grants e need = true ↔
    (need % 2 = 1 → e.getLsbD 1 = true) ∧ (need / 2 % 2 = 1 → e.getLsbD 2 = true) ∧ (need / 4 % 2 = 1 → e.getLsbD 3 = true) := by
  have h (n : Nat) (b : Bool) : (n % 2 == 0 || b) = true ↔ (n % 2 = 1 → b = true) := by
    obtain h | h := Nat.mod_two_eq_zero_or_one n
    · simp [h]
    · simp [h]
  rw [grants, Bool.and_eq_true, Bool.and_eq_true, h, h, h, and_assoc]
  rfl

theorem sub_div_mul (va size : Nat) : va - va / size * size = va % size := by
  have := Nat.div_add_mod' va size
  omega

/-- A walk that ends in a page marks its entry and no other byte. -/
theorem leaf_translated {s : State} {g tenant root va need a size : Nat} {e : Word} {t : Tr × State}
    (ht : t = s.translate g tenant root va need true) (he : e = BitVec.ofNat 64 (s.readPa a 8))
    (hw : (s.walk tenant va need 5 1 root).1 = .ok ⟨tenant, va / size * size, size, e, a⟩) :
    ∃ l, t.1 = .ok l ∧ l.pa va = bitsOf e 51 12 * 4096 + va % size ∧ l.vbase = va / size * size ∧ l.size = size ∧ l.kind = bitsOf e 11 9 ∧
      l.key = bitsOf e 61 52 ∧ t.2.readPa a 8 = (e ||| 0x10 ||| (if need / 2 % 2 = 1 then 0x20 else 0)).toNat ∧
      ∀ b, b < redirect s.migs a ∨ redirect s.migs a + 8 ≤ b → Memory.get t.2.mem b = Memory.get s.mem b := by
  obtain ⟨h1, h2, h3⟩ := translate_ok (g := g) hw
  obtain ⟨h4, h5⟩ := readPa_markLeaf s a ⟨tenant, va / size * size, size, e, a⟩ (decide (need / 2 % 2 = 1)) rfl he
  rw [← ht] at h1 h2 h3
  refine ⟨_, h1, ?_, rfl, rfl, kind_marked .., key_marked .., ?_, ?_⟩
  · rw [pa_marked, sub_div_mul]
    rfl
  · rw [State.readPa, h2, h3, h4]
    show (e ||| markOf _).toNat = _
    rw [← mark_eq]
    simp only [decide_eq_true_eq]
  · rw [h2]
    exact h5

section
variable {s : State} {tenant va need l at_ : Nat} {e : Word}

/-- A page that a level may hold, in line, and mapped. -/
structure SoundPage (s : State) (l : Nat) (e : Word) : Prop where
  high : bitsOf e 63 62 = 0
  fits : ¬(l ≤ 2 ∨ sizeLevel (bitsOf e 8 6) ≠ l)
  base : ptePa e % pageBytes (bitsOf e 8 6) = 0
  mapped : ¬(!s.mapped (ptePa e) ∨ !s.mapped (ptePa e + pageBytes (bitsOf e 8 6) - 1))

theorem leafEnd_reserved (h : bitsOf e 63 62 ≠ 0) : s.leafEnd tenant va need l at_ e = .fault l 1 e := if_pos h

theorem leafEnd_size (h : bitsOf e 63 62 = 0) (hf : l ≤ 2 ∨ sizeLevel (bitsOf e 8 6) ≠ l) : s.leafEnd tenant va need l at_ e = .fault l 2 e := by
  unfold State.leafEnd
  rw [if_neg (not_not.2 h), if_pos hf]

theorem leafEnd_base (h : bitsOf e 63 62 = 0) (hf : ¬(l ≤ 2 ∨ sizeLevel (bitsOf e 8 6) ≠ l)) (hb : ptePa e % pageBytes (bitsOf e 8 6) ≠ 0) :
    s.leafEnd tenant va need l at_ e = .fault l 3 e := by
  unfold State.leafEnd
  rw [if_neg (not_not.2 h), if_neg hf, if_pos hb]

theorem leafEnd_unmapped (h : bitsOf e 63 62 = 0) (hf : ¬(l ≤ 2 ∨ sizeLevel (bitsOf e 8 6) ≠ l)) (hb : ptePa e % pageBytes (bitsOf e 8 6) = 0)
    (hm : (!s.mapped (ptePa e)) = true ∨ (!s.mapped (ptePa e + pageBytes (bitsOf e 8 6) - 1)) = true) :
    s.leafEnd tenant va need l at_ e = .fault l 4 e := by
  unfold State.leafEnd
  rw [if_neg (not_not.2 h), if_neg hf, if_neg (not_not.2 hb), if_pos hm]

theorem leafEnd_sound (h : SoundPage s l e) : s.leafEnd tenant va need l at_ e =
    if 4 ≤ bitsOf e 11 9 then .fault l 5 e
    else if grants e need = true then
      .ok ⟨tenant, va / pageBytes (bitsOf e 8 6) * pageBytes (bitsOf e 8 6), pageBytes (bitsOf e 8 6), e, at_⟩
    else .denied := by
  unfold State.leafEnd
  rw [if_neg (not_not.2 h.high), if_neg h.fits, if_neg (not_not.2 h.base), if_neg h.mapped]
  simp only [Bool.not_eq_true', ← Bool.not_eq_true, ite_not]

end

/-- The walk of a page table, level by level and at its end. -/
theorem partWalk : Claims.PartWalk := by
  intro s g tenant root va need L T h1 h5 hbad harc hroot idx at' e next up valid ptr sound t hpts
  have hc : s.walksClean := ⟨hbad, harc⟩
  have hpoint (l : Nat) (hl : 1 ≤ l) (hlt : l < L) : Points s va l (T l) (T (l + 1)) := by
    obtain ⟨hu, hv, hp, ⟨hh, hlo⟩, hm, hn⟩ := hpts l hl hlt
    exact ⟨hu, hv, hp, hh, hlo, hm, hn⟩
  have hw := walk_to (tenant := tenant) (need := need) h5 hc hpoint h1
  rw [hroot] at hw
  have hend {x : Tr} (hx : ∀ k, x ≠ .ok k) (h : (s.walk tenant va need (5 - L + 1) L (T L)).1 = x) : t.1 = x := translate_fst (hw.trans h) hx
  refine ⟨?_, ?_, ?_, ?_, ?_, ?_⟩
  · intro hu
    exact hend nofun (walk_dead h1 h5 hc hu)
  · intro hu hv
    exact hend nofun (walk_invalid h1 h5 hc hu hv)
  · intro hu hv hp hs
    exact hend nofun (walk_unsound h1 h5 hc hu hv hp hs)
  · rintro hu hv hp hs rfl
    exact hend nofun (walk_tooDeep h1 h5 hc hu hv hp hs h5)
  · intro hu hv hp hs hl hm
    exact hend nofun (walk_unmapped h1 h5 hc hu hv hp hs hl hm)
  · intro hu hv hp code size fits mapped granted
    have hleaf := walk_leaf (tenant := tenant) (need := need) (fuel := 5 - L) h1 h5 hc hu hv hp
    have hcode : code < 8 := Nat.mod_lt _ (by decide)
    have hsize : pageBytes code = size := pageBytes_eq hcode
    have hfit : ¬(L ≤ 2 ∨ sizeLevel code ≠ L) ↔ fits := sizeLevel_fits hcode L
    have hmap : ((!s.mapped (next L)) = true ∨ (!s.mapped (next L + pageBytes code - 1)) = true) ↔ ¬mapped := by
      simp only [hsize, mapped, Bool.not_eq_true', not_and_or, Bool.not_eq_true]
    have hpage (hr : bitsOf (e L) 63 62 = 0) (hf : fits) (hb : next L % size = 0) (hm : mapped) : SoundPage s L (e L) :=
      ⟨hr, hfit.2 hf, by rw [← hsize] at hb; exact hb, fun hc => hmap.1 hc hm⟩
    refine ⟨?_, ?_, ?_, ?_, ?_, ?_, ?_⟩
    · intro hr
      exact hend nofun (hleaf.trans (leafEnd_reserved hr))
    · intro hr hf
      exact hend nofun (hleaf.trans (leafEnd_size hr (not_not.1 fun hc => hf (hfit.1 hc))))
    · intro hr hf hb
      exact hend nofun (hleaf.trans (leafEnd_base hr (hfit.2 hf) (by rw [← hsize] at hb; exact hb)))
    · intro hr hf hb hm
      exact hend nofun (hleaf.trans (leafEnd_unmapped hr (hfit.2 hf) (by rw [← hsize] at hb; exact hb) (hmap.2 hm)))
    · intro hr hf hb hm hk
      exact hend nofun (hleaf.trans ((leafEnd_sound (hpage hr hf hb hm)).trans (if_pos hk)))
    · intro hr hf hb hm hk hg
      refine hend nofun (hleaf.trans ((leafEnd_sound (hpage hr hf hb hm)).trans ?_))
      rw [if_neg (Nat.not_le.2 hk), if_neg (fun hc => hg ((grants_iff ..).1 hc))]
    · intro hr hf hb hm hk hg
      refine leaf_translated rfl rfl (hw.trans (hleaf.trans ((leafEnd_sound (hpage hr hf hb hm)).trans ?_)))
      rw [if_neg (Nat.not_le.2 hk), if_pos ((grants_iff ..).2 hg), ← hsize]
      rfl

end Sys2Proof.Machine
end

section
namespace Sys2Proof.Machine
open State

/-! The steps of a translation node (O56, R271, R390 to R398). -/

section
variable {s s1 t : State} {r : Req} {q : Region} {g va : Nat}

/-- Only a tile's caches, the entry of the page and its bytes change in a translation. -/
def State.cachesOnly (s t : State) : Prop := { t with tiles := s.tiles, mem := s.mem, stale := s.stale, keyed := s.keyed, ptrs := s.ptrs } = s

theorem cachesOnly_trans (h : s.cachesOnly s1) (h' : s1.cachesOnly t) : s.cachesOnly t := by
  unfold State.cachesOnly at *
  have e := congrArg (fun x : State => { x with tiles := s.tiles, mem := s.mem, stale := s.stale, keyed := s.keyed, ptrs := s.ptrs }) h'
  exact e.trans h

theorem cachesOnly_updTile (s : State) (g : Nat) (f : Tile → Tile) : s.cachesOnly (s.updTile g f) := rfl

theorem cachesOnly_markLeaf (s : State) (k : Leaf) (wr : Bool) : s.cachesOnly (s.markLeaf k wr).2 := by
  rw [markLeaf_snd]
  split_ifs
  · exact rfl
  · exact rfl

theorem cachesOnly_translate (s : State) (g tenant root va need : Nat) (evict : Bool) : s.cachesOnly (s.translate g tenant root va need evict).2 := by
  unfold State.translate
  lift_lets
  extract_lets t hit wr ps walked
  have hw : s.cachesOnly walked.2 := by
    unfold walked
    dsimp only
    split
    · dsimp only
      refine cachesOnly_trans ?_ (cachesOnly_updTile _ g _)
      refine cachesOnly_trans ?_ (cachesOnly_markLeaf ..)
      exact rfl
    · exact rfl
  clear_value walked hit
  split
  · split_ifs
    · exact rfl
    · exact hw
    · exact rfl
  · exact hw

theorem translate_reqs (s : State) (g tenant root va need : Nat) (evict : Bool) : (s.translate g tenant root va need evict).2.reqs = s.reqs :=
  (congrArg State.reqs (cachesOnly_translate s g tenant root va need evict) :)

/-- A page that is found places the request's parts in it, if their kind and the memory allow it. -/
def State.walkPage (s : State) (r : Req) (va : Nat) (l : Leaf) : State :=
  if kindBad r.op.needs.2 l.kind then s.deny r va 0x27
  else if !s.paOk (l.pa va) l.key then s.deny r va 0x21
  else
    let s := s.updReq r.id (fun q => q.placed l)
    match s.req r.id with
    | some q => if q.acq && !q.acquires then
        (match q.who with
         | .ctx g p c => (s.updCtx g p c (fun x => { x with acq := if x.acq = some q.id then none else x.acq })).wakeCtx g p c
         | _ => s)
      else s
    | none => s

/-- What a translation's end does to the request, before its tile looks again. -/
def State.walkEnd (s : State) (r : Req) (g va : Nat) : Tr → State
  | .ok l => (match r.op with | .xlt k _ => s.xltEnd r k (.ok (l.win va r.tenant (s.tile g).seq)) | _ => s.walkPage r va l)
  | .denied => (match r.op with | .xlt k _ => s.xltEnd r k (.error 0x25) | _ => s.deny r va 0x25)
  | .dead => (match r.op with | .xlt k _ => s.xltEnd r k (.error 0x21) | _ => s.deny r va 0x21)
  | .bad pa => s.dataError r pa
  | .fault level reason pte => s.faulted r (s.pageFault r.inst r.tenant g (s.roleOf r.who)
      (if r.op.needs.1 / 2 % 2 = 1 then 1 else if r.op.needs.1 / 4 % 2 = 1 then 2 else 0) va level reason pte)

/-- A node walks for the request of the step. -/
structure Walks (s : State) (r : Req) (q : Region) (g va : Nat) (x : Tr) (s1 : State) : Prop where
  req : s.req s.ev.id = some r
  region : NMap.find s.regions r.inst = some q
  live : q.live = true
  tile : r.who.tile = some g
  next : r.nextVa = some va
  unwalked : r.unwalked = true
  free : s.nodeFree g r = true
  noFill : r.op.isFill = false
  walk : s.translate g r.tenant (s.rootOf r.inst) va r.op.needs.1 s.ev.flag = (x, s1)

variable {x : Tr}

theorem Walks.reqs (h : Walks s r q g va x s1) : s1.reqs = s.reqs := by
  have := translate_reqs s g r.tenant (s.rootOf r.inst) va r.op.needs.1 s.ev.flag
  rwa [h.walk] at this

theorem exec_translationWalk (h : Walks s r q g va x s1) : exec .eTranslationWalk s =
    .next ((match x with | .fault _ _ _ => s1.walkEnd r g va x | _ => (s1.walkEnd r g va x).unheld r).wakeTile g) := by
  rw [show exec .eTranslationWalk s = execTranslationWalk s from rfl]
  simp only [execTranslationWalk, liveReq_of h.req h.region h.live, h.tile, h.next, h.unwalked, h.free, h.noFill, h.walk]
  rw [if_neg (by simp)]
  cases x with
  | ok l => rfl
  | denied => rfl
  | fault l c e => rfl
  | bad a => rfl
  | dead => rfl

theorem exec_walk_goesOn (h : Walks s r q g va x s1) (hx : ∀ l c e, x ≠ .fault l c e) (ht : s1.walkEnd r g va x = t) :
    exec .eTranslationWalk s = .next ((t.unheld r).wakeTile g) := by
  rw [exec_translationWalk h, ht]
  cases x with
  | fault l c e => exact absurd rfl (hx l c e)
  | _ => rfl

/-! What each end does. -/

theorem walkEnd_place {l : Leaf} (hr : s.req r.id = some r) (hx : ∀ k n, r.op ≠ .xlt k n) (ha : r.acq = false ∨ (r.placed l).isUn = false)
    (hk : kindBad r.op.needs.2 l.kind = false) (hp : s.paOk (l.pa va) l.key = true) :
    s.walkEnd r g va (.ok l) = s.updReq r.id (fun x => x.placed l) := by
  have hu : (s.updReq r.id (fun x => x.placed l)).req r.id = some (r.placed l) := req_updReq_same (f := fun x => x.placed l) (fun _ => rfl) hr
  have hacq : ((r.placed l).acq && !(r.placed l).acquires) = false := by
    rw [Req.acquires, show (r.placed l).acq = r.acq from rfl]
    obtain ha | ha := ha
    · rw [ha]; rfl
    · rw [ha]; cases r.acq <;> rfl
  rw [State.walkEnd]
  split
  · next k n ho => exact absurd ho (hx k n)
  · rw [State.walkPage, if_neg (by rw [hk]; exact Bool.false_ne_true), if_neg (by rw [hp]; exact Bool.false_ne_true)]
    simp only [hu, hacq]
    rfl

theorem walkEnd_window {l : Leaf} {k n : Nat} (ho : r.op = .xlt k n) :
    s.walkEnd r g va (.ok l) = s.xltEnd r k (.ok (l.win va r.tenant (s.tile g).seq)) := by simp only [State.walkEnd, ho]

theorem walkEnd_denied (hx : ∀ k n, r.op ≠ .xlt k n) : s.walkEnd r g va .denied = s.deny r va 0x25 := by
  rw [State.walkEnd]
  split
  · next k n ho => exact absurd ho (hx k n)
  · rfl

theorem walkEnd_denied_window {k n : Nat} (ho : r.op = .xlt k n) : s.walkEnd r g va .denied = s.xltEnd r k (.error 0x25) := by
  simp only [State.walkEnd, ho]

theorem walkEnd_dead (hx : ∀ k n, r.op ≠ .xlt k n) : s.walkEnd r g va .dead = s.deny r va 0x21 := by
  rw [State.walkEnd]
  split
  · next k n ho => exact absurd ho (hx k n)
  · rfl

theorem kindBad_of_not {k kind : Nat} (h : ¬(k = 0 ∧ kind = 3 ∨ k = 1 ∧ kind ≠ 3)) : kindBad k kind = false := by
  rw [Bool.eq_false_iff]
  simpa [kindBad] using h

end

/-! Resolved faults (R397). -/

section
variable {s : State}

theorem answers_wakeTp (s : State) (g p : Nat) : Answers s (s.wakeTp g p) := by
  unfold State.wakeTp
  exact (((answers_wakeCtx s g p 0).trans (answers_wakeCtx _ g p 1)).trans (answers_wakeCtx _ g p 2)).trans (answers_wakeCtx _ g p 3)

theorem answers_wakeTile (s : State) (g : Nat) : Answers s (s.wakeTile g) := by
  unfold State.wakeTile
  exact (((answers_wakeTp s g 0).trans (answers_wakeTp _ g 1)).trans (answers_wakeTp _ g 2)).trans (answers_wakeTp _ g 3)

theorem wakeTile_reqs (s : State) (g : Nat) : (s.wakeTile g).reqs = s.reqs := by
  simp only [State.wakeTile, State.wakeTp, wakeCtx_reqs]

theorem answers_wakeTiles (l : List Nat) (s : State) : Answers s (l.foldl State.wakeTile s) := by
  induction l generalizing s with
  | nil => exact .refl s
  | cons g l ih =>
    rw [List.foldl_cons]
    exact (answers_wakeTile s g).trans (ih _)

theorem wakeTiles_reqs (l : List Nat) (s : State) : (l.foldl State.wakeTile s).reqs = s.reqs := by
  induction l generalizing s with
  | nil => rfl
  | cons g l ih => rw [List.foldl_cons, ih, wakeTile_reqs]

/-- A request that its fault no longer withholds. -/
def Req.freed (r : Req) (tenant id : Nat) : Req := if r.tenant = tenant ∧ r.withheld = some id then { r with withheld := none } else r

theorem freed_id (r : Req) (tenant id : Nat) : (r.freed tenant id).id = r.id := by
  unfold Req.freed
  split_ifs <;> rfl

/-- A fault is off the list, and what waited for it does not wait any more (R397). -/
def State.resolved (s : State) (tenant id : Nat) : State :=
  { s with
    faults := s.faults.filter (fun f => !(f.tenant == tenant && f.id == id))
    reqs := s.reqs.map (fun r => r.freed tenant id)
    regions := s.regions.map (fun (q : Nat × Region) =>
      if q.2.tenant = tenant then
        (q.1, { q.2 with held := q.2.held.filter (fun h => h.2.1 != id)
                         st := if q.2.st = .withheld id then (if q.2.tiles = [] then .popped else .writing) else q.2.st
                         succWait := if q.2.succWait = some id then none else q.2.succWait })
      else q)
    streams := s.streams.map (fun (x : Nat × Stream) => (x.1, { x.2 with recs := x.2.recs.map (fun q =>
      if bitsOf (q.words.getD 2 0) 39 24 = tenant ∧ q.await = some id then { q with await := none } else q) })) }

/-- The tiles that hold a request withheld under a fault. -/
def State.withheldTiles (s : State) (tenant id : Nat) : List Nat :=
  (s.reqs.filterMap (fun r => if r.tenant = tenant ∧ r.withheld = some id then r.who.tile else none)).eraseDups

theorem exec_faultResolve (h : s.faults.any (fun f => f.tenant == s.entTenant s.ev.arc && f.id == s.ev.id % 65536) = true) (hu : s.hallUp = true) :
    exec .eFaultResolve s = .next ((s.withheldTiles (s.entTenant s.ev.arc) (s.ev.id % 65536)).foldl State.wakeTile
      (s.resolved (s.entTenant s.ev.arc) (s.ev.id % 65536))) := by
  rw [show exec .eFaultResolve s = execFaultResolve s from rfl]
  simp only [execFaultResolve, hu, h, Bool.and_true, if_true]
  rfl

/-- A resolved fault leaves the list, and every request that it withheld is free. -/
theorem faultResolve_effects {tenant id : Nat} (ht : tenant = s.entTenant s.ev.arc) (hi : id = s.ev.id % 65536)
    (hf : ∃ f ∈ s.faults, f.tenant = tenant ∧ f.id = id) (hu : s.hallUp = true) : ∃ s' : State, exec .eFaultResolve s = .next s' ∧
      s'.mem = s.mem ∧ s'.faults = s.faults.filter (fun f => !(f.tenant == tenant && f.id == id)) ∧
      s'.reqs = s.reqs.map (fun r => r.freed tenant id) := by
  have hany : s.faults.any (fun f => f.tenant == tenant && f.id == id) = true := by
    obtain ⟨f, hm, h1, h2⟩ := hf
    exact List.any_eq_true.2 ⟨f, hm, by simp [h1, h2]⟩
  subst ht hi
  have hfr := answers_wakeTiles (s.withheldTiles (s.entTenant s.ev.arc) (s.ev.id % 65536)) (s.resolved (s.entTenant s.ev.arc) (s.ev.id % 65536))
  refine ⟨_, exec_faultResolve hany hu, hfr.mem, (congrArg State.faults hfr.rest :), wakeTiles_reqs ..⟩

theorem req_map {f : Req → Req} (hf : ∀ r, (f r).id = r.id) {s' : State} (h : s'.reqs = s.reqs.map f) (k : Nat) :
    s'.req k = (s.req k).map f := by
  simp only [State.req, h, List.find?_map]
  congr 1
  exact congrArg (fun p => List.find? p s.reqs) (funext fun r => by rw [Function.comp_apply, hf])

/-! Shoot-downs (R393, R394). -/

theorem find_map {α β : Type} (m : NMap α) (f : α → β) (k : Nat) : NMap.find (m.map (fun x => (x.1, f x.2))) k = (NMap.find m k).map f := by
  induction m with
  | nil => rfl
  | cons x m ih =>
    obtain ⟨j, v⟩ := x
    rw [List.map_cons, NMap.find, NMap.find, ih]
    split_ifs <;> rfl

/-- A window that a shoot-down covers is revoked. -/
def Win.shot (w : Win) (k : Shoot) : Win := { w with revoked := w.revoked || k.covers w.tenant w.va w.size }

theorem find_revoke (k : Shoot) (wins : NMap Win) (n : Nat) : NMap.find (revoke k wins) n = (NMap.find wins n).map (fun w => w.shot k) := by
  rw [← find_map]
  congr 1
  refine List.map_congr_left fun q _ => ?_
  split_ifs with h
  · rw [Win.shot, h, Bool.or_true]
  · rw [Win.shot, Bool.eq_false_iff.2 h, Bool.or_false]

/-- What a shoot-down does to an element, and to a context. -/
def Elem.shot (x : Elem) (k : Shoot) : Elem := { x with wins := revoke k x.wins, shoots := last8 x.shoots k }
def Ctx.shot (x : Ctx) (k : Shoot) : Ctx := { x with wins := revoke k x.wins, shoots := last8 x.shoots k }
def Tp.shot (x : Tp) (k : Shoot) : Tp := { x with ctxs := x.ctxs.map (fun c => (c.1, c.2.shot k)) }

theorem elems_shootDown (t : Tile) (k : Shoot) : (t.shootDown k).elems = t.elems.map (fun e => (e.1, e.2.shot k)) := rfl

theorem tps_shootDown (t : Tile) (k : Shoot) : (t.shootDown k).tps = t.tps.map (fun q => (q.1, q.2.shot k)) := rfl

theorem elem_shootDown {t : Tile} {k : Shoot} {e n : Nat} {w : Win} (h : NMap.find (t.elem e).wins n = some w) :
    NMap.find ((t.shootDown k).elem e).wins n = some (w.shot k) := by
  rw [Tile.elem, NMap.get_eq_find] at h
  rw [Tile.elem, NMap.get_eq_find, elems_shootDown, find_map t.elems (fun x => x.shot k)]
  cases hf : NMap.find t.elems e with
  | none =>
    rw [hf] at h
    cases h
  | some x =>
    rw [hf] at h
    exact (find_revoke ..).trans (by rw [show NMap.find x.wins n = some w from h, Option.map_some])

theorem ctx_shootDown {t : Tile} {k : Shoot} {p c n : Nat} {w : Win} (h : NMap.find ((t.tp p).ctx c).wins n = some w) :
    NMap.find (((t.shootDown k).tp p).ctx c).wins n = some (w.shot k) := by
  rw [Tp.ctx, NMap.get_eq_find, Tile.tp, NMap.get_eq_find] at h
  rw [Tp.ctx, NMap.get_eq_find, Tile.tp, NMap.get_eq_find, tps_shootDown, find_map t.tps (fun x => x.shot k)]
  cases hf : NMap.find t.tps p with
  | none =>
    rw [hf] at h
    cases h
  | some x =>
    rw [hf, Option.getD_some] at h
    rw [Option.map_some, Option.getD_some, Tp.shot, find_map x.ctxs (fun c => c.shot k)]
    cases hc : NMap.find x.ctxs c with
    | none =>
      rw [hc] at h
      cases h
    | some y =>
      rw [hc] at h
      exact (find_revoke ..).trans (by rw [show NMap.find y.wins n = some w from h, Option.map_some])

theorem exec_shootdownReceive {k : Shooting} (h : s.shooting.find? (fun x => x.sd.num == s.ev.id && x.wait.contains s.ev.g) = some k) :
    ∃ s1 : State, exec .eShootdownReceive s = .next (s1.updTile s.ev.g (fun t => t.shootDown k.sd)) ∧ s1.tiles = s.tiles ∧ s1.mem = s.mem := by
  rw [show exec .eShootdownReceive s = execShootdownReceive s from rfl]
  simp only [execShootdownReceive, h]
  exact ⟨_, rfl, rfl, rfl⟩

theorem exec_shootdownComplete {k : Shooting} {x : Req} (h : s.shooting.find? (fun y => y.sd.num == s.ev.id) = some k) (hw : k.wait = [])
    (hr : k.reqs = []) (hx : s.reqs.find? (fun y => y.op == .xinv k.sd.num) = some x) : exec .eShootdownComplete s =
      .next (({ s with shooting := s.shooting.filter (fun y => y.sd.num != k.sd.num) } : State).finish x.id 0) := by
  rw [show exec .eShootdownComplete s = execShootdownComplete s from rfl]
  simp only [execShootdownComplete, h, hw, hr, hx]
  rfl

theorem exec_shootdownRequest (h : ∀ k ∈ s.shooting, k.byHub = true → k.sd.tenant ≠ s.entTenant s.ev.arc) (hu : s.hallUp = true) :
    exec .eShootdownRequest s = .next ((s.setHub (0x50000 + 32 * s.ev.arc + 24) (s.ev.w0 &&& 0x00FFFFFFFFFFFFFF)).startShoot
      (s.entTenant s.ev.arc) (bitsOf s.ev.w0 55 12) (bitsOf s.ev.w0 11 0) true) := by
  have hany : s.shooting.any (fun k => k.byHub && k.sd.tenant == s.entTenant s.ev.arc) = false := by
    rw [List.any_eq_false]
    intro k hk hc
    rw [Bool.and_eq_true, beq_iff_eq] at hc
    exact h k hk hc.1 hc.2
  rw [show exec .eShootdownRequest s = execShootdownRequest s from rfl]
  simp only [execShootdownRequest, hany, hu]
  rfl

theorem exec_faultLimitExpiry {j : Nat} {p : Region} (he : s.ev.inst = j) (hp : NMap.find s.regions j = some p) (hs : p.st = .running)
    (hh : ∃ h ∈ p.held, 2 ^ p.flim ≤ s.now - h.2.2) :
    exec .eFaultLimitExpiry s = .next (s.updReg j (fun x => { x with st := .stopping 1 })) := by
  subst he
  have hany : p.held.any (fun h => decide (2 ^ p.flim ≤ s.now - h.2.2)) = true := by
    obtain ⟨h, hm, hle⟩ := hh
    exact List.any_eq_true.2 ⟨h, hm, decide_eq_true hle⟩
  rw [show exec .eFaultLimitExpiry s = execFaultLimitExpiry s from rfl]
  simp only [execFaultLimitExpiry, hp, hs, hany, if_true]

end

end Sys2Proof.Machine
end

section
namespace Sys2Proof.Machine
open State

/-! A line that migrates (O56, R275, R399, R400). -/

/-- What reading a line keeps, even one that is found bad: memory, migration entries, the step's own event and the pools. -/
structure KeepsLines (s s' : State) : Prop where
  mem : s'.mem = s.mem
  migs : s'.migs = s.migs
  ev : s'.ev = s.ev
  pool : ∀ v, (s'.vault v).pool = (s.vault v).pool

section
variable {s s' s'' : State}

theorem KeepsLines.refl (s : State) : KeepsLines s s := ⟨rfl, rfl, rfl, fun _ => rfl⟩

theorem KeepsLines.trans (h : KeepsLines s s') (h' : KeepsLines s' s'') : KeepsLines s s'' :=
  ⟨h'.mem.trans h.mem, h'.migs.trans h.migs, h'.ev.trans h.ev, fun v => (h'.pool v).trans (h.pool v)⟩

theorem keepsLines_rollWindow (s : State) (u : Nat) : KeepsLines s (s.rollWindow u) := by
  unfold State.rollWindow
  dsimp only
  split_ifs
  · exact .refl s
  · exact ⟨rfl, rfl, rfl, fun _ => rfl⟩
  · exact ⟨rfl, rfl, rfl, fun _ => rfl⟩

theorem keepsLines_lasting (s : State) (u : Nat) : KeepsLines s (s.lasting u) := by
  unfold State.lasting
  dsimp only
  split_ifs
  · exact ⟨rfl, rfl, rfl, fun _ => rfl⟩
  · exact ⟨rfl, rfl, rfl, fun _ => rfl⟩
  · exact ⟨rfl, rfl, rfl, fun _ => rfl⟩

theorem keepsLines_bumpFleet (s : State) (g k n : Nat) : KeepsLines s (s.bumpFleet g k n) := ⟨rfl, rfl, rfl, fun _ => rfl⟩

theorem KeepsLines.ite {c : Prop} [Decidable c] (h : KeepsLines s s') (h' : KeepsLines s s'') : KeepsLines s (if c then s' else s'') := by
  split_ifs
  · exact h
  · exact h'

theorem keepsLines_unitError (s : State) (u : Nat) : KeepsLines s (s.unitError u) := by
  unfold State.unitError
  lift_lets
  extract_lets t n ethr t' t''
  have h' : KeepsLines s t' := (keepsLines_rollWindow s u).trans ⟨rfl, rfl, rfl, fun _ => rfl⟩
  have h'' : KeepsLines s t'' := (h'.trans (keepsLines_bumpFleet ..)).ite h'
  exact (h''.trans (keepsLines_lasting ..)).ite h''

theorem keepsLines_bumpVault (s : State) (v k : Nat) : KeepsLines s (s.bumpVault v k) := by
  refine ⟨rfl, rfl, rfl, fun w => ?_⟩
  by_cases hw : v = w
  · subst hw
    rw [State.bumpVault, vault_updVault_same]
  · rw [State.bumpVault, vault_updVault_other _ _ hw]

theorem keepsLines_blockError (s : State) (pa : Nat) : KeepsLines s (s.blockError pa) := by
  unfold State.blockError
  extract_lets a t
  have ht : KeepsLines s t := ⟨rfl, rfl, rfl, fun _ => rfl⟩
  exact (ht.trans (keepsLines_unitError ..)).trans (keepsLines_bumpVault ..)

theorem keepsLines_lineRead (s : State) (a : Nat) : KeepsLines s (s.lineRead a) := (keepsLines_blockError ..).ite (.refl s)

/-- A line in which no combine entry lies is not flushed. -/
theorem flushLine_of_none {a : Nat} (h : ∀ v ∈ s.vaults, ∀ k ∈ v.2.cmbs, ∀ b ∈ k.lanesAt, b / 64 ≠ a / 64) : s.flushLine a = s := by
  have hmine : s.vaults.flatMap (fun v => v.2.cmbs.filter (fun k => k.lanesAt.any (fun p => p / 64 == a / 64))) = [] := by
    rw [List.flatMap_eq_nil_iff]
    intro v hv
    rw [List.filter_eq_nil_iff]
    intro k hk hc
    obtain ⟨b, hb, hbe⟩ := List.any_eq_true.1 hc
    exact h v hv k hk b hb (by simpa using hbe)
  simp only [State.flushLine, hmine, List.foldl_nil, if_true]

/-- A line that no deferred reader waits in moves alone. -/
theorem moveReaders_of_none {a b : Nat} (h : ∀ x ∈ (s.vault (homeOf a)).pool, x.pa / 64 ≠ a / 64) : s.moveReaders a b =
    s.updVault (homeOf a) (fun x => { x with pool := x.pool.filter (fun q => q.pa / 64 != a / 64) }) := by
  have hl : (s.vault (homeOf a)).pool.filter (fun q => q.pa / 64 == a / 64) = [] := by
    rw [List.filter_eq_nil_iff]
    intro x hx
    simpa using h x hx
  simp only [State.moveReaders, hl]
  rfl

theorem length_readBytes (m : Memory) (a n : Nat) : (Memory.readBytes m a n).length = n := by
  induction n generalizing a with
  | zero => rfl
  | succ n ih => rw [Memory.readBytes, List.length_cons, ih]

/-- Bytes that are written are those that were read. -/
theorem get_writeBytes_readBytes (m m' : Memory) (a b n k : Nat) (h : k < n) :
    Memory.get (Memory.writeBytes m b (Memory.readBytes m' a n)) (b + k) = Memory.get m' (a + k) := by
  induction n generalizing m a b k with
  | zero => omega
  | succ n ih =>
    rw [Memory.readBytes, Memory.writeBytes]
    cases k with
    | zero => rw [Memory.get_writeBytes_other _ _ _ _ (by omega), Nat.add_zero, Memory.get_set_same, Nat.add_zero]
    | succ k =>
      rw [show b + (k + 1) = b + 1 + k by omega, show a + (k + 1) = a + 1 + k by omega]
      exact ih _ _ _ _ (by omega)

/-- An entry of the migration table after a line. -/
def Mig.next (m : Mig) : Mig := { m with pos := m.pos + 64, done := decide (m.len ≤ m.pos + 64) }

/-- One line copied, and its entry's pointer past it. -/
def State.lineCopied (s : State) (k : Nat) (m : Mig) : State :=
  let t := (s.lineRead (m.old + m.pos)).copyLine (m.old + m.pos) (m.new + m.pos)
  { t with migs := NMap.set t.migs k (NMap.set (NMap.get s.migs k []) t.ev.c m.next) }

theorem copyLine_mem (s : State) (a b : Nat) : (s.copyLine a b).mem = Memory.writeBytes s.mem b (Memory.readBytes s.mem a 64) := rfl

theorem copyLine_migs (s : State) (a b : Nat) : (s.copyLine a b).migs = s.migs := rfl

theorem copyLine_vaults (s : State) (a b : Nat) : (s.copyLine a b).vaults = s.vaults := rfl

theorem lineCopied_mem (s : State) (k : Nat) (m : Mig) :
    (s.lineCopied k m).mem = Memory.writeBytes s.mem (m.new + m.pos) (Memory.readBytes s.mem (m.old + m.pos) 64) := by
  have h := copyLine_mem (s.lineRead (m.old + m.pos)) (m.old + m.pos) (m.new + m.pos)
  rw [(keepsLines_lineRead ..).mem] at h
  exact h

theorem lineCopied_entry (s : State) (k : Nat) (m : Mig) : NMap.find (NMap.get (s.lineCopied k m).migs k []) s.ev.c = some m.next := by
  have hev : ((s.lineRead (m.old + m.pos)).copyLine (m.old + m.pos) (m.new + m.pos)).ev = s.ev := (keepsLines_lineRead s (m.old + m.pos)).ev
  rw [State.lineCopied]
  dsimp only
  rw [NMap.get_set_same, hev, NMap.find_set_same]

theorem lineCopied_pool (s : State) (k : Nat) (m : Mig) (v : Nat) : ((s.lineCopied k m).vault v).pool = (s.vault v).pool := by
  have h : (s.lineCopied k m).vault v = (s.lineRead (m.old + m.pos)).vault v :=
    congrArg (fun x => NMap.get x v Vault.reset) (copyLine_vaults (s.lineRead (m.old + m.pos)) (m.old + m.pos) (m.new + m.pos))
  rw [h]
  exact (keepsLines_lineRead ..).pool v

theorem exec_migrationLineCopy {m : Mig} (hm : NMap.find (NMap.get s.migs s.ev.e []) s.ev.c = some m) (hd : m.done = false)
    (hf : s.flushLine (m.old + m.pos) = s) : exec .eMigrationLineCopy s = .next
      (if m.len ≤ m.pos + 64 then ((s.lineCopied s.ev.e m).moveReaders (m.old + m.pos) (m.new + m.pos)).post 0
          (eventRec 2 0 ((s.lineCopied s.ev.e m).moveReaders (m.old + m.pos) (m.new + m.pos)).ev.c (BitVec.ofNat 64 m.old) 0 0 0)
        else (s.lineCopied s.ev.e m).moveReaders (m.old + m.pos) (m.new + m.pos)) := by
  rw [show exec .eMigrationLineCopy s = execMigrationLineCopy s from rfl]
  simp only [execMigrationLineCopy, hm, hd, hf, Bool.false_eq_true, if_false, decide_eq_true_eq]
  rfl

/-- The next line of an entry is copied, byte for byte, and nothing else in memory changes. -/
theorem migrationLineCopy_effects {m : Mig} (hm : NMap.find (NMap.get s.migs s.ev.e []) s.ev.c = some m) (hd : m.done = false)
    (hf : s.flushLine (m.old + m.pos) = s)
    (hp : ∀ x ∈ (s.vault (homeOf (m.old + m.pos))).pool, x.pa / 64 ≠ (m.old + m.pos) / 64) : ∃ s' : State, exec .eMigrationLineCopy s = .next s' ∧
      s'.mem = Memory.writeBytes s.mem (m.new + m.pos) (Memory.readBytes s.mem (m.old + m.pos) 64) ∧
      NMap.find (NMap.get s'.migs s.ev.e []) s.ev.c = some m.next := by
  have hmove := moveReaders_of_none (s := s.lineCopied s.ev.e m) (b := m.new + m.pos) (by rw [lineCopied_pool]; exact hp)
  refine ⟨_, exec_migrationLineCopy hm hd hf, ?_, ?_⟩
  · rw [hmove, ← lineCopied_mem s s.ev.e m]
    split_ifs
    · rfl
    · rfl
  · rw [hmove, ← lineCopied_entry s s.ev.e m]
    split_ifs
    · rfl
    · rfl

end

/-- Settles O56: the walk is an induction on its levels (`partWalk`), and each step has its equation. -/
theorem translationSteps : Obligations.TranslationSteps := by
  unfold Obligations.TranslationSteps
  refine ⟨partWalk, fun s s1 r q g va => ?_⟩
  intro walking goesOn
  have hwalks {x : Tr} (h : walking x) : Walks s r q g va x s1 := by
    obtain ⟨h1, h2, h3, h4, h5, h6, h7, h8, h9⟩ := h
    exact ⟨h1, h2, h3, h4, h5, h6, h7, h8, h9⟩
  have hon {x : Tr} {t : State} (h : walking x) (hx : ∀ l c e, x ≠ .fault l c e) (ht : s1.walkEnd r g va x = t) : goesOn t :=
    exec_walk_goesOn (hwalks h) hx ht
  refine ⟨?_, ?_, ?_, ?_, ?_, ?_, ?_, ?_, ?_, ?_, ?_, ?_, ?_⟩
  · intro l h hx ha hk hp
    have hr : s1.req r.id = some r := by
      rw [req_congr (hwalks h).reqs, id_of_req (hwalks h).req]
      exact (hwalks h).req
    exact hon h nofun (walkEnd_place hr hx ha (kindBad_of_not hk) hp)
  · intro l k n h ho
    exact hon h nofun (walkEnd_window ho)
  · intro h hx
    exact hon h nofun (walkEnd_denied hx)
  · intro k n h ho
    exact hon h nofun (walkEnd_denied_window ho)
  · intro h hx
    exact hon h nofun (walkEnd_dead hx)
  · intro pa h
    exact hon h nofun rfl
  · intro level reason pte h f
    have hex := exec_translationWalk (hwalks h)
    have hend : s1.walkEnd r g va (.fault level reason pte) = s1.faulted r f := rfl
    refine ⟨fun id s2 hf => ?_, fun hf => ?_⟩
    · rw [hex, hend, hf]
      rfl
    · rw [hex, hend, hf]
      rfl
  · intro j p he hp hs hh
    exact exec_faultLimitExpiry he hp hs hh
  · intro tenant id ht hi hf hu
    obtain ⟨s', hex, hmem, hfaults, hreqs⟩ := faultResolve_effects ht hi hf hu
    refine ⟨s', hex, hmem, fun f => ?_, fun k x hx => ?_⟩
    · rw [hfaults, List.mem_filter, Bool.not_eq_true', ← Bool.not_eq_true, Bool.and_eq_true, beq_iff_eq, beq_iff_eq]
    · rw [req_map (fun r => freed_id r tenant id) hreqs, hx]
      rfl
  · intro tenant ht hn hu
    subst ht
    exact ⟨_, exec_shootdownRequest hn hu, rfl⟩
  · intro k hk hg
    subst hg
    obtain ⟨s1, hex, htiles, hmem⟩ := exec_shootdownReceive hk
    have htile (h : Nat) : s1.tile h = s.tile h := by simp only [State.tile, htiles]
    refine ⟨_, hex, ?_, ?_, ?_, ?_, hmem⟩
    · intro l hl
      rw [tile_updTile_same, htile] at hl
      obtain ⟨h1, h2⟩ := List.mem_filter.1 hl
      exact ⟨h1, by simpa using h2⟩
    · intro e n w hw
      rw [State.elem, tile_updTile_same, htile]
      exact elem_shootDown hw
    · intro p c n w hw
      rw [State.ctx, State.tp, tile_updTile_same, htile]
      exact ctx_shootDown hw
    · intro h hne
      rw [tile_updTile_other _ _ (Ne.symm hne), htile]
  · intro k x hk hw hr hx
    exact exec_shootdownComplete hk hw hr hx
  · intro m hm hd hc hp
    obtain ⟨s', hex, hmem, hmig⟩ := migrationLineCopy_effects hm hd (flushLine_of_none hc) hp
    refine ⟨s', hex, fun k hk => ?_, fun b hb => ?_, hmig⟩
    · rw [hmem, get_writeBytes_readBytes _ _ _ _ _ _ hk]
    · rw [hmem, Memory.get_writeBytes_other _ _ _ _ (by rw [length_readBytes]; exact hb)]

end Sys2Proof.Machine
end

section
namespace Sys2Proof.Machine
open State

/-! Coding a plan's entry (O52, R149). -/

/-- Blocks read byte by byte: their exclusive or is taken byte by byte. -/
theorem xorBytes_map {α : Type} (l : List α) (f g : α → Byte) : xorBytes (l.map f) (l.map g) = l.map (fun i => f i ^^^ g i) := by
  induction l with
  | nil => rfl
  | cons i l ih => rw [List.map_cons, List.map_cons, xorBytes, ih, List.map_cons]

theorem foldl_xorBytes_map {α β : Type} (l : List α) (cs : List β) (f : α → Byte) (g : β → α → Byte) :
    (cs.map (fun c => l.map (g c))).foldl xorBytes (l.map f) = l.map (fun i => cs.foldl (fun x c => x ^^^ g c i) (f i)) := by
  induction cs generalizing f with
  | nil => rfl
  | cons c cs ih => rw [List.map_cons, List.foldl_cons, xorBytes_map, ih]; rfl

theorem nodup_eraseDups {α : Type} [BEq α] [LawfulBEq α] (l : List α) : l.eraseDups.Nodup := by
  match l with
  | [] => exact List.nodup_nil
  | a :: l =>
    rw [List.eraseDups_cons, List.nodup_cons]
    refine ⟨fun h => ?_, nodup_eraseDups _⟩
    simp [List.mem_eraseDups] at h
termination_by l.length
decreasing_by exact Nat.lt_succ_of_le (List.length_filter_le ..)

section
variable {s : State} {r : Req} {e : PEnt}

/-- Each vault of a list is updated. -/
def State.updVaults (s : State) (vs : List Nat) (f : Nat → Vault → Vault) : State := vs.foldl (fun s v => s.updVault v (f v)) s

theorem vault_updVaults (s : State) {vs : List Nat} (h : vs.Nodup) (f : Nat → Vault → Vault) (v : Nat) :
    (s.updVaults vs f).vault v = if v ∈ vs then f v (s.vault v) else s.vault v := by
  induction vs generalizing s with
  | nil => rfl
  | cons w vs ih =>
    obtain ⟨hw, hvs⟩ := List.nodup_cons.1 h
    rw [State.updVaults, List.foldl_cons]
    refine (ih (s.updVault w (f w)) hvs).trans ?_
    by_cases hv : v = w
    · subst hv
      rw [if_neg hw, if_pos List.mem_cons_self, vault_updVault_same]
    · rw [vault_updVault_other _ _ (Ne.symm hv)]
      simp only [List.mem_cons, hv, false_or]

theorem updVaults_mem (s : State) (vs : List Nat) (f : Nat → Vault → Vault) : (s.updVaults vs f).mem = s.mem := by
  induction vs generalizing s with
  | nil => rfl
  | cons w vs ih => rw [State.updVaults, List.foldl_cons]; exact ih _

/-- The vaults that receive of an entry. -/
def PEnt.vaults (e : PEnt) : List Nat := (e.rcvs.map Rcv.at).eraseDups

theorem mem_vaults (e : PEnt) (v : Nat) : v ∈ e.vaults ↔ ∃ x ∈ e.rcvs, x.at = v := by
  rw [PEnt.vaults, List.mem_eraseDups, List.mem_map]

/-- An entry that a link coder sends puts its shuffle in the widest scope (R153). -/
def State.scoped (s : State) (r : Req) (e : PEnt) : State := if e.coder then s.updReq r.id (fun x => { x with sc := 3 }) else s

theorem scoped_eq (s : State) (r : Req) (e : PEnt) : { s.scoped r e with reqs := s.reqs } = s := by
  unfold State.scoped
  split_ifs
  · rfl
  · rfl

theorem scoped_reachable (s : State) (r : Req) (e : PEnt) (a : Nat) : (s.scoped r e).reachable a = s.reachable a := by
  unfold State.scoped
  split_ifs
  · rfl
  · rfl

/-- The packet of an entry for the receivers at a vault. -/
def State.codedPacket (s : State) (r : Req) (e : PEnt) (v : Nat) : Packet :=
  e.packet r (match e.cons.map (fun c => s.paBytes c.2.1 (64 * e.blen)) with | b :: l => l.foldl xorBytes b | [] => [])
    (e.cons.map (fun c => s.unitWords c.2.1 e.blen)) (e.rcvs.filter (fun q => q.at == v)) false

theorem codedPacket_scoped (s : State) (r : Req) (e : PEnt) (v : Nat) : (s.scoped r e).codedPacket r e v = s.codedPacket r e v := by
  unfold State.scoped
  split_ifs
  · rfl
  · rfl

theorem sendEntry_coded (hl : e.cons.findSome? (fun c => (s.scoped r e).unitLost c.2.1 e.blen) = none)
    (hb : (s.scoped r e).unitsBad 4 (e.cons.map (·.2.1)) e.blen = none) : s.sendEntry r e =
      (s.scoped r e).updVaults e.vaults (fun v x => { x with heldPk := x.heldPk ++ [(s.scoped r e).codedPacket r e v] }) := by
  unfold State.scoped at hl hb ⊢
  simp only [State.sendEntry, hl, hb]
  rfl

theorem sendEntry_uncoded {a : Nat} (hl : e.cons.findSome? (fun c => (s.scoped r e).unitLost c.2.1 e.blen) = some a) : s.sendEntry r e =
    ((s.scoped r e).shfError r r.op.tag 0x21 a false).updVaults e.vaults
      (fun v x => { x with packets := x.packets ++ [e.packet r [] [] (e.rcvs.filter (fun q => q.at == v)) true] }) := by
  unfold State.scoped at hl ⊢
  simp only [State.sendEntry, hl]
  rfl

/-- No unit of a run is out of reach. -/
theorem unitLost_eq_none {pa n : Nat} : s.unitLost pa n = none ↔ ∀ k, k < n → s.reachable (redirect s.migs (pa + 64 * k)) = true := by
  unfold State.unitLost
  rw [List.find?_eq_none]
  simp

theorem unitBad_of_clean (hb : s.bad = []) (ha : s.ev.arc ≠ 6) (k pa n : Nat) : s.unitBad k pa n = none := by
  have hf : (List.range n).find? (fun j => s.badBlock (.phys (pa + 64 * j)) || (s.ev.arc == 6 && s.ev.w0.toNat == k + j)) = none := by
    rw [List.find?_eq_none]
    intro j _
    simp [State.badBlock, hb, ha]
  rw [State.unitBad, hf]
  rfl

theorem unitsBad_of_clean (hb : s.bad = []) (ha : s.ev.arc ≠ 6) (k : Nat) (l : List Nat) (n : Nat) : s.unitsBad k l n = none := by
  rw [State.unitsBad, List.findSome?_eq_none_iff]
  exact fun x _ => unitBad_of_clean hb ha ..

theorem toSink_vaults (s : State) (g : Nat) (k : Tok) : (s.toSink g k).vaults = s.vaults := by
  unfold State.toSink
  split
  · rfl
  · dsimp only
    split
    · exact updReg_vaults ..
    · exact updReg_vaults ..

theorem shfError_vaults (s : State) (r : Req) (tag cause off : Nat) (bit : Bool) : (s.shfError r tag cause off bit).vaults = s.vaults := by
  unfold State.shfError
  split
  · refine (toSink_vaults ..).trans ?_
    split_ifs
    · rfl
    · rfl
  · rfl

/-- The bytes of an entry's packet are the exclusive or of the contributors' bytes (R149). -/
theorem codedPacket_data (hc : e.cons ≠ []) (v : Nat) : (s.codedPacket r e v).data = (List.range (64 * e.blen)).map (fun i =>
    e.cons.foldl (fun x c => x ^^^ Memory.get s.mem (redirect s.migs (c.2.1 + i))) 0) := by
  obtain ⟨c, cs, he⟩ := List.exists_cons_of_ne_nil hc
  simp only [State.codedPacket, PEnt.packet, he, List.map_cons]
  refine (foldl_xorBytes_map (List.range (64 * e.blen)) cs (fun i => Memory.get s.mem (redirect s.migs (c.2.1 + i)))
    (fun c i => Memory.get s.mem (redirect s.migs (c.2.1 + i)))).trans ?_
  refine List.map_congr_left fun i _ => ?_
  rw [List.foldl_cons, show ∀ b : Byte, 0 ^^^ b = b from fun _ => BitVec.zero_xor]

end

/-- The packets of an entry, coded or not. -/
theorem partCoding : Claims.PartCoding := by
  intro s r e hcons harc s' unit takes kept
  have hmigs : (s.scoped r e).migs = s.migs := (congrArg State.migs (scoped_eq s r e) :)
  have hvault (v : Nat) : (s.scoped r e).vault v = s.vault v := (congrArg (State.vault · v) (scoped_eq s r e) :)
  have hlost (pa : Nat) : (s.scoped r e).unitLost pa e.blen = none ↔ ∀ k, k < e.blen → s.reachable (unit pa k) = true := by
    rw [unitLost_eq_none, hmigs]
    simp only [scoped_reachable]
    rfl
  have hnd : e.vaults.Nodup := nodup_eraseDups _
  refine ⟨fun hbad hreach => ?_, fun c k hc hk hun v => ?_⟩
  · have hb0 : (s.scoped r e).bad = [] := ((congrArg State.bad (scoped_eq s r e) :) : (s.scoped r e).bad = s.bad).trans hbad
    have ha0 : (s.scoped r e).ev.arc ≠ 6 := by rw [show (s.scoped r e).ev = s.ev from (congrArg State.ev (scoped_eq s r e) :)]; exact harc
    have hs : s' = _ := sendEntry_coded (s := s) (r := r) (e := e)
      (List.findSome?_eq_none_iff.2 fun c hc => (hlost c.2.1).2 (hreach c hc)) (unitsBad_of_clean hb0 ha0 ..)
    refine ⟨?_, fun v => ⟨?_, fun ht => ?_, fun ht => ⟨s.codedPacket r e v, ?_, ⟨rfl, rfl, rfl, rfl, rfl, rfl⟩, rfl, ?_, ?_, rfl⟩⟩⟩
    · rw [hs, updVaults_mem]
      exact (congrArg State.mem (scoped_eq s r e) :)
    · rw [hs, vault_updVaults _ hnd, hvault]
      split_ifs
      · rfl
      · rfl
    · rw [hs, vault_updVaults _ hnd, hvault, if_neg (fun hc => ht ((mem_vaults e v).1 hc))]
    · rw [hs, vault_updVaults _ hnd, hvault, if_pos ((mem_vaults e v).2 ht), codedPacket_scoped]
    · rw [codedPacket_data hcons, List.length_map, List.length_range]
    · intro i b hib
      rw [codedPacket_data hcons, List.getElem?_map] at hib
      obtain ⟨j, hj, rfl⟩ := Option.map_eq_some_iff.1 hib
      obtain ⟨hlt, rfl⟩ := List.getElem?_eq_some_iff.1 hj
      rw [List.getElem_range]
  · have hsome : (e.cons.findSome? (fun c => (s.scoped r e).unitLost c.2.1 e.blen)).isSome = true := by
      rw [List.findSome?_isSome_iff]
      refine ⟨c, hc, Option.isSome_iff_ne_none.2 fun hn => ?_⟩
      rw [(hlost c.2.1).1 hn k hk] at hun
      cases hun
    obtain ⟨a, ha⟩ := Option.isSome_iff_exists.1 hsome
    have hs : s' = _ := sendEntry_uncoded ha
    have hv : ((s.scoped r e).shfError r r.op.tag 0x21 a false).vault v = s.vault v :=
      (congrArg (fun x => NMap.get x v Vault.reset) (shfError_vaults ..)).trans (hvault v)
    refine ⟨fun ht => ?_, fun ht => ⟨e.packet r [] [] (e.rcvs.filter (fun q => q.at == v)) true, ?_, ⟨rfl, rfl, rfl, rfl, rfl, rfl⟩, rfl⟩⟩
    · rw [hs, vault_updVaults _ hnd, hv, if_neg (fun hc => ht ((mem_vaults e v).1 hc))]
    · rw [hs, vault_updVaults _ hnd, hv, if_pos ((mem_vaults e v).2 ht)]

end Sys2Proof.Machine
end


section
namespace Sys2Proof.Machine
open State

/-! Bytes that land. -/

theorem writeN_natOfBytes (m : Memory) (a : Nat) (bs : List Byte) : Memory.writeN m a bs.length (natOfBytes bs) = Memory.writeBytes m a bs := by
  induction bs generalizing m a with
  | nil => rfl
  | cons b bs ih =>
    have hb := b.isLt
    have hd : natOfBytes (b :: bs) / 256 = natOfBytes bs := by
      rw [natOfBytes]
      omega
    have hm : BitVec.ofNat 8 (natOfBytes (b :: bs)) = b := by
      apply BitVec.eq_of_toNat_eq
      rw [BitVec.toNat_ofNat, natOfBytes]
      omega
    rw [List.length_cons, Memory.writeN, hd, hm, ih, Memory.writeBytes]

theorem get_writeBytes (m : Memory) (a : Nat) (bs : List Byte) {k : Nat} (h : k < bs.length) :
    Memory.get (Memory.writeBytes m a bs) (a + k) = bs.getD k 0 := by
  induction bs generalizing m a k with
  | nil => cases h
  | cons b bs ih =>
    rw [Memory.writeBytes]
    cases k with
    | zero => rw [Memory.get_writeBytes_other _ _ _ _ (by omega), Nat.add_zero, Memory.get_set_same]; rfl
    | succ k =>
      rw [show a + (k + 1) = a + 1 + k by omega, ih _ _ (by simpa using h)]
      rfl

section
variable {s s' : State} {r : Req} {pa : Nat} {bs : List Byte} {bws : List Nat}

/-- No barrier lies in a range, and no party waits at one there. -/
def State.clearRange (s : State) (pa n : Nat) : Prop :=
  ∀ i, i < n → s.barObject (pa + i) = false ∧ ∀ x ∈ (s.vault (homeOf ((pa + i) / 16 * 16))).parties, x.pa ≠ (pa + i) / 16 * 16

/-- Only memory and the list of writes that not every agent sees have changed. -/
def State.postedOnly (s s' : State) : Prop := s' = { s with mem := s'.mem, nextId := s'.nextId, stale := s'.stale }

theorem postedOnly_trans {s'' : State} (h : s.postedOnly s') (h' : s'.postedOnly s'') : s.postedOnly s'' := by
  unfold State.postedOnly at *
  rw [h', h]

theorem postedOnly_vaults (h : s.postedOnly s') : s'.vaults = s.vaults := (congrArg State.vaults h :)

theorem postedOnly_migs (h : s.postedOnly s') : s'.migs = s.migs := (congrArg State.migs h :)

theorem postedOnly_clearRange {n : Nat} (h : s.postedOnly s') (hc : s.clearRange pa n) : s'.clearRange pa n := by
  have ht : s'.tiles = s.tiles := (congrArg State.tiles h :)
  intro i hi
  simp only [State.barObject, State.vault, ht, postedOnly_vaults h]
  exact hc i hi

/-- A posted write where no barrier lies. -/
theorem postWrite_clear {inst slot n v : Nat} {who : Agent} {un : Bool} {flag : Option Nat}
    (hb : s.barObject (redirect s.migs pa) = false) (hp : ∀ x ∈ (s.vault (homeOf (pa / 16 * 16))).parties, x.pa ≠ pa / 16 * 16) :
    s.postedOnly ((s.postWrite inst slot who un flag pa n v).afterWrite pa) ∧
      ((s.postWrite inst slot who un flag pa n v).afterWrite pa).mem = Memory.writeN s.mem (redirect s.migs pa) n v := by
  have ha : (s.postWrite inst slot who un flag pa n v).afterWrite pa = s.postWrite inst slot who un flag pa n v := afterWrite_of_noParty hp
  rw [ha]
  refine ⟨rfl, ?_⟩
  have hw : (s.postWrite inst slot who un flag pa n v).mem = Memory.writeN s.mem (redirect s.migs pa) n (s.kept (redirect s.migs pa) n v) := rfl
  rw [hw, kept_of_noBar hb]

/-- The words of a block are written in turn. -/
def State.postWords (s : State) (r : Req) (pa : Nat) (bs : List Byte) (n : Nat) : State :=
  (List.range n).foldl (fun (s : State) k =>
    (s.postWrite r.inst r.id r.porter false none (pa + 8 * k) 8 (natOfBytes ((bs.drop (8 * k)).take 8))).afterWrite (pa + 8 * k)) s

theorem postWords_clear {n : Nat} (hm : s.migs = []) (hc : s.clearRange pa (8 * n)) (hl : 8 * n ≤ bs.length) :
    s.postedOnly (s.postWords r pa bs n) ∧ (∀ i, i < 8 * n → Memory.get (s.postWords r pa bs n).mem (pa + i) = bs.getD i 0) ∧
      ∀ b, b < pa ∨ pa + 8 * n ≤ b → Memory.get (s.postWords r pa bs n).mem b = Memory.get s.mem b := by
  induction n with
  | zero => exact ⟨rfl, fun i hi => absurd hi (Nat.not_lt_zero i), fun _ _ => rfl⟩
  | succ n ih =>
    obtain ⟨hp, hbytes, hother⟩ := ih (fun i hi => hc i (by omega)) (by omega)
    obtain ⟨hb, hpar⟩ := postedOnly_clearRange hp hc (8 * n) (by omega)
    have hmig : (s.postWords r pa bs n).migs = [] := (postedOnly_migs hp).trans hm
    have hstep : s.postWords r pa bs (n + 1) = ((s.postWords r pa bs n).postWrite r.inst r.id r.porter false none (pa + 8 * n) 8
        (natOfBytes ((bs.drop (8 * n)).take 8))).afterWrite (pa + 8 * n) := by
      rw [State.postWords, List.range_succ, List.foldl_append]
      rfl
    have hlen : ((bs.drop (8 * n)).take 8).length = 8 := by rw [List.length_take, List.length_drop]; omega
    obtain ⟨hp', hmem⟩ := postWrite_clear (s := s.postWords r pa bs n) (inst := r.inst) (slot := r.id) (n := 8)
      (v := natOfBytes ((bs.drop (8 * n)).take 8)) (who := r.porter) (un := false) (flag := none) (by rw [hmig]; exact hb) hpar
    have hw := writeN_natOfBytes (s.postWords r pa bs n).mem (pa + 8 * n) ((bs.drop (8 * n)).take 8)
    rw [hlen] at hw
    rw [hmig, show redirect [] (pa + 8 * n) = pa + 8 * n from rfl, hw] at hmem
    rw [hstep]
    refine ⟨postedOnly_trans hp hp', fun i hi => ?_, fun b hb => ?_⟩
    · rw [hmem]
      by_cases hlt : i < 8 * n
      · rw [Memory.get_writeBytes_other _ _ _ _ (by omega), hbytes i hlt]
      · obtain ⟨j, rfl⟩ : ∃ j, i = 8 * n + j := ⟨i - 8 * n, by omega⟩
        rw [← Nat.add_assoc, get_writeBytes _ _ _ (by omega)]
        rw [List.getD_eq_getElem _ _ (by omega), List.getD_eq_getElem _ _ (by omega), List.getElem_take, List.getElem_drop]
    · rw [hmem, Memory.get_writeBytes_other _ _ _ _ (by omega), hother b (by omega)]

/-- The block words of a block are written in turn. -/
def State.putMetas (s : State) (pa : Nat) (bws : List Nat) (j : Nat) : State :=
  (bws.zipIdx j).foldl (fun s (x : Nat × Nat) => s.setMetaPa (pa + 64 * x.2) x.1) s

theorem putMetas_rest (s : State) (pa : Nat) (bws : List Nat) (j : Nat) : { s.putMetas pa bws j with blockWord := s.blockWord } = s := by
  induction bws generalizing s j with
  | nil => rfl
  | cons w bws ih =>
    rw [State.putMetas, List.zipIdx_cons, List.foldl_cons]
    have h := congrArg (fun t : State => { t with blockWord := s.blockWord }) (ih (s.setMetaPa (pa + 64 * j) w) (j + 1))
    exact h

theorem metaPa_putMetas (hm : s.migs = []) (hpa : pa % 64 = 0) (bws : List Nat) (j k : Nat) : (s.putMetas pa bws j).metaPa (pa + 64 * k) =
    if j ≤ k ∧ k < j + bws.length then bws.getD (k - j) 0 else s.metaPa (pa + 64 * k) := by
  induction bws generalizing s j with
  | nil => rw [if_neg (by simp only [List.length_nil]; omega)]; rfl
  | cons w bws ih =>
    have hset : (s.setMetaPa (pa + 64 * j) w).metaPa (pa + 64 * k) = if j = k then w else s.metaPa (pa + 64 * k) := by
      have hr (a : Nat) : redirect s.migs a = a := by rw [hm]; rfl
      have h : (s.setMetaPa (pa + 64 * j) w).metaPa (pa + 64 * k) = NMap.get (NMap.set s.blockWord (redirect s.migs (pa + 64 * j) / 64) w)
          (redirect s.migs (pa + 64 * k) / 64) 0 := rfl
      rw [h, hr, hr, NMap.get_set, State.metaPa, hr]
      by_cases hjk : j = k
      · rw [if_pos (by omega), if_pos hjk]
      · rw [if_neg (by omega), if_neg hjk]
    rw [State.putMetas, List.zipIdx_cons, List.foldl_cons]
    refine (ih (s := s.setMetaPa (pa + 64 * j) w) hm (j + 1)).trans ?_
    rw [hset, List.length_cons]
    by_cases hjk : j = k
    · subst hjk
      rw [if_neg (by omega), if_pos rfl, if_pos (by omega), Nat.sub_self]
      rfl
    · by_cases hin : j + 1 ≤ k ∧ k < j + 1 + bws.length
      · rw [if_pos hin, if_pos (by omega)]
        obtain ⟨i, rfl⟩ : ∃ i, k = j + 1 + i := ⟨k - (j + 1), by omega⟩
        rw [show j + 1 + i - (j + 1) = i by omega, show j + 1 + i - j = i + 1 by omega]
        rfl
      · rw [if_neg hin, if_neg hjk, if_neg (by omega)]

/-- A block has landed with its block words, and the vaults are as they were. -/
structure BlockPut (s s' : State) (pa : Nat) (bs : List Byte) (bws : List Nat) : Prop where
  bytes : ∀ i, i < bs.length → Memory.get s'.mem (pa + i) = bs.getD i 0
  words : ∀ k, k < bws.length → s'.metaPa (pa + 64 * k) = bws.getD k 0
  other : ∀ b, b < pa ∨ pa + bs.length ≤ b → Memory.get s'.mem b = Memory.get s.mem b
  vaults : s'.vaults = s.vaults

theorem putBlock_clear {n : Nat} (r : Req) (hm : s.migs = []) (hpa : pa % 64 = 0) (hl : bs.length = 64 * n) (hc : s.clearRange pa (64 * n)) :
    BlockPut s (s.putBlock r pa bs bws) pa bs bws := by
  have hn : 8 * (bs.length / 8) = bs.length := by omega
  obtain ⟨hp, hbytes, hother⟩ := postWords_clear (r := r) (n := bs.length / 8) (bs := bs) (pa := pa) hm (by rw [hn, hl]; exact hc) (by omega)
  rw [hn] at hbytes hother
  have he : s.putBlock r pa bs bws = (State.putMetas { s.postWords r pa bs (bs.length / 8) with
      bad := (s.postWords r pa bs (bs.length / 8)).bad.filter (fun b => !(List.range (bs.length / 64)).any (fun k =>
        b == redirect (s.postWords r pa bs (bs.length / 8)).migs (pa + 64 * k) / 64)) } pa bws 0).progress r.inst := rfl
  rw [he]
  generalize (s.postWords r pa bs (bs.length / 8)).bad.filter _ = bad
  have hmig : (s.postWords r pa bs (bs.length / 8)).migs = [] := (postedOnly_migs hp).trans hm
  have hv := postedOnly_vaults hp
  generalize s.postWords r pa bs (bs.length / 8) = t at *
  have hrest := putMetas_rest { t with bad := bad } pa bws 0
  have hmem : (State.putMetas { t with bad := bad } pa bws 0).mem = t.mem := (congrArg State.mem hrest :)
  have hvaults : (State.putMetas { t with bad := bad } pa bws 0).vaults = t.vaults := (congrArg State.vaults hrest :)
  have hmeta (k : Nat) := metaPa_putMetas (s := { t with bad := bad }) (pa := pa) hmig hpa bws 0 k
  generalize State.putMetas { t with bad := bad } pa bws 0 = u at *
  have hfr := answers_progress u r.inst
  refine ⟨fun i hi => ?_, fun k hk => ?_, fun b hb => ?_, ?_⟩
  · rw [hfr.mem, hmem, hbytes i hi]
  · rw [State.metaPa, hfr.blockWord, hfr.migs]
    refine (hmeta k).trans ?_
    rw [if_pos (by omega), Nat.sub_zero]
  · rw [hfr.mem, hmem, hother b hb]
  · exact ((updReg_vaults ..).trans hvaults).trans hv

end

end Sys2Proof.Machine
end


section
namespace Sys2Proof.Machine
open State

/-! Decoding a packet for a receiver (O52, R151, R152). -/

section
variable {s : State} {r : Req} {pk : Packet} {v : Rcv}

/-- The blocks of a contributor's id and length that a receiver's vault holds. -/
def State.heldAs (s : State) (pk : Packet) (v : Rcv) (k : Nat) : List Holding :=
  (s.vault v.at).holds.filter (fun x => x.id == pk.ids.getD k 0 && x.len == pk.blen)

/-- The contributors that a receiver takes off again. -/
def Packet.canceled (pk : Packet) (v : Rcv) : List Nat := (List.range pk.ids.length).filter (fun k => v.cancel.testBit k)

theorem mapM_map_head {α β γ : Type} (f : α → List β) (g : β → γ) (d : γ) {l : List α} (h : ∀ k ∈ l, f k ≠ []) :
    l.mapM (fun k => (f k).head?.map g) = some (l.map (fun k => ((f k).map g).headD d)) := by
  induction l with
  | nil => rfl
  | cons k l ih =>
    obtain ⟨x, xs, hx⟩ := List.exists_cons_of_ne_nil (h k List.mem_cons_self)
    rw [List.mapM_cons, ih fun j hj => h j (List.mem_cons_of_mem _ hj), hx]
    simp [hx]

theorem mapM_head_none {α β γ : Type} (f : α → List β) (g : β → γ) {l : List α} (h : ∃ k ∈ l, f k = []) :
    l.mapM (fun k => (f k).head?.map g) = none := by
  induction l with
  | nil =>
    obtain ⟨k, hk, -⟩ := h
    cases hk
  | cons k l ih =>
    rw [List.mapM_cons]
    cases hk : f k with
    | nil => rfl
    | cons x xs =>
      obtain ⟨j, hj, hje⟩ := h
      obtain rfl | hj := List.mem_cons.1 hj
      · rw [hk] at hje
        cases hje
      · rw [ih ⟨j, hj, hje⟩]
        rfl

theorem heldBlocks_eq (s : State) (pk : Packet) (v : Rcv) : s.heldBlocks pk v = (pk.canceled v).mapM (fun k => (s.heldAs pk v k).head?.map (·.pa)) := by
  unfold State.heldBlocks Packet.canceled State.heldAs
  simp only [List.head?_filter]

/-- A list of bytes is its bytes in order. -/
theorem eq_map_getD (l : List Byte) : l = (List.range l.length).map (fun i => l.getD i 0) := by
  refine List.ext_getElem (by simp) fun i h1 h2 => ?_
  rw [List.getElem_map, List.getElem_range, List.getD_eq_getElem _ _ h1]

theorem getD_map_range (f : Nat → Byte) {i n : Nat} (h : i < n) : ((List.range n).map f).getD i 0 = f i := by
  rw [List.getD_eq_getElem _ _ (by simpa using h), List.getElem_map, List.getElem_range]

theorem redirect_of_none (h : s.migs = []) (a : Nat) : redirect s.migs a = a := by
  rw [h]
  rfl

theorem paBytes_of_none (h : s.migs = []) (pa n : Nat) : s.paBytes pa n = (List.range n).map (fun i => Memory.get s.mem (pa + i)) := by
  simp only [State.paBytes, redirect_of_none h]

/-- What a receiver's decoding needs: no migration, no bad block, and its block can be reached and holds no barrier. -/
structure Receives (s : State) (r : Req) (pk : Packet) (v : Rcv) : Prop where
  who : ∃ g p c, r.who = .ctx g p c
  migs : s.migs = []
  bad : s.bad = []
  arc : s.ev.arc ≠ 6
  chip : v.chip = 0
  dst : v.dst % 64 = 0
  reach : ∀ k, k < pk.blen → s.reachable (v.pa + 64 * k) = true
  clear : s.clearRange v.pa (64 * pk.blen)

/-- A vault's counter goes up. -/
theorem cnt_bumpVault (s : State) (w k j : Nat) : NMap.get ((s.bumpVault w k).vault w).cnt j 0 =
    NMap.get (s.vault w).cnt j 0 + BitVec.ofNat 64 (if k = j then 1 else 0) := by
  rw [State.bumpVault, vault_updVault_same]
  dsimp only
  rw [NMap.get_set]
  split_ifs with h
  · rw [h]
    rfl
  · exact (BitVec.add_zero _).symm

theorem parties_bumpVault (s : State) (w k u : Nat) : ((s.bumpVault w k).vault u).parties = (s.vault u).parties := by
  by_cases h : w = u
  · subst h
    rw [State.bumpVault, vault_updVault_same]
  · rw [State.bumpVault, vault_updVault_other _ _ h]

theorem holds_bumpVault (s : State) (w k u : Nat) : ((s.bumpVault w k).vault u).holds = (s.vault u).holds := by
  by_cases h : w = u
  · subst h
    rw [State.bumpVault, vault_updVault_same]
  · rw [State.bumpVault, vault_updVault_other _ _ h]

theorem clearRange_bumpVault {w k pa n : Nat} (h : s.clearRange pa n) : (s.bumpVault w k).clearRange pa n := by
  intro i hi
  obtain ⟨h1, h2⟩ := h i hi
  refine ⟨?_, by rw [parties_bumpVault]; exact h2⟩
  simp only [State.barObject, parties_bumpVault]
  exact h1

theorem Receives.bump (h : Receives s r pk v) (w k : Nat) : Receives (s.bumpVault w k) r pk v :=
  ⟨h.who, h.migs, h.bad, h.arc, h.chip, h.dst, h.reach, clearRange_bumpVault h.clear⟩

theorem Receives.aligned (h : Receives s r pk v) : v.pa % 64 = 0 := by
  have := h.dst
  rw [Rcv.pa, h.chip]
  omega

theorem unitLost_of_reach (hm : s.migs = []) {pa n : Nat} (h : ∀ k, k < n → s.reachable (pa + 64 * k) = true) : s.unitLost pa n = none := by
  rw [unitLost_eq_none]
  intro k hk
  rw [redirect_of_none hm]
  exact h k hk

theorem Receives.found (h : Receives s r pk v) : s.dstLost v pk.blen = none := by
  rw [State.dstLost, if_pos h.chip]
  exact unitLost_of_reach h.migs h.reach

/-- The source of a receiver's uncoded transfer. -/
def Packet.source (pk : Packet) (v : Rcv) : Nat := if pk.fbs.getD v.want 0 = 0 then pk.srcs.getD v.want 0 else pk.fbs.getD v.want 0

theorem fallback_clear (h : Receives s r pk v) (hs : ∀ k, k < pk.blen → s.reachable (pk.source v + 64 * k) = true) :
    s.fallback r pk v = (s.bumpVault v.at 2).putBlock r v.pa (s.paBytes (pk.source v) (64 * pk.blen)) (s.unitWords (pk.source v) pk.blen) := by
  obtain ⟨g, p, c, hw⟩ := h.who
  have hlost : s.srcLost r (pk.source v) pk.blen = none := by
    simp only [State.srcLost, hw]
    exact unitLost_of_reach h.migs hs
  have hbad := unitBad_of_clean h.bad h.arc 0 (pk.source v) pk.blen
  rw [Packet.source] at hlost hbad ⊢
  simp only [State.fallback, hlost, h.found, hbad]

/-- The block of an uncoded transfer, and what its vault counts. -/
theorem fallback_effects (h : Receives s r pk v) (hs : ∀ k, k < pk.blen → s.reachable (pk.source v + 64 * k) = true) :
    (∀ i, i < 64 * pk.blen → Memory.get (s.fallback r pk v).mem (v.pa + i) = Memory.get s.mem (pk.source v + i)) ∧
      (∀ k, k < pk.blen → (s.fallback r pk v).metaPa (v.pa + 64 * k) = s.metaPa (pk.source v + 64 * k)) ∧
      (∀ b, b < v.pa ∨ v.pa + 64 * pk.blen ≤ b → Memory.get (s.fallback r pk v).mem b = Memory.get s.mem b) ∧
      (s.fallback r pk v).vault v.at = (s.bumpVault v.at 2).vault v.at := by
  have hlen : (s.paBytes (pk.source v) (64 * pk.blen)).length = 64 * pk.blen := by rw [State.paBytes, List.length_map, List.length_range]
  have hwords : (s.unitWords (pk.source v) pk.blen).length = pk.blen := by rw [State.unitWords, List.length_map, List.length_range]
  have hput : BlockPut (s.bumpVault v.at 2) (s.fallback r pk v) v.pa (s.paBytes (pk.source v) (64 * pk.blen)) (s.unitWords (pk.source v) pk.blen) := by
    rw [fallback_clear h hs]
    exact putBlock_clear r (h.bump v.at 2).migs h.aligned hlen (h.bump v.at 2).clear
  refine ⟨fun i hi => ?_, fun k hk => ?_, fun b hb => ?_, congrArg (fun x => NMap.get x v.at Vault.reset) hput.vaults⟩
  · rw [hput.bytes i (by rw [hlen]; exact hi), paBytes_of_none h.migs, getD_map_range _ hi]
  · rw [hput.words k (by rw [hwords]; exact hk), State.unitWords, List.getD_eq_getElem _ _ (by simpa using hk), List.getElem_map, List.getElem_range]
  · rw [hput.other b (by rw [hlen]; exact hb)]
    rfl

/-- The data of a decoded block: the packet's, with the held blocks taken off. -/
def State.decoded (s : State) (pk : Packet) (v : Rcv) : List Byte :=
  ((pk.canceled v).map (fun k => ((s.heldAs pk v k).map (·.pa)).headD 0)).foldl (fun bs pa => xorBytes bs (s.paBytes pa (64 * pk.blen))) pk.data

theorem decoded_eq (hm : s.migs = []) (hl : pk.data.length = 64 * pk.blen) : s.decoded pk v = (List.range (64 * pk.blen)).map (fun i =>
    (pk.canceled v).foldl (fun b k => b ^^^ Memory.get s.mem (((s.heldAs pk v k).map (·.pa)).headD 0 + i)) (pk.data.getD i 0)) := by
  have hd := eq_map_getD pk.data
  rw [hl] at hd
  rw [State.decoded, List.foldl_map]
  simp only [paBytes_of_none hm]
  rw [hd]
  have h := foldl_xorBytes_map (List.range (64 * pk.blen)) (pk.canceled v) (fun i => pk.data.getD i 0)
    (fun k i => Memory.get s.mem (((s.heldAs pk v k).map (·.pa)).headD 0 + i))
  rw [List.foldl_map] at h
  rw [h, ← hd]

theorem serveRcv_decoded (h : Receives s r pk v) (hu : pk.uncoded = false) (hh : ∀ k ∈ pk.canceled v, s.heldAs pk v k ≠ []) :
    s.serveRcv r pk v = (s.bumpVault v.at 1).putBlock r v.pa (s.decoded pk v) (pk.bws.getD v.want []) := by
  have hb := (heldBlocks_eq s pk v).trans (mapM_map_head (s.heldAs pk v) (·.pa) 0 hh)
  simp only [State.serveRcv, hu, hb, unitsBad_of_clean h.bad h.arc, h.found]
  rfl

theorem serveRcv_fallback (h : pk.uncoded = true ∨ ∃ k ∈ pk.canceled v, s.heldAs pk v k = []) :
    s.serveRcv r pk v = if pk.uncoded = true then s.fallback r pk v else (s.bumpVault v.at 0).fallback r pk v := by
  cases hu : pk.uncoded with
  | true => simp only [State.serveRcv, hu, if_true]
  | false =>
    have hn := (heldBlocks_eq s pk v).trans (mapM_head_none (s.heldAs pk v) (·.pa) (h.resolve_left (by rw [hu]; exact Bool.false_ne_true)))
    simp only [State.serveRcv, hu, hn, Bool.false_eq_true, if_false]

end

/-- A receiver's block, decoded or from its fallback. -/
theorem partDecoding : Claims.PartDecoding := by
  intro s r pk v g p c hw hm hbad harc hchip hdst hreach hclear s' canceled held src lands counts
  have h : Receives s r pk v := ⟨⟨g, p, c, hw⟩, hm, hbad, harc, hchip, hdst, hreach, hclear⟩
  refine ⟨fun hu hlen hws hheld => ?_, fun hsrc hcase => ?_⟩
  · have hs : s' = _ := serveRcv_decoded h hu hheld
    have hdec : (s.decoded pk v).length = 64 * pk.blen := by rw [decoded_eq hm hlen, List.length_map, List.length_range]
    have hput : BlockPut (s.bumpVault v.at 1) s' v.pa (s.decoded pk v) (pk.bws.getD v.want []) := by
      rw [hs]
      exact putBlock_clear r (h.bump v.at 1).migs h.aligned hdec (h.bump v.at 1).clear
    have hv : s'.vault v.at = (s.bumpVault v.at 1).vault v.at := congrArg (fun x => NMap.get x v.at Vault.reset) hput.vaults
    refine ⟨⟨fun i hi => ?_, fun k hk => hput.words k (by rw [hws]; exact hk), fun b hb => ?_⟩, ?_, ?_, ?_⟩
    · rw [hput.bytes i (by rw [hdec]; exact hi), decoded_eq hm hlen, getD_map_range _ hi]
      rfl
    · rw [hput.other b (by rw [hdec]; exact hb)]
      rfl
    · exact (congrArg (fun x : Vault => NMap.get x.cnt 1 0) hv).trans (cnt_bumpVault s v.at 1 1)
    · exact (congrArg (fun x : Vault => NMap.get x.cnt 0 0) hv).trans (cnt_bumpVault s v.at 1 0)
    · exact (congrArg (fun x : Vault => NMap.get x.cnt 2 0) hv).trans (cnt_bumpVault s v.at 1 2)
  · have hs : s' = _ := serveRcv_fallback hcase
    cases hu : pk.uncoded with
    | true =>
      rw [hu, if_pos rfl] at hs
      obtain ⟨hbytes, hwords, hother, hv⟩ := fallback_effects h hsrc
      rw [← hs] at hbytes hwords hother hv
      refine ⟨⟨hbytes, hwords, hother⟩, ?_, ?_, ?_⟩
      · exact (congrArg (fun x : Vault => NMap.get x.cnt 2 0) hv).trans (cnt_bumpVault s v.at 2 2)
      · exact (congrArg (fun x : Vault => NMap.get x.cnt 1 0) hv).trans (cnt_bumpVault s v.at 2 1)
      · exact (congrArg (fun x : Vault => NMap.get x.cnt 0 0) hv).trans (cnt_bumpVault s v.at 2 0)
    | false =>
      rw [hu, if_neg Bool.false_ne_true] at hs
      obtain ⟨hbytes, hwords, hother, hv⟩ := fallback_effects (h.bump v.at 0) hsrc
      rw [← hs] at hbytes hwords hother hv
      have hcnt (j : Nat) : NMap.get (s'.vault v.at).cnt j 0 = NMap.get (s.vault v.at).cnt j 0 + BitVec.ofNat 64 (if 0 = j then 1 else 0) +
          BitVec.ofNat 64 (if 2 = j then 1 else 0) := by
        rw [hv, cnt_bumpVault, cnt_bumpVault]
      refine ⟨⟨hbytes, hwords, hother⟩, ?_, ?_, ?_⟩
      · exact (hcnt 2).trans (by simp)
      · exact (hcnt 1).trans (by simp)
      · exact (hcnt 0).trans (by simp)

end Sys2Proof.Machine
end


section
namespace Sys2Proof.Machine
open State

/-! The fetching beats of a copy (O52, R267 to R270). -/

section
variable {s s0 s1 s2 : State} {r : Req} {g : Nat} {c : Copy}

theorem cachesOnly_ev (h : s.cachesOnly s1) : s1.ev = s.ev := (congrArg State.ev h :)

theorem cachesOnly_reqs (h : s.cachesOnly s1) : s1.reqs = s.reqs := (congrArg State.reqs h :)

theorem cachesOnly_reachEnd (s : State) (r : Req) (g : Nat) (c : Copy) (e : End) (off : Int) (n : Nat) (wr : Bool) :
    s.cachesOnly (s.reachEnd r g c e off n wr).2 := by
  unfold State.reachEnd
  split
  · exact rfl
  · next va _ _ =>
    have ht := cachesOnly_translate s g r.tenant (s.rootOf r.inst) va (if wr = true then 2 else 1) s.ev.flag
    generalize s.translate g r.tenant (s.rootOf r.inst) va (if wr = true then 2 else 1) s.ev.flag = q at ht
    obtain ⟨t, u⟩ := q
    cases t with
    | ok l =>
      dsimp only
      split_ifs
      · exact ht
      · exact ht
      · exact ht
    | _ => exact ht
  · exact rfl

theorem cachesOnly_of_reachEnd {e : End} {off : Int} {n : Nat} {wr : Bool} {x : Reach} (h : s.reachEnd r g c e off n wr = (x, s1)) :
    s.cachesOnly s1 := by
  have := cachesOnly_reachEnd s r g c e off n wr
  rwa [h] at this

theorem cachesOnly_dstWaits (s : State) (r : Req) (g : Nat) (c : Copy) (n : Nat) : s.cachesOnly (s.dstWaits r g c n).2 := by
  have hlook (t : State) (pos : Nat) : t.cachesOnly (match t.reachEnd r g c c.dst (c.dstAt pos) 1 true with
      | (.waits l w pte, u) => (some (((c.dst.off : Int) + c.dstAt pos).toNat, l, w, pte), u)
      | (_, u) => ((none : Option (Nat × Nat × Nat × Word)), u)).2 := by
    have ht := cachesOnly_reachEnd t r g c c.dst (c.dstAt pos) 1 true
    generalize t.reachEnd r g c c.dst (c.dstAt pos) 1 true = q at ht
    obtain ⟨x, u⟩ := q
    cases x with
    | _ => exact ht
  unfold State.dstWaits
  lift_lets
  extract_lets at' look
  have hl (t : State) (pos : Nat) : t.cachesOnly (look t pos).2 := hlook t pos
  clear_value look
  by_cases h4 : c.dst.space ≠ 4
  · rw [if_pos h4]
    exact rfl
  · rw [if_neg h4]
    have h1 := hl s c.fetch
    generalize look s c.fetch = q at h1
    obtain ⟨o, u⟩ := q
    cases o with
    | some x => exact h1
    | none =>
      dsimp only
      split_ifs
      · exact h1
      · exact cachesOnly_trans h1 (hl u _)

/-- Only the list of writes that not every agent sees has changed. -/
def State.staleOnly (s s' : State) : Prop := { s' with stale := s.stale } = s

theorem staleOnly_readAs (s : State) (who : Agent) (a n k : Nat) (acq : Bool) : s.staleOnly (s.readAs who a n k acq).2 := by
  unfold State.readAs
  dsimp only
  split_ifs
  · exact rfl
  · exact rfl

theorem staleOnly_agentRead (s : State) (who : Agent) (pl : Place) (key : Option Nat) (n k : Nat) : s.staleOnly (s.agentRead who pl key n k).2 := by
  unfold State.agentRead
  split
  · exact rfl
  · exact staleOnly_readAs ..
  · exact rfl

theorem staleOnly_of_agentRead {who : Agent} {pl : Place} {key : Option Nat} {n k v : Nat} (h : s.agentRead who pl key n k = (v, s1)) :
    s.staleOnly s1 := by
  have := staleOnly_agentRead s who pl key n k
  rwa [h] at this

theorem rowOf_of_pos (h : 0 < c.len) (pos : Nat) : c.rowOf pos = (pos / c.len, pos % c.len) := if_neg (Nat.pos_iff_ne_zero.1 h)

theorem srcAt_of_pos (h : 0 < c.len) (pos : Nat) : c.srcAt pos =
    if c.mode = 2 then (c.pool, (((c.map.map (·.1)).getD 0 * 16 * c.len + (pos / c.len % 16) * c.len + pos % c.len : Nat) : Int))
    else (c.src, ((pos / c.len : Nat) : Int) * c.sstr + ((pos % c.len : Nat) : Int)) := by
  rw [Copy.srcAt, rowOf_of_pos h]

/-- Bytes of a beat at an end, from a position in a row: to the end of an 8-byte word of the memory it lies in (R269). -/
def Copy.beat (c : Copy) (e : End) (off : Int) (pos : Nat) : Nat := min (8 - (winBase c.wins e.space + ((e.off : Int) + off).toNat) % 8) (c.len - pos % c.len)

/-- A copy whose next source bytes wait in the Porter. -/
def Copy.fetched (c : Copy) (n : Nat) (bs : List (Byte × Place × Nat)) : Copy :=
  { c with
    got := c.got ++ bs
    fetch := c.fetch + n
    map := if c.mode = 2 ∧ (c.fetch + n) % (16 * c.len) = 0 then none else c.map }

/-- The bytes of a beat as the Porter keeps them. -/
def State.beatBytes (s : State) (pl : Place) (n v : Nat) : List (Byte × Place × Nat) :=
  (bytesOfNat n v).zipIdx.map (fun b => (b.1, pl.off b.2, s.blockWordAt pl))

/-- A copy may fetch. -/
structure Fetches (c : Copy) : Prop where
  next : c.fetch = c.pos + c.got.length
  more : c.fetch < c.total
  row : 0 < c.len
  mode : c.mode ≠ 3
  room : c.got.length < 4096

theorem fetchBeat_reads {src : End × Int} {n v kind : Nat} {pl : Place} {key : Option Nat} (h : Fetches c) (hm : c.mode = 2 → c.map.isNone = false)
    (hs : c.srcAt c.fetch = src) (hn : n = c.beat src.1 src.2 c.fetch) (hd : s.dstWaits r g c n = (none, s0))
    (hr : s0.reachEnd r g c src.1 src.2 n false = (.at pl kind key, s1)) (hb : s1.badBlock pl = false) (he : s1.ev.e ≠ 2)
    (ha : s1.agentRead (.porter g) pl key n s1.ev.c = (v, s2)) (hst : c.stuck = false) :
    s.fetchBeat r g c = (s2.setCopy r (c.fetched n (s2.beatBytes pl n v))).unheld r := by
  subst hn
  rw [Copy.beat] at hd hr ha ⊢
  unfold State.fetchBeat
  simp only [rowOf_of_pos h.row, hs]
  rw [if_neg (by have := h.next; have := h.more; have := h.mode; have := h.room; omega), if_neg (fun hc => by rw [hm hc.1] at hc; simp at hc)]
  simp only [hd, hr, hb, he, ha]
  rw [if_neg (by simp)]
  simp only [Bool.and_eq_true, beq_iff_eq]
  exact if_neg (by rw [hst]; exact Bool.false_ne_true)

theorem exec_porter_fetch {q : Region} {p x : Nat} (h : s.req s.ev.id = some r) (hq : NMap.find s.regions r.inst = some q) (hl : q.live = true)
    (hw : r.who = .ctx g p x) (ho : r.op = .copy c) (hb : c.bad = false) (he : s.ev.e = 1) (hwh : r.withheld = none) :
    exec .ePorterBeatLanding s = .next (s.fetchBeat r g c) := by
  rw [show exec .ePorterBeatLanding s = execPorterBeatLanding s from rfl]
  simp only [execPorterBeatLanding, liveReq_of h hq hl, ho, hw, hb, he, hwh, Option.isSome_none, Bool.false_eq_true, if_false, true_or, if_true]

theorem exec_porter_land {q : Region} {p x : Nat} (h : s.req s.ev.id = some r) (hq : NMap.find s.regions r.inst = some q) (hl : q.live = true)
    (hw : r.who = .ctx g p x) (ho : r.op = .copy c) (hb : c.bad = false) (he : s.ev.e ≠ 1 ∧ s.ev.e ≠ 2) (hwh : r.withheld = none ∨ c.stuck = false) :
    exec .ePorterBeatLanding s = .next (s.landBeat r g c) := by
  have hg : (r.withheld.isSome && c.stuck) = false := by
    obtain h | h := hwh
    · rw [h]; rfl
    · rw [h, Bool.and_false]
  rw [show exec .ePorterBeatLanding s = execPorterBeatLanding s from rfl]
  simp only [execPorterBeatLanding, liveReq_of h hq hl, ho, hw, hb, hg, Bool.false_eq_true, if_false]
  rw [if_neg (by tauto)]

/-! The look-up of a block's entry (R170). -/

/-- A Porter's block-map cache takes an entry. -/
def State.cacheBlock (s : State) (g : Nat) (x : Nat × Nat × Nat) : State := s.updTile g (fun t => { t with bmc := (x :: t.bmc).take 256 })

theorem regOf_cacheBlock (s : State) (g : Nat) (x : Nat × Nat × Nat) (h : Nat) : (s.cacheBlock g x).regOf h = s.regOf h := by
  have ht : ((s.cacheBlock g x).tile h).inst = (s.tile h).inst := tile_updTile_keep (·.inst) s g h _ (fun _ => rfl)
  simp only [State.regOf, ht]
  rfl

theorem place_cacheBlock (s : State) (g : Nat) (x : Nat × Nat × Nat) (h : Nat) (wins : NMap Win) (k : Acc) :
    (s.cacheBlock g x).place h wins k = s.place h wins k := by
  simp only [State.place, State.placeOf, State.placeRaw, regOf_cacheBlock]
  rfl

theorem poolFail_cacheBlock (s : State) (g : Nat) (x : Nat × Nat × Nat) (c : Copy) (k : Nat) : (s.cacheBlock g x).poolFail c k = s.poolFail c k := by
  simp only [State.poolFail, State.rowsFail, State.endPlace, place_cacheBlock]

/-- A gather that is to look up its next block's entry. -/
structure LooksUp (c : Copy) (i : Nat) : Prop where
  mode : c.mode = 2
  row : 0 < c.len
  map : c.map = none
  got : c.got = []
  next : c.fetch = c.pos
  more : c.fetch < c.total
  block : c.fetch % (16 * c.len) = 0
  entry : i = c.first + c.fetch / (16 * c.len)

/-- The entry of block `b` is read from the table: a place that the cache does not hold. -/
theorem lookup_read {b i kind v : Nat} {pl : Place} (hi : i = c.first + b) (hp : s.endPlace c c.table ((4 * i : Nat) : Int) 4 false = .ok (pl, kind))
    (hv : ∀ a, pl ≠ .virt a) (hc : ∀ x ∈ (s.tile g).bmc, x.1 ≠ pl.addr - 4 * i ∨ x.2.1 ≠ i) (hb : s.badBlock pl = false) (he : s.ev.e ≠ 2)
    (ha : s.agentRead (.porter g) pl (winKey c.wins c.table.space) 4 s.ev.c = (v, s2)) : s.lookup g c b =
      if v / 2 ^ 31 % 2 = 1 then (.block (v % 2 ^ 31) (pl.addr - 4 * i), s2.cacheBlock g (pl.addr - 4 * i, i, v % 2 ^ 31)) else (.none, s2) := by
  subst hi
  have hf : (s.tile g).bmc.find? (fun x => x.1 == pl.addr - 4 * (c.first + b) && x.2.1 == c.first + b) = none := by
    rw [List.find?_eq_none]
    intro x hx
    have := hc x hx
    simp only [Bool.and_eq_true, beq_iff_eq]
    omega
  cases pl with
  | virt a => exact absurd rfl (hv a)
  | _ =>
    simp only [State.lookup, hp, hf, hb, he, ha]
    rfl

theorem fetchBeat_looksUp {i : Nat} (h : LooksUp c i) : s.fetchBeat r g c =
    match s.lookup g c (c.fetch / (16 * c.len)) with
      | (.block b base, s) =>
        (match s.poolFail c b with
         | some (cause, off) => s.failCopy r c cause off
         | none => s.setCopy r { c with map := some (b, base, i) })
      | (.bad pa, s) => s.dataError r pa
      | (.none, s) =>
        (s.copyError r c.tag 0x3A (4 * i)).setCopy r { c with pos := c.pos + 16 * c.len, fetch := c.fetch + 16 * c.len } := by
  obtain ⟨hmode, hrow, hmap, hgot, hnext, hmore, hblock, rfl⟩ := h
  have hdiv : c.fetch / c.len / 16 = c.fetch / (16 * c.len) := by rw [Nat.div_div_eq_div_mul, Nat.mul_comm]
  have hk : c.fetch % c.len = 0 := by
    have := Nat.mod_mul_left_mod c.fetch 16 c.len
    rw [hblock] at this
    simpa using this.symm
  have hj : c.fetch / c.len % 16 = 0 := by
    have := Nat.mod_mul_left_div_self c.fetch c.len 16
    rw [hblock] at this
    simpa using this.symm
  unfold State.fetchBeat
  simp only [rowOf_of_pos hrow, hk, hj, hdiv, hmode, hmap, hgot]
  rw [if_neg (by simp; omega), if_pos (by simp)]
  rfl

end

end Sys2Proof.Machine
end


section
namespace Sys2Proof.Machine
open State

/-! The landing beats of a copy (O52, R112, R267). -/

theorem readBytes_eq_map (m : Memory) (a n : Nat) : Memory.readBytes m a n = (List.range n).map (fun i => Memory.get m (a + i)) := by
  induction n generalizing a with
  | zero => rfl
  | succ n ih =>
    rw [Memory.readBytes, ih, List.range_succ_eq_map, List.map_cons, List.map_map]
    refine congrArg (_ :: ·) (List.map_congr_left fun i _ => ?_)
    rw [Function.comp_apply, Nat.succ_eq_add_one, Nat.add_assoc, Nat.add_comm 1 i]

/-- Bytes that are written as a number are read back. -/
theorem readBytes_writeN (m : Memory) (a : Nat) {bs : List Byte} {n : Nat} (h : bs.length = n) :
    Memory.readBytes (Memory.writeN m a n (natOfBytes bs)) a n = bs := by
  subst h
  rw [writeN_natOfBytes, readBytes_eq_map]
  refine (List.map_congr_left fun i hi => get_writeBytes m a bs (List.mem_range.1 hi)).trans ?_
  exact (eq_map_getD bs).symm

section
variable {s s1 : State} {r : Req} {g : Nat} {c : Copy}

theorem dstAt_of_pos (h : 0 < c.len) (pos : Nat) : c.dstAt pos = ((pos / c.len : Nat) : Int) * c.dstr + ((pos % c.len : Nat) : Int) := by
  rw [Copy.dstAt, rowOf_of_pos h]

/-- The bytes that a landing beat writes: of `cps` those of its pattern, else the oldest fetched. -/
def Copy.beatOut (c : Copy) (n : Nat) : List (Byte × Place × Nat) :=
  if c.mode = 3 then (List.range n).map (fun j => (BitVec.ofNat 8 (c.aux.toNat / 256 ^ ((c.pos % c.len + j) % 8)), Place.virt 0, 0)) else c.got.take n

theorem beatOut_bytes (c : Copy) (n : Nat) : (c.beatOut n).map (·.1) =
    if c.mode = 3 then (List.range n).map (fun j => BitVec.ofNat 8 (c.aux.toNat / 256 ^ ((c.pos % c.len + j) % 8))) else (c.got.take n).map (·.1) := by
  unfold Copy.beatOut
  split_ifs
  · rw [List.map_map]
    rfl
  · rfl

theorem length_beatOut {n : Nat} (h : c.mode = 3 ∨ n ≤ c.got.length) : (c.beatOut n).length = n := by
  unfold Copy.beatOut
  split_ifs with hm
  · rw [List.length_map, List.length_range]
  · rw [List.length_take, Nat.min_eq_left (h.resolve_left hm)]

/-- The memory, the block and the hold of a copy once a beat has landed. -/
def State.beatLanded (s : State) (r : Req) (g : Nat) (c : Copy) (pl : Place) (kind n : Nat) (key : Option Nat) : State :=
  let t := (s.beatWrite r g pl kind n (natOfBytes ((c.beatOut n).map (·.1))) key).carryBlock (c.landed pl.addr (c.beatOut n)) pl
    (((c.beatOut n).getLast?.map (·.2.2)).getD 0)
  if c.stuck then t.unheld r else t

/-- A copy past a beat that has landed. -/
def Copy.passed (c : Copy) (pl : Place) (n : Nat) : Copy :=
  { c.landed pl.addr (c.beatOut n) with
    pos := c.pos + n, got := c.got.drop n, fetch := if c.mode = 3 then c.pos + n else c.fetch, stuck := false }

theorem landBeat_lands {off : Int} {n kind : Nat} {pl : Place} {key : Option Nat} (hv : c.bv = false) (hm : c.pos < c.total) (hl : 0 < c.len)
    (ho : off = c.dstAt c.pos) (hn : n = c.beat c.dst off c.pos) (hb : c.mode = 3 ∨ n ≤ c.got.length)
    (hr : s.reachEnd r g c c.dst off n true = (.at pl kind key, s1)) :
    s.landBeat r g c = ((s1.beatLanded r g c pl kind n key).setCopy r (c.passed pl n)).progress r.inst := by
  have hn0 : n ≠ 0 := by
    have h1 : c.pos % c.len < c.len := Nat.mod_lt _ hl
    have h2 : (winBase c.wins c.dst.space + ((c.dst.off : Int) + off).toNat) % 8 < 8 := Nat.mod_lt _ (by decide)
    rw [hn, Copy.beat]
    omega
  have hlen := length_beatOut hb
  have hbar (t : State) (k : Copy) (hk : k.bv = c.bv) : t.landBar r g k n = (true, t) := by
    rw [State.landBar, hk, hv]
    rfl
  unfold State.landBeat
  simp only [rowOf_of_pos hl, ← ho]
  rw [Copy.beat] at hn
  rw [Copy.beatOut] at hlen
  rw [← hn]
  rw [if_neg (by rw [hlen]; omega)]
  simp only [hr]
  rw [hbar _ _ (by rfl)]
  rfl

theorem postedOnly_reqs {s s' : State} (h : s.postedOnly s') : s'.reqs = s.reqs := (congrArg State.reqs h :)

/-- A beat is written under its key where no barrier lies (R127, R267). -/
theorem beatWrite_clear {a kind n v : Nat} {key : Option Nat} (hb : s.barObject (redirect s.migs a) = false)
    (hp : ∀ y ∈ (s.vault (homeOf (a / 16 * 16))).parties, y.pa ≠ a / 16 * 16) :
    (s.beatWrite r g (.phys a) kind n v key).mem = Memory.writeN (s.keyTag (redirect s.migs a) n key).mem (redirect s.migs a) n v ∧
      (s.beatWrite r g (.phys a) kind n v key).reqs = s.reqs := by
  have hs := (s.keyTag_spec (redirect s.migs a) n key).1
  have hmig := sameBut_migs hs
  unfold State.beatWrite
  dsimp only
  split_ifs with hk
  · obtain ⟨hpo, hmem⟩ := postWrite_clear (s := s.keyTag (redirect s.migs a) n key) (pa := a) (inst := r.inst) (slot := r.id) (n := n) (v := v)
      (who := .porter g) (un := kind == 2) (flag := none) (by rw [hmig, sameBut_barObject hs]; exact hb) (by rw [sameBut_vault hs]; exact hp)
    refine ⟨by rw [hmem, hmig], ?_⟩
    exact (postedOnly_reqs hpo).trans (sameBut_reqs hs)
  · have hw := writeUnder_sameBut s (redirect s.migs a) n v key
    rw [afterWrite_of_noParty, State.putPa, kept_of_noBar hb]
    · exact ⟨rfl, sameBut_reqs hw⟩
    · rw [State.putPa, kept_of_noBar hb, sameBut_vault hw]
      exact hp

theorem carryBlock_reqs (s : State) (c : Copy) (pl : Place) (m : Nat) : (s.carryBlock c pl m).reqs = s.reqs := by
  unfold State.carryBlock
  dsimp only
  split_ifs
  · rfl
  · cases pl <;> rfl
  · cases pl <;> rfl

theorem carryBlock_spad (s : State) (c : Copy) (pl : Place) (m h : Nat) : ((s.carryBlock c pl m).tile h).spad = (s.tile h).spad := by
  unfold State.carryBlock
  dsimp only
  split_ifs
  · rfl
  · cases pl with
    | spad t o => exact tile_updTile_keep (·.spad) s _ h _ (fun _ => rfl)
    | _ => rfl
  · cases pl <;> rfl

theorem beatLanded_mem (s : State) (r : Req) (g : Nat) (c : Copy) (pl : Place) (kind n : Nat) (key : Option Nat) :
    (s.beatLanded r g c pl kind n key).mem = (s.beatWrite r g pl kind n (natOfBytes ((c.beatOut n).map (·.1))) key).mem := by
  unfold State.beatLanded
  dsimp only
  split_ifs
  · exact (updReg_mem ..).trans (carryBlock_mem ..)
  · exact carryBlock_mem ..

theorem beatLanded_reqs (s : State) (r : Req) (g : Nat) (c : Copy) (pl : Place) (kind n : Nat) (key : Option Nat) :
    (s.beatLanded r g c pl kind n key).reqs = (s.beatWrite r g pl kind n (natOfBytes ((c.beatOut n).map (·.1))) key).reqs := by
  unfold State.beatLanded
  dsimp only
  split_ifs
  · exact (updReg_reqs ..).trans (carryBlock_reqs ..)
  · exact carryBlock_reqs ..

theorem beatLanded_spad (s : State) (r : Req) (g : Nat) (c : Copy) (pl : Place) (kind n : Nat) (key : Option Nat) (h : Nat) :
    ((s.beatLanded r g c pl kind n key).tile h).spad = ((s.beatWrite r g pl kind n (natOfBytes ((c.beatOut n).map (·.1))) key).tile h).spad := by
  unfold State.beatLanded
  dsimp only
  split_ifs
  · exact (congrArg Tile.spad (tile_updReg ..)).trans (carryBlock_spad ..)
  · exact carryBlock_spad ..

/-- What a landing leaves of the request: its copy, past the beat. -/
theorem req_landed {t : State} (h : s.req r.id = some r) (ht : t.reqs = s.reqs) (d : Copy) :
    ((t.setCopy r d).progress r.inst).req r.id = some { r with op := .copy d } := by
  rw [req_congr (progress_reqs ..)]
  exact req_updReq_same (f := fun q => { q with op := .copy d }) (fun _ => rfl) ((req_congr ht _).trans h)

/-- A beat lands in memory. -/
theorem lands_phys {a kind n : Nat} {key : Option Nat} (hr : s1.req r.id = some r) (hlen : c.mode = 3 ∨ n ≤ c.got.length)
    (hb : s1.barObject (redirect s1.migs a) = false) (hp : ∀ y ∈ (s1.vault (homeOf (a / 16 * 16))).parties, y.pa ≠ a / 16 * 16) (hn : 0 < n) :
    ∃ s', ((s1.beatLanded r g c (.phys a) kind n key).setCopy r (c.passed (.phys a) n)).progress r.inst = s' ∧
      Memory.readBytes s'.mem (redirect s1.migs a) n = (c.beatOut n).map (·.1) ∧
      (Claims.oneKey s1 (redirect s1.migs a) n key → ∀ b, b < redirect s1.migs a ∨ redirect s1.migs a + n ≤ b →
        Memory.get s'.mem b = Memory.get s1.mem b) ∧
      s'.req r.id = some { r with op := .copy (c.passed (.phys a) n) } := by
  obtain ⟨hmem, hreqs⟩ := beatWrite_clear (s := s1) (r := r) (g := g) (kind := kind) (n := n) (v := natOfBytes ((c.beatOut n).map (·.1)))
    (key := key) hb hp
  have hm : (((s1.beatLanded r g c (.phys a) kind n key).setCopy r (c.passed (.phys a) n)).progress r.inst).mem =
      Memory.writeN (s1.keyTag (redirect s1.migs a) n key).mem (redirect s1.migs a) n (natOfBytes ((c.beatOut n).map (·.1))) := by
    rw [progress_mem]
    exact (beatLanded_mem ..).trans hmem
  refine ⟨_, rfl, ?_, fun hk b hbb => ?_, req_landed hr ((beatLanded_reqs ..).trans hreqs) _⟩
  · rw [hm]
    exact readBytes_writeN _ _ (by rw [List.length_map]; exact length_beatOut hlen)
  · rw [hm, Memory.get_writeN_other _ _ _ _ _ hbb, keyTag_mem hk hn]

/-- A beat lands in a scratchpad. -/
theorem lands_spad {h o kind n : Nat} {key : Option Nat} (hr : s1.req r.id = some r) (hlen : c.mode = 3 ∨ n ≤ c.got.length) :
    ∃ s', ((s1.beatLanded r g c (.spad h o) kind n key).setCopy r (c.passed (.spad h o) n)).progress r.inst = s' ∧ s'.mem = s1.mem ∧
      Memory.readBytes (s'.tile h).spad o n = (c.beatOut n).map (·.1) ∧
      (∀ b, b < o ∨ o + n ≤ b → Memory.get (s'.tile h).spad b = Memory.get (s1.tile h).spad b) ∧
      (∀ x, x ≠ h → (s'.tile x).spad = (s1.tile x).spad) ∧ s'.req r.id = some { r with op := .copy (c.passed (.spad h o) n) } := by
  have hspad (x : Nat) : ((((s1.beatLanded r g c (.spad h o) kind n key).setCopy r (c.passed (.spad h o) n)).progress r.inst).tile x).spad =
      ((s1.writeSp h o n (natOfBytes ((c.beatOut n).map (·.1)))).tile x).spad :=
    (congrArg Tile.spad (tile_updReg ..)).trans (beatLanded_spad ..)
  have hsame : ((s1.writeSp h o n (natOfBytes ((c.beatOut n).map (·.1)))).tile h).spad =
      Memory.writeN (s1.tile h).spad o n (natOfBytes ((c.beatOut n).map (·.1))) := congrArg Tile.spad (tile_updTile_same ..)
  refine ⟨_, rfl, ?_, ?_, fun b hb => ?_, fun x hx => ?_, req_landed hr (beatLanded_reqs ..) _⟩
  · rw [progress_mem]
    exact beatLanded_mem ..
  · rw [hspad, hsame]
    exact readBytes_writeN _ _ (by rw [List.length_map]; exact length_beatOut hlen)
  · rw [hspad, hsame, Memory.get_writeN_other _ _ _ _ _ hb]
  · rw [hspad, State.writeSp, tile_updTile_other _ _ (Ne.symm hx)]

end

end Sys2Proof.Machine
end


section
namespace Sys2Proof.Machine
open State

/-! The end of a copy, a shuffle and a plane fill (O52, R112, R153, R192). -/

/-- What contexts that look again keep: the counts of copies, the tags and the elements, and everything outside the tiles. -/
structure Rouses (s s' : State) : Prop where
  rest : { s' with tiles := s.tiles } = s
  cp : ∀ g p x, (s'.ctx g p x).cp = (s.ctx g p x).cp
  tags : ∀ g p, (s'.tp g p).tags = (s.tp g p).tags
  cpdone : ∀ g p, (s'.tp g p).cpdone = (s.tp g p).cpdone
  elem : ∀ g e, s'.elem g e = s.elem g e

section
variable {s s' s'' : State}

theorem Rouses.refl (s : State) : Rouses s s := ⟨rfl, fun _ _ _ => rfl, fun _ _ => rfl, fun _ _ => rfl, fun _ _ => rfl⟩

theorem Rouses.trans (h : Rouses s s') (h' : Rouses s' s'') : Rouses s s'' where
  rest := (congrArg (fun t : State => { t with tiles := s.tiles }) h'.rest : _).trans h.rest
  cp g p x := (h'.cp g p x).trans (h.cp g p x)
  tags g p := (h'.tags g p).trans (h.tags g p)
  cpdone g p := (h'.cpdone g p).trans (h.cpdone g p)
  elem g e := (h'.elem g e).trans (h.elem g e)

theorem Rouses.mem (h : Rouses s s') : s'.mem = s.mem := (congrArg State.mem h.rest :)

theorem Rouses.reqs (h : Rouses s s') : s'.reqs = s.reqs := (congrArg State.reqs h.rest :)

/-- An update of a context leaves what every processor has beside its contexts. -/
theorem tp_updCtx_keep {β : Type} (k : Tp → β) (hk : ∀ (t : Tp) (l : NMap Ctx), k { t with ctxs := l } = k t) (s : State) (g p x h o : Nat) (f : Ctx → Ctx) :
    k ((s.updCtx g p x f).tp h o) = k (s.tp h o) := by
  by_cases he : g ≠ h ∨ p ≠ o
  · rw [State.updCtx, tp_updTp_other _ _ he]
  · obtain ⟨rfl, rfl⟩ : g = h ∧ p = o := by tauto
    rw [State.updCtx, tp_updTp_same, hk]

theorem rouses_updCtx (s : State) (g p x : Nat) {f : Ctx → Ctx} (hf : ∀ y, (f y).cp = y.cp) : Rouses s (s.updCtx g p x f) where
  rest := rfl
  cp h o z := by
    rw [ctx_updCtx]
    split_ifs with he
    · obtain ⟨rfl, rfl, rfl⟩ := he
      exact hf _
    · rfl
  tags h o := tp_updCtx_keep Tp.tags (fun _ _ => rfl) ..
  cpdone h o := tp_updCtx_keep Tp.cpdone (fun _ _ => rfl) ..
  elem h e := elem_updCtx ..

theorem rouses_wakeCtx (s : State) (g p x : Nat) : Rouses s (s.wakeCtx g p x) := by
  unfold State.wakeCtx
  dsimp only
  split_ifs
  · exact rouses_updCtx s g p x (fun _ => rfl)
  · exact .refl s

theorem cp_advance (y : Ctx) : y.advance.cp = y.cp := by
  unfold Ctx.advance
  split_ifs <;> rfl

theorem rouses_wakeIdle (s : State) (g p x : Nat) : Rouses s (s.wakeIdle g p x) := by
  unfold State.wakeIdle
  split_ifs
  · exact rouses_updCtx s g p x cp_advance
  · exact .refl s

theorem rouses_wakeTp (s : State) (g p : Nat) : Rouses s (s.wakeTp g p) :=
  (((rouses_wakeCtx s g p 0).trans (rouses_wakeCtx _ g p 1)).trans (rouses_wakeCtx _ g p 2)).trans (rouses_wakeCtx _ g p 3)

theorem rouses_wakeTile (s : State) (g : Nat) : Rouses s (s.wakeTile g) :=
  (((rouses_wakeTp s g 0).trans (rouses_wakeTp _ g 1)).trans (rouses_wakeTp _ g 2)).trans (rouses_wakeTp _ g 3)

/-! Counts. -/

/-- A count of copies that has fallen. -/
def State.cpFallen (s : State) (g p x : Nat) : State := s.updCtx g p x (fun y => y.setCount .cp (y.count .cp - 1))

theorem rouses_countDown (s : State) (g p x : Nat) : Rouses (s.cpFallen g p x) (s.countDown (.ctx g p x) .cp) := rouses_wakeCtx ..

theorem cp_cpFallen (s : State) (g p x : Nat) : ((s.cpFallen g p x).ctx g p x).cp = (s.ctx g p x).cp - 1 := by
  rw [State.cpFallen, ctx_updCtx_same]
  rfl

/-! Tags. -/

/-- A tag's count that has fallen, and its done bit (R268). -/
def State.tagFallen (s : State) (g p tag : Nat) : State :=
  let t := s.updTp g p (fun t => { t with tags := NMap.set t.tags tag (NMap.get (s.tp g p).tags tag 0 - 1) })
  if NMap.get (s.tp g p).tags tag 0 ≤ 1 then t.updTp g p (fun t => { t with cpdone := t.cpdone ||| BitVec.ofNat 64 (2 ^ tag) }) else t

theorem rouses_landTag (s : State) (g p tag : Nat) : Rouses (s.tagFallen g p tag) (s.landTag g p tag) := by
  unfold State.landTag State.tagFallen
  dsimp only
  split_ifs
  · exact ((((rouses_wakeIdle _ g p 0).trans (rouses_wakeIdle _ g p 1)).trans (rouses_wakeIdle _ g p 2)).trans (rouses_wakeIdle _ g p 3)).trans
      (rouses_wakeTp ..)
  · exact rouses_wakeTp ..

theorem tags_tagFallen (s : State) (g p tag : Nat) : NMap.get ((s.tagFallen g p tag).tp g p).tags tag 0 = NMap.get (s.tp g p).tags tag 0 - 1 := by
  unfold State.tagFallen
  dsimp only
  split_ifs
  · rw [tp_updTp_same, tp_updTp_same, NMap.get_set_same]
  · rw [tp_updTp_same, NMap.get_set_same]

theorem cpdone_tagFallen (s : State) (g p tag : Nat) : ((s.tagFallen g p tag).tp g p).cpdone =
    if NMap.get (s.tp g p).tags tag 0 ≤ 1 then (s.tp g p).cpdone ||| BitVec.ofNat 64 (2 ^ tag) else (s.tp g p).cpdone := by
  unfold State.tagFallen
  dsimp only
  split_ifs
  · rw [tp_updTp_same, tp_updTp_same]
  · rw [tp_updTp_same]

theorem ctx_tagFallen (s : State) (g p tag x : Nat) : (s.tagFallen g p tag).ctx g p x = (s.ctx g p x) := by
  unfold State.tagFallen State.ctx
  dsimp only
  split_ifs
  · rw [tp_updTp_same, tp_updTp_same]
    rfl
  · rw [tp_updTp_same]
    rfl

theorem tagFallen_mem (s : State) (g p tag : Nat) : (s.tagFallen g p tag).mem = s.mem := by
  unfold State.tagFallen
  dsimp only
  split_ifs <;> rfl

theorem tagFallen_reqs (s : State) (g p tag : Nat) : (s.tagFallen g p tag).reqs = s.reqs := by
  unfold State.tagFallen
  dsimp only
  split_ifs <;> rfl

/-- What the landing of a copy or a shuffle leaves: the request gone, the counts fallen, memory as it was. -/
def State.landed (s s' : State) (id g p x tag : Nat) : Prop :=
  s'.req id = none ∧ (s'.ctx g p x).cp = (s.ctx g p x).cp - 1 ∧ NMap.get (s'.tp g p).tags tag 0 = NMap.get (s.tp g p).tags tag 0 - 1 ∧
    s'.mem = s.mem ∧ (s'.tp g p).cpdone =
      (if NMap.get (s.tp g p).tags tag 0 ≤ 1 then (s.tp g p).cpdone ||| BitVec.ofNat 64 (2 ^ tag) else (s.tp g p).cpdone)

theorem landed_countDown {u v : State} {id g p x tag : Nat} (ht : u.tiles = s.tiles) (hr : u.req id = none) (hm : u.mem = s.mem)
    (hv : Rouses (u.tagFallen g p tag) v) : s.landed (v.countDown (.ctx g p x) .cp) id g p x tag := by
  have htp : u.tp g p = s.tp g p := by simp only [State.tp, State.tile, ht]
  have hctx : u.ctx g p x = s.ctx g p x := by rw [State.ctx, htp, State.ctx]
  have hd := rouses_countDown v g p x
  refine ⟨?_, ?_, ?_, ?_, ?_⟩
  · rw [req_congr ((hd.reqs.trans hv.reqs).trans (tagFallen_reqs ..)), hr]
  · rw [hd.cp, cp_cpFallen, hv.cp, ctx_tagFallen, hctx]
  · rw [hd.tags, State.cpFallen, tp_updCtx_keep Tp.tags (fun _ _ => rfl), hv.tags, tags_tagFallen, htp]
  · exact ((hd.mem.trans hv.mem).trans (tagFallen_mem ..)).trans hm
  · rw [hd.cpdone, State.cpFallen, tp_updCtx_keep Tp.cpdone (fun _ _ => rfl), hv.cpdone, cpdone_tagFallen, htp]

theorem releaseAt_tiles (s : State) (who : Agent) (own : Stale → Bool) (sc : Nat) (mks : List Mark) : (s.releaseAt who own sc mks).tiles = s.tiles := by
  unfold State.releaseAt
  dsimp only
  split_ifs <;> rfl

theorem releaseAt_reqs (s : State) (who : Agent) (own : Stale → Bool) (sc : Nat) (mks : List Mark) : (s.releaseAt who own sc mks).reqs = s.reqs := by
  unfold State.releaseAt
  dsimp only
  split_ifs <;> rfl

variable {r : Req} {q : Region} {g p x : Nat}

theorem exec_copyLanded {c : Copy} (h : s.req s.ev.id = some r) (hq : NMap.find s.regions r.inst = some q) (hl : q.live = true)
    (hw : r.who = .ctx g p x) (ho : r.op = .copy c) (hc : c.bad = true ∨ c.total ≤ c.pos) :
    ∃ s', exec .eCopyLanded s = .next s' ∧ s.landed s' r.id g p x c.tag := by
  refine ⟨((((((s.unheld r).dropReq r.id).copyRelease r g [.tag g p c.tag, .cp g p x]).landTag g p c.tag).wakeTile g).countDown (.ctx g p x) .cp), ?_, ?_⟩
  · rw [show exec .eCopyLanded s = execCopyLanded s from rfl]
    simp only [execCopyLanded, liveReq_of h hq hl, ho, hw]
    rw [if_neg (by
      rintro ⟨hb, hp⟩
      obtain hc | hc := hc
      · rw [hc] at hb
        exact absurd hb (by decide)
      · omega)]
  · refine landed_countDown (u := ((s.unheld r).dropReq r.id).copyRelease r g [.tag g p c.tag, .cp g p x]) ?_ ?_ ?_
      ((rouses_landTag ..).trans (rouses_wakeTile ..))
    · exact (releaseAt_tiles ..).trans (updReg_tiles ..)
    · exact (req_congr (releaseAt_reqs ..) _).trans (req_dropReq_same ..)
    · exact (releaseAt_mem ..).trans (updReg_mem ..)

theorem exec_copyLanded_not {c : Copy} (h : s.req s.ev.id = some r) (hq : NMap.find s.regions r.inst = some q) (hl : q.live = true)
    (hw : r.who = .ctx g p x) (ho : r.op = .copy c) (hb : c.bad = false) (hp : c.pos < c.total) : exec .eCopyLanded s = .next s := by
  rw [show exec .eCopyLanded s = execCopyLanded s from rfl]
  simp only [execCopyLanded, liveReq_of h hq hl, ho, hw]
  rw [if_pos ⟨by rw [hb]; rfl, hp⟩]

theorem exec_shuffleLanded {tag k n : Nat} (h : s.req s.ev.id = some r) (hq : NMap.find s.regions r.inst = some q) (hl : q.live = true)
    (hw : r.who = .ctx g p x) (ho : r.op = .shf tag k n) (hk : n ≤ k) (hf : s.inFlight r.id = false) :
    ∃ s', exec .eShuffleLanded s = .next s' ∧ s.landed s' r.id g p x tag := by
  let u := (s.dropReq r.id).releaseAt r.porter (fun e => e.who == r.porter && e.slot == r.id) r.sc [.tag g p tag, .cp g p x]
  refine ⟨(u.landTag g p tag).countDown (.ctx g p x) .cp, ?_, ?_⟩
  · rw [show exec .eShuffleLanded s = execShuffleLanded s from rfl]
    simp only [execShuffleLanded, liveReq_of h hq hl, ho, hw, hk, hf, decide_true, Bool.not_false, and_self, if_true]
    rfl
  · refine landed_countDown (u := u) (releaseAt_tiles ..) ?_ (releaseAt_mem ..) (rouses_landTag ..)
    exact (req_congr (releaseAt_reqs ..) _).trans (req_dropReq_same ..)

/-! Entries and packets (R149, R151). -/

theorem exec_shuffleEntryCode {tag k n : Nat} {y : Piece} {ys : List Piece} {e : PEnt} (h : s.req s.ev.id = some r)
    (hq : NMap.find s.regions r.inst = some q) (hl : q.live = true) (ho : r.op = .shf tag k n) (hp : r.pieces = y :: ys) (hk : k < n)
    (hroom : 64 + 256 * (k + 1) ≤ r.room) (hu : s.unitBad 0 (y.place.pa + 64 + 256 * k) 4 = none)
    (he : s.parseEntry (s.keyBytes (y.place.pa + 64 + 256 * k) 256 y.key) = some e) :
    exec .eShuffleEntryCode s = .next ((s.updReq r.id (fun z => { z with op := .shf tag (k + 1) n })).sendEntry r e) := by
  rw [show exec .eShuffleEntryCode s = execShuffleEntryCode s from rfl]
  have hu' : (s.updReq r.id (fun z => { z with op := .shf tag (k + 1) n })).unitBad 0 (y.place.pa + 64 + 256 * k) 4 = none := hu
  have he' : (s.updReq r.id (fun z => { z with op := .shf tag (k + 1) n })).parseEntry
      ((s.updReq r.id (fun z => { z with op := .shf tag (k + 1) n })).keyBytes (y.place.pa + 64 + 256 * k) 256 y.key) = some e := he
  simp only [execShuffleEntryCode, liveReq_of h hq hl, ho, hp, hu', he']
  rw [if_neg (by omega), if_neg (by omega)]

theorem foldl_length_eq_sum (l : List Packet) (n : Nat) : l.foldl (fun n z => n + z.data.length) n = n + (l.map (fun z => z.data.length)).sum := by
  induction l generalizing n with
  | nil => rfl
  | cons z l ih => rw [List.foldl_cons, ih, List.map_cons, List.sum_cons, Nat.add_assoc]

theorem exec_shufflePacketAdmit {pk : Packet} {rest : List Packet} (h : (s.vault s.ev.e).heldPk = pk :: rest)
    (hn : ((s.vault s.ev.e).packets.map (fun z => z.data.length)).sum + pk.data.length ≤ 0x40000) :
    exec .eShufflePacketAdmit s = .next (s.updVault s.ev.e (fun z => { z with heldPk := rest, packets := z.packets ++ [pk] })) := by
  rw [show exec .eShufflePacketAdmit s = execShufflePacketAdmit s from rfl]
  simp only [execShufflePacketAdmit, h]
  rw [if_pos (by rw [foldl_length_eq_sum, Nat.zero_add]; exact hn)]

theorem exec_packetDecode_nil {pk : Packet} {rest : List Packet} (h : (s.vault s.ev.e).packets = pk :: rest) (hr : pk.rcvs = []) :
    exec .ePacketDecode s = .next (s.updVault s.ev.e (fun z => { z with packets := rest })) := by
  rw [show exec .ePacketDecode s = execPacketDecode s from rfl]
  simp only [execPacketDecode, h, hr]

theorem exec_packetDecode_cons {pk : Packet} {rest : List Packet} {v : Rcv} {more : List Rcv} (hid : s.req r.id = some r)
    (hq : NMap.find s.regions r.inst = some q) (hl : q.live = true) (h : (s.vault s.ev.e).packets = pk :: rest) (hr : pk.rcvs = v :: more)
    (hp : pk.req = r.id) : exec .ePacketDecode s = .next (((s.updVault s.ev.e (fun z =>
      { z with packets := if more = [] then rest else { pk with rcvs := more } :: rest })).serveRcv r pk v)) := by
  rw [show exec .ePacketDecode s = execPacketDecode s from rfl]
  simp only [execPacketDecode, h, hr, hp, liveReq_of hid hq hl]

/-! Plane fills (R192). -/

theorem exec_planeFill {role k e : Nat} {bs : List Byte} {s1 : State} (h : s.req s.ev.id = some r) (hq : NMap.find s.regions r.inst = some q)
    (hl : q.live = true) (hw : r.who = .ctx g p x) (ho : r.op = .plf role k) (hn : s.nodeFree g r = true)
    (hv : s.readVirt g r.tenant (s.rootOf r.inst) 4 3 (r.ea % 2 ^ 56) 1024 = (.ok bs, s1)) (he : e = (s1.tile g).phys role)
    (hf : planeFails (kindOf role) role k (s1.elem g e).gens bs = none) (hs : (s1.elem g e).swapWait = false) :
    ∃ s', exec .ePlaneFillComplete s = .next s' ∧ NMap.find (s'.elem g e).planes k = some (parsePlane bs) ∧ (s'.elem g e).nrdy = true ∧
      (s'.elem g e).npnd = false ∧ (s'.elem g e).apl = (s1.elem g e).apl ∧ (s'.ctx g p x).cp = (s1.ctx g p x).cp - 1 ∧ s'.req r.id = none := by
  subst he
  let t := s1.updElem g ((s1.tile g).phys role) (fun y => { y with planes := NMap.set y.planes k (parsePlane bs) })
  let u := t.updElem g ((s1.tile g).phys role) (fun y => { y with npnd := false, nrdy := true })
  have hu : u.elem g ((s1.tile g).phys role) =
      { s1.elem g ((s1.tile g).phys role) with planes := NMap.set (s1.elem g ((s1.tile g).phys role)).planes k (parsePlane bs), npnd := false, nrdy := true } := by
    rw [elem_updElem_same, elem_updElem_same]
  have hfill : t.fillReady g ((s1.tile g).phys role) = u := by
    show (if (u.elem g ((s1.tile g).phys role)).swapWait then _ else u) = u
    rw [hu, hs]
    exact if_neg Bool.false_ne_true
  let w := (u.unheld r).dropReq r.id
  have hwe : w.elem g ((s1.tile g).phys role) = u.elem g ((s1.tile g).phys role) := elem_updReg ..
  have hwc : w.ctx g p x = s1.ctx g p x := (ctx_updReg ..).trans ((ctx_updElem ..).trans (ctx_updElem ..))
  have hd := (rouses_countDown w g p x).trans (rouses_wakeTile _ g)
  have helem : (((w.countDown (.ctx g p x) .cp).wakeTile g).elem g ((s1.tile g).phys role)) = u.elem g ((s1.tile g).phys role) := by
    rw [hd.elem, State.cpFallen, elem_updCtx, hwe]
  refine ⟨(w.countDown (.ctx g p x) .cp).wakeTile g, ?_, ?_, ?_, ?_, ?_, ?_, ?_⟩
  · rw [show exec .ePlaneFillComplete s = execPlaneFillComplete s from rfl]
    simp only [execPlaneFillComplete, liveReq_of h hq hl, ho, hw, hn, hv, hf, Bool.not_true, Bool.false_eq_true, if_false]
    rw [show State.fillReady _ g ((s1.tile g).phys role) = u from hfill]
  · rw [helem, hu, NMap.find_set_same]
  · rw [helem, hu]
  · rw [helem, hu]
  · rw [helem, hu]
  · rw [hd.cp, cp_cpFallen, hwc]
  · rw [req_congr hd.reqs]
    exact req_dropReq_same ..

end

end Sys2Proof.Machine
end


section
namespace Sys2Proof.Machine
open State

/-! Copies and shuffles (O52). -/

section
variable {s s0 s1 s2 : State} {r : Req} {q : Region} {g p x : Nat} {c : Copy}

theorem staleOnly_mem (h : s.staleOnly s1) : s1.mem = s.mem := (congrArg State.mem h :)

theorem staleOnly_reqs (h : s.staleOnly s1) : s1.reqs = s.reqs := (congrArg State.reqs h :)

theorem staleOnly_tile (h : s.staleOnly s1) (g : Nat) : s1.tile g = s.tile g := (congrArg (fun t : State => t.tile g) h :)

theorem toSink_reqs (s : State) (g : Nat) (k : Tok) : (s.toSink g k).reqs = s.reqs := by
  unfold State.toSink
  split
  · rfl
  · dsimp only
    split
    · exact updReg_reqs ..
    · exact updReg_reqs ..

theorem tile_toSink (s : State) (g : Nat) (k : Tok) (h : Nat) : (s.toSink g k).tile h = s.tile h := by
  unfold State.toSink
  split
  · rfl
  · dsimp only
    split
    · exact tile_updReg ..
    · exact tile_updReg ..

theorem copyError_reqs (s : State) (r : Req) (tag cause off : Nat) : (s.copyError r tag cause off).reqs = s.reqs := by
  unfold State.copyError
  split
  · exact toSink_reqs ..
  · rfl

theorem bmc_copyError (s : State) (r : Req) (tag cause off g : Nat) : ((s.copyError r tag cause off).tile g).bmc = (s.tile g).bmc := by
  unfold State.copyError
  split
  · exact (congrArg Tile.bmc (tile_toSink ..)).trans (tile_updTile_keep (·.bmc) _ _ g _ (fun _ => rfl))
  · rfl

theorem cacheBlock_mem (s : State) (g : Nat) (y : Nat × Nat × Nat) : (s.cacheBlock g y).mem = s.mem := rfl

theorem bmc_cacheBlock (s : State) (g : Nat) (y : Nat × Nat × Nat) : ((s.cacheBlock g y).tile g).bmc = (y :: (s.tile g).bmc).take 256 :=
  congrArg Tile.bmc (tile_updTile_same s g _)

theorem tile_setCopy (s : State) (r : Req) (c : Copy) (g : Nat) : (s.setCopy r c).tile g = s.tile g := rfl

/-- A gather looks up its next block's entry (R170): a valid one is kept and names the block, another has the block passed over. -/
theorem exec_porter_looksUp {i kind v : Nat} {pl : Place} (h : s.req s.ev.id = some r) (hq : NMap.find s.regions r.inst = some q) (hl : q.live = true)
    (hw : r.who = .ctx g p x) (ho : r.op = .copy c) (hb : c.bad = false) (he : s.ev.e = 1) (hwh : r.withheld = none) (hc : LooksUp c i)
    (hp : s.endPlace c c.table ((4 * i : Nat) : Int) 4 false = .ok (pl, kind)) (hv : ∀ a, pl ≠ .virt a)
    (hcache : ∀ x ∈ (s.tile g).bmc, x.1 ≠ pl.addr - 4 * i ∨ x.2.1 ≠ i) (hbad : s.badBlock pl = false)
    (ha : s.agentRead (.porter g) pl (winKey c.wins c.table.space) 4 s.ev.c = (v, s2)) :
    ∃ s', exec .ePorterBeatLanding s = .next s' ∧ s'.mem = s.mem ∧
      (v / 2 ^ 31 % 2 = 1 → s2.poolFail c (v % 2 ^ 31) = none →
        s'.req r.id = some { r with op := .copy { c with map := some (v % 2 ^ 31, pl.addr - 4 * i, i) } } ∧
        (s'.tile g).bmc = ((pl.addr - 4 * i, i, v % 2 ^ 31) :: (s.tile g).bmc).take 256) ∧
      (v / 2 ^ 31 % 2 = 0 → s'.req r.id = some { r with op := .copy { c with pos := c.pos + 16 * c.len, fetch := c.fetch + 16 * c.len } } ∧
        (s'.tile g).bmc = (s.tile g).bmc) := by
  have hid : s.req r.id = some r := by rw [id_of_req h, h]
  have hs2 := staleOnly_of_agentRead ha
  have hreqs := staleOnly_reqs hs2
  have hlook := lookup_read hc.entry hp hv hcache hbad (by omega) ha
  refine ⟨_, exec_porter_fetch h hq hl hw ho hb he hwh, ?_⟩
  rw [fetchBeat_looksUp hc, hlook]
  by_cases hval : v / 2 ^ 31 % 2 = 1
  · rw [if_pos hval]
    dsimp only
    rw [poolFail_cacheBlock]
    refine ⟨?_, fun _ hpf => ?_, fun h0 => absurd (hval.symm.trans h0) (by decide)⟩
    · cases s2.poolFail c (v % 2 ^ 31) with
      | none => exact (setCopy_mem ..).trans ((cacheBlock_mem ..).trans (staleOnly_mem hs2))
      | some f => exact (failCopy_mem ..).trans ((cacheBlock_mem ..).trans (staleOnly_mem hs2))
    · rw [hpf]
      refine ⟨req_updReq_same (f := fun y => { y with op := .copy { c with map := some (v % 2 ^ 31, pl.addr - 4 * i, i) } }) (fun _ => rfl)
        ((req_congr hreqs _).trans hid), ?_⟩
      dsimp only
      rw [tile_setCopy, bmc_cacheBlock, staleOnly_tile hs2]
  · rw [if_neg hval]
    dsimp only
    refine ⟨(copyError_mem ..).trans (staleOnly_mem hs2), fun h1 => absurd h1 hval, fun _ => ⟨?_, ?_⟩⟩
    · exact req_updReq_same (f := fun y => { y with op := .copy { c with pos := c.pos + 16 * c.len, fetch := c.fetch + 16 * c.len } }) (fun _ => rfl)
        ((req_congr ((copyError_reqs ..).trans hreqs) _).trans hid)
    · exact (bmc_copyError ..).trans (congrArg Tile.bmc (staleOnly_tile hs2 g))

theorem beat_pos (c : Copy) (e : End) (off : Int) (pos : Nat) (h : 0 < c.len) : 0 < c.beat e off pos := by
  have h1 : pos % c.len < c.len := Nat.mod_lt _ h
  have h2 : (winBase c.wins e.space + ((e.off : Int) + off).toNat) % 8 < 8 := Nat.mod_lt _ (by decide)
  rw [Copy.beat]
  omega

end

/-- Settles O52, a clause per step of the Porter, the coder and the decoder. -/
theorem copyAndShuffleSteps : Obligations.CopyAndShuffleSteps := by
  unfold Obligations.CopyAndShuffleSteps
  refine ⟨partCoding, partDecoding, fun s s1 r q g p x h hq hl hw => ?_⟩
  have hid : s.req r.id = some r := by rw [id_of_req h, h]
  refine ⟨?fetches, ?looksUp, ?landsInMemory, ?landsInScratchpad, fun c => exec_copyLanded h hq hl hw, fun c => exec_copyLanded_not h hq hl hw,
    fun tag k n => exec_shuffleLanded h hq hl hw, fun tag k n y ys e => exec_shuffleEntryCode h hq hl, fun pk rest => exec_shufflePacketAdmit,
    fun pk rest => exec_packetDecode_nil, fun pk rest v more => exec_packetDecode_cons hid hq hl, fun role k bs e => exec_planeFill h hq hl hw⟩
  case fetches =>
    intro c pl kind v b base i key s0 s2 ho hb he hwh hst hmode hlen hmap hnext hmore hroom row k src n hd hr hbad ha c'
    have hev : s1.ev = s.ev := (cachesOnly_ev (cachesOnly_of_reachEnd hr)).trans
      (cachesOnly_ev (by have := cachesOnly_dstWaits s r g c n; rwa [hd] at this))
    have hsrc : c.srcAt c.fetch = src := by
      rw [srcAt_of_pos hlen]
      split_ifs with hm
      · rw [hmap hm]
        exact (if_pos hm).symm
      · exact (if_neg hm).symm
    refine (exec_porter_fetch h hq hl hw ho hb he hwh).trans ?_
    rw [fetchBeat_reads ⟨hnext, hmore, hlen, hmode, hroom⟩ (fun hm => by rw [hmap hm]; rfl) hsrc rfl hd hr hbad (by rw [hev, he]; decide) ha hst]
    rfl
  case looksUp =>
    intro c pl kind v s2 ho hb he hwh hm hlen hmap hgot hnext hmore hblock i hp hv hcache hbad ha
    exact exec_porter_looksUp h hq hl hw ho hb he hwh ⟨hm, hlen, hmap, hgot, hnext, hmore, hblock, rfl⟩ hp hv hcache hbad ha
  case landsInMemory =>
    intro c a kind key ho hb he hwh hbv hmore hlen off n bytes hgot hr hbar hpar
    have hs1 : s1.req r.id = some r := (req_congr (cachesOnly_reqs (cachesOnly_of_reachEnd hr)) _).trans hid
    have hoff : off = c.dstAt c.pos := (dstAt_of_pos hlen _).symm
    have hn : n = c.beat c.dst off c.pos := rfl
    obtain ⟨s', hs', hbytes, hothers, hreq⟩ := lands_phys (g := g) (kind := kind) (key := key) hs1 hgot hbar hpar (hn ▸ beat_pos c c.dst off c.pos hlen)
    refine ⟨s', c.passed (.phys a) n, r, ?_, hbytes.trans (beatOut_bytes c n), hothers, hs1, hreq, rfl, rfl, hb⟩
    rw [exec_porter_land h hq hl hw ho hb he hwh, landBeat_lands hbv hmore hlen hoff hn hgot hr, hs']
  case landsInScratchpad =>
    intro c o off kind key ho hb he hwh hbv hmore hlen d n bytes hgot hr
    have hs1 : s1.req r.id = some r := (req_congr (cachesOnly_reqs (cachesOnly_of_reachEnd hr)) _).trans hid
    have hd : d = c.dstAt c.pos := (dstAt_of_pos hlen _).symm
    have hn : n = c.beat c.dst d c.pos := rfl
    obtain ⟨s', hs', hmem, hbytes, hothers, htiles, hreq⟩ := lands_spad (g := g) (h := o) (o := off) (kind := kind) (key := key) (n := n) hs1 hgot
    refine ⟨s', c.passed (.spad o off) n, r, ?_, hmem, hbytes.trans (beatOut_bytes c n), hothers, htiles, hs1, hreq, rfl, rfl, hb⟩
    rw [exec_porter_land h hq hl hw ho hb he hwh, landBeat_lands hbv hmore hlen hd hn hgot hr, hs']

end Sys2Proof.Machine
end

section
namespace Sys2Proof.Machine
open State

/-! Issuing a request (O34): the frame of `State.issue`, and the context it leaves. -/

/-- An advance moves the pc and the repeat alone (R232). -/
theorem advance_eq (x : Ctx) : x.advance = { x with pc := x.advance.pc, rpt := x.advance.rpt } := by
  unfold Ctx.advance
  split_ifs <;> rfl

theorem count_advance (x : Ctx) (k : Cls) : x.advance.count k = x.count k := by
  rw [advance_eq]
  cases k <;> rfl

/-- A class's count is set, and nothing else of the context changes. -/
theorem setCount_eq (x : Ctx) (k : Cls) (n : Nat) :
    x.setCount k n = { x with ld := (x.setCount k n).ld, st := (x.setCount k n).st, cp := (x.setCount k n).cp, tl := (x.setCount k n).tl } := by
  cases k <;> rfl

theorem count_setCount_other (x : Ctx) {j k : Cls} (h : j ≠ k) (n : Nat) : (x.setCount k n).count j = x.count j := by
  revert h
  cases k <;> cases j <;> simp [Ctx.setCount, Ctx.count]

/-- The context once it has issued a request under a number (R120, R253). -/
def TIn.counted (t : TIn) (r : Req) (id : Nat) : Ctx :=
  { t.x.advance.setCount r.cls (t.x.count r.cls + 1) with acq := if r.acquires then some id else (t.x.advance.setCount r.cls (t.x.count r.cls + 1)).acq }

/-- A context issues: its instruction retires, and a request that waits for a verdict blocks it. -/
def State.issuing (s : State) (t : TIn) (r : Req) : State :=
  if r.verdict then (s.retire t (t.counted r s.nextId)).block t.g t.p t.c (.blkVerdict s.nextId) else s.retire t (t.counted r s.nextId)

theorem issue_eq_addReq (s : State) (t : TIn) (r : Req) : s.issue t r = (s.issuing t r).addReq r := by
  unfold State.issue State.issuing TIn.counted
  split_ifs <;> rfl

theorem counted_eq (t : TIn) (r : Req) (id : Nat) : t.counted r id =
    { t.x with pc := t.x.advance.pc, rpt := t.x.advance.rpt, ld := (t.counted r id).ld, st := (t.counted r id).st, cp := (t.counted r id).cp,
               tl := (t.counted r id).tl, acq := if r.acquires then some id else t.x.acq } := by
  unfold TIn.counted
  rw [advance_eq]
  cases r.cls <;> rfl

theorem count_counted (t : TIn) (r : Req) (id : Nat) {k : Cls} (hk : k ≠ .none) :
    (t.counted r id).count k = t.x.count k + if k = r.cls then 1 else 0 := by
  have h : (t.counted r id).count k = (t.x.advance.setCount r.cls (t.x.count r.cls + 1)).count k := by cases k <;> rfl
  rw [h]
  split_ifs with hc
  · subst hc
    exact count_setCount _ _ _ fun h => absurd h hk
  · rw [count_setCount_other _ hc, count_advance, Nat.add_zero]

theorem ctx_retire (s : State) (t : TIn) (x : Ctx) : (s.retire t x).ctx t.g t.p t.c = x.issued (t.x.skip && t.x.steward) := by
  simp [State.retire]

/-- The context after the issue: what changes of it, field by field. -/
theorem ctx_issuing (s : State) (t : TIn) (r : Req) : (s.issuing t r).ctx t.g t.p t.c =
    { t.x with
      pc := t.x.advance.pc, rpt := t.x.advance.rpt, work := t.x.work + 1, acq := if r.acquires then some s.nextId else t.x.acq
      ld := (t.counted r s.nextId).ld, st := (t.counted r s.nextId).st, cp := (t.counted r s.nextId).cp, tl := (t.counted r s.nextId).tl
      status := if r.verdict then .blkVerdict s.nextId else .runnable, skip := t.x.skip && t.x.steward
      blkAt := ((s.issuing t r).ctx t.g t.p t.c).blkAt } := by
  have hret := (ctx_retire s t (t.counted r s.nextId)).trans (congrArg (Ctx.issued · (t.x.skip && t.x.steward)) (counted_eq t r s.nextId))
  by_cases hv : r.verdict = true
  · simp only [State.issuing, if_pos hv, State.block, ctx_updCtx_same, hret]
    rfl
  · simp only [State.issuing, if_neg hv, hret]
    rfl

theorem onlyCtx_issuing (s : State) (t : TIn) (r : Req) : Claims.onlyCtx s (s.issuing t r) t.g t.p t.c := by
  obtain ⟨hret, -⟩ := retireFrame s t (t.counted r s.nextId)
  unfold State.issuing
  split_ifs
  · exact onlyCtx_trans hret (onlyCtx_updCtx ..)
  · exact hret

theorem onlyWatchdog_issuing (s : State) (t : TIn) (r : Req) : Claims.onlyWatchdog s (s.issuing t r) t.g := by
  obtain ⟨-, hw, -⟩ := retireFrame s t (t.counted r s.nextId)
  unfold State.issuing
  split_ifs <;> exact hw

theorem last_issuing (s : State) (t : TIn) (r : Req) : ((s.issuing t r).tp t.g t.p).last = t.c := by
  obtain ⟨-, -, -, hl⟩ := retireFrame s t (t.counted r s.nextId)
  unfold State.issuing
  split_ifs
  · exact (last_updCtx ..).trans hl
  · exact hl

/-- A request acts as an acquire where it asks for it and no part lies on a UN page (R121). -/
theorem acquires_iff (r : Req) : r.acquires = true ↔ r.acq = true ∧ ∀ p ∈ r.pieces, p.kind ≠ 2 := by
  simp [Req.acquires, Req.isUn]

/-- Settles O34: issuing is retiring the context, blocking it for a verdict, and queueing the request. -/
theorem issueFrame : Obligations.IssueFrame := by
  intro s t r
  obtain ⟨hs, htile, htps, htp, hctxs, hctx⟩ := onlyCtx_issuing s t r
  have hx := ctx_issuing s t r
  have hreqs : (s.issuing t r).reqs = s.reqs := (congrArg State.reqs hs :)
  have hid : (s.issuing t r).nextId = s.nextId := (congrArg State.nextId hs :)
  have hkeep := congrArg (fun u : State => { u with reqs := s.reqs, nextId := s.nextId }) hs
  rw [issue_eq_addReq]
  refine ⟨hkeep, ?_, ?_, onlyWatchdog_issuing s t r, htile, htps, htp, hctxs, hctx, ?_, (congrArg Ctx.pc hx :), (congrArg Ctx.rpt hx :),
    (congrArg Ctx.skip hx :), last_issuing s t r, (congrArg Ctx.work hx :), ?_, fun k hk => ?_, (congrArg Ctx.status hx :)⟩
  · rw [State.addReq, hreqs, hid]
  · rw [State.addReq, hid]
  · exact (congrArg (fun x : Ctx => { x with
      pc := t.x.pc, rpt := t.x.rpt, work := t.x.work, acq := t.x.acq, ld := t.x.ld, st := t.x.st, cp := t.x.cp, tl := t.x.tl
      status := t.x.status, skip := t.x.skip, blkAt := t.x.blkAt }) hx :)
  · simp only [← acquires_iff]
    exact (congrArg Ctx.acq hx :)
  · rw [← count_counted t r s.nextId hk]
    refine (congrArg (Ctx.count · k) hx : _).trans ?_
    cases k <;> rfl

end Sys2Proof.Machine
end
section
namespace Sys2Proof.Machine
open State

/-! The parts of a plain access (R252): where it is cut. -/

theorem addr_off (pl : Place) (k : Nat) : (pl.off k).addr = pl.addr + k := by
  cases pl <;> rfl

/-- A cut lies within the access, and within 8 aligned bytes. -/
theorem mem_cuts {fuel a left sh : Nat} {x : Nat × Nat} (h : x ∈ cuts fuel a left sh) :
    sh ≤ x.1 ∧ 0 < x.2 ∧ x.1 + x.2 ≤ sh + left ∧ (a + (x.1 - sh)) % 8 + x.2 ≤ 8 := by
  induction fuel generalizing a left sh with
  | zero => cases h
  | succ fuel ih =>
    rw [cuts] at h
    split_ifs at h with h0
    · cases h
    · rcases List.mem_cons.mp h with rfl | h
      · dsimp only
        omega
      · obtain ⟨h1, h2, h3, h4⟩ := ih h
        refine ⟨by omega, h2, by omega, ?_⟩
        rwa [show a + (x.1 - sh) = a + min left (8 - a % 8) + (x.1 - (sh + min left (8 - a % 8))) by omega]

/-- The cuts leave no byte out. -/
theorem cuts_cover {fuel a left sh b : Nat} (hf : left ≤ fuel) (h1 : sh ≤ b) (h2 : b < sh + left) :
    ∃ x ∈ cuts fuel a left sh, x.1 ≤ b ∧ b < x.1 + x.2 := by
  induction fuel generalizing a left sh with
  | zero => omega
  | succ fuel ih =>
    rw [cuts, if_neg (by omega)]
    dsimp only
    by_cases hb : b < sh + min left (8 - a % 8)
    · exact ⟨_, List.mem_cons_self, h1, hb⟩
    · obtain ⟨x, hx, hxb⟩ := ih (a := a + min left (8 - a % 8)) (left := left - min left (8 - a % 8)) (sh := sh + min left (8 - a % 8))
        (by omega) (by omega) (by omega)
      exact ⟨x, List.mem_cons_of_mem _ hx, hxb⟩

/-! The lanes of a firing (R15, R102, R104, R252), in the terms of the statements. -/

theorem winBase_eq (wins : NMap Win) (sp : Nat) : winBase wins sp = Claims.base wins sp := by
  unfold winBase Claims.base
  by_cases h : 5 ≤ sp
  · rw [if_pos h, if_neg (by omega)]
    cases NMap.find wins (sp - 5) <;> rfl
  · rw [if_neg h, if_pos (by omega)]

/-- The address a lane uses. -/
theorem unit_eq (wins : NMap Win) (sp : Nat) (a : Int) (u : Nat) :
    (if u = 0 then a else unitAddr wins sp a u) = Claims.unit wins sp a u := by
  simp only [Claims.unit, unitAddr, winBase_eq]

theorem winKey_eq (wins : NMap Win) (sp : Nat) : winKey wins sp = if sp < 5 then none else (NMap.find wins (sp - 5)).map (·.key) := by
  unfold winKey
  by_cases h : 5 ≤ sp
  · rw [if_pos h, if_neg (by omega)]
  · rw [if_neg h, if_pos (by omega)]

theorem keyed_eq (wins : NMap Win) (sp : Nat) (ps : List Piece) : ps.map (fun p => { p with key := winKey wins sp }) = Claims.keyed wins sp ps := by
  simp only [Claims.keyed, winKey_eq]

/-- The address of a lane of an access. -/
def EOp.laneAddr (o : EOp) (wins : NMap Win) (q : Gen) (i : Nat) : Int := Claims.unit wins q.space (q.base + (i : Nat) * q.step) o.unit

/-- What a lane of an access needs (R104). -/
def EOp.laneAcc (o : EOp) (wins : NMap Win) (q : Gen) (i : Nat) : Acc := ⟨q.space, o.laneAddr wins q i, o.w, o.rd, o.wr, o.sk⟩

/-- The parts of a lane at its place. -/
def EOp.laneParts (o : EOp) (wins : NMap Win) (q : Gen) (pl : Place) (kind v c k : Nat) : List Piece :=
  Claims.keyed wins q.space (if o.unit = 0 then piecesOf pl kind o.w v k else [Piece.mk1 pl kind o.w v c k 0])

section
variable {s : State} {g k i v c : Nat} {el : Elem} {o : EOp} {q : Gen} {rest : List (Gen × Nat × Nat × Nat)}

theorem lanePieces_refused {cause : Nat} (h : q.refuses i = some cause) :
    s.lanePieces g el o ((q, i, v, c) :: rest) k = .error (cause, BitVec.ofInt 64 (o.laneAddr el.wins q i)) := by
  simp only [State.lanePieces, h, unit_eq]
  rfl

theorem lanePieces_unplaced {cause : Nat} (h : q.refuses i = none) (hp : s.placeOf g el.wins o.op (o.laneAcc el.wins q i) = .error cause) :
    s.lanePieces g el o ((q, i, v, c) :: rest) k = .error (cause, BitVec.ofInt 64 (o.laneAddr el.wins q i)) := by
  simp only [EOp.laneAcc, EOp.laneAddr] at hp
  simp only [State.lanePieces, h, unit_eq, Gen.addr, hp]
  rfl

theorem lanePieces_placed {pl : Place} {kind : Nat} (h : q.refuses i = none)
    (hp : s.placeOf g el.wins o.op (o.laneAcc el.wins q i) = .ok (pl, kind)) :
    s.lanePieces g el o ((q, i, v, c) :: rest) k = (s.lanePieces g el o rest (k + 1)).map (o.laneParts el.wins q pl kind v c k ++ ·) := by
  simp only [EOp.laneAcc, EOp.laneAddr] at hp
  simp only [State.lanePieces, h, unit_eq, Gen.addr, hp, keyed_eq]
  cases s.lanePieces g el o rest (k + 1) <;> rfl

end

theorem laneAddresses : Claims.PartLaneAddresses := by
  refine ⟨?_, ?_⟩
  · intro s g k i v c el o q rest
    have hfree (hi : i < q.limit) (hd : q.disabled = false) : q.refuses i = none := by
      simp [Gen.refuses, hd, Nat.not_le.mpr hi]
    refine ⟨rfl, fun hi => ?_, fun hi hd => ?_, fun cause hi hd hp => ?_, fun pl kind hi hd hp => ⟨fun x hx => ?_, fun ps hx => ?_⟩⟩
    · exact lanePieces_refused (by simp [Gen.refuses, hi])
    · exact lanePieces_refused (by simp [Gen.refuses, hd, Nat.not_le.mpr hi])
    · exact lanePieces_unplaced (hfree hi hd) hp
    · rw [lanePieces_placed (hfree hi hd) hp, hx]
      rfl
    · rw [lanePieces_placed (hfree hi hd) hp, hx]
      rfl
  · intro pl kind n v k
    refine ⟨fun p hp => ?_, fun b hb => ?_⟩
    · obtain ⟨x, hx, rfl⟩ := List.mem_map.mp hp
      obtain ⟨-, h2, h3, h4⟩ := mem_cuts hx
      refine ⟨rfl, rfl, rfl, h2, ?_, by simpa [Piece.mk1] using h3, rfl, rfl⟩
      simpa [Piece.mk1, addr_off] using h4
    · obtain ⟨x, hx, hxb⟩ := cuts_cover (a := pl.addr) (Nat.le_refl n) (Nat.zero_le b) (by omega)
      exact ⟨_, List.mem_map_of_mem hx, hxb⟩

end Sys2Proof.Machine
end

section
namespace Sys2Proof.Machine
open State

/-! A firing of a memory port (R254), from what its instruction asks for. -/

/-- What a memory instruction of a port makes of its firing: its accesses, and what it sets in the request. -/
abbrev PortFn := Elem → Fire → Val → Gen → Nat → Except (Nat × Word) (EOp × (Req → Req))

/-- The request of a firing whose lanes have the parts `ps` (R254). -/
def State.portReq (s : State) (g e : Nat) (r : Fire) (o : EOp) (ps : List Piece) : Req :=
  { s.fireReq g e r true o.op with
    cls := o.cls, pieces := ps, acq := o.acq, rel := o.rel, sc := bitsOf r.lit 5 4,
    ea := match o.lanes with | (q, i, _, _) :: _ => (BitVec.ofInt 64 (q.addr i)).toNat | [] => 0
    fence := s.fenceBefore g e r.slot, pages := (o.lanes.map (·.1.space)).eraseDups.flatMap (winPages (s.elem g e).wins) }

/-- The error token that a port gives in its turn. -/
def State.portError (s : State) (g e : Nat) (r : Fire) (cause : Nat) (v : Word) : Tok :=
  Tok.error r.thread r.iter (r.n - 1) (errPayload cause g ((s.tile g).role e) v.toNat)

section
variable {s : State} {i : Instr} {h : Shape} {r : Fire} {g e : Nat} {mk : PortFn} {q : Gen} {o : EOp} {fin : Req → Req}

/-- A generator that is not there (R104). -/
theorem port_noGen (hF : Fires s i h r g e) (hx : exec i s = .next (runPortMem i s mk))
    (hq : NMap.find (s.elem g e).gens (bitsOf r.lit 3 0) = none) : Claims.refuses s i h r g e 0x20 0 :=
  refuses_of_error hF hx (by simp only [hq])

/-- The instruction refuses its operands. -/
theorem port_refused {cause : Nat} {v : Word} (hF : Fires s i h r g e) (hx : exec i s = .next (runPortMem i s mk))
    (hq : NMap.find (s.elem g e).gens (bitsOf r.lit 3 0) = some q)
    (hm : mk (s.elem g e) r (Claims.va s r g e) q (bitsOf r.lit 3 0) = .error (cause, v)) : Claims.refuses s i h r g e cause v :=
  refuses_of_error hF hx (by simp only [hq, hm])

/-- Every lane passes the checks: the firing's accesses become one request. -/
theorem port_request {ps : List Piece} (hF : Fires s i h r g e) (hx : exec i s = .next (runPortMem i s mk))
    (hq : NMap.find (s.elem g e).gens (bitsOf r.lit 3 0) = some q)
    (hm : mk (s.elem g e) r (Claims.va s r g e) q (bitsOf r.lit 3 0) = .ok (o, fin))
    (hl : s.lanePieces g (s.elem g e) o o.lanes 0 = .ok ps) :
    exec i s = .next (fired (s.addReq (fin (s.portReq g e r o ps))) h r g e []) := by
  obtain ⟨hsite, hcur, hshape, -, hbad⟩ := hF
  refine hx.trans (congrArg _ (runElem_ok hsite hcur hshape hbad ?_))
  simp only [Claims.va] at hm
  simp only [hq, hm, hl]
  rfl

/-- A lane fails, and nothing of the firing's accesses is performed. -/
theorem port_fails {cause : Nat} {v : Word} (hF : Fires s i h r g e) (hx : exec i s = .next (runPortMem i s mk))
    (hq : NMap.find (s.elem g e).gens (bitsOf r.lit 3 0) = some q)
    (hm : mk (s.elem g e) r (Claims.va s r g e) q (bitsOf r.lit 3 0) = .ok (o, fin))
    (hl : s.lanePieces g (s.elem g e) o o.lanes 0 = .error (cause, v)) (hb : s.lanesBelow g e (s.elem g e) r o = s) :
    Claims.refuses s i h r g e cause v :=
  refuses_of_error hF hx (by simp only [hq, hm, hl, hb, if_true])

/-- A lane fails, and what lies below the end of its window is performed (R126). -/
theorem port_splits {cause : Nat} {v : Word} {x : Req} (hF : Fires s i h r g e) (hx : exec i s = .next (runPortMem i s mk))
    (hq : NMap.find (s.elem g e).gens (bitsOf r.lit 3 0) = some q)
    (hm : mk (s.elem g e) r (Claims.va s r g e) q (bitsOf r.lit 3 0) = .ok (o, fin))
    (hl : s.lanePieces g (s.elem g e) o o.lanes 0 = .error (cause, v)) (hb : s.lanesBelow g e (s.elem g e) r o = s.addReq x) :
    exec i s = .next (fired ((s.addReq x).queueTok g e r true (s.portError g e r cause v)) h r g e []) := by
  obtain ⟨hsite, hcur, hshape, -, hbad⟩ := hF
  refine hx.trans (congrArg _ (runElem_ok hsite hcur hshape hbad ?_))
  have hn : ¬ (s.addReq x).nextId = s.nextId := by simp [State.addReq]
  simp only [Claims.va] at hm
  simp only [hq, hm, hl, hb, if_neg hn]
  rfl

/-! What lies below the end of a window (R126). -/

/-- Nothing is performed of an access that is no plain store, or none of whose lanes straddles the end of its window. -/
theorem lanesBelow_none (ho : o.op ≠ .store ∨ o.unit ≠ 0 ∨ ∀ x ∈ o.lanes,
      Claims.below (s.elem g e).wins ⟨x.1.space, x.1.base + (x.2.1 : Nat) * x.1.step, o.w, o.rd, o.wr, o.sk⟩ = 0) :
    s.lanesBelow g e (s.elem g e) r o = s := by
  unfold State.lanesBelow
  dsimp only
  split
  · next q i v c k hf =>
    split_ifs with hc
    · rfl
    · have hmem : (q, i, v, c) ∈ o.lanes := by
        have := List.mem_zipIdx' (List.mem_of_find?_eq_some hf)
        exact this.2 ▸ List.getElem_mem _
      rw [State.storeBelow, if_neg]
      rintro ⟨hop, hroom⟩
      obtain h | h | h := ho
      · exact h hop
      · exact hc (.inr h)
      · exact hroom.ne' (h _ hmem)
  · rfl

/-- Where an access below the end of its window passes the checks and the whole runs past it, the whole is refused (R104). -/
theorem placeOf_past_end {wins : NMap Win} {k : Acc} {pl : Place} {kind : Nat} (hr : 0 < roomBelow wins k)
    (hp : s.place g wins { k with n := roomBelow wins k } = .ok (pl, kind)) (op : ReqOp) : s.placeOf g wins op k = .error 0x21 := by
  refine placeOf_error ?_
  generalize hn : roomBelow wins k = room at hr hp
  unfold roomBelow at hn
  cases hw : NMap.find wins (k.sp - 5) with
  | none => simp only [hw] at hn; omega
  | some w =>
    simp only [hw] at hn
    split_ifs at hn with hc
    · obtain ⟨hsp, h0, -, hlast⟩ := hc
      have hrev : ¬ w.revoked = true := by
        intro hv
        rw [place_error (cause := 0x23) (by rw [placeRaw_window (k := { k with n := room }) hsp h0 hw, if_pos hv])] at hp
        cases hp
      rw [placeRaw_window hsp h0 hw, if_neg hrev, if_pos (by omega)]
    · omega

end
end Sys2Proof.Machine
end

section
namespace Sys2Proof.Machine
open State

/-! What the memory instructions of a port ask for (R254 to R260, R262, R263, R265). -/

theorem runMem_elem {s : State} {g e : Nat} (h : s.site = .elem g e) (i : Instr) (f : Fields) (bad : Ctx → Word → Word → Nat) (t : TIn → TOp)
    (k : Fire → Val → Gen → Except (Nat × Word) (EOp × (Req → Req))) : runMem i f s bad t k = runPortMem i s (fun _ r a q _ => k r a q) := by
  simp only [runMem, h]

/-- What an instruction sets in the request of its firing beyond its accesses: how its result is formed, and nothing else. -/
def FormsResult (fin : Req → Req) : Prop :=
  ∀ x, { fin x with vec := x.vec, n := x.n, idx := x.idx, width := x.width, pitch := x.pitch, late := x.late } = x

/-- A firing of a memory instruction asks for `o`; a scalar form refuses more than one lane (R255). -/
structure Asks (s : State) (i : Instr) (r : Fire) (g e : Nat) (q : Gen) (o : EOp) (mk : PortFn) (fin : Req → Req) : Prop where
  exec : exec i s = .next (runPortMem i s mk)
  gives : Claims.isVector i = true ∨ r.n ≤ 1 → mk (s.elem g e) r (Claims.va s r g e) q (bitsOf r.lit 3 0) = .ok (o, fin)
  refuses : Claims.isVector i = false → 1 < r.n → mk (s.elem g e) r (Claims.va s r g e) q (bitsOf r.lit 3 0) = .error (0x40, (Claims.va s r g e).scal)
  result : FormsResult fin

section
variable {s : State} {i : Instr} {r : Fire} {g e : Nat} {q : Gen} {o : EOp} {fin : Req → Req} {f : Fields}

/-- A scalar form. -/
theorem asks_of_oneLane {bad : Ctx → Word → Word → Nat} {t : TIn → TOp} {k : Fire → Val → Gen → Except (Nat × Word) (EOp × (Req → Req))}
    (hs : s.site = .elem g e) (hx : Machine.exec i s = .next (runMem i f s bad t k)) (hv : Claims.isVector i = false)
    (hk : k r (Claims.va s r g e) q = oneLane r (Claims.va s r g e) (o, fin)) (hf : FormsResult fin) : ∃ mk fin, Asks s i r g e q o mk fin := by
  refine ⟨_, fin, ⟨hx.trans (congrArg _ (runMem_elem hs ..)), fun h => ?_, fun _ h => ?_, hf⟩⟩
  · rw [hv] at h
    exact hk.trans (if_neg (by simpa using h))
  · exact hk.trans (if_pos h)

/-- An atomic of one operand (R260). -/
theorem asks_of_amo {b : Amo} (hb : b ≠ .cas) (hs : s.site = .elem g e) (hx : Machine.exec i s = .next (runMem i f s noBad (tAmo b) (pAmo b)))
    (hv : Claims.isVector i = false) : ∃ mk fin, Asks s i r g e q (Claims.portOp.amo r (Claims.va s r g e) q b) mk fin := by
  refine asks_of_oneLane (fin := fun x => { x with vec := false, n := 1 }) hs hx hv ?_ fun _ => rfl
  cases b with
  | cas => exact absurd rfl hb
  | _ => simp [pAmo, oneLane, Claims.portOp.amo, Claims.portOp.w, Claims.portOp.it, Fire.first]

/-- A form that takes every lane. -/
theorem asks_of_lanes {mk : PortFn} (hx : Machine.exec i s = .next (runPortMem i s mk)) (hv : Claims.isVector i = true)
    (hk : mk (s.elem g e) r (Claims.va s r g e) q (bitsOf r.lit 3 0) = .ok (o, fin)) (hf : FormsResult fin) : ∃ mk fin, Asks s i r g e q o mk fin :=
  ⟨mk, fin, ⟨hx, fun _ => hk, fun h => (by rw [hv] at h; cases h), hf⟩⟩

/-- Iterations without values. -/
theorem laneAccs_replicate (q : Gen) (is : List Nat) (n : Nat) : laneAccs q is (List.replicate n 0) = (is.take n).map (fun i => (q, i, 0, 0)) := by
  induction is generalizing n with
  | nil => simp [laneAccs]
  | cons i is ih =>
    cases n with
    | zero => rfl
    | succ n =>
      rw [List.take_succ_cons, List.map_cons, ← ih]
      rfl

theorem laneAccs_map {α β : Type} (q : Gen) (is : List α) (vs : List β) (fi : α → Nat) (fv : β → Nat) :
    laneAccs q (is.map fi) (vs.map fv) = (is.zip vs).map (fun x => (q, fi x.1, fv x.2, 0)) := by
  simp only [laneAccs, List.zip_map, List.map_map]
  rfl

theorem laneAccs_map_right {β : Type} (q : Gen) (is : List Nat) (vs : List β) (fv : β → Nat) :
    laneAccs q is (vs.map fv) = (is.zip vs).map (fun x => (q, x.1, fv x.2, 0)) := by
  rw [← laneAccs_map q is vs (fun i => i) fv, List.map_id']

/-- What a firing of a memory instruction asks for is what the statement lists. -/
theorem exists_asks (hs : s.site = .elem g e) (hp : Claims.portOp r (Claims.va s r g e) q i = some o)
    (hc : (∃ f, i = .iCmb f ∨ i = .iCmbF f) → ∃ v, Claims.va s r g e = .sc v) (ht : (∃ f, i = .iLdt f) → (Claims.va s r g e).idx = []) :
    ∃ mk fin, Asks s i r g e q o mk fin := by
  unfold Claims.portOp at hp
  split at hp <;> cases hp
  iterate 10 · exact asks_of_oneLane hs rfl rfl rfl fun _ => rfl
  iterate 7 · exact asks_of_amo (by decide) hs rfl rfl
  iterate 5 · exact asks_of_oneLane hs rfl rfl rfl fun _ => rfl
  · obtain ⟨v, hv⟩ := hc ⟨_, .inl rfl⟩
    exact asks_of_oneLane hs rfl rfl (by rw [hv]; rfl) fun _ => rfl
  · obtain ⟨v, hv⟩ := hc ⟨_, .inr rfl⟩
    exact asks_of_oneLane hs rfl rfl (by rw [hv]; rfl) fun _ => rfl
  · exact asks_of_lanes (fin := fun x => { x with vec := true, idx := (Claims.va s r g e).idx }) rfl rfl (by rw [← laneAccs_replicate]; rfl) fun _ => rfl
  · exact asks_of_lanes (fin := id) rfl rfl (by dsimp only; rw [laneAccs_map_right]; rfl) fun _ => rfl
  · exact asks_of_lanes (fin := fun x => { x with vec := r.vec, idx := (Claims.va s r g e).idx }) rfl rfl
      (by rw [laneAccs_replicate, List.take_of_length_le (by simp [Fire.lanes]), List.map_map]; rfl) fun _ => rfl
  · have hidx : ¬ (Claims.va s r g e).idx ≠ [] := not_not_intro (ht ⟨_, rfl⟩)
    exact asks_of_lanes (fin := fun x => { x with width := widthBytes q.width, pitch := q.limit }) rfl rfl
      (by rw [if_neg hidx, ← laneAccs_replicate]) fun _ => rfl

end
end Sys2Proof.Machine
end

section
namespace Sys2Proof.Machine
open State

section
variable {s : State} {i : Instr} {h : Shape} {r : Fire} {g e : Nat} {q : Gen} {o : EOp} {fin : Req → Req}

/-- What lies below the end of its window of the one lane of a plain store (R126; log entry 13). -/
theorem lanesBelow_store {it v room kind : Nat} {pl : Place} (ho : o.op = .store) (hu : o.unit = 0) (hl : o.lanes = [(q, it, v, 0)])
    (hq : q.refuses it = none) (hr : room = Claims.below (s.elem g e).wins ⟨q.space, q.base + (it : Nat) * q.step, o.w, o.rd, o.wr, o.sk⟩)
    (h0 : 0 < room) (hp : s.place g (s.elem g e).wins ⟨q.space, q.base + (it : Nat) * q.step, room, o.rd, o.wr, o.sk⟩ = .ok (pl, kind)) :
    s.lanePieces g (s.elem g e) o o.lanes 0 = .error (0x21, BitVec.ofInt 64 (q.base + (it : Nat) * q.step)) ∧
    ∃ x : Req, s.lanesBelow g e (s.elem g e) r o = s.addReq x ∧ x.op = .store ∧ x.who = .elem g e ∧ x.counted = false ∧
      x.pieces = partsBelow (Claims.keyed (s.elem g e).wins q.space (piecesOf pl kind o.w v 0)) pl room := by
  have hroom : roomBelow (s.elem g e).wins ⟨q.space, q.base + (it : Nat) * q.step, o.w, o.rd, o.wr, o.sk⟩ = room := hr.symm
  have hplace := placeOf_past_end (k := ⟨q.space, q.base + (it : Nat) * q.step, o.w, o.rd, o.wr, o.sk⟩) (by rw [hroom]; exact h0)
    (by rw [hroom]; exact hp) o.op
  have haddr : o.laneAddr (s.elem g e).wins q it = q.base + (it : Nat) * q.step := by simp [EOp.laneAddr, Claims.unit, hu]
  have hpieces (k : Nat) : s.lanePieces g (s.elem g e) o [(q, it, v, 0)] k = .error (0x21, BitVec.ofInt 64 (q.base + (it : Nat) * q.step)) := by
    rw [lanePieces_unplaced hq (by rw [EOp.laneAcc, haddr]; exact hplace), haddr]
  refine ⟨by rw [hl]; exact hpieces 0, ?_⟩
  have hbelow : s.lanesBelow g e (s.elem g e) r o = s.addReq { s.fireReq g e r true o.op with
      fence := s.fenceBefore g e r.slot, op := .store, cls := .st, counted := false, verdict := false
      pieces := partsBelow (Claims.keyed (s.elem g e).wins q.space (piecesOf pl kind o.w v 0)) pl room } := by
    unfold State.lanesBelow State.storeBelow
    simp only [hl, List.zipIdx_singleton, List.find?_singleton, hpieces, Bool.not_false, if_true, hq, hu, ho, Gen.addr, hroom, hp, h0, keyed_eq]
    simp
  exact ⟨_, hbelow, rfl, rfl, rfl, rfl⟩

theorem portMemoryIssues_requests : Claims.PartPortMemoryIssues := by
  intro s i h r g e q o hF a hq hp hc ht
  have ⟨hsite, _⟩ := hF
  obtain ⟨mk, fin, hx, hgives, hrefuses, hres⟩ := exists_asks hsite hp hc ht
  refine ⟨fun hn ps hl => ?_, fun hn cause v hl hb => ?_, fun it v room pl kind hn hst hu hls hit hdis => ?_, fun hv hn => ?_⟩
  · have hfin := hres (s.portReq g e r o ps)
    exact ⟨_, port_request hF hx hq (hgives hn) hl, (congrArg Req.pieces hfin :), (congrArg Req.op hfin :), (congrArg Req.cls hfin :),
      (congrArg Req.who hfin :), (congrArg Req.thread hfin :), (congrArg Req.iter hfin :), (congrArg Req.slot hfin :), (congrArg Req.acq hfin :),
      (congrArg Req.rel hfin :), (congrArg Req.sc hfin :), (congrArg Req.phase hfin :), (congrArg Req.d hfin :), (congrArg Req.e hfin :),
      (congrArg Req.t hfin :)⟩
  · exact port_fails hF hx hq (hgives hn) hl (lanesBelow_none hb)
  · intro k hr h0 hpl
    have hfree : q.refuses it = none := by simp [Gen.refuses, hdis, Nat.not_le.mpr hit]
    obtain ⟨hl, x, hb, hop, hwho, hcount, hpieces⟩ := lanesBelow_store (r := r) hst hu hls hfree hr h0 hpl
    exact ⟨x, _, port_splits hF hx hq (hgives hn) hl hb, hop, hwho, hcount, hpieces, rfl, rfl⟩
  · exact port_refused hF hx hq (hrefuses hv hn)

end
end Sys2Proof.Machine
end

section
namespace Sys2Proof.Machine
open State

/-! The stash, scatter, compare-and-swap, fence and vector combine of a port (R124, R182, R258 to R262), and the operands each form refuses. -/

section
variable {s : State} {i : Instr} {f : Fields} {h : Shape} {r : Fire} {g e : Nat} {q : Gen} {o : EOp} {fin : Req → Req}

/-- A request whose result alone is formed apart has the firing's operation, parts and tag. -/
theorem port_asked {mk : PortFn} {ps : List Piece} (hF : Fires s i h r g e) (hx : exec i s = .next (runPortMem i s mk))
    (hq : NMap.find (s.elem g e).gens (bitsOf r.lit 3 0) = some q)
    (hm : mk (s.elem g e) r (Claims.va s r g e) q (bitsOf r.lit 3 0) = .ok (o, fin)) (hfin : FormsResult fin)
    (hl : s.lanePieces g (s.elem g e) o o.lanes 0 = .ok ps) :
    ∃ x : Req, exec i s = .next (fired (s.addReq x) h r g e []) ∧ x.op = o.op ∧ x.cls = o.cls ∧ x.pieces = ps ∧ x.who = .elem g e ∧
      x.thread = r.thread ∧ x.phase = .wait := by
  have hx' := hfin (s.portReq g e r o ps)
  exact ⟨_, port_request hF hx hq hm hl, (congrArg Req.op hx' :), (congrArg Req.cls hx' :), (congrArg Req.pieces hx' :), (congrArg Req.who hx' :),
    (congrArg Req.thread hx' :), (congrArg Req.phase hx' :)⟩

/-- The lanes of a stash: each at its iteration, and at its transposed one (R258). -/
theorem stash_lanes {β : Type} (q q' : Gen) (is : List Nat) (vs : List β) (fv : β → Nat) :
    ((laneAccs q is (vs.map fv)).zip (laneAccs q' (is.map stashIter) (vs.map fv))).flatMap (fun x => [x.1, x.2]) =
      (is.zip vs).flatMap (fun x => [(q, x.1, fv x.2, 0), (q', stashIter x.1, fv x.2, 0)]) := by
  rw [laneAccs_map_right, laneAccs_map, List.zip_map', List.flatMap_map]

theorem exec_amoCas (hs : s.site = .elem g e) : exec (.iAmoCas f) s = .next (runPortMem (.iAmoCas f) s (fun _ r a q _ => pAmo .cas r a q)) :=
  congrArg Host.Outcome.next (runMem_elem hs (.iAmoCas f) f noBad (tAmo .cas) (pAmo .cas))

theorem exec_cmb_port {fixed : Bool} (hs : s.site = .elem g e) (hi : i = .iCmb f ∧ fixed = false ∨ i = .iCmbF f ∧ fixed = true) :
    exec i s = .next (runPortMem i s (fun _ r a q _ => pCmb fixed r a q)) := by
  obtain ⟨rfl, rfl⟩ | ⟨rfl, rfl⟩ := hi
  · exact congrArg Host.Outcome.next (runMem_elem hs ..)
  · exact congrArg Host.Outcome.next (runMem_elem hs ..)

/-- Two lanes of 4 bytes are the compare and the new value of a compare-and-swap (R182). -/
theorem pAmo_cas_lanes {c v : Lane} (ix : List Nat) (hw : widthBytes q.width = 4) : pAmo .cas r (.vec [c, v] ix) q =
    .ok (⟨.ld, .amo .cas, 4, 4, [(q, r.first (.vec [c, v] ix), v.toNat, c.toNat)], true, true, 0, false, false⟩, fun x => { x with vec := false, n := 1 }) := by
  have hlt (x : Lane) : x.toNat < 256 ^ 4 := x.isLt
  simp only [pAmo, hw, if_true]
  rw [Nat.mod_eq_of_lt (hlt v), Nat.mod_eq_of_lt (hlt c)]

/-- Four lanes make its two values of 8 bytes (R182). -/
theorem pAmo_cas_pairs {c0 c1 v0 v1 : Lane} (ix : List Nat) (hw : widthBytes q.width = 8) : pAmo .cas r (.vec [c0, c1, v0, v1] ix) q =
    .ok (⟨.ld, .amo .cas, 8, 8, [(q, r.first (.vec [c0, c1, v0, v1] ix), v0.toNat + 2 ^ 32 * v1.toNat, c0.toNat + 2 ^ 32 * c1.toNat)], true, true, 0,
      false, false⟩, fun x => { x with vec := false, n := 1 }) := by
  have hlt (x y : Lane) : x.toNat + 2 ^ 32 * y.toNat < 256 ^ 8 := by
    have := x.isLt
    have := y.isLt
    omega
  simp only [pAmo, hw, if_true]
  rw [Nat.mod_eq_of_lt (hlt v0 v1), Nat.mod_eq_of_lt (hlt c0 c1)]

theorem pAmo_cas_scalar (v : Word) : pAmo .cas r (.sc v) q = .error (0x40, v) := rfl

theorem pAmo_cas_other {ls : List Lane} {ix : List Nat} (h4 : ¬ (ls.length = 2 ∧ widthBytes q.width = 4))
    (h8 : ¬ (ls.length = 4 ∧ widthBytes q.width = 8)) : pAmo .cas r (.vec ls ix) q = .error (0x40, (Val.vec ls ix).scal) := by
  match ls, h4, h8 with
  | [], _, _ => rfl
  | [_], _, _ => rfl
  | [c, v], h4, _ => exact if_neg fun hw => h4 ⟨rfl, hw⟩
  | [_, _, _], _, _ => rfl
  | [c0, c1, v0, v1], _, h8 => exact if_neg fun hw => h8 ⟨rfl, hw⟩
  | _ :: _ :: _ :: _ :: _ :: _, _, _ => rfl

theorem portSpecialForms : Claims.PartPortSpecialForms := by
  intro s f h r g e q q' ps el a n w done hq
  refine ⟨fun hF hq' lanes hl hp => ?_, fun hF l1 l2 ix lanes ha hlen hne hv hl hp => ?_, fun hF c v ix lanes ha hw hl hp => ?_, fun hF hps => ?_⟩
  · refine port_asked (fin := id) hF rfl hq ?_ (fun _ => rfl) hp
    simp only [show NMap.find (s.elem g e).gens (bitsOf r.lit 3 0 + 1) = some q' from hq', stash_lanes, hl]
    rfl
  · refine port_asked (fin := id) hF rfl hq ?_ (fun _ => rfl) hp
    have hhalf : (l1 ++ l2).length / 2 = l1.length := by rw [List.length_append]; omega
    have hgood : ¬ ((l1 ++ l2).length % 2 ≠ 0 ∨ l1 ++ l2 = [] ∨ 1 < r.n ∧ (!r.vec) = true) := by simp [hv, hne, ← hlen]; omega
    rw [show Claims.va s r g e = .vec (l1 ++ l2) ix from ha]
    simp only [if_neg hgood, hhalf, List.take_left, List.drop_left, laneAccs_map, hl]
    rfl
  · subst hl
    have ⟨hsite, _⟩ := hF
    refine port_asked (fin := fun x => { x with vec := false, n := 1 }) hF (exec_amoCas hsite) hq ?_ (fun _ => rfl) hp
    rw [ha, show Claims.va s r g e = .vec [c, v] ix from ha]
    exact pAmo_cas_lanes ix hw
  · obtain ⟨hsite, hcur, hshape, -, hbad⟩ := hF
    refine ⟨{ s.fireReq g e r true .fence with sc := bitsOf r.lit 5 4 }, ?_, rfl, rfl, hps.symm, rfl, rfl, rfl⟩
    show Host.Outcome.next _ = _
    simp only [hsite]
    exact congrArg _ (runElem_ok hsite hcur hshape hbad rfl)

/-- A memory instruction of a port runs as one. -/
theorem exec_port (hs : s.site = .elem g e)
    (hi : (∀ q, Claims.portOp r (Claims.va s r g e) q i ≠ none) ∨ i = .iSts f ∨ i = .iSst f ∨ i = .iAmoCas f) :
    ∃ mk, exec i s = .next (runPortMem i s mk) := by
  obtain hi | rfl | rfl | rfl := hi
  · by_cases hc : ∃ f, i = .iCmb f ∨ i = .iCmbF f
    · obtain ⟨f, rfl | rfl⟩ := hc
      · exact ⟨_, exec_cmb_port hs (.inl ⟨rfl, rfl⟩)⟩
      · exact ⟨_, exec_cmb_port hs (.inr ⟨rfl, rfl⟩)⟩
    · by_cases ht : ∃ f, i = .iLdt f
      · obtain ⟨f, rfl⟩ := ht
        exact ⟨_, rfl⟩
      · obtain ⟨o, ho⟩ := Option.ne_none_iff_exists'.mp (hi ⟨0, 0, 0, 0, 0, 0, false, 0, false⟩)
        obtain ⟨mk, fin, hx, -⟩ := exists_asks hs ho (fun h => absurd h hc) (fun h => absurd h ht)
        exact ⟨mk, hx⟩
  · exact ⟨_, rfl⟩
  · exact ⟨_, rfl⟩
  · exact ⟨_, exec_amoCas hs⟩

/-- What a combine of a vector asks for: its lanes lie in one aligned unit of 128 bytes (R262). -/
def EOp.vectorCombine (fixed : Bool) (q : Gen) (it n : Nat) : EOp :=
  ⟨.st, .cmb fixed q.cc, 128, 4 * n, [(q, it, 0, 0)], false, true, 0, false, false⟩

/-- The parts of a combine of a vector: lane `k` at `4k` of its place. -/
def Req.spread (x : Req) (ls : List Lane) : Req :=
  { x with pieces := match x.pieces with
      | p :: _ => ls.zipIdx.map (fun l => { p with place := p.place.off (4 * l.2), n := 4, val := l.1.toNat, lane := l.2 })
      | [] => [] }

theorem pCmb_vector {fixed : Bool} {ls : List Lane} {ix : List Nat} (hn : ¬ (bitsOf q.cc 6 4 = 2 ∨ bitsOf q.cc 6 4 = 3)) :
    pCmb fixed r (.vec ls ix) q = .ok (EOp.vectorCombine fixed q (r.first (.vec ls ix)) ls.length, fun x => x.spread ls) := by
  simp only [pCmb, ccBytes, if_neg hn]
  rfl

theorem pCmb_vector_wide {fixed : Bool} {ls : List Lane} {ix : List Nat} (hn : bitsOf q.cc 6 4 = 2 ∨ bitsOf q.cc 6 4 = 3) :
    pCmb fixed r (.vec ls ix) q = .error (0x40, (Val.vec ls ix).scal) := by
  simp only [pCmb, ccBytes, if_pos hn, if_true]

theorem lanePieces_vectorCombine {fixed : Bool} {it n kind : Nat} {el : Elem} {pl : Place} (hl : it < q.limit) (hd : q.disabled = false)
    (hp : s.place g el.wins ⟨q.space, Claims.unit el.wins q.space (q.base + (it : Nat) * q.step) 128, 4 * n, false, true, 0⟩ = .ok (pl, kind)) :
    s.lanePieces g el (EOp.vectorCombine fixed q it n) (EOp.vectorCombine fixed q it n).lanes 0 =
      .ok (Claims.keyed el.wins q.space [Piece.mk1 pl kind (4 * n) 0 0 0 0]) := by
  have hfree : q.refuses it = none := by simp [Gen.refuses, hd, Nat.not_le.mpr hl]
  have hplace : s.placeOf g el.wins (EOp.vectorCombine fixed q it n).op ((EOp.vectorCombine fixed q it n).laneAcc el.wins q it) = .ok (pl, kind) := by
    rw [placeOf_eq_place fun _ _ _ => barPlace_other (fun m h => by cases h) ..]
    exact hp
  exact (lanePieces_placed hfree hplace).trans (congrArg Except.ok (List.append_nil _))

theorem portOperands : Claims.PartPortOperands := by
  intro s i f h r g e hF el a gen cas done
  have ⟨hsite, _⟩ := hF
  refine ⟨fun hi hq => ?_, fun q fixed ls ix hi hq ha => ⟨fun hn => ?_, fun hn => ?_⟩, fun q hi hq => ⟨?_, ?_, ?_⟩,
    fun q hi hq => ⟨?_, ?_⟩, fun q hi hq hix => ?_⟩
  · obtain ⟨mk, hx⟩ := exec_port hsite hi
    exact port_noGen hF hx hq
  · intro at' pl kind hl hd hp
    have hm : pCmb fixed r (Claims.va s r g e) q = _ := (congrArg (pCmb fixed r · q) ha).trans (pCmb_vector hn)
    rw [show (r.its a).headD r.iter = r.first (.vec ls ix) from congrArg r.first ha] at hl
    have hps := lanePieces_vectorCombine (fixed := fixed) hl hd (by rw [← show a = .vec ls ix from ha]; exact hp)
    refine ⟨_, port_request hF (exec_cmb_port hsite hi) hq hm hps, rfl, rfl, ?_, rfl, rfl, rfl⟩
    simp only [Claims.keyed, List.map_map]
    rfl
  · have hm : pCmb fixed r (Claims.va s r g e) q = _ := (congrArg (pCmb fixed r · q) ha).trans (pCmb_vector_wide hn)
    rw [show a = .vec ls ix from ha]
    exact port_refused hF (exec_cmb_port hsite hi) hq hm
  · intro c0 c1 v0 v1 ix lanes ps ha hw hl hp
    subst hi
    refine port_asked (fin := fun x => { x with vec := false, n := 1 }) hF (exec_amoCas hsite) hq ?_ (fun _ => rfl) hp
    rw [hl, ha, show Claims.va s r g e = .vec [c0, c1, v0, v1] ix from ha]
    exact pAmo_cas_pairs ix hw
  · intro v ha
    subst hi
    rw [ha]
    exact port_refused hF (exec_amoCas hsite) hq ((congrArg (pAmo .cas r · q) ha).trans (pAmo_cas_scalar v))
  · intro ls ix ha h4 h8
    subst hi
    rw [ha]
    exact port_refused hF (exec_amoCas hsite) hq ((congrArg (pAmo .cas r · q) ha).trans (pAmo_cas_other h4 h8))
  · intro v ha
    subst hi
    refine port_refused hF rfl hq ?_
    rw [ha, show Claims.va s r g e = .sc v from ha]
    simp
  · intro ls ix ha hodd
    subst hi
    refine port_refused hF rfl hq ?_
    rw [ha, show Claims.va s r g e = .vec ls ix from ha]
    simp [hodd]
  · subst hi
    exact port_refused hF rfl hq (if_pos hix)

/-- Settles O37. -/
theorem portMemoryIssues : Obligations.PortMemoryIssues := ⟨portMemoryIssues_requests, laneAddresses, portSpecialForms, portOperands⟩

end
end Sys2Proof.Machine
end
section
namespace Sys2Proof.Machine
open State

/-! What an agent sees of a posted write that alone is not visible to all (R117, R118, R121, R130). -/

/-- What a byte reads as within a write does not turn on what was there. -/
theorem get_writeN_congr (m m' : Memory) {a n b : Nat} (v : Nat) (h1 : a ≤ b) (h2 : b < a + n) :
    Memory.get (Memory.writeN m a n v) b = Memory.get (Memory.writeN m' a n v) b := by
  induction n generalizing m m' a v with
  | zero => omega
  | succ n ih =>
    rw [Memory.writeN, Memory.writeN]
    obtain rfl | hb := Nat.eq_or_lt_of_le h1
    · simp only [Memory.get_writeN_other _ _ _ _ _ (.inl (Nat.lt_succ_self a)), Memory.get_set_same]
    · exact ih _ _ _ hb (by omega)

/-- The bytes of a write: what was there, and what is there after it. -/
theorem find_writtenBytes (m : Memory) (a n v b : Nat) : NMap.find (writtenBytes m a n v) b =
    if a ≤ b ∧ b < a + n then some (Memory.get m b, Memory.get (Memory.writeN m a n v) b) else none := by
  induction n generalizing a v with
  | zero => rw [if_neg (by omega)]; rfl
  | succ n ih =>
    have hbyte : Memory.get (Memory.writeN m a (n + 1) v) a = BitVec.ofNat 8 v := by
      rw [Memory.writeN, Memory.get_writeN_other _ _ _ _ _ (.inl (Nat.lt_succ_self a)), Memory.get_set_same]
    rw [writtenBytes, NMap.find]
    by_cases hb : a = b
    · subst hb
      rw [if_pos rfl, if_pos (by omega), hbyte]
    · rw [if_neg hb, ih]
      by_cases hr : a + 1 ≤ b ∧ b < a + 1 + n
      · rw [if_pos hr, if_pos (by omega), Memory.writeN, get_writeN_congr m (Memory.set m a (BitVec.ofNat 8 v)) _ hr.1 hr.2]
      · rw [if_neg hr, if_neg (by omega)]

/-- The addresses of a write. -/
theorem mem_writtenBytes {m : Memory} {a n v : Nat} {x : Nat × Byte × Byte} (h : x ∈ writtenBytes m a n v) : a ≤ x.1 ∧ x.1 < a + n := by
  induction n generalizing a v with
  | zero => cases h
  | succ n ih =>
    rcases List.mem_cons.mp h with rfl | h
    · exact ⟨Nat.le_refl _, by omega⟩
    · have := ih h
      omega

theorem head_mem_writtenBytes (m : Memory) (a v : Nat) {n : Nat} (h : 1 ≤ n) :
    (a, Memory.get m a, BitVec.ofNat 8 v) ∈ writtenBytes m a n v := by
  obtain ⟨n, rfl⟩ := Nat.exists_eq_add_of_le' h
  exact List.mem_cons_self

/-- Bytes that are each seen as in a memory read as in it. -/
theorem seenN_eq_readN {t : State} {m : Memory} {skip : List Nat} {a n : Nat}
    (h : ∀ b, a ≤ b → b < a + n → t.byteSeen skip b = Memory.get m b) : t.seenN skip a n = Memory.readN m a n := by
  induction n generalizing a with
  | zero => rfl
  | succ n ih =>
    rw [State.seenN, Memory.readN, h a (by omega) (by omega), ih fun b h1 h2 => h b (by omega) (by omega)]

/-- One write of `n` bytes at a place within one location alone is not visible to every agent: memory was `m` before it. -/
structure OnlyWrite (t : State) (e : Stale) (m : Memory) (a n v : Nat) : Prop where
  stale : t.stale = [e]
  bytes : e.bytes = writtenBytes m a n v
  pos : 1 ≤ n
  fits : a % 8 + n ≤ 8

section
variable {t : State} {e : Stale} {m : Memory} {a n v : Nat}

theorem OnlyWrite.staleAt (h : OnlyWrite t e m a n v) : t.staleAt a = [e] := by
  rw [State.staleAt, h.stale, List.filter_cons_of_pos]
  · rfl
  · rw [List.any_eq_true]
    exact ⟨_, h.bytes ▸ head_mem_writtenBytes m a v h.pos, by simp⟩

/-- A read gets the old bytes where it passes the write over, and the new ones where it does not. -/
theorem OnlyWrite.read (h : OnlyWrite t e m a n v) (b : Agent) (k : Nat) (acq : Bool) :
    (t.readAs b a n k acq).1 = if e.id ∈ passedOver b [e] k then Memory.readN m a n else v % 256 ^ n := by
  have hread : (t.readAs b a n k acq).1 = t.seenN (passedOver b [e] k) a n := by
    simp only [State.readAs, h.staleAt, List.cons_ne_nil, if_false, List.reverse_singleton]
  have hbyte (x : Nat) (h1 : a ≤ x) (h2 : x < a + n) : t.byteSeen (passedOver b [e] k) x =
      if e.id ∈ passedOver b [e] k then Memory.get m x else Memory.get (Memory.writeN m a n v) x := by
    have hf : NMap.find e.bytes x = some (Memory.get m x, Memory.get (Memory.writeN m a n v) x) := by
      rw [h.bytes, find_writtenBytes, if_pos ⟨h1, h2⟩]
    unfold State.byteSeen
    by_cases hs : e.id ∈ passedOver b [e] k <;> simp [h.stale, hf, hs]
  rw [hread]
  split_ifs with hs
  · exact seenN_eq_readN fun x h1 h2 => by rw [hbyte x h1 h2, if_pos hs]
  · rw [← Memory.readN_writeN m a n v]
    exact seenN_eq_readN fun x h1 h2 => by rw [hbyte x h1 h2, if_neg hs]

/-- An agent reads a write that it cannot miss, or that it is not kept from seeing where it passes over none. -/
theorem OnlyWrite.sees (h : OnlyWrite t e m a n v) {b : Agent} {k : Nat} (hs : e.mustSee b = true ∨ e.hidden b = false ∧ k = 0) (acq : Bool) :
    (t.readAs b a n k acq).1 = v % 256 ^ n := by
  rw [h.read, if_neg]
  obtain hs | ⟨hh, rfl⟩ := hs
  · simp [passedOver, Stale.hidden, hs]
  · simp [passedOver, hh]

/-- An agent reads what was there before a write that it does not see, or that it may miss and passes over. -/
theorem OnlyWrite.misses (h : OnlyWrite t e m a n v) {b : Agent} {k : Nat} (hs : e.hidden b = true ∨ e.mustSee b = false ∧ k ≠ 0) (acq : Bool) :
    (t.readAs b a n k acq).1 = Memory.readN m a n := by
  rw [h.read, if_pos]
  obtain hs | ⟨hm, hk⟩ := hs
  · simp [passedOver, hs]
  · obtain ⟨k, rfl⟩ := Nat.exists_eq_succ_of_ne_zero hk
    by_cases hh : e.hidden b = true <;> simp [passedOver, hm, hh]

theorem OnlyWrite.not_peer (h : OnlyWrite t e m a n v) (ha : a < 2 ^ 44) {x : Nat × Byte × Byte} (hx : x ∈ e.bytes) : peerAddr x.1 = false := by
  rw [h.bytes] at hx
  have := mem_writtenBytes hx
  have := h.fits
  simp only [peerAddr, decide_eq_false_iff_not]
  omega

theorem OnlyWrite.bytes_ne (h : OnlyWrite t e m a n v) : e.bytes ≠ [] := by
  rw [h.bytes]
  exact List.ne_nil_of_mem (head_mem_writtenBytes m a v h.pos)

/-- A reader that has read a write reads nothing older there again (R117). -/
theorem OnlyWrite.rereads (h : OnlyWrite t e m a n v) (ha : a < 2 ^ 44) {b : Agent} (hh : e.hidden b = false) (k : Nat) :
    ((t.readAs b a n 0 false).2.readAs b a n k false).1 = v % 256 ^ n := by
  have hp : passedOver b [e] 0 = [] := by simp [passedOver, hh]
  have hnext : (t.readAs b a n 0 false).2.stale = [{ e with seen := if e.seen.contains b then e.seen else b :: e.seen }] := by
    have hl : peerAddr a = false := by simp only [peerAddr, decide_eq_false_iff_not]; omega
    have hne := h.bytes_ne
    simp only [State.readAs, h.staleAt, List.cons_ne_nil, if_false, List.reverse_singleton, hp, State.reveal, h.stale]
    simp [Machine.reveal, hl, hne]
  have h' : OnlyWrite (t.readAs b a n 0 false).2 { e with seen := if e.seen.contains b then e.seen else b :: e.seen } m a n v :=
    ⟨hnext, h.bytes, h.pos, h.fits⟩
  refine h'.sees (.inl ?_) false
  have hseen : (if e.seen.contains b then e.seen else b :: e.seen).contains b = true := by
    split_ifs with hc
    · exact hc
    · simp
  simp only [Stale.mustSee, hseen, Bool.or_true, Bool.true_or]

/-- A write that its writer has released at a scope that holds the reader gets to the reader (R118, R123). -/
theorem OnlyWrite.released (h : OnlyWrite t e m a n v) (hm : Memory.readN t.mem a n = v % 256 ^ n) (ha : a < 2 ^ 44) {b : Agent} {sc : Nat}
    (hb : inScopeOf sc (e.who.tile.getD 0) b = true) (k : Nat) :
    ((t.releaseAt e.who (fun x => x.who == e.who) sc []).readAs b a n k false).1 = v % 256 ^ n := by
  have hl : e.bytes.any (fun x => peerAddr x.1) = false := by
    rw [List.any_eq_false]
    exact fun x hx => by simp [h.not_peer ha hx]
  by_cases hsc : 3 ≤ sc
  · have hnone : (t.releaseAt e.who (fun x => x.who == e.who) sc []).stale = [] := by
      simp [State.releaseAt, hsc, State.reveal, Machine.reveal, h.stale]
    have hat : (t.releaseAt e.who (fun x => x.who == e.who) sc []).staleAt a = [] := by simp [State.staleAt, hnone]
    rw [State.readAs, if_pos hat, releaseAt_mem, hm]
  · have hone : (t.releaseAt e.who (fun x => x.who == e.who) sc []).stale =
        [{ e with vis := (sc, e.who.tile.getD 0) :: e.vis, marks := e.marks }] := by
      simp [State.releaseAt, hsc, h.stale, hl]
    have h' : OnlyWrite (t.releaseAt e.who (fun x => x.who == e.who) sc []) { e with vis := (sc, e.who.tile.getD 0) :: e.vis, marks := e.marks } m a n v :=
      ⟨hone, h.bytes, h.pos, h.fits⟩
    exact h'.sees (.inl (by simp [Stale.mustSee, hb])) false

end

/-- A write as it stands on the list once it has been posted. -/
def State.posted (s : State) (inst slot : Nat) (who : Agent) (un : Bool) (flag : Option Nat) (a n v : Nat) : Stale :=
  { id := s.nextId, inst := inst, who := who, slot := slot, bytes := writtenBytes s.mem a n v, un := un, flag := flag,
    vis := [], seen := [], obs := [], marks := [] }

theorem onlyWrite_postWrite {s : State} {pa n : Nat} (hs : s.stale = []) (hn : 1 ≤ n) (hf : redirect s.migs pa % 8 + n ≤ 8)
    (hb : s.barObject (redirect s.migs pa) = false) (inst slot : Nat) (who : Agent) (un : Bool) (flag : Option Nat) (v : Nat) :
    OnlyWrite (s.postWrite inst slot who un flag pa n v) (s.posted inst slot who un flag (redirect s.migs pa) n v) s.mem (redirect s.migs pa) n v where
  stale := by
    simp only [State.postWrite, hs, kept_of_noBar hb]
    rfl
  bytes := rfl
  pos := hn
  fits := hf

/-- Only its writer cannot miss a write just posted. -/
theorem mustSee_posted (s : State) (inst slot : Nat) (who : Agent) (un : Bool) (flag : Option Nat) (a n v : Nat) (b : Agent) :
    (s.posted inst slot who un flag a n v).mustSee b = (who == b) := by
  simp [Stale.mustSee, State.posted]

theorem visibility : Claims.PartVisibility := by
  intro s inst slot pa n v sc k w b un hst hn hf h44 hbar hbw
  have hw (un flag) := onlyWrite_postWrite hst hn hf hbar inst slot w un flag v
  have hb (un flag) : (s.posted inst slot w un flag (redirect s.migs pa) n v).mustSee b = false := by
    rw [mustSee_posted]
    simpa using Ne.symm hbw
  have hhid (un flag) : (s.posted inst slot w un flag (redirect s.migs pa) n v).hidden b =
      (un && !(s.posted inst slot w un flag (redirect s.migs pa) n v).flagged b) := by
    rw [Stale.hidden, hb un flag, Bool.not_false, Bool.and_true]
    rfl
  refine ⟨(hw un none).sees (.inl ((mustSee_posted ..).trans (by simp))) false, ?_, ?_, ?_, fun hsc => ?_⟩
  · rintro rfl
    have hseen := (hhid false none).trans (Bool.false_and _)
    exact ⟨(hw false none).sees (.inr ⟨hseen, rfl⟩) false, (hw false none).misses (.inr ⟨hb false none, by decide⟩) false,
      (hw false none).rereads h44 hseen 1⟩
  · rintro rfl
    exact (hw true none).misses (.inl ((hhid true none).trans rfl)) false
  · intro fs
    dsimp only
    split_ifs with hsc
    · exact (hw true (some fs)).sees (.inr ⟨(hhid true (some fs)).trans (by simpa [Stale.flagged, State.posted] using hsc), rfl⟩) false
    · exact (hw true (some fs)).misses (.inl ((hhid true (some fs)).trans (by simpa [Stale.flagged, State.posted] using hsc))) false
  · refine (hw un none).released ?_ h44 hsc k
    simp only [State.postWrite, kept_of_noBar hbar]
    exact Memory.readN_writeN ..

end Sys2Proof.Machine
end

section
namespace Sys2Proof.Machine
open State

/-! What a program's write leaves of memory (R99, R113, R116). -/

theorem length_unitAs (s : State) (u : Nat) (key : List Word) : (s.unitAs u key).length = 16 := by
  unfold State.unitAs
  dsimp only
  split
  · exact length_readBytes ..
  · split_ifs
    · exact length_readBytes ..
    · simp

section
variable {s s' : State} {a n v : Nat} {slot : Option Nat}

theorem get_tagUnit_other (key : List Word) {u b : Nat} (h : b / 16 ≠ u) : Memory.get (s.tagUnit key u).mem b = Memory.get s.mem b := by
  unfold State.tagUnit
  split
  · split_ifs
    · rfl
    · exact Memory.get_writeBytes_other _ _ _ _ (by rw [length_unitAs]; omega)
  · rfl

theorem get_tagUnits_other (key : List Word) {l : List Nat} {b : Nat} (h : b / 16 ∉ l) :
    Memory.get (l.foldl (fun s u => s.tagUnit key u) s).mem b = Memory.get s.mem b := by
  induction l generalizing s with
  | nil => rfl
  | cons u l ih =>
    rw [List.mem_cons, not_or] at h
    rw [List.foldl_cons, ih h.2, get_tagUnit_other key h.1]

/-- Units that take another key are those the access touches. -/
theorem get_keyTag_other {b : Nat} (h : b / 16 ∉ unitsOf a n) : Memory.get (s.keyTag a n slot).mem b = Memory.get s.mem b := by
  cases hk : s.keyFor a slot with
  | none => rw [keyTag_of_none hk]
  | some key => rw [keyTag_of_some hk, get_tagUnits_other key h]

/-- A barrier object lies in a vault, whose bytes stand under no key (R99). -/
theorem oneKey_of_barObject (h : s.barObject a = true) : Claims.oneKey s a n slot := by
  intro b k key _ _ _ hk
  have hv : vaultBase ≤ a := by
    simp only [State.barObject, Bool.and_eq_true, decide_eq_true_eq] at h
    exact h.1
  rw [State.keyFor, if_pos hv] at hk
  cases hk

theorem kept_keyTag (hn : 0 < n) : (s.keyTag a n slot).kept a n v = s.kept a n v := by
  have hb := sameBut_barObject (s.keyTag_spec a n slot).1 a
  cases h : s.barObject a with
  | false => rw [kept_of_noBar h, kept_of_noBar (hb.trans h)]
  | true => simp only [State.kept, hb, keyTag_mem (oneKey_of_barObject h) hn]

/-- Memory once a program has written `n` bytes of a value at a place under a key slot. -/
def State.programWrite (s : State) (a n v : Nat) (slot : Option Nat) : Memory := Memory.writeN (s.keyTag a n slot).mem a n (s.kept a n v)

theorem putPa_mem (s : State) (pa n v : Nat) (slot : Option Nat) : (s.putPa pa n v slot).mem = s.programWrite (redirect s.migs pa) n v slot := rfl

theorem postWrite_keyTag_mem (s : State) {n : Nat} (hn : 0 < n) (slot : Option Nat) (inst sl : Nat) (who : Agent) (un : Bool) (flag : Option Nat) (pa v : Nat) :
    ((s.keyTag (redirect s.migs pa) n slot).postWrite inst sl who un flag pa n v).mem = s.programWrite (redirect s.migs pa) n v slot := by
  have hm : (s.keyTag (redirect s.migs pa) n slot).migs = s.migs := (congrArg State.migs (s.keyTag_spec (redirect s.migs pa) n slot).1 :)
  simp only [State.postWrite, hm, kept_keyTag hn]
  rfl

/-- A byte of a barrier object that a write keeps (R113). -/
theorem get_kept {b : Nat} (h : s.barObject a = true) (h1 : a ≤ b) (h2 : b < a + n) (m : Memory) :
    ∃ x, Memory.get (Memory.writeN m a n (s.kept a n v)) b = barByte (a % 16 + (b - a)) (Memory.get s.mem b) x := by
  obtain ⟨i, rfl⟩ := Nat.exists_eq_add_of_le h1
  have hlen : ((bytesOfNat n v).zipIdx.map (fun b => barByte (a % 16 + b.2) (Memory.get s.mem (a + b.2)) b.1)).length = n := by
    rw [List.length_map, List.length_zipIdx, length_bytesOfNat]
  have hw := writeN_natOfBytes m a ((bytesOfNat n v).zipIdx.map (fun b => barByte (a % 16 + b.2) (Memory.get s.mem (a + b.2)) b.1))
  rw [hlen] at hw
  have hi : i < n := by omega
  refine ⟨(bytesOfNat n v)[i]'(by rw [length_bytesOfNat]; exact hi), ?_⟩
  rw [State.kept, if_pos h, hw, get_writeBytes _ _ _ (by rw [hlen]; exact hi), List.getD_eq_getElem _ _ (by rw [hlen]; exact hi)]
  simp

/-- What an access that wrote a value, or none, has left of memory (R99, R113, R116). -/
structure Written (s : State) (m : Memory) (a n : Nat) (slot v : Option Nat) : Prop where
  value : Claims.oneKey s a n slot → s.barObject a = false → Claims.wrote s.mem m a n v
  bytes : Claims.oneKey s a n slot → ∀ b, b < a ∨ a + n ≤ b → Memory.get m b = Memory.get s.mem b
  units : ∀ b, b / 16 < a / 16 ∨ (a + n - 1) / 16 < b / 16 → Memory.get m b = Memory.get s.mem b
  object : s.barObject a = true → a % 16 + n ≤ 16 → ∀ b, 2 ≤ b % 16 ∧ b % 16 < 5 ∨ 8 ≤ b % 16 ∧ b % 16 < 13 → Memory.get m b = Memory.get s.mem b

theorem written_none (s : State) (a n : Nat) (slot : Option Nat) : Written s s.mem a n slot none :=
  ⟨fun _ _ _ => rfl, fun _ _ _ => rfl, fun _ _ => rfl, fun _ _ _ _ => rfl⟩

theorem written_programWrite (hn : 0 < n) : Written s (s.programWrite a n v slot) a n slot (some v) := by
  have hbytes (h : Claims.oneKey s a n slot) (b : Nat) (hb : b < a ∨ a + n ≤ b) :
      Memory.get (s.programWrite a n v slot) b = Memory.get s.mem b := by
    rw [State.programWrite, Memory.get_writeN_other _ _ _ _ _ hb, keyTag_mem h hn]
  refine ⟨fun h hb => ⟨?_, hbytes h⟩, hbytes, fun b hb => ?_, fun hobj hfit b hb => ?_⟩
  · rw [State.programWrite, Memory.readN_writeN, kept_of_noBar hb]
  · rw [State.programWrite, Memory.get_writeN_other _ _ _ _ _ (by omega), get_keyTag_other (by rw [mem_unitsOf]; omega)]
  · by_cases hin : a ≤ b ∧ b < a + n
    · obtain ⟨x, hx⟩ := get_kept (v := v) hobj hin.1 hin.2 (s.keyTag a n slot).mem
      rw [State.programWrite, hx, show a % 16 + (b - a) = b % 16 by omega, barByte]
      rw [if_neg (by omega), if_neg (by omega), if_pos (by omega)]
    · exact hbytes (oneKey_of_barObject hobj) b (by omega)

/-- What agents have yet to see has no part in it. -/
theorem Written.of_staleOnly {m : Memory} {v : Option Nat} (h : Written s' m a n slot v) (hs : s.staleOnly s') : Written s m a n slot v := by
  have hm : s'.mem = s.mem := staleOnly_mem hs
  have hkeyed : s'.keyed = s.keyed := (congrArg State.keyed hs :)
  have hkeys : s'.keys = s.keys := (congrArg State.keys hs :)
  have hb : s'.barObject a = s.barObject a := (congrArg (fun t : State => t.barObject a) hs :)
  obtain ⟨h1, h2, h3, h4⟩ := h
  rw [hm] at h1 h2 h3 h4
  rw [hb] at h1 h4
  exact ⟨fun hk => h1 (oneKey_congr hkeyed hkeys hk), fun hk => h2 (oneKey_congr hkeyed hkeys hk), h3, h4⟩

end
end Sys2Proof.Machine
end

section
namespace Sys2Proof.Machine
open State

/-! A part of an access is performed (R116, R126, R260). -/

/-- A number of `n` bytes is the low half of its range where its double still lies in it. -/
theorem sgn_of_lt {n a : Nat} (hn : 1 ≤ n) (ha : a < 256 ^ n) : sgn (8 * n) a = if 2 * a < 256 ^ n then (a : Int) else (a : Int) - (256 ^ n : Nat) := by
  have hm : 2 ^ (8 * n) = 256 ^ n := by rw [Nat.pow_mul]
  have hh : 256 ^ n = 2 * 2 ^ (8 * n - 1) := by rw [← hm, ← Nat.pow_succ', show (8 * n - 1).succ = 8 * n by omega]
  rw [sgn, hm, Nat.mod_eq_of_lt ha]
  exact if_congr (by omega) rfl rfl

/-- What an atomic stores (R260): nothing where a compare fails. -/
theorem stored_amo (o : Amo) {p : Piece} (hn : 1 ≤ p.n) (old : Nat) : Claims.stored (.amo o) p old =
    if o = .cas ∧ old % 256 ^ p.n ≠ p.cmp % 256 ^ p.n then none else some (o.apply p.n old p.val p.cmp) := by
  have hpos : 0 < 256 ^ p.n := Nat.pow_pos (by decide)
  have ha := sgn_of_lt hn (Nat.mod_lt old hpos)
  have hb := sgn_of_lt hn (Nat.mod_lt p.val hpos)
  cases o with
  | min => simp only [Claims.stored, Amo.apply, ha, hb]; rfl
  | max => simp only [Claims.stored, Amo.apply, ha, hb]; rfl
  | cas =>
    by_cases hc : old % 256 ^ p.n = p.cmp % 256 ^ p.n <;> simp [Claims.stored, Amo.apply, hc]
  | _ => rfl

/-- Only memory, its keys, the writes that some agent may still miss, and the next number have changed. -/
def State.writesOnly (s s' : State) : Prop := { s' with mem := s.mem, stale := s.stale, keyed := s.keyed, nextId := s.nextId } = s

section
variable {s s' s'' : State} {r : Req} {p : Piece} {a v : Nat}

theorem writesOnly_trans (h : s.writesOnly s') (h' : s'.writesOnly s'') : s.writesOnly s'' := by
  have e := congrArg (fun t : State => { t with mem := s.mem, stale := s.stale, keyed := s.keyed, nextId := s.nextId }) h'
  exact e.trans h

theorem writesOnly_of_sameBut (h : s.sameBut s') : s.writesOnly s' := by
  have e := congrArg (fun t : State => { t with mem := s.mem, stale := s.stale, keyed := s.keyed, nextId := s.nextId }) h
  exact e

theorem writesOnly_of_staleOnly (h : s.staleOnly s') : s.writesOnly s' := by
  have e := congrArg (fun t : State => { t with mem := s.mem, stale := s.stale, keyed := s.keyed, nextId := s.nextId }) h
  exact e

theorem writesOnly_reqs (h : s.writesOnly s') : s'.reqs = s.reqs := (congrArg State.reqs h :)

theorem writesOnly_tile (h : s.writesOnly s') (g : Nat) : s'.tile g = s.tile g := (congrArg (fun t : State => t.tile g) h :)

theorem writesOnly_vault (h : s.writesOnly s') (u : Nat) : s'.vault u = s.vault u := (congrArg (fun t : State => t.vault u) h :)

/-- No party waits at a barrier in the 16 bytes of a place. -/
def State.noParty (s : State) (pa : Nat) : Prop := ∀ x ∈ (s.vault (homeOf (pa / 16 * 16))).parties, x.pa ≠ pa / 16 * 16

/-- A write where no party waits answers nobody. -/
theorem afterWrite_of_writesOnly (h : s.writesOnly s') (hp : s.noParty a) : s'.afterWrite a = s' :=
  afterWrite_of_noParty (by rw [writesOnly_vault h]; exact hp)

theorem writesOnly_putPa (s : State) (pa n v : Nat) (slot : Option Nat) : s.writesOnly (s.putPa pa n v slot) :=
  writesOnly_of_sameBut (s.putPa_spec pa n v slot).1

theorem writePiece_phys (hp : p.place = .phys a) (hpar : s.noParty a) :
    s.writesOnly (s.writePiece p v) ∧ (s.writePiece p v).mem = s.programWrite (redirect s.migs a) p.n v p.key := by
  simp only [State.writePiece, hp, afterWrite_of_writesOnly (writesOnly_putPa ..) hpar]
  exact ⟨writesOnly_putPa .., putPa_mem ..⟩

theorem storePiece_phys (hn : 0 < p.n) (hp : p.place = .phys a) (hpar : s.noParty a) :
    s.writesOnly (s.storePiece r p v) ∧ (s.storePiece r p v).mem = s.programWrite (redirect s.migs a) p.n v p.key := by
  have hpost (un : Bool) (flag : Option Nat) :
      s.writesOnly ((s.keyTag (redirect s.migs a) p.n p.key).postWrite r.inst r.slot r.who un flag a p.n v) :=
    writesOnly_trans (writesOnly_of_sameBut (s.keyTag_spec ..).1) rfl
  simp only [State.storePiece, hp]
  by_cases hk : p.kind = 1 ∨ p.kind = 2
  · rw [if_pos hk, afterWrite_of_writesOnly (hpost ..) hpar]
    exact ⟨hpost .., postWrite_keyTag_mem s hn ..⟩
  · rw [if_neg hk, afterWrite_of_writesOnly (writesOnly_putPa ..) hpar]
    exact ⟨writesOnly_putPa .., putPa_mem ..⟩

/-! The reads, acquires and releases of a part change what agents have yet to see, and nothing else. -/

theorem staleOnly_trans (h : s.staleOnly s') (h' : s'.staleOnly s'') : s.staleOnly s'' := by
  have e := congrArg (fun t : State => { t with stale := s.stale }) h'
  exact e.trans h

theorem staleOnly_loadPiece (s : State) (r : Req) (p : Piece) (k : Nat) : s.staleOnly (s.loadPiece r p k).2 := by
  unfold State.loadPiece
  split
  · exact rfl
  · exact staleOnly_readAs ..
  · exact rfl

theorem staleOnly_acquireBy (s : State) (r : Req) (mk : Mark) : s.staleOnly (s.acquireBy r mk) := by
  unfold State.acquireBy
  split_ifs <;> exact rfl

theorem staleOnly_releaseBy (s : State) (r : Req) (mk : Mark) : s.staleOnly (s.releaseBy r mk) := by
  unfold State.releaseBy State.releaseAt
  dsimp only
  split_ifs <;> exact rfl

/-- A part is read, and an acquire observes what its value was released with (R123). -/
def State.readPart (s : State) (r : Req) (p : Piece) (k : Nat) : State := (s.loadPiece r p k).2.acquireBy r (p.mark (s.loadPiece r p k).2)

theorem staleOnly_readPart (s : State) (r : Req) (p : Piece) (k : Nat) : s.staleOnly (s.readPart r p k) :=
  staleOnly_trans (staleOnly_loadPiece ..) (staleOnly_acquireBy ..)

/-- What performing a part reads: a store keeps nothing (R116). -/
def State.gotBy (s : State) (r : Req) (p : Piece) (k : Nat) : Nat := (s.loadPiece r p (if r.op = .load then k else 0)).1

theorem doPiece_load (ho : r.op = .load) (k : Nat) : s.doPiece r p k = (s.gotBy r p k, s.readPart r p k) := by
  simp only [State.doPiece, State.gotBy, State.readPart, ho, if_true]

theorem doPiece_store (ho : r.op = .store) (k : Nat) : s.doPiece r p k = (0, (s.storePiece r p p.val).releaseBy r (p.mark s)) := by
  simp only [State.doPiece, ho]

/-- An atomic stores its value, or nothing (R260). -/
def State.putStored (s : State) (p : Piece) : Option Nat → State
  | none => s
  | some v => s.writePiece p v

theorem doPiece_amo {o : Amo} (ho : r.op = .amo o) (hn : 1 ≤ p.n) (k : Nat) : s.doPiece r p k = (s.gotBy r p k,
    ((s.readPart r p 0).putStored p (Claims.stored r.op p (s.gotBy r p k))).releaseBy r (p.mark (s.readPart r p 0))) := by
  have hgot : s.gotBy r p k = (s.loadPiece r p 0).1 := by
    rw [State.gotBy, if_neg (by rw [ho]; exact ReqOp.noConfusion)]
  rw [hgot, ho, stored_amo o hn]
  simp only [State.doPiece, ho, Bool.and_eq_true, beq_iff_eq, bne_iff_ne]
  split_ifs <;> rfl

theorem plain_cases {op : ReqOp} (h : op.plain = true) : op = .load ∨ op = .store ∨ ∃ o, op = .amo o := by
  cases op <;> simp [ReqOp.plain] at h ⊢

/-- An atomic at a place in memory. -/
theorem putStored_phys (hn : 0 < p.n) (hp : p.place = .phys a) (hpar : s.noParty a) (x : Option Nat) :
    s.writesOnly (s.putStored p x) ∧ Written s (s.putStored p x).mem (redirect s.migs a) p.n p.key x := by
  cases x with
  | none => exact ⟨rfl, written_none ..⟩
  | some v =>
    obtain ⟨hw, hm⟩ := writePiece_phys (v := v) hp hpar
    exact ⟨hw, hm ▸ written_programWrite hn⟩

/-- A part at a place in memory (R116, R126). -/
theorem doPiece_phys (ho : r.op.plain = true) (hn : 1 ≤ p.n) (hp : p.place = .phys a) (hpar : s.noParty a) (k : Nat) :
    (s.doPiece r p k).1 = (if r.op = .store then 0 else s.gotBy r p k) ∧ s.writesOnly (s.doPiece r p k).2 ∧
      Written s (s.doPiece r p k).2.mem (redirect s.migs a) p.n p.key (Claims.stored r.op p (s.gotBy r p k)) := by
  obtain ho | ho | ⟨o, ho⟩ := plain_cases ho
  · have hs := staleOnly_readPart s r p k
    rw [doPiece_load ho, ho]
    exact ⟨rfl, writesOnly_of_staleOnly hs, (staleOnly_mem hs).symm ▸ written_none ..⟩
  · obtain ⟨hw, hm⟩ := storePiece_phys (r := r) (v := p.val) hn hp hpar
    rw [doPiece_store ho, ho]
    refine ⟨rfl, writesOnly_trans hw (writesOnly_of_staleOnly (staleOnly_releaseBy ..)), ?_⟩
    rw [releaseBy_mem, hm]
    exact written_programWrite hn
  · have hs := staleOnly_readPart s r p 0
    have hmigs : (s.readPart r p 0).migs = s.migs := (congrArg State.migs hs :)
    have hpar' : (s.readPart r p 0).noParty a := by
      rw [State.noParty, writesOnly_vault (writesOnly_of_staleOnly hs)]
      exact hpar
    obtain ⟨hw, hm⟩ := putStored_phys hn hp hpar' (Claims.stored r.op p (s.gotBy r p k))
    rw [hmigs] at hm
    rw [doPiece_amo ho hn]
    refine ⟨by rw [ho]; rfl, writesOnly_trans (writesOnly_of_staleOnly hs) (writesOnly_trans hw (writesOnly_of_staleOnly (staleOnly_releaseBy ..))), ?_⟩
    rw [releaseBy_mem]
    exact hm.of_staleOnly hs

/-- What an access of a scratchpad that wrote a value, or none, has left: memory and the other scratchpads stay. -/
structure SpadWritten (s s' : State) (g o n : Nat) (v : Option Nat) : Prop where
  reqs : s'.reqs = s.reqs
  mem : s'.mem = s.mem
  value : Claims.wrote (s.tile g).spad (s'.tile g).spad o n v
  other : ∀ h, h ≠ g → (s'.tile h).spad = (s.tile h).spad

theorem SpadWritten.of_staleOnly {g o n : Nat} {v : Option Nat} (h : s.staleOnly s') (h' : SpadWritten s' s'' g o n v) : SpadWritten s s'' g o n v where
  reqs := h'.reqs.trans (staleOnly_reqs h)
  mem := h'.mem.trans (staleOnly_mem h)
  value := staleOnly_tile h g ▸ h'.value
  other x hx := (h'.other x hx).trans (congrArg Tile.spad (staleOnly_tile h x))

theorem SpadWritten.then_staleOnly {g o n : Nat} {v : Option Nat} (h : SpadWritten s s' g o n v) (h' : s'.staleOnly s'') : SpadWritten s s'' g o n v where
  reqs := (staleOnly_reqs h').trans h.reqs
  mem := (staleOnly_mem h').trans h.mem
  value := (staleOnly_tile h' g).symm ▸ h.value
  other x hx := (congrArg Tile.spad (staleOnly_tile h' x)).trans (h.other x hx)

theorem spadWritten_none (s : State) (g o n : Nat) : SpadWritten s s g o n none := ⟨rfl, rfl, fun _ => rfl, fun _ _ => rfl⟩

theorem spadWritten_writeSp (s : State) (g o n v : Nat) : SpadWritten s (s.writeSp g o n v) g o n (some v) where
  reqs := rfl
  mem := rfl
  value := by
    rw [State.writeSp, tile_updTile_same]
    exact ⟨Memory.readN_writeN .., fun b hb => Memory.get_writeN_other _ _ _ _ _ hb⟩
  other h hh := congrArg Tile.spad (tile_updTile_other _ _ hh.symm)

theorem putStored_spad {g o : Nat} (hp : p.place = .spad g o) (x : Option Nat) : SpadWritten s (s.putStored p x) g o p.n x := by
  cases x with
  | none => exact spadWritten_none ..
  | some v =>
    simp only [State.putStored, State.writePiece, hp]
    exact spadWritten_writeSp ..

/-- A part in a scratchpad. -/
theorem doPiece_spad {g o : Nat} (ho : r.op.plain = true) (hn : 1 ≤ p.n) (hp : p.place = .spad g o) (k : Nat) :
    (s.doPiece r p k).1 = (if r.op = .store then 0 else s.gotBy r p k) ∧
      SpadWritten s (s.doPiece r p k).2 g o p.n (Claims.stored r.op p (s.gotBy r p k)) := by
  obtain ho | ho | ⟨b, ho⟩ := plain_cases ho
  · rw [doPiece_load ho, ho]
    exact ⟨rfl, (spadWritten_none ..).then_staleOnly (staleOnly_readPart ..)⟩
  · have hst : s.storePiece r p p.val = s.writeSp g o p.n p.val := by simp only [State.storePiece, hp]
    rw [doPiece_store ho, ho, hst]
    exact ⟨rfl, (spadWritten_writeSp ..).then_staleOnly (staleOnly_releaseBy ..)⟩
  · rw [doPiece_amo ho hn]
    exact ⟨by rw [ho]; rfl, .of_staleOnly (staleOnly_readPart ..) ((putStored_spad hp _).then_staleOnly (staleOnly_releaseBy ..))⟩

/-! What a part reads (R116, R117, R413). -/

theorem gotBy_spad {g o : Nat} (hp : p.place = .spad g o) (k : Nat) : s.gotBy r p k = Memory.readN (s.tile g).spad o p.n := by
  simp only [State.gotBy, State.loadPiece, hp]
  rfl

/-- Where no write of its location is still to be seen, a part reads the bytes of memory. -/
theorem gotBy_phys (hp : p.place = .phys a) (hs : ∀ e ∈ s.stale, ∀ b ∈ e.bytes, b.1 / 8 ≠ redirect s.migs a / 8) (k : Nat) :
    s.gotBy r p k = s.readUnder (redirect s.migs a) p.n p.key := by
  have hat : s.staleAt (redirect s.migs a) = [] := by
    simp only [State.staleAt, List.filter_eq_nil_iff, List.any_eq_true, beq_iff_eq, not_exists, not_and]
    exact hs
  simp only [State.gotBy, State.loadPiece, hp, State.readAs, hat, if_true]
  rfl

end

/-! The request once a part of it is performed. -/

/-- A part of a request is done; with its last part the request is performed (R116). -/
def State.partDone (s : State) (r : Req) (k : Nat) (p : Piece) (v : Nat) : State :=
  let s := s.updReq r.id (fun q => { q with pieces := q.pieces.set k { p with done := true, got := v } })
  (match s.req r.id with
    | some q => if q.allDone then (s.mended q).finish r.id 0 else s
    | none => s).progress r.inst

section
variable {s : State} {r : Req} {p : Piece} {k v : Nat}

theorem spad_wakeCtx (s : State) (g n c h : Nat) : ((s.wakeCtx g n c).tile h).spad = (s.tile h).spad := by
  unfold State.wakeCtx
  dsimp only
  split_ifs
  · exact spad_updCtx ..
  · rfl

theorem spad_settle {q : Req} (hq : s.req q.id = some q) (hc : q.counted = true) (h : Nat) : ((s.settle q.id).tile h).spad = (s.tile h).spad := by
  by_cases hw : ∃ g n c, q.who = .ctx g n c
  · obtain ⟨g, n, c, hw⟩ := hw
    rw [settle_ctx hq hc hw, spad_wakeCtx]
    split_ifs
    · exact spad_updCtx ..
    · rfl
  · rw [settle_of_not_ctx hq hc fun g n c hw' => hw ⟨g, n, c, hw'⟩]

theorem spad_finish {id : Nat} {q : Req} (hq : s.req id = some q) (hc : q.counted = true) (res : Word) (h : Nat) :
    ((s.finish id res).tile h).spad = (s.tile h).spad := by
  obtain rfl := id_of_req hq
  have hu : (s.updReq q.id (fun r => { r with phase := .done, res := res })).req q.id = some (q.answered res) := req_updReq_same (fun _ => rfl) hq
  simp only [State.finish, hq]
  unfold State.due
  split_ifs
  · exact spad_settle (q := q.answered res) hu hc h
  · rfl

/-- A request with one more part done. -/
def Req.withPart (r : Req) (k : Nat) (p : Piece) (v : Nat) : Req := { r with pieces := r.pieces.set k { p with done := true, got := v } }

theorem partDone_of_more (h : s.req r.id = some r) (hd : (r.withPart k p v).allDone = false) :
    s.partDone r k p v = (s.updReq r.id (fun q => q.withPart k p v)).progress r.inst := by
  have hu : (s.updReq r.id (fun q => q.withPart k p v)).req r.id = some (r.withPart k p v) := req_updReq_same (f := fun q => q.withPart k p v) (fun _ => rfl) h
  simp only [Req.withPart] at hu hd ⊢
  simp only [State.partDone, hu, hd, Bool.false_eq_true, if_false]

theorem partDone_of_last (h : s.req r.id = some r) (hd : (r.withPart k p v).allDone = true) : s.partDone r k p v =
    (((s.updReq r.id (fun q => q.withPart k p v)).mended (r.withPart k p v)).finish r.id 0).progress r.inst := by
  have hu : (s.updReq r.id (fun q => q.withPart k p v)).req r.id = some (r.withPart k p v) := req_updReq_same (f := fun q => q.withPart k p v) (fun _ => rfl) h
  simp only [Req.withPart] at hu hd ⊢
  simp only [State.partDone, hu, hd, if_true]

theorem mended_reqs (s : State) (q : Req) : (s.mended q).reqs = s.reqs := by
  unfold State.mended
  split_ifs <;> rfl

theorem tile_mended (s : State) (q : Req) (g : Nat) : (s.mended q).tile g = s.tile g := by
  unfold State.mended
  split_ifs <;> rfl

/-- The request after it: performed where no part is left. -/
theorem partDone_keeps (h : s.req r.id = some r) (hc : r.counted = true) : (s.partDone r k p v).req r.id =
      some { r with
        pieces := r.pieces.set k { p with done := true, got := v }
        phase := if (r.pieces.set k { p with done := true, got := v }).all (fun x => x.done) = true then .done else r.phase
        res := if (r.pieces.set k { p with done := true, got := v }).all (fun x => x.done) = true then 0 else r.res } ∧
    (s.partDone r k p v).mem = s.mem ∧ ∀ g, ((s.partDone r k p v).tile g).spad = (s.tile g).spad := by
  have hu : (s.updReq r.id (fun q => q.withPart k p v)).req r.id = some (r.withPart k p v) := req_updReq_same (f := fun q => q.withPart k p v) (fun _ => rfl) h
  by_cases hd : (r.pieces.set k { p with done := true, got := v }).all (fun x => x.done) = true
  · have hm : ((s.updReq r.id (fun q => q.withPart k p v)).mended (r.withPart k p v)).req r.id = some (r.withPart k p v) :=
      (req_congr (mended_reqs ..) _).trans hu
    rw [partDone_of_last h hd, if_pos hd, if_pos hd]
    refine ⟨?_, ?_, fun g => ?_⟩
    · rw [req_congr (progress_reqs ..), req_finish hm hc]
      rfl
    · rw [progress_mem, finish_mem, mended_mem]
      rfl
    · rw [State.progress, tile_updReg, spad_finish hm hc, tile_mended]
      rfl
  · rw [partDone_of_more h (Bool.eq_false_iff.mpr hd), if_neg hd, if_neg hd]
    refine ⟨?_, ?_, fun g => ?_⟩
    · rw [req_congr (progress_reqs ..), hu]
      rfl
    · rw [progress_mem]
      rfl
    · rw [State.progress, tile_updReg]
      rfl

/-- The next part of a plain access is performed at its home. -/
theorem exec_accessAtHome_part {q : Region} (h : s.req s.ev.id = some r) (hq : NMap.find s.regions r.inst = some q) (hl : q.live = true)
    (hw : r.phase = .wait) (ho : r.op.plain = true) (hnext : r.nextPiece s.ev.e = some (k, p)) (hmay : s.mayPerform r p = true)
    (hbad : r.op = .store ∨ s.partBad p = false) :
    exec .eAccessAtHome s = .next ((s.doPiece r p s.ev.x).2.partDone r k p (s.doPiece r p s.ev.x).1) := by
  have hhome : exec .eAccessAtHome s = .next (s.homePart r) := by
    show execAccessAtHome s = _
    obtain ho | ho | ⟨o, ho⟩ := plain_cases ho <;> simp only [execAccessAtHome, liveReq_of h hq hl, hw, ho, ne_eq, not_true_eq_false, if_false]
  have hgood : ¬ (r.op ≠ .store ∧ s.partBad p = true) := fun hc => hbad.elim hc.1 fun hb => by simp [hb] at hc
  rw [hhome, State.homePart]
  simp only [hnext, hmay, Bool.not_true, Bool.false_eq_true, if_false, if_neg hgood]
  rfl

end

/-- Settles O48: the next part is performed as its place and operation say, and the request keeps it. -/
theorem accessPerformed : Obligations.AccessPerformed := by
  refine ⟨visibility, fun s r q k p h hq hl hw ho hc hnext hn _ hmay hbad hpar => ?_⟩
  intro old ps all
  have hr : s.req r.id = some r := by rw [id_of_req h]; exact h
  have hx := exec_accessAtHome_part h hq hl hw ho hnext hmay hbad
  cases hp : p.place with
  | virt a => simp [State.mayPerform, hp] at hmay
  | phys a =>
    obtain ⟨hgot, hrest, hmem⟩ := doPiece_phys ho hn hp (hpar a hp) s.ev.x
    obtain ⟨hreq, hm, hspad⟩ := partDone_keeps (k := k) (p := p) (v := if r.op = .store then 0 else old) ((req_congr (writesOnly_reqs hrest) _).trans hr) hc
    have hread := gotBy_phys (s := s) (r := r) (k := s.ev.x) hp
    rw [hgot] at hx
    rw [← hm] at hmem
    refine ⟨_, hx, hreq, ?_, fun _ _ hg => nomatch hg⟩
    rintro _ ⟨rfl⟩
    exact ⟨hmem.value, hmem.bytes, hmem.units, hmem.object, fun hs => ⟨hread hs, fun same => (hread hs).trans (readUnder_of_oneKey same)⟩,
      fun g => (hspad g).trans (congrArg Tile.spad (writesOnly_tile hrest g))⟩
  | spad g o =>
    obtain ⟨hgot, hw⟩ := doPiece_spad (s := s) ho hn hp s.ev.x
    obtain ⟨hreq, hm, hspad⟩ := partDone_keeps (k := k) (p := p) (v := if r.op = .store then 0 else old) ((req_congr hw.reqs _).trans hr) hc
    rw [hgot] at hx
    refine ⟨_, hx, hreq, fun _ ha => (nomatch ha), ?_⟩
    rintro _ _ ⟨rfl⟩
    exact ⟨gotBy_spad hp _, (hspad g).symm ▸ hw.value, hm.trans hw.mem, fun y hy => (hspad y).trans (hw.other y hy)⟩

end Sys2Proof.Machine
end

section
namespace Sys2Proof.Machine
open State

/-! Rounding to an integer, and the median (R68, R139, R142, R143). -/

theorem nearest_neg {num c : Int} {den : Nat} (h : Claims.nearest num den c) : Claims.nearest (-num) den (-c) := by
  obtain ⟨h1, h2⟩ := h
  have he : (-c * den - -num).natAbs = (c * den - num).natAbs := by rw [← Int.natAbs_neg]; congr 1; ring
  rw [Claims.nearest, he]
  exact ⟨h1, fun h => by have := h2 h; omega⟩

/-- Whether RNE goes up from `q` with the remainder `r / den` (R58). -/
theorem up_rne_iff {neg : Bool} {q r den : Nat} (h : 0 < den) :
    Rnd.up .rne neg (q % 2 == 1) r den = true ↔ den < 2 * r ∨ den = 2 * r ∧ q % 2 = 1 := by
  by_cases hr : r = 0
  · simp only [Rnd.up, hr, if_true, Bool.false_eq_true, false_iff]
    omega
  · simp [Rnd.up, hr]

/-- RNE goes to the nearest integer, and of two to the even one. -/
theorem nearest_roundInt (neg : Bool) (num : Nat) {den : Nat} (h : 0 < den) :
    Claims.nearest (if neg = true then -(num : Int) else num) den (roundInt .rne neg num den) := by
  have hmag : Claims.nearest num den ((if Rnd.up .rne neg (num / den % 2 == 1) (num % den) den then num / den + 1 else num / den : Nat) : Int) := by
    have hlt := Nat.mod_lt num h
    have hdiv : (num : Int) = (num / den : Nat) * den + (num % den : Nat) := by exact_mod_cast (Nat.div_add_mod' num den).symm
    rw [hdiv]
    generalize num / den = q at *
    generalize num % den = r at *
    by_cases hc : Rnd.up .rne neg (q % 2 == 1) r den = true
    · have hd : (((q + 1 : Nat) : Int) * den - (q * den + r)).natAbs = den - r := by
        rw [show ((q + 1 : Nat) : Int) * den - (q * den + r) = den - r by push_cast; ring]
        omega
      have := (up_rne_iff h).1 hc
      rw [if_pos hc, Claims.nearest, hd]
      omega
    · have hd : ((q : Int) * den - (q * den + r)).natAbs = r := by
        rw [show (q : Int) * den - (q * den + r) = -r by ring]
        omega
      have := mt (up_rne_iff h).2 hc
      rw [if_neg hc, Claims.nearest, hd]
      omega
  cases neg with
  | false => exact hmag
  | true => exact nearest_neg hmag

theorem pow2_eq (k : Int) : pow2 k = (2 ^ k.toNat, 2 ^ (-k).toNat) := by
  unfold pow2
  split_ifs with h
  · rw [show (-k).toNat = 0 by omega, pow_zero]
  · rw [show k.toNat = 0 by omega, pow_zero]

/-- The fraction of a finite FP32 value has a denominator. -/
theorem val32_den_pos {v : Lane} {neg : Bool} {num den : Nat} (h : val32 v = .fin neg num den) : 0 < den := by
  simp only [val32, Fmt.decode, fmt32, if_true] at h
  split_ifs at h
  cases h
  exact pow2_den_pos _

theorem skValue_nan {q L : Int} {v : Lane} (h : val32 v = .nan) : skValue q L v = none := by simp only [skValue, h]

theorem skValue_inf {q L : Int} {v : Lane} {neg : Bool} (h : val32 v = .inf neg) :
    skValue q L v = some (if neg = true then -2 ^ 40 else 2 ^ 40) := by
  simp only [skValue, h]
  rfl

theorem skValue_fin {q L : Int} {v : Lane} {neg : Bool} {num den : Nat} (h : val32 v = .fin neg num den) :
    skValue q L v = some (roundInt .rne neg (num * 2 ^ (q - L).toNat) (den * 2 ^ (L - q).toNat)) := by
  simp only [skValue, h, FVal.scale, pow2_eq, neg_sub]

theorem signed_mul (neg : Bool) (num k : Nat) : (if neg = true then -((num * k : Nat) : Int) else (num * k : Nat)) = (if neg = true then -(num : Int) else num) * k := by
  cases neg <;> simp

theorem nearest_skValue {q L : Int} {v : Lane} {neg : Bool} {num den : Nat} (h : val32 v = .fin neg num den) : ∃ c, skValue q L v = some c ∧
    Claims.nearest ((if neg = true then -(num : Int) else num) * 2 ^ (q - L).toNat) (den * 2 ^ (L - q).toNat) c := by
  refine ⟨_, skValue_fin h, ?_⟩
  have hn := nearest_roundInt neg (num * 2 ^ (q - L).toNat) (Nat.mul_pos (val32_den_pos h) (Nat.two_pow_pos (L - q).toNat))
  rw [signed_mul] at hn
  exact_mod_cast hn

/-- A scaled counter is the integer nearest to the product. -/
theorem nearest_scaleCtr (c : Int) (neg : Bool) (num : Nat) {den : Nat} (h : 0 < den) :
    Claims.nearest (c * (if neg = true then -(num : Int) else num)) den (scaleCtr (.fin neg num den) c) := by
  have hn := nearest_roundInt (decide (c < 0) != neg) (c.natAbs * num) (den := 1 * den) (by omega)
  rw [signed_mul] at hn
  have hs : (if (decide (c < 0) != neg) = true then -(c.natAbs : Int) else c.natAbs) * num = c * (if neg = true then -(num : Int) else num) := by
    by_cases hc : c < 0
    · have ha : (c.natAbs : Int) = -c := by omega
      cases neg <;> simp [hc, ha]
    · have ha : (c.natAbs : Int) = c := by omega
      cases neg <;> simp [hc, ha]
  rw [hs, Nat.one_mul] at hn
  simpa only [scaleCtr, FVal.mul, Nat.one_mul] using hn

theorem insertInt_eq_orderedInsert (x : Int) (l : List Int) : insertInt x l = l.orderedInsert (· ≤ ·) x := by
  induction l with
  | nil => rfl
  | cons y l ih => simp only [insertInt, List.orderedInsert_cons, ih]

theorem medianInt_eq (l : List Int) : medianInt l = (l.insertionSort (· ≤ ·)).getD (l.length / 2) 0 := by
  have h : l.foldr insertInt [] = l.insertionSort (· ≤ ·) := by
    induction l with
    | nil => rfl
    | cons x l ih => rw [List.foldr_cons, ih, insertInt_eq_orderedInsert, List.insertionSort_cons]
  rw [medianInt, h]

theorem length_filter_of_drop {α : Type} {p : α → Bool} {l : List α} {j : Nat} (h : ∀ x ∈ l.drop j, p x = false) : (l.filter p).length ≤ j := by
  have he : l.filter p = (l.take j).filter p ++ (l.drop j).filter p := by rw [← List.filter_append, List.take_append_drop]
  have hn : (l.drop j).filter p = [] := List.filter_eq_nil_iff.2 fun x hx => by simp [h x hx]
  rw [he, hn, List.append_nil]
  exact (List.length_filter_le _ _).trans (by simp)

theorem length_filter_of_take {α : Type} {p : α → Bool} {l : List α} {j : Nat} (h : ∀ x ∈ l.take j, p x = false) : (l.filter p).length ≤ l.length - j := by
  have he : l.filter p = (l.take j).filter p ++ (l.drop j).filter p := by rw [← List.filter_append, List.take_append_drop]
  have hn : (l.take j).filter p = [] := List.filter_eq_nil_iff.2 fun x hx => by simp [h x hx]
  rw [he, hn, List.nil_append]
  exact (List.length_filter_le _ _).trans (by simp)

/-- In a rising list no number from an entry on lies below it, and none up to it lies above. -/
theorem sorted_sides {l : List Int} (h : l.Pairwise (· ≤ ·)) {j : Nat} (hj : j < l.length) :
    (∀ x ∈ l.drop j, decide (x < l[j]) = false) ∧ ∀ x ∈ l.take (j + 1), decide (l[j] < x) = false := by
  constructor
  · intro x hx
    obtain ⟨i, hi, rfl⟩ := List.mem_iff_getElem.1 hx
    rw [List.length_drop] at hi
    rw [List.getElem_drop, decide_eq_false_iff_not, not_lt]
    exact h.rel_get_of_le (a := ⟨j, hj⟩) (b := ⟨j + i, by omega⟩) (Fin.mk_le_mk.2 (by omega))
  · intro x hx
    obtain ⟨i, hi, rfl⟩ := List.mem_iff_getElem.1 hx
    rw [List.length_take] at hi
    rw [List.getElem_take, decide_eq_false_iff_not, not_lt]
    exact h.rel_get_of_le (a := ⟨i, by omega⟩) (b := ⟨j, hj⟩) (Fin.mk_le_mk.2 (by omega))

/-- The median is one of the numbers, and at most half of them lie on either side of it. -/
theorem medianInt_spec {l : List Int} (h : l ≠ []) : medianInt l ∈ l ∧ (l.filter (fun x => decide (x < medianInt l))).length ≤ l.length / 2 ∧
    (l.filter (fun x => decide (medianInt l < x))).length ≤ l.length / 2 := by
  have hpos := List.length_pos_iff.2 h
  have hp := List.perm_insertionSort (· ≤ ·) l
  have hs : (l.insertionSort (· ≤ ·)).Pairwise (· ≤ ·) := List.pairwise_insertionSort (· ≤ ·) l
  have hlen := hp.length_eq
  have hj : l.length / 2 < (l.insertionSort (· ≤ ·)).length := by omega
  have hm : medianInt l = (l.insertionSort (· ≤ ·))[l.length / 2] := by rw [medianInt_eq, List.getD_eq_getElem _ _ hj]
  refine ⟨?_, ?_, ?_⟩
  · rw [hm]
    exact hp.subset (List.getElem_mem hj)
  · rw [← (hp.filter _).length_eq, hm]
    exact length_filter_of_drop (sorted_sides hs hj).1
  · rw [← (hp.filter _).length_eq, hm]
    exact (length_filter_of_take (sorted_sides hs hj).2).trans (by omega)

end Sys2Proof.Machine
end

section
namespace Sys2Proof.Machine
open State

/-! A range of memory that a home unit has to itself (R99, R113): reads and writes within it are those of plain memory. -/

/-- No migration moves the range, no barrier lies in it, and an access of it under the key slot finds no other key. -/
structure State.OwnRange (s : State) (pa n : Nat) (key : Option Nat) : Prop where
  migs : s.migs = []
  clear : ∀ i, i < n → s.barObject (pa + i) = false
  oneKey : Claims.oneKey s pa n key

section
variable {s t : State} {pa n a m v : Nat} {key slot : Option Nat}

/-- What holds of the keys of a range holds of a part of it. -/
theorem oneKey_sub (h : Claims.oneKey s pa n key) (h1 : pa ≤ a) (h2 : a + m ≤ pa + n) : Claims.oneKey s a m key := by
  intro b k w hb hb' hf hk
  refine h b k w (by omega) (by omega) hf ?_
  unfold State.keyFor at hk ⊢
  split_ifs at hk
  rwa [if_neg (by omega)]

/-- A byte of the same unit stands under the same key. -/
theorem oneKey_unit {b : Nat} (h : Claims.oneKey s a 1 slot) (hu : b / 16 = a / 16) : Claims.oneKey s b 1 slot := by
  intro c k w hc hc' hf hk
  obtain rfl : c = b := by omega
  rw [hu] at hf
  refine h a k w le_rfl (by omega) hf ?_
  unfold State.keyFor vaultBase at hk ⊢
  split_ifs at hk
  rwa [if_neg (by omega)]

theorem State.OwnRange.putPa (h : s.OwnRange pa n key) (b k x : Nat) : (s.putPa b k x key).OwnRange pa n key where
  migs := (sameBut_migs (s.putPa_spec ..).1).trans h.migs
  clear i hi := (sameBut_barObject (s.putPa_spec ..).1 _).trans (h.clear i hi)
  oneKey := oneKey_writeUnder_other h.oneKey _

theorem State.OwnRange.putPa_mem (h : s.OwnRange pa n key) (h1 : pa ≤ a) (h2 : a + m ≤ pa + n) (hm : 0 < m) (v : Nat) :
    (s.putPa a m v key).mem = Memory.writeN s.mem a m v := by
  obtain ⟨i, rfl⟩ := Nat.exists_eq_add_of_le h1
  rw [Machine.putPa_mem, State.programWrite, redirect_of_none h.migs, kept_of_noBar (h.clear i (by omega)), keyTag_mem (oneKey_sub h.oneKey h1 h2) hm]

theorem State.OwnRange.readUnder (h : s.OwnRange pa n key) (h1 : pa ≤ a) (h2 : a + m ≤ pa + n) : s.readUnder a m key = Memory.readN s.mem a m :=
  readUnder_of_oneKey (oneKey_sub h.oneKey h1 h2)

end

/-! Bytes written one by one. -/

/-- Bytes are put in turn at an address and those after it. -/
def State.putEach (s : State) (pa : Nat) (bs : List Byte) (slot : Option Nat) : State :=
  bs.zipIdx.foldl (fun (s : State) (x : Byte × Nat) => s.putPa (pa + x.2) 1 x.1.toNat slot) s

section
variable {s : State} {pa n : Nat} {bs : List Byte} {slot : Option Nat}

theorem putEach_append (s : State) (pa : Nat) (bs : List Byte) (b : Byte) (slot : Option Nat) :
    s.putEach pa (bs ++ [b]) slot = (s.putEach pa bs slot).putPa (pa + bs.length) 1 b.toNat slot := by
  rw [State.putEach, List.zipIdx_append, List.foldl_append]
  simp [State.putEach]

theorem writeN_byte (m : Memory) (a : Nat) (b : Byte) : Memory.writeN m a 1 b.toNat = Memory.set m a b := by
  rw [Memory.writeN, Memory.writeN, BitVec.ofNat_toNat, BitVec.setWidth_eq]

/-- A byte that stands under the key of an access stays when the access begins. -/
theorem get_keyTag_of_oneKey {a b : Nat} (h : Claims.oneKey s b 1 slot) : Memory.get (s.keyTag a 1 slot).mem b = Memory.get s.mem b := by
  by_cases hu : a / 16 = b / 16
  · rw [keyTag_mem (oneKey_unit h hu) Nat.one_pos]
  · exact get_keyTag_other (by rw [mem_unitsOf]; omega)

/-- What the bytes put leave, whatever keys stood there. -/
structure EachPut (s t : State) (pa : Nat) (bs : List Byte) (slot : Option Nat) : Prop where
  same : s.sameBut t
  bytes : ∀ i, i < bs.length → Memory.get t.mem (pa + i) = bs.getD i 0
  keys : ∀ i, i < bs.length → Claims.oneKey t (pa + i) 1 slot

theorem eachPut_putEach (hm : s.migs = []) (hc : ∀ i, i < bs.length → s.barObject (pa + i) = false) : EachPut s (s.putEach pa bs slot) pa bs slot := by
  induction bs using List.reverseRecOn with
  | nil => exact ⟨rfl, fun i hi => absurd hi (Nat.not_lt_zero i), fun i hi => absurd hi (Nat.not_lt_zero i)⟩
  | append_singleton bs b ih =>
    simp only [List.length_append, List.length_singleton] at hc
    obtain ⟨hsame, hbytes, hkeys⟩ := ih fun i hi => hc i (by omega)
    rw [putEach_append]
    generalize s.putEach pa bs slot = t at *
    have hmig : t.migs = [] := (sameBut_migs hsame).trans hm
    have hmem : (t.putPa (pa + bs.length) 1 b.toNat slot).mem = Memory.set (t.keyTag (pa + bs.length) 1 slot).mem (pa + bs.length) b := by
      rw [putPa_mem, redirect_of_none hmig, State.programWrite, kept_of_noBar ((sameBut_barObject hsame _).trans (hc _ (by omega))), writeN_byte]
    refine ⟨State.sameBut_trans hsame (t.putPa_spec ..).1, fun i hi => ?_, fun i hi => ?_⟩
    · rw [List.length_append, List.length_singleton] at hi
      rw [hmem, Memory.get_set]
      by_cases hl : i = bs.length
      · subst hl
        simp
      · have hi' : i < bs.length := by omega
        rw [if_neg (by omega), get_keyTag_of_oneKey (hkeys i hi'), hbytes i hi', List.getD_append _ _ _ _ hi']
    · rw [List.length_append, List.length_singleton] at hi
      by_cases hl : i = bs.length
      · have hk := oneKey_writeUnder t (redirect t.migs (pa + bs.length)) 1 (t.kept (redirect t.migs (pa + bs.length)) 1 b.toNat) slot
        rw [redirect_of_none hmig] at hk
        rw [hl, State.putPa, redirect_of_none hmig]
        exact hk
      · exact oneKey_writeUnder_other (hkeys i (by omega)) _

/-- In a range that the writer has to itself, the other bytes stay. -/
theorem ownRange_putEach (h : s.OwnRange pa n slot) (hn : bs.length ≤ n) : (s.putEach pa bs slot).OwnRange pa n slot ∧
    ∀ b, b < pa ∨ pa + bs.length ≤ b → Memory.get (s.putEach pa bs slot).mem b = Memory.get s.mem b := by
  induction bs using List.reverseRecOn with
  | nil => exact ⟨h, fun _ _ => rfl⟩
  | append_singleton bs b ih =>
    simp only [List.length_append, List.length_singleton] at hn ⊢
    obtain ⟨hown, hother⟩ := ih (by omega)
    rw [putEach_append]
    refine ⟨hown.putPa .., fun c hc => ?_⟩
    rw [hown.putPa_mem (by omega) (by omega) Nat.one_pos, Memory.get_writeN_other _ _ _ _ _ (by omega), hother c (by omega)]

theorem putBytes_mem (s : State) (pa : Nat) (bs : List Byte) (slot : Option Nat) : (s.putBytes pa bs slot).mem = (s.putEach pa bs slot).mem := rfl

end

/-! Fields of bytes in memory. -/

section
variable {α β : Type}

theorem readN_eq_fieldN {m : Memory} {a : Nat} {bs : List Byte} (h : ∀ i, i < bs.length → Memory.get m (a + i) = bs.getD i 0) {off n : Nat}
    (hn : off + n ≤ bs.length) : Memory.readN m (a + off) n = fieldN bs off n := by
  induction n generalizing off with
  | zero => simp [Memory.readN, fieldN, natOfBytes]
  | succ n ih =>
    have hlt : off < bs.length := by omega
    have hf : fieldN bs off (n + 1) = bs[off].toNat + 256 * fieldN bs (off + 1) n := by
      rw [fieldN, List.drop_eq_getElem_cons hlt, List.take_succ_cons, natOfBytes, fieldN]
    rw [hf, Memory.readN, Nat.add_assoc, ih (by omega), h off hlt, List.getD_eq_getElem _ _ hlt]

theorem drop_flatMap {f : α → List β} {w : Nat} {l : List α} (hf : ∀ x ∈ l, (f x).length = w) (k : Nat) :
    (l.flatMap f).drop (w * k) = (l.drop k).flatMap f := by
  induction l generalizing k with
  | nil => simp
  | cons x l ih =>
    cases k with
    | zero => rfl
    | succ k =>
      rw [List.flatMap_cons, List.drop_succ_cons, ← ih (fun y hy => hf y (List.mem_cons_of_mem _ hy)) k, Nat.mul_succ, Nat.add_comm, ← List.drop_drop,
        ← hf x List.mem_cons_self, List.drop_left]

theorem length_flatMap_of_eq {f : α → List β} {w : Nat} {l : List α} (hf : ∀ x ∈ l, (f x).length = w) : (l.flatMap f).length = w * l.length := by
  rw [List.length_flatMap, List.map_congr_left hf, List.map_const', List.sum_replicate, smul_eq_mul, Nat.mul_comm]

/-- A field of the bytes of records of one length lies in its record. -/
theorem fieldN_flatMap {f : α → List Byte} {w : Nat} {l : List α} (hf : ∀ x ∈ l, (f x).length = w) {k off n : Nat} (hk : k < l.length)
    (hn : off + n ≤ w) : fieldN (l.flatMap f) (w * k + off) n = fieldN (f l[k]) off n := by
  have hlen := hf l[k] (List.getElem_mem hk)
  rw [fieldN, ← List.drop_drop, drop_flatMap hf, List.drop_eq_getElem_cons hk, List.flatMap_cons, List.drop_append_of_le_length (by omega),
    List.take_append_of_le_length (by rw [List.length_drop]; omega), fieldN]

theorem fieldN_bytesOfNat (n v : Nat) : fieldN (bytesOfNat n v) 0 n = v % 256 ^ n := by
  rw [fieldN, List.drop_zero, List.take_of_length_le (length_bytesOfNat n v).le, natOfBytes_bytesOfNat]

theorem fieldN_append_left {xs : List Byte} (ys : List Byte) {n : Nat} (h : xs.length = n) : fieldN (xs ++ ys) 0 n = fieldN xs 0 n := by
  rw [fieldN, fieldN, List.drop_zero, List.drop_zero, List.take_append_of_le_length h.ge]

theorem fieldN_append_right {xs : List Byte} (ys : List Byte) (n : Nat) : fieldN (xs ++ ys) xs.length n = fieldN ys 0 n := by
  rw [fieldN, fieldN, List.drop_left, List.drop_zero]

end
end Sys2Proof.Machine
end

section
namespace Sys2Proof.Machine
open State

/-! Headers, hashes and counters of a sketch (R134 to R138). -/

/-- What a valid header bounds (R135). -/
structure Sk.Valid (k : Sk) : Prop where
  rows : 0 < k.d
  rows_lt : k.d < 8
  lgw : k.lgw ≤ 26

theorem parseSk_valid {bs : List Byte} {k : Sk} (h : parseSk bs = some k) : k.Valid := by
  simp only [parseSk] at h
  split_ifs at h with hc
  cases h
  simp only [not_or] at hc
  obtain ⟨hd, -, hl, -⟩ := hc
  have hlt : bitsOf (word64 bs (8 * 0)) 2 0 < 8 := by
    unfold bitsOf
    omega
  exact ⟨by dsimp only; omega, hlt, by dsimp only; omega⟩

section
variable {s : State} {r : Req} {pa : Nat} {k : Sk}

theorem skAt_valid (h : s.skAt r pa = some k) : k.Valid ∧ k.key = r.key := by
  simp only [State.skAt, Option.map_eq_some_iff] at h
  obtain ⟨j, hj, rfl⟩ := h
  obtain ⟨h1, h2, h3⟩ := parseSk_valid hj
  exact ⟨⟨h1, h2, h3⟩, rfl⟩

end

/-- The hash of an index in a row (R138). -/
def Sk.hashOf (k : Sk) (row i : Nat) : Nat := (i % 2 ^ 32 * (k.seeds.getD row (0, 0)).1 + (k.seeds.getD row (0, 0)).2) % 2 ^ 32
/-- Its bucket. -/
def Sk.bucket (k : Sk) (row i : Nat) : Nat := k.hashOf row i / 2 ^ (32 - k.lgw)
/-- Its sign. -/
def Sk.sign (k : Sk) (row i : Nat) : Int := if (k.hashOf row i).testBit (31 - k.lgw) = true then -1 else 1

section
variable {k : Sk} {row b i n : Nat}

theorem hash_eq (k : Sk) (row i : Nat) : k.hash row i = (k.bucket row i, k.sign row i) := by
  simp only [Sk.hash, Sk.bucket, Sk.sign, Sk.hashOf, Nat.testBit_eq_decide_div_mod_eq, decide_eq_true_eq]

theorem width_pos (k : Sk) : 0 < k.width := Nat.two_pow_pos _

theorem bucket_lt (h : k.Valid) (row i : Nat) : k.bucket row i < k.width := by
  have hl := h.lgw
  have he : 2 ^ 32 = k.width * 2 ^ (32 - k.lgw) := by rw [Sk.width, ← pow_add]; congr 1; omega
  rw [Sk.bucket, Nat.div_lt_iff_lt_mul (Nat.two_pow_pos _), ← he]
  exact Nat.mod_lt _ (Nat.two_pow_pos _)

theorem index_div (row : Nat) (hb : b < k.width) : (row * k.width + b) / k.width = row := by
  rw [Nat.mul_comm, Nat.mul_add_div (width_pos k), Nat.div_eq_of_lt hb, Nat.add_zero]

theorem index_lt (hr : row < k.d) (hb : b < k.width) : row * k.width + b < k.count := by
  have h := Nat.mul_le_mul_right k.width (Nat.succ_le_of_lt hr)
  rw [Nat.succ_mul] at h
  exact (Nat.add_lt_add_left hb _).trans_le h

theorem row_lt (h : n < k.count) : n / k.width < k.d := (Nat.div_lt_iff_lt_mul (width_pos k)).2 h

/-- A counter lies in the sketch, past its header. -/
theorem ctrAt_mem (pa : Nat) (h : n < k.count) : pa + 64 ≤ ctrAt pa n ∧ ctrAt pa n + 4 ≤ pa + k.bytes := by
  unfold ctrAt Sk.bytes
  omega

end

/-! The flags of a header (R135). -/

theorem getLsbD_orBit (w : Word) {j : Nat} (hj : j < 64) (b : Bool) (i : Nat) : (orBit w j b).getLsbD i = (w.getLsbD i || (b && decide (j = i))) := by
  cases b with
  | false => simp [orBit]
  | true =>
    rw [orBit, if_pos rfl, BitVec.getLsbD_or, BitVec.getLsbD_ofNat, Nat.testBit_two_pow]
    by_cases h : j = i
    · subst h; simp [hj]
    · simp [h]

/-! One counter is written, saturating (R139, R143). -/

theorem satInt_eq_clamp (t : Int) : satInt t (-(2 ^ 31 : Nat)) ((2 ^ 31 : Nat) - 1) = Claims.clamp t := by
  unfold satInt Claims.clamp
  split_ifs <;> omega

theorem sgn_clamp (t : Int) : sgn 32 ((BitVec.ofInt 32 (Claims.clamp t)).toNat % 256 ^ 4) = Claims.clamp t := by
  have h : -2 ^ 31 ≤ Claims.clamp t ∧ Claims.clamp t < 2 ^ 31 := by unfold Claims.clamp; omega
  generalize Claims.clamp t = c at h
  rw [BitVec.toNat_ofInt]
  unfold sgn
  split_ifs <;> omega

section
variable {s t : State} {pa n : Nat} {k : Sk} {w w' : Word} {v : Int}

theorem setCtr_eq (s : State) (pa : Nat) (k : Sk) (n : Nat) (t : Int) : s.setCtr pa k n t =
    (Claims.clamp t != t, s.putPa (ctrAt pa n) 4 (BitVec.ofInt 32 (Claims.clamp t)).toNat k.key) := by
  simp only [State.setCtr, satInt_eq_clamp]

theorem ctr_eq_readN (h : s.OwnRange pa k.bytes k.key) (hn : n < k.count) : s.ctr k.key pa n = sgn 32 (Memory.readN s.mem (ctrAt pa n) 4) := by
  have := ctrAt_mem pa hn
  rw [State.ctr, redirect_of_none h.migs, h.readUnder (by omega) (by omega)]

/-- A counter in memory depends on its own bytes alone. -/
theorem ctr_congr (h : s.OwnRange pa k.bytes k.key) (h' : t.OwnRange pa k.bytes k.key) (hn : n < k.count)
    (hm : ∀ b, ctrAt pa n ≤ b → b < ctrAt pa n + 4 → Memory.get t.mem b = Memory.get s.mem b) : t.ctr k.key pa n = s.ctr k.key pa n := by
  rw [ctr_eq_readN h hn, ctr_eq_readN h' hn, Memory.readN_congr _ _ hm]

theorem get_setCtr_other (h : s.OwnRange pa k.bytes k.key) (hn : n < k.count) {b : Nat} (hb : b < ctrAt pa n ∨ ctrAt pa n + 4 ≤ b) :
    Memory.get (s.setCtr pa k n v).2.mem b = Memory.get s.mem b := by
  have := ctrAt_mem pa hn
  rw [setCtr_eq, h.putPa_mem (by omega) (by omega) (by omega), Memory.get_writeN_other _ _ _ _ _ hb]

theorem ownRange_setCtr (h : s.OwnRange pa k.bytes k.key) (n : Nat) (v : Int) : (s.setCtr pa k n v).2.OwnRange pa k.bytes k.key := by
  rw [setCtr_eq]
  exact h.putPa ..

theorem ctr_setCtr (h : s.OwnRange pa k.bytes k.key) (hn : n < k.count) {m : Nat} (hm : m < k.count) :
    (s.setCtr pa k n v).2.ctr k.key pa m = if m = n then Claims.clamp v else s.ctr k.key pa m := by
  have hc := ctrAt_mem pa hn
  split_ifs with he
  · subst he
    rw [ctr_eq_readN (ownRange_setCtr h ..) hm, setCtr_eq, h.putPa_mem (by omega) (by omega) (by omega), Memory.readN_writeN, sgn_clamp]
  · exact ctr_congr h (ownRange_setCtr h ..) hm fun b h1 h2 => get_setCtr_other h hn (by unfold ctrAt at *; omega)

/-! A pass over some of the counters: each is rewritten from what it was, and one that clamps sets the flag of its row. -/

/-- Rewrite one counter. -/
def Sk.rewrite (k : Sk) (pa : Nat) (a : Word × State) (x : Nat × (Int → Int)) : Word × State :=
  (orBit a.1 (16 + x.1 / k.width) (a.2.setCtr pa k x.1 (x.2 (a.2.ctr k.key pa x.1))).1, (a.2.setCtr pa k x.1 (x.2 (a.2.ctr k.key pa x.1))).2)

/-- What a pass leaves: the counters it names rewritten, the others and all other bytes as they were. -/
structure Passed (s t : State) (w w' : Word) (pa : Nat) (k : Sk) (l : List (Nat × (Int → Int))) : Prop where
  own : t.OwnRange pa k.bytes k.key
  other : ∀ b, b < pa + 64 ∨ pa + k.bytes ≤ b → Memory.get t.mem b = Memory.get s.mem b
  named : ∀ x ∈ l, t.ctr k.key pa x.1 = Claims.clamp (x.2 (s.ctr k.key pa x.1))
  rest : ∀ n, n < k.count → n ∉ l.map Prod.fst → t.ctr k.key pa n = s.ctr k.key pa n
  flags : ∀ j, w'.getLsbD j = true ↔ w.getLsbD j = true ∨ ∃ x ∈ l, 16 + x.1 / k.width = j ∧
    Claims.clamp (x.2 (s.ctr k.key pa x.1)) ≠ x.2 (s.ctr k.key pa x.1)

theorem passed_rewrites (hk : k.Valid) (h : s.OwnRange pa k.bytes k.key) (w : Word) {l : List (Nat × (Int → Int))} (hl : ∀ x ∈ l, x.1 < k.count)
    (hnd : (l.map Prod.fst).Nodup) : Passed s (l.foldl (k.rewrite pa) (w, s)).2 w (l.foldl (k.rewrite pa) (w, s)).1 pa k l := by
  induction l using List.reverseRecOn with
  | nil => exact ⟨h, fun _ _ => rfl, fun x hx => absurd hx List.not_mem_nil, fun _ _ _ => rfl, fun j => by simp⟩
  | append_singleton l x ih =>
    rw [List.map_append, List.map_singleton, List.nodup_append] at hnd
    obtain ⟨hnd, -, hx⟩ := hnd
    have hfresh : x.1 ∉ l.map Prod.fst := fun hm => hx _ hm _ (List.mem_singleton.2 rfl) rfl
    have hxc := hl x (by simp)
    have hrow := row_lt hxc
    have h8 := hk.rows_lt
    obtain ⟨hown, hother, hnamed, hrest, hflags⟩ := ih (fun y hy => hl y (List.mem_append_left _ hy)) hnd
    rw [List.foldl_append, List.foldl_cons, List.foldl_nil]
    generalize l.foldl (k.rewrite pa) (w, s) = a at *
    have hold := hrest x.1 hxc hfresh
    have hset := fun {m} => ctr_setCtr (v := x.2 (s.ctr k.key pa x.1)) hown hxc (m := m)
    simp only [Sk.rewrite, hold]
    refine ⟨ownRange_setCtr hown .., fun b hb => ?_, fun y hy => ?_, fun n hn hnot => ?_, fun j => ?_⟩
    · have := ctrAt_mem pa hxc
      rw [get_setCtr_other hown hxc (by omega), hother b hb]
    · rw [List.mem_append, List.mem_singleton] at hy
      obtain hy | rfl := hy
      · rw [hset (hl y (List.mem_append_left _ hy)), if_neg, hnamed y hy]
        exact fun he => hfresh (he ▸ List.mem_map_of_mem hy)
      · rw [hset hxc, if_pos rfl]
    · rw [List.map_append, List.mem_append, not_or, List.map_singleton, List.mem_singleton] at hnot
      rw [hset hn, if_neg hnot.2, hrest n hn hnot.1]
    · rw [getLsbD_orBit _ (by omega), setCtr_eq, Bool.or_eq_true, hflags, or_assoc]
      simp only [List.mem_append, List.mem_singleton, or_and_right, exists_or, exists_eq_left, Bool.and_eq_true, bne_iff_ne, ne_eq, decide_eq_true_eq]
      rw [and_comm (a := ¬_)]

/-- Rewriting every counter is a pass over all of them. -/
theorem passed_mapCtrs (hk : k.Valid) (h : s.OwnRange pa k.bytes k.key) (w : Word) (g : Nat → Int → Int) :
    Passed s (s.mapCtrs pa k w (fun t n => g n (t.ctr k.key pa n))).2 w (s.mapCtrs pa k w (fun t n => g n (t.ctr k.key pa n))).1 pa k
      ((List.range k.count).map (fun n => (n, g n))) := by
  have he : s.mapCtrs pa k w (fun t n => g n (t.ctr k.key pa n)) = ((List.range k.count).map (fun n => (n, g n))).foldl (k.rewrite pa) (w, s) := by
    rw [List.foldl_map]
    rfl
  rw [he]
  refine passed_rewrites hk h w ?_ ?_
  · simp
  · rw [List.map_map, Function.comp_def, List.map_id']
    exact List.nodup_range

/-- What a pass over all counters leaves. -/
structure AllPassed (s t : State) (w w' : Word) (pa : Nat) (k : Sk) (c : Nat → Int) : Prop where
  own : t.OwnRange pa k.bytes k.key
  other : ∀ b, b < pa + 64 ∨ pa + k.bytes ≤ b → Memory.get t.mem b = Memory.get s.mem b
  ctr : ∀ n, n < k.count → t.ctr k.key pa n = Claims.clamp (c n)
  row : ∀ row, row < k.d → (w'.getLsbD (16 + row) = true ↔ w.getLsbD (16 + row) = true ∨ ∃ n, n < k.count ∧ n / k.width = row ∧ Claims.clamp (c n) ≠ c n)
  rest : ∀ j, j < 16 ∨ 23 ≤ j → w'.getLsbD j = w.getLsbD j

theorem allPassed_mapCtrs (hk : k.Valid) (h : s.OwnRange pa k.bytes k.key) (w : Word) (g : Nat → Int → Int) {c : Nat → Int}
    (hc : ∀ n, n < k.count → g n (s.ctr k.key pa n) = c n) :
    AllPassed s (s.mapCtrs pa k w (fun t n => g n (t.ctr k.key pa n))).2 w (s.mapCtrs pa k w (fun t n => g n (t.ctr k.key pa n))).1 pa k c := by
  obtain ⟨hown, hother, hnamed, -, hflags⟩ := passed_mapCtrs hk h w g
  refine ⟨hown, hother, fun n hn => ?_, fun row _ => ?_, fun j hj => ?_⟩
  · rw [← hc n hn]
    exact hnamed (n, g n) (List.mem_map_of_mem (List.mem_range.2 hn))
  · rw [hflags]
    simp only [List.mem_map, List.mem_range, exists_exists_and_eq_and, Nat.add_left_cancel_iff]
    refine or_congr Iff.rfl (exists_congr fun n => and_congr_right fun hn => ?_)
    rw [hc n hn]
  · rw [Bool.eq_iff_iff, hflags]
    refine or_iff_left ?_
    rintro ⟨x, hx, hj', -⟩
    obtain ⟨n, hn, rfl⟩ := List.mem_map.1 hx
    have hrow : n / k.width < k.d := row_lt (List.mem_range.1 hn)
    have h8 := hk.rows_lt
    replace hj' : 16 + n / k.width = j := hj'
    generalize n / k.width = row at hj' hrow
    omega

end

end Sys2Proof.Machine
end

section
namespace Sys2Proof.Machine
open State

/-! The operations on a sketch (R139, R142, R143). -/

/-- What an operation leaves of a sketch: its header word, its counters, and every byte outside it as it was. -/
structure SkLeft (s t : State) (pa : Nat) (k : Sk) (w : Word) (c : Nat → Int) : Prop where
  word : BitVec.ofNat 64 (t.readUnder pa 8 k.key) = w
  ctr : ∀ n, n < k.count → t.ctr k.key pa n = c n
  apart : ∀ b, b < pa ∨ pa + k.bytes ≤ b → Memory.get t.mem b = Memory.get s.mem b

section
variable {s t : State} {pa : Nat} {k : Sk} {w w' : Word}

/-- The header's first word is written when the counters are. -/
theorem skLeft_setSk0 (h : t.OwnRange pa k.bytes k.key) (ho : ∀ b, b < pa + 64 ∨ pa + k.bytes ≤ b → Memory.get t.mem b = Memory.get s.mem b) (w : Word) :
    SkLeft s (t.setSk0 pa k w) pa k w (fun n => t.ctr k.key pa n) := by
  have hb : 64 ≤ k.bytes := Nat.le_add_right ..
  have hmem : (t.setSk0 pa k w).mem = Memory.writeN t.mem pa 8 w.toNat := h.putPa_mem le_rfl (by omega) (by omega) _
  have hown : (t.setSk0 pa k w).OwnRange pa k.bytes k.key := h.putPa ..
  refine ⟨?_, fun n hn => ctr_congr h hown hn fun b h1 h2 => ?_, fun b hb' => ?_⟩
  · rw [hown.readUnder le_rfl (by omega), hmem, Memory.readN_writeN, Nat.mod_eq_of_lt (w.isLt.trans_eq (by norm_num)), BitVec.ofNat_toNat, BitVec.setWidth_eq]
  · have := ctrAt_mem pa hn
    rw [hmem, Memory.get_writeN_other _ _ _ _ _ (by omega)]
  · rw [hmem, Memory.get_writeN_other _ _ _ _ _ (by omega), ho b (by omega)]

/-! `sk.add`: the lanes in their order, each to every row (R139). -/

/-- What a lane makes of counter `b` of a row, and of whether it has clamped. -/
def Sk.step (k : Sk) (row b : Nat) (a : Int × Bool) (x : Nat × Lane × Int) : Int × Bool :=
  match skValue k.q x.2.2 x.2.1 with
  | none => a
  | some c =>
    if k.bucket row x.1 = b then
      (Claims.clamp (a.1 + k.sign row x.1 * c), a.2 || Claims.clamp (a.1 + k.sign row x.1 * c) != a.1 + k.sign row x.1 * c)
    else a

/-- The counters that a contribution changes, one in each row. -/
def Sk.updates (k : Sk) (i : Nat) (c : Int) : List (Nat × (Int → Int)) :=
  (List.range k.d).map (fun row => (row * k.width + k.bucket row i, fun v => v + k.sign row i * c))

/-- What adding one lane leaves. -/
structure LaneAdded (s t : State) (w w' : Word) (pa : Nat) (k : Sk) (x : Nat × Lane × Int) : Prop where
  own : t.OwnRange pa k.bytes k.key
  other : ∀ b, b < pa + 64 ∨ pa + k.bytes ≤ b → Memory.get t.mem b = Memory.get s.mem b
  ctr : ∀ row b, row < k.d → b < k.width → ∀ fl, t.ctr k.key pa (row * k.width + b) = (k.step row b (s.ctr k.key pa (row * k.width + b), fl) x).1
  nan : w'.getLsbD 23 = true ↔ w.getLsbD 23 = true ∨ skValue k.q x.2.2 x.2.1 = none
  row : ∀ row, row < k.d → (w'.getLsbD (16 + row) = true ↔ w.getLsbD (16 + row) = true ∨ ∃ c, skValue k.q x.2.2 x.2.1 = some c ∧
    Claims.clamp (s.ctr k.key pa (row * k.width + k.bucket row x.1) + k.sign row x.1 * c) ≠
      s.ctr k.key pa (row * k.width + k.bucket row x.1) + k.sign row x.1 * c)
  low : ∀ j, j < 16 → w'.getLsbD j = w.getLsbD j

theorem laneAdded_nan (hk : k.Valid) (h : s.OwnRange pa k.bytes k.key) (w : Word) {x : Nat × Lane × Int} (hx : skValue k.q x.2.2 x.2.1 = none) :
    LaneAdded s (s.addLane pa k w x).2 w (s.addLane pa k w x).1 pa k x := by
  have h8 := hk.rows_lt
  have hbit (j : Nat) := getLsbD_orBit w (j := 23) (by omega) true j
  have hkeep (j : Nat) (hj : 23 ≠ j) : (orBit w 23 true).getLsbD j = w.getLsbD j := by rw [hbit, decide_eq_false hj, Bool.and_false, Bool.or_false]
  simp only [State.addLane, hx]
  refine ⟨h, fun _ _ => rfl, fun row b _ _ fl => ?_, ?_, fun row hr => ?_, fun j hj => hkeep j (by omega)⟩
  · rw [Sk.step, hx]
  · simp [hbit, hx]
  · rw [hkeep _ (by omega)]
    exact (or_iff_left (by simp [hx])).symm

theorem addLane_some (hk : k.Valid) (s : State) (pa : Nat) (w : Word) {x : Nat × Lane × Int} {c : Int} (hx : skValue k.q x.2.2 x.2.1 = some c) :
    s.addLane pa k w x = (k.updates x.1 c).foldl (k.rewrite pa) (w, s) := by
  simp only [State.addLane, hx, Sk.updates, List.foldl_map]
  refine List.foldl_ext _ _ _ fun a row _ => ?_
  simp only [hash_eq, Sk.rewrite, index_div row (bucket_lt hk row x.1)]

theorem mem_updates {i n : Nat} {c : Int} (h : n ∈ (k.updates i c).map Prod.fst) : ∃ row, row < k.d ∧ n = row * k.width + k.bucket row i := by
  simp only [Sk.updates, List.map_map, List.mem_map, List.mem_range, Function.comp] at h
  obtain ⟨row, hr, rfl⟩ := h
  exact ⟨row, hr, rfl⟩

theorem laneAdded_some (hk : k.Valid) (h : s.OwnRange pa k.bytes k.key) (w : Word) {x : Nat × Lane × Int} {c : Int} (hx : skValue k.q x.2.2 x.2.1 = some c) :
    LaneAdded s (s.addLane pa k w x).2 w (s.addLane pa k w x).1 pa k x := by
  have h8 := hk.rows_lt
  have hdiv (row : Nat) := index_div row (bucket_lt hk row x.1)
  have hnd : ((k.updates x.1 c).map Prod.fst).Nodup := by
    rw [Sk.updates, List.map_map]
    refine List.nodup_range.map_on fun row _ row' _ he => ?_
    rw [← hdiv row, ← hdiv row']
    exact congrArg (· / k.width) he
  have hl : ∀ y ∈ k.updates x.1 c, y.1 < k.count := by
    intro y hy
    obtain ⟨row, hr, he⟩ := mem_updates (List.mem_map_of_mem hy)
    rw [he]
    exact index_lt hr (bucket_lt hk ..)
  obtain ⟨hown, hother, hnamed, hrest, hflags⟩ := passed_rewrites hk h w hl hnd
  rw [← addLane_some hk s pa w hx] at hown hother hnamed hrest hflags
  have hupd {row : Nat} (hr : row < k.d) : (row * k.width + k.bucket row x.1, fun v => v + k.sign row x.1 * c) ∈ k.updates x.1 c :=
    List.mem_map_of_mem (List.mem_range.2 hr)
  have hflags (j : Nat) : (s.addLane pa k w x).1.getLsbD j = true ↔ w.getLsbD j = true ∨ ∃ row, row < k.d ∧ 16 + row = j ∧
      Claims.clamp (s.ctr k.key pa (row * k.width + k.bucket row x.1) + k.sign row x.1 * c) ≠
        s.ctr k.key pa (row * k.width + k.bucket row x.1) + k.sign row x.1 * c := by
    rw [hflags]
    simp only [Sk.updates, List.mem_map, List.mem_range, exists_exists_and_eq_and, hdiv]
  refine ⟨hown, hother, fun row b hr hb fl => ?_, ?_, fun row hr => ?_, fun j hj => ?_⟩
  · simp only [Sk.step, hx]
    split_ifs with he
    · have hset := hnamed _ (hupd hr)
      rwa [he] at hset
    · refine hrest _ (index_lt hr hb) fun hm => he ?_
      obtain ⟨row', hr', heq⟩ := mem_updates hm
      have hrow : row = row' := by rw [← index_div row hb, heq, hdiv]
      subst hrow
      omega
  · rw [hflags, hx]
    refine or_congr Iff.rfl ⟨?_, fun hc => nomatch hc⟩
    rintro ⟨row, hr, hj, -⟩
    omega
  · rw [hflags, hx]
    refine or_congr Iff.rfl ⟨?_, ?_⟩
    · rintro ⟨row', -, hj, hc⟩
      obtain rfl : row' = row := by omega
      exact ⟨c, rfl, hc⟩
    · rintro ⟨c', he, hc⟩
      cases he
      exact ⟨row, hr, rfl, hc⟩
  · rw [Bool.eq_iff_iff, hflags]
    refine or_iff_left ?_
    rintro ⟨row, -, hj', -⟩
    omega

theorem laneAdded (hk : k.Valid) (h : s.OwnRange pa k.bytes k.key) (w : Word) (x : Nat × Lane × Int) :
    LaneAdded s (s.addLane pa k w x).2 w (s.addLane pa k w x).1 pa k x := by
  cases hx : skValue k.q x.2.2 x.2.1 with
  | none => exact laneAdded_nan hk h w hx
  | some c => exact laneAdded_some hk h w hx

theorem step_flag (k : Sk) (row b : Nat) (a : Int × Bool) (x : Nat × Lane × Int) : (k.step row b a x).2 = true ↔ a.2 = true ∨
    ∃ c, skValue k.q x.2.2 x.2.1 = some c ∧ k.bucket row x.1 = b ∧ Claims.clamp (a.1 + k.sign row x.1 * c) ≠ a.1 + k.sign row x.1 * c := by
  unfold Sk.step
  cases skValue k.q x.2.2 x.2.1 with
  | none => simp
  | some c => by_cases hb : k.bucket row x.1 = b <;> simp [hb]

/-- What adding the lanes of a list leaves. -/
structure LanesAdded (s t : State) (w w' : Word) (pa : Nat) (k : Sk) (l : List (Nat × Lane × Int)) : Prop where
  own : t.OwnRange pa k.bytes k.key
  other : ∀ b, b < pa + 64 ∨ pa + k.bytes ≤ b → Memory.get t.mem b = Memory.get s.mem b
  ctr : ∀ row b, row < k.d → b < k.width →
    t.ctr k.key pa (row * k.width + b) = (l.foldl (k.step row b) (s.ctr k.key pa (row * k.width + b), false)).1
  nan : w'.getLsbD 23 = true ↔ w.getLsbD 23 = true ∨ ∃ x ∈ l, skValue k.q x.2.2 x.2.1 = none
  row : ∀ row, row < k.d → (w'.getLsbD (16 + row) = true ↔ w.getLsbD (16 + row) = true ∨
    ∃ b, b < k.width ∧ (l.foldl (k.step row b) (s.ctr k.key pa (row * k.width + b), false)).2 = true)
  low : ∀ j, j < 16 → w'.getLsbD j = w.getLsbD j

/-- Add the lanes of a list in order. -/
def State.addLanes (s : State) (pa : Nat) (k : Sk) (w : Word) (l : List (Nat × Lane × Int)) : Word × State :=
  l.foldl (fun (a : Word × State) x => a.2.addLane pa k a.1 x) (w, s)

theorem lanesAdded (hk : k.Valid) (h : s.OwnRange pa k.bytes k.key) (w : Word) (l : List (Nat × Lane × Int)) :
    LanesAdded s (s.addLanes pa k w l).2 w (s.addLanes pa k w l).1 pa k l := by
  induction l using List.reverseRecOn with
  | nil => exact ⟨h, fun _ _ => rfl, fun _ _ _ _ => rfl, by simp [State.addLanes], fun _ _ => by simp [State.addLanes], fun _ _ => rfl⟩
  | append_singleton l x ih =>
    obtain ⟨hown, hother, hctr, hnan, hrow, hlow⟩ := ih
    have hsnoc : s.addLanes pa k w (l ++ [x]) = (s.addLanes pa k w l).2.addLane pa k (s.addLanes pa k w l).1 x := by
      simp only [State.addLanes, List.foldl_append, List.foldl_cons, List.foldl_nil]
    rw [hsnoc]
    generalize s.addLanes pa k w l = a at *
    obtain ⟨hown', hother', hctr', hnan', hrow', hlow'⟩ := laneAdded hk hown a.1 x
    refine ⟨hown', fun b hb => (hother' b hb).trans (hother b hb), fun row b hr hb => ?_, ?_, fun row hr => ?_, fun j hj => (hlow' j hj).trans (hlow j hj)⟩
    · rw [List.foldl_append, List.foldl_cons, List.foldl_nil, hctr' row b hr hb, hctr row b hr hb]
    · rw [hnan', hnan, or_assoc]
      simp only [List.mem_append, List.mem_singleton, or_and_right, exists_or, exists_eq_left]
    · rw [hrow' row hr, hrow row hr, or_assoc]
      simp only [List.foldl_append, List.foldl_cons, List.foldl_nil, step_flag, and_or_left, exists_or]
      refine or_congr Iff.rfl (or_congr Iff.rfl ⟨?_, ?_⟩)
      · rintro ⟨c, hx, hc⟩
        refine ⟨_, bucket_lt hk row x.1, c, hx, rfl, ?_⟩
        rwa [← hctr row _ hr (bucket_lt hk ..)]
      · rintro ⟨b, hb, c, hx, rfl, hc⟩
        refine ⟨c, hx, ?_⟩
        rwa [hctr row _ hr hb]

end
end Sys2Proof.Machine
end

section
namespace Sys2Proof.Machine
open State

/-! What the sketch unit's operations leave (O53, R136, R139, R142, R143). -/

section
variable {s : State} {r : Req} {pa : Nat} {k : Sk}

theorem skOp_add {l : List (Nat × Lane × Int)} (hk : s.skAt r pa = some k) (hr : k.bytes ≤ r.room) (ho : r.op = .skAdd l) :
    s.skOp r pa = .ok ([], (s.addLanes pa k k.w0 l).2.setSk0 pa k (s.addLanes pa k k.w0 l).1) := by
  simp only [State.skOp, ho, hk, if_neg (not_lt.2 hr)]
  rfl

theorem skOp_qry {l : List Nat} (hk : s.skAt r pa = some k) (hr : k.bytes ≤ r.room) (ho : r.op = .skQry l) :
    s.skOp r pa = .ok (l.map (fun i => (s.skQry pa k i).setWidth 64), s) := by
  simp only [State.skOp, ho, hk, if_neg (not_lt.2 hr)]

theorem skOp_clr (hk : s.skAt r pa = some k) (hr : k.bytes ≤ r.room) (ho : r.op = .skClr) :
    s.skOp r pa = .ok ([], (s.mapCtrs pa k 0 (fun _ _ => 0)).2.setSk0 pa k (k.w0 &&& ~~~skFlags)) := by
  simp only [State.skOp, ho, hk, if_neg (not_lt.2 hr)]

theorem skOp_scale {f : Lane} {neg : Bool} {num den : Nat} (hk : s.skAt r pa = some k) (hr : k.bytes ≤ r.room) (ho : r.op = .skScale f)
    (hf : val32 f = .fin neg num den) : s.skOp r pa =
      .ok ([], (s.mapCtrs pa k k.w0 (fun t n => scaleCtr (.fin neg num den) (t.ctr k.key pa n))).2.setSk0 pa k
        (s.mapCtrs pa k k.w0 (fun t n => scaleCtr (.fin neg num den) (t.ctr k.key pa n))).1) := by
  simp only [State.skOp, ho, hk, if_neg (not_lt.2 hr), hf]

theorem skOp_scale_refused {f : Lane} (hk : s.skAt r pa = some k) (hr : k.bytes ≤ r.room) (ho : r.op = .skScale f)
    (hf : ∀ neg num den, val32 f ≠ .fin neg num den) : s.skOp r pa = .error 0x32 := by
  simp only [State.skOp, ho, hk, if_neg (not_lt.2 hr)]

theorem skOp_rd {row first n : Nat} (hk : s.skAt r pa = some k) (hr : k.bytes ≤ r.room) (ho : r.op = .skRd row first n) : s.skOp r pa =
    if k.d ≤ row ∨ k.width < first + n then .error 0x21
    else .ok ((List.range n).map (fun x => BitVec.ofInt 64 (s.ctr k.key pa (row * k.width + first + x))), s) := by
  simp only [State.skOp, ho, hk, if_neg (not_lt.2 hr)]

theorem skOp_stat (hk : s.skAt r pa = some k) (hr : k.bytes ≤ r.room) (ho : r.op = .skStat) : s.skOp r pa = .ok ([k.w0], s) := by
  simp only [State.skOp, ho, hk, if_neg (not_lt.2 hr)]

/-- A sketch that is not valid is refused (R136). -/
theorem skOp_invalid (hk : s.skAt r pa = none) (hi : ∀ t, r.op ≠ .skInit t) : s.skOp r pa = .error 0x30 := by
  unfold State.skOp
  split
  · next t ho => exact absurd ho (hi t)
  · rw [hk]

theorem skOp_init {bs : List Byte} (hp : parseSk bs = some k) (hr : k.bytes ≤ r.room) (ho : r.op = .skInit bs) : s.skOp r pa =
    .ok ([], ((s.putEach pa bs r.key).mapCtrs pa { k with key := r.key } 0 (fun _ _ => 0)).2) := by
  have hb : ¬ r.room < ({ k with key := r.key } : Sk).bytes := not_lt.2 hr
  simp only [State.skOp, ho, hp, Option.map_some, if_neg hb]
  rfl

/-! What those that write leave. -/

/-- The header's first word, as a request under a key slot reads it. -/
def State.skHead (s : State) (pa : Nat) (key : Option Nat) : Word := BitVec.ofNat 64 (s.readUnder pa 8 key)

/-- What adding the lanes of a list leaves of a sketch (R139). -/
structure SkAdded (s t : State) (pa : Nat) (k : Sk) (key : Option Nat) (l : List (Nat × Lane × Int)) : Prop where
  apart : ∀ b, b < pa ∨ pa + k.bytes ≤ b → Memory.get t.mem b = Memory.get s.mem b
  ctr : ∀ row b, row < k.d → b < k.width → t.ctr key pa (row * k.width + b) = (l.foldl (k.step row b) (s.ctr key pa (row * k.width + b), false)).1
  nan : (t.skHead pa key).getLsbD 23 = true ↔ k.w0.getLsbD 23 = true ∨ ∃ x ∈ l, skValue k.q x.2.2 x.2.1 = none
  row : ∀ row, row < k.d → ((t.skHead pa key).getLsbD (16 + row) = true ↔ k.w0.getLsbD (16 + row) = true ∨
    ∃ b, b < k.width ∧ (l.foldl (k.step row b) (s.ctr key pa (row * k.width + b), false)).2 = true)
  low : (t.skHead pa key).setWidth 16 = k.w0.setWidth 16

theorem exists_skAdded {l : List (Nat × Lane × Int)} (hv : k.Valid) (h : s.OwnRange pa k.bytes k.key) (hk : s.skAt r pa = some k)
    (hr : k.bytes ≤ r.room) (ho : r.op = .skAdd l) : ∃ t, s.skOp r pa = .ok ([], t) ∧ SkAdded s t pa k k.key l := by
  obtain ⟨hown, hother, hstep, hnan, hrow, hlow⟩ := lanesAdded hv h k.w0 l
  obtain ⟨hhead, hctr, hapart⟩ := skLeft_setSk0 hown hother (s.addLanes pa k k.w0 l).1
  refine ⟨_, skOp_add hk hr ho, ?_⟩
  generalize (s.addLanes pa k k.w0 l).2.setSk0 pa k (s.addLanes pa k k.w0 l).1 = t at *
  have hhead : t.skHead pa k.key = (s.addLanes pa k k.w0 l).1 := hhead
  refine ⟨hapart, fun row b hr hb => (hctr _ (index_lt hr hb)).trans (hstep row b hr hb), by rw [hhead, hnan], fun row hr => by rw [hhead, hrow row hr], ?_⟩
  refine BitVec.eq_of_getLsbD_eq fun i hi => ?_
  rw [BitVec.getLsbD_setWidth, BitVec.getLsbD_setWidth, hhead, hlow i hi]

/-- What rewriting every counter leaves of a sketch: the flags are those of `w0`, and the ones of the rows that clamped (R143). -/
structure SkRewritten (s t : State) (w0 : Word) (pa : Nat) (k : Sk) (key : Option Nat) (c : Nat → Int) : Prop where
  apart : ∀ b, b < pa ∨ pa + k.bytes ≤ b → Memory.get t.mem b = Memory.get s.mem b
  ctr : ∀ n, n < k.count → t.ctr key pa n = Claims.clamp (c n)
  nan : (t.skHead pa key).getLsbD 23 = w0.getLsbD 23
  row : ∀ row, row < k.d → ((t.skHead pa key).getLsbD (16 + row) = true ↔ w0.getLsbD (16 + row) = true ∨
    ∃ n, n < k.count ∧ n / k.width = row ∧ Claims.clamp (c n) ≠ c n)

section
variable {t : State} {w0 w w' : Word} {c : Nat → Int}

theorem AllPassed.left (h : AllPassed s t w w' pa k c) (w0 : Word) : SkLeft s (t.setSk0 pa k w0) pa k w0 (fun n => Claims.clamp (c n)) := by
  obtain ⟨hword, hctr, hapart⟩ := skLeft_setSk0 h.own h.other w0
  exact ⟨hword, fun n hn => (hctr n hn).trans (h.ctr n hn), hapart⟩

theorem AllPassed.rewritten (h : AllPassed s t w0 w' pa k c) : SkRewritten s (t.setSk0 pa k w') w0 pa k k.key c := by
  obtain ⟨hhead, hctr, hapart⟩ := h.left w'
  have hhead : (t.setSk0 pa k w').skHead pa k.key = w' := hhead
  exact ⟨hapart, hctr, by rw [hhead, h.rest 23 (by omega)], fun row hr => by rw [hhead, h.row row hr]⟩

end

theorem exists_skScaled {f : Lane} {neg : Bool} {num den : Nat} (hv : k.Valid) (h : s.OwnRange pa k.bytes k.key) (hk : s.skAt r pa = some k)
    (hr : k.bytes ≤ r.room) (ho : r.op = .skScale f) (hf : val32 f = .fin neg num den) : ∃ t, s.skOp r pa = .ok ([], t) ∧
      SkRewritten s t k.w0 pa k k.key (fun n => scaleCtr (.fin neg num den) (s.ctr k.key pa n)) :=
  ⟨_, skOp_scale hk hr ho hf, (allPassed_mapCtrs hv h k.w0 (fun _ => scaleCtr (.fin neg num den)) fun _ _ => rfl).rewritten⟩

theorem exists_skCleared (hv : k.Valid) (h : s.OwnRange pa k.bytes k.key) (hk : s.skAt r pa = some k) (hr : k.bytes ≤ r.room) (ho : r.op = .skClr) :
    ∃ t, s.skOp r pa = .ok ([], t) ∧ SkLeft s t pa k (k.w0 &&& ~~~skFlags) (fun _ => 0) :=
  ⟨_, skOp_clr hk hr ho, (allPassed_mapCtrs hv h 0 (fun _ _ => 0) (c := fun _ => 0) fun _ _ => rfl).left _⟩

/-- A new sketch holds the template's header and counters of 0 (R143). -/
theorem skInit_leaves {bs : List Byte} {key : Option Nat} (hp : parseSk bs = some k) (hlen : bs.length = 64) (h : s.OwnRange pa k.bytes key) :
    let t := ((s.putEach pa bs key).mapCtrs pa { k with key := key } 0 (fun _ _ => 0)).2
    (∀ b, b < pa ∨ pa + k.bytes ≤ b → Memory.get t.mem b = Memory.get s.mem b) ∧
      (∀ i b, bs[i]? = some b → t.readUnder (pa + i) 1 key = b.toNat) ∧ ∀ n, n < k.count → t.ctr key pa n = 0 := by
  intro t
  have hb : 64 ≤ k.bytes := Nat.le_add_right ..
  obtain ⟨hown, hother⟩ := ownRange_putEach (bs := bs) h (by omega)
  have hput := eachPut_putEach (bs := bs) (slot := key) h.migs fun i hi => h.clear i (by omega)
  obtain ⟨hv1, hv2, hv3⟩ := parseSk_valid hp
  have hall : AllPassed (s.putEach pa bs key) t 0 _ pa { k with key := key } (fun _ => 0) :=
    allPassed_mapCtrs (k := { k with key := key }) ⟨hv1, hv2, hv3⟩ hown 0 (fun _ _ => 0) fun _ _ => rfl
  refine ⟨fun b hb' => ?_, fun i b hi => ?_, fun n hn => hall.ctr n hn⟩
  · exact (hall.other b (hb'.imp_left fun hlt => by omega)).trans (hother b (by omega))
  · obtain ⟨hi', rfl⟩ := List.getElem?_eq_some_iff.1 hi
    have hown' : t.OwnRange pa k.bytes key := hall.own
    rw [hown'.readUnder (by omega) (by omega), Memory.readN, Memory.readN, hall.other _ (.inl (by omega)), hput.bytes i hi', List.getD_eq_getElem _ _ hi']
    rfl

/-! A merge (R143). -/

theorem skMerge_checks {src : Place} {room past m : Nat} {j : Sk} (hb : s.bad = []) (hk : s.skAt r pa = some k) (hr : k.bytes ≤ r.room)
    (ho : r.op = .skMerge src room past none []) (hj : parseSk (s.keyBytes src.pa 64 r.key) = some j) (hroom : j.bytes ≤ room) :
    s.skMergeAt r pa m = if j.d ≠ k.d ∨ j.lgw ≠ k.lgw ∨ j.q ≠ k.q ∨ j.seeds ≠ k.seeds then .refused 0x31
      else .ok false (s.updReq r.id (fun q => { q with op := .skMerge src room past (some j.w0) [] })) := by
  have hbad : s.badBlock (.phys src.pa) = false := by simp [State.badBlock, hb]
  simp only [State.skMergeAt, ho, hk, hbad, Bool.false_eq_true, if_false, hj, if_neg (not_lt.2 hr), if_neg (not_lt.2 hroom)]

/-- The source's counters, all read at once. -/
def State.srcCtrs (s : State) (r : Req) (src n : Nat) : Array Int := ((List.range n).map (s.ctr r.key src)).toArray

theorem srcCtrs_getD {src m n : Nat} (h : n < m) : (s.srcCtrs r src m).getD n 0 = s.ctr r.key src n := by
  simp [State.srcCtrs, Array.getD, h]

theorem skMerge_whole {src : Place} {room past : Nat} {w0 : Word} (hb : s.bad = []) (hk : s.skAt r pa = some k)
    (ho : r.op = .skMerge src room past (some w0) []) : s.skMergeAt r pa k.count =
      .ok true ((s.mapCtrs pa k (k.w0 ||| (w0 &&& skFlags)) (fun t n => t.ctr k.key pa n + (s.srcCtrs r src.pa k.count).getD n 0)).2.setSk0 pa k
        (s.mapCtrs pa k (k.w0 ||| (w0 &&& skFlags)) (fun t n => t.ctr k.key pa n + (s.srcCtrs r src.pa k.count).getD n 0)).1) := by
  have hbad (l : List Nat) : l.find? (fun n => s.badBlock (.phys (ctrAt src.pa n))) = none := by simp [State.badBlock, hb]
  have hns : (List.range (min k.count (k.count - 0))).map (fun n => 0 + n) = List.range k.count := by simp
  simp only [State.skMergeAt, ho, hk, List.length_nil, hns, hbad, List.nil_append, List.length_map, List.length_range, lt_irrefl, if_false]
  rfl

/-- The flags that a merge starts from: those of both (R143). -/
theorem getLsbD_mergeFlags (a b : Word) {j : Nat} (h : 16 ≤ j) (h' : j < 24) : (a ||| (b &&& skFlags)).getLsbD j = (a.getLsbD j || b.getLsbD j) := by
  have hf : skFlags.getLsbD j = true := by
    unfold skFlags
    interval_cases j <;> rfl
  rw [BitVec.getLsbD_or, BitVec.getLsbD_and, hf, Bool.and_true]

/-- A merge adds the source's counters and flags. -/
theorem exists_skMerged {src : Place} {room past : Nat} {w0 : Word} (hb : s.bad = []) (hv : k.Valid) (h : s.OwnRange pa k.bytes k.key)
    (hk : s.skAt r pa = some k) (ho : r.op = .skMerge src room past (some w0) []) : ∃ t, s.skMergeAt r pa k.count = .ok true t ∧
      SkRewritten s t (k.w0 ||| (w0 &&& skFlags)) pa k k.key (fun n => s.ctr k.key pa n + s.ctr r.key src.pa n) :=
  ⟨_, skMerge_whole hb hk ho, (allPassed_mapCtrs hv h _ (fun n c => c + (s.srcCtrs r src.pa k.count).getD n 0) fun n hn => by
    rw [srcCtrs_getD hn]).rewritten⟩

/-! A query's estimates (R142). -/

/-- The rows' estimates of an index. -/
def State.estimates (s : State) (pa : Nat) (k : Sk) (i : Nat) : List Int :=
  (List.range k.d).map (fun row => k.sign row i * s.ctr k.key pa (row * k.width + k.bucket row i))

theorem skQry_eq (s : State) (pa : Nat) (k : Sk) (i : Nat) : s.skQry pa k i =
    enc32 ((FVal.fin (decide (medianInt (s.estimates pa k i) < 0)) (medianInt (s.estimates pa k i)).natAbs 1).scale (-k.q)) := by
  simp only [State.skQry, hash_eq]
  rfl

theorem median_estimates (hk : k.Valid) (s : State) (pa i : Nat) : medianInt (s.estimates pa k i) ∈ s.estimates pa k i ∧
    ((s.estimates pa k i).filter (fun x => decide (x < medianInt (s.estimates pa k i)))).length ≤ k.d / 2 ∧
    ((s.estimates pa k i).filter (fun x => decide (medianInt (s.estimates pa k i) < x))).length ≤ k.d / 2 := by
  have hlen : (s.estimates pa k i).length = k.d := by simp [State.estimates]
  have h := medianInt_spec (l := s.estimates pa k i) (List.length_pos_iff.1 (hlen.symm ▸ hk.rows))
  rwa [hlen] at h

end

/-- Of O53, what a sketch operation computes (R138, R139, R142, R143). -/
theorem partSketch : Claims.PartSketch := by
  refine ⟨fun q L v => ⟨skValue_nan, fun _ => skValue_inf, fun _ _ _ => nearest_skValue⟩, fun s r pa hm hb => ?_⟩
  intro word clamp apart free
  have own {n : Nat} (h : free n) : s.OwnRange pa n r.key := ⟨hm, h.1, h.2⟩
  refine ⟨fun _ hi _ hk => skOp_invalid hk hi, fun bs k ho hlen hp hr hf => ⟨_, skOp_init hp hr ho, skInit_leaves hp hlen (own hf)⟩, fun k hk hr => ?_⟩
  intro at' hash bucket sign
  obtain ⟨hv, hkey⟩ := skAt_valid hk
  have ownk (h : free k.bytes) : s.OwnRange pa k.bytes k.key := hkey ▸ own h
  refine ⟨fun l ho hf => ?_, fun l ho => ?_, fun f neg num den ho hval hf => ?_, fun f ho hval => skOp_scale_refused hk hr ho hval, fun ho hf => ?_,
    fun row first n ho hrow hn => ?_, fun row first n ho hout => ?_, fun src room past j m ho hj hroom => ?_, fun src room past w0 ho hf => ?_⟩
  · obtain ⟨t, he, hadd⟩ := exists_skAdded hv (ownk hf) hk hr ho
    rw [hkey] at hadd
    exact ⟨t, he, hadd.apart, hadd.ctr, hadd.nan, hadd.row, hadd.low⟩
  · refine ⟨_, skOp_qry hk hr ho, List.length_map .., fun j i hj => ⟨medianInt (s.estimates pa k i), ?_, ?_⟩⟩
    · rw [List.getElem?_map, hj, Option.map_some, skQry_eq]
    · have h := median_estimates hv s pa i
      rw [State.estimates, hkey] at h ⊢
      exact h
  · obtain ⟨t, he, hscale⟩ := exists_skScaled hv (ownk hf) hk hr ho hval
    rw [hkey] at hscale
    exact ⟨t, _, he, hscale.apart, fun n hn => ⟨nearest_scaleCtr _ neg num (val32_den_pos hval), hscale.ctr n hn⟩, hscale.nan, hscale.row⟩
  · obtain ⟨t, he, hclr⟩ := exists_skCleared hv (ownk hf) hk hr ho
    obtain ⟨hword, hctr, hapart⟩ := hclr
    rw [hkey] at hword hctr
    exact ⟨t, he, hapart, hctr, hword⟩
  · rw [skOp_rd hk hr ho, if_neg (by omega), hkey]
  · rw [skOp_rd hk hr ho, if_pos hout]
  · rw [skMerge_checks hb hk hr ho hj hroom]
    exact ⟨fun hsame => if_neg (by simpa using hsame), fun hdiff => if_pos hdiff⟩
  · obtain ⟨t, he, hmerge⟩ := exists_skMerged hb hv (ownk hf) hk ho
    rw [hkey] at hmerge
    obtain ⟨hapart, hctr, hnan, hrow⟩ := hmerge
    rw [getLsbD_mergeFlags _ _ (by omega) (by omega)] at hnan
    refine ⟨t, he, hapart, hctr, ?_, fun row hr => ?_⟩
    · exact (Bool.eq_iff_iff.1 hnan).trans Bool.or_eq_true_iff
    · have h8 := hv.rows_lt
      have h := hrow row hr
      rwa [getLsbD_mergeFlags _ _ (by omega) (by omega), Bool.or_eq_true, or_assoc] at h

end Sys2Proof.Machine
end

section
namespace Sys2Proof.Machine
open State

/-! What an answer leaves of the tiles: at most their task processors change. -/

/-- Of each tile at most the task processors have changed. -/
structure SameTiles (s s' : State) : Prop where
  tile : ∀ h, { s'.tile h with tps := (s.tile h).tps } = s.tile h

section
variable {s s' s'' : State} {r : Req}

theorem sameTiles_of_eq (h : s'.tiles = s.tiles) : SameTiles s s' := ⟨fun g => by rw [State.tile, State.tile, h]⟩

theorem SameTiles.trans (h : SameTiles s s') (h' : SameTiles s' s'') : SameTiles s s'' := ⟨fun g => by rw [← h.tile g, ← h'.tile g]⟩

theorem sameTiles_updCtx (s : State) (g p c : Nat) (f : Ctx → Ctx) : SameTiles s (s.updCtx g p c f) :=
  ⟨fun h => tile_updTile_keep (fun t => { t with tps := (s.tile h).tps }) s g h
    (fun t => { t with tps := NMap.set t.tps p { t.tp p with ctxs := NMap.set (t.tp p).ctxs c (f ((t.tp p).ctx c)) } }) fun _ => rfl⟩

theorem sameTiles_wakeCtx (s : State) (g p c : Nat) : SameTiles s (s.wakeCtx g p c) := by
  unfold State.wakeCtx
  dsimp only
  split_ifs
  · exact sameTiles_updCtx ..
  · exact sameTiles_of_eq rfl

theorem sameTiles_settle (s : State) (id : Nat) : SameTiles s (s.settle id) := by
  unfold State.settle
  split
  · exact sameTiles_of_eq rfl
  · next r _ =>
    dsimp only
    have hd : SameTiles s (if (r.performed && !r.counted) = true then s.dropReq id else s) := by
      split_ifs <;> exact sameTiles_of_eq rfl
    split
    · refine hd.trans (SameTiles.trans ?_ (sameTiles_wakeCtx ..))
      by_cases hp : r.performed = true
      · rw [if_pos hp]
        exact sameTiles_updCtx ..
      · rw [if_neg hp]
        exact sameTiles_of_eq rfl
    · exact hd

theorem sameTiles_due (s : State) (r : Req) : SameTiles s (s.due r) := by
  unfold State.due
  split_ifs
  · exact sameTiles_settle ..
  · exact sameTiles_of_eq rfl

theorem sameTiles_finish (s : State) (id : Nat) (res : Word) : SameTiles s (s.finish id res) := by
  unfold State.finish
  split
  · exact sameTiles_of_eq rfl
  · refine SameTiles.trans ?_ (sameTiles_due ..)
    exact sameTiles_of_eq rfl

theorem sameTiles_performedNow (s : State) (id : Nat) (res : Word) : SameTiles s (s.performedNow id res) := by
  unfold State.performedNow
  split
  · exact sameTiles_of_eq rfl
  · exact (sameTiles_finish ..).trans (sameTiles_of_eq (updReg_tiles ..))

theorem SameTiles.spad (h : SameTiles s s') (g : Nat) : (s'.tile g).spad = (s.tile g).spad := (congrArg Tile.spad (h.tile g) :)
theorem SameTiles.rtLive (h : SameTiles s s') (g : Nat) : (s'.tile g).rtLive = (s.tile g).rtLive := (congrArg Tile.rtLive (h.tile g) :)
theorem SameTiles.rtCount (h : SameTiles s s') (g : Nat) : (s'.tile g).rtCount = (s.tile g).rtCount := (congrArg Tile.rtCount (h.tile g) :)
theorem SameTiles.rtPsum (h : SameTiles s s') (g : Nat) : (s'.tile g).rtPsum = (s.tile g).rtPsum := (congrArg Tile.rtPsum (h.tile g) :)
theorem SameTiles.rngSeed (h : SameTiles s s') (g : Nat) : (s'.tile g).rngSeed = (s.tile g).rngSeed := (congrArg Tile.rngSeed (h.tile g) :)
theorem SameTiles.rngCtr (h : SameTiles s s') (g : Nat) : (s'.tile g).rngCtr = (s.tile g).rngCtr := (congrArg Tile.rngCtr (h.tile g) :)

/-! The answer of a unit (R140, R141). -/

/-- The request is performed: a context has its result word, an element the token it will send. -/
def State.gives (s' : State) (r : Req) (v : Word) (tok : Tok) : Prop :=
  ∃ x, s'.req r.id = some x ∧ x.phase = .done ∧ (∀ g p c, r.who = .ctx g p c → x.res = v) ∧ ∀ g e, r.who = .elem g e → x.op = .emit tok

theorem gives_unitDone (h : s.req r.id = some r) (hc : r.counted = true) (l : List Word) (tok : Tok) : (s.unitDone r l tok).gives r (l.headD 0) tok := by
  unfold State.unitDone
  dsimp only
  have hu := req_updReq_same (f := fun q => { q with pieces := q.pieces.map (fun p => { p with done := true }) }) (fun _ => rfl) h
  split
  · next g e hw =>
    have hu' := req_updReq_same (f := fun q => { q with op := .emit tok }) (fun _ => rfl) hu
    exact ⟨_, req_performedNow hu' hc 0, rfl, fun _ _ _ hw' => absurd (hw.symm.trans hw') Agent.noConfusion, fun _ _ _ => rfl⟩
  · next hw => exact ⟨_, req_performedNow hu hc _, rfl, fun _ _ _ _ => rfl, fun g e hw' => absurd hw' (hw g e)⟩

theorem answers_unitDone (s : State) (r : Req) (l : List Word) (tok : Tok) : Answers s (s.unitDone r l tok) := by
  unfold State.unitDone
  dsimp only
  split
  · exact (answers_updReq ..).trans ((answers_updReq ..).trans (answers_performedNow ..))
  · exact (answers_updReq ..).trans (answers_performedNow ..)

theorem holds_unitDone (s : State) (r : Req) (l : List Word) (tok : Tok) (v : Nat) : ((s.unitDone r l tok).vault v).holds = (s.vault v).holds := by
  obtain ⟨_, hv⟩ := (answers_unitDone s r l tok).vault v
  rw [hv]

end

section
variable {s : State} {r : Req} {q : Region} {p : Piece} {ps : List Piece} {pa : Nat}

/-! SKETCH_OP_AT_UNIT (R136, R140). -/

/-- How the unit answers what a sketch operation came to. -/
def State.skEnd (s : State) (r : Req) : SkEnd → State
  | .error c => s.refuse r c
  | .ok (l, t) => t.unitDone r l (r.skTok l)

/-- How it answers what an event of a merge came to. -/
def State.mergeEnd (s : State) (r : Req) : MergeEnd → State
  | .refused c => s.refuse r c
  | .bad b => s.dataError r b
  | .ok fin t => if fin = true then t.unitDone r [] (r.skTok []) else t

/-- What the unit does in the turn of a request. -/
def State.skAct (s : State) (r : Req) (pa : Nat) : State :=
  match r.op with
  | .skMerge _ _ _ _ _ => s.mergeEnd r (s.skMergeAt r pa (s.ev.c + 1))
  | _ => s.skEnd r (s.skOp r pa)

/-- The unit may perform a sketch operation now: its turn has come, no merge is under way, and the words it reads are good. -/
structure SkTurn (s : State) (r : Req) (p : Piece) (ps : List Piece) (pa : Nat) : Prop where
  pieces : r.pieces = p :: ps
  place : p.place = .phys pa
  may : s.mayPerform r p = true
  first : s.slotFirst r = true
  word : s.ev.flag = false
  merging : s.merging r pa = false
  good : s.skBad r pa = none

theorem exec_sketch (h : s.req s.ev.id = some r) (hq : NMap.find s.regions r.inst = some q) (hl : q.live = true) (ht : SkTurn s r p ps pa)
    (hs : r.op.isSk = true) : exec .eSketchOpAtUnit s = .next (s.skAct r pa) := by
  obtain ⟨hp, hpl, hmay, hfirst, hflag, hmerging, hbad⟩ := ht
  have hgo : ¬ ((!r.op.isSk) = true ∨ (!s.mayPerform r p) = true ∨ (!s.slotFirst r) = true ∨ s.merging r pa = true) := by
    simp [hs, hmay, hfirst, hmerging]
  show execSketchOpAtUnit s = _
  simp only [execSketchOpAtUnit, liveReq_of h hq hl, hp, hpl, if_neg hgo, hflag, Bool.false_eq_true, if_false, hbad]
  unfold State.skAct
  cases r.op with
  | skMerge => cases s.skMergeAt r pa (s.ev.c + 1) <;> rfl
  | _ => cases s.skOp r pa <;> rfl

theorem skAct_merge {src : Place} {room past : Nat} {w : Option Word} {got : List Int} (ho : r.op = .skMerge src room past w got) :
    s.skAct r pa = s.mergeEnd r (s.skMergeAt r pa (s.ev.c + 1)) := by
  rw [State.skAct, ho]

theorem skAct_other (hm : ∀ a b c d e, r.op ≠ .skMerge a b c d e) : s.skAct r pa = s.skEnd r (s.skOp r pa) := by
  unfold State.skAct
  split
  · next ho => exact (hm _ _ _ _ _ ho).elim
  · rfl

/-! HOLDINGS_OP_AT_VAULT (R150, R303). -/

/-- An operation on a holdings table. -/
def ReqOp.isHold : ReqOp → Bool
  | .holdIns _ _ | .holdDrop _ | .holdQ _ => true
  | _ => false

theorem exec_holdingsOp (h : s.req s.ev.id = some r) (hq : NMap.find s.regions r.inst = some q) (hl : q.live = true) (hp : r.pieces = p :: ps)
    (hpl : p.place = .phys pa) (hmay : s.mayPerform r p = true) (hfirst : s.slotFirst r = true) (ho : r.op.isHold = true) :
    exec .eHoldingsOpAtVault s = .next (s.holdOp r pa) := by
  have hgo : s.mayPerform r p = true ∧ s.slotFirst r = true := ⟨hmay, hfirst⟩
  show execHoldingsOpAtVault s = _
  simp only [execHoldingsOpAtVault, liveReq_of h hq hl, hp]
  cases hop : r.op with
  | holdIns | holdDrop | holdQ => simp only [hpl, if_pos hgo]
  | _ =>
    rw [hop] at ho
    cases ho

/-- An insertion leaves its entry last: another of its id goes, or where the table is full the earliest (R150). -/
theorem holds_insert (v : Vault) (h : Holding) : (v.insert h).2.holds =
    (if (∀ x ∈ v.holds, x.id ≠ h.id) ∧ 1024 ≤ v.holds.length then v.holds.tail else v.holds.filter (fun x => x.id != h.id)) ++ [h] := by
  have hfull : (v.holds.filter (fun x => x.id != h.id)).length = v.holds.length ↔ ∀ x ∈ v.holds, x.id ≠ h.id := by
    simp [List.length_filter_eq_length_iff]
  unfold Vault.insert
  dsimp only
  by_cases hnew : ∀ x ∈ v.holds, x.id ≠ h.id
  · have hself : v.holds.filter (fun x => x.id != h.id) = v.holds := List.filter_eq_self.2 fun x hx => by simp [hnew x hx]
    rw [hself]
    by_cases hlen : 1024 ≤ v.holds.length
    · rw [if_pos ⟨rfl, hlen⟩, if_pos ⟨hnew, hlen⟩]
    · rw [if_neg (fun hc => hlen hc.2), if_neg (fun hc => hlen hc.2)]
  · rw [if_neg (fun hc => hnew (hfull.1 hc.1)), if_neg (fun hc => hnew hc.1)]

theorem holdOp_ins {id len : Nat} (ho : r.op = .holdIns id len) (hr : s.req r.id = some r) (hc : r.counted = true) :
    (s.holdOp r pa).mem = s.mem ∧ (s.holdOp r pa).gives r 0 (Tok.scalar r.thread r.iter 0) ∧
      ((s.holdOp r pa).vault (homeOf pa)).holds = ((s.vault (homeOf pa)).insert ⟨id, pa, len⟩).2.holds := by
  refine ⟨holdOp_mem .., ?_⟩
  simp only [State.holdOp, ho]
  generalize (s.vault (homeOf pa)).insert ⟨id, pa, len⟩ = o
  have hput : (s.updVault (homeOf pa) (fun _ => o.2)).req r.id = some r := hr
  have hvault : (s.updVault (homeOf pa) (fun _ => o.2)).vault (homeOf pa) = o.2 := vault_updVault_same ..
  generalize s.updVault (homeOf pa) (fun _ => o.2) = t at *
  have hbump : (t.bumpVault (homeOf pa) 3).req r.id = some r := hput
  split_ifs
  · exact ⟨gives_unitDone hbump hc [0] _, by rw [holds_unitDone, holds_bumpVault, hvault]⟩
  · exact ⟨gives_unitDone hput hc [0] _, by rw [holds_unitDone, hvault]⟩

theorem holdOp_drop {id : Nat} (ho : r.op = .holdDrop id) (hr : s.req r.id = some r) (hc : r.counted = true) :
    (s.holdOp r pa).mem = s.mem ∧ (s.holdOp r pa).gives r 0 (Tok.scalar r.thread r.iter 0) ∧
      ((s.holdOp r pa).vault (homeOf pa)).holds = (s.vault (homeOf pa)).holds.filter (fun x => x.id != id) := by
  have hput (f : Vault → Vault) : (s.updVault (homeOf pa) f).req r.id = some r := hr
  refine ⟨holdOp_mem .., ?_⟩
  simp only [State.holdOp, ho]
  exact ⟨gives_unitDone (hput _) hc [0] _, by rw [holds_unitDone, vault_updVault_same]⟩

/-- The word that answers a query of a table. -/
def holdWord (l : List Holding) (id : Nat) : Word := match l.find? (fun x => x.id == id) with | some x => x.word | none => 0

theorem holdWord_none {l : List Holding} {id : Nat} (h : l.find? (fun x => x.id == id) = none) : holdWord l id = 0 := by rw [holdWord, h]

theorem holdWord_some {l : List Holding} {id : Nat} {x : Holding} (h : l.find? (fun x => x.id == id) = some x) : holdWord l id = x.word := by
  rw [holdWord, h]

theorem holdOp_query {id : Nat} (ho : r.op = .holdQ id) (hr : s.req r.id = some r) (hc : r.counted = true) :
    (s.holdOp r pa).mem = s.mem ∧ (s.holdOp r pa).gives r (holdWord (s.vault (homeOf pa)).holds id)
        (Tok.scalar r.thread r.iter (holdWord (s.vault (homeOf pa)).holds id)) ∧
      ((s.holdOp r pa).vault (homeOf pa)).holds = (s.vault (homeOf pa)).holds := by
  refine ⟨holdOp_mem .., ?_⟩
  simp only [State.holdOp, ho]
  exact ⟨gives_unitDone hr hc [_] _, holds_unitDone ..⟩

/-! ROUTE_SNAPSHOT_WRITE (R160). -/

theorem get_filter_key {α : Type} (f : Nat → Bool) (m : NMap α) {k : Nat} (d : α) (h : f k = false) : NMap.get (m.filter (fun x => f x.1)) k d = d := by
  induction m with
  | nil => rfl
  | cons x m ih =>
    obtain ⟨j, v⟩ := x
    rw [List.filter_cons]
    split_ifs with hj
    · rw [NMap.get, if_neg, ih]
      rintro rfl
      rw [h] at hj
      cases hj
    · exact ih

/-- A cleared bank counts nothing. -/
theorem clearBank_get (t : Tile) (b : Nat) {e : Nat} (he : e < 256) : NMap.get (t.clearBank b).rtCount (256 * b + e) 0 = 0 ∧
    NMap.get (t.clearBank b).rtPsum (256 * b + e) 0 = 0 := by
  have hk : ((256 * b + e) / 256 != b) = false := bne_eq_false_iff_eq.2 (by omega)
  exact ⟨get_filter_key (fun k => k / 256 != b) _ 0 hk, get_filter_key (fun k => k / 256 != b) _ 0 hk⟩

/-- The eight bytes that a snapshot holds of an expert. -/
def Tile.expertBytes (t : Tile) (b e : Nat) : List Byte :=
  bytesOfNat 4 (NMap.get t.rtCount (256 * b + e) 0) ++ bytesOfNat 4 (NMap.get t.rtPsum (256 * b + e) 0).toNat

theorem length_expertBytes (t : Tile) (b e : Nat) : (t.expertBytes b e).length = 8 := by
  rw [Tile.expertBytes, List.length_append, length_bytesOfNat, length_bytesOfNat]

theorem bankBytes_eq (t : Tile) (b : Nat) : t.bankBytes b = (List.range 256).flatMap (t.expertBytes b) := rfl

theorem length_bankBytes (t : Tile) (b : Nat) : (t.bankBytes b).length = 2048 := by
  rw [bankBytes_eq, length_flatMap_of_eq fun e _ => length_expertBytes t b e, List.length_range]

/-- An expert's count and sum stand in its eight bytes of a bank's. -/
theorem fieldN_bankBytes (t : Tile) (b : Nat) {e : Nat} (he : e < 256) :
    fieldN (t.bankBytes b) (8 * e) 4 = NMap.get t.rtCount (256 * b + e) 0 % 2 ^ 32 ∧
      fieldN (t.bankBytes b) (8 * e + 4) 4 = (NMap.get t.rtPsum (256 * b + e) 0).toNat := by
  have hf (off : Nat) (ho : off + 4 ≤ 8) : fieldN (t.bankBytes b) (8 * e + off) 4 = fieldN (t.expertBytes b e) off 4 := by
    have h := fieldN_flatMap (l := List.range 256) (f := t.expertBytes b) (fun e _ => length_expertBytes t b e) (k := e) (by rwa [List.length_range]) ho
    rwa [List.getElem_range, ← bankBytes_eq] at h
  constructor
  · rw [← Nat.add_zero (8 * e), hf 0 (by omega), Tile.expertBytes, fieldN_append_left _ (length_bytesOfNat ..), fieldN_bytesOfNat]
    norm_num
  · have h := fieldN_append_right (xs := bytesOfNat 4 (NMap.get t.rtCount (256 * b + e) 0))
      (bytesOfNat 4 (NMap.get t.rtPsum (256 * b + e) 0).toNat) 4
    rw [length_bytesOfNat, fieldN_bytesOfNat] at h
    rw [hf 4 (by omega), Tile.expertBytes, h, Nat.mod_eq_of_lt ((NMap.get t.rtPsum (256 * b + e) 0).isLt.trans_eq (by norm_num))]

/-- A bank's bytes read back from where they were written. -/
theorem readN_bankBytes {m : Memory} {a : Nat} (t : Tile) (b : Nat) (h : ∀ i, i < 2048 → Memory.get m (a + i) = (t.bankBytes b).getD i 0) {e : Nat}
    (he : e < 256) : Memory.readN m (a + 8 * e) 4 = NMap.get t.rtCount (256 * b + e) 0 % 2 ^ 32 ∧
      Memory.readN m (a + 8 * e + 4) 4 = (NMap.get t.rtPsum (256 * b + e) 0).toNat := by
  have hlen := length_bankBytes t b
  have hread (off : Nat) (ho : off + 4 ≤ 2048) : Memory.readN m (a + off) 4 = fieldN (t.bankBytes b) off 4 :=
    readN_eq_fieldN (by rw [hlen]; exact h) (by rw [hlen]; exact ho)
  rw [Nat.add_assoc a, hread _ (by omega), hread _ (by omega)]
  exact fieldN_bankBytes t b he

/-- The other bank counts from now on. -/
def Tile.flip (t : Tile) : Tile := { t with rtLive := 1 - t.rtLive }

/-- The state once the banks of a tile have flipped for a snapshot. -/
def State.flipped (s : State) (g : Nat) (r : Req) : State :=
  ((s.updTile g Tile.flip).updReq r.id (fun q => { q with phase := .accepted })).settle r.id

theorem exec_snapshot_flip {g : Nat} (h : s.req s.ev.id = some r) (hq : NMap.find s.regions r.inst = some q) (hl : q.live = true) (ho : r.op = .rtSnap)
    (hw : r.who.tile = some g) (hp : r.pieces = p :: ps) (hph : r.phase = .wait) (hmay : s.mayPerform r p = true)
    (hbusy : s.unitBusy r (fun o => o == .rtSnap) = false) : exec .eRouteSnapshotWrite s = .next (s.flipped g r) := by
  show execRouteSnapshotWrite s = _
  simp only [execRouteSnapshotWrite, liveReq_of h hq hl, ho, hw, hp, hph, if_true, hmay, hbusy, Bool.not_true, Bool.false_eq_true, or_self, if_false]
  rfl

theorem flipped_spec {g : Nat} (hr : s.req r.id = some r) (hc : r.counted = true) : ((s.flipped g r).tile g).rtLive = 1 - (s.tile g).rtLive ∧
    ((s.flipped g r).tile g).rtCount = (s.tile g).rtCount ∧ (s.flipped g r).mem = s.mem ∧ ∃ x, (s.flipped g r).req r.id = some x ∧ x.phase = .accepted := by
  have hu : ((s.updTile g Tile.flip).updReq r.id (fun q => { q with phase := .accepted })).req r.id = some { r with phase := .accepted } :=
    req_updReq_same (fun _ => rfl) hr
  have htile : ((s.updTile g Tile.flip).updReq r.id (fun q => { q with phase := .accepted })).tile g = (s.tile g).flip := tile_updTile_same ..
  unfold State.flipped
  have hmem : ((s.updTile g Tile.flip).updReq r.id (fun q => { q with phase := .accepted })).mem = s.mem := rfl
  generalize (s.updTile g Tile.flip).updReq r.id (fun q => { q with phase := .accepted }) = t at *
  refine ⟨?_, ?_, (settle_mem ..).trans hmem, _, (req_congr (settle_counted hu hc) _).trans hu, rfl⟩
  · rw [(sameTiles_settle t r.id).rtLive, htile]
    rfl
  · rw [(sameTiles_settle t r.id).rtCount, htile]
    rfl

/-- Where the bytes of a snapshot go. -/
def State.putSnap (s : State) (p : Piece) (bs : List Byte) : State :=
  match p.place with
  | .spad h o => s.writeSp h o 2048 (natOfBytes bs)
  | .phys pa => s.putBytes pa bs p.key
  | .virt _ => s

/-- The snapshot is written and its bank cleared. -/
def State.snapped (s : State) (g : Nat) (r : Req) (p : Piece) : State :=
  ((s.putSnap p ((s.tile g).bankBytes (1 - (s.tile g).rtLive))).updTile g (fun t => t.clearBank (1 - (s.tile g).rtLive))).performedNow r.id 0

theorem exec_snapshot_write {g : Nat} (h : s.req s.ev.id = some r) (hq : NMap.find s.regions r.inst = some q) (hl : q.live = true) (ho : r.op = .rtSnap)
    (hw : r.who.tile = some g) (hp : r.pieces = p :: ps) (hph : r.phase = .accepted) : exec .eRouteSnapshotWrite s = .next (s.snapped g r p) := by
  have hperf : r.performed = false := by simp only [Req.performed, hph]
  show execRouteSnapshotWrite s = _
  simp only [execRouteSnapshotWrite, liveReq_of h hq hl, ho, hw, hp, hph, hperf, reduceCtorEq, Bool.false_eq_true, if_false]
  rfl

theorem putSnap_reqs (s : State) (p : Piece) (bs : List Byte) : (s.putSnap p bs).reqs = s.reqs := by
  unfold State.putSnap
  split
  · rfl
  · next pa _ =>
    have hs : s.sameBut (s.putEach pa bs p.key) := by
      induction bs using List.reverseRecOn with
      | nil => exact rfl
      | append_singleton bs b ih =>
        rw [putEach_append]
        exact State.sameBut_trans ih (State.putPa_spec ..).1
    show (s.putEach pa bs p.key).reqs = s.reqs
    exact sameBut_reqs hs
  · rfl

section
variable {g : Nat}

theorem snapped_cleared {e : Nat} (he : e < 256) : NMap.get ((s.snapped g r p).tile g).rtCount (256 * (1 - (s.tile g).rtLive) + e) 0 = 0 ∧
    NMap.get ((s.snapped g r p).tile g).rtPsum (256 * (1 - (s.tile g).rtLive) + e) 0 = 0 := by
  have hs := sameTiles_performedNow
    ((s.putSnap p ((s.tile g).bankBytes (1 - (s.tile g).rtLive))).updTile g (fun t => t.clearBank (1 - (s.tile g).rtLive))) r.id 0
  rw [State.snapped, hs.rtCount, hs.rtPsum, tile_updTile_same]
  exact clearBank_get _ _ he

theorem snapped_done (hr : s.req r.id = some r) (hc : r.counted = true) : ∃ x, (s.snapped g r p).req r.id = some x ∧ x.phase = .done :=
  ⟨_, req_performedNow (s := State.updTile ..) ((req_congr (putSnap_reqs ..) _).trans hr) hc 0, rfl⟩

theorem snapped_mem (s : State) (g : Nat) (r : Req) (p : Piece) : (s.snapped g r p).mem = (s.putSnap p ((s.tile g).bankBytes (1 - (s.tile g).rtLive))).mem :=
  performedNow_mem ..

theorem snapped_spad {h o : Nat} (hp : p.place = .spad h o) : ((s.snapped g r p).tile h).spad =
    Memory.writeBytes (s.tile h).spad o ((s.tile g).bankBytes (1 - (s.tile g).rtLive)) := by
  have hlen := length_bankBytes (s.tile g) (1 - (s.tile g).rtLive)
  have hput : s.putSnap p ((s.tile g).bankBytes (1 - (s.tile g).rtLive)) =
      s.writeSp h o 2048 (natOfBytes ((s.tile g).bankBytes (1 - (s.tile g).rtLive))) := by
    simp only [State.putSnap, hp]
  rw [State.snapped, (sameTiles_performedNow ..).spad, tile_updTile_keep Tile.spad _ g h (fun t => t.clearBank (1 - (s.tile g).rtLive)) fun _ => rfl, hput,
    State.writeSp, tile_updTile_same]
  rw [← hlen, writeN_natOfBytes]

theorem snapshot_spad {h o : Nat} (hr : s.req r.id = some r) (hc : r.counted = true) (hp : p.place = .spad h o) :
    (s.snapped g r p).mem = s.mem ∧ (∀ e, e < 256 → let b := 1 - (s.tile g).rtLive
      Memory.readN ((s.snapped g r p).tile h).spad (o + 8 * e) 4 = NMap.get (s.tile g).rtCount (256 * b + e) 0 % 2 ^ 32 ∧
      Memory.readN ((s.snapped g r p).tile h).spad (o + 8 * e + 4) 4 = (NMap.get (s.tile g).rtPsum (256 * b + e) 0).toNat ∧
      NMap.get ((s.snapped g r p).tile g).rtCount (256 * b + e) 0 = 0 ∧ NMap.get ((s.snapped g r p).tile g).rtPsum (256 * b + e) 0 = 0) ∧
    (∀ a, a < o ∨ o + 2048 ≤ a → Memory.get ((s.snapped g r p).tile h).spad a = Memory.get (s.tile h).spad a) ∧
    ∃ x, (s.snapped g r p).req r.id = some x ∧ x.phase = .done := by
  have hlen := length_bankBytes (s.tile g) (1 - (s.tile g).rtLive)
  refine ⟨?_, fun e he => ?_, fun a ha => ?_, snapped_done hr hc⟩
  · rw [snapped_mem, State.putSnap, hp]
    rfl
  · obtain ⟨h1, h2⟩ := readN_bankBytes (m := ((s.snapped g r p).tile h).spad) (a := o) (s.tile g) (1 - (s.tile g).rtLive)
      (fun i hi => by rw [snapped_spad hp, get_writeBytes _ _ _ (by omega)]) he
    exact ⟨h1, h2, snapped_cleared he⟩
  · rw [snapped_spad hp, Memory.get_writeBytes_other _ _ _ _ (by omega)]

theorem snapshot_phys (hr : s.req r.id = some r) (hc : r.counted = true) (hp : p.place = .phys pa) (hm : s.migs = [])
    (hb : ∀ i, i < 2048 → s.barObject (pa + i) = false) : (∀ e, e < 256 → let b := 1 - (s.tile g).rtLive
      Memory.readN (s.snapped g r p).mem (pa + 8 * e) 4 = NMap.get (s.tile g).rtCount (256 * b + e) 0 % 2 ^ 32 ∧
      Memory.readN (s.snapped g r p).mem (pa + 8 * e + 4) 4 = (NMap.get (s.tile g).rtPsum (256 * b + e) 0).toNat ∧
      NMap.get ((s.snapped g r p).tile g).rtCount (256 * b + e) 0 = 0 ∧ NMap.get ((s.snapped g r p).tile g).rtPsum (256 * b + e) 0 = 0) ∧
    (Claims.oneKey s pa 2048 p.key → ∀ a, a < pa ∨ pa + 2048 ≤ a → Memory.get (s.snapped g r p).mem a = Memory.get s.mem a) ∧
    ∃ x, (s.snapped g r p).req r.id = some x ∧ x.phase = .done := by
  have hlen := length_bankBytes (s.tile g) (1 - (s.tile g).rtLive)
  have hmem : (s.snapped g r p).mem = (s.putEach pa ((s.tile g).bankBytes (1 - (s.tile g).rtLive)) p.key).mem := by
    rw [snapped_mem, State.putSnap, hp]
    exact putBytes_mem ..
  have hput := eachPut_putEach (bs := (s.tile g).bankBytes (1 - (s.tile g).rtLive)) (slot := p.key) hm (by rw [hlen]; exact hb)
  refine ⟨fun e he => ?_, fun hk a ha => ?_, snapped_done hr hc⟩
  · obtain ⟨h1, h2⟩ := readN_bankBytes (m := (s.snapped g r p).mem) (a := pa) (s.tile g) (1 - (s.tile g).rtLive)
      (fun i hi => by rw [hmem, hput.bytes i (by omega)]) he
    exact ⟨h1, h2, snapped_cleared he⟩
  · rw [hmem]
    exact (ownRange_putEach ⟨hm, hb, hk⟩ hlen.le).2 a (by omega)

/-! SORTER_RUN (R161). -/

/-- The words that a sort reads. -/
def State.sortWords (s : State) (g src n : Nat) : List Nat := (List.range n).map (fun k => s.readSp g (src + 4 * k) 4)

theorem length_sortWords (s : State) (g src n : Nat) : (s.sortWords g src n).length = n := by rw [State.sortWords, List.length_map, List.length_range]

/-- They are written in rising order, and the request is performed. -/
def State.sorted (s : State) (g : Nat) (r : Req) (src dst n : Nat) : State :=
  (s.writeSp g dst (4 * n) (natOfBytes (bytesOf32 ((s.sortWords g src n).mergeSort (fun a b => decide (a ≤ b)))))).performedNow r.id 0

theorem exec_sorterRun {src dst n : Nat} (h : s.req s.ev.id = some r) (hq : NMap.find s.regions r.inst = some q) (hl : q.live = true)
    (ho : r.op = .rsort src dst n) (hw : r.who.tile = some g) (hmay : ∀ p ∈ r.pieces, s.mayPerform r p = true)
    (hbusy : s.unitBusy r ReqOp.isSort = false) : exec .eSorterRun s = .next (s.sorted g r src dst n) := by
  have hgo : ¬ (r.pieces.any (fun p => !s.mayPerform r p) = true ∨ s.unitBusy r ReqOp.isSort = true) := by
    simpa [hbusy] using hmay
  show execSorterRun s = _
  simp only [execSorterRun, liveReq_of h hq hl, ho, hw, if_neg hgo]
  rfl

theorem sorted_words (s : State) (g : Nat) (r : Req) (src dst n : Nat) :
    (s.sorted g r src dst n).sortWords g dst n = (s.sortWords g src n).mergeSort (fun a b => decide (a ≤ b)) ∧
      ∀ o, o < dst ∨ dst + 4 * n ≤ o → Memory.get ((s.sorted g r src dst n).tile g).spad o = Memory.get (s.tile g).spad o := by
  have hperm := List.mergeSort_perm (s.sortWords g src n) (fun a b => decide (a ≤ b))
  have hlt : ∀ w ∈ (s.sortWords g src n).mergeSort (fun a b => decide (a ≤ b)), w < 256 ^ 4 := by
    intro w hw
    obtain ⟨k, -, rfl⟩ := List.mem_map.1 (hperm.subset hw)
    exact readN_lt ..
  have hcount : ((s.sortWords g src n).mergeSort (fun a b => decide (a ≤ b))).length = n := by
    rw [hperm.length_eq, length_sortWords]
  have hspad : ((s.sorted g r src dst n).tile g).spad =
      Memory.writeN (s.tile g).spad dst (4 * n) (natOfBytes (bytesOf32 ((s.sortWords g src n).mergeSort (fun a b => decide (a ≤ b))))) := by
    rw [State.sorted, (sameTiles_performedNow ..).spad, State.writeSp, tile_updTile_same]
  generalize (s.sortWords g src n).mergeSort (fun a b => decide (a ≤ b)) = l at *
  have h4 : ∀ w ∈ l, (bytesOfNat 4 w).length = 4 := fun w _ => length_bytesOfNat 4 w
  have hlen : (bytesOf32 l).length = 4 * n := (length_flatMap_of_eq h4).trans (by rw [hcount])
  rw [← hlen, writeN_natOfBytes] at hspad
  refine ⟨List.ext_getElem (by rw [length_sortWords, hcount]) fun k _ hk => ?_, fun o ho => ?_⟩
  · have hread := readN_eq_fieldN (m := ((s.sorted g r src dst n).tile g).spad) (a := dst) (bs := bytesOf32 l) (off := 4 * k) (n := 4)
      (fun i hi => by rw [hspad, get_writeBytes _ _ _ hi]) (by omega)
    have hfield := fieldN_flatMap h4 hk (off := 0) (n := 4) (by omega)
    rw [fieldN_bytesOfNat, Nat.mod_eq_of_lt (hlt _ (List.getElem_mem hk)), Nat.add_zero] at hfield
    simp only [State.sortWords, List.getElem_map, List.getElem_range]
    exact hread.trans hfield
  · rw [hspad, Memory.get_writeBytes_other _ _ _ _ (by omega)]

theorem sorter_spec {src dst n : Nat} (hr : s.req r.id = some r) (hc : r.counted = true) : (s.sorted g r src dst n).mem = s.mem ∧
    ((s.sorted g r src dst n).sortWords g dst n).Perm (s.sortWords g src n) ∧
    (∀ k, k + 1 < n → (s.sorted g r src dst n).readSp g (dst + 4 * k) 4 ≤ (s.sorted g r src dst n).readSp g (dst + 4 * (k + 1)) 4) ∧
    (∀ o, o < dst ∨ dst + 4 * n ≤ o → Memory.get ((s.sorted g r src dst n).tile g).spad o = Memory.get (s.tile g).spad o) ∧
    (∀ h, h ≠ g → ((s.sorted g r src dst n).tile h).spad = (s.tile h).spad) ∧ ∃ x, (s.sorted g r src dst n).req r.id = some x ∧ x.phase = .done := by
  obtain ⟨hwords, hother⟩ := sorted_words s g r src dst n
  refine ⟨performedNow_mem .., hwords ▸ List.mergeSort_perm .., fun k hk => ?_, hother, fun h hh => ?_, _, req_performedNow (s := State.writeSp ..) hr hc 0, rfl⟩
  · have hrise : ((s.sorted g r src dst n).sortWords g dst n).Pairwise (· ≤ ·) := by
      rw [hwords]
      exact (List.pairwise_mergeSort (le := fun a b : Nat => decide (a ≤ b))
        (fun a b c hab hbc => decide_eq_true ((of_decide_eq_true hab).trans (of_decide_eq_true hbc)))
        (fun a b => by simpa using Nat.le_total a b) _).imp of_decide_eq_true
    have h := List.pairwise_iff_getElem.1 hrise k (k + 1) (by rw [length_sortWords]; omega) (by rwa [length_sortWords]) (Nat.lt_succ_self k)
    simpa only [State.sortWords, List.getElem_map, List.getElem_range] using h
  · rw [State.sorted, (sameTiles_performedNow ..).spad, State.writeSp, tile_updTile_other _ _ hh.symm]

/-! GENERATOR_REQUEST_SERVE (R304, R305). -/

theorem exec_seed {v : Word} (h : s.req s.ev.id = some r) (hq : NMap.find s.regions r.inst = some q) (hl : q.live = true) (hw : r.who.tile = some g)
    (hph : r.phase = .wait) (hfirst : (s.earlier r).any (fun x => x.op.isRng && !x.performed) = false) (ho : r.op = .rngSeed v) :
    exec .eGeneratorRequestServe s = .next ((s.updTile g (fun t => { t with rngSeed := v, rngCtr := 0 })).finish r.id 0) := by
  show execGeneratorRequestServe s = _
  simp only [execGeneratorRequestServe, liveReq_of h hq hl, hw, hph, hfirst, ne_eq, not_true_eq_false, Bool.false_eq_true, or_self, if_false, ho]

theorem exec_draw {n : Nat} (h : s.req s.ev.id = some r) (hq : NMap.find s.regions r.inst = some q) (hl : q.live = true) (hw : r.who.tile = some g)
    (hph : r.phase = .wait) (hfirst : (s.earlier r).any (fun x => x.op.isRng && !x.performed) = false) (ho : r.op = .rng n) :
    exec .eGeneratorRequestServe s = .next (s.draw g r n) := by
  show execGeneratorRequestServe s = _
  simp only [execGeneratorRequestServe, liveReq_of h hq hl, hw, hph, hfirst, ne_eq, not_true_eq_false, Bool.false_eq_true, or_self, if_false, ho]

/-- A run of the generator's counters is drawn. -/
def Tile.drawn (n : Nat) (t : Tile) : Tile := { t with rngCtr := t.rngCtr + BitVec.ofNat 64 (max n 1) }

/-- The token that a draw sends. -/
def Tile.drawTok (t : Tile) (r : Req) (n : Nat) : Tok :=
  if n = 0 then Tok.scalar r.thread r.iter (t.rngWord t.rngCtr)
  else Tok.vec r.thread r.iter ((List.range n).map (fun k => ((t.rngWord (t.rngCtr + BitVec.ofNat 64 k)) >>> 32).setWidth 32)) []

theorem draw_spec (hr : s.req r.id = some r) (hc : r.counted = true) (g n : Nat) : ((s.draw g r n).tile g).rngSeed = (s.tile g).rngSeed ∧
    ((s.draw g r n).tile g).rngCtr = (s.tile g).rngCtr + BitVec.ofNat 64 (max n 1) ∧
    (s.draw g r n).gives r ((s.tile g).rngWord (s.tile g).rngCtr) ((s.tile g).drawTok r n) := by
  have he : s.draw g r n = match r.who with
      | .elem _ _ => ((s.updTile g (Tile.drawn n)).updReq r.id (fun q => { q with op := .emit ((s.tile g).drawTok r n) })).finish r.id 0
      | _ => (s.updTile g (Tile.drawn n)).finish r.id ((s.tile g).rngWord (s.tile g).rngCtr) := rfl
  have htile : (s.updTile g (Tile.drawn n)).tile g = (s.tile g).drawn n := tile_updTile_same ..
  have hu : (s.updTile g (Tile.drawn n)).req r.id = some r := hr
  rw [he]
  generalize s.updTile g (Tile.drawn n) = t at *
  split
  · next h e hw =>
    have hupd : SameTiles t (t.updReq r.id (fun q => { q with op := .emit ((s.tile g).drawTok r n) })) := sameTiles_of_eq rfl
    have hs := hupd.trans (sameTiles_finish _ r.id 0)
    have hu' := req_updReq_same (f := fun q => { q with op := .emit ((s.tile g).drawTok r n) }) (fun _ => rfl) hu
    rw [hs.rngSeed, hs.rngCtr, htile]
    exact ⟨rfl, rfl, _, req_finish hu' hc 0, rfl, fun _ _ _ hw' => absurd (hw.symm.trans hw') Agent.noConfusion, fun _ _ _ => rfl⟩
  · next hw =>
    rw [(sameTiles_finish t ..).rngSeed, (sameTiles_finish t ..).rngCtr, htile]
    exact ⟨rfl, rfl, _, req_finish hu hc _, rfl, fun _ _ _ _ => rfl, fun h e hw' => absurd hw' (hw h e)⟩

end
end

end Sys2Proof.Machine
end

section
namespace Sys2Proof.Machine
open State

/-- Settles O53: what a sketch operation computes is `partSketch`, and each row of a unit has its equation, whose state has its own facts. -/
theorem unitSteps : Obligations.UnitSteps := by
  refine ⟨partSketch, fun s r q h hq hl hc => ?_⟩
  intro answered
  have hr : s.req r.id = some r := by rw [id_of_req h]; exact h
  have hans {t : State} {v : Word} (hg : t.gives r v (Tok.scalar r.thread r.iter v)) : answered t v := hg
  refine ⟨?_, ?_, ?_, ?_, ?_, ?_, ?_, ?_⟩
  · intro p ps pa l s1 hp hpl hs hmay hfirst hflag hmerging hbad hm hop
    rw [exec_sketch h hq hl ⟨hp, hpl, hmay, hfirst, hflag, hmerging, hbad⟩ hs, skAct_other hm, hop]
    rfl
  · intro p ps pa src room past w got fin s1 hp hpl ho hmay hfirst hflag hmerging hbad hop
    rw [exec_sketch h hq hl ⟨hp, hpl, hmay, hfirst, hflag, hmerging, hbad⟩ (by rw [ho]; rfl), skAct_merge ho, hop]
    rfl
  · intro p ps pa k hp hpl ho hmay hfirst hflag hmerging hbad hk hroom
    refine ⟨s.unitDone r [k.w0] (Tok.scalar r.thread r.iter k.w0), ?_, unitDone_mem .., hans (gives_unitDone hr hc [k.w0] _)⟩
    have htok : r.skTok [k.w0] = Tok.scalar r.thread r.iter k.w0 := by rw [Req.skTok, ho]; rfl
    have hm : ∀ a b c d e, r.op ≠ .skMerge a b c d e := by simp [ho]
    rw [exec_sketch h hq hl ⟨hp, hpl, hmay, hfirst, hflag, hmerging, hbad⟩ (by rw [ho]; rfl), skAct_other hm, skOp_stat hk hroom ho, State.skEnd, htok]
  · intro p ps pa cause hp hpl hs hmay hfirst hflag hmerging hbad hm hop
    rw [exec_sketch h hq hl ⟨hp, hpl, hmay, hfirst, hflag, hmerging, hbad⟩ hs, skAct_other hm, hop]
    rfl
  · intro p ps pa hp hpl hmay hfirst v l
    have hx (ho : r.op.isHold = true) : exec .eHoldingsOpAtVault s = .next (s.holdOp r pa) := exec_holdingsOp h hq hl hp hpl hmay hfirst ho
    refine ⟨fun id len ho => ?_, fun id ho => ?_, fun id ho => ?_⟩
    · obtain ⟨hmem, hgives, hholds⟩ := holdOp_ins (pa := pa) ho hr hc
      exact ⟨_, hx (by rw [ho]; rfl), hmem, hans hgives, hholds.trans (holds_insert ..)⟩
    · obtain ⟨hmem, hgives, hholds⟩ := holdOp_drop (pa := pa) ho hr hc
      exact ⟨_, hx (by rw [ho]; rfl), hmem, hans hgives, hholds⟩
    · obtain ⟨hmem, hgives, hholds⟩ := holdOp_query (pa := pa) ho hr hc
      refine ⟨_, hx (by rw [ho]; rfl), hmem, hholds, fun hf => ?_, fun x hf => ?_⟩
      · rw [holdWord_none hf] at hgives
        exact hans hgives
      · rw [holdWord_some hf] at hgives
        exact hans hgives
  · intro g p ps ho hw hp
    refine ⟨fun hph hmay hbusy => ⟨_, exec_snapshot_flip h hq hl ho hw hp hph hmay hbusy, flipped_spec hr hc⟩,
      fun sp o hph hpl => ⟨_, exec_snapshot_write h hq hl ho hw hp hph, snapshot_spad hr hc hpl⟩,
      fun pa hph hpl hm hb => ⟨_, exec_snapshot_write h hq hl ho hw hp hph, snapshot_phys hr hc hpl hm hb⟩⟩
  · intro g src dst n ho hw hmay hbusy
    exact ⟨_, exec_sorterRun h hq hl ho hw hmay hbusy, sorter_spec hr hc⟩
  · intro g hw hph hfirst
    refine ⟨fun v ho => ⟨_, exec_seed h hq hl hw hph hfirst ho, ?_⟩, fun n ho => ⟨_, exec_draw h hq hl hw hph hfirst ho, ?_⟩⟩
    · have hs := sameTiles_finish (s.updTile g (fun t => { t with rngSeed := v, rngCtr := 0 })) r.id 0
      rw [hs.rngSeed, hs.rngCtr, tile_updTile_same]
      exact ⟨rfl, rfl, _, req_finish (s := State.updTile ..) hr hc 0, rfl⟩
    · obtain ⟨hseed, hctr, x, hx, hdone, hctx, helem⟩ := draw_spec hr hc g n
      refine ⟨hseed, hctr, fun hn => ⟨x, hx, hdone, hctx, fun k e hwho => ?_⟩, fun k e hn hwho => ⟨x, hx, hdone, ?_⟩⟩
      · rw [helem k e hwho, Tile.drawTok, if_pos hn]
      · rw [helem k e hwho, Tile.drawTok, if_neg (by omega)]
        rfl

end Sys2Proof.Machine
end

section
namespace Sys2Proof.Machine
open State

/-! Tenders (O58). What reading an image and a frame, a load that ends, and an award leave of the tenders and their counts (R169). -/

/-! The tenders under the functions that read a record's image and its frame: a data error reports, and awards nothing. -/

@[simp] theorem rollWindow_tends (s : State) (u : Nat) : (s.rollWindow u).tends = s.tends := by
  unfold State.rollWindow
  dsimp only
  split_ifs <;> rfl

@[simp] theorem lasting_tends (s : State) (u : Nat) : (s.lasting u).tends = s.tends := by
  unfold State.lasting
  dsimp only
  split_ifs <;> rfl

@[simp] theorem bumpFleet_tends (s : State) (g k n : Nat) : (s.bumpFleet g k n).tends = s.tends := rfl

theorem foldl_bumpFleet_tends (l : List Bid) (k n : Nat) (s : State) : (l.foldl (fun s b => s.bumpFleet b.tile k n) s).tends = s.tends :=
  List.foldlRecOn (motive := fun u : State => u.tends = s.tends) l _ rfl fun _ hu _ _ => hu

@[simp] theorem unitError_tends (s : State) (u : Nat) : (s.unitError u).tends = s.tends := by
  unfold State.unitError
  dsimp only
  split_ifs <;> simp

@[simp] theorem blockError_tends (s : State) (pa : Nat) : (s.blockError pa).tends = s.tends := unitError_tends ..

@[simp] theorem sendCheck_tends (s : State) (g tenant i cls detail addr unit phys : Nat) :
    (s.sendCheck g tenant i cls detail addr unit phys).tends = s.tends := by
  unfold State.sendCheck State.foundAt
  split_ifs <;> rfl

@[simp] theorem memCheck_tends (s : State) (tenant inst pa : Nat) : (s.memCheck tenant inst pa).tends = s.tends :=
  (sendCheck_tends ..).trans (blockError_tends ..)

@[simp] theorem markLeaf_tends (s : State) (l : Leaf) (wr : Bool) : (s.markLeaf l wr).2.tends = s.tends := by
  rw [markLeaf_snd]
  split_ifs <;> rfl

@[simp] theorem readImg_tends (s : State) (tenant root fuel va n : Nat) : (s.readImg tenant root fuel va n).2.tends = s.tends := by
  induction fuel generalizing s va n with
  | zero => rfl
  | succ fuel ih =>
    unfold State.readImg
    grind [markLeaf_tends]

@[simp] theorem loadImage_tends (s : State) (inst tenant root code : Nat) : (s.loadImage inst tenant root code).2.tends = s.tends := by
  unfold State.loadImage
  dsimp only
  repeat' split
  all_goals grind [memCheck_tends, readImg_tends]

@[simp] theorem readFrame_tends (s : State) (inst tenant root fuel va n : Nat) :
    (s.readFrame inst tenant root fuel va n).2.tends = s.tends := by
  induction fuel generalizing va n with
  | zero => rfl
  | succ fuel ih =>
    unfold State.readFrame
    grind [memCheck_tends]

@[simp] theorem rangesFor_tends (s : State) (inst tenant root : Nat) (ws : List Word) (m : Img) :
    (s.rangesFor inst tenant root ws m).2.tends = s.tends := by
  unfold State.rangesFor
  grind [readFrame_tends]

@[simp] theorem bidsFor_tends (s : State) (t : Tend) : (s.bidsFor t).2.tends = s.tends := by
  unfold State.bidsFor
  grind [rangesFor_tends, loadImage_tends]

/-! An award, and what the end of a load leaves. -/

section
variable {s : State} {t : Tend} {b : Bid} {seq j : Nat} {r : Region}

theorem updTend_tends (s : State) (seq : Nat) (f : Tend → Tend) :
    (s.updTend seq f).tends = s.tends.map (fun x => if x.seq = seq ∧ x.pending = true then f x else x) := rfl

/-- A tender whose next bid is awarded, its job under number `n`. -/
def Tend.awardedTo (t : Tend) (b : Bid) (q : QRec) (n : Nat) : Tend :=
  { t with st := 2, tried := t.tried + 1, cost := b.cost, tile := b.tile, rcd := { q with inst := some n } }

/-- The next bid of `t` is awarded: one more award, the tender's record names its job's number, and its region stands, popped and without a tile. -/
structure Awards (s s' : State) (t : Tend) (b : Bid) : Prop where
  awards : s'.awards = s.awards + 1
  wdraws : s'.wdraws = s.wdraws
  tends : s'.tends = s.tends.map (fun x => if x.seq = t.seq ∧ x.pending = true then x.awardedTo b t.rcd (s.instOf t.rcd) else x)
  region : ∃ q, NMap.find s'.regions (s.instOf t.rcd) = some q ∧ q.tender = some t.seq ∧ q.st = .popped ∧ q.recd = t.rcd.words

theorem awards_award (s : State) (hb : t.bids[t.tried]? = some b) : Awards s (s.award t) t b := by
  rw [State.award, hb]
  exact ⟨rfl, rfl, rfl, _, NMap.find_set_same .., rfl, rfl, rfl⟩

/-- Replacing the pending tender of a number by `t'` and then awarding is one change, where `t'` is pending under that number. -/
theorem map_close_award {l : List Tend} {t' : Tend} {f : Tend → Tend} (hs : t'.seq = seq) (hp : t'.pending = true) :
    (l.map (fun x => if x.seq = seq ∧ x.pending = true then t' else x)).map (fun x => if x.seq = seq ∧ x.pending = true then f x else x) =
      l.map (fun x => if x.seq = seq ∧ x.pending = true then f t' else x) := by
  rw [List.map_map]
  refine List.map_congr_left fun x _ => ?_
  by_cases hx : x.seq = seq ∧ x.pending = true
  · simp [hx, hs, hp]
  · simp [hx]

/-- The end of a load gives its tiles back; tenders, their counts and the next job's number stay. -/
structure KeepsTenders (s s' : State) : Prop where
  tends : s'.tends = s.tends
  awards : s'.awards = s.awards
  wdraws : s'.wdraws = s.wdraws
  instSeq : s'.instSeq = s.instSeq

theorem KeepsTenders.refl (s : State) : KeepsTenders s s := ⟨rfl, rfl, rfl, rfl⟩

theorem KeepsTenders.trans {s s' s'' : State} (h : KeepsTenders s s') (h' : KeepsTenders s' s'') : KeepsTenders s s'' :=
  ⟨h'.tends.trans h.tends, h'.awards.trans h.awards, h'.wdraws.trans h.wdraws, h'.instSeq.trans h.instSeq⟩

theorem KeepsTenders.instOf {s s' : State} (h : KeepsTenders s s') (q : QRec) : s'.instOf q = s.instOf q := by
  rw [State.instOf, State.instOf, h.instSeq]

theorem keepsTenders_updReg (s : State) (i : Nat) (f : Region → Region) : KeepsTenders s (s.updReg i f) := by
  rw [updReg_regions]
  exact ⟨rfl, rfl, rfl, rfl⟩

/-- A fold of updates of tiles changes nothing but the tiles. -/
theorem foldl_updTile_tiles (f : State → Nat → Tile → Tile) (l : List Nat) (s : State) :
    ∃ ts, l.foldl (fun s g => s.updTile g (f s g)) s = { s with tiles := ts } := by
  induction l generalizing s with
  | nil => exact ⟨_, rfl⟩
  | cons g l ih =>
    obtain ⟨ts, ht⟩ := ih (s.updTile g (f s g))
    exact ⟨ts, ht⟩

theorem keepsTenders_dropLoad (s : State) (i : Nat) (r : Region) : KeepsTenders s (s.dropLoad i r) := by
  obtain ⟨ts, ht⟩ := foldl_updTile_tiles (fun _ _ x => if x.inst = some i then { x with inst := none } else x) r.tiles s
  have hk : KeepsTenders s { s with tiles := ts } := ⟨rfl, rfl, rfl, rfl⟩
  rw [State.dropLoad, ht]
  dsimp only
  split_ifs
  · exact hk.trans (keepsTenders_updReg ..)
  · exact ⟨rfl, rfl, rfl, rfl⟩

/-- The award of a withdrawal: the region of the one before is dropped, and the next kept bid is awarded. -/
theorem withdraw_eq (s : State) (t : Tend) :
    ∃ s', KeepsTenders s s' ∧ s.withdraw t = (({ s' with wdraws := s'.wdraws + 1 } : State).bumpFleet t.tile 14 1).award t := by
  unfold State.withdraw
  split
  · exact ⟨_, keepsTenders_dropLoad .., rfl⟩
  · exact ⟨s, .refl s, rfl⟩

theorem awards_withdraw (s : State) (hb : t.bids[t.tried]? = some b) : Awards { s with wdraws := s.wdraws + 1 } (s.withdraw t) t b := by
  obtain ⟨s', hk, he⟩ := withdraw_eq s t
  obtain ⟨hawards, hwdraws, htends, hregion⟩ := awards_award (({ s' with wdraws := s'.wdraws + 1 } : State).bumpFleet t.tile 14 1) hb
  have hinst : (({ s' with wdraws := s'.wdraws + 1 } : State).bumpFleet t.tile 14 1).instOf t.rcd = s.instOf t.rcd := hk.instOf t.rcd
  rw [hinst] at htends hregion
  rw [he]
  exact ⟨hawards.trans (congrArg (· + 1) hk.awards), hwdraws.trans (congrArg (· + 1) hk.wdraws),
    htends.trans (congrArg (List.map _) hk.tends), hregion⟩

/-! Go at the awarded tile. -/

/-- A tile at go: every context has its frame pointer and trap vector (R352). -/
def Tile.atGo (r : Region) (tvec : BitVec 8) (t : Tile) : Tile :=
  { t with tps := t.tps.map (fun (p : Nat × Tp) =>
      (p.1, { p.2 with ctxs := p.2.ctxs.map (fun (c : Nat × Ctx) => (c.1, c.2.atGo r.frame tvec)) })) }

/-- Every team of a region has taken its registers of go. -/
def State.teamsGo (s : State) (r : Region) : State := r.tiles.foldl (fun s g => s.updTile g (Tile.atGo r s.stewTvec)) s

theorem go_teamsGo (s : State) (i : Nat) (r : Region) : s.go i r =
    (s.teamsGo r).updReg i (fun q => { q with st := .running, goAt := some ((s.teamsGo r).acCycles (q.tiles.headD 0)), wdg := 0 }) := rfl

theorem go_eq (s : State) (i : Nat) (r : Region) : ∃ ts, s.go i r =
    ({ s with tiles := ts } : State).updReg i (fun q => { q with st := .running, goAt := some (s.acCycles (q.tiles.headD 0)), wdg := 0 }) := by
  obtain ⟨ts, ht⟩ := foldl_updTile_tiles (fun s _ => Tile.atGo r s.stewTvec) r.tiles s
  have ht' : s.teamsGo r = { s with tiles := ts } := ht
  exact ⟨ts, by rw [go_teamsGo, ht']; rfl⟩

theorem keepsTenders_go (s : State) (i : Nat) (r : Region) : KeepsTenders s (s.go i r) := by
  obtain ⟨ts, he⟩ := go_eq s i r
  have hk : KeepsTenders s { s with tiles := ts } := ⟨rfl, rfl, rfl, rfl⟩
  rw [he]
  exact hk.trans (keepsTenders_updReg ..)

theorem find_go (hr : NMap.find s.regions j = some r) :
    NMap.find (s.go j r).regions j = some { r with st := .running, goAt := some (s.acCycles (r.tiles.headD 0)), wdg := 0 } := by
  obtain ⟨ts, he⟩ := go_eq s j r
  rw [he, find_updReg, if_pos rfl]
  exact congrArg _ hr

/-! The events. -/

theorem exec_tenderAnnounce (hf : s.tends.find? (fun x => x.pending && !x.announced) = some t) :
    exec .eTenderAnnounce s = .next ((s.bidsFor t).1.foldl (fun s b => s.bumpFleet b.tile 12 1)
      ((s.bidsFor t).2.updTend t.seq (fun x => { x with announced := true, bids := (s.bidsFor t).1 }))) := by
  show execTenderAnnounce s = _
  rw [execTenderAnnounce, hf]

theorem exec_bidWindowExpiry (ht : s.tendOf s.ev.id = some t) (ha : t.announced = true) (hc : t.closed = false) {l : List Bid}
    (hl : (t.bids.filter (fun b => s.ev.body.getD b.tile 0 == 0)).take 4 = l) :
    exec .eBidWindowExpiry s =
      .next ((s.updTend t.seq (fun _ => { t with bids := l, closed := true })).award { t with bids := l, closed := true }) := by
  show execBidWindowExpiry s = _
  simp only [execBidWindowExpiry, ht, ha, hc, hl, Bool.not_true, Bool.false_eq_true, or_self, if_false]

theorem exec_awardGo (ht : s.tendOf s.ev.id = some t) (hr : s.awarded s.ev.id = some (j, r)) (hst : t.st = 2) (hl : r.st = .loaded)
    (hw : s.awake r = true) : exec .eAwardGo s = .next ((s.go j r).updTend t.seq (fun x => { x with st := 3 })) := by
  show execAwardGo s = _
  simp only [execAwardGo, ht, hr]
  rw [if_pos ⟨hst, hl, hw⟩]

theorem exec_loaderWithdrawal (ht : s.tendOf s.ev.id = some t) (hr : s.awarded s.ev.id = some (j, r)) (hst : t.st = 2)
    (hp : r.st = .popped ∨ r.st = .writing) (hf : (s.awardFails t r).1 = true) :
    exec .eLoaderWithdrawal s = .next ((s.awardFails t r).2.withdraw t) := by
  show execLoaderWithdrawal s = _
  simp only [execLoaderWithdrawal, ht, hr]
  rw [if_neg (by tauto)]
  generalize s.awardFails t r = u at hf
  obtain ⟨_, u⟩ := u
  cases hf
  rfl

theorem exec_loaderWithdrawal_idle (ht : s.tendOf s.ev.id = some t) (hr : s.awarded s.ev.id = some (j, r))
    (h : t.st ≠ 2 ∨ (r.st ≠ .popped ∧ r.st ≠ .writing)) : exec .eLoaderWithdrawal s = .next s := by
  show execLoaderWithdrawal s = _
  simp only [execLoaderWithdrawal, ht, hr]
  rw [if_pos h]

end

/-- Settles O58, each event from its equation and what an award changes. -/
theorem tenderSteps : Obligations.TenderSteps := by
  intro s t
  refine ⟨fun hf => ?_, fun b rest ht ha hc h0 h1 hl => ?_, fun j r ht hr hj hst hl hw => ?_, fun j r b ht hr hst hp hf hb => ?_,
    fun j r ht hr h => exec_loaderWithdrawal_idle ht hr h⟩
  · refine ⟨_, exec_tenderAnnounce hf, (foldl_mem (fun _ _ => bumpFleet_mem ..) ..).trans (updTend_mem ..), ?_⟩
    rw [foldl_bumpFleet_tends, updTend_tends, bidsFor_tends]
  · have hx := exec_bidWindowExpiry ht ha hc hl
    obtain ⟨hawards, -, htends, hregion⟩ := awards_award (s.updTend t.seq (fun _ => { t with bids := b :: rest, closed := true }))
      (t := { t with bids := b :: rest, closed := true }) (b := b) (by rw [h0]; rfl)
    refine ⟨_, hx, hawards, (award_mem ..).trans (updTend_mem ..), ?_, hregion⟩
    rw [htends, updTend_tends, map_close_award rfl (by simp [Tend.pending, h1])]
    simp only [Tend.awardedTo, h0]
    rfl
  · have hk := keepsTenders_go s j r
    refine ⟨_, exec_awardGo ht hr hst hl hw, find_go hj, ?_⟩
    rw [updTend_tends, hk.tends]
  · obtain ⟨hawards, hwdraws, htends, hregion⟩ := awards_withdraw (s.awardFails t r).2 hb
    exact ⟨_, exec_loaderWithdrawal ht hr hst hp hf, hwdraws, hawards, withdraw_mem .., htends, hregion⟩

end Sys2Proof.Machine
end

section
namespace Sys2Proof.Machine
open State

/-! The tournament and `cmpct` (O33). A firing that changes its element: what `runElem` does with a function that gives another state. -/

section
variable {s u : State} {i : Instr} {h : Shape} {r : Fire} {g e : Nat}
variable {fn : State → Nat → Nat → Elem → Fire → Val → Val → Val → Except (Nat × Word) (State × List Out)}

theorem exec_of_ok {os : List Out} (hF : Fires s i h r g e) (hx : exec i s = .next (runElem i s noneBad fn))
    (hfn : fn s g e (s.elem g e) r (Claims.va s r g e) (Claims.vb s r g e) (Claims.vc s r g e) = .ok (u, os)) :
    exec i s = .next (fired u h r g e os) := by
  obtain ⟨hsite, hcur, hshape, -, hbad⟩ := hF
  exact hx.trans (congrArg _ (runElem_ok hsite hcur hshape hbad hfn))

end

/-! Who wins (R155, R225). -/

theorem FVal.nan_lt (p : FVal) : FVal.nan.lt p = false := by cases p <;> rfl
theorem FVal.lt_nan (p : FVal) : p.lt .nan = false := by cases p <;> rfl

theorem FVal.lt_asymm {p q : FVal} (h : p.lt q = true) : q.lt p = false := by
  cases p with
  | nan => cases h
  | inf a => cases q with
    | nan => cases h
    | inf b => revert a b; decide
    | fin => cases (show a = true from h); rfl
  | fin => cases q with
    | nan => cases h
    | inf b => rw [FVal.lt, Bool.not_eq_true'] at h; exact h
    | fin =>
      simp only [FVal.lt, decide_eq_true_eq, decide_eq_false_iff_not] at h ⊢
      exact h.asymm

/-- A candidate that beats another and is not beaten by it is the best of the two, in either order. -/
theorem candBest_of_beats {x y : Word} (h : candBeats x y = true) (h' : candBeats y x = false) : candBest x y = x ∧ candBest y x = x :=
  ⟨by rw [candBest, h']; rfl, by rw [candBest, h]; rfl⟩

section
variable {x y : Word}

theorem candBest_of_one_excluded (hx : bitOf x 61 = false) (hy : bitOf y 61 = true) : candBest x y = x ∧ candBest y x = x :=
  candBest_of_beats (by simp [candBeats, hx, hy]) (by simp [candBeats, hx, hy])

theorem candBest_of_both_excluded (hx : bitOf x 61 = true) (hy : bitOf y 61 = true) (hid : candId x < candId y) :
    candBest x y = x ∧ candBest y x = x :=
  candBest_of_beats (by simp [candBeats, hx, hy, hid]) (by simp [candBeats, hx, hy, hid.le])

/-- Between two candidates that are not excluded the scores decide, a NaN the lowest, and then the expert ids. -/
theorem candBeats_by_score (hx : bitOf x 61 = false) (hy : bitOf y 61 = false) (hnx : candScore x ≠ .nan) (hny : candScore y ≠ .nan) :
    candBeats x y = if (candScore y).lt (candScore x) then true else if (candScore x).lt (candScore y) then false
      else decide (candId x < candId y) := by
  simp only [candBeats, hx, hy, bne_self_eq_false, Bool.false_eq_true, if_false]
  cases hp : candScore x with
  | nan => exact absurd hp hnx
  | inf => cases hq : candScore y with
    | nan => exact absurd hq hny
    | inf | fin => rfl
  | fin => cases hq : candScore y with
    | nan => exact absurd hq hny
    | inf | fin => rfl

theorem candBest_of_one_nan (hx : bitOf x 61 = false) (hy : bitOf y 61 = false) (hnx : candScore x ≠ .nan) (hny : candScore y = .nan) :
    candBest x y = x ∧ candBest y x = x := by
  apply candBest_of_beats <;> simp only [candBeats, hx, hy, hny, bne_self_eq_false, Bool.false_eq_true, if_false]

theorem candBest_of_higher (hx : bitOf x 61 = false) (hy : bitOf y 61 = false) (hlt : (candScore y).lt (candScore x) = true) :
    candBest x y = x ∧ candBest y x = x := by
  have hnx : candScore x ≠ .nan := fun h => by simp [h, FVal.lt_nan] at hlt
  have hny : candScore y ≠ .nan := fun h => by simp [h, FVal.nan_lt] at hlt
  apply candBest_of_beats
  · rw [candBeats_by_score hx hy hnx hny, if_pos hlt]
  · rw [candBeats_by_score hy hx hny hnx, if_neg (by simp [FVal.lt_asymm hlt]), if_pos hlt]

theorem candBest_of_equal (hx : bitOf x 61 = false) (hy : bitOf y 61 = false) (hnx : candScore x ≠ .nan) (hny : candScore y ≠ .nan)
    (hyx : (candScore y).lt (candScore x) = false) (hxy : (candScore x).lt (candScore y) = false) (hid : candId x < candId y) :
    candBest x y = x ∧ candBest y x = x := by
  apply candBest_of_beats
  · simp [candBeats_by_score hx hy hnx hny, hyx, hxy, hid]
  · simp [candBeats_by_score hy hx hny hnx, hyx, hxy, hid.le]

end

/-! `cmpfw` (R225, R226). -/

/-- The winner leaves with tr set. -/
theorem emit_of_both {q : Pair} {u v : Tok} (r : Fire) (h0 : q.c0 = some u) (h1 : q.c1 = some v) :
    q.emit r = [.a (Claims.sc r (candBest u.pay v.pay ||| 0x4000000000000000))] := by
  rw [Pair.emit, h0, h1]
  rfl

theorem emit_of_left_none {q : Pair} (r : Fire) (h0 : q.c0 = none) : q.emit r = [] := by
  rw [Pair.emit, h0]

theorem emit_of_right_none {q : Pair} (r : Fire) (h1 : q.c1 = none) : q.emit r = [] := by
  rw [Pair.emit, h1]
  split <;> simp_all

theorem emit_setSide_none (q : Pair) (k : Bool) (r : Fire) : (q.setSide k none).emit r = [] := by
  cases k
  · exact emit_of_left_none r rfl
  · exact emit_of_right_none r rfl

/-- Once a side is set, the winner leaves where it and the other side hold a candidate. -/
theorem emit_setSide (q : Pair) (k : Bool) (z : Option Tok) (r : Fire) :
    (q.setSide k z).emit r = match z, (q.setSide k z).c0, (q.setSide k z).c1 with
      | some _, some u, some v => [.a (Claims.sc r (candBest u.pay v.pay ||| 0x4000000000000000))]
      | _, _, _ => [] := by
  cases z with
  | none => rw [emit_setSide_none]
  | some z =>
    unfold Pair.emit
    split
    · next u v h0 h1 => rw [h0, h1]; rfl
    · next hno => split <;> simp_all

/-- The pair is the one of the firing's key. -/
def Fire.keys (r : Fire) (q : Pair) : Bool := q.slot == r.slot && q.thread == r.thread && q.iter == r.iter
/-- The pairs of other keys. -/
def Fire.others (r : Fire) (l : List Pair) : List Pair := l.filter (fun q => !r.keys q)
/-- The element's pairs become `l`. -/
def State.putPairs (s : State) (g e : Nat) (l : List Pair) : State := s.updElem g e (fun y => { y with pairs := l })
/-- What an exclusion leaves of the candidate of its expert (R225): nothing of one that came up the tree, else the candidate, marked. -/
def excluded (y : Tok) : Option Tok := if y.pay.getLsbD 62 = true then none else some { y with pay := y.pay ||| 0x2000000000000000 }

/-- The candidate on a side of the pair is one of the expert of `v`. -/
def Pair.holds (q : Pair) (v : Word) (k : Bool) : Bool := match q.side k with | some y => candId y.pay == candId v | none => false

theorem holds_eq_false {q : Pair} {v : Word} {k : Bool} (h : ∀ y, q.side k = some y → candId y.pay ≠ candId v) : q.holds v k = false := by
  unfold Pair.holds
  split
  · next y hy => simpa using h y hy
  · rfl

theorem holds_of_side {q : Pair} {v : Word} {k : Bool} {y : Tok} (hy : q.side k = some y) : q.holds v k = (candId y.pay == candId v) := by
  rw [Pair.holds, hy]

section
variable {s : State} {f : Fields} {h : Shape} {r : Fire} {g e port : Nat} {x : Tok} {rest : List (Nat × Tok)}
variable (hF : Fires s (.iCmpfw f) h r g e) (ht : r.toks = (port, x) :: rest)
include hF ht

theorem cmpfw_refuses (hl : x.lanes ≠ []) : Claims.refuses s (.iCmpfw f) h r g e 0x40 x.value := by
  refine refuses_of_error hF rfl ?_
  simp only [ht, if_pos hl]

/-- A candidate takes its side of the pair. -/
theorem cmpfw_candidate (hl : x.lanes = []) (h63 : x.value.getLsbD 63 = false) {q : Pair}
    (hq : (((s.elem g e).pairs.find? r.keys).getD ⟨r.slot, r.thread, r.iter, none, none⟩).setSide (port != f.a.toNat)
      (some { x with pay := x.value }) = q) {os : List Out} (hos : q.emit r = os) :
    exec (.iCmpfw f) s = .next (fired (s.putPairs g e (r.others (s.elem g e).pairs ++ [q])) h r g e os) := by
  subst hq hos
  refine exec_of_ok hF rfl ?_
  simp only [ht, hl, bitOf, h63]
  rfl

theorem cmpfw_release (hl : x.lanes = []) (h63 : x.value.getLsbD 63 = true) (h60 : x.value.getLsbD 60 = true) :
    exec (.iCmpfw f) s = .next (fired (s.putPairs g e (r.others (s.elem g e).pairs)) h r g e []) := by
  refine exec_of_ok hF rfl ?_
  simp only [ht, hl, bitOf, h63, h60]
  rfl

theorem cmpfw_exclude_none (hl : x.lanes = []) (h63 : x.value.getLsbD 63 = true) (h60 : x.value.getLsbD 60 = false)
    (hq : (s.elem g e).pairs.find? r.keys = none) : Claims.gives s (.iCmpfw f) h r g e [] := by
  refine gives_of_ok hF rfl ?_
  unfold Fire.keys at hq
  simp only [ht, hl, bitOf, h63, h60, hq]
  rfl

/-- An exclusion of an expert that neither side holds changes nothing. -/
theorem cmpfw_exclude_other (hl : x.lanes = []) (h63 : x.value.getLsbD 63 = true) (h60 : x.value.getLsbD 60 = false) {q : Pair}
    (hq : (s.elem g e).pairs.find? r.keys = some q) (hno : ∀ k, q.holds x.value k = false) :
    Claims.gives s (.iCmpfw f) h r g e [] := by
  refine gives_of_ok hF rfl ?_
  unfold Fire.keys at hq
  simp only [ht, hl, bitOf, h63, h60, hq]
  have hnone : (!q.holds x.value false) = true ∧ (!q.holds x.value true) = true := by simp [hno]
  exact if_pos hnone

/-- An exclusion marks, or takes out, the candidate of its expert. -/
theorem cmpfw_exclude (hl : x.lanes = []) (h63 : x.value.getLsbD 63 = true) (h60 : x.value.getLsbD 60 = false) {q : Pair} {k : Bool} {y : Tok}
    (hq : (s.elem g e).pairs.find? r.keys = some q) (hy : q.side k = some y) (hid : q.holds x.value k = true)
    (hleft : (!q.holds x.value false) = k) {p : Pair} (hp : q.setSide k (excluded y) = p) :
    exec (.iCmpfw f) s = .next (fired (s.putPairs g e (r.others (s.elem g e).pairs ++ [p])) h r g e (p.emit r)) := by
  subst hp
  refine exec_of_ok hF rfl ?_
  unfold Fire.keys at hq
  have hany : ¬ ((!q.holds x.value false) = true ∧ (!q.holds x.value true) = true) := by
    rintro ⟨h0, h1⟩
    cases k <;> simp_all
  have hk : q.side (!q.holds x.value false) = some y := by rw [hleft, hy]
  simp only [ht, hl, bitOf, h63, h60, hq]
  refine (if_neg hany).trans ?_
  change (match q.side (!q.holds x.value false) with | none => _ | some y => _) = _
  rw [hk]
  subst hleft
  unfold excluded
  by_cases h62 : y.pay.getLsbD 62 = true
  · rw [if_pos h62, emit_setSide_none]
    exact if_pos h62
  · rw [if_neg h62]
    exact if_neg h62

end

/-! `topk.rp` (R156, R227). -/

/-- A control word that is no number of winners and a port (R227). -/
def topkBad (v : Word) : Prop := 256 ≤ v.toNat ∨ bitsOf v 3 0 = 0 ∨ 8 < bitsOf v 3 0
/-- The count is the one of the firing's key. -/
def Fire.counts (r : Fire) (q : TopK) : Bool := q.slot == r.slot && q.thread == r.thread && q.iter == r.iter

section
variable {s : State} {f : Fields} {h : Shape} {r : Fire} {g e : Nat}
variable (hF : Fires s (.iTopkRp f) h r g e)
include hF

theorem topk_refuses_control (hb : topkBad (Claims.vb s r g e).scal) :
    Claims.refuses s (.iTopkRp f) h r g e 0x40 (Claims.vb s r g e).scal :=
  refuses_of_error hF rfl (if_pos hb)

theorem topk_refuses_candidate (hb : ¬ topkBad (Claims.vb s r g e).scal)
    (ha : (Claims.va s r g e).idx ≠ [] ∨ r.vec = true ∨ (Claims.va s r g e).scal.getLsbD 61 = true) :
    Claims.refuses s (.iTopkRp f) h r g e 0x40 (Claims.va s r g e).scal :=
  refuses_of_error hF rfl ((if_neg hb).trans (if_pos ha))

theorem topk_counts (hb : ¬ topkBad (Claims.vb s r g e).scal)
    (ha : ¬ ((Claims.va s r g e).idx ≠ [] ∨ r.vec = true ∨ (Claims.va s r g e).scal.getLsbD 61 = true)) {j k : Nat}
    (hj : (((s.elem g e).topk.find? r.counts).map (·.j)).getD 0 = j) (hk : bitsOf (Claims.vb s r g e).scal 3 0 = k) :
    let others := (s.elem g e).topk.filter (fun q => !r.counts q)
    exec (.iTopkRp f) s = .next (fired
        (s.updElem g e (fun y => { y with topk := if k ≤ j + 1 then others else others ++ [⟨r.slot, r.thread, r.iter, j + 1⟩] })) h r g e
        [.a (Claims.sc r (((Claims.va s r g e).scal &&& 0x0FFFF8FFFFFFFFFF) ||| BitVec.ofNat 64 (j % 8 * 2 ^ 40))),
         .port (bitsOf (Claims.vb s r g e).scal 7 4)
          (Claims.sc r ((Claims.va s r g e).scal ||| (if k ≤ j + 1 then 0x9000000000000000 else 0x8000000000000000)))]) := by
  refine exec_of_ok hF rfl ((if_neg hb).trans ((if_neg ha).trans ?_))
  extract_lets mine rest j' base win last exc
  have hj' : j' = j := by
    rw [← hj, show j' = match (s.elem g e).topk.find? r.counts with | some q => q.j | none => 0 from rfl]
    cases (s.elem g e).topk.find? r.counts <;> rfl
  have hlast : last = decide (k ≤ j' + 1) := by rw [← hk]
  clear_value j' last
  subst hj' hlast
  by_cases hle : k ≤ j' + 1
  · simp only [exc, hle, decide_true, if_true]
    rfl
  · simp only [exc, hle, decide_false, if_false]
    rfl

end

end Sys2Proof.Machine
end

section
namespace Sys2Proof.Machine
open State

/-! `cmpct` (R216). Appending lanes to a staging buffer. -/

/-- Lanes appended to `b`, each with its iteration, leave `c` and the runs `l`: the lanes emitted and left are the old and the new ones in order, a
run has 32 lanes, and the runs are numbered on from the buffer's counter. -/
structure CmpBuf.Stages (b : CmpBuf) (new : List (Lane × Nat)) (c : CmpBuf) (l : List Tok) : Prop where
  thread : c.thread = b.thread
  room : c.lanes.length < 32
  paired : c.idx.length = c.lanes.length
  count : c.count = b.count + l.length
  lanes : l.flatMap (·.lanes) ++ c.lanes = b.lanes ++ new.map (·.1)
  its : l.flatMap (·.idx) ++ c.idx = b.idx ++ new.map (·.2)
  runs : ∀ k ∈ l, k.lanes.length = 32 ∧ k.idx.length = 32 ∧ k.kind = .vector
  numbers : ∀ (n : Nat) (k : Tok), l[n]? = some k → k.thread = b.thread ∧ k.iter = 32 * (b.count + n) % 2 ^ 20

/-- One lane more stands in the buffer. -/
def CmpBuf.push (b : CmpBuf) (x : Lane) (i : Nat) : CmpBuf := { b with lanes := b.lanes ++ [x], idx := b.idx ++ [i] }
/-- The buffer after its run has left. -/
def CmpBuf.emptied (b : CmpBuf) : CmpBuf := { b with lanes := [], idx := [], count := b.count + 1 }

theorem appendAll_cons_full {b : CmpBuf} {x : Lane} {i : Nat} {new : List (Lane × Nat)} (h : (b.push x i).lanes.length = 32) :
    b.appendAll ((x, i) :: new) =
      (((b.push x i).emptied.appendAll new).1, .a (b.push x i).run :: ((b.push x i).emptied.appendAll new).2) := if_pos h

theorem appendAll_cons_room {b : CmpBuf} {x : Lane} {i : Nat} {new : List (Lane × Nat)} (h : (b.push x i).lanes.length ≠ 32) :
    b.appendAll ((x, i) :: new) = (b.push x i).appendAll new := if_neg h

theorem length_lanes_push (b : CmpBuf) (x : Lane) (i : Nat) : (b.push x i).lanes.length = b.lanes.length + 1 := List.length_append
theorem length_idx_push (b : CmpBuf) (x : Lane) (i : Nat) : (b.push x i).idx.length = b.idx.length + 1 := List.length_append

/-- Staging after a lane that fills no run. -/
theorem CmpBuf.Stages.of_push {b c : CmpBuf} {x : Lane} {i : Nat} {new : List (Lane × Nat)} {l : List Tok}
    (h : (b.push x i).Stages new c l) : b.Stages ((x, i) :: new) c l where
  thread := h.thread
  room := h.room
  paired := h.paired
  count := h.count
  lanes := h.lanes.trans (by simp [CmpBuf.push])
  its := h.its.trans (by simp [CmpBuf.push])
  runs := h.runs
  numbers := h.numbers

/-- Staging after a run has left. -/
theorem CmpBuf.Stages.of_emptied {b c : CmpBuf} {new : List (Lane × Nat)} {l : List Tok} (hn : b.lanes.length = 32)
    (hi : b.idx.length = 32) (h : b.emptied.Stages new c l) : b.Stages new c (b.run :: l) where
  thread := h.thread
  room := h.room
  paired := h.paired
  count := h.count.trans (by simp only [CmpBuf.emptied, List.length_cons]; omega)
  lanes := by
    rw [List.flatMap_cons, List.append_assoc, h.lanes]
    rfl
  its := by
    rw [List.flatMap_cons, List.append_assoc, h.its]
    rfl
  runs := List.forall_mem_cons.mpr ⟨⟨hn, hi, rfl⟩, h.runs⟩
  numbers := by
    rintro (_ | n) k hk
    · cases hk
      exact ⟨rfl, rfl⟩
    · obtain ⟨ht, hit⟩ := h.numbers n k hk
      exact ⟨ht, hit.trans (by simp only [CmpBuf.emptied]; congr 2; omega)⟩

theorem stages_nil {b : CmpBuf} (hb : b.lanes.length < 32) (hi : b.idx.length = b.lanes.length) : b.Stages [] b [] := by
  constructor <;> simp_all

theorem appendAll_stages {b : CmpBuf} (new : List (Lane × Nat)) (hb : b.lanes.length < 32) (hi : b.idx.length = b.lanes.length) :
    ∃ c l, b.appendAll new = (c, l.map Out.a) ∧ b.Stages new c l := by
  induction new generalizing b with
  | nil => exact ⟨b, [], rfl, stages_nil hb hi⟩
  | cons p new ih =>
    obtain ⟨x, i⟩ := p
    have hlen := length_lanes_push b x i
    have hidx := length_idx_push b x i
    by_cases h : (b.push x i).lanes.length = 32
    · obtain ⟨c, l, hl, hs⟩ := ih (b := (b.push x i).emptied) (Nat.zero_lt_succ 31) rfl
      exact ⟨c, (b.push x i).run :: l, by rw [appendAll_cons_full h, hl]; rfl, (hs.of_emptied h (by omega)).of_push⟩
    · obtain ⟨c, l, hl, hs⟩ := ih (b := b.push x i) (by omega) (by omega)
      exact ⟨c, l, by rw [appendAll_cons_room h, hl], hs.of_push⟩

/-! Which buffer gives way. -/

theorem oldestBuf_eq_none {l : List CmpBuf} (h : oldestBuf l = none) : l = [] := by
  cases l with
  | nil => rfl
  | cons b l =>
    rw [oldestBuf] at h
    split at h
    · split_ifs at h
    · cases h

/-- The buffer appended to least recently is one of them, and none has an earlier stamp. -/
theorem oldestBuf_spec {l : List CmpBuf} {o : CmpBuf} (h : oldestBuf l = some o) : o ∈ l ∧ ∀ q ∈ l, o.stamp ≤ q.stamp := by
  induction l generalizing o with
  | nil => cases h
  | cons b l ih =>
    rw [oldestBuf] at h
    cases hc : oldestBuf l with
    | none =>
      simp only [hc, Option.some.injEq] at h
      subst h
      simp [oldestBuf_eq_none hc]
    | some c =>
      obtain ⟨hmem, hle⟩ := ih hc
      simp only [hc] at h
      split_ifs at h with hlt <;> cases h
      · exact ⟨List.mem_cons_of_mem _ hmem, List.forall_mem_cons.mpr ⟨hlt.le, hle⟩⟩
      · exact ⟨List.mem_cons_self, List.forall_mem_cons.mpr ⟨le_rfl, fun q hq => by have := hle q hq; omega⟩⟩

/-- The buffers of other threads that stay, and what leaves to make room for one more: the oldest, where four are held and the thread has none. -/
def roomFor (mine : Option CmpBuf) (held : List CmpBuf) : List CmpBuf × List Out :=
  match mine, oldestBuf held with
  | none, some o =>
    if 4 ≤ held.length then (held.filter (fun b => b.thread != o.thread), if o.lanes = [] then [] else [Out.a o.run]) else (held, [])
  | _, _ => (held, [])

theorem roomFor_kept {mine : Option CmpBuf} {held : List CmpBuf} (h : ¬ (mine = none ∧ 4 ≤ held.length)) : roomFor mine held = (held, []) := by
  unfold roomFor
  split
  · exact if_neg (fun hl => h ⟨rfl, hl⟩)
  · rfl

theorem roomFor_full {held : List CmpBuf} (h : 4 ≤ held.length) : ∃ o ∈ held, (∀ q ∈ held, o.stamp ≤ q.stamp) ∧
    roomFor none held = (held.filter (fun b => b.thread != o.thread), (if o.lanes = [] then [] else [o.run]).map Out.a) := by
  cases ho : oldestBuf held with
  | none => simp [oldestBuf_eq_none ho] at h
  | some o =>
    obtain ⟨hmem, hle⟩ := oldestBuf_spec ho
    refine ⟨o, hmem, hle, ?_⟩
    simp only [roomFor, ho, if_pos h]
    split_ifs <;> rfl

/-- Room for a thread of a slot's buffers (R216): only where it has none and four others stand does the oldest of them leave. -/
theorem roomFor_spec (bufs : List CmpBuf) (thread : Nat) :
    let held := bufs.filter (fun b => b.thread != thread)
    let full := bufs.any (fun b => b.thread == thread) = false ∧ 4 ≤ held.length
    ∃ (old : List Tok) (others : List CmpBuf), roomFor (bufs.find? (fun b => b.thread == thread)) held = (others, old.map Out.a) ∧
      (¬ full → old = [] ∧ others = held) ∧
      (full → ∃ o ∈ held, (∀ q ∈ held, o.stamp ≤ q.stamp) ∧ others = held.filter (fun b => b.thread != o.thread) ∧
        old = if o.lanes = [] then [] else [o.run]) := by
  intro held full
  have hnone : bufs.any (fun b => b.thread == thread) = false ↔ bufs.find? (fun b => b.thread == thread) = none := by
    rw [List.any_eq_false, List.find?_eq_none]
  by_cases hfull : full
  · obtain ⟨hany, hlen⟩ := hfull
    obtain ⟨o, hmem, hle, hroom⟩ := roomFor_full hlen
    rw [hnone.mp hany]
    exact ⟨_, _, hroom, fun h => absurd ⟨hany, hlen⟩ h, fun _ => ⟨o, hmem, hle, rfl, rfl⟩⟩
  · exact ⟨[], held, roomFor_kept (fun ⟨hn, hlen⟩ => hfull ⟨hnone.mpr hn, hlen⟩), fun _ => ⟨rfl, rfl⟩, fun h => absurd h hfull⟩

/-! The lanes of a firing with the iterations they carry. -/

theorem its_eq_map {r : Fire} {a : Val} (ha : a.idx = [] ∨ a.idx.length = r.n) : r.its a = (List.range r.n).map (Claims.it r a) := by
  unfold Fire.its Claims.it
  split_ifs with h
  · rfl
  · have hn := ha.resolve_left h
    refine List.ext_getElem (by simp [hn]) fun k hk _ => ?_
    simp [hk]

theorem length_lanes (r : Fire) (a : Val) : (r.lanes a).length = r.n := by simp [Fire.lanes]

/-- The lanes a firing stages: those of its run, or its one scalar. -/
theorem staged_lanes {r : Fire} {a : Val} (h : r.vec = true ∨ r.n = 1 ∧ ∃ v, a = .sc v) :
    (if r.vec then r.lanes a else a.lanes) = r.lanes a := by
  split_ifs with hv
  · rfl
  · obtain ⟨hn, v, rfl⟩ := h.resolve_left hv
    rw [Fire.lanes, hn]
    rfl

/-! `cmpct`, fired. -/

/-- The stamp of the buffer appended to last. -/
def nextStamp (bufs : List CmpBuf) : Nat := bufs.foldl (fun n b => max n (b.stamp + 1)) 0

/-- The token that ends an output: what is left of the buffer, or a scalar 0. -/
def CmpBuf.last (b : CmpBuf) : Tok :=
  if b.lanes = [] then { Tok.scalar b.thread (32 * b.count % 2 ^ 20) 0 with kind := .eor } else { b.run with kind := .eor }

theorem last_kind (b : CmpBuf) : b.last.kind = .eor := by
  unfold CmpBuf.last
  split_ifs <;> rfl

theorem last_lanes (b : CmpBuf) : b.last.lanes = b.lanes := by
  unfold CmpBuf.last
  split_ifs with h
  · exact h.symm
  · rfl

theorem last_idx {b : CmpBuf} (h : b.idx.length = b.lanes.length) : b.last.idx = b.idx := by
  unfold CmpBuf.last
  split_ifs with hl
  · rw [hl] at h
    exact (List.eq_nil_of_length_eq_zero h).symm
  · rfl

theorem last_pay (b : CmpBuf) : b.last.pay = 0 := by
  unfold CmpBuf.last
  split_ifs <;> rfl

theorem last_tag (b : CmpBuf) : b.last.thread = b.thread ∧ b.last.iter = 32 * b.count % 2 ^ 20 := by
  unfold CmpBuf.last
  split_ifs <;> exact ⟨rfl, rfl⟩

/-- The last token of an output is numbered on from the runs before it. -/
theorem CmpBuf.Stages.numbers_last {b c : CmpBuf} {new : List (Lane × Nat)} {l : List Tok} (h : b.Stages new c l) (n : Nat) (k : Tok)
    (hk : (l ++ [c.last])[n]? = some k) : k.thread = b.thread ∧ k.iter = 32 * (b.count + n) % 2 ^ 20 := by
  rcases lt_or_ge n l.length with hn | hn
  · exact h.numbers n k (by rwa [List.getElem?_append_left hn] at hk)
  · obtain ⟨hz, rfl⟩ : n - l.length = 0 ∧ c.last = k := by
      rw [List.getElem?_append_right hn] at hk
      simpa [List.getElem?_singleton] using hk
    obtain ⟨ht, hi⟩ := last_tag c
    exact ⟨ht.trans h.thread, by rw [hi, h.count, show n = l.length by omega]⟩

/-- The slot's buffers become `l`. -/
def State.putStaged (s : State) (g e slot : Nat) (l : List CmpBuf) : State :=
  s.updElem g e (fun x => { x with cmpct := NMap.set x.cmpct slot l })

section
variable {s : State} {f : Fields} {h : Shape} {r : Fire} {g e : Nat} {bufs rest : List CmpBuf} {b c : CmpBuf}
  {ls : List Lane} {evicted os : List Out}
variable (hF : Fires s (.iCmpct f) h r g e) (hbufs : NMap.get (s.elem g e).cmpct r.slot [] = bufs)
  (hroom : roomFor (bufs.find? (fun b => b.thread == r.thread)) (bufs.filter (fun b => b.thread != r.thread)) = (rest, evicted))
  (hb : { (bufs.find? (fun b => b.thread == r.thread)).getD ⟨r.thread, [], [], 0, 0⟩ with stamp := nextStamp bufs } = b)
  (hls : (if r.vec then r.lanes (Claims.va s r g e) else (Claims.va s r g e).lanes) = ls)
  (hc : b.appendAll (ls.zip (r.its (Claims.va s r g e))) = (c, os))
include hF hbufs hroom hb hls hc

/-- The firing of `cmpct`: room is made, the lanes are appended, and an end-of-round token ends the output. -/
theorem exec_cmpct : exec (.iCmpct f) s = .next (if r.eor then
      fired (s.putStaged g e r.slot rest) h r g e (evicted ++ os ++ [.a c.last])
    else fired (s.putStaged g e r.slot (rest ++ [c])) h r g e (evicted ++ os)) := by
  obtain ⟨rfl, rfl⟩ := Prod.mk.inj hroom
  obtain ⟨rfl, rfl⟩ := Prod.mk.inj hc
  subst hbufs hb hls
  cases he : r.eor with
  | false =>
    refine exec_of_ok hF rfl ?_
    simp only [he]
    rfl
  | true =>
    refine exec_of_ok hF rfl ?_
    simp only [he]
    rfl

end

theorem partFiringCompact : Claims.PartFiringCompact := by
  intro s f h r g e bf hF a hav bufs held full hbf hlen hidx hix
  have hb : { (bufs.find? (fun b => b.thread == r.thread)).getD ⟨r.thread, [], [], 0, 0⟩ with stamp := nextStamp bufs } =
      { bf with stamp := nextStamp bufs } := by rw [hbf]
  have hthread : bf.thread = r.thread := by
    rw [hbf]
    cases hq : bufs.find? (fun b => b.thread == r.thread) with
    | none => rfl
    | some q =>
      have hq' := List.find?_some hq
      exact beq_iff_eq.mp hq'
  have hits := its_eq_map hix
  have hlen' : (r.its a).length = (r.lanes a).length := by rw [hits, length_lanes, List.length_map, List.length_range]
  obtain ⟨c, l, hl, hs⟩ := appendAll_stages (b := { bf with stamp := nextStamp bufs }) ((r.lanes a).zip (r.its a)) hlen hidx
  obtain ⟨old, others, hroom, hkept, hfull⟩ := roomFor_spec bufs r.thread
  have hx := exec_cmpct hF rfl hroom hb (staged_lanes hav) hl
  have hlanes := hs.lanes
  have hidxs := hs.its
  rw [List.map_fst_zip hlen'.ge] at hlanes
  rw [List.map_snd_zip hlen'.le, hits] at hidxs
  cases he : r.eor with
  | false =>
    rw [he, if_neg Bool.false_ne_true, ← List.map_append] at hx
    refine ⟨l, old, c, others ++ [c], others, hx, hkept, hfull,
      fun _ => ⟨rfl, hs.thread.trans hthread, hs.room, hs.count, hlanes, hidxs, hs.paired, hs.runs⟩,
      fun h => absurd h Bool.false_ne_true, fun n k hk => ?_⟩
    obtain ⟨ht, hi⟩ := hs.numbers n k hk
    exact ⟨ht.trans hthread, hi⟩
  | true =>
    rw [he, if_pos rfl, List.append_assoc] at hx
    refine ⟨l ++ [c.last], old, c, others, others, ?_, hkept, hfull, fun h => absurd h.symm Bool.false_ne_true,
      fun _ => ⟨rfl, ?_, ?_, ?_, ?_, ?_⟩,
      fun n k hk => ?_⟩
    · rw [hx]
      simp only [List.map_append]
      rfl
    · rw [List.flatMap_append, List.flatMap_singleton, last_lanes, hlanes]
    · rw [List.flatMap_append, List.flatMap_singleton, last_idx hs.paired, hidxs]
    · intro k hk
      rcases List.mem_append.mp hk with hk | hk
      · obtain ⟨hk32, hi32, -⟩ := hs.runs k hk
        rw [hk32, hi32]
      · rw [List.mem_singleton.mp hk, last_lanes, last_idx hs.paired, hs.paired]
    · intro k hk
      rw [List.getLast?_concat, Option.mem_some] at hk
      subst hk
      exact ⟨last_kind c, fun _ => last_pay c⟩
    · intro k hk
      rw [List.dropLast_concat] at hk
      obtain ⟨hk32, -, hkind⟩ := hs.runs k hk
      exact ⟨hk32, hkind⟩
    · obtain ⟨ht, hi⟩ := hs.numbers_last n k hk
      exact ⟨ht.trans hthread, hi⟩

/-! The statements. -/

theorem partFiringTournament : Claims.PartFiringTournament := by
  refine ⟨?_, ?_, ?_⟩
  · intro s f h r g e port x rest hF ht el mine others q put x' id
    refine ⟨cmpfw_refuses hF ht, fun hl h63 hp h1 => ?_, fun y hl h63 hp h1 => ?_, fun y hl h63 hp h0 => ?_, fun hl h63 hp h0 => ?_,
      cmpfw_exclude_none hF ht, ?_, fun q' hl h63 h60 hq hno => ?_, cmpfw_release hF ht⟩
    · have hx := cmpfw_candidate hF ht hl h63 (q := { q with c0 := some x' }) (by rw [hp, bne_self_eq_false]; rfl) (emit_of_right_none r h1)
      exact hx
    · have hx := cmpfw_candidate hF ht hl h63 (q := { q with c0 := some x' }) (by rw [hp, bne_self_eq_false]; rfl) (emit_of_both r rfl h1)
      exact hx
    · have hx := cmpfw_candidate hF ht hl h63 (q := { q with c1 := some x' }) (by rw [bne_iff_ne.mpr hp]; rfl) (emit_of_both r h0 rfl)
      exact hx
    · have hx := cmpfw_candidate hF ht hl h63 (q := { q with c1 := some x' }) (by rw [bne_iff_ne.mpr hp]; rfl) (emit_of_left_none r h0)
      exact hx
    · intro q' y right hl h63 h60 hq hy hid hleft z p
      have hheld : q'.holds x.value right = true := (holds_of_side hy).trans (beq_iff_eq.mpr hid)
      have hside : (!q'.holds x.value false) = right := by
        cases right with
        | false => rw [hheld]; rfl
        | true => rw [show q'.holds x.value false = false from holds_eq_false (hleft rfl)]; rfl
      have hx := cmpfw_exclude hF ht hl h63 h60 hq hy hheld hside rfl
      rw [emit_setSide] at hx
      exact hx
    · refine cmpfw_exclude_other hF ht hl h63 h60 hq fun k => holds_eq_false fun y hy => hno y ?_
      cases k
      exacts [.inl hy, .inr hy]
  · intro x y id val
    exact ⟨candBest_of_one_excluded, candBest_of_both_excluded, candBest_of_one_nan, candBest_of_higher, candBest_of_equal⟩
  · intro s f h r g e k p j hF a b el mine others hj hk hp
    have hk' : bitsOf b.scal 3 0 = k := (bitsOf_low ..).trans hk.symm
    have hok : b.scal.toNat < 256 → 1 ≤ k → k ≤ 8 → ¬ topkBad b.scal := by
      rw [topkBad, hk']
      omega
    refine ⟨fun hb h1 h8 hix hvec h61 => ?_, fun hb => ?_, fun hb h1 h8 ha => topk_refuses_candidate hF (hok hb h1 h8) ha⟩
    · have ha : ¬ (a.idx ≠ [] ∨ r.vec = true ∨ a.scal.getLsbD 61 = true) := by
        rw [hix, hvec, h61]
        simp
      have hx := topk_counts hF (hok hb h1 h8) ha hj.symm hk'
      rw [show bitsOf (Claims.vb s r g e).scal 7 4 = p from hp.symm] at hx
      exact hx
    · rw [← hk'] at hb
      exact topk_refuses_control hF hb

/-- Settles O33, from its two parts. -/
theorem firingTournament : Obligations.FiringTournament := ⟨partFiringTournament, partFiringCompact⟩

end Sys2Proof.Machine
end

section
namespace Sys2Proof

/-! Words and their fields (O1 to O3, R175): a word is its opcode and its five fields. -/

theorem Fields.toNat_word {op : Nat} (hop : op < 256) (f : Fields) : (f.word op).toNat =
    op * 2 ^ 24 + f.a.toNat * 2 ^ 19 + f.b.toNat * 2 ^ 14 + f.d.toNat * 2 ^ 9 + f.e.toNat * 2 ^ 4 + f.t.toNat := by
  rw [Fields.word, BitVec.toNat_ofNat, Nat.mod_eq_of_lt]
  omega

theorem Fields.opcode_word {op : Nat} (hop : op < 256) (f : Fields) : (f.word op).toNat / 2 ^ 24 = op := by
  rw [Fields.toNat_word hop]; omega

@[ext] theorem Fields.eq_of_fields {f f' : Fields} (ha : f.a = f'.a) (hb : f.b = f'.b) (hd : f.d = f'.d) (he : f.e = f'.e) (ht : f.t = f'.t) :
    f = f' := by
  cases f; cases f'; simp_all

/-- A word of an opcode and fields has those fields. -/
theorem fieldsOf_word {op : Nat} (hop : op < 256) (f : Fields) : fieldsOf (f.word op) = f := by
  ext1 <;> apply BitVec.eq_of_toNat_eq <;> simp only [fieldsOf, Fields.toNat_word hop, BitVec.toNat_ofNat] <;> omega

/-- A word is the word of its opcode and its fields. -/
theorem word_fieldsOf (w : Lane) : (fieldsOf w).word (w.toNat / 2 ^ 24) = w := by
  apply BitVec.eq_of_toNat_eq
  rw [Fields.toNat_word (by omega)]
  simp only [fieldsOf, BitVec.toNat_ofNat]
  omega

/-- Two words with the same opcode and fields are the same. -/
theorem word_eq_of_fieldsOf {w w' : Lane} (hop : w.toNat / 2 ^ 24 = w'.toNat / 2 ^ 24) (hf : fieldsOf w = fieldsOf w') : w = w' := by
  rw [← word_fieldsOf w, hop, hf, word_fieldsOf]

theorem Enc.opcode_lt (k : Enc) : k.opcode < 256 := by unfold Enc.opcode; omega

theorem Enc.opcode_of_word (k : Enc) : k.word.toNat / 2 ^ 24 = k.opcode := by rw [Enc.word, Fields.opcode_word k.opcode_lt]

theorem Enc.fieldsOf_word (k : Enc) : fieldsOf k.word = k.f := by rw [Enc.word, Sys2Proof.fieldsOf_word k.opcode_lt]

/-! The opcode map and the table of encodings are inverse to each other (R180). -/

theorem ctor_opcode {i : Instr} {k : Enc} (h : i.enc = some k) : ∃ mk, Encoding.ctor k.opcode = some mk ∧ mk k.f = i := by
  cases i <;> cases h <;>
    simp [Enc.opcode, Encoding.ctor, Encoding.row0, Encoding.row1, Encoding.row2, Encoding.row3, Encoding.row4, Encoding.row5, Encoding.row6,
      Encoding.row7, Encoding.row8, Encoding.row9, Encoding.rowA, Encoding.rowB, Encoding.rowC, Encoding.rowD, Encoding.rowE, Encoding.rowF]

theorem ctor_lt {op : Nat} {mk : Fields → Instr} (h : Encoding.ctor op = some mk) : op < 256 := by
  by_contra hop
  have hdiv : 16 ≤ op / 16 := by omega
  unfold Encoding.ctor at h
  split at h <;> first | omega | cases h

/-- The instruction that an opcode names has an encoding with that opcode, and the fields it is given. -/
theorem enc_of_ctor {op : Nat} {mk : Fields → Instr} (h : Encoding.ctor op = some mk) (f : Fields) :
    ∃ k, (mk f).enc = some k ∧ k.f = f ∧ k.opcode = op := by
  have hop := ctor_lt h
  interval_cases op <;> cases h <;> exact ⟨_, rfl, rfl, by simp [Enc.opcode]⟩

/-! Decoding a word, by what its opcode names. -/

theorem decodeWord_of_ctor_none {w : Lane} (h : Encoding.ctor (w.toNat / 2 ^ 24) = none) : decodeWord w = .error .reservedOpcode := by
  simp only [decodeWord, h]

/-- The row that the opcode names decides by its fixed bits alone. -/
theorem decodeWord_of_row {w : Lane} {mk : Fields → Instr} {k : Enc} (hc : Encoding.ctor (w.toNat / 2 ^ 24) = some mk)
    (hk : (mk (fieldsOf w)).enc = some k) : decodeWord w = if k.ok then .ok (mk (fieldsOf w)) else .error .fixedField := by
  simp only [decodeWord, hc, hk]

/-- The row of a defined opcode holds the word's own fields. -/
theorem row_of_ctor {w : Lane} {mk : Fields → Instr} (hc : Encoding.ctor (w.toNat / 2 ^ 24) = some mk) :
    ∃ k, (mk (fieldsOf w)).enc = some k ∧ k.f = fieldsOf w ∧ k.word = w := by
  obtain ⟨k, hk, hf, hop⟩ := enc_of_ctor hc (fieldsOf w)
  exact ⟨k, hk, hf, by rw [Enc.word, hf, hop, word_fieldsOf]⟩

/-- The opcode of a row's word names the row, with the word's fields. -/
theorem ctor_of_word {i : Instr} {k : Enc} (hi : i.enc = some k) :
    ∃ mk, Encoding.ctor (k.word.toNat / 2 ^ 24) = some mk ∧ mk (fieldsOf k.word) = i := by
  obtain ⟨mk, hmk, hmi⟩ := ctor_opcode hi
  exact ⟨mk, by rw [k.opcode_of_word, hmk], by rw [k.fieldsOf_word, hmi]⟩

/-- The word of a row whose fixed bits hold decodes to the row's instruction. -/
theorem decodeWord_word {i : Instr} {k : Enc} (hi : i.enc = some k) (hk : k.ok = true) : decodeWord k.word = .ok i := by
  obtain ⟨mk, hmk, rfl⟩ := ctor_of_word hi
  rw [decodeWord_of_row hmk hi, if_pos hk]

theorem wordOfBytes_bytes (w : Lane) : wordOfBytes (BitVec.ofNat 8 w.toNat) (BitVec.ofNat 8 (w.toNat / 2 ^ 8))
    (BitVec.ofNat 8 (w.toNat / 2 ^ 16)) (BitVec.ofNat 8 (w.toNat / 2 ^ 24)) = w := by
  apply BitVec.eq_of_toNat_eq
  simp only [wordOfBytes, BitVec.toNat_ofNat]
  omega

/-- Decoding reads the first four bytes as a little-endian word (R335). The kernel must not meet `decodeWord` applied to a sum of bytes, which it
would count out in units; so the last step is a lemma for any function in its place. -/
theorem decode_of_cons {bs rest : List Byte} {b0 b1 b2 b3 : Byte} {i : Instr} (hbs : bs = b0 :: b1 :: b2 :: b3 :: rest)
    (h : decodeWord (wordOfBytes b0 b1 b2 b3) = .ok i) : decode bs = .ok (i, rest) := by
  unfold decode
  generalize decodeWord = dw at h ⊢
  as_aux_lemma =>
    subst hbs
    simp only [h]
/-- The bytes of a word decode to what the word does. -/
theorem decode_bytesOfWord {w : Lane} {i : Instr} (h : decodeWord w = .ok i) (rest : List Byte) :
    decode (bytesOfWord w ++ rest) = .ok (i, rest) :=
  decode_of_cons rfl ((congrArg decodeWord (wordOfBytes_bytes w)).trans h)

/-- Settles O1: the opcode of the word names the row again, and its fields are the row's. -/
theorem decodeOfEncode : Obligations.DecodeOfEncode := by
  intro i rest hi hw
  obtain ⟨k, hk⟩ := Option.isSome_iff_exists.1 hi
  have hok : k.ok = true := by simpa only [Instr.wf, hk] using hw
  have henc : encode i = bytesOfWord k.word := by simp only [encode, encodeWord, hk]
  rw [henc]
  exact decode_bytesOfWord (decodeWord_word hk hok) rest

/-- Settles O2: each word is read by the opcode map and its row's fixed bits. -/
theorem specWords : Obligations.SpecWords := by
  unfold Obligations.SpecWords
  decide

/-! What a word decodes to, and why one decodes to nothing (O3, R189). -/

theorem encodeOfDecode_some : Claims.PartEncodeOfDecode := by
  intro w i h
  cases hc : Encoding.ctor (w.toNat / 2 ^ 24) with
  | none => rw [decodeWord_of_ctor_none hc] at h; cases h
  | some mk =>
    obtain ⟨k, hk, -, hw⟩ := row_of_ctor hc
    rw [decodeWord_of_row hc hk] at h
    split at h
    · next hok =>
      cases h
      exact ⟨by simp only [Instr.wf, hk, hok], by simp only [encodeWord, hk, hw]⟩
    · cases h

/-! The fixed bits of a row, field by field. -/

/-- The fixed bits of a row hold where those of each field do. -/
theorem Enc.ok_of_fields {k : Enc} (hm : k.mask.toNat / 2 ^ 24 = 255)
    (ha : k.f.a &&& (fieldsOf k.mask).a = (fieldsOf k.fixed).a) (hb : k.f.b &&& (fieldsOf k.mask).b = (fieldsOf k.fixed).b)
    (hd : k.f.d &&& (fieldsOf k.mask).d = (fieldsOf k.fixed).d) (he : k.f.e &&& (fieldsOf k.mask).e = (fieldsOf k.fixed).e)
    (ht : k.f.t &&& (fieldsOf k.mask).t = (fieldsOf k.fixed).t) : k.ok = true := by
  have hf := k.fieldsOf_word
  have hfield (n d : Nat) : BitVec.ofNat n ((k.word &&& k.mask).toNat / 2 ^ d) =
      BitVec.ofNat n (k.word.toNat / 2 ^ d) &&& BitVec.ofNat n (k.mask.toNat / 2 ^ d) := by
    rw [BitVec.toNat_and, Nat.and_div_two_pow, BitVec.ofNat_and]
  refine beq_iff_eq.mpr (word_eq_of_fieldsOf ?_ (Fields.eq_of_fields ?_ ?_ ?_ ?_ ?_))
  · rw [BitVec.toNat_and, Nat.and_div_two_pow, hm]
    rw [k.opcode_of_word, show (255 : Nat) = 2 ^ 8 - 1 from rfl, Nat.and_two_pow_sub_one_eq_mod, Nat.mod_eq_of_lt k.opcode_lt, Enc.opcode]
  · exact (hfield 5 19).trans (by rw [← ha, ← hf]; rfl)
  · exact (hfield 5 14).trans (by rw [← hb, ← hf]; rfl)
  · exact (hfield 5 9).trans (by rw [← hd, ← hf]; rfl)
  · exact (hfield 5 4).trans (by rw [← he, ← hf]; rfl)
  · exact (BitVec.ofNat_and ..).trans (by rw [← ht, ← hf]; rfl)

end Sys2Proof
end

section
namespace Sys2Proof.Machine
open State

/-! Encoding causes (O3, R189). -/

/-- How the use of a field fixes it: a field that must be 31 or z, or one that the row leaves free. -/
def FUse.fixes (u : FUse) (mask fixed : BitVec 5) : Bool :=
  (mask == 0 && fixed == 0) || (mask == 31 && ((u == .lit31 && fixed == 31) || (u == .zero && fixed == 28)))

/-- The fixed bits of a row are those that its shape on a task processor fixes; a fixed tag action is 0, where no channel can be written. -/
def Shape.fixesRow (h : Shape) (mask fixed : Lane) : Bool :=
  mask.toNat / 2 ^ 24 == 255 && h.a.fixes (fieldsOf mask).a (fieldsOf fixed).a && h.b.fixes (fieldsOf mask).b (fieldsOf fixed).b &&
    h.d.fixes (fieldsOf mask).d (fieldsOf fixed).d && h.e.fixes (fieldsOf mask).e (fieldsOf fixed).e &&
    (fieldsOf fixed).t == 0 && ((fieldsOf mask).t == 0 || ((fieldsOf mask).t == 15 && !h.d.isDst && !h.e.isDst))

/-- Every row with a task form fixes what its shape does (R175, R178, R180). -/
theorem taskShape_fixesRow {i : Instr} {k : Enc} {h : Shape} (hk : i.enc = some k) (hs : taskShape i = some h) :
    h.fixesRow k.mask k.fixed = true := by
  cases i <;> cases hk <;> cases hs <;> dsimp only <;> decide

/-- A field of a legal use holds the bits that its use fixes. -/
theorem and_eq_of_fixes {task : Bool} {lit : LitKind} {u : FUse} {v mask fixed : BitVec 5} (hf : u.fixes mask fixed = true)
    (hu : useOk task lit u v.toNat = true) : v &&& mask = fixed := by
  simp only [FUse.fixes, Bool.or_eq_true, Bool.and_eq_true, beq_iff_eq] at hf
  rcases hf with ⟨rfl, rfl⟩ | ⟨rfl, ⟨rfl, rfl⟩ | ⟨rfl, rfl⟩⟩
  · exact BitVec.and_zero
  · have : v = 31 := BitVec.eq_of_toNat_eq (by simpa [useOk] using hu)
    subst this; rfl
  · have : v = 28 := BitVec.eq_of_toNat_eq (by simpa [useOk] using hu)
    subst this; rfl

/-- The fixed bits of a row with a task form hold where its fields have legal uses, and a tag action only with a channel to write. -/
theorem ok_of_uses {h : Shape} {k : Enc} {task : Bool} (hr : h.fixesRow k.mask k.fixed = true) (ha : useOk task h.lit h.a k.f.a.toNat = true)
    (hb : useOk task h.lit h.b k.f.b.toNat = true) (hd : useOk task h.lit h.d k.f.d.toNat = true)
    (he : useOk task h.lit h.e k.f.e.toNat = true) (ht : h.d.isDst = false → h.e.isDst = false → k.f.t = 0) : k.ok = true := by
  simp only [Shape.fixesRow, Bool.and_eq_true, Bool.or_eq_true, beq_iff_eq, Bool.not_eq_true'] at hr
  obtain ⟨⟨⟨⟨⟨⟨hm, fa⟩, fb⟩, fd⟩, fe⟩, ft⟩, fm⟩ := hr
  refine Enc.ok_of_fields hm (and_eq_of_fixes fa ha) (and_eq_of_fixes fb hb) (and_eq_of_fixes fd hd) (and_eq_of_fixes fe he) ?_
  rw [ft]
  rcases fm with fm | ⟨⟨-, h1⟩, h2⟩
  · rw [fm]; exact BitVec.and_zero
  · rw [ht h1 h2]; exact BitVec.zero_and

theorem wordCauses_of_ill {k : EKind} {load : Bool} {w : Lane} {lit : Word} {gens : NMap Gen} (hop : w.toNat / 2 ^ 24 = 0xFF) :
    wordCauses k load w lit gens = [0x0C] := by
  simp only [wordCauses, if_pos hop]

theorem wordCauses_of_reserved {k : EKind} {load : Bool} {w : Lane} {lit : Word} {gens : NMap Gen} (hop : w.toNat / 2 ^ 24 ≠ 0xFF)
    (hc : Encoding.ctor (w.toNat / 2 ^ 24) = none) : wordCauses k load w lit gens = [1] := by
  simp only [wordCauses, if_neg hop, hc]

theorem wordCauses_of_no_shape {k : EKind} {load : Bool} {w : Lane} {lit : Word} {gens : NMap Gen} {mk : Fields → Instr}
    (hop : w.toNat / 2 ^ 24 ≠ 0xFF) (hc : Encoding.ctor (w.toNat / 2 ^ 24) = some mk) (hs : shapeOn k (mk (fieldsOf w)) = none) :
    wordCauses k load w lit gens = [2] := by
  simp only [wordCauses, if_neg hop, hc, hs]

/-! No cause is 0, so that a word with an encoding cause has one to report. -/

theorem zero_notMem_memLitCauses (op d : Nat) (l : Word) : 0 ∉ memLitCauses op d l := by
  simp [memLitCauses]

theorem zero_notMem_agLitCauses (op : Nat) (l : Word) (gens : NMap Gen) : 0 ∉ agLitCauses op l gens := by
  unfold agLitCauses
  cases hg : NMap.find gens (bitsOf l 3 0) <;> cases hg' : NMap.find gens (bitsOf l 3 0 + 1) <;> simp [hg, hg']

theorem zero_notMem_convLitCauses (op : Nat) (l : Word) : 0 ∉ convLitCauses op l := by
  simp [convLitCauses]

theorem zero_notMem_wordCauses (k : EKind) (load : Bool) (w : Lane) (lit : Word) (gens : NMap Gen) : 0 ∉ wordCauses k load w lit gens := by
  by_cases hop : w.toNat / 2 ^ 24 = 0xFF
  · simp [wordCauses_of_ill hop]
  cases hc : Encoding.ctor (w.toNat / 2 ^ 24) with
  | none => simp [wordCauses_of_reserved hop hc]
  | some mk =>
    cases hs : shapeOn k (mk (fieldsOf w)) with
    | none => simp [wordCauses_of_no_shape hop hc hs]
    | some h =>
      simp only [wordCauses, if_neg hop, hc, hs, List.mem_append, not_or]
      refine ⟨⟨⟨⟨by simp, by simp⟩, by simp⟩, by simp⟩, ?_⟩
      cases h.lit with
      | none => simp
      | data => simp
      | conv => exact zero_notMem_convLitCauses _ _
      | mem => exact zero_notMem_memLitCauses _ _ _
      | ag => cases load <;> simp [zero_notMem_agLitCauses]
      | branch => simp

/-- The least of a list of causes is one of them. -/
theorem foldl_min_mem (c : Nat) (l : List Nat) : l.foldl min c ∈ c :: l := by
  induction l generalizing c with
  | nil => simp
  | cons d l ih =>
    rcases List.mem_cons.1 (ih (min c d)) with h | h
    · rw [List.foldl_cons, h]
      rcases min_choice c d with hm | hm <;> simp [hm]
    · exact List.mem_cons_of_mem _ (List.mem_cons_of_mem _ h)

/-- A word is reported legal only where it has no encoding cause. -/
theorem wordCauses_of_wordCause_zero {k : EKind} {load : Bool} {w : Lane} {lit : Word} {gens : NMap Gen} (h : wordCause k load w lit gens = 0) :
    wordCauses k load w lit gens = [] := by
  cases hc : wordCauses k load w lit gens with
  | nil => rfl
  | cons c r =>
    have hm := foldl_min_mem c r
    rw [show r.foldl min c = wordCause k load w lit gens by simp only [wordCause, hc], h, ← hc] at hm
    exact absurd hm (zero_notMem_wordCauses _ _ _ _ _)

/-- A reserved opcode has cause 0x01 alone (R189). -/
theorem wordCause_of_reserved {k : EKind} {load : Bool} {w : Lane} {lit : Word} {gens : NMap Gen}
    (h : Encoding.ctor (w.toNat / 2 ^ 24) = none) : wordCause k load w lit gens = 1 := by
  have hop : w.toNat / 2 ^ 24 ≠ 0xFF := fun h' => by rw [h'] at h; cases h
  simp only [wordCause, wordCauses_of_reserved hop h, List.foldl_nil]

theorem taskShape_of_shapeOn {i : Instr} {h : Shape} (hs : shapeOn .task i = some h) : taskShape i = some h := by
  simp only [shapeOn, if_true] at hs
  split at hs
  · next h' ht => rw [ht]; split at hs <;> simp_all
  · cases hs

/-- What a word without encoding causes in a task has: a row with a task form whose uses its fields meet, and a tag action only with a
channel to write. -/
theorem uses_of_legal {w : Lane} {lit : Word} {mk : Fields → Instr} (hl : wordCauses .task false w lit [] = [])
    (hc : Encoding.ctor (w.toNat / 2 ^ 24) = some mk) : ∃ h, taskShape (mk (fieldsOf w)) = some h ∧
      useOk true h.lit h.a (fieldsOf w).a.toNat = true ∧ useOk true h.lit h.b (fieldsOf w).b.toNat = true ∧
      useOk true h.lit h.d (fieldsOf w).d.toNat = true ∧ useOk true h.lit h.e (fieldsOf w).e.toNat = true ∧
      (h.d.isDst = false → h.e.isDst = false → (fieldsOf w).t = 0) := by
  have hop : w.toNat / 2 ^ 24 ≠ 0xFF := fun hop => by rw [wordCauses_of_ill hop] at hl; cases hl
  cases hs : shapeOn .task (mk (fieldsOf w)) with
  | none => rw [wordCauses_of_no_shape hop hc hs] at hl; cases hl
  | some h =>
    simp only [wordCauses, if_neg hop, hc, hs, List.append_eq_nil_iff] at hl
    obtain ⟨⟨⟨⟨-, htag⟩, huse⟩, -⟩, -⟩ := hl
    simp only [decide_true, ite_eq_left_iff, Bool.and_eq_true, reduceCtorEq, imp_false, not_not] at huse
    obtain ⟨⟨⟨ha, hb⟩, hd⟩, he⟩ := huse
    refine ⟨h, taskShape_of_shapeOn hs, ha, hb, hd, he, fun h1 h2 => ?_⟩
    exact BitVec.eq_of_toNat_eq (by simpa [h1, h2] using htag)

theorem undecodedWordsAreIllegal : Claims.PartUndecodedWordsAreIllegal := by
  intro w x lit h
  cases hc : Encoding.ctor (w.toNat / 2 ^ 24) with
  | none =>
    rw [decodeWord_of_ctor_none hc] at h
    cases h
    exact ⟨nofun, by rw [wordCause_of_reserved hc]; decide, iff_of_true rfl rfl, fun _ => wordCause_of_reserved hc⟩
  | some mk =>
    obtain ⟨k, hk, hf, -⟩ := row_of_ctor hc
    rw [decodeWord_of_row hc hk] at h
    split at h
    · cases h
    · next hok =>
      cases h
      refine ⟨nofun, fun h0 => hok ?_, iff_of_false nofun nofun, nofun⟩
      obtain ⟨hs, ht, ha, hb, hd, he, htag⟩ := uses_of_legal (wordCauses_of_wordCause_zero h0) hc
      rw [← hf] at ha hb hd he htag
      exact ok_of_uses (taskShape_fixesRow hk ht) ha hb hd he htag

/-- Settles O3: the row that the opcode names decides, and where it refuses, so does the check of the word's uses. -/
theorem encodeOfDecode : Obligations.EncodeOfDecode := ⟨encodeOfDecode_some, undecodedWordsAreIllegal⟩

end Sys2Proof.Machine
end

section
namespace Sys2Proof.Machine
open State

/-! Words that are not legal where a context issues them (O12, R189, R191). -/

/-- An instruction with no task form is on the wrong kind of element (R181). -/
theorem runElem_task {s : State} {i : Instr} {g p c : Nat} {accept : Tok → Bool}
    {fn : State → Nat → Nat → Elem → Fire → Val → Val → Val → Except (Nat × Word) (State × List Out)} (hs : s.site = .task g p c) :
    runElem i s accept fn = s.wrongKind i g p c := by
  simp only [runElem, hs]

theorem runRred_task {s : State} {i : Instr} {g p c : Nat} {fn : Lane → Nat → Lane × Int} (hs : s.site = .task g p c) :
    runRred i s fn = s.wrongKind i g p c := by
  unfold runRred runCtl; exact runElem_task hs

/-- A row without a task form, other than `ill` and those of chapter 10 that begin like a task's, takes its encoding cause. -/
theorem exec_wrongKind {i : Instr} {k : Enc} {s : State} {g p c : Nat} (hk : i.enc = some k) (ht : taskShape i = none)
    (hs : s.site = .task g p c) (hill : ∀ f, i ≠ .iIll f) (hrcp : ∀ f, i ≠ .iFrcpE f) (hrsq : ∀ f, i ≠ .iFrsqE f) :
    exec i s = .next (s.wrongKind i g p c) := by
  cases i
  case iIll f => exact absurd rfl (hill f)
  case iFrcpE f => exact absurd rfl (hrcp f)
  case iFrsqE f => exact absurd rfl (hrsq f)
  case iRredExp f | iRredLog f | iRredTrig f => exact congrArg Host.Outcome.next (runRred_task hs)
  case iLane f | iLutEv f | iLutIx f | iCvtSr f | iPack f | iUnpack f | iAmax f | iVsum f | iVmax f | iVmin f | iVscan f | iVperm f | iVsplat f |
    iVslide f | iVext f | iVins f | iFilt f | iCmpct f | iSplit f | iCat f | iVcnt f | iArgmx f | iSteer f | iMerge f | iGate f | iJoin f | iReord f |
    iSink f | iEor f | iItgen f | iCmpfw f | iTopkRp f | iRnorm f | iTagset f | iCtlOut f | iCtlWt f | iErrMk f | iFin f | iVld f | iVst f | iLdt f |
    iSts f | iGld f | iSst f | iRtCnt f | iRtMap f => exact congrArg Host.Outcome.next (runElem_task hs)
  all_goals cases hk <;> cases ht

/-- An issue that begins as a task's takes the trap of its word. -/
theorem exec_illegal_of_begins {i : Instr} {s : State} {w : Lane} {g p c : Nat} {bad : Ctx → Word → Word → Nat} (hb : IssueBegins i s bad)
    (hw : encodeWord i = some w) (hs : s.site = .task g p c) (hc : wordCause .task false w (s.litAt g p (s.ctx g p c)) [] ≠ 0) :
    exec i s = .next (s.trapAt g p c (wordCause .task false w (s.litAt g p (s.ctx g p c)) []) (w.setWidth 64)) := by
  have h := exec_of_stop hb (beginTask_illegal (i := i) (f := fieldsOfInstr i) (bad := bad) hs (by rwa [hw]))
  rwa [hw] at h

theorem opcode_of_encodeWord {i : Instr} {k : Enc} {w : Lane} (hk : i.enc = some k) (hw : encodeWord i = some w) :
    w.toNat / 2 ^ 24 = k.opcode := by
  simp only [encodeWord, hk, Option.some.injEq] at hw
  rw [← hw, k.opcode_of_word]

/-- The word of `ill` has cause 0x0C alone (R189). -/
theorem wordCause_of_iIll {f : Fields} {w : Lane} (hw : encodeWord (.iIll f) = some w) (lit : Word) :
    wordCause .task false w lit [] = 0x0C := by
  have hop : w.toNat / 2 ^ 24 = 0xFF := (opcode_of_encodeWord rfl hw).trans (by simp [Enc.opcode])
  simp only [wordCause, wordCauses_of_ill hop, List.foldl_nil]

/-- Settles O12: every issue asks for its word's causes first, whether the instruction has a task form, is `ill`, or belongs elsewhere. -/
theorem illegalWordTraps : Obligations.IllegalWordTraps := by
  intro s i w g p c hi hw hs hc
  cases ht : taskShape i with
  | some h =>
    obtain ⟨bad, hb, -⟩ := exists_issueBegins ht hs
    exact exec_illegal_of_begins hb hw hs hc
  | none =>
    by_cases hrcp : ∃ f, i = .iFrcpE f ∨ i = .iFrsqE f
    · obtain ⟨f, rfl | rfl⟩ := hrcp <;> exact exec_illegal_of_begins (bad := noBad) (issueBegins_of_site hs _ _ rfl) hw hs hc
    by_cases hill : ∃ f, i = .iIll f
    · obtain ⟨f, rfl⟩ := hill
      rw [wordCause_of_iIll hw]
      show execIll f s = _
      simp only [execIll, hs, hw, Option.getD_some, State.trapAt]
    · obtain ⟨k, hk⟩ := Option.isSome_iff_exists.1 hi
      have hx := exec_wrongKind hk ht hs (fun f h => hill ⟨f, h⟩) (fun f h => hrcp ⟨f, .inl h⟩) (fun f h => hrcp ⟨f, .inr h⟩)
      simp only [State.wrongKind, hw, Option.getD_some, State.trapAt] at hx
      exact hx

end Sys2Proof.Machine
end

section
namespace Sys2Proof.Machine
open State

/-! What an issue reads and takes (O8, R177, R184). -/

theorem nodup_srcChans (h : Shape) (f : Fields) : (srcChans h f).Nodup := nodup_eraseDups _

theorem chan_pop (x : Ctx) (k j : Nat) : (x.pop k).chan j = if j = k then { x.chan j with buf := (x.chan j).buf.tail } else x.chan j := by
  rw [Ctx.chan, Ctx.pop, NMap.get_set]
  by_cases hj : j = k
  · subst hj; rw [if_pos rfl, if_pos rfl]
  · rw [if_neg (Ne.symm hj), if_neg hj, Ctx.chan]

/-- Each channel of a list without repetitions gives up its first word, and the others keep theirs. -/
theorem chan_foldl_pop {l : List Nat} (hl : l.Nodup) (x : Ctx) (j : Nat) : (l.foldl Ctx.pop x).chan j =
    if j ∈ l then { x.chan j with buf := (x.chan j).buf.tail } else x.chan j := by
  induction l generalizing x with
  | nil => rfl
  | cons k l ih =>
    obtain ⟨hk, hl⟩ := List.nodup_cons.1 hl
    rw [List.foldl_cons, ih hl, chan_pop]
    by_cases hj : j = k
    · subst hj; simp [hk]
    · simp [hj]

/-- The value of a source select (R177), its channel's word as the head of the buffer. -/
theorem src_eq (x : Ctx) (lit : Word) (code : BitVec 5) : x.src lit code.toNat =
    if code.toNat < 24 then x.s[code.toNat]?.getD 0
    else if code.toNat < 28 then ((x.chan (code.toNat - 24)).buf.head?.map Tok.value).getD 0
    else if code = 28 then 0 else if code = 29 then x.tag.setWidth 64 else if code = 30 then x.fp else lit := by
  have h28 : (code = 28) ↔ code.toNat = 28 := BitVec.toNat_inj.symm
  have h29 : (code = 29) ↔ code.toNat = 29 := BitVec.toNat_inj.symm
  have h30 : (code = 30) ↔ code.toNat = 30 := BitVec.toNat_inj.symm
  simp only [Ctx.src, h28, h29, h30]
  cases (x.chan (code.toNat - 24)).buf <;> rfl

theorem opnd_eq (x : Ctx) (lit : Word) (u : FUse) (code : BitVec 5) : x.opnd lit u code = if u.isSrc then
    (if code.toNat < 24 then x.s[code.toNat]?.getD 0
     else if code.toNat < 28 then ((x.chan (code.toNat - 24)).buf.head?.map Tok.value).getD 0
     else if code = 28 then 0 else if code = 29 then x.tag.setWidth 64 else if code = 30 then x.fp else lit) else 0 := by
  rw [Ctx.opnd, src_eq]

/-- The thread and iteration that `~tagb` takes (R184): those of the word that srcB reads, where it reads a channel's. -/
theorem taskIn_tb (s : State) (h : Shape) (f : Fields) (g p c : Nat) : (s.taskIn h f g p c).tb =
    if h.b.isSrc = true ∧ 24 ≤ f.b.toNat ∧ f.b.toNat < 28 then
      ((s.ctx g p c).chan (f.b.toNat - 24)).buf.head?.map (fun k => (k.thread, k.iter)) else none := by
  show (if _ then _ else _) = _
  refine ite_congr ?_ (fun _ => ?_) fun _ => rfl
  · simp only [Bool.and_eq_true, decide_eq_true_eq]
    exact propext (by tauto)
  · cases ((s.ctx g p c).chan (f.b.toNat - 24)).buf <;> rfl

/-- The channels read are those that a source field names (R177). -/
theorem mem_srcChans_iff {h : Shape} {f : Fields} {k : Nat} : k ∈ srcChans h f ↔ k < 4 ∧ ((h.a.isSrc = true ∧ f.a.toNat = 24 + k) ∨
    (h.b.isSrc = true ∧ f.b.toNat = 24 + k) ∨ (h.d.isSrc = true ∧ f.d.toNat = 24 + k) ∨ (h.e.isSrc = true ∧ f.e.toNat = 24 + k)) := by
  rw [mem_srcChans]
  constructor
  · rintro ⟨c, h1, h2, rfl, hm⟩
    have hc : 24 + (c - 24) = c := by omega
    rw [hc]
    simp only [eq_comm (b := c)]
    exact ⟨by omega, hm⟩
  · rintro ⟨h1, hm⟩
    refine ⟨24 + k, by omega, by omega, by omega, ?_⟩
    simpa only [eq_comm (a := 24 + k)] using hm

/-- Settles O8, a lemma for each thing that an issue reads or takes. -/
theorem operandsOfAnIssue : Obligations.OperandsOfAnIssue := by
  intro s h f g p c x lit t
  refine ⟨opnd_eq x lit, rfl, rfl, rfl, rfl, rfl, chan_foldl_pop (nodup_srcChans h f) x, ?_, taskIn_tb s h f g p c, fun k th it ht => ?_,
    fun k ht => ?_, fun k => mem_srcChans_iff⟩
  · show { (srcChans h f).foldl Ctx.pop x with vc := x.vc } = x
    rw [foldl_pop]
  · simp only [tagAct, ht]
  · simp only [tagAct, ht]

end Sys2Proof.Machine
end

section
namespace Sys2Proof.Machine
open State

/-! What an instruction that writes a result leaves (O9, R22, R177, R184, R232, R243). -/

/-- A write of a destination select changes the register, the tag or the fp that it names (R177). -/
theorem write_eq (x : Ctx) (code : Nat) (v : Word) : x.write code v =
    { x with s := (x.write code v).s, tag := if code = 29 then v.setWidth 32 else x.tag, fp := if code = 30 then v else x.fp } := by
  unfold Ctx.write
  split_ifs <;> first | omega | rfl

theorem s_write (x : Ctx) (code : Nat) (v : Word) {k : Nat} (hk : k < 24) :
    (x.write code v).s[k]? = if k = code then some v else x.s[k]? := by
  unfold Ctx.write
  by_cases hc : code < 24
  · rw [if_pos hc, Vector.getElem?_setIfInBounds]
    simp only [eq_comm (a := code), hc, if_true]
  · have hkc : k ≠ code := by omega
    rw [if_neg hc, if_neg hkc]
    split_ifs <;> rfl

theorem write_none (x : Ctx) (v : Word) : x.write 28 v = x := rfl

/-- Going on to the next slot changes the pc and the repeat state, by those alone (R232). -/
theorem advance_of_registers (x : Ctx) (rs : Vector Word 24) (tag : Lane) (fp : Word) :
    ({ x with s := rs, tag := tag, fp := fp } : Ctx).advance =
      { x with s := rs, tag := tag, fp := fp, pc := x.advance.pc, rpt := x.advance.rpt } := by
  unfold Ctx.advance
  dsimp only
  split_ifs <;> rfl

/-- The select code of the second destination: z where dstB has another role. -/
def TIn.second (t : TIn) (dup : Bool) : Nat := if dup then t.f.e.toNat else 28

/-- The context with a result written to both destinations. -/
def TIn.written (t : TIn) (dup : Bool) (v : Word) : Ctx := (t.x.write t.f.d.toNat v).write (t.second dup) v

theorem written_eq (t : TIn) (dup : Bool) (v : Word) : t.written dup v =
    { t.x with s := (t.written dup v).s
               tag := if t.f.d.toNat = 29 ∨ t.second dup = 29 then v.setWidth 32 else t.x.tag
               fp := if t.f.d.toNat = 30 ∨ t.second dup = 30 then v else t.x.fp } := by
  rw [TIn.written, write_eq, write_eq t.x]
  split_ifs <;> first | omega | rfl

theorem s_written (t : TIn) (dup : Bool) (v : Word) {k : Nat} (hk : k < 24) :
    (t.written dup v).s[k]? = if k = t.f.d.toNat ∨ k = t.second dup then some v else t.x.s[k]? := by
  rw [TIn.written, s_write _ _ _ hk, s_write _ _ _ hk]
  split_ifs <;> first | omega | rfl

/-- Send a result to a destination select that names a channel (R22). -/
def State.sendTo (s : State) (t : TIn) (code : Nat) (v : Word) : State :=
  if 25 ≤ code && code < 28 then s.sendWord t (code - 24) v else s

/-- Writing a result is retiring with the registers written, then sending to dstA, then to dstB. -/
theorem putResult_eq (s : State) (t : TIn) (dup : Bool) (v : Word) : s.putResult t dup v =
    ((s.retire t (t.written dup v).advance).sendTo t t.f.d.toNat v).sendTo t (t.second dup) v := by
  cases dup <;> rfl

/-! What sending changes: the region on the tile, and of it the tokens of one arc. -/

/-- The token that a context sends (R22, R34, R184). -/
def TIn.sent (t : TIn) (v : Word) : Tok := tagAct t.f.t.toNat t.lit t.tb (Tok.scalar t.x.thread t.x.iter v)

/-- A region once a context has sent a word to a destination select. -/
def Region.sentTo (r : Region) (t : TIn) (code : Nat) (v : Word) : Region :=
  if 25 ≤ code ∧ code < 28 then
    match (t.x.chan (code - 24)).arc with
    | some a => r.push a (((NMap.find r.arcs a).map (·.slot)).getD 0) (t.sent v)
    | none => r
  else r

theorem sentTo_eq (r : Region) (t : TIn) (code : Nat) (v : Word) :
    r.sentTo t code v = { r with wires := (r.sentTo t code v).wires } := by
  unfold Region.sentTo
  split_ifs
  · cases (t.x.chan (code - 24)).arc <;> rfl
  · rfl

/-- The arc of the channel gets the word at its end, and no other arc changes. -/
theorem get_wires_sentTo (r : Region) (t : TIn) (code : Nat) (v : Word) (a : Nat) : NMap.get (r.sentTo t code v).wires a [] =
    NMap.get r.wires a [] ++ if 25 ≤ code ∧ code < 28 ∧ (t.x.chan (code - 24)).arc = some a then
      [⟨((NMap.find r.arcs a).map (·.slot)).getD 0, t.sent v, 0, 0⟩] else [] := by
  unfold Region.sentTo
  by_cases hc : 25 ≤ code ∧ code < 28
  · rw [if_pos hc]
    cases ha : (t.x.chan (code - 24)).arc with
    | none => simp
    | some b =>
      by_cases hb : b = a
      · subst hb; simp [Region.push, hc]
      · simp [Region.push, NMap.get_set, hb]
  · rw [if_neg hc, if_neg (fun h => hc ⟨h.1, h.2.1⟩), List.append_nil]

theorem sendWord_regions (s : State) (t : TIn) (k : Nat) (v : Word) : s.sendWord t k v = { s with regions := (s.sendWord t k v).regions } := by
  unfold State.sendWord
  split
  · exact updReg_regions ..
  · rfl

theorem sendTo_regions (s : State) (t : TIn) (code : Nat) (v : Word) : s.sendTo t code v = { s with regions := (s.sendTo t code v).regions } := by
  unfold State.sendTo
  split_ifs
  · exact sendWord_regions ..
  · rfl

theorem find_sendWord (s : State) (t : TIn) {code : Nat} (hc : 25 ≤ code ∧ code < 28) (v : Word) (j : Nat) :
    NMap.find (s.sendWord t (code - 24) v).regions j =
      if (s.tile t.g).inst = some j then (NMap.find s.regions j).map (fun r => r.sentTo t code v) else NMap.find s.regions j := by
  unfold State.sendWord
  cases ha : (t.x.chan (code - 24)).arc with
  | none =>
    have hid : (fun r : Region => r.sentTo t code v) = id := by funext r; simp only [Region.sentTo, if_pos hc, ha, id]
    simp only [hid, Option.map_id, id, ite_self]
  | some a =>
    cases hi : (s.tile t.g).inst with
    | none => simp
    | some i =>
      simp only [find_updReg, Option.some.injEq]
      split
      · next h =>
        subst h
        refine Option.map_congr fun r _ => ?_
        simp only [Region.sentTo, if_pos hc, ha]
        cases NMap.find r.arcs a <;> rfl
      · rfl

/-- Of the region records, sending changes the one on the tile. -/
theorem find_sendTo (s : State) (t : TIn) (code : Nat) (v : Word) (j : Nat) : NMap.find (s.sendTo t code v).regions j =
    if (s.tile t.g).inst = some j then (NMap.find s.regions j).map (fun r => r.sentTo t code v) else NMap.find s.regions j := by
  by_cases hc : 25 ≤ code ∧ code < 28
  · rw [State.sendTo, if_pos (by simpa using hc), find_sendWord s t hc]
  · have hid : (fun r : Region => r.sentTo t code v) = id := by funext r; simp only [Region.sentTo, if_neg hc, id]
    rw [State.sendTo, if_neg (by simpa using hc), hid, Option.map_id, id, ite_self]

@[simp] theorem tile_sendTo (s : State) (t : TIn) (code : Nat) (v : Word) (g : Nat) : (s.sendTo t code v).tile g = s.tile g := by
  rw [sendTo_regions]; rfl

theorem onlyCtx_sendTo (s : State) (t : TIn) (code : Nat) (v : Word) (g p c : Nat) : Claims.onlyCtx s (s.sendTo t code v) g p c := by
  rw [sendTo_regions]; exact onlyCtx_setRegions ..

/-! A result is written. -/

/-- The region on the tile after a result is written: its watchdog starts again, and its arcs carry what was sent. -/
def Region.resulted (r : Region) (t : TIn) (dup : Bool) (v : Word) : Region :=
  (({ r with wdg := 0 } : Region).sentTo t t.f.d.toNat v).sentTo t (t.second dup) v

theorem find_putResult (s : State) (t : TIn) (dup : Bool) (v : Word) (j : Nat) : NMap.find (s.putResult t dup v).regions j =
    if (s.tile t.g).inst = some j then (NMap.find s.regions j).map (fun r => r.resulted t dup v) else NMap.find s.regions j := by
  have htile : ((s.retire t (t.written dup v).advance).tile t.g).inst = (s.tile t.g).inst := by
    simp only [State.retire, tile_progressAt, inst_updCtx, inst_updTp]
  have hret : NMap.find (s.retire t (t.written dup v).advance).regions j =
      if (s.tile t.g).inst = some j then (NMap.find s.regions j).map (fun r => { r with wdg := 0 }) else NMap.find s.regions j :=
    (retireFrame s t (t.written dup v).advance).2.1 j
  rw [putResult_eq, find_sendTo, find_sendTo, tile_sendTo, htile, hret]
  split
  · simp only [Option.map_map]; rfl
  · rfl

theorem resulted_eq (r : Region) (t : TIn) (dup : Bool) (v : Word) :
    r.resulted t dup v = { r with wdg := 0, wires := (r.resulted t dup v).wires } := by
  rw [Region.resulted, sentTo_eq, sentTo_eq { r with wdg := 0 }]

theorem resulted_keeps (r : Region) (t : TIn) (dup : Bool) (v : Word) :
    { r.resulted t dup v with wdg := r.wdg, wires := r.wires } = r := by
  rw [resulted_eq]

/-- The channel words that a result sends on arc `a`, in order. -/
theorem get_wires_resulted (r : Region) (t : TIn) (dup : Bool) (v : Word) (a : Nat) : NMap.get (r.resulted t dup v).wires a [] =
    NMap.get r.wires a [] ++ ([t.f.d.toNat, t.second dup].filter (fun k => decide (25 ≤ k ∧ k < 28 ∧ (t.x.chan (k - 24)).arc = some a))).map
      (fun _ => ⟨((NMap.find r.arcs a).map (·.slot)).getD 0, t.sent v, 0, 0⟩) := by
  have harcs : (({ r with wdg := 0 } : Region).sentTo t t.f.d.toNat v).arcs = r.arcs := by rw [sentTo_eq]
  rw [Region.resulted, get_wires_sentTo, get_wires_sentTo, harcs, List.append_assoc]
  simp only [List.filter_cons, List.filter_nil, decide_eq_true_eq]
  split_ifs <;> rfl

theorem mem_arcOf {x : Ctx} {code a : Nat} : a ∈ Claims.arcOf x code ↔ 25 ≤ code ∧ code < 28 ∧ (x.chan (code - 24)).arc = some a := by
  unfold Claims.arcOf
  split_ifs with hc
  · simp [hc]
  · simp only [List.not_mem_nil, false_iff]; exact fun h => hc ⟨h.1, h.2.1⟩

/-- No arc changes but those of the channels that the destinations name. -/
theorem wires_resulted_other (r : Region) (t : TIn) (dup : Bool) (v : Word) {a : Nat}
    (ha : a ∉ Claims.arcOf t.x t.f.d.toNat ++ Claims.arcOf t.x (t.second dup)) :
    NMap.get (r.resulted t dup v).wires a [] = NMap.get r.wires a [] := by
  simp only [List.mem_append, mem_arcOf, not_or] at ha
  simp [get_wires_resulted, ha.1, ha.2]

theorem sentTo_of_no_channel (r : Region) (t : TIn) {code : Nat} (v : Word) (hc : code < 25 ∨ 28 ≤ code) : r.sentTo t code v = r := by
  rw [Region.sentTo, if_neg (by omega)]

theorem onlyArcs_putResult (s : State) (t : TIn) (dup : Bool) (v : Word) :
    Claims.onlyArcs s (s.putResult t dup v) t.g (Claims.arcOf t.x t.f.d.toNat ++ Claims.arcOf t.x (t.second dup)) := by
  intro j
  rw [find_putResult]
  by_cases hi : (s.tile t.g).inst = some j
  · rw [if_pos hi]
    cases NMap.find s.regions j with
    | none => trivial
    | some r =>
      exact ⟨resulted_keeps r t dup v, fun a ha => wires_resulted_other r t dup v ha, fun h => absurd hi h⟩
  · rw [if_neg hi]
    cases NMap.find s.regions j with
    | none => trivial
    | some r => exact ⟨rfl, fun _ _ => rfl, fun _ => rfl⟩

/-- The context after its result is written. -/
theorem ctx_putResult (s : State) (t : TIn) (dup : Bool) (v : Word) : (s.putResult t dup v).ctx t.g t.p t.c =
    { t.x with s := (t.written dup v).s
               tag := if t.f.d.toNat = 29 ∨ t.second dup = 29 then v.setWidth 32 else t.x.tag
               fp := if t.f.d.toNat = 30 ∨ t.second dup = 30 then v else t.x.fp
               pc := t.x.advance.pc, rpt := t.x.advance.rpt, work := t.x.work + 1, status := .runnable, skip := t.x.skip && t.x.steward } := by
  have hret := (retireFrame s t (t.written dup v).advance).2.2.1
  have hctx : (s.putResult t dup v).ctx t.g t.p t.c = (s.retire t (t.written dup v).advance).ctx t.g t.p t.c := by
    rw [putResult_eq, sendTo_regions, sendTo_regions]; rfl
  have hadv : (t.written dup v).advance = _ := (congrArg Ctx.advance (written_eq t dup v)).trans (advance_of_registers ..)
  rw [hctx, hret, hadv]

/-- Settles O9: the frame of retiring and of sending, and what each leaves. -/
theorem resultFrame : Obligations.ResultFrame := by
  intro s t dup v s' d e x'
  obtain ⟨hframe, -, -, hlast⟩ := retireFrame s t (t.written dup v).advance
  have hx : x' = _ := ctx_putResult s t dup v
  have hs' : s' = ((s.retire t (t.written dup v).advance).sendTo t d v).sendTo t e v := putResult_eq s t dup v
  refine ⟨?_, fun k hk => ?_, by rw [hx]; rfl, by rw [hx]; rfl, by rw [hx], by rw [hx], by rw [hx], by rw [hx], by rw [hx], by rw [hx], ?_,
    fun hd he j => ?_, onlyArcs_putResult s t dup v, fun a j r hi hr => ?_⟩
  · rw [hs']
    exact onlyCtx_trans (onlyCtx_trans hframe (onlyCtx_sendTo ..)) (onlyCtx_sendTo ..)
  · rw [hx]; exact s_written t dup v hk
  · rw [hs', sendTo_regions, sendTo_regions]; exact hlast
  · have hres : (fun r : Region => r.resulted t dup v) = fun r => { r with wdg := 0 } := by
      funext r
      exact (sentTo_of_no_channel _ t v he).trans (sentTo_of_no_channel _ t v hd)
    exact (find_putResult s t dup v j).trans (by rw [hres])
  · exact ⟨r.resulted t dup v, (find_putResult s t dup v j).trans (by rw [if_pos hi, hr]; rfl), get_wires_resulted r t dup v a⟩

end Sys2Proof.Machine
end
